-- ==== Sys2Proof/Word.lean ====
section
/-!
DEFINITION. The word types of the Polrid PL-2 and their plainest arithmetic (R4: little-endian).
-/
namespace Sys2Proof

/-- A 64-bit register value or address (R10). -/
abbrev Word := BitVec 64
/-- An 8-bit byte. -/
abbrev Byte := BitVec 8
/-- A 512-byte accumulator row (R155). -/
abbrev Row := BitVec 4096
/-- A 512-bit mask register or set of byte enables (R156). -/
abbrev Mask := BitVec 512

/-- A general register number. -/
abbrev Reg := Fin 32
/-- A vector register number inside the window (R155). -/
abbrev VReg := Fin 32
/-- A predicate register number. -/
abbrev PReg := Fin 8
/-- A mask register number. -/
abbrev MReg := Fin 8
/-- A core number: die × 64 + cluster × 8 + core (R88). -/
abbrev CoreId := Fin 256

end Sys2Proof
end

