-- ==== Sys2Proof/Syntax.lean ====
section
/-!
DEFINITION. The instructions of spec/opcode_table.json as one inductive type, with the field codes that the formats share
(R37, R38), the fields every 32-bit instruction carries (R16, R17, R35) and the messages that the events carry.
-/
namespace Sys2Proof

/-- The four sequencers of a core, in ring order (R81). -/
inductive Sq where
  | X | L | C | S
  deriving DecidableEq, Repr

/-- The `sz` code of a memory operand (R38). -/
inductive Sz where
  | b | h | w | d
  deriving DecidableEq, Repr

/-- The retention hint (R38). -/
inductive Hint where
  | default | stream | sticky | bypass
  deriving DecidableEq, Repr

/-- The scope of a fence (R38). -/
inductive Scope where
  | core | cluster | die | package | pod
  deriving DecidableEq, Repr

/-- The engine class of a path (R38). -/
inductive PathClass where
  | core | copy | gath | mat | kvx | bfill | remote
  deriving DecidableEq, Repr

/-- The condition of CMP and CMPI (R66). -/
inductive Cc where
  | eq | ne | lt | ge | le | gt | ltu | geu | leu | gtu | tst | tstn
  deriving DecidableEq, Repr

/-- The condition of VCMP (R164). -/
inductive Vcc where
  | eq | ne | lt | ge | le | gt | ltu | geu | leu | gtu | un | ord
  deriving DecidableEq, Repr

/-- What every 32-bit instruction but BLK carries beside its operands: the latency code (R25), the token bits (R35) and, for
S = 1, its mask word (R17, R43). -/
structure Ctl where
  lat : BitVec 3
  wf : Bool
  sf : Bool
  wb : Bool
  sb : Bool
  safe : Option (BitVec 32)
  deriving DecidableEq, Repr

/-- LAT 0, no tokens, no safe point. -/
def Ctl.plain : Ctl := ⟨0, false, false, false, false, none⟩

/-- A flit as it arrives at a receive slot (R443): the slot, and its 144 bytes, header first and byte 0 lowest. -/
structure Flit where
  slot : Fin 256
  wire : BitVec 1152
  deriving DecidableEq, Repr

/-- Where an access of the host arrives: the port, and the physical address (R210, R230). -/
structure HostPlace where
  port : Nat
  pa : Nat
  deriving DecidableEq, Repr

/-- Data that the host sends: its bytes, and whether it signals poison (R394). -/
structure HostData where
  bytes : List (BitVec 8)
  bad : Bool
  deriving DecidableEq, Repr

/-- Signed data of the firmware store (R419, R477): its bytes, the public key as the coordinates of a point of P-384, and the signature. -/
structure Signed where
  data : List (BitVec 8)
  keyX : Nat
  keyY : Nat
  r : Nat
  s : Nat
  deriving DecidableEq, Repr, Inhabited

/-- What the firmware store holds (R419, R421): one firmware image, with the bitstream of the dispatch fabric. -/
structure Firmware where
  image : Signed
  bitstream : Signed
  deriving DecidableEq, Repr, Inhabited

/-- The instructions and device steps: one constructor for each row of spec/opcode_table.json, in its order (`x` holds the
latency code, the token bits and the mask word of a 32-bit instruction, R16, R17, R35; steps without an encoding carry
what identifies them). -/
inductive Instr where
  /-- BLK, R19. -/
  | blk (i : Bool) (r : BitVec 7) (n : BitVec 9)
  /-- ADD, R59. -/
  | add (d : Reg) (a : Reg) (b : Reg) (x : Ctl)
  /-- SUB, R59. -/
  | sub (d : Reg) (a : Reg) (b : Reg) (x : Ctl)
  /-- AND, R59. -/
  | and (d : Reg) (a : Reg) (b : Reg) (x : Ctl)
  /-- OR, R59. -/
  | or (d : Reg) (a : Reg) (b : Reg) (x : Ctl)
  /-- XOR, R59. -/
  | xor (d : Reg) (a : Reg) (b : Reg) (x : Ctl)
  /-- ANDN, R59. -/
  | andn (d : Reg) (a : Reg) (b : Reg) (x : Ctl)
  /-- SLL, R59. -/
  | sll (d : Reg) (a : Reg) (b : Reg) (x : Ctl)
  /-- SRL, R59. -/
  | srl (d : Reg) (a : Reg) (b : Reg) (x : Ctl)
  /-- SRA, R59. -/
  | sra (d : Reg) (a : Reg) (b : Reg) (x : Ctl)
  /-- ROR, R59. -/
  | ror (d : Reg) (a : Reg) (b : Reg) (x : Ctl)
  /-- FSHL, R60. -/
  | fshl (d : Reg) (a : Reg) (b : Reg) (x : Ctl)
  /-- FSHR, R60. -/
  | fshr (d : Reg) (a : Reg) (b : Reg) (x : Ctl)
  /-- MUL, R59. -/
  | mul (d : Reg) (a : Reg) (b : Reg) (x : Ctl)
  /-- MULH, R59. -/
  | mulh (d : Reg) (a : Reg) (b : Reg) (x : Ctl)
  /-- MULHU, R59. -/
  | mulhu (d : Reg) (a : Reg) (b : Reg) (x : Ctl)
  /-- FNS, R64. -/
  | fns (d : Reg) (a : Reg) (b : Reg) (x : Ctl)
  /-- DIV, R61. -/
  | div (d : Reg) (a : Reg) (b : Reg) (x : Ctl)
  /-- DIVU, R61. -/
  | divu (d : Reg) (a : Reg) (b : Reg) (x : Ctl)
  /-- REM, R61. -/
  | rem (d : Reg) (a : Reg) (b : Reg) (x : Ctl)
  /-- REMU, R61. -/
  | remu (d : Reg) (a : Reg) (b : Reg) (x : Ctl)
  /-- MIN, R59. -/
  | min (d : Reg) (a : Reg) (b : Reg) (x : Ctl)
  /-- MAX, R59. -/
  | max (d : Reg) (a : Reg) (b : Reg) (x : Ctl)
  /-- MINU, R59. -/
  | minu (d : Reg) (a : Reg) (b : Reg) (x : Ctl)
  /-- MAXU, R59. -/
  | maxu (d : Reg) (a : Reg) (b : Reg) (x : Ctl)
  /-- ADDI, R62. -/
  | addi (d : Reg) (a : Reg) (i : BitVec 7) (x : Ctl)
  /-- ANDI, R62. -/
  | andi (d : Reg) (a : Reg) (i : BitVec 7) (x : Ctl)
  /-- SLLI, R62. -/
  | slli (d : Reg) (a : Reg) (h : BitVec 6) (x : Ctl)
  /-- SRLI, R62. -/
  | srli (d : Reg) (a : Reg) (h : BitVec 6) (x : Ctl)
  /-- SRAI, R62. -/
  | srai (d : Reg) (a : Reg) (h : BitVec 6) (x : Ctl)
  /-- RORI, R62. -/
  | rori (d : Reg) (a : Reg) (h : BitVec 6) (x : Ctl)
  /-- LI, R62. -/
  | li (d : Reg) (i : BitVec 12) (x : Ctl)
  /-- LDC, R63. -/
  | ldc (d : Reg) (i : BitVec 12) (x : Ctl)
  /-- POPC, R64. -/
  | popc (d : Reg) (a : Reg) (x : Ctl)
  /-- CLZ, R64. -/
  | clz (d : Reg) (a : Reg) (x : Ctl)
  /-- CTZ, R64. -/
  | ctz (d : Reg) (a : Reg) (x : Ctl)
  /-- BREV, R64. -/
  | brev (d : Reg) (a : Reg) (x : Ctl)
  /-- BSWAP, R64. -/
  | bswap (d : Reg) (a : Reg) (x : Ctl)
  /-- SEXT_B, R64. -/
  | sextB (d : Reg) (a : Reg) (x : Ctl)
  /-- SEXT_H, R64. -/
  | sextH (d : Reg) (a : Reg) (x : Ctl)
  /-- SEXT_W, R64. -/
  | sextW (d : Reg) (a : Reg) (x : Ctl)
  /-- ZEXT_B, R64. -/
  | zextB (d : Reg) (a : Reg) (x : Ctl)
  /-- ZEXT_H, R64. -/
  | zextH (d : Reg) (a : Reg) (x : Ctl)
  /-- ZEXT_W, R64. -/
  | zextW (d : Reg) (a : Reg) (x : Ctl)
  /-- BFX, R65. -/
  | bfx (d : Reg) (a : Reg) (b : Reg) (x : Ctl)
  /-- BFXS, R65. -/
  | bfxs (d : Reg) (a : Reg) (b : Reg) (x : Ctl)
  /-- BFI, R65. -/
  | bfi (d : Reg) (a : Reg) (b : Reg) (x : Ctl)
  /-- CMP, R66. -/
  | cmp (p : PReg) (a : Reg) (b : Reg) (c : Cc) (x : Ctl)
  /-- CMPI, R66. -/
  | cmpi (p : PReg) (a : Reg) (i : BitVec 5) (c : Cc) (x : Ctl)
  /-- SEL, R67. -/
  | sel (d : Reg) (a : Reg) (p : PReg) (x : Ctl)
  /-- SEL_N, R67. -/
  | selN (d : Reg) (a : Reg) (p : PReg) (x : Ctl)
  /-- PAND, R68. -/
  | pand (p : PReg) (q : PReg) (r : PReg) (x : Ctl)
  /-- POR, R68. -/
  | por (p : PReg) (q : PReg) (r : PReg) (x : Ctl)
  /-- PXOR, R68. -/
  | pxor (p : PReg) (q : PReg) (r : PReg) (x : Ctl)
  /-- PANDN, R68. -/
  | pandn (p : PReg) (q : PReg) (r : PReg) (x : Ctl)
  /-- PNOT, R68. -/
  | pnot (p : PReg) (q : PReg) (x : Ctl)
  /-- PSETG, R68. -/
  | psetg (p : PReg) (a : Reg) (x : Ctl)
  /-- PRD, R69. -/
  | prd (d : Reg) (x : Ctl)
  /-- BT, R70. -/
  | bt (p : PReg) (o : BitVec 13) (x : Ctl)
  /-- BF, R70. -/
  | bf (p : PReg) (o : BitVec 13) (x : Ctl)
  /-- J, R71. -/
  | j (o : BitVec 17) (x : Ctl)
  /-- CALL, R71. -/
  | call (o : BitVec 17) (x : Ctl)
  /-- JR, R72. -/
  | jr (a : Reg) (x : Ctl)
  /-- CALLR, R72. -/
  | callr (d : Reg) (a : Reg) (x : Ctl)
  /-- RET, R72. -/
  | ret (a : Reg) (x : Ctl)
  /-- BRK, R22. -/
  | brk (x : Ctl)
  /-- LCUT, R76. -/
  | lcut (x : Ctl)
  /-- MFS, R77. -/
  | mfs (d : Reg) (r : BitVec 12) (x : Ctl)
  /-- MTS, R78. -/
  | mts (d : Reg) (r : BitVec 12) (x : Ctl)
  /-- MTS_FPSTAT, R78. -/
  | mtsFpstat (d : Reg) (x : Ctl)
  /-- MTS_ATOMFLAGS, R250. -/
  | mtsAtomflags (d : Reg) (x : Ctl)
  /-- MTS_ENGERR, R291. -/
  | mtsEngerr (d : Reg) (x : Ctl)
  /-- MTS_DERR, R400. -/
  | mtsDerr (d : Reg) (x : Ctl)
  /-- MTS_RPSTAT, R360. -/
  | mtsRpstat (d : Reg) (x : Ctl)
  /-- SLD, R79. -/
  | sld (d : Reg) (a : Reg) (z : Sz) (o : BitVec 5) (x : Ctl)
  /-- SLDS, R79. -/
  | slds (d : Reg) (a : Reg) (z : Sz) (o : BitVec 5) (x : Ctl)
  /-- SST, R79. -/
  | sst (d : Reg) (a : Reg) (z : Sz) (o : BitVec 5) (x : Ctl)
  /-- TRAP, R386. -/
  | trap (a : Reg) (x : Ctl)
  /-- RTE, R387. -/
  | rte (x : Ctl)
  /-- CTXSV, R388. -/
  | ctxsv (d : Reg) (a : Reg) (x : Ctl)
  /-- CTXRS, R389. -/
  | ctxrs (d : Reg) (a : Reg) (x : Ctl)
  /-- SNAPRD, R390. -/
  | snaprd (d : Reg) (a : Reg) (x : Ctl)
  /-- WFE, R391. -/
  | wfe (d : Reg) (a : Reg) (x : Ctl)
  /-- BAR, R109. -/
  | bar (x : Ctl)
  /-- BARRIER_RELEASE, R108. -/
  | barrierRelease (launch : Nat)
  /-- QUIES, R106. -/
  | quies (d : Reg) (a : Reg) (x : Ctl)
  /-- TKCNT, R111. -/
  | tkcnt (d : Reg) (x : Ctl)
  /-- WLPUSH, R103. -/
  | wlpush (d : Reg) (a : Reg) (x : Ctl)
  /-- WLPOP, R104. -/
  | wlpop (d : Reg) (a : Reg) (x : Ctl)
  /-- TAPEB, R346. -/
  | tapeb (d : Reg) (x : Ctl)
  /-- TAPEE, R363. -/
  | tapee (d : Reg) (x : Ctl)
  /-- TGUARD, R362. -/
  | tguard (d : Reg) (a : Reg) (x : Ctl)
  /-- TAPEINV, R364. -/
  | tapeinv (a : Reg) (x : Ctl)
  /-- TAPEQ, R365. -/
  | tapeq (d : Reg) (a : Reg) (x : Ctl)
  /-- VADD, R162. -/
  | vadd (v : VReg) (a : VReg) (b : VReg) (x : Ctl)
  /-- VSUB, R162. -/
  | vsub (v : VReg) (a : VReg) (b : VReg) (x : Ctl)
  /-- VMUL, R162. -/
  | vmul (v : VReg) (a : VReg) (b : VReg) (x : Ctl)
  /-- VFMA, R162. -/
  | vfma (v : VReg) (a : VReg) (b : VReg) (x : Ctl)
  /-- VMIN, R163. -/
  | vmin (v : VReg) (a : VReg) (b : VReg) (x : Ctl)
  /-- VMAX, R163. -/
  | vmax (v : VReg) (a : VReg) (b : VReg) (x : Ctl)
  /-- VMINN, R163. -/
  | vminn (v : VReg) (a : VReg) (b : VReg) (x : Ctl)
  /-- VMAXN, R163. -/
  | vmaxn (v : VReg) (a : VReg) (b : VReg) (x : Ctl)
  /-- VAND, R162. -/
  | vand (v : VReg) (a : VReg) (b : VReg) (x : Ctl)
  /-- VOR, R162. -/
  | vor (v : VReg) (a : VReg) (b : VReg) (x : Ctl)
  /-- VXOR, R162. -/
  | vxor (v : VReg) (a : VReg) (b : VReg) (x : Ctl)
  /-- VANDN, R162. -/
  | vandn (v : VReg) (a : VReg) (b : VReg) (x : Ctl)
  /-- VSLL, R162. -/
  | vsll (v : VReg) (a : VReg) (b : VReg) (x : Ctl)
  /-- VSRL, R162. -/
  | vsrl (v : VReg) (a : VReg) (b : VReg) (x : Ctl)
  /-- VSRA, R162. -/
  | vsra (v : VReg) (a : VReg) (b : VReg) (x : Ctl)
  /-- VFSHL, R162. -/
  | vfshl (v : VReg) (a : VReg) (b : VReg) (x : Ctl)
  /-- VFSHR, R162. -/
  | vfshr (v : VReg) (a : VReg) (b : VReg) (x : Ctl)
  /-- VSEL, R162. -/
  | vsel (v : VReg) (a : VReg) (b : VReg) (x : Ctl)
  /-- VPERM, R162. -/
  | vperm (v : VReg) (a : VReg) (b : VReg) (x : Ctl)
  /-- VABSD, R162. -/
  | vabsd (v : VReg) (a : VReg) (b : VReg) (x : Ctl)
  /-- VCMP, R164. -/
  | vcmp (m : MReg) (a : VReg) (b : VReg) (c : Vcc) (x : Ctl)
  /-- VNEG, R166. -/
  | vneg (v : VReg) (a : VReg) (x : Ctl)
  /-- VABS, R166. -/
  | vabs (v : VReg) (a : VReg) (x : Ctl)
  /-- VMOV, R166. -/
  | vmov (v : VReg) (a : VReg) (x : Ctl)
  /-- VPOPC, R166. -/
  | vpopc (v : VReg) (a : VReg) (x : Ctl)
  /-- VCLZ, R166. -/
  | vclz (v : VReg) (a : VReg) (x : Ctl)
  /-- VCTZ, R166. -/
  | vctz (v : VReg) (a : VReg) (x : Ctl)
  /-- VBREV, R166. -/
  | vbrev (v : VReg) (a : VReg) (x : Ctl)
  /-- VSQRT, R167. -/
  | vsqrt (v : VReg) (a : VReg) (x : Ctl)
  /-- VRCP, R167. -/
  | vrcp (v : VReg) (a : VReg) (x : Ctl)
  /-- VRSQRT, R167. -/
  | vrsqrt (v : VReg) (a : VReg) (x : Ctl)
  /-- VEXP, R167. -/
  | vexp (v : VReg) (a : VReg) (x : Ctl)
  /-- VEXP2, R167. -/
  | vexp2 (v : VReg) (a : VReg) (x : Ctl)
  /-- VLOG, R167. -/
  | vlog (v : VReg) (a : VReg) (x : Ctl)
  /-- VLOG2, R167. -/
  | vlog2 (v : VReg) (a : VReg) (x : Ctl)
  /-- VTANH, R167. -/
  | vtanh (v : VReg) (a : VReg) (x : Ctl)
  /-- VSIGM, R167. -/
  | vsigm (v : VReg) (a : VReg) (x : Ctl)
  /-- VSIN, R167. -/
  | vsin (v : VReg) (a : VReg) (x : Ctl)
  /-- VCOS, R167. -/
  | vcos (v : VReg) (a : VReg) (x : Ctl)
  /-- VCVT, R169. -/
  | vcvt (v : VReg) (a : VReg) (k : BitVec 3) (r : BitVec 2) (p : BitVec 2) (x : Ctl)
  /-- VCVTEF, R170. -/
  | vcvtef (v : VReg) (a : VReg) (e : VReg) (f : BitVec 2) (x : Ctl)
  /-- VRSUM, R171. -/
  | vrsum (v : VReg) (a : VReg) (g : BitVec 3) (x : Ctl)
  /-- VRMAX, R171. -/
  | vrmax (v : VReg) (a : VReg) (g : BitVec 3) (x : Ctl)
  /-- VRMIN, R171. -/
  | vrmin (v : VReg) (a : VReg) (g : BitVec 3) (x : Ctl)
  /-- VRMAXU, R171. -/
  | vrmaxu (v : VReg) (a : VReg) (g : BitVec 3) (x : Ctl)
  /-- VRMINU, R171. -/
  | vrminu (v : VReg) (a : VReg) (g : BitVec 3) (x : Ctl)
  /-- VRMAXA, R171. -/
  | vrmaxa (v : VReg) (a : VReg) (g : BitVec 3) (x : Ctl)
  /-- VROR, R171. -/
  | vror (v : VReg) (a : VReg) (g : BitVec 3) (x : Ctl)
  /-- VRAND, R171. -/
  | vrand (v : VReg) (a : VReg) (g : BitVec 3) (x : Ctl)
  /-- VRXOR, R171. -/
  | vrxor (v : VReg) (a : VReg) (g : BitVec 3) (x : Ctl)
  /-- VSCAN, R172. -/
  | vscan (v : VReg) (a : VReg) (g : BitVec 3) (x : Ctl)
  /-- VSCANMAX, R172. -/
  | vscanmax (v : VReg) (a : VReg) (g : BitVec 3) (x : Ctl)
  /-- VCMPR, R173. -/
  | vcmpr (v : VReg) (a : VReg) (x : Ctl)
  /-- VEXPD, R173. -/
  | vexpd (v : VReg) (a : VReg) (x : Ctl)
  /-- VBCAST, R173. -/
  | vbcast (v : VReg) (a : Reg) (x : Ctl)
  /-- VEXTR, R173. -/
  | vextr (d : Reg) (v : VReg) (x : Ctl)
  /-- VFROMM, R173. -/
  | vfromm (v : VReg) (m : MReg) (x : Ctl)
  /-- VTOM, R173. -/
  | vtom (m : MReg) (a : VReg) (x : Ctl)
  /-- VIOTA, R173. -/
  | viota (v : VReg) (x : Ctl)
  /-- VOSM, R175. -/
  | vosm (v : VReg) (a : VReg) (b : VReg) (x : Ctl)
  /-- VLSE, R176. -/
  | vlse (v : VReg) (a : VReg) (k : BitVec 5) (x : Ctl)
  /-- VDEFER, R105. -/
  | vdefer (g : Reg) (a : VReg) (b : VReg) (x : Ctl)
  /-- VCONF, R325. -/
  | vconf (m : MReg) (a : VReg) (b : VReg) (x : Ctl)
  /-- MAND, R165. -/
  | mand (m : MReg) (n : MReg) (o : MReg) (x : Ctl)
  /-- MOR, R165. -/
  | mor (m : MReg) (n : MReg) (o : MReg) (x : Ctl)
  /-- MXOR, R165. -/
  | mxor (m : MReg) (n : MReg) (o : MReg) (x : Ctl)
  /-- MANDN, R165. -/
  | mandn (m : MReg) (n : MReg) (o : MReg) (x : Ctl)
  /-- MNOT, R165. -/
  | mnot (m : MReg) (n : MReg) (x : Ctl)
  /-- MSETL, R165. -/
  | msetl (m : MReg) (a : Reg) (x : Ctl)
  /-- MCNT, R165. -/
  | mcnt (n : MReg) (a : Reg) (x : Ctl)
  /-- MFFS, R165. -/
  | mffs (n : MReg) (a : Reg) (x : Ctl)
  /-- VLD, R177. -/
  | vld (v : VReg) (a : Reg) (o : BitVec 5) (x : Ctl)
  /-- VST, R177. -/
  | vst (v : VReg) (a : Reg) (o : BitVec 5) (x : Ctl)
  /-- VSTU, R177. -/
  | vstu (v : VReg) (a : Reg) (o : BitVec 5) (x : Ctl)
  /-- MMA, R187. -/
  | mma (a : Reg) (b : Reg) (x : Ctl)
  /-- MMAS, R189. -/
  | mmas (d : Reg) (a : Reg) (b : Reg) (x : Ctl)
  /-- MGANG, R191. -/
  | mgang (d : Reg) (a : Reg) (b : Reg) (x : Ctl)
  /-- MZERO, R192. -/
  | mzero (x : Ctl)
  /-- MDRAIN, R193. -/
  | mdrain (d : Reg) (a : Reg) (b : Reg) (x : Ctl)
  /-- MCFG, R192. -/
  | mcfg (a : Reg) (x : Ctl)
  /-- MSAVE, R195. -/
  | msave (a : Reg) (b : Reg) (x : Ctl)
  /-- MLOAD, R195. -/
  | mload (a : Reg) (b : Reg) (x : Ctl)
  /-- LD, R242. -/
  | ld (d : Reg) (a : Reg) (z : Sz) (h : Hint) (o : BitVec 3) (x : Ctl)
  /-- LDS, R242. -/
  | lds (d : Reg) (a : Reg) (z : Sz) (h : Hint) (o : BitVec 3) (x : Ctl)
  /-- LD_ACQ, R244. -/
  | ldAcq (d : Reg) (a : Reg) (z : Sz) (h : Hint) (o : BitVec 3) (x : Ctl)
  /-- ST, R242. -/
  | st (d : Reg) (a : Reg) (z : Sz) (h : Hint) (o : BitVec 3) (x : Ctl)
  /-- ST_REL, R244. -/
  | stRel (d : Reg) (a : Reg) (z : Sz) (h : Hint) (o : BitVec 3) (x : Ctl)
  /-- VLDG, R246. -/
  | vldg (v : VReg) (a : Reg) (h : Hint) (o : BitVec 3) (x : Ctl)
  /-- VLDG_ACQ, R246. -/
  | vldgAcq (v : VReg) (a : Reg) (h : Hint) (o : BitVec 3) (x : Ctl)
  /-- VSTG, R246. -/
  | vstg (v : VReg) (a : Reg) (h : Hint) (o : BitVec 3) (x : Ctl)
  /-- VSTG_REL, R246. -/
  | vstgRel (v : VReg) (a : Reg) (h : Hint) (o : BitVec 3) (x : Ctl)
  /-- AMO_ADD, R248. -/
  | amoAdd (d : Reg) (a : Reg) (r : Bool) (z : Sz) (x : Ctl)
  /-- AMO_AND, R248. -/
  | amoAnd (d : Reg) (a : Reg) (r : Bool) (z : Sz) (x : Ctl)
  /-- AMO_OR, R248. -/
  | amoOr (d : Reg) (a : Reg) (r : Bool) (z : Sz) (x : Ctl)
  /-- AMO_XOR, R248. -/
  | amoXor (d : Reg) (a : Reg) (r : Bool) (z : Sz) (x : Ctl)
  /-- AMO_MIN, R248. -/
  | amoMin (d : Reg) (a : Reg) (r : Bool) (z : Sz) (x : Ctl)
  /-- AMO_MAX, R248. -/
  | amoMax (d : Reg) (a : Reg) (r : Bool) (z : Sz) (x : Ctl)
  /-- AMO_MINU, R248. -/
  | amoMinu (d : Reg) (a : Reg) (r : Bool) (z : Sz) (x : Ctl)
  /-- AMO_MAXU, R248. -/
  | amoMaxu (d : Reg) (a : Reg) (r : Bool) (z : Sz) (x : Ctl)
  /-- AMO_SWAP, R248. -/
  | amoSwap (d : Reg) (a : Reg) (r : Bool) (z : Sz) (x : Ctl)
  /-- AMO_CAS, R248. -/
  | amoCas (d : Reg) (a : Reg) (r : Bool) (z : Sz) (x : Ctl)
  /-- AMO_FADD, R249. -/
  | amoFadd (d : Reg) (a : Reg) (r : Bool) (z : Sz) (x : Ctl)
  /-- PLNST_OR, R251. -/
  | plnstOr (d : Reg) (a : Reg) (x : Ctl)
  /-- PLNST_AND, R251. -/
  | plnstAnd (d : Reg) (a : Reg) (x : Ctl)
  /-- FENCE, R235. -/
  | fence (s : Scope) (x : Ctl)
  /-- FENCEX, R234. -/
  | fencex (s : Scope) (c : PathClass) (e : PathClass) (x : Ctl)
  /-- PUBL, R254. -/
  | publ (s : Scope) (x : Ctl)
  /-- CFLUSH, R255. -/
  | cflush (a : Reg) (x : Ctl)
  /-- CINV, R255. -/
  | cinv (a : Reg) (x : Ctl)
  /-- CPREF, R256. -/
  | cpref (k : Bool) (h : Hint) (a : Reg) (x : Ctl)
  /-- NTLD, R258. -/
  | ntld (d : Reg) (a : Reg) (b : Reg) (x : Ctl)
  /-- NTLOCK, R259. -/
  | ntlock (a : Reg) (x : Ctl)
  /-- NTUNL, R259. -/
  | ntunl (a : Reg) (x : Ctl)
  /-- CPY, R293. -/
  | cpy (g : BitVec 6) (a : Reg) (b : Reg) (x : Ctl)
  /-- CPY2D, R294. -/
  | cpy2d (g : BitVec 6) (a : Reg) (b : Reg) (x : Ctl)
  /-- GATH, R295. -/
  | gath (g : BitVec 6) (a : Reg) (b : Reg) (x : Ctl)
  /-- SCAT, R296. -/
  | scat (g : BitVec 6) (a : Reg) (b : Reg) (x : Ctl)
  /-- WTANY, R301. -/
  | wtany (d : Reg) (a : Reg) (x : Ctl)
  /-- WTALL, R301. -/
  | wtall (d : Reg) (a : Reg) (x : Ctl)
  /-- FFRDY, R302. -/
  | ffrdy (d : Reg) (a : Reg) (x : Ctl)
  /-- TAGCLR, R302. -/
  | tagclr (a : Reg) (x : Ctl)
  /-- PXHASH, R312. -/
  | pxhash (d : Reg) (a : Reg) (x : Ctl)
  /-- PXLOOK, R313. -/
  | pxlook (d : Reg) (a : Reg) (x : Ctl)
  /-- PXPIN, R314. -/
  | pxpin (d : Reg) (a : Reg) (x : Ctl)
  /-- PXUNPIN, R314. -/
  | pxunpin (d : Reg) (a : Reg) (x : Ctl)
  /-- PXSEAL, R322. -/
  | pxseal (d : Reg) (a : Reg) (x : Ctl)
  /-- PXALLOC, R317. -/
  | pxalloc (d : Reg) (a : Reg) (x : Ctl)
  /-- PXLEASE, R315. -/
  | pxlease (d : Reg) (a : Reg) (x : Ctl)
  /-- PXPROM, R316. -/
  | pxprom (d : Reg) (a : Reg) (x : Ctl)
  /-- KMERGE, R323. -/
  | kmerge (d : Reg) (a : Reg) (x : Ctl)
  /-- BFILL, R326. -/
  | bfill (d : Reg) (a : Reg) (x : Ctl)
  /-- BFWAIT, R328. -/
  | bfwait (a : Reg) (x : Ctl)
  /-- PLAN, R329. -/
  | plan (d : Reg) (a : Reg) (x : Ctl)
  /-- PXFETCH, R466. -/
  | pxfetch (d : Reg) (a : Reg) (x : Ctl)
  /-- PXREPL, R467. -/
  | pxrepl (d : Reg) (a : Reg) (x : Ctl)
  /-- KVLD, R319. -/
  | kvld (d : Reg) (a : Reg) (b : Reg) (x : Ctl)
  /-- KVST, R320. -/
  | kvst (d : Reg) (a : Reg) (b : Reg) (x : Ctl)
  /-- RLD, R449. -/
  | rld (d : Reg) (a : Reg) (x : Ctl)
  /-- RST, R449. -/
  | rst (d : Reg) (a : Reg) (x : Ctl)
  /-- RAMO, R450. -/
  | ramo (d : Reg) (a : Reg) (x : Ctl)
  /-- CHARTER, R453. -/
  | charter (d : Reg) (a : Reg) (x : Ctl)
  /-- CASTOFF, R454. -/
  | castoff (d : Reg) (a : Reg) (x : Ctl)
  /-- LANEQ, R455. -/
  | laneq (d : Reg) (a : Reg) (x : Ctl)
  /-- C_NOP, R39. -/
  | cNop
  /-- C_MV, R39. -/
  | cMv (d : Reg) (a : Reg)
  /-- C_LI, R39. -/
  | cLi (d : Reg) (i : BitVec 6)
  /-- C_ADDI, R39. -/
  | cAddi (d : Reg) (i : BitVec 6)
  /-- C_ADD, R39. -/
  | cAdd (d : Reg) (a : Reg)
  /-- C_SUB, R39. -/
  | cSub (d : Reg) (a : Reg)
  /-- C_AND, R39. -/
  | cAnd (d : Reg) (a : Reg)
  /-- C_OR, R39. -/
  | cOr (d : Reg) (a : Reg)
  /-- C_XOR, R39. -/
  | cXor (d : Reg) (a : Reg)
  /-- C_SLLI, R39. -/
  | cSlli (d : Reg) (h : BitVec 6)
  /-- C_SRLI, R39. -/
  | cSrli (d : Reg) (h : BitVec 6)
  /-- C_SRAI, R39. -/
  | cSrai (d : Reg) (h : BitVec 6)
  /-- C_BR, R39. -/
  | cBr (o : BitVec 11)
  /-- C_BT, R39. -/
  | cBt (p : PReg) (o : BitVec 8)
  /-- C_BF, R39. -/
  | cBf (p : PReg) (o : BitVec 8)
  /-- RESULT_LANDING, R27. -/
  | resultLanding (c : CoreId) (id : Nat)
  /-- TOKDEAD, R87. -/
  | tokdead (c : CoreId)
  /-- RAMP_GRANT, R127. -/
  | rampGrant (c : CoreId)
  /-- RAMP_END, R127. -/
  | rampEnd (c : CoreId)
  /-- MATRIX_ENGINE_COLD, R127. -/
  | matrixEngineCold (c : CoreId)
  /-- GANG_RENDEZVOUS, R191. -/
  | gangRendezvous (c : CoreId)
  /-- GANGTIME_EXPIRY, R191. -/
  | gangtimeExpiry (c : CoreId)
  /-- ENGINE_COMMAND_ACCEPT, R126. -/
  | engineCommandAccept (c : CoreId) (e : PathClass)
  /-- ENGINE_COMMAND_COMPLETE, R290. -/
  | engineCommandComplete (c : CoreId) (id : Nat)
  /-- BACKFILL_ITEM, R327. -/
  | backfillItem (die : Fin 4)
  /-- BANK_ALU_OP, R208. -/
  | bankAluOp (id : Nat)
  /-- RW_HOLD_EXPIRY, R427. -/
  | rwHoldExpiry (die : Fin 4) (line : Nat)
  /-- REPLAY_ENTRY_ISSUE, R353. -/
  | replayEntryIssue (c : CoreId) (q : Sq)
  /-- TRAP_MODE_ENTRY, R374. -/
  | trapModeEntry (c : CoreId)
  /-- SNAPSHOT_LAND, R370. -/
  | snapshotLand (c : CoreId) (idx : Nat)
  /-- PREEMPT_REQUEST, R376. -/
  | preemptRequest (launch : Nat) (c : CoreId)
  /-- PREEMPT_TAKE, R378. -/
  | preemptTake (c : CoreId)
  /-- PREEMPT_WITHDRAW, R378. -/
  | preemptWithdraw (c : CoreId)
  /-- ITERATION_RESUME, R381. -/
  | iterationResume (c : CoreId)
  /-- ITERATION_START, R92. -/
  | iterationStart (c : CoreId)
  /-- ITERATION_FINISH, R93. -/
  | iterationFinish (c : CoreId)
  /-- TUPLE_HANDOUT, R97. -/
  | tupleHandout (launch : Nat)
  /-- AGEING_CHECK, R118. -/
  | ageingCheck
  /-- DISPATCH_DECISION, R119. -/
  | dispatchDecision
  /-- PORTAL_DMW, R410. -/
  | portalDmw (portal : Nat) (off : Nat) (data : List (BitVec 8))
  /-- PORTAL_POSTED_WRITE, R411. -/
  | portalPostedWrite (portal : Nat)
  /-- LAUNCH_AT_HEAD, R414. -/
  | launchAtHead (n : Fin 256)
  /-- SERIAL_WAIT_END, R414. -/
  | serialWaitEnd (n : Fin 256)
  /-- COPY_BEGIN, R416. -/
  | copyBegin (n : Fin 256)
  /-- COPY_COMPLETE, R416. -/
  | copyComplete (id : Nat)
  /-- MARK_COMPLETE, R416. -/
  | markComplete (n : Fin 256)
  /-- HOST_MEM_READ, R210. -/
  | hostMemRead (pa : HostPlace) (len : Nat)
  /-- HOST_MEM_WRITE, R210. -/
  | hostMemWrite (pa : HostPlace) (data : HostData)
  /-- HOST_SNOOP, R209. -/
  | hostSnoop (pa : Nat) (data : HostData)
  /-- QCFG_WRITE, R117. -/
  | qcfgWrite (n : Fin 256) (v : BitVec 64)
  /-- TENCFG_WRITE, R409. -/
  | tencfgWrite (n : Fin 256) (v : BitVec 64)
  /-- SI_PTR_WRITE, R262. -/
  | siPtrWrite (n : Fin 8) (v : BitVec 64)
  /-- PD_PTR_WRITE, R458. -/
  | pdPtrWrite (n : Fin 8) (v : BitVec 64)
  /-- TLBI_PAGE, R220. -/
  | tlbiPage (v : BitVec 64)
  /-- TLBI_TENANCY, R220. -/
  | tlbiTenancy (v : BitVec 64)
  /-- TLBI_ALL, R220. -/
  | tlbiAll (v : BitVec 64)
  /-- TLBI_COMPLETE, R220. -/
  | tlbiComplete
  /-- MIG_GO, R430. -/
  | migGo (v : BitVec 64)
  /-- MIG_GO_XP, R434. -/
  | migGoXp (v : BitVec 64)
  /-- MIGRATION_COPY_DONE, R430. -/
  | migrationCopyDone
  /-- STUB_FORWARD, R431. -/
  | stubForward (idx : Nat)
  /-- STUB_RETIRE, R432. -/
  | stubRetire (idx : Nat)
  /-- FE_ERR_WRITE, R407. -/
  | feErrWrite (v : BitVec 64)
  /-- QL_POD_WRITE, R437. -/
  | qlPodWrite (v : BitVec 64)
  /-- REGISTER_WRITE, R407. -/
  | registerWrite (off : Nat) (v : BitVec 64)
  /-- SCRUB, R401. -/
  | scrub (pa : Nat)
  /-- POWER_WINDOW, R474. -/
  | powerWindow (watts : Nat)
  /-- THERMAL_THROTTLE, R474. -/
  | thermalThrottle (die : Fin 4)
  /-- THERMAL_TRIP, R474. -/
  | thermalTrip
  /-- COLD_RESET, R476. -/
  | coldReset (hostwin : BitVec 32) (ten : BitVec 64) (load : List (Nat × BitVec 8))
  /-- FABRIC_ERROR, R421. -/
  | fabricError
  /-- REGRD, R479. -/
  | regrd (off : Nat)
  /-- REGWR, R479. -/
  | regwr (off : Nat) (v : BitVec 64)
  /-- KEYSET, R480. -/
  | keyset (n : Nat) (key : BitVec 256)
  /-- KEYCLR, R480. -/
  | keyclr (n : Nat)
  /-- FWUPD, R479. -/
  | fwupd (image : Firmware)
  /-- RESET_COLD, R476. -/
  | resetCold (hostwin : BitVec 32) (ten : BitVec 64) (load : List (Nat × BitVec 8))
  /-- RESET_WARM, R402. -/
  | resetWarm (hostwin : BitVec 32) (ten : BitVec 64) (load : List (Nat × BitVec 8))
  /-- GET_MEASUREMENTS, R478. -/
  | getMeasurements
  /-- IDLE, R446. -/
  | idle (f : Flit)
  /-- RLDREQ, R449. -/
  | rldreq (f : Flit)
  /-- RLDDATA, R449. -/
  | rlddata (f : Flit)
  /-- RSTREQ, R449. -/
  | rstreq (f : Flit)
  /-- RSTDATA, R449. -/
  | rstdata (f : Flit)
  /-- RAMOREQ, R450. -/
  | ramoreq (f : Flit)
  /-- RESP, R450. -/
  | resp (f : Flit)
  /-- ERR, R448. -/
  | err (f : Flit)
  /-- CTRL_REQ, R441. -/
  | ctrlReq (f : Flit)
  /-- CTRL_GRANT, R440. -/
  | ctrlGrant (f : Flit)
  /-- CTRL_REVOKE, R440. -/
  | ctrlRevoke (f : Flit)
  /-- CTRL_DRAIN, R447. -/
  | ctrlDrain (f : Flit)
  /-- CTRL_HANDBACK, R447. -/
  | ctrlHandback (f : Flit)
  /-- CTRL_RELEASE, R454. -/
  | ctrlRelease (f : Flit)
  /-- CTRL_WITHDRAW, R454. -/
  | ctrlWithdraw (f : Flit)
  /-- RETRANSMIT_TIMEOUT, R446. -/
  | retransmitTimeout (peer : Fin 64) (seq : Nat)
  /-- STARVATION_CHECK, R442. -/
  | starvationCheck
  /-- TUNING_LOCK, R440. -/
  | tuningLock (slot : Fin 256)
  /-- TUNING_TIMEOUT, R440. -/
  | tuningTimeout (slot : Fin 256)
  /-- ERROR_WINDOW_END, R447. -/
  | errorWindowEnd (slot : Fin 256)
  /-- TRAINING_WINDOW_END, R447. -/
  | trainingWindowEnd (slot : Fin 256) (symbols : Nat)
  /-- LANE_DRAIN_END, R440. -/
  | laneDrainEnd (lane : Fin 256)
  /-- STORE_REG, R461. -/
  | storeReg (f : Flit)
  /-- STORE_DEREG, R461. -/
  | storeDereg (f : Flit)
  /-- STORE_QUERY, R466. -/
  | storeQuery (f : Flit)
  /-- STORE_HOLDERS, R466. -/
  | storeHolders (f : Flit)
  /-- STORE_READ, R463. -/
  | storeRead (f : Flit)
  /-- STORE_DATA, R466. -/
  | storeData (f : Flit)
  /-- STORE_NOTPRESENT, R466. -/
  | storeNotpresent (f : Flit)
  /-- FWD_START, R434. -/
  | fwdStart (f : Flit)
  /-- FWD_COPY, R434. -/
  | fwdCopy (f : Flit)
  /-- FWD_ACCEPT, R434. -/
  | fwdAccept (f : Flit)
  /-- FWD_REFUSE, R434. -/
  | fwdRefuse (f : Flit)
  /-- FWD_ACCESS, R434. -/
  | fwdAccess (f : Flit)
  /-- FWD_REPLY, R434. -/
  | fwdReply (f : Flit)
  /-- ILLEGAL_ENCODING, R41. -/
  | illegalEncoding
  /-- LAST_WRITE_PERFORMED, R134. -/
  | lastWritePerformed (c : CoreId) (id : Nat)
  /-- THERMAL_HOLD_END, R474. -/
  | thermalHoldEnd (die : Fin 4)
  /-- SECURE_SESSION, R479. -/
  | secureSession
  deriving DecidableEq, Repr

end Sys2Proof
end

