-- ==== Sys2Proof/Config.lean ====
section
/-!
DEFINITION. What an implementation fixes and the values the spec leaves open. Every constant below is opaque: no body, so that
nothing proved here depends on its value. `n` is the model's own counter of free values (State.free, log entry 6), `id` the
number of a result, command or event.
-/
namespace Sys2Proof.Config

/-- Whether the result `id` lands in cycle `now` inside its window (R27: "L is chosen by the implementation"), entry 4. -/
opaque landsEarly (id now : Nat) : Bool
/-- The cycles an operation without a bound takes: loads, engine commands, walks (R29), entry 5. -/
opaque latency (id : Nat) : Nat
/-- Whether a device step of kind `kind`, whose time the spec leaves open, is made for `key` in cycle `now`, entry 3. -/
opaque happens (kind key now : Nat) : Bool
/-- A free yes or no, one for each use (entry 6). -/
opaque freeBit (n : Nat) : Bool
/-- A free number, one for each use (entry 6). -/
opaque freeNat (n : Nat) : Nat
/-- A free 64-bit value, one for each use (entry 6). -/
opaque freeWord (n : Nat) : BitVec 64
/-- A free byte, one for each use (entry 6). -/
opaque freeByte (n : Nat) : BitVec 8
/-- Whether the program's text has an instruction beginning at an address: what tells a mask word from other bytes (R17) where
the sequencer has not fetched the instruction before it (entry 20). -/
opaque textStart (addr : Nat) : Bool
/-- Whether the access with stamp `stamp` to a page takes a translation that a TLB still holds from before its entry changed (R217, R218,
R220), entry 19: one choice for each access, so that no access mixes the two. -/
opaque staleUse (stamp salt : Nat) : Bool
/-- The set of a cluster's TLB that a page of a tenancy falls into (R217), entry 19. -/
opaque tlbSet (ten va size : Nat) : Nat
/-- The energy in nJ that a core consumed between two cycles, as the core measures it (R350), entry 14. -/
opaque energy (core c0 c1 : Nat) : Nat
/-- The SHA-384 digest of the public key that is fused into the package (R419, R477), entry 15. -/
opaque fusedKeyDigest : Nat
/-- The firmware store as the package leaves its factory (R419), entry 15. -/
opaque factoryFirmware : Firmware
/-- The pilot core's fused boot ROM (R420, R477 step 1): its bytes, entry 15. -/
opaque bootRom : List (BitVec 8)
/-- The state of the fuses (R478), entry 15. -/
opaque fuses : List (BitVec 8)
/-- The signature of the device identity key, which fused entropy gives, on four digests (R478), entry 15. -/
opaque attest (d1 d2 d3 d4 : Nat) : Nat
/-- Whether the loading of the dispatch fabric that begins in a cycle or goes on takes longer (R419, R421), entry 15. -/
opaque loading (cycle : Nat) : Bool

end Sys2Proof.Config
end

