-- ==== Sys2Proof/Machine/State.lean ====
section
/-!
DEFINITION. The state of the package as plain data: everything the spec gives the machine, the machine after reset, and the
reasons a step can stop. Docstrings name the rule that gives a field. Fields marked "the model's own" are not the spec's.
-/
namespace Sys2Proof.Machine

/-- Why a step can stop with a fault. -/
inductive Fault where
  /-- The package has no power (R474, R476): raised by `step` after a THERMAL_TRIP until a cold reset arrives. Safe: the spec
  says that power is removed, and a package without power makes no step. -/
  | powerRemoved
  deriving DecidableEq, Repr

/-- Why a step can be refused. -/
inductive Refusal where
  /-- An instruction that has no meaning yet: raised by its arm of `exec`. Safe: nothing is claimed of it. -/
  | notModelled (mnemonic : String)
  deriving DecidableEq, Repr

/-- Who makes an access: a sequencer of a core. -/
structure Who where
  core : CoreId
  sq : Sq
  deriving DecidableEq, Repr

/-! ### Order of accesses (11_consistency.md) -/

/-- Accesses of class `cls` that `src` (or anyone) issued with a stamp from `lo` to `hi` (R222: issue order). -/
structure Span where
  src : Option Who
  cls : PathClass
  lo : Nat
  hi : Nat
  /-- Only writes performed before this place (R238, R415). -/
  perf : Option Nat := none
  /-- Only accesses of these cores (R415). -/
  cores : Option (BitVec 256) := none
  /-- Only accesses of the host and the front end (R415). -/
  host : Bool := false
  /-- Only bytes of this range: base and length (R240). -/
  area : Option (Nat × Nat) := none
  deriving DecidableEq, Repr

/-- What a sequencer's later accesses are ordered after. -/
structure Know where
  /-- Issued before, through issue order and token edges (R85, R224, R234): sequencer and last stamp. -/
  before : List (Who × Nat)
  /-- Stamps of the engine commands whose tags were observed, directly or through token edges (R222, R231, R233). -/
  seen : List Nat
  /-- For a reading class, the writes that its accesses read or see overwritten (R234, R238). -/
  reads : List (PathClass × Span)
  /-- Issued before an instruction that the observation of a tag orders before: they belong to the set P of a fence only (R234). -/
  viaTag : List (Who × Nat) := []
  /-- Stamps of the engine commands whose completion pushed a token that was popped: only their scratchpad accesses are ordered (R85). -/
  done : List Nat := []
  /-- Accesses of a class in the set F of a fence: they come after the access with this stamp (R234 point 2). -/
  after : List (PathClass × Nat) := []
  deriving DecidableEq, Repr

/-- What a release makes visible (R237, R238): the releasing core, and the writes with the scope at which each is visible; a scope that
is none is that of a CORE write, which is visible everywhere. -/
structure Rel where
  core : Option CoreId
  spans : List (Option Scope × Span)
  /-- For a write of a fill map, the slots whose bits it set (R321). -/
  fills : Nat := 0
  deriving DecidableEq, Repr

/-- A write as unordered readers may still miss it (R231, R232; the model's own record, log entry 9). -/
structure WriteRec where
  addr : Nat
  old : BitVec 8
  /-- The sector was poisoned before the write (R396). -/
  oldBad : Bool := false
  cls : PathClass
  /-- Who wrote: none is the host or the front end. -/
  who : Option Who
  /-- Issue stamp of the instruction or command that wrote. -/
  stamp : Nat
  /-- An operation of a bank ALU, between whose read and write nothing falls (R226). -/
  atomic : Bool := false
  /-- A release (R237). -/
  rel : Option Rel := none
  /-- It has reached memory that a warm reset does not lose (R402). -/
  durable : Bool := false
  /-- Place in the order in which writes were performed. -/
  perf : Nat
  deriving DecidableEq, Repr

/-- A set of writes that a FENCE or FENCEX of a core made visible (R234 point 4): its sequencer and issue stamp, the scope, and the
writes. -/
structure MadeVis where
  sq : Sq
  stamp : Nat
  scope : Scope
  span : Span
  deriving DecidableEq, Repr

/-- Writes made visible by a FENCEX towards the CORE class (R234 point 3, R236, R254). -/
structure Published where
  spans : List Span
  who : Who
  /-- The fence's issue stamp. -/
  stamp : Nat
  scope : Scope
  /-- The fencing core has made its next CORE access. -/
  armed : Bool
  /-- It is PUBL's: the next release arms it (R254). -/
  publ : Bool := false
  deriving DecidableEq, Repr

/-- A translation that a TLB holds (R217): one of a cluster's, or of the micro-TLB of a core of it. -/
structure TlbEntry where
  cluster : Fin 32
  ten : BitVec 8
  va : Nat
  size : Nat
  pa : Nat
  perms : BitVec 3
  mt : Nat
  deriving DecidableEq, Repr

/-! ### Results in flight and the snapshot buffer (R27, R369) -/

/-- Where a result lands. -/
inductive Dest where
  | none
  | g (r : Reg)
  | p (r : PReg)
  | row (n : Fin 128)
  | mask (m : MReg)
  deriving DecidableEq, Repr

/-- The pushes that wait for an instruction to complete (R84), with what they order (R85). -/
structure Push where
  f : Bool
  b : Bool
  know : Know
  deriving DecidableEq, Repr

/-- A result in flight (R27, R29, R30, R84). -/
structure Flight where
  id : Nat
  /-- The instruction: results of one instruction share it. -/
  ins : Nat
  sq : Sq
  dest : Dest
  /-- The value; a general register's in the low 64 bits, a mask's in the low 512, a predicate's in bit 0. -/
  value : Row
  /-- The byte enables of a row (R157); all ones otherwise. -/
  en : Mask
  flags : BitVec 6
  issued : Nat
  /-- The bound b, or none where the operation delivers the result (R29). -/
  bound : Option Nat
  /-- Every later reader waits (LAT = 7 or a minimum of 7, R29). -/
  waits : Bool
  /-- The cycle before which an unbounded result cannot land. -/
  notBefore : Nat
  push : Option Push
  /-- A result of the matrix engine (R186): its row is built up in order. -/
  matrix : Bool
  /-- Pieces of the access that have not been performed (R225, R430, R431), the bytes that have come, by their places, and the width in
  bits from which the value is sign-extended (0: not). -/
  left : Nat := 0
  got : List (Nat × BitVec 8) := []
  sext : Nat := 0
  /-- The list group that a QUIES watches until it lands (R106). -/
  watch : Option Nat := none
  deriving DecidableEq, Repr

/-- An entry of the snapshot buffer (R369). -/
structure SnapEntry where
  sq : Sq
  dest : Dest
  value : Row
  en : Mask
  flags : BitVec 6
  pushF : Bool
  pushB : Bool
  know : Know
  /-- Every later reader waits (R29). -/
  waits : Bool
  /-- The number of its instruction, 0 for an entry read from an image (the model's own). -/
  ins : Nat
  /-- The offset o, 1 to 12. -/
  off : Nat
  /-- Its sector of the buffer is poisoned (R399). -/
  bad : Bool := false
  deriving DecidableEq, Repr

/-! ### A sequencer -/

/-- An active block (R19). -/
structure Block where
  start : Word
  stop : Word
  interlocked : Bool
  /-- The loop buffer when this is the outermost active block that repeats (R24): the bytes fetched for it. -/
  buf : Option (List Host.Cell)
  deriving DecidableEq, Repr

/-- What a sequencer's next instruction waits for. -/
inductive Wait where
  | none
  /-- A token condition (R83, R84). -/
  | token
  /-- Any other condition of R125. -/
  | other
  deriving DecidableEq, Repr

/-- The class of a register while a tape records (R348). -/
inductive RegClass where
  | clean
  | patch (i : Fin 32) (off : Word)
  | varying
  deriving DecidableEq, Repr

/-- One sequencer (R10, R19, R24, R90, R91). -/
structure Seq where
  g : Vector Word 32
  p : Vector Bool 8
  lc : Vector (BitVec 32) 3
  pc : Word
  fpstat : BitVec 32
  /-- Active blocks, innermost first. -/
  blocks : List Block
  entry : Word
  extent : Nat
  ended : Bool
  /-- R391. -/
  eventLatch : Bool
  /-- Cycle in which the waiting instruction first reached issue, none when none waits. -/
  since : Option Nat
  wait : Wait
  /-- The mask word of the last issued instruction when it had S = 1 (R377). -/
  lastSafe : Option (BitVec 32)
  /-- Mask words that the sequencer has fetched past (R17). -/
  maskAt : List Nat
  /-- Place in the performed order of the last discard of what was fetched ahead (R229). -/
  discard : Nat
  /-- A FENCE has issued: what was fetched ahead of it is discarded when its waits have ended (R229, R235). -/
  refetch : Bool
  know : Know
  /-- Commands that must be complete before it issues again: the set P of a fence (R234, R235). -/
  hold : List Nat
  /-- One more than the cycle in which it was last offered an issue. -/
  tried : Nat
  /-- Work-list groups of the items popped and not acknowledged (R102). -/
  unacked : List (Fin 64)
  /-- Register classes while a tape records (R348); a predicate's is CLEAN or VARYING. -/
  gcls : Vector RegClass 32
  pcls : Vector Bool 8
  lccls : Vector RegClass 3
  deriving DecidableEq, Repr

/-- X's registers saved at trap entry (R374). -/
structure XSave where
  g : Vector Word 32
  p : Vector Bool 8
  lc : Vector (BitVec 32) 3
  fpstat : BitVec 32
  blocks : List Block
  /-- X's stream had ended (R368). -/
  ended : Bool
  deriving DecidableEq, Repr

/-! ### Tapes (19_tapes.md) -/

/-- R344. -/
inductive TapeState where
  | empty | recording | valid
  deriving DecidableEq, Repr

/-- An entry of a tape (R350). -/
structure TapeEntry where
  w : BitVec 32
  stream : Sq
  marker : Bool
  interlocked : Bool
  /-- Register operands as values or offsets, then the mask word. -/
  ops : List Word
  deriving DecidableEq, Repr

/-- A patch record (R350). -/
structure PatchRec where
  entry : Nat
  pos : Nat
  pv : Fin 32
  deriving DecidableEq, Repr

/-- A tape: the header fields of R350 and its sections. -/
structure Tape where
  st : TapeState
  ten : BitVec 8
  kread : Bool
  guards : List (Word × Word × Word)
  ranges : List (Nat × Nat)
  patches : List PatchRec
  entries : List TapeEntry
  htgen : BitVec 32
  ntgen : BitVec 32
  ntlocks : BitVec 16
  acct : BitVec 32
  cores : Nat
  energy : Nat
  dur : Nat
  looptab : List (BitVec 8)
  kval : List Word
  ent : List Word
  ext : List Nat
  deriving DecidableEq, Repr

/-- Where the iteration is in the life of its tape (R345, R346, R363). -/
inductive TapePhase where
  /-- The launch names no tape, or X ended before TAPEB: L, C and S run. -/
  | free
  /-- L, C and S wait for TAPEB (R345). -/
  | held
  | recording
  /-- The recording was abandoned: TAPEE will give this status. -/
  | abandoned (status : Nat)
  /-- Replaying, or replayed. -/
  | replaying
  /-- The replay was aborted (R360). -/
  | aborted
  | finished
  deriving DecidableEq, Repr

/-! ### A core -/

/-- A trap being taken (R366, R368). -/
structure Stop where
  sq : Sq
  cause : BitVec 8
  det : BitVec 4
  va : Word
  cycle : Nat
  deriving DecidableEq, Repr

/-- The iteration that a core runs (R92, R96). -/
structure Iter where
  launch : Nat
  tuple : Nat
  ten : BitVec 8
  tape : Option (Fin 16)
  /-- R92 has been done. -/
  started : Bool
  /-- The stamp at which it began or was last resumed (R415). -/
  since : Nat := 0
  deriving DecidableEq, Repr

/-- The matrix engine's start state (R127). -/
inductive Ramp where
  | cold
  /-- A slot was requested in this cycle. -/
  | requested (cycle : Nat)
  /-- The ramp began in this cycle. -/
  | ramping (cycle : Nat)
  /-- Warm; the cycle is that of the last MAJ 0x2E issue or ramp end. -/
  | warm (last : Nat)
  deriving DecidableEq, Repr

/-! ### Engine commands (14_engines.md, 15_store_engines.md, 25_optical.md, 26_pod_store.md) -/

/-- What an engine command does, with the operands it read at issue (R292, R306, R318, R449). -/
inductive CmdOp where
  /-- CPY: destination and source descriptors with their handle entries, and gb. -/
  | cpy (dd ds : Word) (hd hs : BitVec 256) (gb : Word)
  | cpy2d (dd ds : Word) (hd hs : BitVec 256) (gb gb1 : Word)
  | gath (dd ds : Word) (hd hs : BitVec 256) (gb : Word)
  | scat (dd ds : Word) (hd hs : BitVec 256) (gb : Word)
  | pxhash (gd ga : Word)
  | pxlook (gd ga : Word)
  | pxpin (gd ga : Word)
  | pxunpin (gd ga : Word)
  | pxseal (gd ga : Word)
  | pxalloc (gd ga : Word)
  | pxlease (gd ga : Word)
  | pxprom (gd ga : Word)
  | kmerge (gd ga : Word)
  | bfill (gd ga : Word)
  | plan (gd ga : Word)
  | pxfetch (gd ga : Word)
  | pxrepl (gd ga : Word)
  /-- KVLD and KVST: control word, coordinate, image address and the node translation entry read at issue. -/
  | kvld (gd ga gb : Word) (entry : BitVec 128)
  | kvst (gd ga gb : Word) (entry : BitVec 128)
  | rld (gd ga : Word)
  | rst (gd ga : Word)
  | ramo (gd ga : Word)
  deriving DecidableEq, Repr

/-- Where a command is (R126, R290). -/
inductive CmdPhase where
  /-- Issued, not started. -/
  | queued
  /-- Accepted in this cycle. -/
  | started (cycle : Nat)
  /-- Its effect is made, but a write of it has not been performed at a page that has moved (R222, R434): how it will complete. -/
  | ending (code flags det : Nat) (va : Nat)
  deriving DecidableEq, Repr

/-- An issued engine command (R126, R288, R290). -/
structure Cmd where
  /-- Its issue stamp, which is its number. -/
  id : Nat
  sq : Sq
  cls : PathClass
  op : CmdOp
  tag : BitVec 6
  phase : CmdPhase
  push : Option Push
  know : Know
  ten : BitVec 8
  launch : Nat
  /-- Bytes read when the class accepted it: a parameter block or index list (R295, R306). -/
  data : List (BitVec 8)
  /-- A status that the checks at acceptance fixed, with the detail and address for ENGERR (R292, R309). -/
  fixed : Option (Nat × Nat × Word)
  /-- Replies that have arrived for a remote or pod-store command, and what it still waits for. -/
  replies : List (Nat × List (BitVec 8))
  sent : Nat
  /-- Scratchpad bytes that it reads or writes: address and length (R298). -/
  spad : List (Nat × Nat)
  deriving DecidableEq, Repr

/-- An MDRAIN or MSAVE that has not performed its last write (R134, R193, R195, R198). -/
structure MatWrite where
  id : Nat
  drain : Bool
  flags : BitVec 6
  push : Option Push
  know : Know
  ten : BitVec 8
  issued : Nat
  deriving DecidableEq, Repr

/-- An access of a core that has issued and is not complete (R222, R234): its class, sequencer and stamp. There is one for each piece of
a CORE access, one for each contribution to a merged AMO, and one for an MLOAD whose rows have not all landed. -/
structure Pend where
  cls : PathClass
  sq : Sq
  id : Nat
  deriving DecidableEq, Repr

/-- What a rendezvous decides for a member's MGANG (R191). -/
inductive GangGo where
  | wait
  /-- Issue, with the row source's ga and the column source's gb. -/
  | issue (ga gb : Word)
  /-- The GANG trap. -/
  | gang
  /-- ILLEGAL: the member's own ACCT.TYPE or MROWS (R197). -/
  | illegal
  /-- The GANGTIME trap. -/
  | time
  deriving DecidableEq, Repr

/-- An MGANG that has reached issue (R191): since which cycle, and its operands. -/
structure GangWait where
  since : Nat
  gd : Word
  ga : Word
  gb : Word
  go : GangGo
  deriving DecidableEq, Repr

/-- A pre-emption request (R376, R378). -/
structure PreReq where
  launch : Nat
  cycle : Nat
  /-- The capture cycle, once every sequencer has stopped. -/
  capture : Option Nat
  deriving DecidableEq, Repr

/-- What the core keeps of a suspended iteration beside its context image (R379, R381): what an image has no place for. -/
structure Suspended where
  iter : Iter
  /-- The launch for which it was pre-empted, and whether the core has been given to another launch since (R381). -/
  forLaunch : Nat
  given : Bool
  tapePhase : TapePhase
  tapeBegun : Option Nat
  tapeEnded : Bool
  barCount : Nat
  gangCount : Nat
  arb : List (PathClass × List Sq)
  /-- VWB at the safe points, by which VG names rows (R43). -/
  vwb : BitVec 32
  /-- The locks of its segments and the references they hold (R380). -/
  ntlocks : BitVec 32
  ntrefs : List (Nat × Nat × Nat)
  tokens : Vector (List Know) 8
  /-- For X, L, C and S: items not acknowledged, what its accesses are ordered after, the event latch. -/
  seqs : List (List (Fin 64) × Know × Bool)
  deriving DecidableEq, Repr

/-- A core. -/
structure Core where
  sX : Seq
  sL : Seq
  sC : Seq
  sS : Seq
  h : Vector Word 8
  /-- Writes of hand registers that land in the next cycle (R89): register, value, cycle of the MTS. -/
  hLate : List (Fin 8 × Word × Nat)
  k : Vector Word 4
  /-- The eight token queues in the order of R82: what each token orders, oldest first. -/
  tokens : Vector (List Know) 8
  /-- Pushes that complete at the end of a cycle (R84): queue, cycle, what they order. -/
  rising : List (Fin 8 × Nat × Know)
  flights : List Flight
  cmds : List Cmd
  matWrites : List MatWrite
  /-- CORE and MAT accesses that are not complete. -/
  pend : List Pend
  /-- Per engine class, X, L and S from least recently accepted (R126). -/
  arb : List (PathClass × List Sq)
  spad : List Host.Cell
  /-- Sectors of the scratchpad and of the accumulator found poisoned (R399): address div 32. -/
  spadBad : List Nat
  accBad : List Nat
  spadHist : List WriteRec
  acc : Vector Row 128
  m : Vector Mask 8
  acct : BitVec 32
  vwb : BitVec 32
  mcr : BitVec 32
  handles : Vector (BitVec 256) 256
  /-- Poisoned sectors of the handle table, of the node translation table and of the tapes (R399): entry; entry div 2; tape and entry. -/
  handleBad : List (Fin 256)
  ntBad : List Nat
  tapeBad : List (Fin 16 × Nat)
  htgen : BitVec 32
  nt : Vector (BitVec 128) 1024
  ntgen : BitVec 32
  ntlocks : BitVec 32
  /-- References that locks took: segment, instance, index entry (R285). -/
  ntrefs : List (Nat × Nat × Nat)
  tags : BitVec 64
  tstat : Vector (BitVec 8) 64
  engerr : BitVec 32
  engerrva : Word
  /-- The cycle in which ENGERR was latched (R291). -/
  engerrAt : Nat
  /-- What observing each tag orders (R231, R233, R234). -/
  tagKnow : Vector Know 64
  bferr : BitVec 32
  derr : BitVec 32
  derrva : Word
  pv : Vector Word 32
  tapemiss : BitVec 32
  rpstat : BitVec 64
  rpnext : BitVec 64
  tapes : Vector Tape 16
  tapePhase : TapePhase
  /-- The time of TAPEB's issue (R350). -/
  tapeBegun : Option Nat
  tapeEnded : Bool
  /-- Virtual 256-byte lines read by L, C and S during recording (R350). -/
  tapeLines : List Nat
  /-- The tape being replayed, which an invalidation does not change (R358, R389). -/
  replayTape : Option Tape
  /-- A replay entry that is being issued: its stream and whether subnormals are flushed (R353). -/
  replayIssue : Option (Sq × Bool)
  trapcause : BitVec 32
  trapva : Word
  trapvec : Word
  epc : Vector Word 4
  xsave : XSave
  snap : List SnapEntry
  /-- The cycle r of R370 from which snapshot entries land. -/
  resumeAt : Nat
  stop : Option Stop
  /-- A replay fault is latched and the trap on X is to come (R359, R367). -/
  replayFault : Bool
  preempt : Option PreReq
  ramp : Ramp
  /-- Cycle until which the matrix engine is occupied (R179). -/
  matBusy : Nat
  /-- Cycle until which the special-function unit is occupied (R160). -/
  sfuBusy : Nat
  gangCount : Nat
  /-- The MGANG that waits at its rendezvous (R191). -/
  gang : Option GangWait
  barCount : Nat
  barWaiting : Bool
  iter : Option Iter
  /-- The launch whose iteration last ran here, none since reset (R145). -/
  lastLaunch : Option Nat
  /-- A suspended iteration: its image is in the context slot (R381). -/
  suspended : Option Suspended
  /-- What FENCE and FENCEX of its sequencers made visible (R238, R239, R254). -/
  madeVis : List MadeVis
  deriving DecidableEq, Repr

/-! ### Package memory -/

/-- The state of a 32-byte sector whose stored bytes are not simply good data (R394, R396). -/
inductive SectorMark where
  /-- Stored poison. -/
  | poison
  /-- Stored check bytes, byte 0 first, that differ from those of the data (R393). -/
  | check (bytes : List (BitVec 8))
  deriving DecidableEq, Repr

/-- Physical memory (R203) with what observers may still see of it. -/
structure Memory where
  cells : List Host.Cell
  marks : List (Nat × SectorMark)
  hist : List WriteRec
  pubs : List Published
  /-- Writes performed so far (the model's own, log entry 9). -/
  writes : Nat
  tlb : List TlbEntry
  /-- The micro-TLB of each core (R217). -/
  utlb : List (CoreId × TlbEntry)
  /-- Sectors found poisoned for which R398 has still to look for a sealed node: of memory, and of cores' scratchpads. -/
  found : List Nat
  foundSpad : List (CoreId × Nat)
  /-- For the step being made: bytes of pages in another package that have come back, and those that it needs and that have not (R434; the
  model's own, log entry 38). -/
  far : List (Nat × BitVec 8 × Bool)
  missing : List Nat
  deriving DecidableEq, Repr

/-- A work list (R101): positions kept on chip, and what each waiting item orders (R107). -/
structure WorkList where
  head : Nat
  tail : Nat
  know : List (List Rel)
  deriving DecidableEq, Repr

/-- The fields of an instance record (R262). -/
structure InstRec where
  bt : Nat
  dom : Nat
  nl : Nat
  nh : Nat
  d : Nat
  ixlog : Nat
  model : BitVec 64
  ixbase : Nat
  t1base : Nat
  t1fr : Nat
  privmax : Nat
  t2base : Nat
  t2fr : Nat
  t0base : Nat
  t0fr : Nat
  theta : BitVec 32
  deriving DecidableEq, Repr

/-- A store instance (R261, R274 to R278). -/
structure Inst where
  ptr : Word
  cfg : Option InstRec
  cnt : Vector Word 8
  /-- Frames in use of T1 and T2. -/
  t1 : List Nat
  t2 : List Nat
  /-- T0 frames in use: core, frame number. -/
  t0 : List (Nat × Nat)
  /-- Private frames: frame number, owning tenancy (R317). -/
  priv : List (Nat × BitVec 8)
  /-- Old copies kept while references last (R276): entry number, tier, frame number. -/
  old : List (Nat × Nat × Nat)
  /-- Pending backfill of a frame (R327): frame address, count. -/
  pending : List (Nat × Nat)
  /-- Pod directory: name and holders, on (R459 to R461). -/
  pdptr : Word
  deriving DecidableEq, Repr

/-- An item of a die's backfill queue (R326). -/
structure BackfillItem where
  /-- The BFILL that queued it: sequencer, issue stamp, what it is ordered after. -/
  who : Who
  stamp : Nat
  know : Know
  ten : BitVec 8
  inst : Nat
  frame : Nat
  slot : Nat
  /-- The next layer to be computed. -/
  layer : Nat
  handle : BitVec 256
  hidden : List (BitVec 16)
  deriving DecidableEq, Repr

/-- An entry of a combining buffer (R426). -/
structure CombineEntry where
  pa : Nat
  sz : Nat
  op : Nat
  value : BitVec 64
  /-- The contributors among the die's cores. -/
  mask : BitVec 64
  /-- The AMOs that it carries: sequencer and stamp. -/
  parts : List (Who × Nat)
  ten : BitVec 8
  since : Nat
  deriving DecidableEq, Repr

/-! ### Front end (05_scheduling.md, 23_front_end.md) -/

/-- A rate in mW (R121): a fraction. -/
structure Rate where
  num : Nat
  den : Nat
  deriving DecidableEq, Repr

/-- What the front end has read for a LAUNCH that has become a candidate (R119, R414): the record, the loop table, the patch vector
and the rate r in mW, fixed then (R121). -/
structure Candidate where
  bytes : List (BitVec 8)
  looptab : List (BitVec 8)
  pvec : List Word
  rate : Rate
  deriving DecidableEq, Repr

/-- A packet accepted into a queue (R410, R412). -/
structure Packet where
  /-- Its number in the order of acceptance. -/
  num : Nat
  op : Nat
  /-- SERIAL, cleared when the wait it asks for has ended (R414). -/
  serial : Bool
  irq : Bool
  queue : Fin 256
  usertag : Word
  cpl : Word
  arg : Word
  ten : BitVec 8
  /-- The place in the performed order at which its DMW was accepted (R415). -/
  perf : Nat
  /-- A LAUNCH at its head whose reads have completed without a status (R119, R414). -/
  record : Option Candidate
  /-- With SERIAL, the accesses of the earlier packets of its queue (R415). -/
  past : List Span
  deriving DecidableEq, Repr

/-- A hardware queue (R115, R118): its packets in order, the µs at which its wait began. -/
structure Queue where
  cfg : BitVec 32
  packets : List Packet
  waitFrom : Nat
  /-- The accesses of its packets that have completed (R415). -/
  past : List Span
  deriving DecidableEq, Repr

/-- The kind of a loop level (R94). -/
inductive LevelKind where
  | temporal | cores | dies
  deriving DecidableEq, Repr

/-- An active launch (R90, R121, R124, R413). -/
structure Launch where
  id : Nat
  packet : Packet
  level : Nat
  ent : List Word
  ext : List Nat
  tok : List Nat
  htab : Word
  /-- The loop table's bytes and its levels: kind and trip count, outer first (R94). -/
  looptab : List (BitVec 8)
  levels : List (LevelKind × Nat)
  deal : Option Word
  tape : Option (Fin 16)
  pvec : List Word
  coreset : List CoreId
  /-- The rate r, the width n and n_d of each die (R121). -/
  rate : Rate
  width : Nat
  dieWidth : List Nat
  /-- Number of iterations, the next tuple, and those that have finished. -/
  count : Nat
  next : Nat
  done : Nat
  lastCore : Option CoreId
  multiWave : Bool
  /-- Issue stamps below this one precede its dispatch. -/
  since : Nat
  /-- Its iterations handed out: core, tuple, and whether it has finished (R108). -/
  members : List (CoreId × Nat × Bool)
  /-- Arrivals at barrier generations: core, generation; what they order. -/
  arrived : List (CoreId × Nat)
  barKnow : List Rel
  released : Nat
  /-- It was admitted above its limit and runs alone (R122). -/
  solo : Bool
  /-- What its accesses are ordered after, and the accesses of its iterations so far (R415). -/
  start : List Span
  past : List Span
  /-- A status that ends the launch: status, TRAPCAUSE, FAULTVA; no further tuple is handed out (R374, R145, R381, R421). -/
  ending : Option (Nat × BitVec 32 × Word)
  /-- Time since which its next tuple has waited for a core (R376). -/
  waitFrom : Option Nat
  deriving DecidableEq, Repr

/-- A copy that has begun (R416): the bytes that it has still to read, as source and destination, none before it has translated them;
those that it has read and has still to write; and the faults that it has met, as status and address. -/
structure CopyJob where
  id : Nat
  packet : Packet
  src : Word
  dst : Word
  len : Nat
  todo : Option (List (Nat × Nat × Nat)) := none
  got : List (Nat × BitVec 8) := []
  errs : List (Nat × Nat) := []
  deriving DecidableEq, Repr

/-- A tenancy's configuration record as the front end holds it (R408). -/
structure Tenancy where
  ptr : Word
  on : Bool
  root : Nat
  trapvec : Word
  ctxbase : Word
  leasemax : Nat
  wlcap : Nat
  listgrp : BitVec 64
  listbase : Nat
  cores : BitVec 256
  domains : BitVec 256
  deriving DecidableEq, Repr

/-- The front end's scalar registers (R406, R116, R204, R219, R376, R401, R407, R424, R429, R434, R438, R458, R475). -/
structure FeRegs where
  feErr : BitVec 32
  feStat : BitVec 32
  age : Vector (BitVec 16) 6
  pwrBudget : BitVec 16
  pwrStatic : BitVec 16
  pwrDefrate : BitVec 32
  admitRefusals : BitVec 64
  dieCap : Vector (BitVec 16) 4
  preWait : BitVec 16
  preempts : BitVec 64
  preWithdrawn : BitVec 64
  poolPorts : BitVec 32
  poolSize : BitVec 32
  hostwinSize : BitVec 32
  tlbiVa : BitVec 64
  tlbiCtl : BitVec 32
  eccCe : BitVec 64
  eccUe : BitVec 64
  eccPsnrd : BitVec 64
  eccLast : BitVec 64
  scrubPeriod : BitVec 32
  rwbase : Vector (BitVec 64) 8
  rwlim : Vector (BitVec 64) 8
  rwHold : BitVec 32
  rwMerged : BitVec 64
  rwSent : BitVec 64
  migSrc : BitVec 64
  migDst : BitVec 64
  migCtl : BitVec 32
  migDone : BitVec 32
  migInbase : BitVec 64
  migInlim : BitVec 64
  pdDrops : BitVec 64
  launchSeq : BitVec 64
  qlId : BitVec 64
  qlPod : BitVec 64
  qlStarve : BitVec 64
  qlThr : BitVec 64
  qlRevokes : BitVec 64
  lanecap : Vector (BitVec 64) 256
  pkgPwr : BitVec 64
  clkMhz : BitVec 64
  dieTemp : Vector (BitVec 64) 4
  deriving DecidableEq, Repr

/-! ### Migration (24_package.md) -/

/-- A step of the device that the current cycle still has to make (the model's own order of work, log entry 3). -/
inductive Due where
  | landing (c : CoreId) (id : Nat)
  | tokdead (c : CoreId)
  | rampGrant (c : CoreId)
  | rampEnd (c : CoreId)
  | cold (c : CoreId)
  | gangMeet (c : CoreId)
  | gangExpiry (c : CoreId)
  | accept (c : CoreId) (e : PathClass)
  | complete (c : CoreId) (id : Nat)
  | lastWrite (c : CoreId) (id : Nat)
  | backfill (die : Fin 4)
  | bankOp (id : Nat)
  | rwExpiry (die : Fin 4) (line : Nat)
  | barrier (launch : Nat)
  | trapEntry (c : CoreId)
  | snapLand (c : CoreId) (idx : Nat)
  | preReq (launch : Nat) (c : CoreId)
  | preTake (c : CoreId)
  | preWithdraw (c : CoreId)
  | resume (c : CoreId)
  | iterStart (c : CoreId)
  | iterFinish (c : CoreId)
  | handout (launch : Nat)
  | ageing
  | dispatch
  | launchHead (n : Fin 256)
  | serialEnd (n : Fin 256)
  | copyBegin (n : Fin 256)
  | copyDone (id : Nat)
  | mark (n : Fin 256)
  | tlbiDone
  | migDone
  | stubForward (idx : Nat)
  | stubRetire (idx : Nat)
  | retransmit (peer : Fin 64) (seq : Nat)
  | starvation
  | tuningTimeout (slot : Fin 256)
  | errorWindow (slot : Fin 256)
  | laneDrain (lane : Fin 256)
  deriving DecidableEq, Repr

/-- Whose step needs bytes of a page in another package (R434; the model's own): a sequencer's instruction, a step of the device, an event
from outside, or the service of a peer's request. -/
inductive Asker where
  | turn (w : Who)
  | due (d : Due)
  | outside
  /-- The remote engine, for a request of a peer (R448). -/
  | peer (p : Nat)
  deriving DecidableEq, Repr

/-- Where the result of an access goes that is made for another package: to the request of that peer that the remote engine serves (R451),
or as the REPLY to an ACCESS, with its source core, migration number and address (R434). -/
structure PeerReply where
  peer : Nat
  fwd : Option (Nat × Nat × Nat) := none
  deriving DecidableEq, Repr

/-- A piece of an access that has not been performed (R225), or that is held at a page's home or at its stub (R430, R431, R434). -/
structure HeldAccess where
  /-- The sequencer that made it, or whose command or instruction did; none for the host, the front end and other packages. -/
  who : Option Who
  cls : PathClass
  stamp : Nat
  know : Know
  /-- The host port (R230). -/
  port : Option Nat
  /-- Physical addresses, rising inside one page, each with its place among the bytes of the access. -/
  bytes : List (Nat × Nat)
  /-- The virtual address of place 0. -/
  va : Nat
  /-- 0 read, 1 write, 2 atomic (R434). -/
  kind : Nat
  /-- The bytes written; for an atomic the operand, and from byte 8 the replacement of CAS. -/
  data : List (BitVec 8)
  /-- The bytes written are poisoned: the host has said so (R394). -/
  bad : Bool := false
  /-- The operation and AR of an atomic, as in R247; 32 and 33 are PLNST.OR and PLNST.AND, 34 the maximum of an MDRAIN (R194). -/
  op : Nat
  sz : Nat
  ten : BitVec 8
  acq : Bool
  /-- For a release, what it makes visible (R237, R238). -/
  rel : Option Rel
  /-- The AMOs that a merged one carries (R426). -/
  parts : List (Who × Nat)
  /-- Whose step the bytes read are for. -/
  far : Option Asker
  /-- The peer for which it is made. -/
  peer : Option PeerReply
  deriving DecidableEq, Repr

/-- The migration whose copy is in progress (R430, R434). -/
structure Migration where
  k : Nat
  src : Nat
  dst : Nat
  ten : BitVec 8
  xp : Option Nat
  /-- The copy is done and the stub installed: the held accesses are being forwarded. -/
  copied : Bool
  held : List HeldAccess
  deriving DecidableEq, Repr

/-- A stub (R431, R432). -/
structure Stub where
  k : Nat
  src : Nat
  dst : Nat
  ten : BitVec 8
  xp : Option Nat
  held : List HeldAccess
  /-- Accesses forwarded to another package whose replies have not come. -/
  flying : List HeldAccess
  /-- An invalidation for its tenancy was started after its BUSY cleared, and has cleared (R432). -/
  invalidating : Bool
  invalidated : Bool
  deriving DecidableEq, Repr

/-- A page arriving from another package (R434). -/
structure Incoming where
  peer : Nat
  k : Nat
  dst : Nat
  copied : Nat
  deriving DecidableEq, Repr

/-! ### Quayline (25_optical.md) -/

/-- R439, R440. -/
inductive LaneState where
  | free | reserved | tuning | active | draining | retraining
  deriving DecidableEq, Repr

/-- A transmit lane (R436, R439, R440). -/
structure TxLane where
  ten : BitVec 8
  moor : Bool
  st : LaneState
  peer : Nat
  /-- Order of grant, for CASTOFF (R454). -/
  granted : Nat
  /-- The drain is for retraining (R440), and HANDBACK has arrived before it ended. -/
  retrain : Bool
  back : Bool
  /-- Store clock at which TUNING began. -/
  since : Nat
  /-- Time until which it carries the flits assigned to it (R436, R446). -/
  busy : Nat
  deriving DecidableEq, Repr

/-- A receive slot (R436, R439, R447, R471). -/
structure RxSlot where
  ten : BitVec 8
  moor : Bool
  st : LaneState
  peer : Nat
  retrains : BitVec 16
  ucf : BitVec 16
  csym : BitVec 32
  /-- Symbols counted and flits received in the window that runs. -/
  count : Nat
  flits : Nat
  retrain : Bool
  /-- The receiver revoked it (R442). -/
  revoked : Bool
  /-- Store clock at which TUNING began. -/
  since : Nat
  deriving DecidableEq, Repr

/-- A numbered flit that is not acknowledged (R446). -/
structure SentFlit where
  seq : Nat
  header : BitVec 64
  payload : BitVec 1024
  lane : Option Nat
  /-- Time of its last assignment. -/
  sent : Nat
  deriving DecidableEq, Repr

/-- A request of a peer: its type, payload and, for RSTREQ, data; once its accesses have been made, how many pieces of them have not been
performed; and the bytes that have come (R448 to R451). -/
structure PeerReq where
  type : Nat
  payload : BitVec 1024
  data : BitVec 1024
  left : Option Nat
  got : List (Nat × BitVec 8 × Bool)
  deriving DecidableEq, Repr

/-- The two ordered pairs with a peer (R446, R451). -/
structure Pair where
  txNext : Nat
  unacked : List SentFlit
  /-- Flits that wait for a number. -/
  waiting : List (BitVec 64 × BitVec 1024)
  lastLane : Option Nat
  rxNext : Nat
  rxHeld : List (Nat × BitVec 64 × BitVec 1024)
  /-- The commands whose responses have not come, in the order of their requests (R451): core and number. -/
  awaited : List (CoreId × Nat)
  /-- An RSTREQ that waits for its RSTDATA (R445). -/
  rst : Option (BitVec 1024)
  /-- The requests of the peer that have not been answered, the one being served first (R451). -/
  serving : List PeerReq
  deriving DecidableEq, Repr

/-- A pending entry of a receiver (R441). -/
structure PendingLane where
  peer : Nat
  plane : Nat
  ten : BitVec 8
  arrival : Nat
  deriving DecidableEq, Repr

/-- A request of this package that a peer has not granted in full (R453): tenancy, peer, planes still reserved, and the CHARTER
that made it. -/
structure LaneRequest where
  ten : BitVec 8
  peer : Nat
  planes : List Nat
  core : CoreId
  ins : Nat
  deriving DecidableEq, Repr

/-! ### Outside the package -/

/-- The completion of a DMW (R410). -/
inductive DmwReply where
  | success | retry | unsupported
  deriving DecidableEq, Repr

/-- What the package has sent outside (R410, R412, R210, R209, R478, R479). -/
inductive Output where
  | dmw (r : DmwReply)
  | msix (vector : Nat)
  | hostData (data : List (BitVec 8)) (poison : Bool)
  | snoopData (data : List (BitVec 8))
  | register (value : Word)
  /-- A management reply: 0 done, or a refusal (FE_ERR code, 16 AUTH, 17 BUSY, 18 RANGE, 19 BADSIG). -/
  | management (status : Nat)
  | measurements (boot firmware fabric fuses signature : Nat)
  /-- A flit on a transmit lane: its 144 bytes, header first and byte 0 lowest (R443). -/
  | flit (lane : Nat) (wire : BitVec 1152)
  deriving DecidableEq, Repr

/-- An event that will arrive from outside, not before a cycle. -/
structure Arrival where
  cycle : Nat
  event : Instr
  deriving DecidableEq, Repr

/-- Where bring-up stands (R419, R421, R476, R477). -/
inductive Boot where
  /-- Reset has been applied and bring-up has not run. -/
  | down
  /-- The pilot core loads the dispatch fabric (R419, R477 steps 3 to 7): what firmware then sets, HOSTWIN_SIZE, TENCFG0 and bytes of HBM. -/
  | loading (hostwin : BitVec 32) (ten : BitVec 64) (load : List (Nat × BitVec 8))
  /-- The firmware image failed its verification, or the pilot core met a fault: it has halted (R420, R477 step 2). -/
  | halted
  | up
  deriving DecidableEq, Repr

/-- The fault that the pilot core records for the management path (R420): where, the instruction's first bytes, and the cause of the
trap that it would take, 0 for an encoding that it does not issue. -/
structure PilotFault where
  pc : Word
  word : BitVec 32
  cause : BitVec 8
  deriving DecidableEq, Repr

/-- The pilot core (R420): a single X-class sequencer, with the registers that its instructions use. -/
structure Pilot where
  core : Core
  running : Bool
  fault : Option PilotFault
  deriving DecidableEq, Repr

/-- A host read of device HBM whose pieces have not all been performed (R230). -/
structure HostRead where
  id : Nat
  len : Nat
  left : Nat
  got : List (Nat × BitVec 8 × Bool)
  deriving DecidableEq, Repr

/-- The whole package. -/
structure State where
  cores : Vector Core 256
  mem : Memory
  /-- Pieces of CORE and host accesses that have not been performed (R223, R225, R230), and atomic packets on their way to the banks
  (R208), in the order in which they were made. -/
  pending : List HeldAccess
  hostReads : List HostRead
  /-- Bytes of pages in another package that have come back, for the step that asked for them (R434). -/
  farKept : List (Asker × Nat × BitVec 8 × Bool)
  /-- Accesses made for other packages that have been performed and are still to be answered, with the bytes read (R434, R451). -/
  answers : List (HeldAccess × List (BitVec 8 × Bool))
  /-- The step being made is one of the pilot core's, whose accesses use physical addresses (R420; false between steps). -/
  physical : Bool
  /-- TLBI_VA as the invalidation in progress took it (R219, R220). -/
  tlbiAt : Word
  atomflags : Vector (BitVec 32) 256
  storeClk : BitVec 64
  cycle : Nat
  /-- The time since reset in units of 1/timeUnit µs (R278, R474). -/
  time : Nat
  lists : Vector WorkList 1024
  combine : Vector (List CombineEntry) 4
  /-- The physical 256-byte lines that hold code ranges of tapes (R351): line, core, tape. -/
  codeLines : List (Nat × CoreId × Fin 16)
  insts : Vector Inst 8
  backfill : Vector (List BackfillItem) 4
  fe : FeRegs
  queues : Vector Queue 256
  tens : Vector Tenancy 256
  launches : List Launch
  copies : List CopyJob
  /-- Packet numbers given. -/
  packetNum : Nat
  /-- Per level the queue last dispatched (R119). -/
  lastQueue : Vector (Option (Fin 256)) 8
  /-- Cycles of the ramp starts of each die in the last 32 cycles (R127). -/
  rampStarts : Vector (List Nat) 4
  migration : Option Migration
  stubs : List Stub
  migCount : Nat
  incoming : List Incoming
  keys : List (Nat × BitVec 256)
  tx : Vector TxLane 256
  rx : Vector RxSlot 256
  pairs : Vector Pair 64
  pendingLanes : List PendingLane
  laneRequests : List LaneRequest
  grants : Nat
  boot : Boot
  powered : Bool
  /-- Dies held at 875 MHz (R474). -/
  hot : Vector Bool 4
  session : Bool
  pilot : Pilot
  firmware : Firmware
  /-- A firmware image that takes effect at the next cold reset (R479). -/
  newFirmware : Option Firmware
  inputs : List Arrival
  outputs : List Output
  /-- The model's own: counters of free values and of stamps, and the sequencer whose turn it is (log entries 3, 6, 9). -/
  free : Nat
  stamp : Nat
  turn : Who
  /-- Device steps that the current cycle still has to make. -/
  agenda : List Due
  deriving DecidableEq, Repr

/-! ### After reset -/

/-- Nothing known. -/
def Know.none : Know := { before := [], seen := [], reads := [] }

/-- A sequencer after reset (R10, R11): pc, entry and extent are named by log entry 13. -/
def Seq.reset : Seq :=
  { g := Vector.replicate 32 0
    p := Vector.ofFn fun i => i.val == 0
    lc := Vector.replicate 3 0
    pc := 0
    fpstat := 0
    blocks := []
    entry := 0
    extent := 0
    ended := true
    eventLatch := false
    since := Option.none
    wait := .none
    lastSafe := Option.none
    maskAt := []
    discard := 0
    refetch := false
    know := Know.none
    hold := []
    tried := 0
    unacked := []
    gcls := Vector.replicate 32 .clean
    pcls := Vector.replicate 8 true
    lccls := Vector.replicate 3 .clean }

/-- An EMPTY tape (R344). -/
def Tape.blank : Tape :=
  { st := .empty, ten := 0, kread := false, guards := [], ranges := [], patches := [], entries := [], htgen := 0, ntgen := 0
    ntlocks := 0, acct := 0, cores := 0, energy := 0, dur := 0, looptab := [], kval := [], ent := [], ext := [] }

/-- A core after reset (R13, R82, R88, R145, R153, R156, R180, R257, R288, R342, R372). -/
def Core.reset : Core :=
  { sX := Seq.reset, sL := Seq.reset, sC := Seq.reset, sS := Seq.reset
    h := Vector.replicate 8 0
    hLate := []
    k := Vector.replicate 4 0
    tokens := Vector.replicate 8 []
    rising := []
    flights := []
    cmds := []
    matWrites := []
    pend := []
    arb := []
    spad := []
    spadBad := []
    accBad := []
    spadHist := []
    acc := Vector.replicate 128 0
    m := Vector.ofFn fun i => if i.val = 0 then BitVec.allOnes 512 else 0
    acct := 0
    vwb := 0
    mcr := 0x7F00
    handles := Vector.replicate 256 0
    handleBad := []
    ntBad := []
    tapeBad := []
    htgen := 0
    nt := Vector.replicate 1024 0
    ntgen := 0
    ntlocks := 0
    ntrefs := []
    tags := 0
    tstat := Vector.replicate 64 0
    engerr := 0
    engerrva := 0
    engerrAt := 0
    tagKnow := Vector.replicate 64 Know.none
    bferr := 0
    derr := 0
    derrva := 0
    pv := Vector.replicate 32 0
    tapemiss := 0
    rpstat := 0
    rpnext := 0
    tapes := Vector.replicate 16 Tape.blank
    tapePhase := .free
    tapeBegun := none
    tapeEnded := false
    tapeLines := []
    replayTape := none
    replayIssue := none
    trapcause := 0
    trapva := 0
    trapvec := 0
    epc := Vector.replicate 4 0
    xsave := { g := Vector.replicate 32 0, p := Vector.replicate 8 false, lc := Vector.replicate 3 0, fpstat := 0, blocks := [], ended := true }
    snap := []
    resumeAt := 0
    stop := none
    replayFault := false
    preempt := none
    ramp := .cold
    matBusy := 0
    sfuBusy := 0
    gangCount := 0
    gang := none
    barCount := 0
    barWaiting := false
    iter := none
    lastLaunch := none
    suspended := none
    madeVis := [] }

/-- A disabled store instance (R261). -/
def Inst.reset : Inst :=
  { ptr := 0, cfg := none, cnt := Vector.replicate 8 0, t1 := [], t2 := [], t0 := [], priv := [], old := [], pending := []
    pdptr := 0 }

/-- An empty queue (R116, R117). -/
def Queue.reset : Queue := { cfg := 0, packets := [], waitFrom := 0, past := [] }

/-- A disabled tenancy (R408). -/
def Tenancy.reset : Tenancy :=
  { ptr := 0, on := false, root := 0, trapvec := 0, ctxbase := 0, leasemax := 0, wlcap := 6, listgrp := 0, listbase := 0
    cores := 0, domains := 0 }

/-- The front end's registers after reset (R116, R376, R424, R438, R475 and the other tables). -/
def FeRegs.reset : FeRegs :=
  { feErr := 0, feStat := 0, age := Vector.replicate 6 200, pwrBudget := 2800, pwrStatic := 600, pwrDefrate := 10000
    admitRefusals := 0, dieCap := Vector.replicate 4 700, preWait := 50, preempts := 0, preWithdrawn := 0, poolPorts := 0
    poolSize := 0, hostwinSize := 0, tlbiVa := 0, tlbiCtl := 0, eccCe := 0, eccUe := 0, eccPsnrd := 0, eccLast := 0
    scrubPeriod := 0, rwbase := Vector.replicate 8 0, rwlim := Vector.replicate 8 0, rwHold := 256, rwMerged := 0, rwSent := 0
    migSrc := 0, migDst := 0, migCtl := 0, migDone := 0, migInbase := 0, migInlim := 0, pdDrops := 0, launchSeq := 0
    qlId := 0, qlPod := 0, qlStarve := 100, qlThr := 4096, qlRevokes := 0, lanecap := Vector.replicate 256 193, pkgPwr := 0
    clkMhz := 1750, dieTemp := Vector.replicate 4 0 }

/-- A FREE transmit lane (R439). -/
def TxLane.reset : TxLane := { ten := 0, moor := false, st := .free, peer := 0, granted := 0, retrain := false, back := false, since := 0, busy := 0 }

/-- A FREE receive slot (R439). -/
def RxSlot.reset : RxSlot :=
  { ten := 0, moor := false, st := .free, peer := 0, retrains := 0, ucf := 0, csym := 0, count := 0, flits := 0, retrain := false
    revoked := false, since := 0 }

/-- A pair that has carried no flit (R446). -/
def Pair.reset : Pair :=
  { txNext := 0, unacked := [], waiting := [], lastLane := none, rxNext := 0, rxHeld := [], awaited := [], rst := none, serving := [] }

/-- Memory with nothing listed (log entry 7). -/
def Memory.reset : Memory := { cells := [], marks := [], hist := [], pubs := [], writes := 0, tlb := [], utlb := [], found := [], foundSpad := [], far := [], missing := [] }

/-- The package right after reset (R476): every register at its Reset value, every array cleared, bring-up not yet run. -/
def State.reset : State :=
  { cores := Vector.replicate 256 Core.reset
    mem := Memory.reset
    pending := []
    hostReads := []
    farKept := []
    answers := []
    physical := false
    tlbiAt := 0
    atomflags := Vector.replicate 256 0
    storeClk := 0
    cycle := 0
    time := 0
    lists := Vector.replicate 1024 { head := 0, tail := 0, know := [] }
    combine := Vector.replicate 4 []
    codeLines := []
    insts := Vector.replicate 8 Inst.reset
    backfill := Vector.replicate 4 []
    fe := FeRegs.reset
    queues := Vector.replicate 256 Queue.reset
    tens := Vector.replicate 256 Tenancy.reset
    launches := []
    copies := []
    packetNum := 0
    lastQueue := Vector.replicate 8 none
    rampStarts := Vector.replicate 4 []
    migration := none
    stubs := []
    migCount := 0
    incoming := []
    keys := []
    tx := Vector.replicate 256 TxLane.reset
    rx := Vector.replicate 256 RxSlot.reset
    pairs := Vector.replicate 64 Pair.reset
    pendingLanes := []
    laneRequests := []
    grants := 0
    boot := .down
    powered := true
    hot := Vector.replicate 4 false
    session := false
    pilot := { core := Core.reset, running := false, fault := none }
    firmware := Config.factoryFirmware
    newFirmware := none
    inputs := []
    outputs := []
    free := 0
    stamp := 0
    turn := { core := 0, sq := .X }
    agenda := [] }

end Sys2Proof.Machine
end

