-- ==== Sys2Proof/Machine/Access.lean ====
section
/-!
DEFINITION. Reading and writing the parts of the state: cores, sequencers, registers, and the model's counters.
-/
namespace Sys2Proof.Machine

/-! ### Cores and sequencers -/

/-- The sequencer at a ring position (R81). -/
def Core.seq (c : Core) : Sq → Seq
  | .X => c.sX
  | .L => c.sL
  | .C => c.sC
  | .S => c.sS

/-- Replaces a sequencer. -/
def Core.setSeq (c : Core) (q : Sq) (v : Seq) : Core :=
  match q with
  | .X => { c with sX := v }
  | .L => { c with sL := v }
  | .C => { c with sC := v }
  | .S => { c with sS := v }

/-- Changes a sequencer. -/
def Core.modSeq (c : Core) (q : Sq) (f : Seq → Seq) : Core := c.setSeq q (f (c.seq q))

/-- Changes every sequencer. -/
def Core.modSeqs (c : Core) (f : Sq → Seq → Seq) : Core :=
  { c with sX := f .X c.sX, sL := f .L c.sL, sC := f .C c.sC, sS := f .S c.sS }

/-- The four sequencers in ring order (R81). -/
def ring : List Sq := [.X, .L, .C, .S]

/-- The ring position (R81). -/
def sqIndex : Sq → Nat
  | .X => 0
  | .L => 1
  | .C => 2
  | .S => 3

/-- The sequencer at a ring position, taken modulo 4. -/
def sqOfIndex (n : Nat) : Sq :=
  match n % 4 with
  | 0 => .X
  | 1 => .L
  | 2 => .C
  | _ => .S

/-- A core of the package. -/
def State.core (s : State) (c : CoreId) : Core := s.cores.get c

/-- Replaces a core. -/
def State.setCore (s : State) (c : CoreId) (v : Core) : State := { s with cores := s.cores.set c.val v c.isLt }

/-- Changes a core. -/
def State.modCore (s : State) (c : CoreId) (f : Core → Core) : State := s.setCore c (f (s.core c))

/-- Changes every core. -/
def State.mapCores (s : State) (f : CoreId → Core → Core) : State :=
  { s with cores := Vector.ofFn fun i => f i (s.core i) }

/-- A sequencer of the package. -/
def State.seq (s : State) (w : Who) : Seq := (s.core w.core).seq w.sq

/-- Changes a sequencer of the package. -/
def State.modSeq (s : State) (w : Who) (f : Seq → Seq) : State := s.modCore w.core fun c => c.modSeq w.sq f

/-- The die of a core (R88). -/
def dieOf (c : CoreId) : Fin 4 := ⟨c.val / 64, by have := c.isLt; omega⟩

/-- The cluster of a core, counted over the package (R202). -/
def clusterOf (c : CoreId) : Fin 32 := ⟨c.val / 8, by have := c.isLt; omega⟩

/-- All cores in ascending order. -/
def allCores : List CoreId := List.finRange 256

/-! ### Registers -/

/-- A general register: g0 reads zero (R10). -/
def Seq.rg (q : Seq) (r : Reg) : Word := if r = 0 then 0 else q.g.get r

/-- Writes a general register: a write of g0 is discarded (R10). -/
def Seq.setG (q : Seq) (r : Reg) (v : Word) : Seq := if r = 0 then q else { q with g := q.g.set r.val v r.isLt }

/-- A predicate: p0 reads true (R10). -/
def Seq.rp (q : Seq) (r : PReg) : Bool := if r = 0 then true else q.p.get r

/-- Writes a predicate: a write of p0 is discarded (R10). -/
def Seq.setP (q : Seq) (r : PReg) (v : Bool) : Seq := if r = 0 then q else { q with p := q.p.set r.val v r.isLt }

/-- The remaining iterations of depth `d` (R21); 0 at depths that no block has. -/
def Seq.rlc (q : Seq) (d : Nat) : BitVec 32 := q.lc.toList.getD d 0

/-- Writes the count of depth `d`. -/
def Seq.setLc (q : Seq) (d : Nat) (v : BitVec 32) : Seq :=
  if h : d < 3 then { q with lc := q.lc.set d v h } else q

/-- The register after `d` of a pair. -/
def regNext (d : Reg) : Reg := Fin.ofNat 32 (d.val + 1)

/-- An accumulator row, numbered modulo 128 (R153). -/
def Core.row (c : Core) (n : Nat) : Row := c.acc.get (Fin.ofNat 128 n)

/-- Writes the bytes of a row that `en` enables (R157). -/
def Core.setRow (c : Core) (n : Fin 128) (v : Row) (en : Mask) : Core :=
  if en = BitVec.allOnes 512 then { c with acc := c.acc.set n.val v n.isLt }
  else
    let old := c.acc.get n
    let keep : Row := (List.range 512).foldl (fun m i => if en.getLsbD i then m ||| (0xFF#4096 <<< (8 * i)) else m) 0
    { c with acc := c.acc.set n.val ((old &&& ~~~keep) ||| (v &&& keep)) n.isLt }

/-- A mask register: m0 to m7 (R156). -/
def Core.mask (c : Core) (m : MReg) : Mask := c.m.get m

/-- Bits `hi` down to `lo` of a word, as a number. -/
def fld {w : Nat} (v : BitVec w) (hi lo : Nat) : Nat := v.toNat / 2 ^ lo % 2 ^ (hi + 1 - lo)

/-- A number as two's complement of `n` bits, read as an integer. -/
def sextNat (n v : Nat) : Int := if v % 2 ^ n < 2 ^ (n - 1) then (v % 2 ^ n : Nat) else (v % 2 ^ n : Nat) - 2 ^ n

/-- `n` little-endian bytes of a number (R4). -/
def toBytes (n v : Nat) : List Byte := (List.range n).map fun i => BitVec.ofNat 8 (v / 256 ^ i)

/-- The number that little-endian bytes hold (R4). -/
def ofBytes : List Byte → Nat
  | [] => 0
  | b :: bs => b.toNat + 256 * ofBytes bs

/-! ### Time -/

/-- Units of `State.time` in a microsecond: a multiple of every CLK_MHZ that is a multiple of 25 (R474, log entry 31). -/
def timeUnit : Nat := 1980297030872227298081530680000

/-- The units of time that one cycle takes at the present clock. -/
def State.cycleTime (s : State) : Nat := timeUnit / max 1 s.fe.clkMhz.toNat

/-- The time `n` microseconds after `t` has come. -/
def State.microsSince (s : State) (t n : Nat) : Bool := decide (t + n * timeUnit ≤ s.time)

/-! ### The model's counters (log entries 6, 9) -/

/-- A free yes or no, and the state with the counter of free values advanced. -/
def State.freeBit (s : State) : Bool × State := (Config.freeBit s.free, { s with free := s.free + 1 })

/-- A free number. -/
def State.freeNat (s : State) : Nat × State := (Config.freeNat s.free, { s with free := s.free + 1 })

/-- A free 64-bit value. -/
def State.freeWord (s : State) : Word × State := (Config.freeWord s.free, { s with free := s.free + 1 })

/-- Whether the core is in trap mode: TRAPCAUSE.VALID (R373). -/
def Core.inTrap (c : Core) : Bool := c.trapcause.getLsbD 31

/-- The launch that a core's iteration belongs to. -/
def State.launchOf (s : State) (c : CoreId) : Option Launch :=
  match (s.core c).iter with
  | none => none
  | some it => s.launches.find? fun l => l.id == it.launch

/-- Changes an active launch. -/
def State.modLaunch (s : State) (id : Nat) (f : Launch → Launch) : State :=
  { s with launches := s.launches.map fun l => if l.id == id then f l else l }

/-- The tenancy of a core's iteration; the system tenancy where it runs none. -/
def State.tenOf (s : State) (c : CoreId) : BitVec 8 :=
  match (s.core c).iter with
  | none => 0
  | some it => it.ten

/-- Adds a step that the current cycle has still to make, after those already there. -/
def State.later (s : State) (d : Due) : State := { s with agenda := s.agenda ++ [d] }

/-- Sends something outside the package. -/
def State.emit (s : State) (o : Output) : State := { s with outputs := s.outputs ++ [o] }

/-! ### Poisoned reads on a core (R400) -/

/-- Records a poisoned read of source `src` at address `va` in DERR and DERRVA. -/
def Core.derrRecord (c : Core) (src va : Nat) : Core :=
  let cnt := fld c.derr 15 0
  let cnt' := if cnt = 0xFFFF then cnt else cnt + 1
  if c.derr.getLsbD 31 then { c with derr := BitVec.ofNat 32 (c.derr.toNat / 65536 * 65536 + cnt') }
  else { c with derr := BitVec.ofNat 32 (2 ^ 31 + src * 65536 + cnt'), derrva := BitVec.ofNat 64 va }

/-! ### Handle and node translation entries (R399) -/

/-- An entry of the handle table: a poisoned one has FMT = NONE. -/
def Core.hEntry (c : Core) (i : Fin 256) : BitVec 256 :=
  if c.handleBad.contains i then c.handles.get i &&& ~~~(0xFF#256) else c.handles.get i

/-- An entry of the node translation memory: a poisoned one is invalid. -/
def Core.ntEntry (c : Core) (i : Fin 1024) : BitVec 128 := if c.ntBad.contains (i.val / 2) then 0 else c.nt.get i

end Sys2Proof.Machine
end

