-- ==== Sys2Proof/Machine/Kmac.lean ====
section
/-!
DEFINITION. KMAC128 (NIST SP 800-185), which forms the names of nodes outside domain 0 (R267), on bytes.
-/
namespace Sys2Proof.Machine

/-- One step of the shift register that makes the round constants (x^8 + x^6 + x^5 + x^4 + 1). -/
def rcStep (r : Nat) : Nat := if 128 ≤ r then (2 * r) ^^^ 0x171 else 2 * r

/-- The bits of the shift register, `n` of them from state `r` on. -/
def rcBits : Nat → Nat → List Bool
  | 0, _ => []
  | n + 1, r => r.testBit 0 :: rcBits n (rcStep r)

/-- The constant of a round of Keccak-f[1600]: its seven bits of the register stand at places 2^j - 1. -/
def roundConst (bits : List Bool) (round : Nat) : Word :=
  (List.range 7).foldl (fun w j => if bits.getD (7 * round + j) false then w ||| (1#64 <<< (2 ^ j - 1)) else w) 0

/-- The constants of the 24 rounds. -/
def roundConsts : List Word :=
  let bits := rcBits 168 1
  (List.range 24).map (roundConst bits)

/-- The lanes x + 5y that the walk (x, y) to (y, 2x + 3y) visits from (1, 0), the step's number with each. -/
def lanePath : Nat → Nat → Nat → Nat → List (Nat × Nat)
  | 0, _, _, _ => []
  | n + 1, t, x, y => (x + 5 * y, t) :: lanePath n (t + 1) y ((2 * x + 3 * y) % 5)

/-- The rotations of the lanes: (t + 1)(t + 2) / 2 at step t of the walk, 0 for the lane that it does not visit. -/
def laneRots : List Nat :=
  let path := lanePath 24 0 1 0
  (List.range 25).map fun i =>
    match path.find? fun p => p.1 == i with
    | some p => (p.2 + 1) * (p.2 + 2) / 2 % 64
    | none => 0

/-- One round on 25 lanes. -/
def keccakRound (rots : List Nat) (a : List Word) (rc : Word) : List Word :=
  let c := (List.range 5).map fun x => ((List.range 5).map fun y => a.getD (x + 5 * y) 0).foldl (· ^^^ ·) 0
  let d := (List.range 5).map fun x => c.getD ((x + 4) % 5) 0 ^^^ (c.getD ((x + 1) % 5) 0).rotateLeft 1
  let t := (List.range 25).map fun i => (a.getD i 0 ^^^ d.getD (i % 5) 0).rotateLeft (rots.getD i 0)
  -- lane (x, y) of the next stage comes from lane (x + 3y, x) of this one
  let b := (List.range 25).map fun i => t.getD ((i % 5 + 3 * (i / 5)) % 5 + 5 * (i % 5)) 0
  let e := (List.range 25).map fun i =>
    let y := i / 5
    b.getD i 0 ^^^ (~~~(b.getD ((i + 1) % 5 + 5 * y) 0) &&& b.getD ((i + 2) % 5 + 5 * y) 0)
  match e with
  | x :: xs => (x ^^^ rc) :: xs
  | [] => []

/-- Keccak-f[1600]. -/
def keccakF (a : List Word) : List Word := roundConsts.foldl (keccakRound laneRots) a

/-- Absorbs blocks of 168 bytes, `n` at most. -/
def keccakAbsorb : Nat → List Word → List Byte → List Word
  | 0, a, _ => a
  | n + 1, a, bs =>
    if bs.isEmpty then a
    else
      let blk := bs.take 168
      let a := (List.range 25).map fun i =>
        a.getD i 0 ^^^ (if i < 21 then BitVec.ofNat 64 (ofBytes ((blk.drop (8 * i)).take 8)) else 0)
      keccakAbsorb n (keccakF a) (bs.drop 168)

/-- A number as big-endian bytes without leading zeros, at least one. -/
def bigBytes (n : Nat) : List Byte :=
  let k := if n = 0 then 1 else n.log2 / 8 + 1
  (toBytes k n).reverse

/-- left_encode. -/
def leftEncode (n : Nat) : List Byte := BitVec.ofNat 8 (bigBytes n).length :: bigBytes n
/-- right_encode. -/
def rightEncode (n : Nat) : List Byte := bigBytes n ++ [BitVec.ofNat 8 (bigBytes n).length]
/-- encode_string. -/
def encodeString (s : List Byte) : List Byte := leftEncode (8 * s.length) ++ s
/-- bytepad to 168 bytes. -/
def bytepad (s : List Byte) : List Byte :=
  let t := leftEncode 168 ++ s
  t ++ List.replicate ((168 - t.length % 168) % 168) 0

/-- KMAC128 with an output of `len` bytes, at most 168. -/
def kmac128 (key x : List Byte) (len : Nat) (custom : List Byte) : List Byte :=
  let n : List Byte := [0x4B, 0x4D, 0x41, 0x43]
  let m := bytepad (encodeString n ++ encodeString custom) ++ bytepad (encodeString key) ++ x ++ rightEncode (8 * len)
  -- the domain bits 00 and pad10*1
  let m := m ++ [0x04]
  let z := (168 - m.length % 168) % 168
  let m := if z = 0 then m.dropLast ++ [0x84] else m ++ List.replicate (z - 1) 0 ++ [0x80]
  let a := keccakAbsorb (m.length / 168 + 1) (List.replicate 25 0) m
  ((a.map fun w => toBytes 8 w.toNat).flatten).take len

end Sys2Proof.Machine
end

