-- ==== Sys2Proof/WellFormed.lean ====
section
/-!
DEFINITION. Which instructions are well-formed: the ILLEGAL conditions that follow from the encoding alone and that the
types of Syntax.lean leave open (R7, R34, R41, R44, R103, R104, R170, R176, R247, R303, R361).
-/
namespace Sys2Proof

/-- R43, R44: a mask word with its reserved bits clear and SX not 14 or 15. -/
def maskWordOk (m : BitVec 32) : Bool :=
  m.extractLsb' 27 5 == 0 && (m.extractLsb' 21 4).toNat ≤ 13

/-- R44 for an instruction that may carry a mask word. -/
def Ctl.maskOk (x : Ctl) : Bool :=
  match x.safe with
  | none => true
  | some m => maskWordOk m

/-- R103, R104, R247, R292, R303, R361: a register pair named by an even register from 2 to 30. -/
def pairOk (d : Reg) : Bool := d.val % 2 == 0 && d.val != 0

/-- R176: the register sets of VLSE, `n` rows from `d` and from `a`, modulo 32, do not overlap. -/
def lseDisjoint (d a : VReg) (n : Nat) : Bool :=
  (List.range n).all fun i => (List.range n).all fun j => (d.val + i) % 32 != (a.val + j) % 32

/-- The encodings that are instructions (R34, R41, R44): a step without an encoding is always well-formed. -/
def Instr.wf : Instr → Bool
  | .blk _ _ _ => true
  | .add _ _ _ x => x.maskOk
  | .sub _ _ _ x => x.maskOk
  | .and _ _ _ x => x.maskOk
  | .or _ _ _ x => x.maskOk
  | .xor _ _ _ x => x.maskOk
  | .andn _ _ _ x => x.maskOk
  | .sll _ _ _ x => x.maskOk
  | .srl _ _ _ x => x.maskOk
  | .sra _ _ _ x => x.maskOk
  | .ror _ _ _ x => x.maskOk
  | .fshl _ _ _ x => x.maskOk
  | .fshr _ _ _ x => x.maskOk
  | .mul _ _ _ x => x.maskOk
  | .mulh _ _ _ x => x.maskOk
  | .mulhu _ _ _ x => x.maskOk
  | .fns _ _ _ x => x.maskOk
  | .div _ _ _ x => x.maskOk
  | .divu _ _ _ x => x.maskOk
  | .rem _ _ _ x => x.maskOk
  | .remu _ _ _ x => x.maskOk
  | .min _ _ _ x => x.maskOk
  | .max _ _ _ x => x.maskOk
  | .minu _ _ _ x => x.maskOk
  | .maxu _ _ _ x => x.maskOk
  | .addi _ _ _ x => x.maskOk
  | .andi _ _ _ x => x.maskOk
  | .slli _ _ _ x => x.maskOk
  | .srli _ _ _ x => x.maskOk
  | .srai _ _ _ x => x.maskOk
  | .rori _ _ _ x => x.maskOk
  | .li _ _ x => x.maskOk
  | .ldc _ _ x => x.maskOk
  | .popc _ _ x => x.maskOk
  | .clz _ _ x => x.maskOk
  | .ctz _ _ x => x.maskOk
  | .brev _ _ x => x.maskOk
  | .bswap _ _ x => x.maskOk
  | .sextB _ _ x => x.maskOk
  | .sextH _ _ x => x.maskOk
  | .sextW _ _ x => x.maskOk
  | .zextB _ _ x => x.maskOk
  | .zextH _ _ x => x.maskOk
  | .zextW _ _ x => x.maskOk
  | .bfx _ _ _ x => x.maskOk
  | .bfxs _ _ _ x => x.maskOk
  | .bfi _ _ _ x => x.maskOk
  | .cmp _ _ _ _ x => x.maskOk
  | .cmpi _ _ _ _ x => x.maskOk
  | .sel _ _ _ x => x.maskOk
  | .selN _ _ _ x => x.maskOk
  | .pand _ _ _ x => x.maskOk
  | .por _ _ _ x => x.maskOk
  | .pxor _ _ _ x => x.maskOk
  | .pandn _ _ _ x => x.maskOk
  | .pnot _ _ x => x.maskOk
  | .psetg _ _ x => x.maskOk
  | .prd _ x => x.maskOk
  | .bt _ _ x => x.maskOk
  | .bf _ _ x => x.maskOk
  | .j _ x => x.maskOk
  | .call _ x => x.maskOk
  | .jr _ x => x.maskOk
  | .callr _ _ x => x.maskOk
  | .ret _ x => x.maskOk
  | .brk x => x.maskOk
  | .lcut x => x.maskOk
  | .mfs _ _ x => x.maskOk
  | .mts _ r x => !(r == 0x000 || r == 0x108 || r == 0x051 || r == 0x05B || r == 0x055) && x.maskOk
  | .mtsFpstat _ x => x.maskOk
  | .mtsAtomflags _ x => x.maskOk
  | .mtsEngerr _ x => x.maskOk
  | .mtsDerr _ x => x.maskOk
  | .mtsRpstat _ x => x.maskOk
  | .sld _ _ _ _ x => x.maskOk
  | .slds _ _ _ _ x => x.maskOk
  | .sst _ _ _ _ x => x.maskOk
  | .trap _ x => x.maskOk
  | .rte x => x.maskOk
  | .ctxsv _ _ x => x.maskOk
  | .ctxrs _ _ x => x.maskOk
  | .snaprd _ _ x => x.maskOk
  | .wfe _ _ x => x.maskOk
  | .bar x => x.maskOk
  | .barrierRelease _ => true
  | .quies _ _ x => x.maskOk
  | .tkcnt _ x => x.maskOk
  | .wlpush d _ x => pairOk d && x.maskOk
  | .wlpop d _ x => pairOk d && x.maskOk
  | .tapeb _ x => x.maskOk
  | .tapee _ x => x.maskOk
  | .tguard _ a x => pairOk a && x.maskOk
  | .tapeinv _ x => x.maskOk
  | .tapeq _ _ x => x.maskOk
  | .vadd _ _ _ x => x.maskOk
  | .vsub _ _ _ x => x.maskOk
  | .vmul _ _ _ x => x.maskOk
  | .vfma _ _ _ x => x.maskOk
  | .vmin _ _ _ x => x.maskOk
  | .vmax _ _ _ x => x.maskOk
  | .vminn _ _ _ x => x.maskOk
  | .vmaxn _ _ _ x => x.maskOk
  | .vand _ _ _ x => x.maskOk
  | .vor _ _ _ x => x.maskOk
  | .vxor _ _ _ x => x.maskOk
  | .vandn _ _ _ x => x.maskOk
  | .vsll _ _ _ x => x.maskOk
  | .vsrl _ _ _ x => x.maskOk
  | .vsra _ _ _ x => x.maskOk
  | .vfshl _ _ _ x => x.maskOk
  | .vfshr _ _ _ x => x.maskOk
  | .vsel _ _ _ x => x.maskOk
  | .vperm _ _ _ x => x.maskOk
  | .vabsd _ _ _ x => x.maskOk
  | .vcmp _ _ _ _ x => x.maskOk
  | .vneg _ _ x => x.maskOk
  | .vabs _ _ x => x.maskOk
  | .vmov _ _ x => x.maskOk
  | .vpopc _ _ x => x.maskOk
  | .vclz _ _ x => x.maskOk
  | .vctz _ _ x => x.maskOk
  | .vbrev _ _ x => x.maskOk
  | .vsqrt _ _ x => x.maskOk
  | .vrcp _ _ x => x.maskOk
  | .vrsqrt _ _ x => x.maskOk
  | .vexp _ _ x => x.maskOk
  | .vexp2 _ _ x => x.maskOk
  | .vlog _ _ x => x.maskOk
  | .vlog2 _ _ x => x.maskOk
  | .vtanh _ _ x => x.maskOk
  | .vsigm _ _ x => x.maskOk
  | .vsin _ _ x => x.maskOk
  | .vcos _ _ x => x.maskOk
  | .vcvt _ _ _ _ _ x => x.maskOk
  | .vcvtef v _ e f x => v != e && f != 3 && x.maskOk
  | .vrsum _ _ _ x => x.maskOk
  | .vrmax _ _ _ x => x.maskOk
  | .vrmin _ _ _ x => x.maskOk
  | .vrmaxu _ _ _ x => x.maskOk
  | .vrminu _ _ _ x => x.maskOk
  | .vrmaxa _ _ _ x => x.maskOk
  | .vror _ _ _ x => x.maskOk
  | .vrand _ _ _ x => x.maskOk
  | .vrxor _ _ _ x => x.maskOk
  | .vscan _ _ _ x => x.maskOk
  | .vscanmax _ _ _ x => x.maskOk
  | .vcmpr _ _ x => x.maskOk
  | .vexpd _ _ x => x.maskOk
  | .vbcast _ _ x => x.maskOk
  | .vextr _ _ x => x.maskOk
  | .vfromm _ _ x => x.maskOk
  | .vtom _ _ x => x.maskOk
  | .viota _ x => x.maskOk
  | .vosm _ _ _ x => x.maskOk
  | .vlse v a k x => k.toNat ≤ 14 && lseDisjoint v a (k.toNat + 2) && x.maskOk
  | .vdefer _ _ _ x => x.maskOk
  | .vconf _ _ _ x => x.maskOk
  | .mand _ _ _ x => x.maskOk
  | .mor _ _ _ x => x.maskOk
  | .mxor _ _ _ x => x.maskOk
  | .mandn _ _ _ x => x.maskOk
  | .mnot _ _ x => x.maskOk
  | .msetl _ _ x => x.maskOk
  | .mcnt _ _ x => x.maskOk
  | .mffs _ _ x => x.maskOk
  | .vld _ _ _ x => x.maskOk
  | .vst _ _ _ x => x.maskOk
  | .vstu _ _ _ x => x.maskOk
  | .mma _ _ x => x.maskOk
  | .mmas _ _ _ x => x.maskOk
  | .mgang _ _ _ x => x.maskOk
  | .mzero x => x.maskOk
  | .mdrain _ _ _ x => x.maskOk
  | .mcfg _ x => x.maskOk
  | .msave _ _ x => x.maskOk
  | .mload _ _ x => x.maskOk
  | .ld _ _ _ _ _ x => x.maskOk
  | .lds _ _ _ _ _ x => x.maskOk
  | .ldAcq _ _ _ _ _ x => x.maskOk
  | .st _ _ _ _ _ x => x.maskOk
  | .stRel _ _ _ _ _ x => x.maskOk
  | .vldg _ _ _ _ x => x.maskOk
  | .vldgAcq _ _ _ _ x => x.maskOk
  | .vstg _ _ _ _ x => x.maskOk
  | .vstgRel _ _ _ _ x => x.maskOk
  | .amoAdd _ _ _ _ x => x.maskOk
  | .amoAnd _ _ _ _ x => x.maskOk
  | .amoOr _ _ _ _ x => x.maskOk
  | .amoXor _ _ _ _ x => x.maskOk
  | .amoMin _ _ _ _ x => x.maskOk
  | .amoMax _ _ _ _ x => x.maskOk
  | .amoMinu _ _ _ _ x => x.maskOk
  | .amoMaxu _ _ _ _ x => x.maskOk
  | .amoSwap _ _ _ _ x => x.maskOk
  | .amoCas d _ _ _ x => pairOk d && x.maskOk
  | .amoFadd _ _ _ z x => z != .b && x.maskOk
  | .plnstOr _ _ x => x.maskOk
  | .plnstAnd _ _ x => x.maskOk
  | .fence _ x => x.maskOk
  | .fencex _ _ _ x => x.maskOk
  | .publ _ x => x.maskOk
  | .cflush _ x => x.maskOk
  | .cinv _ x => x.maskOk
  | .cpref _ _ _ x => x.maskOk
  | .ntld _ _ _ x => x.maskOk
  | .ntlock _ x => x.maskOk
  | .ntunl _ x => x.maskOk
  | .cpy _ a _ x => pairOk a && x.maskOk
  | .cpy2d _ a b x => pairOk a && pairOk b && x.maskOk
  | .gath _ a _ x => pairOk a && x.maskOk
  | .scat _ a _ x => pairOk a && x.maskOk
  | .wtany _ _ x => x.maskOk
  | .wtall _ _ x => x.maskOk
  | .ffrdy _ _ x => x.maskOk
  | .tagclr _ x => x.maskOk
  | .pxhash _ _ x => x.maskOk
  | .pxlook _ _ x => x.maskOk
  | .pxpin _ _ x => x.maskOk
  | .pxunpin _ _ x => x.maskOk
  | .pxseal _ _ x => x.maskOk
  | .pxalloc _ _ x => x.maskOk
  | .pxlease _ _ x => x.maskOk
  | .pxprom _ _ x => x.maskOk
  | .kmerge _ _ x => x.maskOk
  | .bfill _ _ x => x.maskOk
  | .bfwait _ x => x.maskOk
  | .plan _ _ x => x.maskOk
  | .pxfetch _ _ x => x.maskOk
  | .pxrepl _ _ x => x.maskOk
  | .kvld _ _ _ x => x.maskOk
  | .kvst _ _ _ x => x.maskOk
  | .rld _ _ x => x.maskOk
  | .rst _ _ x => x.maskOk
  | .ramo _ _ x => x.maskOk
  | .charter _ _ x => x.maskOk
  | .castoff _ _ x => x.maskOk
  | .laneq _ _ x => x.maskOk
  | .cNop => true
  | .cMv _ _ => true
  | .cLi _ _ => true
  | .cAddi _ _ => true
  | .cAdd _ _ => true
  | .cSub _ _ => true
  | .cAnd _ _ => true
  | .cOr _ _ => true
  | .cXor _ _ => true
  | .cSlli _ _ => true
  | .cSrli _ _ => true
  | .cSrai _ _ => true
  | .cBr _ => true
  | .cBt _ _ => true
  | .cBf _ _ => true
  | .resultLanding _ _ => true
  | .tokdead _ => true
  | .rampGrant _ => true
  | .rampEnd _ => true
  | .matrixEngineCold _ => true
  | .gangRendezvous _ => true
  | .gangtimeExpiry _ => true
  | .engineCommandAccept _ _ => true
  | .engineCommandComplete _ _ => true
  | .backfillItem _ => true
  | .bankAluOp _ => true
  | .rwHoldExpiry _ _ => true
  | .replayEntryIssue _ _ => true
  | .trapModeEntry _ => true
  | .snapshotLand _ _ => true
  | .preemptRequest _ _ => true
  | .preemptTake _ => true
  | .preemptWithdraw _ => true
  | .iterationResume _ => true
  | .iterationStart _ => true
  | .iterationFinish _ => true
  | .tupleHandout _ => true
  | .ageingCheck => true
  | .dispatchDecision => true
  | .portalDmw _ _ _ => true
  | .portalPostedWrite _ => true
  | .launchAtHead _ => true
  | .serialWaitEnd _ => true
  | .copyBegin _ => true
  | .copyComplete _ => true
  | .markComplete _ => true
  | .hostMemRead _ _ => true
  | .hostMemWrite _ _ => true
  | .hostSnoop _ _ => true
  | .qcfgWrite _ _ => true
  | .tencfgWrite _ _ => true
  | .siPtrWrite _ _ => true
  | .pdPtrWrite _ _ => true
  | .tlbiPage _ => true
  | .tlbiTenancy _ => true
  | .tlbiAll _ => true
  | .tlbiComplete => true
  | .migGo _ => true
  | .migGoXp _ => true
  | .migrationCopyDone => true
  | .stubForward _ => true
  | .stubRetire _ => true
  | .feErrWrite _ => true
  | .qlPodWrite _ => true
  | .registerWrite _ _ => true
  | .scrub _ => true
  | .powerWindow _ => true
  | .thermalThrottle _ => true
  | .thermalTrip => true
  | .coldReset _ _ _ => true
  | .fabricError => true
  | .regrd _ => true
  | .regwr _ _ => true
  | .keyset _ _ => true
  | .keyclr _ => true
  | .fwupd _ => true
  | .resetCold _ _ _ => true
  | .resetWarm _ _ _ => true
  | .getMeasurements => true
  | .idle _ => true
  | .rldreq _ => true
  | .rlddata _ => true
  | .rstreq _ => true
  | .rstdata _ => true
  | .ramoreq _ => true
  | .resp _ => true
  | .err _ => true
  | .ctrlReq _ => true
  | .ctrlGrant _ => true
  | .ctrlRevoke _ => true
  | .ctrlDrain _ => true
  | .ctrlHandback _ => true
  | .ctrlRelease _ => true
  | .ctrlWithdraw _ => true
  | .retransmitTimeout _ _ => true
  | .starvationCheck => true
  | .tuningLock _ => true
  | .tuningTimeout _ => true
  | .errorWindowEnd _ => true
  | .trainingWindowEnd _ _ => true
  | .laneDrainEnd _ => true
  | .storeReg _ => true
  | .storeDereg _ => true
  | .storeQuery _ => true
  | .storeHolders _ => true
  | .storeRead _ => true
  | .storeData _ => true
  | .storeNotpresent _ => true
  | .fwdStart _ => true
  | .fwdCopy _ => true
  | .fwdAccept _ => true
  | .fwdRefuse _ => true
  | .fwdAccess _ => true
  | .fwdReply _ => true
  | .illegalEncoding => true
  | .lastWritePerformed _ _ => true
  | .thermalHoldEnd _ => true
  | .secureSession => true

end Sys2Proof
end

