-- ==== Sys2Proof/Decode.lean ====
section
/-!
DEFINITION. The decoder, total on any bytes and rejecting by name (R34, R41), and the encoder, both from the encoding tables
(R16, R36 to R44 and the tables of each family). A word is handled as a natural number below 2^32, so that a field is a
quotient and a remainder.
-/
namespace Sys2Proof

/-- The code of a size field (R38). -/
def Sz.code : Sz → Nat
  | .b => 0 | .h => 1 | .w => 2 | .d => 3

/-- The size of a code (R38): two bits are read. -/
def Sz.ofCode (n : Nat) : Sz :=
  match n % 4 with
  | 0 => .b | 1 => .h | 2 => .w | _ => .d

/-- The code of a hint (R38). -/
def Hint.code : Hint → Nat
  | .default => 0 | .stream => 1 | .sticky => 2 | .bypass => 3

/-- The hint of a code (R38): two bits are read. -/
def Hint.ofCode (n : Nat) : Hint :=
  match n % 4 with
  | 0 => .default | 1 => .stream | 2 => .sticky | _ => .bypass

/-- The code of a scope (R38). -/
def Scope.code : Scope → Nat
  | .core => 0 | .cluster => 1 | .die => 2 | .package => 3 | .pod => 4

/-- The scope of a code (R38): 5 to 7 are reserved. -/
def Scope.ofCode : Nat → Option Scope
  | 0 => some .core | 1 => some .cluster | 2 => some .die | 3 => some .package | 4 => some .pod | _ => none

/-- The code of an engine class (R38). -/
def PathClass.code : PathClass → Nat
  | .core => 0 | .copy => 1 | .gath => 2 | .mat => 3 | .kvx => 4 | .bfill => 5 | .remote => 6

/-- The engine class of a code (R38): 7 is reserved. -/
def PathClass.ofCode : Nat → Option PathClass
  | 0 => some .core | 1 => some .copy | 2 => some .gath | 3 => some .mat | 4 => some .kvx | 5 => some .bfill
  | 6 => some .remote | _ => none

/-- The code of a condition (R66). -/
def Cc.code : Cc → Nat
  | .eq => 0 | .ne => 1 | .lt => 2 | .ge => 3 | .le => 4 | .gt => 5 | .ltu => 6 | .geu => 7 | .leu => 8 | .gtu => 9
  | .tst => 10 | .tstn => 11

/-- The condition of a code (R66): 12 to 15 are reserved. -/
def Cc.ofCode : Nat → Option Cc
  | 0 => some .eq | 1 => some .ne | 2 => some .lt | 3 => some .ge | 4 => some .le | 5 => some .gt | 6 => some .ltu
  | 7 => some .geu | 8 => some .leu | 9 => some .gtu | 10 => some .tst | 11 => some .tstn | _ => none

/-- The code of a vector condition (R164). -/
def Vcc.code : Vcc → Nat
  | .eq => 0 | .ne => 1 | .lt => 2 | .ge => 3 | .le => 4 | .gt => 5 | .ltu => 6 | .geu => 7 | .leu => 8 | .gtu => 9
  | .un => 10 | .ord => 11

/-- The vector condition of a code (R164): 12 to 15 are reserved. -/
def Vcc.ofCode : Nat → Option Vcc
  | 0 => some .eq | 1 => some .ne | 2 => some .lt | 3 => some .ge | 4 => some .le | 5 => some .gt | 6 => some .ltu
  | 7 => some .geu | 8 => some .leu | 9 => some .gtu | 10 => some .un | 11 => some .ord | _ => none

/-- Why bytes are no instruction (R34, R41): every one of these takes the ILLEGAL trap. -/
inductive Reject where
  /-- A 16-bit parcel with op 0 (R39). -/
  | parcelOpZero
  /-- A major opcode that is not assigned (R41). -/
  | reservedMajor
  /-- A function or operation code that its family does not assign (R41). -/
  | reservedFunction
  /-- A field that must be zero is not (R37, R41). -/
  | reservedField
  /-- A field code that is reserved, or an operand that the entry forbids on its encoding alone (R34, R481). -/
  | reservedCode
  /-- Fewer bytes than the instruction has: the decoder was given no whole instruction. -/
  | truncated
  deriving DecidableEq, Repr

/-- An encoded instruction: one 16-bit parcel, or a 32-bit word with its mask word when S = 1 (R16, R17). -/
inductive Enc where
  | parcel (p : Nat)
  | word (w : Nat) (mask : Option (BitVec 32))
  deriving DecidableEq, Repr

/-- How many bytes an encoded instruction takes (R16, R17). -/
def Enc.bytes : Enc → Nat
  | .parcel _ => 2
  | .word _ none => 4
  | .word _ (some _) => 8


/-- Major 0x01 (R40): the instruction of the operand field W[31:15]. -/
def decMaj01 (op : Nat) (x : Ctl) : Except Reject Instr :=
  if x = Ctl.plain then .ok (.blk (op / 65536 % 2 == 1) (BitVec.ofNat 7 (op / 512)) (BitVec.ofNat 9 op))
  else .error .reservedField

/-- Major 0x02 (R40): the instruction of the operand field W[31:15]. -/
def decMaj02 (op : Nat) (x : Ctl) : Except Reject Instr :=
  match op % 4 with
  | 0 => .ok (.add (Fin.ofNat 32 (op / 4096)) (Fin.ofNat 32 (op / 128)) (Fin.ofNat 32 (op / 4)) x)
  | 1 => .ok (.sub (Fin.ofNat 32 (op / 4096)) (Fin.ofNat 32 (op / 128)) (Fin.ofNat 32 (op / 4)) x)
  | 2 => .ok (.and (Fin.ofNat 32 (op / 4096)) (Fin.ofNat 32 (op / 128)) (Fin.ofNat 32 (op / 4)) x)
  | 3 => .ok (.or (Fin.ofNat 32 (op / 4096)) (Fin.ofNat 32 (op / 128)) (Fin.ofNat 32 (op / 4)) x)
  | _ => .error .reservedFunction

/-- Major 0x03 (R40): the instruction of the operand field W[31:15]. -/
def decMaj03 (op : Nat) (x : Ctl) : Except Reject Instr :=
  match op % 4 with
  | 0 => .ok (.xor (Fin.ofNat 32 (op / 4096)) (Fin.ofNat 32 (op / 128)) (Fin.ofNat 32 (op / 4)) x)
  | 1 => .ok (.andn (Fin.ofNat 32 (op / 4096)) (Fin.ofNat 32 (op / 128)) (Fin.ofNat 32 (op / 4)) x)
  | 2 => .ok (.sll (Fin.ofNat 32 (op / 4096)) (Fin.ofNat 32 (op / 128)) (Fin.ofNat 32 (op / 4)) x)
  | 3 => .ok (.srl (Fin.ofNat 32 (op / 4096)) (Fin.ofNat 32 (op / 128)) (Fin.ofNat 32 (op / 4)) x)
  | _ => .error .reservedFunction

/-- Major 0x04 (R40): the instruction of the operand field W[31:15]. -/
def decMaj04 (op : Nat) (x : Ctl) : Except Reject Instr :=
  match op % 4 with
  | 0 => .ok (.sra (Fin.ofNat 32 (op / 4096)) (Fin.ofNat 32 (op / 128)) (Fin.ofNat 32 (op / 4)) x)
  | 1 => .ok (.ror (Fin.ofNat 32 (op / 4096)) (Fin.ofNat 32 (op / 128)) (Fin.ofNat 32 (op / 4)) x)
  | 2 => .ok (.fshl (Fin.ofNat 32 (op / 4096)) (Fin.ofNat 32 (op / 128)) (Fin.ofNat 32 (op / 4)) x)
  | 3 => .ok (.fshr (Fin.ofNat 32 (op / 4096)) (Fin.ofNat 32 (op / 128)) (Fin.ofNat 32 (op / 4)) x)
  | _ => .error .reservedFunction

/-- Major 0x05 (R40): the instruction of the operand field W[31:15]. -/
def decMaj05 (op : Nat) (x : Ctl) : Except Reject Instr :=
  match op % 4 with
  | 0 => .ok (.mul (Fin.ofNat 32 (op / 4096)) (Fin.ofNat 32 (op / 128)) (Fin.ofNat 32 (op / 4)) x)
  | 1 => .ok (.mulh (Fin.ofNat 32 (op / 4096)) (Fin.ofNat 32 (op / 128)) (Fin.ofNat 32 (op / 4)) x)
  | 2 => .ok (.mulhu (Fin.ofNat 32 (op / 4096)) (Fin.ofNat 32 (op / 128)) (Fin.ofNat 32 (op / 4)) x)
  | 3 => .ok (.fns (Fin.ofNat 32 (op / 4096)) (Fin.ofNat 32 (op / 128)) (Fin.ofNat 32 (op / 4)) x)
  | _ => .error .reservedFunction

/-- Major 0x06 (R40): the instruction of the operand field W[31:15]. -/
def decMaj06 (op : Nat) (x : Ctl) : Except Reject Instr :=
  match op % 4 with
  | 0 => .ok (.div (Fin.ofNat 32 (op / 4096)) (Fin.ofNat 32 (op / 128)) (Fin.ofNat 32 (op / 4)) x)
  | 1 => .ok (.divu (Fin.ofNat 32 (op / 4096)) (Fin.ofNat 32 (op / 128)) (Fin.ofNat 32 (op / 4)) x)
  | 2 => .ok (.rem (Fin.ofNat 32 (op / 4096)) (Fin.ofNat 32 (op / 128)) (Fin.ofNat 32 (op / 4)) x)
  | 3 => .ok (.remu (Fin.ofNat 32 (op / 4096)) (Fin.ofNat 32 (op / 128)) (Fin.ofNat 32 (op / 4)) x)
  | _ => .error .reservedFunction

/-- Major 0x07 (R40): the instruction of the operand field W[31:15]. -/
def decMaj07 (op : Nat) (x : Ctl) : Except Reject Instr :=
  match op % 4 with
  | 0 => .ok (.min (Fin.ofNat 32 (op / 4096)) (Fin.ofNat 32 (op / 128)) (Fin.ofNat 32 (op / 4)) x)
  | 1 => .ok (.max (Fin.ofNat 32 (op / 4096)) (Fin.ofNat 32 (op / 128)) (Fin.ofNat 32 (op / 4)) x)
  | 2 => .ok (.minu (Fin.ofNat 32 (op / 4096)) (Fin.ofNat 32 (op / 128)) (Fin.ofNat 32 (op / 4)) x)
  | 3 => .ok (.maxu (Fin.ofNat 32 (op / 4096)) (Fin.ofNat 32 (op / 128)) (Fin.ofNat 32 (op / 4)) x)
  | _ => .error .reservedFunction

/-- Major 0x08 (R40): the instruction of the operand field W[31:15]. -/
def decMaj08 (op : Nat) (x : Ctl) : Except Reject Instr :=
  .ok (.addi (Fin.ofNat 32 (op / 4096)) (Fin.ofNat 32 (op / 128)) (BitVec.ofNat 7 op) x)

/-- Major 0x09 (R40): the instruction of the operand field W[31:15]. -/
def decMaj09 (op : Nat) (x : Ctl) : Except Reject Instr :=
  match op / 64 % 2 with
  | 0 => .ok (.slli (Fin.ofNat 32 (op / 4096)) (Fin.ofNat 32 (op / 128)) (BitVec.ofNat 6 op) x)
  | 1 => .ok (.srli (Fin.ofNat 32 (op / 4096)) (Fin.ofNat 32 (op / 128)) (BitVec.ofNat 6 op) x)
  | _ => .error .reservedFunction

/-- Major 0x0A (R40): the instruction of the operand field W[31:15]. -/
def decMaj0A (op : Nat) (x : Ctl) : Except Reject Instr :=
  match op / 64 % 2 with
  | 0 => .ok (.srai (Fin.ofNat 32 (op / 4096)) (Fin.ofNat 32 (op / 128)) (BitVec.ofNat 6 op) x)
  | 1 => .ok (.rori (Fin.ofNat 32 (op / 4096)) (Fin.ofNat 32 (op / 128)) (BitVec.ofNat 6 op) x)
  | _ => .error .reservedFunction

/-- Major 0x0B (R40): the instruction of the operand field W[31:15]. -/
def decMaj0B (op : Nat) (x : Ctl) : Except Reject Instr :=
  .ok (.li (Fin.ofNat 32 (op / 4096)) (BitVec.ofNat 12 op) x)

/-- Major 0x0C (R40): the instruction of the operand field W[31:15]. -/
def decMaj0C (op : Nat) (x : Ctl) : Except Reject Instr :=
  .ok (.ldc (Fin.ofNat 32 (op / 4096)) (BitVec.ofNat 12 op) x)

/-- Major 0x0D (R40): the instruction of the operand field W[31:15]. -/
def decMaj0D (op : Nat) (x : Ctl) : Except Reject Instr :=
  match op % 128 with
  | 0 => .ok (.popc (Fin.ofNat 32 (op / 4096)) (Fin.ofNat 32 (op / 128)) x)
  | 1 => .ok (.clz (Fin.ofNat 32 (op / 4096)) (Fin.ofNat 32 (op / 128)) x)
  | 2 => .ok (.ctz (Fin.ofNat 32 (op / 4096)) (Fin.ofNat 32 (op / 128)) x)
  | 3 => .ok (.brev (Fin.ofNat 32 (op / 4096)) (Fin.ofNat 32 (op / 128)) x)
  | 4 => .ok (.bswap (Fin.ofNat 32 (op / 4096)) (Fin.ofNat 32 (op / 128)) x)
  | 5 => .ok (.sextB (Fin.ofNat 32 (op / 4096)) (Fin.ofNat 32 (op / 128)) x)
  | 6 => .ok (.sextH (Fin.ofNat 32 (op / 4096)) (Fin.ofNat 32 (op / 128)) x)
  | 7 => .ok (.sextW (Fin.ofNat 32 (op / 4096)) (Fin.ofNat 32 (op / 128)) x)
  | 8 => .ok (.zextB (Fin.ofNat 32 (op / 4096)) (Fin.ofNat 32 (op / 128)) x)
  | 9 => .ok (.zextH (Fin.ofNat 32 (op / 4096)) (Fin.ofNat 32 (op / 128)) x)
  | 10 => .ok (.zextW (Fin.ofNat 32 (op / 4096)) (Fin.ofNat 32 (op / 128)) x)
  | _ => .error .reservedFunction

/-- Major 0x0E (R40): the instruction of the operand field W[31:15]. -/
def decMaj0E (op : Nat) (x : Ctl) : Except Reject Instr :=
  match op % 4 with
  | 0 => .ok (.bfx (Fin.ofNat 32 (op / 4096)) (Fin.ofNat 32 (op / 128)) (Fin.ofNat 32 (op / 4)) x)
  | 1 => .ok (.bfxs (Fin.ofNat 32 (op / 4096)) (Fin.ofNat 32 (op / 128)) (Fin.ofNat 32 (op / 4)) x)
  | 2 => .ok (.bfi (Fin.ofNat 32 (op / 4096)) (Fin.ofNat 32 (op / 128)) (Fin.ofNat 32 (op / 4)) x)
  | _ => .error .reservedFunction

/-- Major 0x0F (R40): the instruction of the operand field W[31:15]. -/
def decMaj0F (op : Nat) (x : Ctl) : Except Reject Instr :=
  .ok (.andi (Fin.ofNat 32 (op / 4096)) (Fin.ofNat 32 (op / 128)) (BitVec.ofNat 7 op) x)

/-- Major 0x10 (R40): the instruction of the operand field W[31:15]. -/
def decMaj10 (op : Nat) (x : Ctl) : Except Reject Instr :=
  match Cc.ofCode (op % 16) with | some c => .ok (.cmp (Fin.ofNat 8 (op / 16384)) (Fin.ofNat 32 (op / 512)) (Fin.ofNat 32 (op / 16)) c x) | _ => .error .reservedCode

/-- Major 0x11 (R40): the instruction of the operand field W[31:15]. -/
def decMaj11 (op : Nat) (x : Ctl) : Except Reject Instr :=
  match Cc.ofCode (op % 16) with | some c => .ok (.cmpi (Fin.ofNat 8 (op / 16384)) (Fin.ofNat 32 (op / 512)) (BitVec.ofNat 5 (op / 16)) c x) | _ => .error .reservedCode

/-- Major 0x12 (R40): the instruction of the operand field W[31:15]. -/
def decMaj12 (op : Nat) (x : Ctl) : Except Reject Instr :=
  match op / 8 % 2 with
  | 0 => if op % 8 = 0 then (.ok (.sel (Fin.ofNat 32 (op / 4096)) (Fin.ofNat 32 (op / 128)) (Fin.ofNat 8 (op / 16)) x)) else .error .reservedField
  | 1 => if op % 8 = 0 then (.ok (.selN (Fin.ofNat 32 (op / 4096)) (Fin.ofNat 32 (op / 128)) (Fin.ofNat 8 (op / 16)) x)) else .error .reservedField
  | _ => .error .reservedFunction

/-- Major 0x13 (R40): the instruction of the operand field W[31:15]. -/
def decMaj13 (op : Nat) (x : Ctl) : Except Reject Instr :=
  match op % 8 with
  | 0 => if op / 8 % 32 = 0 then (.ok (.pand (Fin.ofNat 8 (op / 16384)) (Fin.ofNat 8 (op / 2048)) (Fin.ofNat 8 (op / 256)) x)) else .error .reservedField
  | 1 => if op / 8 % 32 = 0 then (.ok (.por (Fin.ofNat 8 (op / 16384)) (Fin.ofNat 8 (op / 2048)) (Fin.ofNat 8 (op / 256)) x)) else .error .reservedField
  | 2 => if op / 8 % 32 = 0 then (.ok (.pxor (Fin.ofNat 8 (op / 16384)) (Fin.ofNat 8 (op / 2048)) (Fin.ofNat 8 (op / 256)) x)) else .error .reservedField
  | 3 => if op / 8 % 32 = 0 then (.ok (.pandn (Fin.ofNat 8 (op / 16384)) (Fin.ofNat 8 (op / 2048)) (Fin.ofNat 8 (op / 256)) x)) else .error .reservedField
  | 4 => if op / 8 % 256 = 0 then (.ok (.pnot (Fin.ofNat 8 (op / 16384)) (Fin.ofNat 8 (op / 2048)) x)) else .error .reservedField
  | 5 => if op / 256 % 64 = 0 then (.ok (.psetg (Fin.ofNat 8 (op / 16384)) (Fin.ofNat 32 (op / 8)) x)) else .error .reservedField
  | _ => .error .reservedFunction

/-- Major 0x14 (R40): the instruction of the operand field W[31:15]. -/
def decMaj14 (op : Nat) (x : Ctl) : Except Reject Instr :=
  match op / 8192 % 2 with
  | 0 => .ok (.bt (Fin.ofNat 8 (op / 16384)) (BitVec.ofNat 13 op) x)
  | 1 => .ok (.bf (Fin.ofNat 8 (op / 16384)) (BitVec.ofNat 13 op) x)
  | _ => .error .reservedFunction

/-- Major 0x15 (R40): the instruction of the operand field W[31:15]. -/
def decMaj15 (op : Nat) (x : Ctl) : Except Reject Instr :=
  .ok (.j (BitVec.ofNat 17 op) x)

/-- Major 0x16 (R40): the instruction of the operand field W[31:15]. -/
def decMaj16 (op : Nat) (x : Ctl) : Except Reject Instr :=
  .ok (.call (BitVec.ofNat 17 op) x)

/-- Major 0x17 (R40): the instruction of the operand field W[31:15]. -/
def decMaj17 (op : Nat) (x : Ctl) : Except Reject Instr :=
  match op % 128 with
  | 5 => if op / 128 % 32 = 0 then (.ok (.prd (Fin.ofNat 32 (op / 4096)) x)) else .error .reservedField
  | 0 => if op / 4096 % 32 = 0 then (.ok (.jr (Fin.ofNat 32 (op / 128)) x)) else .error .reservedField
  | 1 => .ok (.callr (Fin.ofNat 32 (op / 4096)) (Fin.ofNat 32 (op / 128)) x)
  | 2 => if op / 4096 % 32 = 0 then (.ok (.ret (Fin.ofNat 32 (op / 128)) x)) else .error .reservedField
  | 3 => if op / 128 % 1024 = 0 then (.ok (.brk x)) else .error .reservedField
  | 4 => if op / 128 % 1024 = 0 then (.ok (.lcut x)) else .error .reservedField
  | _ => .error .reservedFunction

/-- Major 0x18 (R40): the instruction of the operand field W[31:15]. -/
def decMaj18 (op : Nat) (x : Ctl) : Except Reject Instr :=
  .ok (.mfs (Fin.ofNat 32 (op / 4096)) (BitVec.ofNat 12 op) x)

/-- Major 0x19 (R40): the instruction of the operand field W[31:15]. -/
def decMaj19 (op : Nat) (x : Ctl) : Except Reject Instr :=
  match op % 4096 with
  | 0 => .ok (.mtsFpstat (Fin.ofNat 32 (op / 4096)) x)
  | 264 => .ok (.mtsAtomflags (Fin.ofNat 32 (op / 4096)) x)
  | 81 => .ok (.mtsEngerr (Fin.ofNat 32 (op / 4096)) x)
  | 91 => .ok (.mtsDerr (Fin.ofNat 32 (op / 4096)) x)
  | 85 => .ok (.mtsRpstat (Fin.ofNat 32 (op / 4096)) x)
  | _ => .ok (.mts (Fin.ofNat 32 (op / 4096)) (BitVec.ofNat 12 op) x)

/-- Major 0x1A (R40): the instruction of the operand field W[31:15]. -/
def decMaj1A (op : Nat) (x : Ctl) : Except Reject Instr :=
  .ok (.sld (Fin.ofNat 32 (op / 4096)) (Fin.ofNat 32 (op / 128)) (Sz.ofCode (op / 32)) (BitVec.ofNat 5 op) x)

/-- Major 0x1B (R40): the instruction of the operand field W[31:15]. -/
def decMaj1B (op : Nat) (x : Ctl) : Except Reject Instr :=
  .ok (.slds (Fin.ofNat 32 (op / 4096)) (Fin.ofNat 32 (op / 128)) (Sz.ofCode (op / 32)) (BitVec.ofNat 5 op) x)

/-- Major 0x1C (R40): the instruction of the operand field W[31:15]. -/
def decMaj1C (op : Nat) (x : Ctl) : Except Reject Instr :=
  .ok (.sst (Fin.ofNat 32 (op / 4096)) (Fin.ofNat 32 (op / 128)) (Sz.ofCode (op / 32)) (BitVec.ofNat 5 op) x)

/-- Major 0x1D (R40): the instruction of the operand field W[31:15]. -/
def decMaj1D (op : Nat) (x : Ctl) : Except Reject Instr :=
  match op % 128 with
  | 0 => if op / 4096 % 32 = 0 then (.ok (.trap (Fin.ofNat 32 (op / 128)) x)) else .error .reservedField
  | 1 => if op / 128 % 1024 = 0 then (.ok (.rte x)) else .error .reservedField
  | 2 => .ok (.ctxsv (Fin.ofNat 32 (op / 4096)) (Fin.ofNat 32 (op / 128)) x)
  | 3 => .ok (.ctxrs (Fin.ofNat 32 (op / 4096)) (Fin.ofNat 32 (op / 128)) x)
  | 4 => .ok (.snaprd (Fin.ofNat 32 (op / 4096)) (Fin.ofNat 32 (op / 128)) x)
  | 5 => .ok (.wfe (Fin.ofNat 32 (op / 4096)) (Fin.ofNat 32 (op / 128)) x)
  | _ => .error .reservedFunction

/-- Major 0x1E (R40): the instruction of the operand field W[31:15]. -/
def decMaj1E (op : Nat) (x : Ctl) : Except Reject Instr :=
  match op % 128 with
  | 0 => if op / 128 % 1024 = 0 then (.ok (.bar x)) else .error .reservedField
  | 1 => .ok (.quies (Fin.ofNat 32 (op / 4096)) (Fin.ofNat 32 (op / 128)) x)
  | 2 => if op / 128 % 32 = 0 then (.ok (.tkcnt (Fin.ofNat 32 (op / 4096)) x)) else .error .reservedField
  | 3 => .ok (.wlpush (Fin.ofNat 32 (op / 4096)) (Fin.ofNat 32 (op / 128)) x)
  | 4 => .ok (.wlpop (Fin.ofNat 32 (op / 4096)) (Fin.ofNat 32 (op / 128)) x)
  | _ => .error .reservedFunction

/-- Major 0x1F (R40): the instruction of the operand field W[31:15]. -/
def decMaj1F (op : Nat) (x : Ctl) : Except Reject Instr :=
  match op % 128 with
  | 0 => if op / 128 % 32 = 0 then (.ok (.tapeb (Fin.ofNat 32 (op / 4096)) x)) else .error .reservedField
  | 1 => if op / 128 % 32 = 0 then (.ok (.tapee (Fin.ofNat 32 (op / 4096)) x)) else .error .reservedField
  | 2 => .ok (.tguard (Fin.ofNat 32 (op / 4096)) (Fin.ofNat 32 (op / 128)) x)
  | 3 => if op / 4096 % 32 = 0 then (.ok (.tapeinv (Fin.ofNat 32 (op / 128)) x)) else .error .reservedField
  | 4 => .ok (.tapeq (Fin.ofNat 32 (op / 4096)) (Fin.ofNat 32 (op / 128)) x)
  | _ => .error .reservedFunction

/-- Major 0x20 (R40): the instruction of the operand field W[31:15]. -/
def decMaj20 (op : Nat) (x : Ctl) : Except Reject Instr :=
  match op % 4 with
  | 0 => .ok (.vadd (Fin.ofNat 32 (op / 4096)) (Fin.ofNat 32 (op / 128)) (Fin.ofNat 32 (op / 4)) x)
  | 1 => .ok (.vsub (Fin.ofNat 32 (op / 4096)) (Fin.ofNat 32 (op / 128)) (Fin.ofNat 32 (op / 4)) x)
  | 2 => .ok (.vmul (Fin.ofNat 32 (op / 4096)) (Fin.ofNat 32 (op / 128)) (Fin.ofNat 32 (op / 4)) x)
  | 3 => .ok (.vfma (Fin.ofNat 32 (op / 4096)) (Fin.ofNat 32 (op / 128)) (Fin.ofNat 32 (op / 4)) x)
  | _ => .error .reservedFunction

/-- Major 0x21 (R40): the instruction of the operand field W[31:15]. -/
def decMaj21 (op : Nat) (x : Ctl) : Except Reject Instr :=
  match op % 4 with
  | 0 => .ok (.vmin (Fin.ofNat 32 (op / 4096)) (Fin.ofNat 32 (op / 128)) (Fin.ofNat 32 (op / 4)) x)
  | 1 => .ok (.vmax (Fin.ofNat 32 (op / 4096)) (Fin.ofNat 32 (op / 128)) (Fin.ofNat 32 (op / 4)) x)
  | 2 => .ok (.vminn (Fin.ofNat 32 (op / 4096)) (Fin.ofNat 32 (op / 128)) (Fin.ofNat 32 (op / 4)) x)
  | 3 => .ok (.vmaxn (Fin.ofNat 32 (op / 4096)) (Fin.ofNat 32 (op / 128)) (Fin.ofNat 32 (op / 4)) x)
  | _ => .error .reservedFunction

/-- Major 0x22 (R40): the instruction of the operand field W[31:15]. -/
def decMaj22 (op : Nat) (x : Ctl) : Except Reject Instr :=
  match op % 4 with
  | 0 => .ok (.vand (Fin.ofNat 32 (op / 4096)) (Fin.ofNat 32 (op / 128)) (Fin.ofNat 32 (op / 4)) x)
  | 1 => .ok (.vor (Fin.ofNat 32 (op / 4096)) (Fin.ofNat 32 (op / 128)) (Fin.ofNat 32 (op / 4)) x)
  | 2 => .ok (.vxor (Fin.ofNat 32 (op / 4096)) (Fin.ofNat 32 (op / 128)) (Fin.ofNat 32 (op / 4)) x)
  | 3 => .ok (.vandn (Fin.ofNat 32 (op / 4096)) (Fin.ofNat 32 (op / 128)) (Fin.ofNat 32 (op / 4)) x)
  | _ => .error .reservedFunction

/-- Major 0x23 (R40): the instruction of the operand field W[31:15]. -/
def decMaj23 (op : Nat) (x : Ctl) : Except Reject Instr :=
  match op % 4 with
  | 0 => .ok (.vsll (Fin.ofNat 32 (op / 4096)) (Fin.ofNat 32 (op / 128)) (Fin.ofNat 32 (op / 4)) x)
  | 1 => .ok (.vsrl (Fin.ofNat 32 (op / 4096)) (Fin.ofNat 32 (op / 128)) (Fin.ofNat 32 (op / 4)) x)
  | 2 => .ok (.vsra (Fin.ofNat 32 (op / 4096)) (Fin.ofNat 32 (op / 128)) (Fin.ofNat 32 (op / 4)) x)
  | 3 => .ok (.vfshl (Fin.ofNat 32 (op / 4096)) (Fin.ofNat 32 (op / 128)) (Fin.ofNat 32 (op / 4)) x)
  | _ => .error .reservedFunction

/-- Major 0x24 (R40): the instruction of the operand field W[31:15]. -/
def decMaj24 (op : Nat) (x : Ctl) : Except Reject Instr :=
  match op % 4 with
  | 0 => .ok (.vfshr (Fin.ofNat 32 (op / 4096)) (Fin.ofNat 32 (op / 128)) (Fin.ofNat 32 (op / 4)) x)
  | 1 => .ok (.vsel (Fin.ofNat 32 (op / 4096)) (Fin.ofNat 32 (op / 128)) (Fin.ofNat 32 (op / 4)) x)
  | 2 => .ok (.vperm (Fin.ofNat 32 (op / 4096)) (Fin.ofNat 32 (op / 128)) (Fin.ofNat 32 (op / 4)) x)
  | 3 => .ok (.vabsd (Fin.ofNat 32 (op / 4096)) (Fin.ofNat 32 (op / 128)) (Fin.ofNat 32 (op / 4)) x)
  | _ => .error .reservedFunction

/-- Major 0x25 (R40): the instruction of the operand field W[31:15]. -/
def decMaj25 (op : Nat) (x : Ctl) : Except Reject Instr :=
  match Vcc.ofCode (op % 16) with | some c => .ok (.vcmp (Fin.ofNat 8 (op / 16384)) (Fin.ofNat 32 (op / 512)) (Fin.ofNat 32 (op / 16)) c x) | _ => .error .reservedCode

/-- Major 0x26 (R40): the instruction of the operand field W[31:15]. -/
def decMaj26 (op : Nat) (x : Ctl) : Except Reject Instr :=
  match op % 128 with
  | 0 => .ok (.vneg (Fin.ofNat 32 (op / 4096)) (Fin.ofNat 32 (op / 128)) x)
  | 1 => .ok (.vabs (Fin.ofNat 32 (op / 4096)) (Fin.ofNat 32 (op / 128)) x)
  | 2 => .ok (.vmov (Fin.ofNat 32 (op / 4096)) (Fin.ofNat 32 (op / 128)) x)
  | 3 => .ok (.vpopc (Fin.ofNat 32 (op / 4096)) (Fin.ofNat 32 (op / 128)) x)
  | 4 => .ok (.vclz (Fin.ofNat 32 (op / 4096)) (Fin.ofNat 32 (op / 128)) x)
  | 5 => .ok (.vctz (Fin.ofNat 32 (op / 4096)) (Fin.ofNat 32 (op / 128)) x)
  | 6 => .ok (.vbrev (Fin.ofNat 32 (op / 4096)) (Fin.ofNat 32 (op / 128)) x)
  | 8 => .ok (.vsqrt (Fin.ofNat 32 (op / 4096)) (Fin.ofNat 32 (op / 128)) x)
  | 9 => .ok (.vrcp (Fin.ofNat 32 (op / 4096)) (Fin.ofNat 32 (op / 128)) x)
  | 10 => .ok (.vrsqrt (Fin.ofNat 32 (op / 4096)) (Fin.ofNat 32 (op / 128)) x)
  | 11 => .ok (.vexp (Fin.ofNat 32 (op / 4096)) (Fin.ofNat 32 (op / 128)) x)
  | 12 => .ok (.vexp2 (Fin.ofNat 32 (op / 4096)) (Fin.ofNat 32 (op / 128)) x)
  | 13 => .ok (.vlog (Fin.ofNat 32 (op / 4096)) (Fin.ofNat 32 (op / 128)) x)
  | 14 => .ok (.vlog2 (Fin.ofNat 32 (op / 4096)) (Fin.ofNat 32 (op / 128)) x)
  | 15 => .ok (.vtanh (Fin.ofNat 32 (op / 4096)) (Fin.ofNat 32 (op / 128)) x)
  | 16 => .ok (.vsigm (Fin.ofNat 32 (op / 4096)) (Fin.ofNat 32 (op / 128)) x)
  | 17 => .ok (.vsin (Fin.ofNat 32 (op / 4096)) (Fin.ofNat 32 (op / 128)) x)
  | 18 => .ok (.vcos (Fin.ofNat 32 (op / 4096)) (Fin.ofNat 32 (op / 128)) x)
  | _ => .error .reservedFunction

/-- Major 0x27 (R40): the instruction of the operand field W[31:15]. -/
def decMaj27 (op : Nat) (x : Ctl) : Except Reject Instr :=
  .ok (.vcvt (Fin.ofNat 32 (op / 4096)) (Fin.ofNat 32 (op / 128)) (BitVec.ofNat 3 (op / 16)) (BitVec.ofNat 2 (op / 4)) (BitVec.ofNat 2 op) x)

/-- Major 0x28 (R40): the instruction of the operand field W[31:15]. -/
def decMaj28 (op : Nat) (x : Ctl) : Except Reject Instr :=
  .ok (.vcvtef (Fin.ofNat 32 (op / 4096)) (Fin.ofNat 32 (op / 128)) (Fin.ofNat 32 (op / 4)) (BitVec.ofNat 2 op) x)

/-- Major 0x29 (R40): the instruction of the operand field W[31:15]. -/
def decMaj29 (op : Nat) (x : Ctl) : Except Reject Instr :=
  match op / 8 % 16 with
  | 0 => .ok (.vrsum (Fin.ofNat 32 (op / 4096)) (Fin.ofNat 32 (op / 128)) (BitVec.ofNat 3 op) x)
  | 1 => .ok (.vrmax (Fin.ofNat 32 (op / 4096)) (Fin.ofNat 32 (op / 128)) (BitVec.ofNat 3 op) x)
  | 2 => .ok (.vrmin (Fin.ofNat 32 (op / 4096)) (Fin.ofNat 32 (op / 128)) (BitVec.ofNat 3 op) x)
  | 3 => .ok (.vrmaxu (Fin.ofNat 32 (op / 4096)) (Fin.ofNat 32 (op / 128)) (BitVec.ofNat 3 op) x)
  | 4 => .ok (.vrminu (Fin.ofNat 32 (op / 4096)) (Fin.ofNat 32 (op / 128)) (BitVec.ofNat 3 op) x)
  | 5 => .ok (.vrmaxa (Fin.ofNat 32 (op / 4096)) (Fin.ofNat 32 (op / 128)) (BitVec.ofNat 3 op) x)
  | 6 => .ok (.vror (Fin.ofNat 32 (op / 4096)) (Fin.ofNat 32 (op / 128)) (BitVec.ofNat 3 op) x)
  | 7 => .ok (.vrand (Fin.ofNat 32 (op / 4096)) (Fin.ofNat 32 (op / 128)) (BitVec.ofNat 3 op) x)
  | 8 => .ok (.vrxor (Fin.ofNat 32 (op / 4096)) (Fin.ofNat 32 (op / 128)) (BitVec.ofNat 3 op) x)
  | 9 => .ok (.vscan (Fin.ofNat 32 (op / 4096)) (Fin.ofNat 32 (op / 128)) (BitVec.ofNat 3 op) x)
  | 10 => .ok (.vscanmax (Fin.ofNat 32 (op / 4096)) (Fin.ofNat 32 (op / 128)) (BitVec.ofNat 3 op) x)
  | _ => .error .reservedFunction

/-- Major 0x2A (R40): the instruction of the operand field W[31:15]. -/
def decMaj2A (op : Nat) (x : Ctl) : Except Reject Instr :=
  match op % 128 with
  | 0 => .ok (.vcmpr (Fin.ofNat 32 (op / 4096)) (Fin.ofNat 32 (op / 128)) x)
  | 1 => .ok (.vexpd (Fin.ofNat 32 (op / 4096)) (Fin.ofNat 32 (op / 128)) x)
  | 2 => .ok (.vbcast (Fin.ofNat 32 (op / 4096)) (Fin.ofNat 32 (op / 128)) x)
  | 3 => .ok (.vextr (Fin.ofNat 32 (op / 4096)) (Fin.ofNat 32 (op / 128)) x)
  | 4 => if op / 1024 % 4 = 0 then (.ok (.vfromm (Fin.ofNat 32 (op / 4096)) (Fin.ofNat 8 (op / 128)) x)) else .error .reservedField
  | 5 => if op / 32768 % 4 = 0 then (.ok (.vtom (Fin.ofNat 8 (op / 4096)) (Fin.ofNat 32 (op / 128)) x)) else .error .reservedField
  | 6 => if op / 128 % 32 = 0 then (.ok (.viota (Fin.ofNat 32 (op / 4096)) x)) else .error .reservedField
  | _ => .error .reservedFunction

/-- Major 0x2B (R40): the instruction of the operand field W[31:15]. -/
def decMaj2B (op : Nat) (x : Ctl) : Except Reject Instr :=
  match op % 4 with
  | 0 => .ok (.vosm (Fin.ofNat 32 (op / 4096)) (Fin.ofNat 32 (op / 128)) (Fin.ofNat 32 (op / 4)) x)
  | 1 => .ok (.vlse (Fin.ofNat 32 (op / 4096)) (Fin.ofNat 32 (op / 128)) (BitVec.ofNat 5 (op / 4)) x)
  | 2 => .ok (.vdefer (Fin.ofNat 32 (op / 4096)) (Fin.ofNat 32 (op / 128)) (Fin.ofNat 32 (op / 4)) x)
  | 3 => if op / 32768 % 4 = 0 then (.ok (.vconf (Fin.ofNat 8 (op / 4096)) (Fin.ofNat 32 (op / 128)) (Fin.ofNat 32 (op / 4)) x)) else .error .reservedField
  | _ => .error .reservedFunction

/-- Major 0x2C (R40): the instruction of the operand field W[31:15]. -/
def decMaj2C (op : Nat) (x : Ctl) : Except Reject Instr :=
  match op % 8 with
  | 0 => if op / 8 % 32 = 0 then (.ok (.mand (Fin.ofNat 8 (op / 16384)) (Fin.ofNat 8 (op / 2048)) (Fin.ofNat 8 (op / 256)) x)) else .error .reservedField
  | 1 => if op / 8 % 32 = 0 then (.ok (.mor (Fin.ofNat 8 (op / 16384)) (Fin.ofNat 8 (op / 2048)) (Fin.ofNat 8 (op / 256)) x)) else .error .reservedField
  | 2 => if op / 8 % 32 = 0 then (.ok (.mxor (Fin.ofNat 8 (op / 16384)) (Fin.ofNat 8 (op / 2048)) (Fin.ofNat 8 (op / 256)) x)) else .error .reservedField
  | 3 => if op / 8 % 32 = 0 then (.ok (.mandn (Fin.ofNat 8 (op / 16384)) (Fin.ofNat 8 (op / 2048)) (Fin.ofNat 8 (op / 256)) x)) else .error .reservedField
  | 4 => if op / 8 % 256 = 0 then (.ok (.mnot (Fin.ofNat 8 (op / 16384)) (Fin.ofNat 8 (op / 2048)) x)) else .error .reservedField
  | 5 => if op / 256 % 64 = 0 then (.ok (.msetl (Fin.ofNat 8 (op / 16384)) (Fin.ofNat 32 (op / 8)) x)) else .error .reservedField
  | 6 => if op / 256 % 8 = 0 ∧ op / 16384 % 8 = 0 then (.ok (.mcnt (Fin.ofNat 8 (op / 2048)) (Fin.ofNat 32 (op / 8)) x)) else .error .reservedField
  | 7 => if op / 256 % 8 = 0 ∧ op / 16384 % 8 = 0 then (.ok (.mffs (Fin.ofNat 8 (op / 2048)) (Fin.ofNat 32 (op / 8)) x)) else .error .reservedField
  | _ => .error .reservedFunction

/-- Major 0x2D (R40): the instruction of the operand field W[31:15]. -/
def decMaj2D (op : Nat) (x : Ctl) : Except Reject Instr :=
  match op / 32 % 4 with
  | 0 => .ok (.vld (Fin.ofNat 32 (op / 4096)) (Fin.ofNat 32 (op / 128)) (BitVec.ofNat 5 op) x)
  | 1 => .ok (.vst (Fin.ofNat 32 (op / 4096)) (Fin.ofNat 32 (op / 128)) (BitVec.ofNat 5 op) x)
  | 2 => .ok (.vstu (Fin.ofNat 32 (op / 4096)) (Fin.ofNat 32 (op / 128)) (BitVec.ofNat 5 op) x)
  | _ => .error .reservedFunction

/-- Major 0x2E (R40): the instruction of the operand field W[31:15]. -/
def decMaj2E (op : Nat) (x : Ctl) : Except Reject Instr :=
  match op % 4 with
  | 0 => if op / 4096 % 32 = 0 then (.ok (.mma (Fin.ofNat 32 (op / 128)) (Fin.ofNat 32 (op / 4)) x)) else .error .reservedField
  | 1 => .ok (.mmas (Fin.ofNat 32 (op / 4096)) (Fin.ofNat 32 (op / 128)) (Fin.ofNat 32 (op / 4)) x)
  | 2 => .ok (.mgang (Fin.ofNat 32 (op / 4096)) (Fin.ofNat 32 (op / 128)) (Fin.ofNat 32 (op / 4)) x)
  | 3 => if op / 4 % 32768 = 0 then (.ok (.mzero x)) else .error .reservedField
  | _ => .error .reservedFunction

/-- Major 0x2F (R40): the instruction of the operand field W[31:15]. -/
def decMaj2F (op : Nat) (x : Ctl) : Except Reject Instr :=
  match op % 4 with
  | 0 => .ok (.mdrain (Fin.ofNat 32 (op / 4096)) (Fin.ofNat 32 (op / 128)) (Fin.ofNat 32 (op / 4)) x)
  | 1 => if op / 4 % 32 = 0 ∧ op / 4096 % 32 = 0 then (.ok (.mcfg (Fin.ofNat 32 (op / 128)) x)) else .error .reservedField
  | 2 => if op / 4096 % 32 = 0 then (.ok (.msave (Fin.ofNat 32 (op / 128)) (Fin.ofNat 32 (op / 4)) x)) else .error .reservedField
  | 3 => if op / 4096 % 32 = 0 then (.ok (.mload (Fin.ofNat 32 (op / 128)) (Fin.ofNat 32 (op / 4)) x)) else .error .reservedField
  | _ => .error .reservedFunction

/-- Major 0x30 (R40): the instruction of the operand field W[31:15]. -/
def decMaj30 (op : Nat) (x : Ctl) : Except Reject Instr :=
  .ok (.ld (Fin.ofNat 32 (op / 4096)) (Fin.ofNat 32 (op / 128)) (Sz.ofCode (op / 32)) (Hint.ofCode (op / 8)) (BitVec.ofNat 3 op) x)

/-- Major 0x31 (R40): the instruction of the operand field W[31:15]. -/
def decMaj31 (op : Nat) (x : Ctl) : Except Reject Instr :=
  .ok (.lds (Fin.ofNat 32 (op / 4096)) (Fin.ofNat 32 (op / 128)) (Sz.ofCode (op / 32)) (Hint.ofCode (op / 8)) (BitVec.ofNat 3 op) x)

/-- Major 0x32 (R40): the instruction of the operand field W[31:15]. -/
def decMaj32 (op : Nat) (x : Ctl) : Except Reject Instr :=
  .ok (.ldAcq (Fin.ofNat 32 (op / 4096)) (Fin.ofNat 32 (op / 128)) (Sz.ofCode (op / 32)) (Hint.ofCode (op / 8)) (BitVec.ofNat 3 op) x)

/-- Major 0x33 (R40): the instruction of the operand field W[31:15]. -/
def decMaj33 (op : Nat) (x : Ctl) : Except Reject Instr :=
  .ok (.st (Fin.ofNat 32 (op / 4096)) (Fin.ofNat 32 (op / 128)) (Sz.ofCode (op / 32)) (Hint.ofCode (op / 8)) (BitVec.ofNat 3 op) x)

/-- Major 0x34 (R40): the instruction of the operand field W[31:15]. -/
def decMaj34 (op : Nat) (x : Ctl) : Except Reject Instr :=
  .ok (.stRel (Fin.ofNat 32 (op / 4096)) (Fin.ofNat 32 (op / 128)) (Sz.ofCode (op / 32)) (Hint.ofCode (op / 8)) (BitVec.ofNat 3 op) x)

/-- Major 0x35 (R40): the instruction of the operand field W[31:15]. -/
def decMaj35 (op : Nat) (x : Ctl) : Except Reject Instr :=
  match op / 8 % 4 with
  | 0 => .ok (.vldg (Fin.ofNat 32 (op / 4096)) (Fin.ofNat 32 (op / 128)) (Hint.ofCode (op / 32)) (BitVec.ofNat 3 op) x)
  | 1 => .ok (.vldgAcq (Fin.ofNat 32 (op / 4096)) (Fin.ofNat 32 (op / 128)) (Hint.ofCode (op / 32)) (BitVec.ofNat 3 op) x)
  | 2 => .ok (.vstg (Fin.ofNat 32 (op / 4096)) (Fin.ofNat 32 (op / 128)) (Hint.ofCode (op / 32)) (BitVec.ofNat 3 op) x)
  | 3 => .ok (.vstgRel (Fin.ofNat 32 (op / 4096)) (Fin.ofNat 32 (op / 128)) (Hint.ofCode (op / 32)) (BitVec.ofNat 3 op) x)
  | _ => .error .reservedFunction

/-- Major 0x36 (R40): the instruction of the operand field W[31:15]. -/
def decMaj36 (op : Nat) (x : Ctl) : Except Reject Instr :=
  match op / 4 % 16 with
  | 0 => .ok (.amoAdd (Fin.ofNat 32 (op / 4096)) (Fin.ofNat 32 (op / 128)) (((op / 64) % 2 == 1)) (Sz.ofCode op) x)
  | 1 => .ok (.amoAnd (Fin.ofNat 32 (op / 4096)) (Fin.ofNat 32 (op / 128)) (((op / 64) % 2 == 1)) (Sz.ofCode op) x)
  | 2 => .ok (.amoOr (Fin.ofNat 32 (op / 4096)) (Fin.ofNat 32 (op / 128)) (((op / 64) % 2 == 1)) (Sz.ofCode op) x)
  | 3 => .ok (.amoXor (Fin.ofNat 32 (op / 4096)) (Fin.ofNat 32 (op / 128)) (((op / 64) % 2 == 1)) (Sz.ofCode op) x)
  | 4 => .ok (.amoMin (Fin.ofNat 32 (op / 4096)) (Fin.ofNat 32 (op / 128)) (((op / 64) % 2 == 1)) (Sz.ofCode op) x)
  | 5 => .ok (.amoMax (Fin.ofNat 32 (op / 4096)) (Fin.ofNat 32 (op / 128)) (((op / 64) % 2 == 1)) (Sz.ofCode op) x)
  | 6 => .ok (.amoMinu (Fin.ofNat 32 (op / 4096)) (Fin.ofNat 32 (op / 128)) (((op / 64) % 2 == 1)) (Sz.ofCode op) x)
  | 7 => .ok (.amoMaxu (Fin.ofNat 32 (op / 4096)) (Fin.ofNat 32 (op / 128)) (((op / 64) % 2 == 1)) (Sz.ofCode op) x)
  | 8 => .ok (.amoSwap (Fin.ofNat 32 (op / 4096)) (Fin.ofNat 32 (op / 128)) (((op / 64) % 2 == 1)) (Sz.ofCode op) x)
  | 9 => .ok (.amoCas (Fin.ofNat 32 (op / 4096)) (Fin.ofNat 32 (op / 128)) (((op / 64) % 2 == 1)) (Sz.ofCode op) x)
  | 10 => .ok (.amoFadd (Fin.ofNat 32 (op / 4096)) (Fin.ofNat 32 (op / 128)) (((op / 64) % 2 == 1)) (Sz.ofCode op) x)
  | _ => .error .reservedFunction

/-- Major 0x37 (R40): the instruction of the operand field W[31:15]. -/
def decMaj37 (op : Nat) (x : Ctl) : Except Reject Instr :=
  match op / 4 % 32 with
  | 0 => if op % 4 = 0 then (.ok (.plnstOr (Fin.ofNat 32 (op / 4096)) (Fin.ofNat 32 (op / 128)) x)) else .error .reservedField
  | 1 => if op % 4 = 0 then (.ok (.plnstAnd (Fin.ofNat 32 (op / 4096)) (Fin.ofNat 32 (op / 128)) x)) else .error .reservedField
  | _ => .error .reservedFunction

/-- Major 0x38 (R40): the instruction of the operand field W[31:15]. -/
def decMaj38 (op : Nat) (x : Ctl) : Except Reject Instr :=
  match op / 16384 % 8 with
  | 0 => if op % 2048 = 0 then (match Scope.ofCode ((op / 2048) % 8) with | some s => .ok (.fence s x) | _ => .error .reservedCode) else .error .reservedField
  | 1 => if op % 32 = 0 then (match Scope.ofCode ((op / 2048) % 8), PathClass.ofCode ((op / 256) % 8), PathClass.ofCode ((op / 32) % 8) with | some s, some c, some e => .ok (.fencex s c e x) | _, _, _ => .error .reservedCode) else .error .reservedField
  | 2 => if op % 2048 = 0 then (match Scope.ofCode ((op / 2048) % 8) with | some s => .ok (.publ s x) | _ => .error .reservedCode) else .error .reservedField
  | 3 => if op / 32 % 512 = 0 then (.ok (.cflush (Fin.ofNat 32 op) x)) else .error .reservedField
  | 4 => if op / 32 % 512 = 0 then (.ok (.cinv (Fin.ofNat 32 op) x)) else .error .reservedField
  | 5 => if op / 32 % 64 = 0 then (.ok (.cpref (((op / 8192) % 2 == 1)) (Hint.ofCode (op / 2048)) (Fin.ofNat 32 op) x)) else .error .reservedField
  | _ => .error .reservedFunction

/-- Major 0x39 (R40): the instruction of the operand field W[31:15]. -/
def decMaj39 (op : Nat) (x : Ctl) : Except Reject Instr :=
  match op % 4 with
  | 0 => .ok (.ntld (Fin.ofNat 32 (op / 4096)) (Fin.ofNat 32 (op / 128)) (Fin.ofNat 32 (op / 4)) x)
  | 1 => if op / 4 % 32 = 0 ∧ op / 4096 % 32 = 0 then (.ok (.ntlock (Fin.ofNat 32 (op / 128)) x)) else .error .reservedField
  | 2 => if op / 4 % 32 = 0 ∧ op / 4096 % 32 = 0 then (.ok (.ntunl (Fin.ofNat 32 (op / 128)) x)) else .error .reservedField
  | _ => .error .reservedFunction

/-- Major 0x3A (R40): the instruction of the operand field W[31:15]. -/
def decMaj3A (op : Nat) (x : Ctl) : Except Reject Instr :=
  match op % 2 with
  | 0 => .ok (.cpy (BitVec.ofNat 6 (op / 2048)) (Fin.ofNat 32 (op / 64)) (Fin.ofNat 32 (op / 2)) x)
  | 1 => .ok (.cpy2d (BitVec.ofNat 6 (op / 2048)) (Fin.ofNat 32 (op / 64)) (Fin.ofNat 32 (op / 2)) x)
  | _ => .error .reservedFunction

/-- Major 0x3B (R40): the instruction of the operand field W[31:15]. -/
def decMaj3B (op : Nat) (x : Ctl) : Except Reject Instr :=
  match op % 2 with
  | 0 => .ok (.gath (BitVec.ofNat 6 (op / 2048)) (Fin.ofNat 32 (op / 64)) (Fin.ofNat 32 (op / 2)) x)
  | 1 => .ok (.scat (BitVec.ofNat 6 (op / 2048)) (Fin.ofNat 32 (op / 64)) (Fin.ofNat 32 (op / 2)) x)
  | _ => .error .reservedFunction

/-- Major 0x3C (R40): the instruction of the operand field W[31:15]. -/
def decMaj3C (op : Nat) (x : Ctl) : Except Reject Instr :=
  match op % 4 with
  | 0 => if op / 4 % 32 = 0 then (.ok (.wtany (Fin.ofNat 32 (op / 4096)) (Fin.ofNat 32 (op / 128)) x)) else .error .reservedField
  | 1 => if op / 4 % 32 = 0 then (.ok (.wtall (Fin.ofNat 32 (op / 4096)) (Fin.ofNat 32 (op / 128)) x)) else .error .reservedField
  | 2 => if op / 4 % 32 = 0 then (.ok (.ffrdy (Fin.ofNat 32 (op / 4096)) (Fin.ofNat 32 (op / 128)) x)) else .error .reservedField
  | 3 => if op / 4 % 32 = 0 ∧ op / 4096 % 32 = 0 then (.ok (.tagclr (Fin.ofNat 32 (op / 128)) x)) else .error .reservedField
  | _ => .error .reservedFunction

/-- Major 0x3D (R40): the instruction of the operand field W[31:15]. -/
def decMaj3D (op : Nat) (x : Ctl) : Except Reject Instr :=
  match op % 128 with
  | 0 => .ok (.pxhash (Fin.ofNat 32 (op / 4096)) (Fin.ofNat 32 (op / 128)) x)
  | 1 => .ok (.pxlook (Fin.ofNat 32 (op / 4096)) (Fin.ofNat 32 (op / 128)) x)
  | 2 => .ok (.pxpin (Fin.ofNat 32 (op / 4096)) (Fin.ofNat 32 (op / 128)) x)
  | 3 => .ok (.pxunpin (Fin.ofNat 32 (op / 4096)) (Fin.ofNat 32 (op / 128)) x)
  | 4 => .ok (.pxseal (Fin.ofNat 32 (op / 4096)) (Fin.ofNat 32 (op / 128)) x)
  | 5 => .ok (.pxalloc (Fin.ofNat 32 (op / 4096)) (Fin.ofNat 32 (op / 128)) x)
  | 6 => .ok (.pxlease (Fin.ofNat 32 (op / 4096)) (Fin.ofNat 32 (op / 128)) x)
  | 7 => .ok (.pxprom (Fin.ofNat 32 (op / 4096)) (Fin.ofNat 32 (op / 128)) x)
  | 8 => .ok (.kmerge (Fin.ofNat 32 (op / 4096)) (Fin.ofNat 32 (op / 128)) x)
  | 9 => .ok (.bfill (Fin.ofNat 32 (op / 4096)) (Fin.ofNat 32 (op / 128)) x)
  | 10 => if op / 4096 % 32 = 0 then (.ok (.bfwait (Fin.ofNat 32 (op / 128)) x)) else .error .reservedField
  | 11 => .ok (.plan (Fin.ofNat 32 (op / 4096)) (Fin.ofNat 32 (op / 128)) x)
  | 12 => .ok (.pxfetch (Fin.ofNat 32 (op / 4096)) (Fin.ofNat 32 (op / 128)) x)
  | 13 => .ok (.pxrepl (Fin.ofNat 32 (op / 4096)) (Fin.ofNat 32 (op / 128)) x)
  | _ => .error .reservedFunction

/-- Major 0x3E (R40): the instruction of the operand field W[31:15]. -/
def decMaj3E (op : Nat) (x : Ctl) : Except Reject Instr :=
  match op % 4 with
  | 0 => .ok (.kvld (Fin.ofNat 32 (op / 4096)) (Fin.ofNat 32 (op / 128)) (Fin.ofNat 32 (op / 4)) x)
  | 1 => .ok (.kvst (Fin.ofNat 32 (op / 4096)) (Fin.ofNat 32 (op / 128)) (Fin.ofNat 32 (op / 4)) x)
  | _ => .error .reservedFunction

/-- Major 0x3F (R40): the instruction of the operand field W[31:15]. -/
def decMaj3F (op : Nat) (x : Ctl) : Except Reject Instr :=
  match op % 128 with
  | 0 => .ok (.rld (Fin.ofNat 32 (op / 4096)) (Fin.ofNat 32 (op / 128)) x)
  | 1 => .ok (.rst (Fin.ofNat 32 (op / 4096)) (Fin.ofNat 32 (op / 128)) x)
  | 2 => .ok (.ramo (Fin.ofNat 32 (op / 4096)) (Fin.ofNat 32 (op / 128)) x)
  | 3 => .ok (.charter (Fin.ofNat 32 (op / 4096)) (Fin.ofNat 32 (op / 128)) x)
  | 4 => .ok (.castoff (Fin.ofNat 32 (op / 4096)) (Fin.ofNat 32 (op / 128)) x)
  | 5 => .ok (.laneq (Fin.ofNat 32 (op / 4096)) (Fin.ofNat 32 (op / 128)) x)
  | _ => .error .reservedFunction

/-- The instruction of major `maj` with operand field `op` (R40, R41). -/
def decodeOperand (maj op : Nat) (x : Ctl) : Except Reject Instr :=
  match maj with
  | 0x01 => decMaj01 op x
  | 0x02 => decMaj02 op x
  | 0x03 => decMaj03 op x
  | 0x04 => decMaj04 op x
  | 0x05 => decMaj05 op x
  | 0x06 => decMaj06 op x
  | 0x07 => decMaj07 op x
  | 0x08 => decMaj08 op x
  | 0x09 => decMaj09 op x
  | 0x0A => decMaj0A op x
  | 0x0B => decMaj0B op x
  | 0x0C => decMaj0C op x
  | 0x0D => decMaj0D op x
  | 0x0E => decMaj0E op x
  | 0x0F => decMaj0F op x
  | 0x10 => decMaj10 op x
  | 0x11 => decMaj11 op x
  | 0x12 => decMaj12 op x
  | 0x13 => decMaj13 op x
  | 0x14 => decMaj14 op x
  | 0x15 => decMaj15 op x
  | 0x16 => decMaj16 op x
  | 0x17 => decMaj17 op x
  | 0x18 => decMaj18 op x
  | 0x19 => decMaj19 op x
  | 0x1A => decMaj1A op x
  | 0x1B => decMaj1B op x
  | 0x1C => decMaj1C op x
  | 0x1D => decMaj1D op x
  | 0x1E => decMaj1E op x
  | 0x1F => decMaj1F op x
  | 0x20 => decMaj20 op x
  | 0x21 => decMaj21 op x
  | 0x22 => decMaj22 op x
  | 0x23 => decMaj23 op x
  | 0x24 => decMaj24 op x
  | 0x25 => decMaj25 op x
  | 0x26 => decMaj26 op x
  | 0x27 => decMaj27 op x
  | 0x28 => decMaj28 op x
  | 0x29 => decMaj29 op x
  | 0x2A => decMaj2A op x
  | 0x2B => decMaj2B op x
  | 0x2C => decMaj2C op x
  | 0x2D => decMaj2D op x
  | 0x2E => decMaj2E op x
  | 0x2F => decMaj2F op x
  | 0x30 => decMaj30 op x
  | 0x31 => decMaj31 op x
  | 0x32 => decMaj32 op x
  | 0x33 => decMaj33 op x
  | 0x34 => decMaj34 op x
  | 0x35 => decMaj35 op x
  | 0x36 => decMaj36 op x
  | 0x37 => decMaj37 op x
  | 0x38 => decMaj38 op x
  | 0x39 => decMaj39 op x
  | 0x3A => decMaj3A op x
  | 0x3B => decMaj3B op x
  | 0x3C => decMaj3C op x
  | 0x3D => decMaj3D op x
  | 0x3E => decMaj3E op x
  | 0x3F => decMaj3F op x
  | _ => .error .reservedMajor

/-- A 16-bit parcel with bit 0 clear (R39). -/
noncomputable def decode16 (p : Nat) : Except Reject Instr :=
  match p / 2 % 16 with
  | 0 => .error .parcelOpZero
  | 1 => if p / 32 = 0 then .ok .cNop else .error .reservedField
  | 2 => if p / 32 % 2 = 0 then .ok (.cMv (Fin.ofNat 32 (p / 2048)) (Fin.ofNat 32 (p / 64))) else .error .reservedField
  | 3 => .ok (.cLi (Fin.ofNat 32 (p / 2048)) (BitVec.ofNat 6 (p / 32)))
  | 4 => .ok (.cAddi (Fin.ofNat 32 (p / 2048)) (BitVec.ofNat 6 (p / 32)))
  | 5 => if p / 32 % 2 = 0 then .ok (.cAdd (Fin.ofNat 32 (p / 2048)) (Fin.ofNat 32 (p / 64))) else .error .reservedField
  | 6 => if p / 32 % 2 = 0 then .ok (.cSub (Fin.ofNat 32 (p / 2048)) (Fin.ofNat 32 (p / 64))) else .error .reservedField
  | 7 => if p / 32 % 2 = 0 then .ok (.cAnd (Fin.ofNat 32 (p / 2048)) (Fin.ofNat 32 (p / 64))) else .error .reservedField
  | 8 => if p / 32 % 2 = 0 then .ok (.cOr (Fin.ofNat 32 (p / 2048)) (Fin.ofNat 32 (p / 64))) else .error .reservedField
  | 9 => if p / 32 % 2 = 0 then .ok (.cXor (Fin.ofNat 32 (p / 2048)) (Fin.ofNat 32 (p / 64))) else .error .reservedField
  | 10 => .ok (.cSlli (Fin.ofNat 32 (p / 2048)) (BitVec.ofNat 6 (p / 32)))
  | 11 => .ok (.cSrli (Fin.ofNat 32 (p / 2048)) (BitVec.ofNat 6 (p / 32)))
  | 12 => .ok (.cSrai (Fin.ofNat 32 (p / 2048)) (BitVec.ofNat 6 (p / 32)))
  | 13 => .ok (.cBr (BitVec.ofNat 11 (p / 32)))
  | 14 => .ok (.cBt (Fin.ofNat 8 (p / 8192)) (BitVec.ofNat 8 (p / 32)))
  | 15 => .ok (.cBf (Fin.ofNat 8 (p / 8192)) (BitVec.ofNat 8 (p / 32)))
  | _ => .error .parcelOpZero

/-- The fields common to 32-bit words (R16, R35). -/
def ctlOf (w : Nat) (mask : Option (BitVec 32)) : Ctl :=
  { lat := BitVec.ofNat 3 (w / 64), wf := w / 4 % 2 == 1, sf := w / 8 % 2 == 1, wb := w / 16 % 2 == 1,
    sb := w / 32 % 2 == 1, safe := mask }

/-- The fields of a word or parcel, before the checks of `Instr.wf`. -/
noncomputable def decodeFields : Enc → Except Reject Instr
  | .parcel p => decode16 p
  | .word w m => decodeOperand (w / 512 % 64) (w / 32768) (ctlOf w m)

/-- Decodes one whole instruction (R34). -/
noncomputable def decode (e : Enc) : Except Reject Instr :=
  match decodeFields e with
  | .error r => .error r
  | .ok i => if i.wf then .ok i else .error .reservedCode

/-- The little-endian value of bytes (R4). -/
def leNat : List Byte → Nat
  | [] => 0
  | b :: bs => b.toNat + 256 * leNat bs

/-- How many bytes the instruction has whose first parcel is `p`: bit 0 gives its width (R16), S its mask word (R17). -/
def encBytes (p : Nat) : Nat :=
  if p % 2 = 0 then 2 else if p / 2 % 2 = 0 then 4 else 8

/-- The encoded instruction that bytes hold, in the order of their addresses (R16, R17, R43). -/
def encOfBytes (bs : List Byte) : Except Reject Enc :=
  match bs with
  | b0 :: b1 :: rest =>
    let p := leNat [b0, b1]
    if p % 2 = 0 then .ok (.parcel p)
    else match rest with
      | b2 :: b3 :: rest2 =>
        let w := leNat [b0, b1, b2, b3]
        if p / 2 % 2 = 0 then .ok (.word w none)
        else match rest2 with
          | b4 :: b5 :: b6 :: b7 :: _ => .ok (.word w (some (BitVec.ofNat 32 (leNat [b4, b5, b6, b7]))))
          | _ => .error .truncated
      | _ => .error .truncated
  | _ => .error .truncated

/-- Decodes the instruction that bytes begin with. -/
noncomputable def decodeBytes (bs : List Byte) : Except Reject Instr :=
  match encOfBytes bs with
  | .error r => .error r
  | .ok e => decode e

/-- The 32-bit word of a major, an operand field and the common fields (R16). -/
def word32 (maj op : Nat) (x : Ctl) : Nat :=
  op * 32768 + maj * 512 + x.lat.toNat * 64 + x.sb.toNat * 32 + x.wb.toNat * 16 + x.sf.toNat * 8 + x.wf.toNat * 4
    + x.safe.isSome.toNat * 2 + 1


/-- The encoding of an instruction, from the tables of R16, R36 to R44: none for a step that has no encoding. -/
def encode : Instr → Option Enc
  | .blk i r n => some (.word (word32 0x01 (i.toNat * 65536 + r.toNat * 512 + n.toNat) Ctl.plain) none)
  | .add d a b x => some (.word (word32 0x02 (d.val * 4096 + a.val * 128 + b.val * 4) x) x.safe)
  | .sub d a b x => some (.word (word32 0x02 (d.val * 4096 + a.val * 128 + b.val * 4 + 1) x) x.safe)
  | .and d a b x => some (.word (word32 0x02 (d.val * 4096 + a.val * 128 + b.val * 4 + 2) x) x.safe)
  | .or d a b x => some (.word (word32 0x02 (d.val * 4096 + a.val * 128 + b.val * 4 + 3) x) x.safe)
  | .xor d a b x => some (.word (word32 0x03 (d.val * 4096 + a.val * 128 + b.val * 4) x) x.safe)
  | .andn d a b x => some (.word (word32 0x03 (d.val * 4096 + a.val * 128 + b.val * 4 + 1) x) x.safe)
  | .sll d a b x => some (.word (word32 0x03 (d.val * 4096 + a.val * 128 + b.val * 4 + 2) x) x.safe)
  | .srl d a b x => some (.word (word32 0x03 (d.val * 4096 + a.val * 128 + b.val * 4 + 3) x) x.safe)
  | .sra d a b x => some (.word (word32 0x04 (d.val * 4096 + a.val * 128 + b.val * 4) x) x.safe)
  | .ror d a b x => some (.word (word32 0x04 (d.val * 4096 + a.val * 128 + b.val * 4 + 1) x) x.safe)
  | .fshl d a b x => some (.word (word32 0x04 (d.val * 4096 + a.val * 128 + b.val * 4 + 2) x) x.safe)
  | .fshr d a b x => some (.word (word32 0x04 (d.val * 4096 + a.val * 128 + b.val * 4 + 3) x) x.safe)
  | .mul d a b x => some (.word (word32 0x05 (d.val * 4096 + a.val * 128 + b.val * 4) x) x.safe)
  | .mulh d a b x => some (.word (word32 0x05 (d.val * 4096 + a.val * 128 + b.val * 4 + 1) x) x.safe)
  | .mulhu d a b x => some (.word (word32 0x05 (d.val * 4096 + a.val * 128 + b.val * 4 + 2) x) x.safe)
  | .fns d a b x => some (.word (word32 0x05 (d.val * 4096 + a.val * 128 + b.val * 4 + 3) x) x.safe)
  | .div d a b x => some (.word (word32 0x06 (d.val * 4096 + a.val * 128 + b.val * 4) x) x.safe)
  | .divu d a b x => some (.word (word32 0x06 (d.val * 4096 + a.val * 128 + b.val * 4 + 1) x) x.safe)
  | .rem d a b x => some (.word (word32 0x06 (d.val * 4096 + a.val * 128 + b.val * 4 + 2) x) x.safe)
  | .remu d a b x => some (.word (word32 0x06 (d.val * 4096 + a.val * 128 + b.val * 4 + 3) x) x.safe)
  | .min d a b x => some (.word (word32 0x07 (d.val * 4096 + a.val * 128 + b.val * 4) x) x.safe)
  | .max d a b x => some (.word (word32 0x07 (d.val * 4096 + a.val * 128 + b.val * 4 + 1) x) x.safe)
  | .minu d a b x => some (.word (word32 0x07 (d.val * 4096 + a.val * 128 + b.val * 4 + 2) x) x.safe)
  | .maxu d a b x => some (.word (word32 0x07 (d.val * 4096 + a.val * 128 + b.val * 4 + 3) x) x.safe)
  | .addi d a i x => some (.word (word32 0x08 (d.val * 4096 + a.val * 128 + i.toNat) x) x.safe)
  | .andi d a i x => some (.word (word32 0x0F (d.val * 4096 + a.val * 128 + i.toNat) x) x.safe)
  | .slli d a h x => some (.word (word32 0x09 (d.val * 4096 + a.val * 128 + h.toNat) x) x.safe)
  | .srli d a h x => some (.word (word32 0x09 (d.val * 4096 + a.val * 128 + h.toNat + 64) x) x.safe)
  | .srai d a h x => some (.word (word32 0x0A (d.val * 4096 + a.val * 128 + h.toNat) x) x.safe)
  | .rori d a h x => some (.word (word32 0x0A (d.val * 4096 + a.val * 128 + h.toNat + 64) x) x.safe)
  | .li d i x => some (.word (word32 0x0B (d.val * 4096 + i.toNat) x) x.safe)
  | .ldc d i x => some (.word (word32 0x0C (d.val * 4096 + i.toNat) x) x.safe)
  | .popc d a x => some (.word (word32 0x0D (d.val * 4096 + a.val * 128) x) x.safe)
  | .clz d a x => some (.word (word32 0x0D (d.val * 4096 + a.val * 128 + 1) x) x.safe)
  | .ctz d a x => some (.word (word32 0x0D (d.val * 4096 + a.val * 128 + 2) x) x.safe)
  | .brev d a x => some (.word (word32 0x0D (d.val * 4096 + a.val * 128 + 3) x) x.safe)
  | .bswap d a x => some (.word (word32 0x0D (d.val * 4096 + a.val * 128 + 4) x) x.safe)
  | .sextB d a x => some (.word (word32 0x0D (d.val * 4096 + a.val * 128 + 5) x) x.safe)
  | .sextH d a x => some (.word (word32 0x0D (d.val * 4096 + a.val * 128 + 6) x) x.safe)
  | .sextW d a x => some (.word (word32 0x0D (d.val * 4096 + a.val * 128 + 7) x) x.safe)
  | .zextB d a x => some (.word (word32 0x0D (d.val * 4096 + a.val * 128 + 8) x) x.safe)
  | .zextH d a x => some (.word (word32 0x0D (d.val * 4096 + a.val * 128 + 9) x) x.safe)
  | .zextW d a x => some (.word (word32 0x0D (d.val * 4096 + a.val * 128 + 10) x) x.safe)
  | .bfx d a b x => some (.word (word32 0x0E (d.val * 4096 + a.val * 128 + b.val * 4) x) x.safe)
  | .bfxs d a b x => some (.word (word32 0x0E (d.val * 4096 + a.val * 128 + b.val * 4 + 1) x) x.safe)
  | .bfi d a b x => some (.word (word32 0x0E (d.val * 4096 + a.val * 128 + b.val * 4 + 2) x) x.safe)
  | .cmp p a b c x => some (.word (word32 0x10 (p.val * 16384 + a.val * 512 + b.val * 16 + c.code) x) x.safe)
  | .cmpi p a i c x => some (.word (word32 0x11 (p.val * 16384 + a.val * 512 + i.toNat * 16 + c.code) x) x.safe)
  | .sel d a p x => some (.word (word32 0x12 (d.val * 4096 + a.val * 128 + p.val * 16) x) x.safe)
  | .selN d a p x => some (.word (word32 0x12 (d.val * 4096 + a.val * 128 + p.val * 16 + 8) x) x.safe)
  | .pand p q r x => some (.word (word32 0x13 (p.val * 16384 + q.val * 2048 + r.val * 256) x) x.safe)
  | .por p q r x => some (.word (word32 0x13 (p.val * 16384 + q.val * 2048 + r.val * 256 + 1) x) x.safe)
  | .pxor p q r x => some (.word (word32 0x13 (p.val * 16384 + q.val * 2048 + r.val * 256 + 2) x) x.safe)
  | .pandn p q r x => some (.word (word32 0x13 (p.val * 16384 + q.val * 2048 + r.val * 256 + 3) x) x.safe)
  | .pnot p q x => some (.word (word32 0x13 (p.val * 16384 + q.val * 2048 + 4) x) x.safe)
  | .psetg p a x => some (.word (word32 0x13 (p.val * 16384 + a.val * 8 + 5) x) x.safe)
  | .prd d x => some (.word (word32 0x17 (d.val * 4096 + 5) x) x.safe)
  | .bt p o x => some (.word (word32 0x14 (p.val * 16384 + o.toNat) x) x.safe)
  | .bf p o x => some (.word (word32 0x14 (p.val * 16384 + o.toNat + 8192) x) x.safe)
  | .j o x => some (.word (word32 0x15 (o.toNat) x) x.safe)
  | .call o x => some (.word (word32 0x16 (o.toNat) x) x.safe)
  | .jr a x => some (.word (word32 0x17 (a.val * 128) x) x.safe)
  | .callr d a x => some (.word (word32 0x17 (d.val * 4096 + a.val * 128 + 1) x) x.safe)
  | .ret a x => some (.word (word32 0x17 (a.val * 128 + 2) x) x.safe)
  | .brk x => some (.word (word32 0x17 (3) x) x.safe)
  | .lcut x => some (.word (word32 0x17 (4) x) x.safe)
  | .mfs d r x => some (.word (word32 0x18 (d.val * 4096 + r.toNat) x) x.safe)
  | .mts d r x => some (.word (word32 0x19 (d.val * 4096 + r.toNat) x) x.safe)
  | .mtsFpstat d x => some (.word (word32 0x19 (d.val * 4096) x) x.safe)
  | .mtsAtomflags d x => some (.word (word32 0x19 (d.val * 4096 + 264) x) x.safe)
  | .mtsEngerr d x => some (.word (word32 0x19 (d.val * 4096 + 81) x) x.safe)
  | .mtsDerr d x => some (.word (word32 0x19 (d.val * 4096 + 91) x) x.safe)
  | .mtsRpstat d x => some (.word (word32 0x19 (d.val * 4096 + 85) x) x.safe)
  | .sld d a z o x => some (.word (word32 0x1A (d.val * 4096 + a.val * 128 + z.code * 32 + o.toNat) x) x.safe)
  | .slds d a z o x => some (.word (word32 0x1B (d.val * 4096 + a.val * 128 + z.code * 32 + o.toNat) x) x.safe)
  | .sst d a z o x => some (.word (word32 0x1C (d.val * 4096 + a.val * 128 + z.code * 32 + o.toNat) x) x.safe)
  | .trap a x => some (.word (word32 0x1D (a.val * 128) x) x.safe)
  | .rte x => some (.word (word32 0x1D (1) x) x.safe)
  | .ctxsv d a x => some (.word (word32 0x1D (d.val * 4096 + a.val * 128 + 2) x) x.safe)
  | .ctxrs d a x => some (.word (word32 0x1D (d.val * 4096 + a.val * 128 + 3) x) x.safe)
  | .snaprd d a x => some (.word (word32 0x1D (d.val * 4096 + a.val * 128 + 4) x) x.safe)
  | .wfe d a x => some (.word (word32 0x1D (d.val * 4096 + a.val * 128 + 5) x) x.safe)
  | .bar x => some (.word (word32 0x1E (0) x) x.safe)
  | .barrierRelease _ => none
  | .quies d a x => some (.word (word32 0x1E (d.val * 4096 + a.val * 128 + 1) x) x.safe)
  | .tkcnt d x => some (.word (word32 0x1E (d.val * 4096 + 2) x) x.safe)
  | .wlpush d a x => some (.word (word32 0x1E (d.val * 4096 + a.val * 128 + 3) x) x.safe)
  | .wlpop d a x => some (.word (word32 0x1E (d.val * 4096 + a.val * 128 + 4) x) x.safe)
  | .tapeb d x => some (.word (word32 0x1F (d.val * 4096) x) x.safe)
  | .tapee d x => some (.word (word32 0x1F (d.val * 4096 + 1) x) x.safe)
  | .tguard d a x => some (.word (word32 0x1F (d.val * 4096 + a.val * 128 + 2) x) x.safe)
  | .tapeinv a x => some (.word (word32 0x1F (a.val * 128 + 3) x) x.safe)
  | .tapeq d a x => some (.word (word32 0x1F (d.val * 4096 + a.val * 128 + 4) x) x.safe)
  | .vadd v a b x => some (.word (word32 0x20 (v.val * 4096 + a.val * 128 + b.val * 4) x) x.safe)
  | .vsub v a b x => some (.word (word32 0x20 (v.val * 4096 + a.val * 128 + b.val * 4 + 1) x) x.safe)
  | .vmul v a b x => some (.word (word32 0x20 (v.val * 4096 + a.val * 128 + b.val * 4 + 2) x) x.safe)
  | .vfma v a b x => some (.word (word32 0x20 (v.val * 4096 + a.val * 128 + b.val * 4 + 3) x) x.safe)
  | .vmin v a b x => some (.word (word32 0x21 (v.val * 4096 + a.val * 128 + b.val * 4) x) x.safe)
  | .vmax v a b x => some (.word (word32 0x21 (v.val * 4096 + a.val * 128 + b.val * 4 + 1) x) x.safe)
  | .vminn v a b x => some (.word (word32 0x21 (v.val * 4096 + a.val * 128 + b.val * 4 + 2) x) x.safe)
  | .vmaxn v a b x => some (.word (word32 0x21 (v.val * 4096 + a.val * 128 + b.val * 4 + 3) x) x.safe)
  | .vand v a b x => some (.word (word32 0x22 (v.val * 4096 + a.val * 128 + b.val * 4) x) x.safe)
  | .vor v a b x => some (.word (word32 0x22 (v.val * 4096 + a.val * 128 + b.val * 4 + 1) x) x.safe)
  | .vxor v a b x => some (.word (word32 0x22 (v.val * 4096 + a.val * 128 + b.val * 4 + 2) x) x.safe)
  | .vandn v a b x => some (.word (word32 0x22 (v.val * 4096 + a.val * 128 + b.val * 4 + 3) x) x.safe)
  | .vsll v a b x => some (.word (word32 0x23 (v.val * 4096 + a.val * 128 + b.val * 4) x) x.safe)
  | .vsrl v a b x => some (.word (word32 0x23 (v.val * 4096 + a.val * 128 + b.val * 4 + 1) x) x.safe)
  | .vsra v a b x => some (.word (word32 0x23 (v.val * 4096 + a.val * 128 + b.val * 4 + 2) x) x.safe)
  | .vfshl v a b x => some (.word (word32 0x23 (v.val * 4096 + a.val * 128 + b.val * 4 + 3) x) x.safe)
  | .vfshr v a b x => some (.word (word32 0x24 (v.val * 4096 + a.val * 128 + b.val * 4) x) x.safe)
  | .vsel v a b x => some (.word (word32 0x24 (v.val * 4096 + a.val * 128 + b.val * 4 + 1) x) x.safe)
  | .vperm v a b x => some (.word (word32 0x24 (v.val * 4096 + a.val * 128 + b.val * 4 + 2) x) x.safe)
  | .vabsd v a b x => some (.word (word32 0x24 (v.val * 4096 + a.val * 128 + b.val * 4 + 3) x) x.safe)
  | .vcmp m a b c x => some (.word (word32 0x25 (m.val * 16384 + a.val * 512 + b.val * 16 + c.code) x) x.safe)
  | .vneg v a x => some (.word (word32 0x26 (v.val * 4096 + a.val * 128) x) x.safe)
  | .vabs v a x => some (.word (word32 0x26 (v.val * 4096 + a.val * 128 + 1) x) x.safe)
  | .vmov v a x => some (.word (word32 0x26 (v.val * 4096 + a.val * 128 + 2) x) x.safe)
  | .vpopc v a x => some (.word (word32 0x26 (v.val * 4096 + a.val * 128 + 3) x) x.safe)
  | .vclz v a x => some (.word (word32 0x26 (v.val * 4096 + a.val * 128 + 4) x) x.safe)
  | .vctz v a x => some (.word (word32 0x26 (v.val * 4096 + a.val * 128 + 5) x) x.safe)
  | .vbrev v a x => some (.word (word32 0x26 (v.val * 4096 + a.val * 128 + 6) x) x.safe)
  | .vsqrt v a x => some (.word (word32 0x26 (v.val * 4096 + a.val * 128 + 8) x) x.safe)
  | .vrcp v a x => some (.word (word32 0x26 (v.val * 4096 + a.val * 128 + 9) x) x.safe)
  | .vrsqrt v a x => some (.word (word32 0x26 (v.val * 4096 + a.val * 128 + 10) x) x.safe)
  | .vexp v a x => some (.word (word32 0x26 (v.val * 4096 + a.val * 128 + 11) x) x.safe)
  | .vexp2 v a x => some (.word (word32 0x26 (v.val * 4096 + a.val * 128 + 12) x) x.safe)
  | .vlog v a x => some (.word (word32 0x26 (v.val * 4096 + a.val * 128 + 13) x) x.safe)
  | .vlog2 v a x => some (.word (word32 0x26 (v.val * 4096 + a.val * 128 + 14) x) x.safe)
  | .vtanh v a x => some (.word (word32 0x26 (v.val * 4096 + a.val * 128 + 15) x) x.safe)
  | .vsigm v a x => some (.word (word32 0x26 (v.val * 4096 + a.val * 128 + 16) x) x.safe)
  | .vsin v a x => some (.word (word32 0x26 (v.val * 4096 + a.val * 128 + 17) x) x.safe)
  | .vcos v a x => some (.word (word32 0x26 (v.val * 4096 + a.val * 128 + 18) x) x.safe)
  | .vcvt v a k r p x => some (.word (word32 0x27 (v.val * 4096 + a.val * 128 + k.toNat * 16 + r.toNat * 4 + p.toNat) x) x.safe)
  | .vcvtef v a e f x => some (.word (word32 0x28 (v.val * 4096 + a.val * 128 + e.val * 4 + f.toNat) x) x.safe)
  | .vrsum v a g x => some (.word (word32 0x29 (v.val * 4096 + a.val * 128 + g.toNat) x) x.safe)
  | .vrmax v a g x => some (.word (word32 0x29 (v.val * 4096 + a.val * 128 + g.toNat + 8) x) x.safe)
  | .vrmin v a g x => some (.word (word32 0x29 (v.val * 4096 + a.val * 128 + g.toNat + 16) x) x.safe)
  | .vrmaxu v a g x => some (.word (word32 0x29 (v.val * 4096 + a.val * 128 + g.toNat + 24) x) x.safe)
  | .vrminu v a g x => some (.word (word32 0x29 (v.val * 4096 + a.val * 128 + g.toNat + 32) x) x.safe)
  | .vrmaxa v a g x => some (.word (word32 0x29 (v.val * 4096 + a.val * 128 + g.toNat + 40) x) x.safe)
  | .vror v a g x => some (.word (word32 0x29 (v.val * 4096 + a.val * 128 + g.toNat + 48) x) x.safe)
  | .vrand v a g x => some (.word (word32 0x29 (v.val * 4096 + a.val * 128 + g.toNat + 56) x) x.safe)
  | .vrxor v a g x => some (.word (word32 0x29 (v.val * 4096 + a.val * 128 + g.toNat + 64) x) x.safe)
  | .vscan v a g x => some (.word (word32 0x29 (v.val * 4096 + a.val * 128 + g.toNat + 72) x) x.safe)
  | .vscanmax v a g x => some (.word (word32 0x29 (v.val * 4096 + a.val * 128 + g.toNat + 80) x) x.safe)
  | .vcmpr v a x => some (.word (word32 0x2A (v.val * 4096 + a.val * 128) x) x.safe)
  | .vexpd v a x => some (.word (word32 0x2A (v.val * 4096 + a.val * 128 + 1) x) x.safe)
  | .vbcast v a x => some (.word (word32 0x2A (v.val * 4096 + a.val * 128 + 2) x) x.safe)
  | .vextr d v x => some (.word (word32 0x2A (d.val * 4096 + v.val * 128 + 3) x) x.safe)
  | .vfromm v m x => some (.word (word32 0x2A (v.val * 4096 + m.val * 128 + 4) x) x.safe)
  | .vtom m a x => some (.word (word32 0x2A (m.val * 4096 + a.val * 128 + 5) x) x.safe)
  | .viota v x => some (.word (word32 0x2A (v.val * 4096 + 6) x) x.safe)
  | .vosm v a b x => some (.word (word32 0x2B (v.val * 4096 + a.val * 128 + b.val * 4) x) x.safe)
  | .vlse v a k x => some (.word (word32 0x2B (v.val * 4096 + a.val * 128 + k.toNat * 4 + 1) x) x.safe)
  | .vdefer g a b x => some (.word (word32 0x2B (g.val * 4096 + a.val * 128 + b.val * 4 + 2) x) x.safe)
  | .vconf m a b x => some (.word (word32 0x2B (m.val * 4096 + a.val * 128 + b.val * 4 + 3) x) x.safe)
  | .mand m n o x => some (.word (word32 0x2C (m.val * 16384 + n.val * 2048 + o.val * 256) x) x.safe)
  | .mor m n o x => some (.word (word32 0x2C (m.val * 16384 + n.val * 2048 + o.val * 256 + 1) x) x.safe)
  | .mxor m n o x => some (.word (word32 0x2C (m.val * 16384 + n.val * 2048 + o.val * 256 + 2) x) x.safe)
  | .mandn m n o x => some (.word (word32 0x2C (m.val * 16384 + n.val * 2048 + o.val * 256 + 3) x) x.safe)
  | .mnot m n x => some (.word (word32 0x2C (m.val * 16384 + n.val * 2048 + 4) x) x.safe)
  | .msetl m a x => some (.word (word32 0x2C (m.val * 16384 + a.val * 8 + 5) x) x.safe)
  | .mcnt n a x => some (.word (word32 0x2C (n.val * 2048 + a.val * 8 + 6) x) x.safe)
  | .mffs n a x => some (.word (word32 0x2C (n.val * 2048 + a.val * 8 + 7) x) x.safe)
  | .vld v a o x => some (.word (word32 0x2D (v.val * 4096 + a.val * 128 + o.toNat) x) x.safe)
  | .vst v a o x => some (.word (word32 0x2D (v.val * 4096 + a.val * 128 + o.toNat + 32) x) x.safe)
  | .vstu v a o x => some (.word (word32 0x2D (v.val * 4096 + a.val * 128 + o.toNat + 64) x) x.safe)
  | .mma a b x => some (.word (word32 0x2E (a.val * 128 + b.val * 4) x) x.safe)
  | .mmas d a b x => some (.word (word32 0x2E (d.val * 4096 + a.val * 128 + b.val * 4 + 1) x) x.safe)
  | .mgang d a b x => some (.word (word32 0x2E (d.val * 4096 + a.val * 128 + b.val * 4 + 2) x) x.safe)
  | .mzero x => some (.word (word32 0x2E (3) x) x.safe)
  | .mdrain d a b x => some (.word (word32 0x2F (d.val * 4096 + a.val * 128 + b.val * 4) x) x.safe)
  | .mcfg a x => some (.word (word32 0x2F (a.val * 128 + 1) x) x.safe)
  | .msave a b x => some (.word (word32 0x2F (a.val * 128 + b.val * 4 + 2) x) x.safe)
  | .mload a b x => some (.word (word32 0x2F (a.val * 128 + b.val * 4 + 3) x) x.safe)
  | .ld d a z h o x => some (.word (word32 0x30 (d.val * 4096 + a.val * 128 + z.code * 32 + h.code * 8 + o.toNat) x) x.safe)
  | .lds d a z h o x => some (.word (word32 0x31 (d.val * 4096 + a.val * 128 + z.code * 32 + h.code * 8 + o.toNat) x) x.safe)
  | .ldAcq d a z h o x => some (.word (word32 0x32 (d.val * 4096 + a.val * 128 + z.code * 32 + h.code * 8 + o.toNat) x) x.safe)
  | .st d a z h o x => some (.word (word32 0x33 (d.val * 4096 + a.val * 128 + z.code * 32 + h.code * 8 + o.toNat) x) x.safe)
  | .stRel d a z h o x => some (.word (word32 0x34 (d.val * 4096 + a.val * 128 + z.code * 32 + h.code * 8 + o.toNat) x) x.safe)
  | .vldg v a h o x => some (.word (word32 0x35 (v.val * 4096 + a.val * 128 + h.code * 32 + o.toNat) x) x.safe)
  | .vldgAcq v a h o x => some (.word (word32 0x35 (v.val * 4096 + a.val * 128 + h.code * 32 + o.toNat + 8) x) x.safe)
  | .vstg v a h o x => some (.word (word32 0x35 (v.val * 4096 + a.val * 128 + h.code * 32 + o.toNat + 16) x) x.safe)
  | .vstgRel v a h o x => some (.word (word32 0x35 (v.val * 4096 + a.val * 128 + h.code * 32 + o.toNat + 24) x) x.safe)
  | .amoAdd d a r z x => some (.word (word32 0x36 (d.val * 4096 + a.val * 128 + r.toNat * 64 + z.code) x) x.safe)
  | .amoAnd d a r z x => some (.word (word32 0x36 (d.val * 4096 + a.val * 128 + r.toNat * 64 + z.code + 4) x) x.safe)
  | .amoOr d a r z x => some (.word (word32 0x36 (d.val * 4096 + a.val * 128 + r.toNat * 64 + z.code + 8) x) x.safe)
  | .amoXor d a r z x => some (.word (word32 0x36 (d.val * 4096 + a.val * 128 + r.toNat * 64 + z.code + 12) x) x.safe)
  | .amoMin d a r z x => some (.word (word32 0x36 (d.val * 4096 + a.val * 128 + r.toNat * 64 + z.code + 16) x) x.safe)
  | .amoMax d a r z x => some (.word (word32 0x36 (d.val * 4096 + a.val * 128 + r.toNat * 64 + z.code + 20) x) x.safe)
  | .amoMinu d a r z x => some (.word (word32 0x36 (d.val * 4096 + a.val * 128 + r.toNat * 64 + z.code + 24) x) x.safe)
  | .amoMaxu d a r z x => some (.word (word32 0x36 (d.val * 4096 + a.val * 128 + r.toNat * 64 + z.code + 28) x) x.safe)
  | .amoSwap d a r z x => some (.word (word32 0x36 (d.val * 4096 + a.val * 128 + r.toNat * 64 + z.code + 32) x) x.safe)
  | .amoCas d a r z x => some (.word (word32 0x36 (d.val * 4096 + a.val * 128 + r.toNat * 64 + z.code + 36) x) x.safe)
  | .amoFadd d a r z x => some (.word (word32 0x36 (d.val * 4096 + a.val * 128 + r.toNat * 64 + z.code + 40) x) x.safe)
  | .plnstOr d a x => some (.word (word32 0x37 (d.val * 4096 + a.val * 128) x) x.safe)
  | .plnstAnd d a x => some (.word (word32 0x37 (d.val * 4096 + a.val * 128 + 4) x) x.safe)
  | .fence s x => some (.word (word32 0x38 (s.code * 2048) x) x.safe)
  | .fencex s c e x => some (.word (word32 0x38 (s.code * 2048 + c.code * 256 + e.code * 32 + 16384) x) x.safe)
  | .publ s x => some (.word (word32 0x38 (s.code * 2048 + 32768) x) x.safe)
  | .cflush a x => some (.word (word32 0x38 (a.val + 49152) x) x.safe)
  | .cinv a x => some (.word (word32 0x38 (a.val + 65536) x) x.safe)
  | .cpref k h a x => some (.word (word32 0x38 (k.toNat * 8192 + h.code * 2048 + a.val + 81920) x) x.safe)
  | .ntld d a b x => some (.word (word32 0x39 (d.val * 4096 + a.val * 128 + b.val * 4) x) x.safe)
  | .ntlock a x => some (.word (word32 0x39 (a.val * 128 + 1) x) x.safe)
  | .ntunl a x => some (.word (word32 0x39 (a.val * 128 + 2) x) x.safe)
  | .cpy g a b x => some (.word (word32 0x3A (g.toNat * 2048 + a.val * 64 + b.val * 2) x) x.safe)
  | .cpy2d g a b x => some (.word (word32 0x3A (g.toNat * 2048 + a.val * 64 + b.val * 2 + 1) x) x.safe)
  | .gath g a b x => some (.word (word32 0x3B (g.toNat * 2048 + a.val * 64 + b.val * 2) x) x.safe)
  | .scat g a b x => some (.word (word32 0x3B (g.toNat * 2048 + a.val * 64 + b.val * 2 + 1) x) x.safe)
  | .wtany d a x => some (.word (word32 0x3C (d.val * 4096 + a.val * 128) x) x.safe)
  | .wtall d a x => some (.word (word32 0x3C (d.val * 4096 + a.val * 128 + 1) x) x.safe)
  | .ffrdy d a x => some (.word (word32 0x3C (d.val * 4096 + a.val * 128 + 2) x) x.safe)
  | .tagclr a x => some (.word (word32 0x3C (a.val * 128 + 3) x) x.safe)
  | .pxhash d a x => some (.word (word32 0x3D (d.val * 4096 + a.val * 128) x) x.safe)
  | .pxlook d a x => some (.word (word32 0x3D (d.val * 4096 + a.val * 128 + 1) x) x.safe)
  | .pxpin d a x => some (.word (word32 0x3D (d.val * 4096 + a.val * 128 + 2) x) x.safe)
  | .pxunpin d a x => some (.word (word32 0x3D (d.val * 4096 + a.val * 128 + 3) x) x.safe)
  | .pxseal d a x => some (.word (word32 0x3D (d.val * 4096 + a.val * 128 + 4) x) x.safe)
  | .pxalloc d a x => some (.word (word32 0x3D (d.val * 4096 + a.val * 128 + 5) x) x.safe)
  | .pxlease d a x => some (.word (word32 0x3D (d.val * 4096 + a.val * 128 + 6) x) x.safe)
  | .pxprom d a x => some (.word (word32 0x3D (d.val * 4096 + a.val * 128 + 7) x) x.safe)
  | .kmerge d a x => some (.word (word32 0x3D (d.val * 4096 + a.val * 128 + 8) x) x.safe)
  | .bfill d a x => some (.word (word32 0x3D (d.val * 4096 + a.val * 128 + 9) x) x.safe)
  | .bfwait a x => some (.word (word32 0x3D (a.val * 128 + 10) x) x.safe)
  | .plan d a x => some (.word (word32 0x3D (d.val * 4096 + a.val * 128 + 11) x) x.safe)
  | .pxfetch d a x => some (.word (word32 0x3D (d.val * 4096 + a.val * 128 + 12) x) x.safe)
  | .pxrepl d a x => some (.word (word32 0x3D (d.val * 4096 + a.val * 128 + 13) x) x.safe)
  | .kvld d a b x => some (.word (word32 0x3E (d.val * 4096 + a.val * 128 + b.val * 4) x) x.safe)
  | .kvst d a b x => some (.word (word32 0x3E (d.val * 4096 + a.val * 128 + b.val * 4 + 1) x) x.safe)
  | .rld d a x => some (.word (word32 0x3F (d.val * 4096 + a.val * 128) x) x.safe)
  | .rst d a x => some (.word (word32 0x3F (d.val * 4096 + a.val * 128 + 1) x) x.safe)
  | .ramo d a x => some (.word (word32 0x3F (d.val * 4096 + a.val * 128 + 2) x) x.safe)
  | .charter d a x => some (.word (word32 0x3F (d.val * 4096 + a.val * 128 + 3) x) x.safe)
  | .castoff d a x => some (.word (word32 0x3F (d.val * 4096 + a.val * 128 + 4) x) x.safe)
  | .laneq d a x => some (.word (word32 0x3F (d.val * 4096 + a.val * 128 + 5) x) x.safe)
  | .cNop => some (.parcel (2))
  | .cMv d a => some (.parcel (d.val * 2048 + a.val * 64 + 4))
  | .cLi d i => some (.parcel (d.val * 2048 + i.toNat * 32 + 6))
  | .cAddi d i => some (.parcel (d.val * 2048 + i.toNat * 32 + 8))
  | .cAdd d a => some (.parcel (d.val * 2048 + a.val * 64 + 10))
  | .cSub d a => some (.parcel (d.val * 2048 + a.val * 64 + 12))
  | .cAnd d a => some (.parcel (d.val * 2048 + a.val * 64 + 14))
  | .cOr d a => some (.parcel (d.val * 2048 + a.val * 64 + 16))
  | .cXor d a => some (.parcel (d.val * 2048 + a.val * 64 + 18))
  | .cSlli d h => some (.parcel (d.val * 2048 + h.toNat * 32 + 20))
  | .cSrli d h => some (.parcel (d.val * 2048 + h.toNat * 32 + 22))
  | .cSrai d h => some (.parcel (d.val * 2048 + h.toNat * 32 + 24))
  | .cBr o => some (.parcel (o.toNat * 32 + 26))
  | .cBt p o => some (.parcel (p.val * 8192 + o.toNat * 32 + 28))
  | .cBf p o => some (.parcel (p.val * 8192 + o.toNat * 32 + 30))
  | .resultLanding _ _ => none
  | .tokdead _ => none
  | .rampGrant _ => none
  | .rampEnd _ => none
  | .matrixEngineCold _ => none
  | .gangRendezvous _ => none
  | .gangtimeExpiry _ => none
  | .engineCommandAccept _ _ => none
  | .engineCommandComplete _ _ => none
  | .backfillItem _ => none
  | .bankAluOp _ => none
  | .rwHoldExpiry _ _ => none
  | .replayEntryIssue _ _ => none
  | .trapModeEntry _ => none
  | .snapshotLand _ _ => none
  | .preemptRequest _ _ => none
  | .preemptTake _ => none
  | .preemptWithdraw _ => none
  | .iterationResume _ => none
  | .iterationStart _ => none
  | .iterationFinish _ => none
  | .tupleHandout _ => none
  | .ageingCheck => none
  | .dispatchDecision => none
  | .portalDmw _ _ _ => none
  | .portalPostedWrite _ => none
  | .launchAtHead _ => none
  | .serialWaitEnd _ => none
  | .copyBegin _ => none
  | .copyComplete _ => none
  | .markComplete _ => none
  | .hostMemRead _ _ => none
  | .hostMemWrite _ _ => none
  | .hostSnoop _ _ => none
  | .qcfgWrite _ _ => none
  | .tencfgWrite _ _ => none
  | .siPtrWrite _ _ => none
  | .pdPtrWrite _ _ => none
  | .tlbiPage _ => none
  | .tlbiTenancy _ => none
  | .tlbiAll _ => none
  | .tlbiComplete => none
  | .migGo _ => none
  | .migGoXp _ => none
  | .migrationCopyDone => none
  | .stubForward _ => none
  | .stubRetire _ => none
  | .feErrWrite _ => none
  | .qlPodWrite _ => none
  | .registerWrite _ _ => none
  | .scrub _ => none
  | .powerWindow _ => none
  | .thermalThrottle _ => none
  | .thermalTrip => none
  | .coldReset _ _ _ => none
  | .fabricError => none
  | .regrd _ => none
  | .regwr _ _ => none
  | .keyset _ _ => none
  | .keyclr _ => none
  | .fwupd _ => none
  | .resetCold _ _ _ => none
  | .resetWarm _ _ _ => none
  | .getMeasurements => none
  | .idle _ => none
  | .rldreq _ => none
  | .rlddata _ => none
  | .rstreq _ => none
  | .rstdata _ => none
  | .ramoreq _ => none
  | .resp _ => none
  | .err _ => none
  | .ctrlReq _ => none
  | .ctrlGrant _ => none
  | .ctrlRevoke _ => none
  | .ctrlDrain _ => none
  | .ctrlHandback _ => none
  | .ctrlRelease _ => none
  | .ctrlWithdraw _ => none
  | .retransmitTimeout _ _ => none
  | .starvationCheck => none
  | .tuningLock _ => none
  | .tuningTimeout _ => none
  | .errorWindowEnd _ => none
  | .trainingWindowEnd _ _ => none
  | .laneDrainEnd _ => none
  | .storeReg _ => none
  | .storeDereg _ => none
  | .storeQuery _ => none
  | .storeHolders _ => none
  | .storeRead _ => none
  | .storeData _ => none
  | .storeNotpresent _ => none
  | .fwdStart _ => none
  | .fwdCopy _ => none
  | .fwdAccept _ => none
  | .fwdRefuse _ => none
  | .fwdAccess _ => none
  | .fwdReply _ => none
  | .illegalEncoding => none
  | .lastWritePerformed _ _ => none
  | .thermalHoldEnd _ => none
  | .secureSession => none

/-- The `n` little-endian bytes of a number (R4). -/
def leBytes : Nat → Nat → List Byte
  | 0, _ => []
  | n + 1, v => BitVec.ofNat 8 v :: leBytes n (v / 256)

/-- The bytes of an encoded instruction, in the order of their addresses (R16, R43). -/
def Enc.toBytes : Enc → List Byte
  | .parcel p => leBytes 2 p
  | .word w none => leBytes 4 w
  | .word w (some m) => leBytes 4 w ++ leBytes 4 m.toNat

/-- The instruction that the decoder reads from bits numbered as spec/opcode_table.json numbers them, the bits above `nbits`
(a mask word among them) being zero. -/
noncomputable def decodeTableWord (nbits w : Nat) : Option Instr :=
  match decodeBytes (leBytes 8 (w % 2 ^ nbits)) with
  | .ok i => some i
  | .error _ => none

end Sys2Proof
end

