-- ==== Sys2Proof/Machine/Flags.lean ====
section
/-!
DEFINITION. The float formats, rounding and the FPSTAT flags (06_numbers.md, R128 to R136, R146): every value is exact until it
is rounded once.
-/
namespace Sys2Proof.Machine

/-! ### Flags (R11, R133) -/

/-- NX. -/
def flNX : BitVec 6 := 1
/-- UF. -/
def flUF : BitVec 6 := 2
/-- OF. -/
def flOF : BitVec 6 := 4
/-- DZ. -/
def flDZ : BitVec 6 := 8
/-- NV. -/
def flNV : BitVec 6 := 16
/-- DI. -/
def flDI : BitVec 6 := 32

/-! ### Formats -/

/-- A float format: exponent and fraction bits (R128). -/
structure Fmt where
  eb : Nat
  fb : Nat
  deriving DecidableEq, Repr

/-- FP64. -/
def fp64 : Fmt := { eb := 11, fb := 52 }
/-- FP32. -/
def fp32 : Fmt := { eb := 8, fb := 23 }
/-- FP16. -/
def fp16 : Fmt := { eb := 5, fb := 10 }
/-- BF16. -/
def bf16 : Fmt := { eb := 8, fb := 7 }

/-- The width in bits. -/
def Fmt.width (f : Fmt) : Nat := 1 + f.eb + f.fb
/-- The bias. -/
def Fmt.bias (f : Fmt) : Nat := 2 ^ (f.eb - 1) - 1
/-- The canonical NaN (R128). -/
def Fmt.nan (f : Fmt) : Nat := (2 ^ f.eb - 1) * 2 ^ f.fb + 2 ^ (f.fb - 1)
/-- The bits of an infinity. -/
def Fmt.inf (f : Fmt) (neg : Bool) : Nat := (if neg then 2 ^ (f.eb + f.fb) else 0) + (2 ^ f.eb - 1) * 2 ^ f.fb
/-- The bits of the largest finite value. -/
def Fmt.maxFinite (f : Fmt) (neg : Bool) : Nat := f.inf neg - 1
/-- The bits of a zero. -/
def Fmt.zero (f : Fmt) (neg : Bool) : Nat := if neg then 2 ^ (f.eb + f.fb) else 0

/-- An exact value: a NaN, an infinity, or (−1)^neg × m × 2^e, a zero having m = 0. -/
inductive FVal where
  | nan (signalling : Bool)
  | inf (neg : Bool)
  | num (neg : Bool) (m : Nat) (e : Int)
  deriving DecidableEq, Repr

/-- Reads bits of a format (R129); with `flush` a subnormal is read as zero of its sign and raises DI (R135). -/
def Fmt.read (f : Fmt) (flush : Bool) (bits : Nat) : FVal × BitVec 6 :=
  let neg := bits / 2 ^ (f.eb + f.fb) % 2 == 1
  let ex := bits / 2 ^ f.fb % 2 ^ f.eb
  let fr := bits % 2 ^ f.fb
  if ex = 2 ^ f.eb - 1 then
    (if fr = 0 then .inf neg else .nan (fr < 2 ^ (f.fb - 1)), 0)
  else if ex = 0 then
    if fr = 0 then (.num neg 0 0, 0)
    else if flush then (.num neg 0 0, flDI)
    else (.num neg fr (1 - (f.bias : Int) - f.fb), 0)
  else (.num neg (fr + 2 ^ f.fb) ((ex : Int) - f.bias - f.fb), 0)

/-! ### Rounding (R130, R131) -/

/-- The 2-bit rounding field (R130). -/
abbrev Rm := BitVec 2

/-- `m` × 2^-`s` rounded to an integer: the integer, and whether it is inexact. -/
def roundNat (rm : Rm) (neg : Bool) (m s : Nat) : Nat × Bool :=
  let q := m / 2 ^ s
  let r := m % 2 ^ s
  if r = 0 then (q, false)
  else
    let up :=
      if rm = 0 then decide (2 * r > 2 ^ s) || (decide (2 * r = 2 ^ s) && q % 2 == 1)
      else if rm = 1 then false
      else if rm = 2 then !neg
      else neg
    (if up then q + 1 else q, true)

/-- `m` × 2^`e` rounded to a multiple of 2^`w`: the multiple in units of 2^`w`, and whether it is inexact. -/
def roundTo (rm : Rm) (neg : Bool) (m : Nat) (e w : Int) : Nat × Bool :=
  if w ≤ e then (m * 2 ^ (e - w).toNat, false) else roundNat rm neg m (w - e).toNat

/-- Delivers a value in a format (R131, R132, R133); with `flush` a tiny result is zero of its sign with UF and NX (R135). -/
def Fmt.round (f : Fmt) (rm : Rm) (flush : Bool) (v : FVal) : Nat × BitVec 6 :=
  match v with
  | .nan sg => (f.nan, if sg then flNV else 0)
  | .inf neg => (f.inf neg, 0)
  | .num neg m e =>
    if m = 0 then (f.zero neg, 0)
    else
      let emin : Int := 1 - (f.bias : Int)
      let top : Int := e + Nat.log2 m
      let (q, ix) := roundTo rm neg m e (top - f.fb)
      let (q, top) := if q = 2 ^ (f.fb + 1) then (2 ^ f.fb, top + 1) else (q, top)
      if top < emin then
        if flush then (f.zero neg, flUF ||| flNX)
        else
          let (q, ix) := roundTo rm neg m e (emin - f.fb)
          (f.zero neg + q, if ix then flUF ||| flNX else 0)
      else if top > f.bias then
        let toInf := rm == 0 || (rm == 2 && !neg) || (rm == 3 && neg)
        (if toInf then f.inf neg else f.maxFinite neg, flOF ||| flNX)
      else (f.zero neg + (top + f.bias).toNat * 2 ^ f.fb + (q - 2 ^ f.fb), if ix then flNX else 0)

/-! ### Exact arithmetic -/

/-- Whether a value is a NaN. -/
def FVal.isNan : FVal → Bool
  | .nan _ => true
  | _ => false

/-- NV for a signalling NaN among operands (R133). -/
def nvOf (v : FVal) : BitVec 6 := if v = .nan true then flNV else 0

/-- A finite value's integer in units of 2^`e0`. -/
def scaled (neg : Bool) (m : Nat) (e e0 : Int) : Int :=
  let k : Int := (m * 2 ^ (e - e0).toNat : Nat)
  if neg then -k else k

/-- A signed integer times 2^`e`, a zero taking the sign `zneg`. -/
def ofScaled (k : Int) (e : Int) (zneg : Bool) : FVal := if k = 0 then .num zneg 0 0 else .num (decide (k < 0)) k.natAbs e

/-- The exact sum of two values (R131): its flags, an exact zero of opposite signs being −0 under .RD only. -/
def addExact (rm : Rm) (a b : FVal) : FVal × BitVec 6 :=
  match a, b with
  | .nan _, _ => (.nan false, nvOf a ||| nvOf b)
  | _, .nan _ => (.nan false, nvOf a ||| nvOf b)
  | .inf x, .inf y => if x = y then (.inf x, 0) else (.nan false, flNV)
  | .inf x, _ => (.inf x, 0)
  | _, .inf y => (.inf y, 0)
  | .num n1 m1 e1, .num n2 m2 e2 =>
    let e0 := min e1 e2
    let z := if m1 = 0 ∧ m2 = 0 ∧ n1 = n2 then n1 else rm == 3
    (ofScaled (scaled n1 m1 e1 e0 + scaled n2 m2 e2 e0) e0 z, 0)

/-- The exact product of two values. -/
def mulExact (a b : FVal) : FVal × BitVec 6 :=
  match a, b with
  | .nan _, _ => (.nan false, nvOf a ||| nvOf b)
  | _, .nan _ => (.nan false, nvOf a ||| nvOf b)
  | .inf x, .inf y => (.inf (x != y), 0)
  | .inf x, .num n m _ => if m = 0 then (.nan false, flNV) else (.inf (x != n), 0)
  | .num n m _, .inf y => if m = 0 then (.nan false, flNV) else (.inf (n != y), 0)
  | .num n1 m1 e1, .num n2 m2 e2 => (if m1 * m2 = 0 then .num (n1 != n2) 0 0 else .num (n1 != n2) (m1 * m2) (e1 + e2), 0)

/-- The negative of a value. -/
def FVal.neg : FVal → FVal
  | .nan s => .nan s
  | .inf n => .inf !n
  | .num n m e => .num (!n) m e

/-- Order of two values that are no NaNs; zeros are equal. -/
def FVal.lt (a b : FVal) : Bool :=
  match a, b with
  | .inf x, .inf y => x && !y
  | .inf x, _ => x
  | _, .inf y => !y
  | .num n1 m1 e1, .num n2 m2 e2 =>
    let e0 := min e1 e2
    decide (scaled n1 m1 e1 e0 < scaled n2 m2 e2 e0)
  | _, _ => false

/-- Equality of two values that are no NaNs. -/
def FVal.eqv (a b : FVal) : Bool := !a.isNan && !b.isNan && !a.lt b && !b.lt a

/-- The exact sum of a group of products (R146): NV for a NaN product and for infinities of both signs; products that are all
−0 give −0. -/
def sumExact (ps : List FVal) : FVal × BitVec 6 :=
  if ps.any FVal.isNan then (.nan false, flNV)
  else
    let pos := ps.any (· == .inf false)
    let neg := ps.any (· == .inf true)
    if pos && neg then (.nan false, flNV)
    else if pos then (.inf false, 0)
    else if neg then (.inf true, 0)
    else
      let e0 : Int := ps.foldl (fun acc p => match p with | .num _ m e => if m = 0 then acc else min acc e | _ => acc) 0
      let k : Int := (ps.map fun p => match p with | .num n m e => if m = 0 then 0 else scaled n m e e0 | _ => 0).sum
      let allNeg := !ps.isEmpty && ps.all fun p => match p with | .num n m _ => n && m == 0 | _ => false
      (ofScaled k e0 allNeg, 0)

/-! ### Operations on bits of a format -/

/-- a + b, rounded once. -/
def Fmt.add (f : Fmt) (rm : Rm) (flush : Bool) (a b : Nat) : Nat × BitVec 6 :=
  let (x, fx) := f.read flush a
  let (y, fy) := f.read flush b
  let (v, fv) := addExact rm x y
  let (r, fr) := f.round rm flush v
  (r, fx ||| fy ||| fv ||| fr)

/-- a − b, rounded once. -/
def Fmt.sub (f : Fmt) (rm : Rm) (flush : Bool) (a b : Nat) : Nat × BitVec 6 :=
  let (x, fx) := f.read flush a
  let (y, fy) := f.read flush b
  let (v, fv) := addExact rm x y.neg
  let (r, fr) := f.round rm flush v
  (r, fx ||| fy ||| fv ||| fr)

/-- a × b, rounded once. -/
def Fmt.mul (f : Fmt) (rm : Rm) (flush : Bool) (a b : Nat) : Nat × BitVec 6 :=
  let (x, fx) := f.read flush a
  let (y, fy) := f.read flush b
  let (v, fv) := mulExact x y
  let (r, fr) := f.round rm flush v
  (r, fx ||| fy ||| fv ||| fr)

/-- a × b + c, rounded once; 0 × ∞ is the canonical NaN with NV whatever c (R133). -/
def Fmt.fma (f : Fmt) (rm : Rm) (flush : Bool) (a b c : Nat) : Nat × BitVec 6 :=
  let (x, fx) := f.read flush a
  let (y, fy) := f.read flush b
  let (z, fz) := f.read flush c
  let (p, fp) := mulExact x y
  let (v, fv) := addExact rm p z
  let (r, fr) := f.round rm flush v
  (r, fx ||| fy ||| fz ||| fp ||| nvOf z ||| fv ||| fr)

/-! ### Conversions (R136) -/

/-- Float to float. -/
def cvtFloat (src dst : Fmt) (rm : Rm) (flush : Bool) (a : Nat) : Nat × BitVec 6 :=
  let (x, fx) := src.read flush a
  let (r, fr) := dst.round rm flush x
  (r, fx ||| fr)

/-- A value rounded to an integer; none is a NaN, an infinity counts as a huge number. -/
def FVal.toIntRound (v : FVal) (rm : Rm) : Option (Int × Bool) :=
  match v with
  | .nan _ => none
  | .inf n => some (if n then -(2 ^ 200) else 2 ^ 200, false)
  | .num n m e =>
    let (q, ix) := roundTo rm n m e 0
    some (if n then -(q : Int) else q, ix)

/-- Float to a two's-complement integer of `w` bits: out of range gives the minimum or maximum with NV, NaN gives 0 with NV. -/
def cvtToInt (src : Fmt) (w : Nat) (rm : Rm) (flush : Bool) (a : Nat) : Nat × BitVec 6 :=
  let (x, fx) := src.read flush a
  match x.toIntRound rm with
  | none => (0, fx ||| flNV)
  | some (k, ix) =>
    if k < -(2 ^ (w - 1)) then (2 ^ (w - 1), fx ||| flNV)
    else if k > 2 ^ (w - 1) - 1 then (2 ^ (w - 1) - 1, fx ||| flNV)
    else ((k % 2 ^ w).toNat, fx ||| (if ix then flNX else 0))

/-- An integer to a float. -/
def cvtFromInt (dst : Fmt) (rm : Rm) (flush : Bool) (k : Int) : Nat × BitVec 6 := dst.round rm flush (ofScaled k 0 false)

/-! ### Bit-plane nested integers (R138 to R140) -/

/-- The integer w that `k` planes show of an 8-bit q (R139). -/
def niWeight (k : Nat) (q : Int) : Int :=
  if k ≥ 8 then q else (q / 2 ^ (8 - k)) * 2 ^ (8 - k) + 2 ^ (7 - k)

/-- The value w × 2^x (R140). -/
def niValue (w x : Int) : FVal := ofScaled w x false

end Sys2Proof.Machine
end

