-- ==== Sys2Proof/Machine/Sector.lean ====
section
/-!
DEFINITION. The Reed–Solomon code over GF(2^8) that protects every 32-byte sector (R393 to R395).
-/
namespace Sys2Proof.Machine

/-- Multiplication by α = 0x02 modulo x^8 + x^4 + x^3 + x^2 + 1 (R393). -/
def gfDouble (a : Nat) : Nat := if a < 128 then 2 * a else (2 * a) ^^^ 0x11D

/-- The product of `a` and the low `n` bits of `b` in GF(2^8). -/
def gfMulBits : Nat → Nat → Nat → Nat
  | 0, _, _ => 0
  | n + 1, a, b => (if b % 2 = 1 then a else 0) ^^^ gfMulBits n (gfDouble a) (b / 2)

/-- The product in GF(2^8). -/
def gfMul (a b : Nat) : Nat := gfMulBits 8 a b

/-- α to the power `k`. -/
def gfPow : Nat → Nat
  | 0 => 1
  | k + 1 => gfDouble (gfPow k)

/-- The value at `x` of the polynomial whose coefficients are listed from degree 0 (Horner). -/
def gfEval (x : Nat) : List Nat → Nat
  | [] => 0
  | c :: cs => c ^^^ gfMul x (gfEval x cs)

/-- The address bytes A0 to A5 of R393 with the poison mark `psn`. -/
def sectorAddr (pa : Nat) (psn : Bool) : List Nat :=
  [pa / 2 ^ 5 % 256, pa / 2 ^ 13 % 256, pa / 2 ^ 21 % 256, pa / 2 ^ 29 % 256, pa / 2 ^ 37 % 256,
    pa / 2 ^ 45 % 2 + (if psn then 128 else 0)]

/-- The syndromes S0 to S3 of a sector read at `pa`: data byte i at degree i + 4, A_k at degree 36 + k (R393, R395). -/
def sectorSyndromes (pa : Nat) (psn : Bool) (data check : List Byte) : List Nat :=
  let c := check.map BitVec.toNat ++ data.map BitVec.toNat ++ sectorAddr pa psn
  [gfEval 1 c, gfEval 2 c, gfEval 4 c, gfEval 8 c]

/-- The remainder of a polynomial, listed from degree 0, times x^4 modulo g(x) = x^4 + 15x^3 + 54x^2 + 120x + 64 (R393). -/
def gfRem : List Nat → Nat × Nat × Nat × Nat
  | [] => (0, 0, 0, 0)
  | m :: ms =>
    let (r0, r1, r2, r3) := gfRem ms
    let q := m ^^^ r3
    (gfMul q 64, r0 ^^^ gfMul q 120, r1 ^^^ gfMul q 54, r2 ^^^ gfMul q 15)

/-- The four check bytes of a sector's data at its address, byte 0 first (R393). -/
def sectorCheck (pa : Nat) (psn : Bool) (data : List Byte) : List Byte :=
  let (r0, r1, r2, r3) := gfRem (data.map BitVec.toNat ++ sectorAddr pa psn)
  [BitVec.ofNat 8 r0, BitVec.ofNat 8 r1, BitVec.ofNat 8 r2, BitVec.ofNat 8 r3]

/-- What a read of a sector finds (R395). -/
inductive SectorRead where
  | good
  /-- One symbol was wrong: the corrected data. -/
  | corrected (data : List Byte)
  /-- Written poison. -/
  | poison
  | uncorrectable
  deriving DecidableEq, Repr

/-- The k below `n` with α^k·S0 = S1, if any. -/
def gfLog (s0 s1 : Nat) : Nat → Option Nat
  | 0 => none
  | n + 1 =>
    match gfLog s0 s1 n with
    | some k => some k
    | none => if gfMul (gfPow n) s0 = s1 then some n else none

/-- The outcome of reading a sector at `pa` (R395). -/
def sectorDecode (pa : Nat) (data check : List Byte) : SectorRead :=
  match sectorSyndromes pa false data check with
  | [s0, s1, s2, s3] =>
    if s0 = 0 ∧ s1 = 0 ∧ s2 = 0 ∧ s3 = 0 then .good
    else if s0 ≠ 0 ∧ gfMul s1 s1 = gfMul s0 s2 ∧ gfMul s2 s2 = gfMul s1 s3 then
      match gfLog s0 s1 42 with
      | some k =>
        if k < 4 then .corrected data
        else if k ≤ 35 then
          .corrected (data.set (k - 4) ((data.getD (k - 4) 0) ^^^ BitVec.ofNat 8 s0))
        else if k = 41 ∧ s0 = 0x80 then .poison
        else .uncorrectable
      | none => .uncorrectable
    else .uncorrectable
  | _ => .uncorrectable

end Sys2Proof.Machine
end

