-- ==== Sys2Proof/Machine/Memory.lean ====
section
/-!
DEFINITION. Physical memory, what an access may return (11_consistency.md), sector marks (21_errors.md), the physical map and
translation (10_levels.md), and the scratchpad.
-/
namespace Sys2Proof.Machine

/-! ### Cells -/

/-- The byte at an address: an unlisted address reads as 0 (log entry 7). -/
def cellsGet : List Host.Cell → Nat → Byte
  | [], _ => 0
  | (b, v) :: cs, a => if a = b then v else if a < b then 0 else cellsGet cs a

/-- Writes the byte at an address, keeping the canonical form: a zero byte is not listed. -/
def cellsPut : List Host.Cell → Nat → Byte → List Host.Cell
  | [], a, x => if x = 0 then [] else [(a, x)]
  | (b, v) :: cs, a, x =>
    if a < b then (if x = 0 then (b, v) :: cs else (a, x) :: (b, v) :: cs)
    else if a = b then (if x = 0 then cs else (b, x) :: cs)
    else (b, v) :: cellsPut cs a x

/-- Every address is above `lo` and they rise strictly, and no entry is zero. -/
def cellsWfFrom : Nat → List Host.Cell → Bool
  | _, [] => true
  | lo, (b, v) :: cs => decide (lo ≤ b) && v != 0 && cellsWfFrom (b + 1) cs

/-- The canonical form of a list of cells. -/
def cellsWf (cs : List Host.Cell) : Bool := cellsWfFrom 0 cs

/-- The canonical form of memory. -/
def Memory.wf (m : Memory) : Bool := cellsWf m.cells

/-! ### Who makes an access, and which writes it is ordered after -/

/-- A party that makes an access: none is the host or the front end. -/
structure Actor where
  who : Option Who
  cls : PathClass
  /-- Issue stamp of the instruction or command. -/
  stamp : Nat
  know : Know
  deriving DecidableEq, Repr

/-- The front end, the host ports and the other units outside the cores: CORE accesses (R224, R230). -/
def Actor.host : Actor := { who := none, cls := .core, stamp := 0, know := Know.none }

/-- Whether a write belongs to a span. -/
def Span.covers (p : Span) (w : WriteRec) : Bool :=
  p.cls == w.cls && (if p.host then w.who.isNone else p.src.isNone || p.src == w.who) && decide (p.lo ≤ w.stamp)
    && decide (w.stamp ≤ p.hi) && p.perf.all (fun n => decide (w.perf < n))
    && (p.cores.all fun m => w.who.any fun x => m.getLsbD x.core.val)
    && p.area.all fun r => decide (r.1 ≤ w.addr) && decide (w.addr < r.1 + r.2)

/-- Whether a core lies inside the scope `sc` of core `c` (R236). -/
def inScope (sc : Scope) (c d : CoreId) : Bool :=
  match sc with
  | .core => c == d
  | .cluster => clusterOf c == clusterOf d
  | .die => dieOf c == dieOf d
  | .package => true
  | .pod => true

/-- Whether a publication reaches CORE accesses of a party (R234 point 3, R236): the host and the front end are inside
PACKAGE. -/
def Published.reaches (p : Published) (w : Option Who) : Bool :=
  match w with
  | some w => inScope p.scope p.who.core w.core
  | none => p.scope == .package || p.scope == .pod

/-- Whether an access by `a` is ordered after the write `w` (R224, R233, R234, R238, R240). Accesses made for other packages are
ordered among themselves (R451) and after what has been made visible at POD (R237, log entry 9). -/
def State.ordered (s : State) (a : Actor) (w : WriteRec) : Bool :=
  (a.cls == .core && w.cls == .core)
  || (a.cls == w.cls && a.cls != .core
      && (a.know.seen.contains w.stamp || (w.stamp == a.stamp && w.who == a.who) || (a.who.isNone && w.who.isNone)
        || (a.cls == .mat && (a.who.map Who.core) == (w.who.map Who.core) && decide (w.stamp ≤ a.stamp))))
  || a.know.reads.any (fun r => r.1 == a.cls && r.2.covers w)
  || (a.cls == .core && s.mem.pubs.any fun p => p.armed && p.reaches a.who && p.spans.any fun sp => sp.covers w)
  || (a.cls == .remote && a.who.isNone && s.mem.pubs.any fun p => p.scope == .pod && p.spans.any fun sp => sp.covers w)

/-! ### The physical map (R203, R206) -/

/-- The CXL pool begins here (R203). -/
def poolBase : Nat := 0x100000000000
/-- The host window begins here (R203). -/
def hostBase : Nat := 0x200000000000
/-- The register block begins here (R203). -/
def regBase : Nat := 0x3F0000000000

/-- HBM4E (R203). -/
def isHbm (pa : Nat) : Bool := decide (pa < 0x8000000000)

/-- The populated pool (R203, R204). -/
def State.isPool (s : State) (pa : Nat) : Bool :=
  decide (poolBase ≤ pa) && decide (pa < poolBase + s.fe.poolSize.toNat * 2 ^ 30)

/-- The populated host window (R203, R204). -/
def State.isHostWin (s : State) (pa : Nat) : Bool :=
  decide (hostBase ≤ pa) && decide (pa < hostBase + s.fe.hostwinSize.toNat * 2 ^ 30)

/-- The range of device registers (R203). -/
def inRegRange (pa : Nat) : Bool := decide (regBase ≤ pa) && decide (pa < regBase + 0x100000000)

/-- Populated device registers: the register block and the portals (R203). -/
def isReg (pa : Nat) : Bool := decide (regBase ≤ pa) && decide (pa < regBase + 0x200000)

/-- Populated addresses (R203). -/
def State.populated (s : State) (pa : Nat) : Bool := isHbm pa || s.isPool pa || s.isHostWin pa || isReg pa

/-- The enabled pool ports in ascending order (R206). -/
def State.poolPortList (s : State) : List Nat :=
  (List.range 28).filter fun p => decide (2 ≤ p) && s.fe.poolPorts.getLsbD p

/-- The home die of a normal line (R205, R206). -/
def State.homeDie (s : State) (pa : Nat) : Nat :=
  if isHbm pa then pa / 2 ^ 37 % 4
  else if poolBase ≤ pa ∧ pa < hostBase then
    let ps := s.poolPortList
    if ps.length = 0 then 0 else (ps.getD ((pa - poolBase) / 4096 % ps.length) 0) / 7
  else 0

/-- Where a normal line is served (R205). -/
structure LineHome where
  die : Nat
  /-- The L2 slice of the die. -/
  slice : Nat
  /-- The LLC bank of the quay die, and so the bank ALU (R208); a host line has none. -/
  bank : Option Nat
  deriving DecidableEq, Repr

/-- The home of a line (R205). -/
def State.lineHome (s : State) (pa : Nat) : LineHome :=
  { die := s.homeDie pa
    slice := (pa / 2 ^ 8 % 32) ^^^ (pa / 2 ^ 13 % 32) ^^^ (pa / 2 ^ 18 % 32)
    bank := if hostBase ≤ pa then none else some ((pa / 2 ^ 8 % 1024) ^^^ (pa / 2 ^ 18 % 1024) ^^^ (pa / 2 ^ 28 % 1024)) }

/-! ### Stubs (R431, R434) -/

/-- The 64 KiB page of an address. -/
def pageOf (pa : Nat) : Nat := pa / 65536 * 65536

/-- Follows stubs from an address (R431), at most `n` of them; none is a page that has moved, or is moving, to another package (R434).
While a page is copied within the package, its frame shows what the copy will leave there (R430: accesses to it wait for the copy). -/
def State.placeFrom (s : State) : Nat → Nat → Option Nat
  | 0, pa => some pa
  | n + 1, pa =>
    match s.stubs.find? fun t => t.src == pageOf pa with
    | some t => if t.xp.isNone then s.placeFrom n (t.dst + pa % 65536) else none
    | none =>
      match s.migration with
      | none => some pa
      | some m =>
        if m.xp.isSome && !m.copied && m.src == pageOf pa then none
        else if m.xp.isNone && !m.copied && m.dst == pageOf pa then some (m.src + pa % 65536) else some pa

/-- Where an access that is not a sequencer's own scalar or row access finds a byte (R431). -/
def State.placeOf (s : State) (pa : Nat) : Option Nat := s.placeFrom 17 pa

/-- Splits addressed items into runs of consecutive addresses inside one page, of at most 64 items (R434). -/
def pieces {α : Type} : List (Nat × α) → List (Nat × List α)
  | [] => []
  | (a, b) :: ws =>
    match pieces ws with
    | (a2, bs) :: rest =>
      if a2 = a + 1 ∧ bs.length < 64 ∧ pageOf a = pageOf a2 then (a, b :: bs) :: rest else (a, [b]) :: (a2, bs) :: rest
    | [] => [(a, [b])]

/-- The last stub of the chain that an address enters, with the address there. -/
def State.stubFrom (s : State) : Nat → Nat → Option (Nat × Nat)
  | 0, _ => none
  | n + 1, pa =>
    match s.stubs.findIdx? fun t => t.src == pageOf pa with
    | none => none
    | some i =>
      match s.stubs[i]? with
      | none => none
      | some t => if t.xp.isSome then some (i, pa) else s.stubFrom n (t.dst + pa % 65536)

/-- Puts an access into a stub's queue. -/
def State.stubHold (s : State) (i : Nat) (h : HeldAccess) : State :=
  { s with stubs := s.stubs.modify i fun t => { t with held := t.held ++ [h] } }

/-- The physical address of the first byte of an access. -/
def HeldAccess.pa (h : HeldAccess) : Nat := (h.bytes.headD (0, 0)).1

/-- The access at the same offsets of another page. -/
def HeldAccess.toPage (h : HeldAccess) (page : Nat) : HeldAccess :=
  { h with bytes := h.bytes.map fun b => (page + b.1 % 65536, b.2) }

/-- Sends an access to a page in another package: it joins those that the copy holds, or the queue of the page's stub (R430, R434). -/
def State.sendAway (s : State) (h : HeldAccess) : State :=
  match s.stubFrom 17 h.pa with
  | some (i, pa) => s.stubHold i (h.toPage (pageOf pa))
  | none => { s with migration := s.migration.map fun m => { m with held := m.held ++ [h] } }

/-- The tenancy of a page that moves or has moved. -/
def State.awayTen (s : State) (pa : Nat) : BitVec 8 :=
  match s.stubFrom 17 pa with
  | some (i, _) => (s.stubs[i]?).elim 0 Stub.ten
  | none => (s.migration.map Migration.ten).getD 0

/-- An access of a party that is not a sequencer's own scalar or row access, to a page in another package. -/
def Actor.held (a : Actor) (ten : BitVec 8) (kind : Nat) (bytes : List (Nat × Nat)) (data : List Byte) : HeldAccess :=
  { who := a.who, cls := a.cls, stamp := a.stamp, know := a.know, port := none, bytes := bytes, va := 0, kind := kind, data := data
    op := 0, sz := 0, ten := ten, acq := false, rel := none, parts := [], far := none, peer := none }

/-- Writes that meet a page in another package, or one that is on its way there, go to it (R434). -/
def State.holdWrites (s : State) (a : Actor) (ws : List (Nat × Byte)) : State :=
  (pieces ws).foldl (fun s p =>
    s.sendAway (a.held (s.awayTen p.1) 1 ((List.range p.2.length).map fun i => (p.1 + i, i)) p.2)) s

/-- The accesses that have issued and are not performed: those on their way, those that a copy or a stub holds, and those forwarded. -/
def State.unperformed (s : State) : List HeldAccess :=
  s.pending ++ (s.migration.map Migration.held).getD [] ++ s.stubs.flatMap fun t => t.held ++ t.flying

/-- Whether an access of an instruction or command of `w` is not performed. -/
def State.outstanding (s : State) (w : Who) (stamp : Nat) : Bool :=
  s.unperformed.any fun h => h.who == some w && h.stamp == stamp && h.far.isNone

/-! ### Tapes that lose their code (R344) -/

/-- Makes tape `t` of a core EMPTY; a recording that is in progress there is abandoned as INVALIDATED (R344, R349). -/
def State.emptyTape (s : State) (c : CoreId) (t : Fin 16) (status : Nat) : State :=
  let s := s.modCore c fun k =>
    let live := (k.tapes.get t).st == .recording
    { k with tapes := k.tapes.set t.val Tape.blank t.isLt, tapeBad := k.tapeBad.filter fun b => b.1 != t
             tapePhase := if live && k.tapePhase == .recording then .abandoned status else k.tapePhase }
  { s with codeLines := s.codeLines.filter fun l => !(l.2.1 == c && l.2.2 == t) }

/-- The address under which a tape knows the line of an address: that of its home here, or at the stub of a page in another package
(R351). -/
def State.codePlace (s : State) (pa : Nat) : Nat :=
  match s.placeOf pa with
  | some q => q
  | none => (s.stubFrom 17 pa).elim pa Prod.snd

/-- Makes EMPTY every tape with code in the lines of these addresses (R344 point 2). -/
def State.touchCode (s : State) (pas : List Nat) : State :=
  let hit := s.codeLines.filter fun l => pas.any fun pa => l.1 == pa / 256
  hit.foldl (fun s l => s.emptyTape l.2.1 l.2.2 7) s

/-! ### Sectors (R394 to R397) -/

/-- The sectors of addresses, each once. -/
def sectorsOf (pas : List Nat) : List Nat := (pas.map fun pa => pa / 32).eraseDups

/-- The 32 bytes of a sector as they are stored. -/
def State.sectorData (s : State) (sec : Nat) : List Byte := (List.range 32).map fun i => cellsGet s.mem.cells (sec * 32 + i)

/-- Replaces the mark of a sector. -/
def State.setMark (s : State) (sec : Nat) (m : Option SectorMark) : State :=
  let rest := s.mem.marks.filter fun x => x.1 != sec
  { s with mem := { s.mem with marks := match m with | none => rest | some k => (sec, k) :: rest } }

/-- Writes the bytes of a sector without any other effect. -/
def State.putSector (s : State) (sec : Nat) (data : List Byte) : State :=
  { s with mem := { s.mem with
      cells := (List.range 32).foldl (fun cs i => cellsPut cs (sec * 32 + i) (data.getD i 0)) s.mem.cells } }

/-- The places at which a sector may be found uncorrectable, for ECC_LAST (R401): 1 the LLC, 2 HBM, 3 the pool, 4 on entry to an L2
slice. What the LLC holds is not fixed by the spec, so which of them it is is free; a host line, which no LLC bank holds, is found by
its home slice (log entry 80). -/
def eccPlaces (pa : Nat) : List Nat := if isHbm pa then [2, 1, 4] else if pa < hostBase then [3, 1, 4] else [4]

/-- Counts an uncorrectable sector, or one of an on-die array: its address or array index, and its place (R401). -/
def State.countUe (s : State) (sec place : Nat) : State :=
  { s with fe := { s.fe with eccUe := s.fe.eccUe + 1, eccLast := BitVec.ofNat 64 (sec % 2 ^ 41 * 32 + place * 2 ^ 48) } }

/-- Counts an uncorrectable sector of memory. -/
def State.foundUe (s : State) (sec : Nat) : State :=
  let (n, s) := s.freeNat
  let ps := eccPlaces (sec * 32)
  s.countUe sec (ps.getD (n % ps.length) 2)

/-- Counts an uncorrectable sector of an on-die array (R399): each read that finds one counts it (log entry 80). -/
def State.foundOnDie (s : State) (idx : Nat) : State := s.countUe idx 5

/-- A poisoned sector has been found: R398 is still to look for a sealed node. -/
def State.noteFound (s : State) (sec : Nat) : State := { s with mem := { s.mem with found := sec :: s.mem.found } }

/-- What a read finds in a sector. -/
inductive SectorNow where
  | good
  /-- Corrected data: the stored bytes stay as they are until a write to the sector or the scrubber rewrites them (R396). -/
  | data (d : List Byte)
  | bad
  deriving DecidableEq, Repr

/-- Reads a sector through its code (R395), and counts what it finds; an uncorrectable sector is stored poisoned (R396). Host memory
is not covered by the code: poison that the host signals is taken as an uncorrectable sector (R394). -/
def State.checkSector (s : State) (sec : Nat) : SectorNow × State :=
  let host := decide (hostBase ≤ sec * 32)
  match s.mem.marks.find? fun x => x.1 == sec with
  | none => (.good, s)
  | some (_, .poison) =>
    (.bad, (if host then s.foundUe sec else { s with fe := { s.fe with eccPsnrd := s.fe.eccPsnrd + 1 } }).noteFound sec)
  | some (_, .check bs) =>
    if host then (.good, s)
    else
      match sectorDecode (sec * 32) (s.sectorData sec) bs with
      | .good => (.good, s)
      | .corrected d => (.data d, { s with fe := { s.fe with eccCe := s.fe.eccCe + 1 } })
      | .poison =>
        (.bad, ({ s.setMark sec (some .poison) with fe := { s.fe with eccPsnrd := s.fe.eccPsnrd + 1 } }).noteFound sec)
      | .uncorrectable => (.bad, ((s.setMark sec (some .poison)).foundUe sec).noteFound sec)

/-- Reads several sectors: those that are not simply good. -/
def State.checkSectors (s : State) : List Nat → List (Nat × SectorNow) × State
  | [] => ([], s)
  | k :: ks =>
    let (v, s) := s.checkSector k
    let (rest, s) := s.checkSectors ks
    (if v == .good then rest else (k, v) :: rest, s)

/-- The poisoned ones among sectors that have been read. -/
def badOf (l : List (Nat × SectorNow)) : List Nat := (l.filter fun k => k.2 == .bad).map Prod.fst

/-- Whether a sector is poisoned, before a write that covers it whole: its data and check bytes are not read, and the write leaves it
with good check bytes. -/
def State.unmark (s : State) (sec : Nat) : Bool × State :=
  match s.mem.marks.find? fun x => x.1 == sec with
  | none => (false, s)
  | some (_, .poison) => (true, s.setMark sec none)
  | some (_, .check bs) =>
    match sectorDecode (sec * 32) (s.sectorData sec) bs with
    | .good => (false, s.setMark sec none)
    | .corrected d => (false, (s.putSector sec d).setMark sec none)
    | _ => (true, s.setMark sec none)

/-- A sector that the device changes is re-encoded where the change is made (R394). -/
def State.rewrite (s : State) (v : Nat × SectorNow) : State :=
  match v.2 with
  | .data d => (s.putSector v.1 d).setMark v.1 none
  | _ => s

/-! ### Bytes -/

/-- The writes to a byte, the last one first. -/
def State.recsAt (s : State) (pa : Nat) : List WriteRec := s.mem.hist.filter fun w => w.addr == pa

/-- How many of the last writes a reader passes over: going back from the last write, each write it is not ordered after may be missed
(R232; the choice is free). -/
def pickPlace (ord : WriteRec → Bool) (free : Nat) : List WriteRec → Nat × Nat
  | [] => (0, free)
  | w :: ws =>
    if ord w then (0, free)
    else if Config.freeBit free then
      let (n, free) := pickPlace ord (free + 1) ws
      (n + 1, free)
    else (0, free + 1)

/-- What a byte held after all but the last `n` writes: the byte, and whether its sector was poisoned (R396). -/
def placeValue (rs : List WriteRec) (now : Byte × Bool) : Nat → Byte × Bool
  | 0 => now
  | n + 1 =>
    match rs[n]? with
    | some w => (w.old, w.oldBad)
    | none => now

/-- A byte of the present contents of its sector, which a read has found to be `v`. -/
def SectorNow.byte (v : SectorNow) (raw : Byte) (pa : Nat) : Byte × Bool :=
  match v with
  | .good => (raw, false)
  | .data d => (d.getD (pa % 32) 0, false)
  | .bad => (0, true)

/-- What reading found in the sector of an address. -/
def seenAt (seen : List (Nat × SectorNow)) (pa : Nat) : SectorNow :=
  ((seen.find? fun k => k.1 == pa / 32).map Prod.snd).getD .good

/-- A byte as an access reads it: its value, 0 where its sector was poisoned (R397), whether it was, and what an acquire that reads it
synchronises with. -/
structure ByteRead where
  byte : Byte
  bad : Bool
  rels : List Rel
  deriving DecidableEq, Repr

/-- The releases with which an acquire synchronises that reads the last of these writes (R237): where a release or an AMO made it, that
release and those that precede it. -/
def relsOf : List WriteRec → List Rel
  | [] => []
  | w :: ws => if w.rel.isSome || (w.atomic && w.cls == .core) then (w :: ws).filterMap WriteRec.rel else []

/-- One byte of physical memory at its home. -/
def State.readByte (s : State) (ord : WriteRec → Bool) (seen : List (Nat × SectorNow)) (pa : Nat) : ByteRead × State :=
  let rs := s.recsAt pa
  let (n, f) := pickPlace ord s.free rs
  let v := placeValue rs ((seenAt seen pa).byte (cellsGet s.mem.cells pa) pa) n
  ({ byte := if v.2 then 0 else v.1, bad := v.2, rels := relsOf (rs.drop n) }, { s with free := f })

/-- Bytes of physical memory. A byte of a page in another package is what has come back from there; one that has not is noted as missing,
and the step is made again when it has (R434). -/
def State.readList (s : State) (ord : WriteRec → Bool) (seen : List (Nat × SectorNow)) : List Nat → List ByteRead × State
  | [] => ([], s)
  | pa :: pas =>
    let (v, s) := match s.placeOf pa with
      | some q => s.readByte ord seen q
      | none =>
        match s.mem.far.find? fun (b : Nat × Byte × Bool) => b.1 == pa with
        | some b => ({ byte := if b.2.2 then 0 else b.2.1, bad := b.2.2, rels := [] }, s)
        | none => ({ byte := 0, bad := false, rels := [] }, { s with mem := { s.mem with missing := pa :: s.mem.missing } })
    let (rest, s) := s.readList ord seen pas
    (v :: rest, s)

/-- Reads bytes of physical memory for an access that is ordered after the writes that `ord` accepts. -/
def State.readCells (s : State) (ord : WriteRec → Bool) (pas : List Nat) : List ByteRead × State :=
  let (seen, s) := s.checkSectors (sectorsOf (pas.filterMap s.placeOf))
  s.readList ord seen pas

/-- The same, each byte with whether its sector is poisoned. -/
def State.readPas (s : State) (ord : WriteRec → Bool) (pas : List Nat) : List (Byte × Bool) × State :=
  let (bs, s) := s.readCells ord pas
  (bs.map fun b => (b.byte, b.bad), s)

/-- Reads bytes of physical memory for a party. -/
def State.readAs (s : State) (a : Actor) (pas : List Nat) : List (Byte × Bool) × State := s.readPas (s.ordered a) pas

/-- How a write bears on those that come after it: as an operation of a bank ALU (R226), and as a release (R237). -/
structure WriteKind where
  atomic : Bool
  rel : Option Rel
  deriving DecidableEq, Repr

/-- A write that is neither. -/
def WriteKind.plain : WriteKind := { atomic := false, rel := none }
/-- A release. -/
def WriteKind.release (r : Rel) : WriteKind := { atomic := false, rel := some r }
/-- An operation of a bank ALU. -/
def WriteKind.alu : WriteKind := { atomic := true, rel := none }

/-- The record of a write by a party. -/
def State.newRec (s : State) (a : Actor) (k : WriteKind) (pa : Nat) (oldBad : Bool) : WriteRec :=
  { addr := pa, old := cellsGet s.mem.cells pa, oldBad := oldBad, cls := a.cls, who := a.who, stamp := a.stamp, atomic := k.atomic
    rel := k.rel, perf := s.mem.writes }

/-- A write of `v` goes before the first of the writes listed after it that are `n + 1` to the same byte: the reader of what came before
that one finds `v`. -/
def slipRec (new : WriteRec) (v : Byte) : Nat → List WriteRec → List WriteRec
  | _, [] => [new]
  | n, w :: ws =>
    if w.addr != new.addr then w :: slipRec new v n ws
    else
      match n with
      | 0 => { w with old := v, oldBad := false } :: { new with old := w.old, oldBad := w.oldBad } :: ws
      | n + 1 => w :: slipRec new v n ws

/-- Writes one byte with the last `n` writes to it taking effect after it. `bad` says that its sector was poisoned until now; `whole` that
the write covers the sector, so that a poisoned one does not lose it (R396). -/
def State.putByte (s : State) (a : Actor) (k : WriteKind) (bad whole : Bool) (pa : Nat) (v : Byte) (n : Nat) : State :=
  let new := s.newRec a k pa bad
  match n with
  | 0 => { s with mem := { s.mem with hist := new :: s.mem.hist, writes := s.mem.writes + 1, cells := cellsPut s.mem.cells pa v } }
  | n + 1 =>
    if ((s.recsAt pa)[n]?).any WriteRec.oldBad && !whole then s
    else { s with mem := { s.mem with hist := slipRec new v n s.mem.hist, writes := s.mem.writes + 1 } }

/-- The places that a write may take among the last writes to its byte (R232): behind writes to which it is not ordered, but not between
the read and the write of an operation of a bank ALU (R226); these are ordered among themselves (R208). -/
def writePlaces (ord : WriteRec → Bool) (atomic : Bool) (rs : List WriteRec) : List Nat :=
  let n := (rs.takeWhile fun w => !ord w && !(atomic && w.atomic)).length
  (List.range (n + 1)).filter fun i => i == 0 || !(rs[i - 1]?).any WriteRec.atomic

/-- A place for a write; where there are several the choice is free. -/
def State.choosePlace (s : State) (a : Actor) (k : WriteKind) (pa : Nat) : Nat × State :=
  match writePlaces (s.ordered a) k.atomic (s.recsAt pa) with
  | [] => (0, s)
  | [n] => (n, s)
  | ns =>
    let (f, s) := s.freeNat
    (ns.getD (f % ns.length) 0, s)

/-- Writes one byte. -/
def State.writeByte (s : State) (a : Actor) (k : WriteKind) (whole : Bool) (pa : Nat) (v : Byte) : State :=
  let (n, s) := s.choosePlace a k pa
  s.putByte a k false whole pa v n

/-- Whether a set of writes covers a sector. -/
def covers (ws : List (Nat × Byte)) (sec : Nat) : Bool := (List.range 32).all fun i => ws.any fun w => w.1 == sec * 32 + i

/-- Writes the whole of a sector (R396): one that was poisoned becomes good, unless its poison comes from a write to which this one is not
ordered and which takes effect after it (R232; the choice is free). -/
def State.writeWhole (s : State) (a : Actor) (k : WriteKind) (sec : Nat) (ws : List (Nat × Byte)) : State :=
  let loose := ws.all fun w => match (s.recsAt w.1).head? with
    | some r => !s.ordered a r && !r.atomic
    | none => false
  let (bad, s') := s.unmark sec
  if bad then
    let (b, s2) := if loose then s.freeBit else (false, s)
    if b then ws.foldl (fun s w => s.putByte a k true true w.1 w.2 1) s2
    else ws.foldl (fun s w => s.putByte a k true true w.1 w.2 0) { s' with free := s2.free }
  else ws.foldl (fun s w => s.writeByte a k true w.1 w.2) s'

/-- Writes part of a sector: a poisoned sector stays poisoned, and the bytes are lost (R396). -/
def State.writePart (s : State) (a : Actor) (k : WriteKind) (sec : Nat) (ws : List (Nat × Byte)) : State :=
  let (v, s) := s.checkSector sec
  if v == .bad then s else ws.foldl (fun s w => s.writeByte a k false w.1 w.2) (s.rewrite (sec, v))

/-- Writes bytes at their homes, all of one instruction, command or transaction. -/
def State.putPas (s : State) (a : Actor) (k : WriteKind) (ws : List (Nat × Byte)) : State :=
  (sectorsOf (ws.map Prod.fst)).foldl (fun s sec =>
    let mine := ws.filter fun w => w.1 / 32 == sec
    if covers ws sec then s.writeWhole a k sec mine else s.writePart a k sec mine) s

/-- Writes bytes of physical memory, all of one instruction, command or transaction: those of a page in another package go there. -/
def State.writePas (s : State) (a : Actor) (k : WriteKind) (ws : List (Nat × Byte)) : State :=
  let s := s.touchCode (ws.map fun w => s.codePlace w.1)
  let s := s.holdWrites a (ws.filter fun w => (s.placeOf w.1).isNone)
  s.putPas a k (ws.filterMap fun w => (s.placeOf w.1).map fun pa => (pa, w.2))

/-- Stores sectors poisoned: each sector of the addresses (R297, R396), for a party. -/
def State.poisonPas (s : State) (a : Actor) (pas : List Nat) : State :=
  (sectorsOf (pas.filterMap s.placeOf)).foldl (fun s sec =>
    let (bad, s) := s.unmark sec
    let s := (List.range 32).foldl (fun s i =>
      let pa := sec * 32 + i
      s.putByte a .plain bad true pa (cellsGet s.mem.cells pa) 0) s
    s.setMark sec (some .poison)) s

/-- The line of a host address has been written back to the host: a warm reset no longer loses it (R209, R255, R402). -/
def State.writeBack (s : State) (pa : Nat) : State :=
  { s with mem := { s.mem with hist := s.mem.hist.map fun w =>
      if w.addr / 256 == pa / 256 && decide (hostBase ≤ pa) then { w with durable := true } else w } }

/-- What an atomic step finds: the old value, 0 in a poisoned sector (R397), whether the sector was poisoned, and what an acquire that
reads it synchronises with. -/
structure AtomicRead where
  old : Nat
  bad : Bool
  rels : List Rel
  deriving DecidableEq, Repr

/-- Performs an atomic step on `n` bytes at their home, physical address `pa` (R208, R226); in a poisoned sector nothing changes (R397). No
access falls between the read and the write: each byte is written in the place at which it was read. -/
def State.atomicStep (s : State) (a : Actor) (rel : Option Rel) (pa n : Nat) (f : Nat → Nat) : AtomicRead × State :=
  let k : WriteKind := { atomic := true, rel := rel }
  let pas := (List.range n).map fun i => pa + i
  let (v, s) := s.checkSector (pa / 32)
  let (ps, s) := pas.foldl (fun (acc : List Nat × State) p =>
    let (m, s) := acc.2.choosePlace a k p
    (acc.1 ++ [m], s)) ([], s)
  let bs := (pas.zip ps).map fun p => placeValue (s.recsAt p.1) (v.byte (cellsGet s.mem.cells p.1) p.1) p.2
  let rels := ((pas.zip ps).flatMap fun p => relsOf ((s.recsAt p.1).drop p.2)).eraseDups
  if v == .bad || bs.any Prod.snd then ({ old := 0, bad := true, rels := rels }, s)
  else
    let m := ofBytes (bs.map Prod.fst)
    let s := (s.rewrite (pa / 32, v)).touchCode pas
    ({ old := m, bad := false, rels := rels }, (((pas.zip ps).zip (toBytes n (f m))).foldl (fun s w => s.putByte a k false false w.1.1 w.2 w.1.2) s))

/-! ### Atomic operations on integers (R247) and the combining buffers (R425 to R428) -/

/-- The new value of an integer atomic of `n` bytes (R247): old `m`, operand `x`, the CAS replacement `y`. -/
def amoInt (op n m x y : Nat) : Nat :=
  let w := 8 * n
  let M := 2 ^ w
  match op with
  | 0 => (m + x) % M
  | 1 => m &&& x
  | 2 => m ||| x
  | 3 => m ^^^ x
  | 4 => if sextNat w m ≤ sextNat w x then m else x
  | 5 => if sextNat w m ≥ sextNat w x then m else x
  | 6 => min m x
  | 7 => max m x
  | 8 => x
  | 9 => if m = x then y else m
  | _ => m

/-- An access of a sequencer is complete. -/
def State.unpend (s : State) (cls : PathClass) (w : Who) (id : Nat) : State :=
  s.modCore w.core fun c => { c with pend := c.pend.erase { cls := cls, sq := w.sq, id := id } }

/-- A merged AMO as an access on its way to its line's home (R426). -/
def CombineEntry.access (e : CombineEntry) : HeldAccess :=
  { Actor.host.held e.ten 2 ((List.range (2 ^ e.sz)).map fun i => (e.pa + i, i)) (toBytes 16 e.value.toNat) with
    op := e.op, sz := e.sz, parts := e.parts }

/-- Sends a merged AMO from a combining buffer (R426): it is applied at its line's bank, and every AMO that it carries is then performed
(R428). -/
def State.flushEntry (s : State) (die : Fin 4) (e : CombineEntry) : State :=
  let s := { s with
    combine := s.combine.set die.val ((s.combine.get die).filter fun x => x != e) die.isLt
    fe := { s.fe with rwSent := s.fe.rwSent + 1 } }
  match s.placeOf e.pa with
  | none => s.sendAway e.access
  | some pa =>
    let s := (s.atomicStep Actor.host none pa (2 ^ e.sz) fun m => amoInt e.op (2 ^ e.sz) m e.value.toNat 0).2
    e.parts.foldl (fun s p => s.unpend .core p.1 p.2) s

/-- Flushes the entries of a die that `p` selects, oldest first (R427). -/
def State.flushWhere (s : State) (die : Fin 4) (p : CombineEntry → Bool) : State :=
  ((s.combine.get die).filter p).foldl (fun s e => s.flushEntry die e) s

/-- Flushes the entries that hold a contribution of core `c` (R427 points 2 and 3). -/
def State.flushCore (s : State) (c : CoreId) : State := s.flushWhere (dieOf c) fun e => e.mask.getLsbD (c.val % 64)

/-- Flushes the entries of the lines that a core's access touches (R427 point 4). -/
def State.flushLines (s : State) (c : CoreId) (pas : List Nat) : State :=
  s.flushWhere (dieOf c) fun e => pas.any fun pa => pa / 256 == e.pa / 256

/-- Reads bytes on the CORE path for a core (R221, R427 point 4): fetch, table walks, lists and images among them. -/
def State.coreRead (s : State) (c : CoreId) (ord : WriteRec → Bool) (pas : List Nat) : List (Byte × Bool) × State :=
  (s.flushLines c pas).readPas ord pas

/-! ### Translation (R214, R215, R217, R218) -/

/-- The fault details of R291. -/
def detCanon : Nat := 0
/-- An entry with V = 0. -/
def detNovalid : Nat := 1
/-- A malformed entry. -/
def detBadpte : Nat := 2
/-- A page address not aligned to its size. -/
def detAlign : Nat := 3
/-- An unpopulated address. -/
def detNophys : Nat := 4
/-- A missing permission. -/
def detPerm : Nat := 5
/-- An access that device registers do not take. -/
def detMtype : Nat := 6
/-- A poisoned table entry. -/
def detPoison : Nat := 7

/-- What an access needs of a page (R215). -/
structure Need where
  rd : Bool
  wr : Bool
  ex : Bool
  /-- A scalar LD, LDS or ST of 4 or 8 aligned bytes, which device registers take. -/
  scalar : Bool
  deriving DecidableEq, Repr

/-- A load. -/
def Need.load : Need := { rd := true, wr := false, ex := false, scalar := false }
/-- A store. -/
def Need.store : Need := { rd := false, wr := true, ex := false, scalar := false }
/-- An atomic. -/
def Need.amo : Need := { rd := true, wr := true, ex := false, scalar := false }
/-- Instruction fetch and LDC. -/
def Need.fetch : Need := { rd := false, wr := false, ex := true, scalar := false }

/-- A page that a walk found. -/
structure Leaf where
  va : Nat
  size : Nat
  pa : Nat
  perms : BitVec 3
  mt : Nat
  deriving DecidableEq, Repr

/-- The index of an address in a table of a level (R214). -/
def vaIndex (lvl va : Nat) : Nat :=
  match lvl with
  | 3 => va / 2 ^ 44 % 8192
  | 2 => va / 2 ^ 30 % 16384
  | 1 => va / 2 ^ 21 % 512
  | _ => va / 2 ^ 16 % 32

/-- The size in bytes, and the alignment, of a table of a level (R214). -/
def tableSize (lvl : Nat) : Nat :=
  match lvl with
  | 3 => 65536
  | 2 => 131072
  | 1 => 4096
  | _ => 256

/-- The size of a page mapped at a level (R214). -/
def pageSize (lvl : Nat) : Nat :=
  match lvl with
  | 2 => 2 ^ 30
  | 1 => 2 ^ 21
  | _ => 2 ^ 16

/-- What an entry of a table of level `lvl` says of an address (R214, R215): its fault, the leaf, or the table of the next level. -/
inductive WalkStep where
  | fault (det : Nat)
  | leaf (l : Leaf)
  | table (t : Nat)
  deriving DecidableEq, Repr

/-- The checks of R215 on an entry `e`, up to the leaf's alignment check; `bad` says that it was read poisoned. -/
def walkEntry (lvl va e : Nat) (bad : Bool) : WalkStep :=
  let pa := e / 256 % 2 ^ 38 * 256
  let mt := e / 32 % 4
  if bad then .fault detPoison
  else if e % 2 = 0 then .fault detNovalid
  else if e / 2 ^ 46 ≠ 0 ∨ e / 128 % 2 ≠ 0 ∨ mt ≥ 2 then .fault detBadpte
  else if e / 2 % 2 = 1 then
    if lvl = 3 then .fault detBadpte
    else if pa % pageSize lvl ≠ 0 then .fault detAlign
    else .leaf { va := va / pageSize lvl * pageSize lvl, size := pageSize lvl, pa := pa, perms := BitVec.ofNat 3 (e / 4 % 8), mt := mt }
  else if lvl = 0 ∨ e / 4 % 32 ≠ 0 then .fault detBadpte
  else if pa % tableSize (lvl - 1) ≠ 0 ∨ !isHbm pa then .fault detBadpte
  else .table pa

/-- Reads the entry of an address in the table `t` of level `lvl`. -/
def State.readEntry (s : State) (c : CoreId) (ord : WriteRec → Bool) (va lvl t : Nat) : WalkStep × State :=
  let (bs, s) := s.coreRead c ord ((List.range 8).map fun i => t + 8 * vaIndex lvl va + i)
  (walkEntry lvl va (ofBytes (bs.map Prod.fst)) (bs.any Prod.snd), s)

/-- Ends a walk at an entry, or goes on with `k` from the table that it names. -/
def WalkStep.then (v : WalkStep × State) (k : State → Nat → Except Nat Leaf × State) : Except Nat Leaf × State :=
  match v.1 with
  | .fault d => (.error d, v.2)
  | .leaf l => (.ok l, v.2)
  | .table t => k v.2 t

/-- The walk of R215 from the table `t` of level `lvl` down, up to the leaf's alignment check; an entry of the last level names no table. -/
def State.walk (s : State) (c : CoreId) (ord : WriteRec → Bool) (va : Nat) : Nat → Nat → Except Nat Leaf × State
  | 0, t => WalkStep.then (s.readEntry c ord va 0 t) fun s _ => (.error detBadpte, s)
  | lvl + 1, t => WalkStep.then (s.readEntry c ord va (lvl + 1) t) fun s t => s.walk c ord va lvl t

/-- The checks of R215 on a page that was found; device registers are the system tenancy's alone (R406). -/
def State.leafCheck (s : State) (l : Leaf) (ten : BitVec 8) (need : Need) (va : Nat) : Except Nat (Nat × Nat) :=
  let pa := l.pa + va % l.size
  if !s.populated pa || (l.mt == 1 && !isReg pa) || (l.mt == 0 && inRegRange pa) then .error detNophys
  else if (need.rd && !l.perms.getLsbD 0) || (need.wr && !l.perms.getLsbD 1) || (need.ex && !l.perms.getLsbD 2)
      || (l.mt == 1 && ten != 0) then
    .error detPerm
  else if l.mt == 1 && !need.scalar then .error detMtype
  else .ok (pa, l.mt)

/-- Whether bits 63:57 of an address are copies of bit 56 (R214). -/
def canonical (va : Nat) : Bool := decide (va < 2 ^ 64) && (va / 2 ^ 56 == 0 || va / 2 ^ 56 == 255)

/-- The entry for a page. -/
def Leaf.entry (l : Leaf) (c : CoreId) (ten : BitVec 8) : TlbEntry :=
  { cluster := clusterOf c, ten := ten, va := l.va, size := l.size, pa := l.pa, perms := l.perms, mt := l.mt }

/-- The page that an entry maps. -/
def TlbEntry.leaf (e : TlbEntry) : Leaf := { va := e.va, size := e.size, pa := e.pa, perms := e.perms, mt := e.mt }

/-- The entries for a page that the core's micro-TLB or its cluster's TLB holds (R217). -/
def State.tlbHeld (s : State) (c : CoreId) (ten : BitVec 8) (va : Nat) : List TlbEntry :=
  let hit := fun (e : TlbEntry) => e.ten == ten && e.va == va / e.size * e.size
  ((s.mem.utlb.filter fun e => e.1 == c && hit e.2).map Prod.snd
    ++ s.mem.tlb.filter fun e => e.cluster == clusterOf c && hit e).eraseDups

/-- The set of a cluster's TLB that an entry falls into: 512 sets of 8 ways (R217). -/
def TlbEntry.set (e : TlbEntry) : Nat := Config.tlbSet e.ten.toNat e.va e.size % 512

/-- Drops one of the elements that `p` selects where there are `n` or more; which one is free. -/
def dropOne {α : Type} [BEq α] (p : α → Bool) (n : Nat) (free : Nat) (l : List α) : List α :=
  let ms := l.filter p
  if ms.length < n then l
  else match ms[free % ms.length]? with
    | some v => l.erase v
    | none => l

/-- The micro-TLB of 64 entries and the cluster's TLB take a page that a walk without a fault has given (R217); what they give up for it is
free. -/
def State.tlbFill (s : State) (c : CoreId) (e : TlbEntry) : State :=
  let (f, s) := if s.mem.utlb.contains (c, e) && s.mem.tlb.contains e then (0, s) else s.freeNat
  let u := if s.mem.utlb.contains (c, e) then s.mem.utlb else (c, e) :: dropOne (fun x => x.1 == c) 64 f s.mem.utlb
  let t := if s.mem.tlb.contains e then s.mem.tlb
    else e :: dropOne (fun x => x.cluster == e.cluster && x.set == e.set) 8 f s.mem.tlb
  { s with mem := { s.mem with utlb := u, tlb := t } }

/-- Translates one address for a core of a tenancy (R215). A page that a TLB still holds from before its entry changed may be
used in place of the new one (R217, R218, R220; the choice is free, one for each access, log entry 19). -/
def State.translate (s : State) (a : Actor) (c : CoreId) (ten : BitVec 8) (need : Need) (va : Nat) :
    Except Nat (Nat × Nat) × State :=
  if s.physical then
    (if s.populated va then .ok (va, if isReg va then 1 else 0) else .error detNophys, s)
  else if !canonical va then (.error detCanon, s)
  else
    let t := s.tens.get ten.toFin
    if !t.on then (.error detNovalid, s)
    else
      let ord := s.ordered { a with cls := .core }
      let held := s.tlbHeld c ten va
      let (r, s) := s.walk c ord va 3 t.root
      let stale := held.filter fun e =>
        match r with
        | .ok l => e.leaf != l
        | .error _ => true
      let old := !stale.isEmpty && Config.staleUse a.stamp (if a.cls == .core then 0 else va / 65536)
      if old then
        let (n, s) := s.freeNat
        match stale[n % stale.length]? with
        | some e => (s.leafCheck e.leaf ten need va, s)
        | none => (.error detNovalid, s)
      else
        match r with
        | .error d => (.error d, s)
        | .ok l =>
          match s.leafCheck l ten need va with
          | .error d => (.error d, s)
          | .ok p => (.ok p, s.tlbFill c (l.entry c ten))

/-- A translation fault: its detail and the address at fault. -/
structure PageFault where
  det : Nat
  va : Nat
  deriving DecidableEq, Repr

/-- Translates the bytes from `va` on, one 64 KiB unit after another, `fuel` units at most: the physical addresses, or the
fault of the lowest page at fault (R215). -/
def State.translateUnits (s : State) (a : Actor) (c : CoreId) (ten : BitVec 8) (need : Need) :
    Nat → Nat → Nat → Except PageFault (List (Nat × Nat)) × State
  | 0, _, _ => (.ok [], s)
  | fuel + 1, va, n =>
    if n = 0 then (.ok [], s)
    else
      let m := min n (65536 - va % 65536)
      match s.translate a c ten need va with
      | (.error d, s) => (.error { det := d, va := va % 2 ^ 64 }, s)
      | (.ok (pa, mt), s) =>
        match s.translateUnits a c ten need fuel (va + m) (n - m) with
        | (.error f, s) => (.error f, s)
        | (.ok rest, s) => (.ok ((List.range m).map (fun i => (pa + i, mt)) ++ rest), s)

/-- Translates `n` bytes at `va`. -/
def State.translateBytes (s : State) (a : Actor) (c : CoreId) (ten : BitVec 8) (need : Need) (va n : Nat) :
    Except PageFault (List (Nat × Nat)) × State :=
  s.translateUnits a c ten need (n / 65536 + 2) va n

/-! ### The scratchpad (R13, R15, R231, R399) -/

/-- Whether an access of a core is ordered after a write to its scratchpad (R15, R85, R231): of a sequencer's own earlier instructions and
commands, of those that token edges order, and of commands whose tag was observed or whose push was popped. -/
def spadOrdered (a : Actor) (w : WriteRec) : Bool :=
  (a.who == w.who && decide (w.stamp ≤ a.stamp))
  || (match w.who with
      | some x => w.cls == .core && a.know.before.any fun b => b.1 == x && decide (w.stamp ≤ b.2)
      | none => false)
  || a.know.seen.contains w.stamp || a.know.done.contains w.stamp

/-- One byte of a core's scratchpad as a reader gets it (R231): 0 in a poisoned sector (R399). -/
def Core.spadByte (c : Core) (a : Actor) (free : Nat) (adr : Nat) : Byte × Nat :=
  if c.spadBad.contains (adr / 32) then (0, free)
  else
    let rs := c.spadHist.filter fun w => w.addr == adr
    let (n, free) := pickPlace (spadOrdered a) free rs
    ((placeValue rs (cellsGet c.spad adr, false) n).1, free)

/-- Bytes of a core's scratchpad. -/
def Core.spadRead (c : Core) (a : Actor) : Nat → List Nat → List Byte × Nat
  | free, [] => ([], free)
  | free, p :: ps =>
    let (v, free) := c.spadByte a free p
    let (rest, free) := c.spadRead a free ps
    (v :: rest, free)

/-- Writes bytes of a core's scratchpad, all of one instruction or command: a poisoned sector becomes good only when all its
bytes are written (R396, R399). -/
def Core.spadWrite (c : Core) (a : Actor) (ws : List (Nat × Byte)) : Core :=
  let bad := c.spadBad.filter fun k => !covers ws k
  let ws := ws.filter fun w => !bad.contains (w.1 / 32)
  let c := { c with spadBad := bad }
  ws.foldl (fun c w =>
    { c with
      spadHist := { addr := w.1, old := cellsGet c.spad w.1, cls := a.cls, who := a.who, stamp := a.stamp,
                    perf := c.spadHist.length } :: c.spadHist
      spad := cellsPut c.spad w.1 w.2 }) c

/-- A read has found poisoned sectors of a core's scratchpad: they are counted (R401), and R398 is still to look for a T0 replica. -/
def State.foundSpad (s : State) (c : CoreId) (secs : List Nat) : State :=
  secs.foldl (fun s k => { s.foundOnDie k with mem := { s.mem with foundSpad := (c, k) :: s.mem.foundSpad } }) s

/-- Reads `n` bytes of a core's scratchpad at `adr`; the second component says that a sector was poisoned. -/
def State.spadLoad (s : State) (c : CoreId) (a : Actor) (adr n : Nat) : List Byte × Bool × State :=
  let k := s.core c
  let pas := (List.range n).map fun i => adr + i
  let (bs, f) := k.spadRead a s.free pas
  let bad := (sectorsOf pas).filter k.spadBad.contains
  (bs, !bad.isEmpty, ({ s with free := f }).foundSpad c bad)

/-- Writes bytes of a core's scratchpad at `adr`. -/
def State.spadStore (s : State) (c : CoreId) (a : Actor) (adr : Nat) (bs : List Byte) : State :=
  s.modCore c fun k => k.spadWrite a ((List.range bs.length).map fun i => (adr + i, bs.getD i 0))

end Sys2Proof.Machine
end

