-- ==== Sys2Proof/Machine/Homes.lean ====
section
/-!
DEFINITION. What an access is ordered after, and an access at its page's home (11_consistency.md; 24_package.md, R430, R431): its pieces,
what the home does with a read, a write and an atomic, what it holds while the page moves, and how a piece answers its sequencer.
-/
namespace Sys2Proof.Machine

/-! ### What an access is ordered after (R85, R224, R238) -/

/-- The later of two stamps of each sequencer. -/
def mergeBefore (a b : List (Who × Nat)) : List (Who × Nat) :=
  b.foldl (fun acc e =>
    if acc.any fun x => x.1 == e.1 then acc.map fun x => if x.1 == e.1 then (x.1, max x.2 e.2) else x
    else acc ++ [e]) a

/-- The elements of two lists, each of the second once. -/
def mergeNew {α : Type} [BEq α] (a b : List α) : List α := a ++ b.filter fun x => !a.contains x

/-- What follows from two sources. -/
def Know.merge (a b : Know) : Know :=
  { before := mergeBefore a.before b.before
    seen := mergeNew a.seen b.seen
    reads := mergeNew a.reads b.reads
    viaTag := mergeBefore a.viaTag b.viaTag
    done := mergeNew a.done b.done
    after := mergeNew a.after b.after }

/-- What an access of sequencer `w` with stamp `n` hands on: all before it, and itself. -/
def Know.upTo (k : Know) (w : Who) (n : Nat) : Know := k.merge { Know.none with before := [(w, n)] }

/-- Whether what `w` issued with stamp `n` comes before. -/
def Know.covers (k : Know) (w : Who) (n : Nat) : Bool := k.before.any fun b => b.1 == w && decide (n ≤ b.2)

/-- Accesses of class `cls` come after these writes. -/
def Know.ofReads (cls : PathClass) (sp : List Span) : Know := { Know.none with reads := sp.map fun p => (cls, p) }

/-- Changes what a core's sequencers, tokens and pending pushes order. -/
def Core.mapKnow (c : Core) (f : Know → Know) : Core :=
  { c.modSeqs (fun _ v => { v with know := f v.know }) with
    tokens := c.tokens.map fun ts => ts.map f
    rising := c.rising.map fun r => (r.1, r.2.1, f r.2.2)
    flights := c.flights.map fun g => { g with push := g.push.map fun p => { p with know := f p.know } } }

/-- Whether a publication's instruction comes before an access of a party. -/
def Published.precedes (p : Published) (a : Actor) : Bool :=
  (a.who == some p.who && decide (p.stamp < a.stamp))
    || ((a.who.map Who.core) == some p.who.core && a.know.covers p.who p.stamp)

/-- A CORE access of a party arms the publications whose fence precedes it (R234 point 3), a release those whose PUBL does (R254). -/
def State.arm (s : State) (a : Actor) (access release : Bool) : State :=
  { s with mem := { s.mem with pubs := s.mem.pubs.map fun p =>
      if (if p.publ then release else access) && p.precedes a then { p with armed := true } else p } }

/-- A CORE access of a party that is no release. -/
def State.armPubs (s : State) (a : Actor) : State := s.arm a (a.cls == .core) false

/-- What a release by `w` makes visible beside the CORE writes before it (R238): the writes that its own fences made visible, and
those of its core's fences that come before it. -/
def State.releaseOf (s : State) (w : Who) : Rel :=
  let c := s.core w.core
  let k := (c.seq w.sq).know
  { core := some w.core
    spans := (c.madeVis.filter fun m => m.sq == w.sq || k.covers { core := w.core, sq := m.sq } m.stamp).map
      fun m => (some m.scope, m.span) }

/-- The CORE writes performed so far. -/
def State.coreSpan (s : State) : Span := { src := none, cls := .core, lo := 0, hi := s.stamp, perf := some s.mem.writes }

/-- A release as it is performed: it hands on the CORE writes that precede it (R238). -/
def State.releaseNow (s : State) (r : Rel) : Rel := { r with spans := (none, s.coreSpan) :: r.spans }

/-- The publication that the home forces (R239): what the releasing core made visible at a scope outside which the acquirer stands. -/
def Rel.forced (r : Rel) (w : Who) (stamp : Nat) : Option Published :=
  let ps := r.spans.filter fun p => p.1.any fun sc => r.core.any fun c => !inScope sc c w.core
  if ps.isEmpty then none
  else some { spans := ps.map Prod.snd, who := w, stamp := stamp, scope := .package, armed := true }

/-- An acquire by `w` with stamp `stamp` has synchronised with these releases (R238, R239): the later accesses of `w`, and those that
come after it through token edges, read what the releases handed on. -/
def State.acquire (s : State) (w : Who) (stamp : Nat) (rs : List Rel) : State :=
  if rs.isEmpty then s
  else
    let got := Know.ofReads .core (rs.flatMap fun r => r.spans.map Prod.snd).eraseDups
    let s := s.modCore w.core fun c =>
      (c.mapKnow fun k => if k.covers w stamp then k.merge got else k).modSeq w.sq fun v => { v with know := v.know.merge got }
    { s with mem := { s.mem with pubs := rs.filterMap (fun r => r.forced w stamp) ++ s.mem.pubs } }

/-! ### Atomics (R208, R226, R247 to R251) -/

/-- The format of AMO.FADD (R247). -/
def faddFmt (sz : Nat) : Fmt :=
  match sz with
  | 1 => bf16
  | 2 => fp32
  | _ => fp64

/-- The new value of a bank operation (R194, R247, R249, R251): `op` as in R247, 32 and 33 for PLNST.OR and PLNST.AND, 34 for the
maximum of an MDRAIN; and the flags. -/
def bankOp (op sz m x y : Nat) : Nat × BitVec 6 :=
  if op = 32 then (m ||| x, 0)
  else if op = 33 then (m &&& x, 0)
  else if op = 34 then (max m x, 0)
  else if op % 16 = 10 then (faddFmt sz).add 0 false m x
  else (amoInt (op % 16) (2 ^ sz) m x y, 0)

/-- Flags that a tenancy's ATOMFLAGS gathers (R250): NV, OF, UF and NX. -/
def State.raiseAtom (s : State) (ten : BitVec 8) (f : BitVec 6) : State :=
  let t := ten.toFin
  { s with atomflags := s.atomflags.set t.val ((s.atomflags.get t) ||| (f &&& 0x17#6).setWidth 32) t.isLt }

/-- An atomic at the bank of its line (R208, R248, R251), as one step (R226). -/
def State.bankStep (s : State) (a : Actor) (rel : Option Rel) (ten : BitVec 8) (op sz pa x y : Nat) : AtomicRead × State :=
  let (r, s) := s.atomicStep a rel pa (2 ^ sz) fun m => (bankOp op sz m x y).1
  (r, if r.bad then s else s.raiseAtom ten (bankOp op sz r.old x y).2)

/-! ### The home of a page (R430, R431) -/

/-- What the home of a page does with an access to it. -/
inductive Home where
  | here
  /-- A frame that a page is being copied to, or a direct access that must not pass a forwarded one (R430, R431). -/
  | wait
  /-- The page is being copied: the access is held (R430). -/
  | copying
  /-- A stub forwards it (R431). -/
  | stub (i : Nat)
  deriving DecidableEq, Repr

/-- The home's answer to an access of core `c`, or of a party outside the cores. -/
def State.homeOf (s : State) (c : Option CoreId) (pa : Nat) : Home :=
  let fromCore := fun (h : HeldAccess) => c.isSome && h.who.map Who.core == c
  let moving := match s.migration with
    | none => none
    | some m =>
      if m.src == pageOf pa && !m.copied then some Home.copying
      else if m.xp.isNone && m.dst == pageOf pa then some Home.wait else none
  match moving with
  | some h => h
  | none =>
    match s.stubs.findIdx? fun t => t.src == pageOf pa with
    | some i => .stub i
    | none => if s.stubs.any fun t => t.xp.isNone && t.dst == pageOf pa && t.held.any fromCore then .wait else .here

/-- The core that an access comes from. -/
def HeldAccess.core (h : HeldAccess) : Option CoreId := h.who.map Who.core

/-- Puts an access where its page's home holds it, in order of arrival. -/
def State.holdAt (s : State) (h : HeldAccess) : State :=
  match s.homeOf h.core h.pa with
  | .copying => { s with migration := s.migration.map fun m => { m with held := m.held ++ [h] } }
  | .stub i => s.stubHold i h
  | _ => { s with pending := s.pending ++ [h] }

/-- The party that makes an access. -/
def HeldAccess.actor (h : HeldAccess) : Actor := { who := h.who, cls := h.cls, stamp := h.stamp, know := h.know }

/-- Performs an access at its home: the bytes it gives back, each with whether it was poisoned. -/
def State.performHeld (s : State) (h : HeldAccess) : List (Byte × Bool) × State :=
  let a := h.actor
  let pas := h.bytes.map Prod.fst
  let s := s.arm a (h.cls == .core) h.rel.isSome
  let acquired := fun (rs : List Rel) (s : State) =>
    match h.who with
    | some w => if h.acq then s.acquire w h.stamp rs else s
    | none => s
  match h.kind with
  | 0 =>
    let (bs, s) := s.readCells (s.ordered a) pas
    (bs.map fun (b : ByteRead) => (b.byte, b.bad), acquired (bs.flatMap ByteRead.rels).eraseDups s)
  | 1 =>
    let s := s.writePas a { atomic := false, rel := h.rel.map s.releaseNow } (pas.zip h.data)
    ([], if h.bad then s.poisonPas a pas else s)
  | _ =>
    let x := ofBytes (h.data.take (2 ^ h.sz))
    let y := ofBytes ((h.data.drop 8).take (2 ^ h.sz))
    let (r, s) := s.bankStep a (h.rel.map s.releaseNow) h.ten h.op h.sz h.pa x y
    ((toBytes 8 r.old).map fun b => (b, r.bad), acquired r.rels s)

/-! ### Answers -/

/-- The value that bytes with their places form, sign-extended from `sx` bits where `sx` is not 0 (R242). -/
def valueOf (got : List (Nat × Byte)) (sx : Nat) : Nat :=
  let v := (got.map fun b => b.2.toNat * 256 ^ b.1).sum
  if sx = 0 then v else (BitVec.ofInt 64 (sextNat sx v)).toNat

/-- A result in flight takes bytes of its access; with the last piece its value is known, and it may land from the next cycle on. -/
def Flight.take (f : Flight) (got : List (Nat × Byte)) (now : Nat) : Flight :=
  let all := f.got ++ got
  if f.left ≤ 1 then
    { f with left := 0, got := [], value := BitVec.ofNat 4096 (valueOf all f.sext), notBefore := max f.notBefore (now + 1) }
  else { f with left := f.left - 1, got := all }

/-- A host read takes the bytes of a piece. -/
def State.hostTake (s : State) (id : Nat) (got : List (Nat × Byte × Bool)) : State :=
  match s.hostReads.find? fun r => r.id == id with
  | none => s
  | some r =>
    let all := r.got ++ got
    if r.left ≤ 1 then
      let bs := (List.range r.len).map fun i => ((all.find? fun b => b.1 == i).map Prod.snd).getD (0, false)
      ({ s with hostReads := s.hostReads.filter fun r => r.id != id }).emit (.hostData (bs.map Prod.fst) (bs.any Prod.snd))
    else { s with hostReads := s.hostReads.map fun r => if r.id == id then { r with left := r.left - 1, got := all } else r }

/-- A piece of a sequencer has been performed: a poisoned byte is recorded in DERR (R397), its bytes go to the result in flight, and the
piece is complete. -/
def State.replyTo (s : State) (w : Who) (h : HeldAccess) (places : List Nat) (bs : List (Byte × Bool)) : State :=
  let s := match bs.findIdx? Prod.snd with
    | some i => s.modCore w.core fun c =>
        c.derrRecord (if h.kind = 2 then 5 else 1) (h.va + if h.kind = 2 then 0 else places.getD i 0)
    | none => s
  if h.cls == .core then
    let got := places.zip (bs.map Prod.fst)
    (s.modCore w.core fun c =>
      { c with flights := c.flights.map fun f =>
          if f.ins == h.stamp && f.sq == w.sq && decide (0 < f.left) then f.take got s.cycle else f }).unpend .core w h.stamp
  else s

/-- An access has been performed: its bytes reach whoever made it (R431 point 1, R434 point 3). -/
def State.reply (s : State) (h : HeldAccess) (bs : List (Byte × Bool)) : State :=
  let places := if h.kind = 2 then List.range 8 else h.bytes.map Prod.snd
  match h.far, h.peer with
  | some k, _ => { s with farKept := s.farKept ++ (places.zip bs).map fun p => (k, p.1, p.2) }
  | none, some _ => { s with answers := s.answers ++ [(h, bs)] }
  | none, none =>
    let s := h.parts.foldl (fun s p => s.unpend .core p.1 p.2) s
    match h.who with
    | some w => s.replyTo w h places bs
    | none => if h.kind = 0 then s.hostTake h.stamp (places.zip bs) else s

/-! ### Pieces (R225, R230) -/

/-- An access cut into pieces, one for each value that `key` has on its addresses. -/
def HeldAccess.splitBy (h : HeldAccess) (key : Nat → Nat) : List HeldAccess :=
  if h.kind = 2 then [h]
  else
    ((h.bytes.map fun b => key b.1).eraseDups).map fun g =>
      let mine := h.bytes.zipIdx.filter fun b => key b.1.1 == g
      { h with bytes := mine.map Prod.fst, data := if h.kind = 1 then mine.map fun b => h.data.getD b.2 0 else h.data }

/-- The pieces of an access: one for each aligned 8-byte granule that it touches; an atomic is one. -/
def HeldAccess.split (h : HeldAccess) : List HeldAccess := h.splitBy fun pa => pa / 8

/-- Whether the pieces of a write that cover a sector are performed as one: where the sector is not simply good, so that it stays poisoned
until the last of them (R396), and where the page is not at its home (log entry 24). -/
def State.wholeSector (s : State) (h : HeldAccess) (sec : Nat) : Bool :=
  h.kind == 1 && covers (h.bytes.map fun b => (b.1, (0 : Byte))) sec
    && (s.mem.marks.any (fun m => m.1 == sec) || s.homeOf h.core (sec * 32) != .here)

/-- The pieces of an access as it is made. -/
def State.splitOf (s : State) (h : HeldAccess) : List HeldAccess :=
  h.splitBy fun pa => if s.wholeSector h (pa / 32) then pa / 32 * 4 else pa / 8

/-- Whether `g`, which arrived earlier on the same host port, is performed before `h` (R230). -/
def HeldAccess.leads (g h : HeldAccess) : Bool :=
  g.port.isSome && g.port == h.port && g.kind == 1 && (h.kind == 1 || h.bytes.any fun b => g.bytes.any fun d => d.1 == b.1)

/-- The accesses that homes hold or stubs have sent on. -/
def State.heldAway (s : State) : List HeldAccess :=
  (s.migration.map Migration.held).getD [] ++ s.stubs.flatMap fun t => t.held ++ t.flying

/-- Performs a piece, or hands it to the home that holds it; it stays where it must wait. -/
def State.performNow (s : State) (h : HeldAccess) : State :=
  if s.heldAway.any fun g => g.leads h then s
  else
    match s.homeOf h.core h.pa with
    | .wait => s
    | .here =>
      let (bs, s) := ({ s with pending := s.pending.erase h }).performHeld h
      s.reply h bs
    | _ => ({ s with pending := s.pending.erase h }).holdAt h

/-- Performs a piece that is on its way, after those that it must not pass. -/
def State.performPend (s : State) (h : HeldAccess) : State :=
  (((s.pending.takeWhile (· != h)).filter fun g => g.leads h) ++ [h]).foldl State.performNow s

/-- Sends a piece on its way. -/
def State.sendPiece (s : State) (h : HeldAccess) : State :=
  let note := fun (w : Who) => s.modCore w.core fun (c : Core) =>
    { c with pend := c.pend ++ [({ cls := .core, sq := w.sq, id := h.stamp } : Pend)] }
  let s := if h.cls == PathClass.core then h.who.elim s note else s
  s.holdAt h

/-- Makes an access. One that stands in a single granule at its home is performed at once, any other piece by piece: in any order, and
accesses of other parties may fall between (R225). A core's CORE access first flushes the merged AMOs of its lines (R427 point 4). -/
def State.access (s : State) (h : HeldAccess) : State :=
  let s := if h.cls == .core then h.core.elim s fun c => s.flushLines c (h.bytes.map Prod.fst) else s
  match s.splitOf h with
  | [p] =>
    if s.homeOf p.core p.pa == .here && !(s.pending ++ s.heldAway).any (fun g => g.leads p) then
      let (bs, s) := s.performHeld p
      s.reply p bs
    else s.sendPiece p
  | ps => ps.foldl State.sendPiece s

/-! ### What must be performed first (R224, R233, R428) -/

/-- Whether an access that is on its way comes before one of party `a`: issue order and token edges on the CORE path, issue order on a
core's MAT path. A merged AMO comes before a later access of its contributor that is a release or a fence (`rel`), and before those
that token edges order after it. -/
def HeldAccess.before (h : HeldAccess) (a : Actor) (rel : Bool) : Bool :=
  let edge := fun (w : Who) (n : Nat) => a.who != some w && a.know.covers w n
  h.far.isNone && h.cls == a.cls &&
    match a.cls with
    | .core =>
      (match h.who with
        | some w => (a.who == some w && decide (h.stamp < a.stamp)) || edge w h.stamp
        | none => h.parts.any fun p => (rel && a.who == some p.1) || edge p.1 p.2)
    | .mat => a.who.isSome && h.core == a.who.map Who.core && decide (h.stamp < a.stamp)
    | _ => false

/-- Performs the pieces on their way that come before an access of party `a`. -/
def State.settle (s : State) (a : Actor) (rel : Bool) : State := (s.pending.filter fun h => h.before a rel).foldl State.performPend s

/-- A command, matrix write or access of a core that is not complete (R222). -/
def Core.incomplete (c : Core) (n : Nat) : Bool :=
  (c.cmds.any fun k => k.id == n) || (c.matWrites.any fun m => m.id == n) || c.pend.any fun p => p.id == n

/-- Whether an access of party `a` has still to wait: for a piece that comes before it, or for what a fence of its core waits for
(R234 point 2). -/
def State.blocked (s : State) (a : Actor) (rel : Bool) : Bool :=
  (s.unperformed.any fun h => h.before a rel)
    || a.know.after.any fun p => p.1 == a.cls && a.who.any fun w => (s.core w.core).incomplete p.2

/-- Whether an atomic that a sequencer issued has not been performed (R228, R250): on its way, held, or still to be sent from a combining
buffer. -/
def State.amoOut (s : State) (w : Who) : Bool :=
  (s.unperformed.any fun h => h.kind == 2 && h.cls == .core && (h.who == some w || h.parts.any fun p => p.1 == w))
    || s.combine.toList.any fun es => es.any fun e => e.parts.any fun p => p.1 == w

/-! ### Bytes of pages in another package (R434; log entry 38) -/

/-- Reads of the bytes that a step has missed are sent to the package that holds them, but for those already asked for. -/
def State.askFar (s : State) (k : Asker) (missing : List Nat) : State :=
  let asked := fun (pa : Nat) => s.unperformed.any fun h => h.far == some k && h.bytes.any fun b => b.2 == pa
  let new := (missing.reverse.eraseDups).filter fun pa => !asked pa
  (pieces (new.map fun pa => (pa, pa))).foldl (fun s p =>
    s.sendAway { Actor.host.held (s.awayTen p.1) 0 (p.2.map fun pa => (pa, pa)) [] with far := some k }) s

/-- Whether the bytes for which a step asks have not all come. -/
def State.asking (s : State) (k : Asker) : Bool := s.unperformed.any fun h => h.far == some k

/-- Makes a step with the bytes that have come for it from other packages. Where it needs others they are sent for, and the step is made
again when they have come: then the error is the state in which it waits. -/
def State.withFar (s : State) (k : Asker) (step : State → State) : Except State State :=
  if s.asking k then .error s
  else
    let here := (s.farKept.filter fun b => b.1 == k).map Prod.snd
    let t := step { s with mem := { s.mem with far := here, missing := [] } }
    if t.mem.missing.isEmpty then
      .ok { t with farKept := t.farKept.filter (fun b => b.1 != k), mem := { t.mem with far := s.mem.far, missing := s.mem.missing } }
    else .error (s.askFar k t.mem.missing)

end Sys2Proof.Machine
end

