-- ==== Sys2Proof/Machine/Ops.lean ====
section
/-!
DEFINITION. The operations that instructions share: token queues, results in flight, blocks and the pc, taking a trap, and
issuing an instruction with its checks and waits in the order of R481, R83, R84 and R125.
-/
namespace Sys2Proof.Machine

/-! ### Token queues (R82 to R86) -/

/-- The queue that WF pops (R82). -/
def popF : Sq → Fin 8
  | .X => 3
  | .L => 0
  | .C => 1
  | .S => 2

/-- The queue that WB pops (R82). -/
def popB : Sq → Fin 8
  | .X => 4
  | .L => 5
  | .C => 6
  | .S => 7

/-- The queue that SF pushes (R82). -/
def pushF : Sq → Fin 8
  | .X => 0
  | .L => 1
  | .C => 2
  | .S => 3

/-- The queue that SB pushes (R82). -/
def pushB : Sq → Fin 8
  | .X => 7
  | .L => 4
  | .C => 5
  | .S => 6

/-- Whether a pending push of sequencer `q` goes to queue `i`. -/
def pushesTo (q : Sq) (f b : Bool) (i : Fin 8) : Bool := (f && pushF q == i) || (b && pushB q == i)

/-- The same for a push that an instruction may carry. -/
def Push.goesTo (p : Option Push) (q : Sq) (i : Fin 8) : Bool :=
  match p with
  | none => false
  | some p => pushesTo q p.f p.b i

/-- The pushes pending on a queue (R84). -/
def Core.pendingPushes (c : Core) (i : Fin 8) : Nat :=
  (c.flights.filter fun f => Push.goesTo f.push f.sq i).length
    + (c.cmds.filter fun k => Push.goesTo k.push k.sq i).length
    + (c.matWrites.filter fun k => Push.goesTo k.push .C i).length
    + (c.snap.filter fun e => pushesTo e.sq e.pushF e.pushB i).length
    + (c.rising.filter fun r => r.1 == i).length

/-- The count of a queue. -/
def Core.tokenCount (c : Core) (i : Fin 8) : Nat := (c.tokens.get i).length

/-- The token conditions of R83 and R84 for an instruction of `q`. -/
def Core.tokensReady (c : Core) (q : Sq) (x : Ctl) : Bool :=
  (!x.wf || decide (1 ≤ c.tokenCount (popF q))) && (!x.wb || decide (1 ≤ c.tokenCount (popB q)))
    && (!x.sf || decide (c.tokenCount (pushF q) + c.pendingPushes (pushF q) ≤ 62))
    && (!x.sb || decide (c.tokenCount (pushB q) + c.pendingPushes (pushB q) ≤ 62))

/-- Takes the oldest token of a queue and what it orders (R83, R85). -/
def Core.popToken (c : Core) (q : Sq) (i : Fin 8) : Core :=
  match c.tokens.get i with
  | [] => c
  | t :: ts => ({ c with tokens := c.tokens.set i.val ts i.isLt }).modSeq q fun v => { v with know := v.know.merge t }

/-- The pops of an instruction (R83). -/
def Core.popTokens (c : Core) (q : Sq) (x : Ctl) : Core :=
  let c := if x.wf then c.popToken q (popF q) else c
  if x.wb then c.popToken q (popB q) else c

/-- Pushes that complete in the current cycle: the counts rise at its end (R84). -/
def Core.completePush (c : Core) (q : Sq) (f b : Bool) (cycle : Nat) (k : Know) : Core :=
  { c with rising := c.rising ++ (if f then [(pushF q, cycle, k)] else []) ++ (if b then [(pushB q, cycle, k)] else []) }

/-! ### Results in flight (R25 to R30) -/

/-- The bound b of a latency code; none is "interlocked" (R25). -/
def latBound (code : Nat) : Option Nat :=
  match code with
  | 0 => some 1
  | 1 => some 2
  | 2 => some 3
  | 3 => some 4
  | 4 => some 6
  | 5 => some 8
  | 6 => some 12
  | _ => none

/-- What an instruction that is issuing knows of itself. -/
structure Cx where
  who : Who
  own : Word
  next : Word
  /-- The innermost active block is an exposed one (R31), or the tape entry was recorded in one (R353). -/
  exposed : Bool
  replay : Bool
  x : Ctl
  minLat : Nat
  /-- The instruction's number in issue order. -/
  stamp : Nat
  /-- The state before its tokens were popped, to which a wait returns. -/
  s0 : State

/-- The sequencer's accesses on the CORE path (R221). -/
def Cx.actor (cx : Cx) (s : State) : Actor :=
  { who := some cx.who, cls := .core, stamp := cx.stamp, know := (s.seq cx.who).know }

/-- An access of the sequencer: `kind` 0 reads, 1 writes, 2 is an atomic; `bytes` are physical addresses with their places, `va` the address
of place 0. -/
def Cx.access (cx : Cx) (s : State) (kind va : Nat) (bytes : List (Nat × Nat)) (data : List Byte) : HeldAccess :=
  { (cx.actor s).held (s.tenOf cx.who.core) kind bytes data with va := va }

/-- A result: destination, value, byte enables and flags. -/
structure Result where
  dest : Dest
  value : Row
  en : Mask
  flags : BitVec 6

/-- A result for a general register. -/
def Result.g (r : Reg) (v : Word) : Result :=
  { dest := if r = 0 then .none else .g r, value := v.setWidth 4096, en := BitVec.allOnes 512, flags := 0 }

/-- A result for a predicate. -/
def Result.p (r : PReg) (v : Bool) : Result :=
  { dest := if r = 0 then .none else .p r, value := if v then 1 else 0, en := BitVec.allOnes 512, flags := 0 }

/-- The push of an instruction, if it has one, with what it orders (R85). -/
def Cx.push (cx : Cx) (s : State) : Option Push :=
  if cx.x.sf || cx.x.sb then
    some { f := cx.x.sf, b := cx.x.sb, know := (s.seq cx.who).know.upTo cx.who cx.stamp }
  else none

/-- Sends the results of an instruction into flight (R27, R29). The bound follows its minimum code: a minimum of 7 has none. Every
reader waits for a result without a bound, and for one that LAT = 7 was given in an exposed block. The first carries the push,
which completes with the last landing (R84). -/
def State.fly (s : State) (cx : Cx) (notBefore : Nat) (matrix : Bool) (rs : List Result) : State :=
  let push := cx.push s
  let mk := fun (i : Nat) (r : Result) =>
    ({ id := cx.stamp * 256 + i, ins := cx.stamp, sq := cx.who.sq, dest := r.dest, value := r.value, en := r.en,
       flags := r.flags, issued := s.cycle, bound := latBound cx.minLat, waits := (cx.x.lat == 7 && cx.exposed) || cx.minLat == 7,
       notBefore := notBefore, push := if i = 0 then push else none, matrix := matrix } : Flight)
  s.modCore cx.who.core fun c =>
    { c with flights := c.flights ++ rs.zipIdx.map fun r => mk r.2 r.1 }

/-- The result of the instruction, just sent into flight, waits for `n` pieces of its access, and is then sign-extended from `sx` bits where
`sx` is not 0. -/
def State.awaiting (s : State) (cx : Cx) (n sx : Nat) : State :=
  s.modCore cx.who.core fun c =>
    { c with flights := c.flights.map fun f => if f.ins == cx.stamp then { f with left := n, sext := sx } else f }

/-- Writes a landed value (R10, R157). -/
def Core.writeDest (c : Core) (q : Sq) (d : Dest) (v : Row) (en : Mask) : Core :=
  match d with
  | .none => c
  | .g r => c.modSeq q fun k => k.setG r (v.setWidth 64)
  | .p r => c.modSeq q fun k => k.setP r (v.getLsbD 0)
  | .row n => { c.setRow n v en with
      accBad := c.accBad.filter fun x =>
        !(x / 16 == n.val && (List.range 32).all fun i => en.getLsbD (x % 16 * 32 + i)) }
  | .mask m => { c with m := c.m.set m.val (v.setWidth 512) m.isLt }

/-- ORs flags into a sequencer's FPSTAT (R11, R134). -/
def Core.raiseFlags (c : Core) (q : Sq) (f : BitVec 6) : Core :=
  if f = 0 then c else c.modSeq q fun k => { k with fpstat := k.fpstat ||| f.setWidth 32 }

/-- Whether destination `d` of sequencer `q` is destination `e` of sequencer `r`. -/
def Dest.same (d : Dest) (q : Sq) (e : Dest) (r : Sq) : Bool :=
  d == e && (match d with | .g _ => q == r | .p _ => q == r | .none => false | _ => true)

/-- Whether two results in flight have the same destination. -/
def Flight.sameDest (f g : Flight) : Bool := g.dest.same g.sq f.dest f.sq

/-- A result in flight that has lost the bytes `en` of its destination (R30), but not its flags or its push. -/
def Flight.without (g : Flight) (en : Mask) : Flight :=
  if g.en &&& ~~~en = 0 then { g with dest := .none } else { g with en := g.en &&& ~~~en }

/-- A result of an earlier instruction after `f` has landed: it loses the bytes that `f` wrote (R30). -/
def Flight.yield (f g : Flight) : Flight := if f.sameDest g && decide (g.ins < f.ins) then g.without f.en else g

/-- The same for an entry of the snapshot buffer, when bytes `en` of destination `d` of sequencer `q` have landed (R30, R370). -/
def SnapEntry.yield (d : Dest) (q : Sq) (en : Mask) (e : SnapEntry) : SnapEntry :=
  if e.dest.same e.sq d q then
    let left := e.en &&& ~~~en
    if left = 0 then { e with dest := .none } else { e with en := left }
  else e

/-- Lands a result in the current cycle: its value and, with the instruction's last result, its flags (R134) and its push (R84); an MLOAD is
then complete (R198).
Results of earlier instructions to the same destination lose their values (R30), those in the snapshot buffer too, but not to a
handler's results, which RTE undoes (R387). -/
def Core.landFlight (c : Core) (cycle : Nat) (f : Flight) : Core :=
  let c := if c.inTrap then c else
    { c with snap := c.snap.map fun e => if e.ins < f.ins then e.yield f.dest f.sq f.en else e }
  let rest := (c.flights.filter fun g => g.id != f.id).map f.yield
  match rest.find? fun g => g.ins == f.ins with
  | some h =>
    let c := { c with flights := rest.map fun (g : Flight) =>
      if g.id == h.id then { g with push := f.push.or g.push, flags := g.flags ||| f.flags } else g }
    c.writeDest f.sq f.dest f.value f.en
  | none =>
    let c := ({ c with flights := rest, pend := c.pend.erase { cls := .mat, sq := f.sq, id := f.ins } }).writeDest f.sq f.dest f.value f.en
    let c := c.raiseFlags f.sq f.flags
    match f.push with
    | some p => c.completePush f.sq p.f p.b cycle p.know
    | none => c

/-- The snapshot entries that readers and R12 count as results in flight: none in trap mode, in which they cannot land (R374, log
entry 75). -/
def Core.heldBack (c : Core) : List SnapEntry := if c.inTrap then [] else c.snap

/-- Whether a reader of general register `r` on `q` has to wait for a result in flight (R29); `all` in code that runs
interlocked. -/
def Core.gBusy (c : Core) (q : Sq) (all : Bool) (r : Reg) : Bool :=
  (c.flights.any fun f => f.sq == q && f.dest == .g r && (all || f.waits))
    || (c.heldBack.any fun e => e.sq == q && e.dest == .g r && (all || e.waits))

/-- The same for a predicate. -/
def Core.pBusy (c : Core) (q : Sq) (all : Bool) (r : PReg) : Bool :=
  (c.flights.any fun f => f.sq == q && f.dest == .p r && (all || f.waits))
    || (c.heldBack.any fun e => e.sq == q && e.dest == .p r && (all || e.waits))

/-- The same for an accumulator row or a mask. -/
def Core.destBusy (c : Core) (all : Bool) (d : Dest) : Bool :=
  (c.flights.any fun f => f.dest == d && (all || f.waits)) || (c.heldBack.any fun e => e.dest == d && (all || e.waits))

/-! ### Traps (R366 to R375) -/

/-- The trap causes of R366. -/
inductive Cause where
  | illegal | handle | spaddr | bankclash | ntmiss | page | gang | gangtime | engine | tokdead | barwave | wlist | replay | soft
  deriving DecidableEq, Repr

/-- The code of a cause (R366). -/
def Cause.code : Cause → Nat
  | .illegal => 1
  | .handle => 2
  | .spaddr => 3
  | .bankclash => 4
  | .ntmiss => 5
  | .page => 6
  | .gang => 7
  | .gangtime => 8
  | .engine => 9
  | .tokdead => 10
  | .barwave => 11
  | .wlist => 12
  | .replay => 13
  | .soft => 14

/-- RPSTAT.CAUSE of a cause that a replay entry can meet (R360). -/
def Cause.replayCode : Cause → Nat
  | .illegal => 1
  | .handle => 2
  | .spaddr => 3
  | .bankclash => 4
  | .ntmiss => 5
  | .page => 6
  | .gang => 7
  | .gangtime => 8
  | .engine => 9
  | .tokdead => 10
  | _ => 1

/-- A trap with its detail and address. -/
structure Trap where
  cause : Cause
  det : Nat
  va : Nat
  deriving DecidableEq, Repr

/-- ILLEGAL. -/
def Trap.illegal : Trap := { cause := .illegal, det := 0, va := 0 }

/-- PAGE with the detail and address of a translation fault. -/
def Trap.page (f : PageFault) : Trap := { cause := .page, det := f.det, va := f.va }

/-- SPADDR at an effective address (R366): the low 64 bits of the exact sum. -/
def Trap.spaddr (ea : Nat) : Trap := { cause := .spaddr, det := 0, va := ea % 2 ^ 64 }

/-- The completion status codes of R417 that the cores give. -/
def statusFault : Nat := 6
/-- DOUBLEFAULT. -/
def statusDouble : Nat := 7
/-- RESET. -/
def statusReset : Nat := 8
/-- CTXLOST. -/
def statusCtxlost : Nat := 9

/-- The entries of RPNEXT: the next entry of the L, C and S replay streams (R342). -/
def Core.rpNext (c : Core) (q : Sq) : Nat :=
  match q with
  | .X => 0
  | .L => fld c.rpnext 19 0
  | .C => fld c.rpnext 39 20
  | .S => fld c.rpnext 59 40

/-- Sets a field of RPNEXT. -/
def Core.setRpNext (c : Core) (q : Sq) (n : Nat) : Core :=
  let l := c.rpNext .L
  let k := c.rpNext .C
  let t := c.rpNext .S
  let v :=
    match q with
    | .X => l + k * 2 ^ 20 + t * 2 ^ 40
    | .L => n % 2 ^ 20 + k * 2 ^ 20 + t * 2 ^ 40
    | .C => l + (n % 2 ^ 20) * 2 ^ 20 + t * 2 ^ 40
    | .S => l + k * 2 ^ 20 + (n % 2 ^ 20) * 2 ^ 40
  { c with rpnext := BitVec.ofNat 64 v }

/-- Abandons a recording with a status (R349). -/
def State.abandon (s : State) (c : CoreId) (status : Nat) : State :=
  let k := s.core c
  if k.tapePhase == .recording then
    match k.iter with
    | some { tape := some t, .. } =>
      let s := s.emptyTape c t status
      s.modCore c fun k => { k with tapePhase := .abandoned status }
    | _ => s
  else s

/-- Ends the iteration of a core without trap mode or after a double fault (R374, R375): its sequencers have ended, results in
flight are dropped (log entry 21), and its launch completes with `status`. -/
def State.endIteration (s : State) (c : CoreId) (status : Nat) (cause : BitVec 32) (va : Word) : State :=
  let s := s.abandon c 8
  let s := s.modCore c fun k =>
    { (k.modSeqs fun _ v => { v with ended := true, blocks := [], since := none, wait := .none, hold := [] }) with
      flights := [], pend := k.pend.filter fun p => p.cls != .mat, snap := [], stop := none, rising := [], hLate := [], barWaiting := false, gang := none,
      replayFault := false, tapePhase := if k.tapePhase == .replaying then .aborted else k.tapePhase,
      trapcause := k.trapcause &&& 0x7FFFFFFF }
  match (s.core c).iter with
  | none => s
  | some it => s.modLaunch it.launch fun l => if l.ending.isNone then { l with ending := some (status, cause, va) } else l

/-- Latches a replay fault (R359, R360): the entry has no effect, and X will take REPLAY. -/
def State.replayFaultOf (s : State) (w : Who) (t : Trap) : State :=
  s.modCore w.core fun k =>
    if k.replayFault then k
    else
      let tid := match k.iter with
        | some { tape := some t, .. } => t.val
        | _ => 0
      let det := if t.cause == .page then t.det else 0
      { k with
        replayFault := true
        rpstat := BitVec.ofNat 64 (det * 2 ^ 40 + t.cause.replayCode * 2 ^ 32 + 2 ^ 31 + sqIndex w.sq * 2 ^ 28
          + tid * 2 ^ 24 + k.rpNext w.sq) }

/-- TAKING A TRAP. Sequencer `w` raises `t` in the current cycle (R366 to R368, R375): outside trap mode the core begins to stop;
in trap mode it is a double fault; a replay entry takes a replay fault. Where a sequencer lower in ring order has already
raised a trap in this cycle, that one is taken (R367). Trap mode itself is entered by TRAP_MODE_ENTRY, which saves the pc of
every sequencer and starts the handler (R374). -/
def State.raise (s : State) (w : Who) (t : Trap) : State :=
  let k := s.core w.core
  if k.replayIssue.isSome then s.replayFaultOf w t
  else if k.inTrap then s.endIteration w.core statusDouble k.trapcause k.trapva
  else if k.stop.isSome then s
  else
    let s := s.abandon w.core 8
    let s := s.flushCore w.core
    s.modCore w.core fun k =>
      { k with stop := some { sq := w.sq, cause := BitVec.ofNat 8 t.cause.code, det := BitVec.ofNat 4 t.det
                              va := BitVec.ofNat 64 t.va, cycle := s.cycle } }

/-! ### Blocks and the pc (R17 to R24, R91) -/

/-- The end-of-iteration tests of R20 at `pc`, from the innermost block outward: the pc, the blocks and the counts after them,
and the depths whose counts were tested. -/
def cascade (pc : Word) : List Block → Vector (BitVec 32) 3 → Word × List Block × Vector (BitVec 32) 3 × List Nat
  | [], lc => (pc, [], lc, [])
  | b :: bs, lc =>
    if pc = b.stop then
      let d := bs.length
      if h : d < 3 then
        if (lc.get ⟨d, h⟩).toNat ≤ 1 then
          let (pc, rest, lc, ds) := cascade pc bs (lc.set d 0 h)
          (pc, rest, lc, d :: ds)
        else (b.start, b :: bs, lc.set d (lc.get ⟨d, h⟩ - 1) h, [d])
      else (pc, bs, lc, [])
    else (pc, b :: bs, lc, [])

/-- Whether an address lies in a block's body. -/
def Block.holds (b : Block) (a : Word) : Bool := decide (b.start.toNat ≤ a.toNat) && decide (a.toNat < b.stop.toNat)

/-- The stream's end test (R91): X's stream does not end while it waits at a barrier (log entry 22), nor a handler in trap
mode. When X ends before TAPEB the other sequencers are released (R345); a recording that X leaves open is abandoned (R363). -/
def State.endTest (s : State) (w : Who) : State :=
  let k := s.core w.core
  let v := k.seq w.sq
  if v.blocks.isEmpty && v.pc == v.entry + BitVec.ofNat 64 (2 * v.extent) && !k.inTrap && !(w.sq == .X && k.barWaiting)
      && !v.ended then
    let s := s.modSeq w fun v => { v with ended := true, since := none, wait := .none }
    if w.sq == .X then
      let s := s.modCore w.core fun k => if k.tapePhase == .held then { k with tapePhase := .free } else k
      s.abandon w.core 8
    else s
  else s

/-- How control leaves an instruction. -/
inductive Flow where
  /-- To the instruction after it. -/
  | next
  /-- A taken branch to an address. -/
  | jump (t : Word)
  /-- Sequential execution has reached this address (BLK, BRK, LCUT). -/
  | reach (t : Word)
  /-- The instruction has set the pc itself. -/
  | set
  deriving DecidableEq, Repr

/-- Moves the pc of a sequencer (R19, R20, R91). -/
def State.movePc (s : State) (cx : Cx) (f : Flow) : State × List Nat :=
  match f with
  | .set => (s, [])
  | .jump t => (s.modSeq cx.who fun v => { v with pc := t }, [])
  | .next =>
    let v := s.seq cx.who
    let (pc, bs, lc, ds) := cascade cx.next v.blocks v.lc
    (s.modSeq cx.who fun v => { v with pc := pc, blocks := bs, lc := lc }, ds)
  | .reach t =>
    let v := s.seq cx.who
    let (pc, bs, lc, ds) := cascade t v.blocks v.lc
    (s.modSeq cx.who fun v => { v with pc := pc, blocks := bs, lc := lc }, ds)

/-! ### Fetch (R16, R229) -/

/-- What a fetch of a sequencer gives for bytes: the values, whether one was poisoned, or the page fault. -/
inductive Fetched where
  | bytes (bs : List Byte) (poisoned : Bool)
  | fault (f : PageFault)
  deriving DecidableEq, Repr

/-- The bytes at `va` as instruction fetch and LDC read them: any value that they held since the sequencer last discarded what
it had fetched ahead (R229; the choice is free). The pilot core's come from its boot ROM (R477 step 1). -/
def State.fetchBytes (s : State) (w : Who) (va n : Nat) : Fetched × State :=
  let v := s.seq w
  let a : Actor := { who := some w, cls := .core, stamp := s.stamp, know := v.know }
  if s.physical then (.bytes ((List.range n).map fun i => Config.bootRom.getD (va + i) 0) false, s)
  else
  match s.translateBytes a w.core (s.tenOf w.core) Need.fetch va n with
  | (.error f, s) => (.fault f, s)
  | (.ok pas, s) =>
    let ord := fun r => s.ordered a r && decide (r.perf < v.discard)
    let (bs, s) := s.coreRead w.core ord (pas.map Prod.fst)
    (.bytes (bs.map Prod.fst) (bs.any Prod.snd), s)

/-- The loop buffer's bytes of a sequencer for an address: those of the outermost active block that repeats, when the address lies in
its body (R24). -/
def Seq.buffer (v : Seq) (va : Nat) : Option (List Host.Cell) :=
  match v.blocks.find? fun b => b.buf.isSome with
  | some b => if b.holds (BitVec.ofNat 64 va) then b.buf else none
  | none => none

/-- Keeps bytes in the loop buffer. -/
def Seq.fillBuffer (v : Seq) (cs : List Host.Cell) : Seq :=
  { v with blocks := v.blocks.map fun b => { b with buf := b.buf.map fun old => old ++ cs } }

/-- Bytes at `va` as fetch and LDC take them: from the loop buffer where it holds them all, otherwise fetched; a poisoned sector gives
zeros and is recorded (R24, R229, R397). -/
def State.codeBytes (s : State) (w : Who) (va n : Nat) : Except PageFault (List Byte) × State :=
  let buf := (s.seq w).buffer va
  let kept := fun (i : Nat) => (buf.getD []).find? fun c => c.1 == va + i
  if buf.isSome && (List.range n).all fun i => (kept i).isSome then
    (.ok ((List.range n).map fun i => ((kept i).map Prod.snd).getD 0), s)
  else
    match s.fetchBytes w va n with
    | (.fault f, s) => (.error f, s)
    | (.bytes bs poisoned, s) =>
      let s := if poisoned then s.modCore w.core fun k => k.derrRecord 4 va else s
      let cs := (List.range n).filterMap fun i => (bs[i]?).map fun b => (va + i, b)
      (.ok bs, if buf.isSome then s.modSeq w fun v => v.fillBuffer cs else s)

/-- Fetches into the loop buffer the parcels at the addresses `vas` that it does not hold; those that cannot be fetched are left. -/
def State.fetchRest (s : State) (w : Who) (buf : List Host.Cell) : List Nat → State
  | [] => s
  | va :: vas =>
    if buf.any fun c => c.1 == va then s.fetchRest w buf vas
    else
      match s.fetchBytes w va 2 with
      | (.bytes [b0, b1] false, s) => (s.modSeq w fun v => v.fillBuffer [(va, b0), (va + 1, b1)]).fetchRest w buf vas
      | (_, s) => s.fetchRest w buf vas

/-- The block whose body the loop buffer holds begins another iteration at its start: from now on its body is not fetched again, so
what the first iteration passed over is fetched (R24). -/
def State.fillLoop (s : State) (w : Who) : State :=
  let v := s.seq w
  match v.blocks.find? fun b => b.buf.isSome with
  | some b =>
    let n := (b.stop.toNat - b.start.toNat) / 2
    let buf := b.buf.getD []
    if v.pc == b.start && decide (buf.length < 2 * n) then
      s.fetchRest w buf ((List.range n).map fun i => b.start.toNat + 2 * i)
    else s
  | none => s

/-- Whether an address is that of a mask word (R17): the parcel pair before it is an instruction with S = 1 of the program. -/
def State.isMaskWord (s : State) (w : Who) (t : Word) : Bool :=
  let p := t - 4
  match (s.fetchBytes w p.toNat 1).1 with
  | .bytes [b] _ => b.toNat % 4 == 3 && ((s.seq w).maskAt.contains t.toNat || Config.textStart p.toNat)
  | _ => false

/-- Whether a taken branch to `t` is allowed (R17, R23); `leaves` is false for CALL and CALLR, which may leave the body. -/
def State.branchOk (s : State) (cx : Cx) (t : Word) (stays : Bool) : Bool :=
  let inBody :=
    match (s.seq cx.who).blocks with
    | [] => true
    | b :: _ => !stays || !b.holds cx.own || b.holds t
  inBody && !s.isMaskWord cx.who t

/-! ### Recording (R347 to R349) -/

/-- How an instruction of L, C or S is treated while a tape records (R347). -/
inductive TapeUse where
  | command
  /-- Executed; a marker entry if it carries a token bit or S = 1. -/
  | quiet
  /-- The recording is abandoned as UNRECORDABLE. -/
  | abandon
  deriving DecidableEq, Repr

/-- How the classes of the destinations follow from those of the sources (R348). -/
inductive ClassUse where
  /-- CLEAN when every source is CLEAN, VARYING otherwise. -/
  | std
  /-- The additions and moves that keep a patch. -/
  | add
  /-- The subtractions that keep a patch of the minuend. -/
  | sub
  | varying
  | clean
  | patch (i : Fin 32)
  /-- The class of LCd. -/
  | ofLc (d : Nat)
  deriving DecidableEq, Repr

/-- What the shared issue needs to know of an instruction. -/
structure Spec where
  x : Ctl := Ctl.plain
  /-- Its length in bytes is 2 (a 16-bit form). -/
  short : Bool := false
  minLat : Nat := 0
  issuers : List Sq := ring
  /-- General registers read, in the order d, a, b, d+1, a+1, b+1 (R350). -/
  gsrc : List Reg := []
  psrc : List PReg := []
  /-- Accumulator rows and masks read. -/
  wide : Core → List Dest := fun _ => []
  /-- Accumulator rows written by an instruction outside the matrix family (R186 point 1). -/
  wdst : Core → List Dest := fun _ => []
  gdst : List Reg := []
  pdst : List PReg := []
  /-- ILLEGAL conditions on the encoding, the issuer and the trap mode alone (R481). -/
  illegal : Cx → State → Bool := fun _ _ => false
  /-- Waits of R125 beyond tokens and operands. -/
  waits : Cx → State → Bool := fun _ _ => false
  tape : TapeUse := .quiet
  cls : ClassUse := .std
  /-- The classes of the global accesses that it makes, or on which it waits: those that come before are performed first (R224, R233). -/
  acc : List PathClass := []
  /-- The sectors of on-die arrays that it reads and that are poisoned (R399). -/
  onDie : Cx → State → List Nat := fun _ _ => []
  /-- It is a release or a fence of CORE accesses, before which merged AMOs of its sequencer are performed (R427 point 2, R428). -/
  rel : Bool := false
  /-- Registers, predicates and counts that decide control flow: a class other than CLEAN abandons a recording (R349). -/
  gflow : List Reg := []
  pflow : List PReg := []
  lflow : List Nat := []
  enc : Option Enc := none

/-- The class of a general register: g0 is CLEAN (R348). -/
def Seq.gclass (v : Seq) (r : Reg) : RegClass := if r = 0 then .clean else v.gcls.get r

/-- The class of a loop count. -/
def Seq.lcclass (v : Seq) (d : Nat) : RegClass := v.lccls.toList.getD d .clean

/-- Sets the class of a general register; `val` is the value for a patch's offset. -/
def Seq.setGclass (v : Seq) (r : Reg) (c : RegClass) : Seq :=
  if r = 0 then v else { v with gcls := v.gcls.set r.val c r.isLt }

/-- Sets the class of a predicate: true is CLEAN. -/
def Seq.setPclass (v : Seq) (r : PReg) (c : Bool) : Seq :=
  if r = 0 then v else { v with pcls := v.pcls.set r.val c r.isLt }

/-- Sets the class of a loop count. -/
def Seq.setLcclass (v : Seq) (d : Nat) (c : RegClass) : Seq :=
  if h : d < 3 then { v with lccls := v.lccls.set d c h } else v

/-- The offset of a patched register (R348). -/
def classOffset : RegClass → Word
  | .patch _ d => d
  | _ => 0

/-- The class of an instruction's destinations (R348). -/
def Seq.classOf (v : Seq) (sp : Spec) : RegClass :=
  let cs := sp.gsrc.map v.gclass
  let ps := sp.psrc.all fun p => p = 0 || v.pcls.get p
  let allClean := cs.all (· == .clean) && ps
  match sp.cls with
  | .std => if allClean then .clean else .varying
  | .varying => .varying
  | .clean => .clean
  | .patch i => .patch i 0
  | .ofLc d => v.lcclass d
  | .add | .sub =>
    if allClean then .clean
    else
      match cs with
      | [.patch i d] => .patch i d
      | [.patch i d, .clean] => .patch i d
      | [.clean, .patch i d] => if sp.cls == .add then .patch i d else .varying
      | _ => .varying

/-- Whether an instruction has general-register operands that are VARYING. -/
def Seq.varyingOperand (v : Seq) (sp : Spec) : Bool := sp.gsrc.any fun r => v.gclass r == .varying

/-- The size in bytes of a tape's sections so far, without its code ranges (R350). -/
def Tape.bytes (t : Tape) : Nat :=
  (256 + 16 * t.ranges.length + 24 * t.guards.length + 4 * t.patches.length + 7) / 8 * 8
    + (t.entries.map fun e => 8 + 8 * e.ops.length).sum

/-- The tape memory of a core (R344). -/
def tapeMemory : Nat := 131072

/-- The bytes that the tapes of a core occupy. -/
def Core.tapeUse (c : Core) : Nat := (c.tapes.toList.map fun t => if t.st == .empty then 0 else t.bytes).sum

/-- Appends an entry to the tape being recorded, or abandons the recording as FULL (R349, R350). -/
def State.appendEntry (s : State) (c : CoreId) (t : Fin 16) (e : TapeEntry) (ps : List PatchRec) : State :=
  let k := s.core c
  let tp := k.tapes.get t
  let tp' := { tp with entries := tp.entries ++ [e], patches := tp.patches ++ ps }
  if k.tapeUse - tp.bytes + tp'.bytes > tapeMemory ∨ tp'.patches.length > 4095 ∨ tp'.entries.length > 2 ^ 20 - 1 then
    s.abandon c 5
  else s.modCore c fun k => { k with tapes := k.tapes.set t.val tp' t.isLt }

/-- The instruction's 32-bit word. -/
def Spec.word (sp : Spec) : BitVec 32 :=
  match sp.enc with
  | some (.word w _) => BitVec.ofNat 32 w
  | _ => 0

/-- A line from which L, C or S took code while a tape records (R350): the recording keeps its virtual number, and the physical line
that holds it is one of the tape's code from now on, so that a write to it abandons the recording (R344, R349, R351). -/
def State.usedLine (s : State) (w : Who) (line : Nat) : State :=
  let k := s.core w.core
  match k.tapePhase, k.iter with
  | .recording, some { tape := some t, .. } =>
    if w.sq == .X || k.tapeLines.contains line then s
    else
      let a : Actor := { who := some w, cls := .core, stamp := s.stamp, know := (k.seq w.sq).know }
      let home := match (s.translate a w.core (s.tenOf w.core) Need.fetch (line * 256)).1 with
        | .ok (pa, _) => s.placeOf pa
        | .error _ => none
      let s := s.modCore w.core fun k => { k with tapeLines := k.tapeLines ++ [line] }
      match home with
      | some pa => { s with codeLines := (pa / 256, w.core, t) :: s.codeLines }
      | none => s
  | _, _ => s

/-- What recording does with an instruction that issues, from the state before its effect (R347 to R349). -/
def State.record (s : State) (cx : Cx) (sp : Spec) : State :=
  let k := s.core cx.who.core
  let v := k.seq cx.who.sq
  match k.tapePhase, k.iter with
  | .recording, some { tape := some t, .. } =>
    if cx.who.sq == .X then s
    else
      let lines := (List.range (cx.next - cx.own).toNat).map fun i => (cx.own.toNat + i) / 256
      let s := lines.eraseDups.foldl (fun s l => s.usedLine cx.who l) s
      let flow := sp.gflow.any (fun r => v.gclass r != .clean) || sp.pflow.any (fun p => p != 0 && !v.pcls.get p)
        || sp.lflow.any (fun d => v.lcclass d != .clean)
      if sp.tape == .abandon then s.abandon cx.who.core 4
      else if flow || (sp.tape == .command && v.varyingOperand sp) then s.abandon cx.who.core 3
      else
        let mask := match sp.x.safe with
          | some m => [m.setWidth 64]
          | none => []
        let marker := sp.x.wf || sp.x.sf || sp.x.wb || sp.x.sb || sp.x.safe.isSome
        let n := (k.tapes.get t).entries.length
        if sp.tape == .command then
          let ops := sp.gsrc.map fun r => match v.gclass r with
            | .patch _ d => d
            | _ => v.rg r
          let ps := (List.range sp.gsrc.length).filterMap fun i => match (sp.gsrc[i]?).map v.gclass with
            | some (.patch j _) => some ({ entry := n, pos := i, pv := j } : PatchRec)
            | _ => none
          s.appendEntry cx.who.core t
            { w := sp.word, stream := cx.who.sq, marker := false, interlocked := !cx.exposed, ops := ops ++ mask } ps
        else if marker then
          s.appendEntry cx.who.core t
            { w := sp.word, stream := cx.who.sq, marker := true, interlocked := !cx.exposed, ops := mask } []
        else s
  | _, _ => s

/-- Updates the classes of the destinations of an instruction (R348): a patch keeps its offset to the value written. -/
def State.classify (s : State) (cx : Cx) (sp : Spec) (old : Seq) : State :=
  let k := s.core cx.who.core
  if k.tapePhase == .recording && cx.who.sq != .X then
    let c := old.classOf sp
    let fix := fun (r : Reg) =>
      match c with
      | .patch i _ =>
        match k.flights.find? fun f => f.ins == cx.stamp && f.dest == .g r with
        | some f => RegClass.patch i (f.value.setWidth 64 - k.pv.get i)
        | none => c
      | _ => c
    s.modSeq cx.who fun v =>
      let v := sp.gdst.foldl (fun v r => v.setGclass r (fix r)) v
      sp.pdst.foldl (fun v p => v.setPclass p (c == .clean)) v
  else s

/-! ### Issue -/

/-- What an instruction's meaning does once it issues. -/
inductive Act where
  /-- It has its effect; `pushed` says that its push waits for a later completion. -/
  | done (s : State) (f : Flow) (pushed : Bool)
  /-- It still waits: the state with the wait begun. -/
  | stall (s : State)
  | trap (t : Trap)
  /-- A trap found by a walk or a read, in the state that this left: its counts and marks of poisoned sectors stand, and the merged AMOs that
  it flushed are sent. -/
  | fault (s : State) (t : Trap)

/-- The outcome of every step of the device that is not stopped. -/
abbrev Out := Host.Outcome State Fault Refusal

/-- The bytes of the instruction. -/
def Spec.bytes (sp : Spec) : Nat := if sp.short then 2 else if sp.x.safe.isSome then 8 else 4

/-- The context of the instruction that the sequencer whose turn it is issues. -/
def State.context (s : State) (sp : Spec) : Cx :=
  let w := s.turn
  let k := s.core w.core
  let v := k.seq w.sq
  let exposed :=
    match k.replayIssue with
    | some (_, e) => e
    | none => match v.blocks with
      | [] => false
      | b :: _ => !b.interlocked
  { who := w, own := v.pc, next := v.pc + BitVec.ofNat 64 sp.bytes, exposed := exposed, replay := k.replayIssue.isSome
    x := sp.x, minLat := sp.minLat, stamp := s.stamp, s0 := s }

/-- Whether the instruction's parcels or mask word leave the innermost body that they begin in (R23 point 1). -/
def Seq.crosses (v : Seq) (own : Word) (n : Nat) : Bool :=
  match v.blocks with
  | [] => false
  | b :: _ => b.holds own && decide (b.stop.toNat < own.toNat + n)

/-- The ILLEGAL conditions that come before every wait (R481). -/
def State.early (s : State) (cx : Cx) (sp : Spec) : Bool :=
  let k := s.core cx.who.core
  let v := k.seq cx.who.sq
  !sp.issuers.contains cx.who.sq
    || (!cx.replay && cx.exposed && decide (sp.x.lat.toNat < sp.minLat) && !sp.short)
    || (!cx.replay && v.crosses cx.own sp.bytes)
    || (k.inTrap && (sp.x.wf || sp.x.sf || sp.x.wb || sp.x.sb || sp.x.safe.isSome))
    || sp.illegal cx s

/-- Whether a result in flight holds the instruction: one of its operands (R29, R353), or a matrix result to a row that it
writes (R186). -/
def State.operandBusy (s : State) (cx : Cx) (sp : Spec) : Bool :=
  let k := s.core cx.who.core
  let all := cx.replay || !cx.exposed
  (!cx.replay && sp.gsrc.any fun r => k.gBusy cx.who.sq all r) || (!cx.replay && sp.psrc.any fun p => k.pBusy cx.who.sq all p)
    || ((sp.wide k).any fun d => k.destBusy all d)
    || (sp.wdst k).any fun d => k.flights.any fun f => f.matrix && f.dest == d

/-- Marks that the sequencer waits, for tokens or for something else, since its first attempt (R87, R391). -/
def State.waiting (s : State) (w : Who) (k : Wait) : State :=
  s.modSeq w fun v => { v with wait := k, since := match v.since with | none => some s.cycle | some n => some n }

/-- The number of the first entry of stream `q` from entry `n` on; the entry count when there is none (R353). -/
def Tape.nextOf (t : Tape) (q : Sq) (n : Nat) : Nat :=
  match (List.range t.entries.length).find? fun i => decide (n ≤ i) && (t.entries[i]?).any fun e => e.stream == q with
  | some i => i
  | none => t.entries.length

/-- A replay stream has issued its entry: it goes on to the next one, or has ended (R353, R354). -/
def State.advanceReplay (s : State) (cx : Cx) (sp : Spec) : State :=
  s.modCore cx.who.core fun k =>
    match k.replayTape with
    | none => k
    | some t =>
      let n := t.nextOf cx.who.sq (k.rpNext cx.who.sq + 1)
      (k.setRpNext cx.who.sq n).modSeq cx.who.sq fun v =>
        { v with since := none, wait := .none, lastSafe := sp.x.safe, know := v.know.upTo cx.who cx.stamp
                 ended := decide (t.entries.length ≤ n) }

/-- The tape entry that a replay stream is to issue. -/
def Core.replayEntry (c : Core) (q : Sq) : Option TapeEntry := c.replayTape.bind fun t => t.entries[c.rpNext q]?

/-- Gives the instruction of a tape entry its operands (R353 point 2): as stored, or PV[i] + δ. -/
def State.loadOperands (s : State) (sp : Spec) : State :=
  let k := s.core s.turn.core
  let n := k.rpNext s.turn.sq
  match k.replayTape, k.replayEntry s.turn.sq with
  | some t, some e =>
    if e.marker then s
    else
      s.modSeq s.turn fun v =>
        (List.range sp.gsrc.length).foldl (fun v i =>
          match sp.gsrc[i]?, e.ops[i]? with
          | some r, some w =>
            match t.patches.find? fun p => p.entry == n && p.pos == i with
            | some p => v.setG r (k.pv.get p.pv + w)
            | none => v.setG r w
          | _, _ => v) v
  | _, _ => s

/-- What follows every instruction that has issued: its push if nothing completes it later, its place on a tape, the pc, and
the end of its stream. -/
def State.conclude (s : State) (cx : Cx) (sp : Spec) (f : Flow) (pushed : Bool) : State :=
  let old := cx.s0.seq cx.who
  let anyPush := sp.x.sf || sp.x.sb
  let s := if anyPush then (s.flushCore cx.who.core).arm (cx.actor s) false true else s
  let s := if anyPush && !pushed then
      s.modCore cx.who.core fun c =>
        c.completePush cx.who.sq sp.x.sf sp.x.sb s.cycle ((c.seq cx.who.sq).know.upTo cx.who cx.stamp)
    else s
  if cx.replay then s.advanceReplay cx sp
  else
    let s := s.classify cx sp old
    let s := s.modSeq cx.who fun v =>
      { v with since := none, wait := .none, lastSafe := sp.x.safe
               know := v.know.upTo cx.who cx.stamp
               maskAt := if sp.x.safe.isSome && !v.maskAt.contains (cx.own.toNat + 4) then
                   (cx.own.toNat + 4) :: v.maskAt else v.maskAt }
    let (s, ds) := s.movePc cx f
    let s := if ds.isEmpty then s else s.fillLoop cx.who
    let s := if (s.core cx.who.core).tapePhase == .recording && cx.who.sq != .X
        && ds.any (fun d => (s.seq cx.who).lcclass d != .clean) then s.abandon cx.who.core 3 else s
    s.endTest cx.who

/-- The instruction as a party that makes accesses of a class, its tokens popped. -/
def Cx.party (cx : Cx) (s : State) (cls : PathClass) : Actor :=
  { who := some cx.who, cls := cls, stamp := cx.stamp, know := (((s.core cx.who.core).popTokens cx.who.sq cx.x).seq cx.who.sq).know }

/-- What comes before the accesses of the instruction is performed: a release and a fence first flush what the core has in the
combining buffers (R427 point 2). -/
def State.settleFor (s : State) (cx : Cx) (sp : Spec) : State :=
  sp.acc.foldl (fun s q => s.settle (cx.party s q) sp.rel) (if sp.rel then s.flushCore cx.who.core else s)

/-- Whether an access that comes before those of the instruction is held at a page that moves, or a fence holds it. -/
def State.blockedFor (s : State) (cx : Cx) (sp : Spec) : Bool := sp.acc.any fun q => s.blocked (cx.party s q) sp.rel

/-- The state with the tokens that the instruction popped back in their queues, as they were in `s` (R33). -/
def State.unpopped (t s : State) (w : Who) : State :=
  { t.modCore w.core (fun c => { c with tokens := (s.core w.core).tokens }.modSeq w.sq fun v => { v with know := (s.seq w).know }) with
    stamp := s.stamp }

/-- ISSUING AN INSTRUCTION. The checks of R481; then the token conditions (R83, R84); then the other waits of R125, that for earlier
accesses among them; then the instruction's own meaning `body`, on the state in which its tokens have been popped; a trap has no effect
of the instruction (R33, R34). -/
def issueCode (sp : Spec) (body : Cx → State → Act) (s : State) : Out :=
  let cx := s.context sp
  let k := s.core cx.who.core
  if s.early cx sp then .next (s.raise cx.who Trap.illegal)
  else if !k.tokensReady cx.who.sq sp.x then .next (s.waiting cx.who .token)
  else if s.operandBusy cx sp || sp.waits cx s then .next (s.waiting cx.who .other)
  else
    let s := s.settleFor cx sp
    if s.blockedFor cx sp then .next (s.waiting cx.who .other)
    else
      let cx := { cx with s0 := s }
      let s := (sp.onDie cx s).foldl State.foundOnDie s
      let s1 := { s.modCore cx.who.core (fun c => c.popTokens cx.who.sq sp.x) with stamp := s.stamp + 1 }
      match body cx s1 with
      | .trap t => .next (s.raise cx.who t)
      | .fault s' t => .next ((s'.unpopped s cx.who).raise cx.who t)
      | .stall s' => .next (s'.waiting cx.who .other)
      | .done s2 f pushed =>
        let s2 := if cx.replay then s2 else s2.record cx sp
        .next (s2.conclude cx sp f pushed)

/-- Issuing an instruction, from code or as the entry of a tape: the registers of a replay stream keep their values (R354). -/
def issue (sp : Spec) (body : Cx → State → Act) (s : State) : Out :=
  match (s.core s.turn.core).replayIssue with
  | none => issueCode sp body s
  | some _ =>
    match issueCode sp body (s.loadOperands sp) with
    | .next t => .next (t.modSeq s.turn fun v => { v with g := (s.seq s.turn).g })
    | .fault f => .fault f
    | .refused r => .refused r

/-- Whether nothing holds a sequencer or replay stream in the current cycle: its stream runs, and no stop, barrier, fence,
or pre-emption holds it (R91, R108, R234, R368, R373, R377). -/
def Core.unheld (c : Core) (cycle : Nat) (q : Sq) : Bool :=
  let v := c.seq q
  let running := match c.iter with | none => false | some it => it.started
  let stopped := match c.stop with | none => false | some t => !(t.cycle == cycle && t.sq != q)
  let safe := c.preempt.isSome && v.lastSafe.isSome && !c.inTrap
  running && !v.ended && !stopped && (!c.inTrap || q == .X) && decide (c.resumeAt ≤ cycle) && !safe
    && !(q == .X && c.barWaiting && !c.inTrap) && decide (v.tried ≠ cycle + 1) && !v.hold.any c.incomplete

/-- Whether a sequencer may be offered an issue: L, C and S wait for TAPEB, and issue nothing while a tape replays (R345,
R355). -/
def Core.mayIssue (c : Core) (cycle : Nat) (q : Sq) : Bool :=
  c.unheld cycle q && (q == .X || !(c.tapePhase == .held || c.tapePhase == .replaying))

/-- Whether a replay stream may be offered an issue (R355, R359). -/
def Core.mayReplay (c : Core) (cycle : Nat) (q : Sq) : Bool :=
  c.unheld cycle q && q != .X && c.tapePhase == .replaying && !c.replayFault

/-- The common meaning: results computed from the state go into flight, and control falls through. -/
def Act.land (cx : Cx) (s : State) (rs : List Result) : Act := .done (s.fly cx 0 false rs) .next true

end Sys2Proof.Machine
end

