-- ==== Sys2Proof/Machine/Tags.lean ====
section
/-!
DEFINITION. Engine tags (14_engines.md): completing a command, and observing a tag.
-/
namespace Sys2Proof.Machine

/-- The status codes of R289. -/
def codeOk : Nat := 2
/-- CANCELLED. -/
def codeCancelled : Nat := 3
/-- PAGE. -/
def codePage : Nat := 4
/-- HANDLE. -/
def codeHandle : Nat := 5
/-- BOUNDS. -/
def codeBounds : Nat := 6
/-- SPADDR. -/
def codeSpaddr : Nat := 7
/-- POISON. -/
def codePoison : Nat := 8

/-- Whether a status byte holds an error code (R289). -/
def isError (b : BitVec 8) : Bool := decide (4 ≤ b.toNat % 16) && decide (b.toNat % 16 ≤ 8)

/-- Whether a tag is DONE (R290). -/
def Core.tagDone (c : Core) (t : BitVec 6) : Bool := c.tags.getLsbD t.toNat

/-- Whether a tag is PENDING (R289, R290). -/
def Core.tagPending (c : Core) (t : BitVec 6) : Bool := (c.tstat.get t.toFin).toNat % 16 == 1

/-- Sets the event latch of every sequencer (R391). -/
def Core.latchEvents (c : Core) : Core := c.modSeqs fun _ v => { v with eventLatch := true }

/-- Latches ENGERR and ENGERRVA for a tag's error (R291): the lower tag of one cycle is kept. -/
def Core.latchEngerr (c : Core) (cycle : Nat) (t : BitVec 6) (code det : Nat) (va : Word) : Core :=
  let valid := c.engerr.getLsbD 31
  if decide (4 ≤ code) && decide (code ≤ 8)
      && (!valid || (c.engerrAt == cycle && decide (t.toNat < c.engerr.toNat % 64))) then
    { c with engerr := BitVec.ofNat 32 (2 ^ 31 + (if code = codePage then det else 0) * 2 ^ 12 + code * 256 + t.toNat)
             engerrva := va, engerrAt := cycle }
  else c

/-- Completes an engine command (R290): its tag becomes DONE with its code and conversion flags, ENGERR is latched, every event
latch set and its push completed. Observing the tag orders the command's accesses and those that it comes after (R231, R233), and puts what
its sequencer issued up to it before a fence (R234); the push orders its scratchpad accesses (R85), and no other accesses of its class
(R233). `me` is the core's number. -/
def Core.completeCmd (c : Core) (me : CoreId) (cycle : Nat) (k : Cmd) (code : Nat) (flags : Nat) (det : Nat) (va : Word) : Core :=
  let t := k.tag.toFin
  let kn : Know := { (k.know.merge { Know.none with seen := [k.id] }) with
    before := [], after := []
    viaTag := mergeBefore (mergeBefore k.know.viaTag k.know.before) [({ core := me, sq := k.sq }, k.id)] }
  let c := { c with
    cmds := c.cmds.filter fun x => x.id != k.id
    tags := c.tags ||| (1#64 <<< t.val)
    tstat := c.tstat.set t.val (BitVec.ofNat 8 (flags * 16 + code)) t.isLt
    tagKnow := c.tagKnow.set t.val kn t.isLt }
  let c := c.latchEngerr cycle k.tag code det va
  let c := c.latchEvents
  match k.push with
  | none => c
  | some p => c.completePush k.sq p.f p.b cycle (p.know.merge { Know.none with done := [k.id] })

/-- Whether a scratchpad access of sequencer `q` must wait for a command that it issued before to the same bytes (R298). -/
def Core.cmdHolds (c : Core) (q : Sq) (adr n : Nat) : Bool :=
  c.cmds.any fun k => k.sq == q && k.spad.any fun p => decide (p.1 < adr + n) && decide (adr < p.1 + p.2)

/-- A sequencer observes tags (R222): what they order is ordered before its later accesses. -/
def Core.observeTags (c : Core) (q : Sq) (ts : List Nat) : Core :=
  ts.foldl (fun c t => c.modSeq q fun v => { v with know := v.know.merge (c.tagKnow.get (Fin.ofNat 64 t)) }) c

end Sys2Proof.Machine
end

