-- ==== Sys2Proof/Machine/Order.lean ====
section
/-!
DEFINITION. Release, acquire and fences (11_consistency.md, R253, R254): what an access is ordered after, and what is made
visible to whom.
-/
namespace Sys2Proof.Machine

/-- The accesses of class `cls` of core `c` that come before (R234): those of each sequencer up to a stamp, through issue order and token
edges, and through the tags that were observed. -/
def spansBefore (k : Know) (c : CoreId) (cls : PathClass) : List Span :=
  ((mergeBefore k.before k.viaTag).filter fun b => b.1.core == c).map fun b => { src := some b.1, cls := cls, lo := 0, hi := b.2 }

/-- The commands, matrix writes and accesses of a core that are not complete and belong to the set P of a fence for class `ca` (R234). -/
def Core.fenceSet (c : Core) (me : CoreId) (k : Know) (ca : PathClass) : List Nat :=
  let before := fun (q : Sq) (n : Nat) => (k.before ++ k.viaTag).any fun b => b.1 == { core := me, sq := q } && decide (n ≤ b.2)
  (((c.cmds.filter fun m => m.cls == ca && before m.sq m.id).map Cmd.id)
    ++ (if ca == .mat then (c.matWrites.filter fun m => before .C m.id).map MatWrite.id else [])
    ++ (c.pend.filter fun p => p.cls == ca && before p.sq p.id).map Pend.id).eraseDups

/-- The effect of FENCEX `ca`, `cb`, `sc` on what is ordered (R234, R236): accesses of class `cb` after it wait for those in P and read
the writes in P, and what the acquires of a sequencer gave its CORE accesses where `ca` is CORE (R238); the writes become visible at
`sc`. `ids` is what it waits for. -/
def State.fenceEdge (s : State) (w : Who) (stamp : Nat) (ca cb : PathClass) (sc : Scope) (ids : List Nat) : State :=
  let k := (s.seq w).know.upTo w stamp
  let p := spansBefore k w.core ca
  let got := (k.reads.filter fun r => r.1 == ca).map Prod.snd
  let s := s.modSeq w fun v =>
    { v with know := v.know.merge { Know.ofReads cb (p ++ got) with after := ids.map fun n => (cb, n) } }
  let vis := if ca == .core then [] else p.map fun x => ({ sq := w.sq, stamp := stamp, scope := sc, span := x } : MadeVis)
  let s := s.modCore w.core fun c => { c with madeVis := mergeNew c.madeVis vis }
  if (cb == .core && ca != .core) || sc == .pod then
    { s with mem := { s.mem with
        pubs := { spans := p, who := w, stamp := stamp, scope := sc, armed := false } :: s.mem.pubs } }
  else s

/-- The engine classes (R38). -/
def allClasses : List PathClass := [.core, .copy, .gath, .mat, .kvx, .bfill, .remote]

end Sys2Proof.Machine
end

