-- ==== Sys2Proof/Machine/Fec.lean ====
section
/-!
DEFINITION. The Reed–Solomon code RS(144,136) over GF(2^8) of a flit (R443, R444): its check symbols and the correction of up to four
symbols. As in R393, byte i of header and payload is the coefficient of degree i + 8 and FEC byte k that of degree k (log entry 81).
-/
namespace Sys2Proof.Machine

/-- The product of polynomials, listed from degree 0. -/
def polyMul : List Nat → List Nat → List Nat
  | [], _ => []
  | a :: as, b =>
    let low := b.map (gfMul a)
    let high := polyMul as b
    (List.range (max low.length (high.length + 1))).map fun i => low.getD i 0 ^^^ (if i = 0 then 0 else high.getD (i - 1) 0)

/-- The generator of degree `n`, with roots α^0 to α^(n-1). -/
def rsGenerator : Nat → List Nat
  | 0 => [1]
  | n + 1 => polyMul (rsGenerator n) [gfPow n, 1]

/-- The remainder of x^8 times a polynomial, listed from degree 0, modulo the generator `g` of degree 8. -/
def rsRem (g : List Nat) : List Nat → List Nat
  | [] => List.replicate 8 0
  | m :: ms =>
    let r := rsRem g ms
    let q := m ^^^ r.getD 7 0
    (List.range 8).map fun i => (if i = 0 then 0 else r.getD (i - 1) 0) ^^^ gfMul q (g.getD i 0)

/-- The eight FEC bytes of a flit's header and payload. -/
def fecBytes (bs : List Byte) : List Byte := (rsRem (rsGenerator 8) (bs.map BitVec.toNat)).map (BitVec.ofNat 8)

/-- The syndromes S_0 to S_7 of a received word, listed from degree 0. -/
def fecSyndromes (c : List Nat) : List Nat := (List.range 8).map fun k => gfEval (gfPow k) c

/-- `r` times the product of the first `n` squares of squares of `a`. -/
def gfSquares : Nat → Nat → Nat → Nat
  | 0, _, r => r
  | n + 1, a, r => gfSquares n (gfMul a a) (gfMul r (gfMul a a))

/-- The inverse of a nonzero element: its power of 254. -/
def gfInv (a : Nat) : Nat := gfSquares 7 a 1

/-- The search for the shortest linear recurrence of the syndromes (R444): the locator so far, the one before its last change of length,
its length, the steps since then, and the discrepancy then. -/
structure Locator where
  now : List Nat
  before : List Nat
  len : Nat
  gap : Nat
  disc : Nat
  deriving DecidableEq, Repr

/-- Takes syndrome `n` of `ss` into account. -/
def Locator.next (ss : List Nat) (l : Locator) (n : Nat) : Locator :=
  let d := ((List.range (l.len + 1)).map fun i => if n < i then 0 else gfMul (l.now.getD i 0) (ss.getD (n - i) 0)).foldl (· ^^^ ·) 0
  let moved := (List.replicate l.gap 0 ++ l.before).map (gfMul (gfMul d (gfInv l.disc)))
  let sum := (List.range (max l.now.length moved.length)).map fun i => l.now.getD i 0 ^^^ moved.getD i 0
  if d = 0 then { l with gap := l.gap + 1 }
  else if 2 * l.len ≤ n then { now := sum, before := l.now, len := n + 1 - l.len, gap := 1, disc := d }
  else { l with now := sum, gap := l.gap + 1 }

/-- The locator of the errors that the syndromes show. -/
def locate (ss : List Nat) : Locator := (List.range 8).foldl (Locator.next ss) { now := [1], before := [1], len := 0, gap := 1, disc := 1 }

/-- The size of the error at degree `j`, where the locator has a root. -/
def errorAt (ss loc : List Nat) (j : Nat) : Nat :=
  let y := gfPow ((255 - j) % 255)
  let eval := (polyMul ss loc).take 8
  let slope := gfEval (gfMul y y) ((List.range (loc.length / 2)).map fun i => loc.getD (2 * i + 1) 0)
  gfMul (gfMul (gfPow j) (gfEval y eval)) (gfInv slope)

/-- A flit of 144 bytes, header first, as its receiver takes it: the header and payload bytes and how many symbols were corrected; none
where it has more errors than the code corrects (R444). -/
def fecDecode (bs : List Byte) : Option (List Byte × Nat) :=
  let c := ((bs.drop 136) ++ bs.take 136).map BitVec.toNat
  let ss := fecSyndromes c
  if ss.all (· == 0) then some (bs.take 136, 0)
  else
    let l := locate ss
    let es := (List.range 144).filter fun j => gfEval (gfPow ((255 - j) % 255)) l.now == 0
    let c' := es.foldl (fun c j => c.set j (c.getD j 0 ^^^ errorAt ss l.now j)) c
    if l.len ≤ 4 ∧ es.length = l.len ∧ (fecSyndromes c').all (· == 0) then some ((c'.drop 8).map (BitVec.ofNat 8), l.len) else none

end Sys2Proof.Machine
end

