-- ==== Sys2Proof/Machine/Quayline.lean ====
section
/-!
DEFINITION. The sender's half of the Quayline fabric (25_optical.md, 27_lanes.md): numbering, the turn, acknowledgement and
retransmission of flits, and the states of lanes and slots.
-/
namespace Sys2Proof.Machine

/-! ### Packages of the pod (R435 to R438) -/

/-- This package's number. -/
def State.qlId (s : State) : Nat := s.fe.qlId.toNat % 64

/-- Whether a package is in the pod and not this one. -/
def State.isPeer (s : State) (p : Nat) : Bool := s.fe.qlPod.getLsbD p && decide (p ≠ s.qlId) && decide (p < 64)

/-- The pair with a peer. -/
def State.pair (s : State) (p : Nat) : Pair := s.pairs.get (Fin.ofNat 64 p)

/-- Changes the pair with a peer. -/
def State.modPair (s : State) (p : Nat) (f : Pair → Pair) : State :=
  let i := Fin.ofNat 64 p
  { s with pairs := s.pairs.set i.val (f (s.pairs.get i)) i.isLt }

/-- Changes a transmit lane. -/
def State.modTx (s : State) (i : Fin 256) (f : TxLane → TxLane) : State :=
  { s with tx := s.tx.set i.val (f (s.tx.get i)) i.isLt }

/-- Changes a receive slot. -/
def State.modRx (s : State) (i : Fin 256) (f : RxSlot → RxSlot) : State :=
  { s with rx := s.rx.set i.val (f (s.rx.get i)) i.isLt }

/-- The ACTIVE transmit lanes of the pair with a peer, ascending. -/
def State.activeLanes (s : State) (p : Nat) : List (Fin 256) :=
  (List.finRange 256).filter fun i => (s.tx.get i).st == .active && (s.tx.get i).peer == p

/-- The lane that takes the next assignment (R470): the lowest ACTIVE lane above the last one, else the lowest. -/
def State.nextLane (s : State) (p : Nat) : Option (Fin 256) :=
  let ls := s.activeLanes p
  match (s.pair p).lastLane with
  | none => ls.head?
  | some l => (ls.find? fun i => decide (l < i.val)).or ls.head?

/-! ### Flits (R443, R446) -/

/-- A flit's header (R443). -/
def flitHeader (seq ack src dst type len : Nat) : BitVec 64 :=
  BitVec.ofNat 64 (seq % 65536 * 2 ^ 48 + ack % 65536 * 2 ^ 32 + src % 64 * 2 ^ 26 + dst % 64 * 2 ^ 20 + type % 16 * 2 ^ 16
    + len % 256 * 256)

/-- The 144 bytes of a flit: header, payload and FEC (R443, R444). -/
def flitBytes (header : BitVec 64) (payload : BitVec 1024) : List Byte :=
  let bs := toBytes 8 header.toNat ++ toBytes 128 payload.toNat
  bs ++ fecBytes bs

/-- A received flit with its errors corrected: header, payload, and how many symbols were wrong; none beyond correction (R444). -/
def correctedFlit (f : Flit) : Option (BitVec 64 × BitVec 1024 × Nat) :=
  (fecDecode (toBytes 144 f.wire.toNat)).map fun r =>
    (BitVec.ofNat 64 (ofBytes (r.1.take 8)), BitVec.ofNat 1024 (ofBytes (r.1.drop 8)), r.2)

/-- The time that a flit takes on a lane: 1,152 bits at 112 Gb/s (R436, R447). -/
def flitTime : Nat := 9 * timeUnit / 875

/-- Sends a flit on a lane, after those that the lane still carries; it leaves with the current ACK (R446 point 6). -/
def State.transmit (s : State) (p : Nat) (l : Fin 256) (header : BitVec 64) (payload : BitVec 1024) : State :=
  let h := header + BitVec.ofNat 64 ((s.pair p).rxNext * 2 ^ 32)
  (s.modTx l fun v => { v with busy := max v.busy s.time + flitTime }).emit (.flit l.val (BitVec.ofNat 1152 (ofBytes (flitBytes h payload))))

/-- Assigns a numbered flit to a lane, and the turn advances (R446 point 2, R470). -/
def State.assignFlit (s : State) (p : Nat) (f : SentFlit) (l : Fin 256) : State :=
  (s.modPair p fun q =>
    { q with lastLane := some l.val
             unacked := q.unacked.map fun g => if g.seq = f.seq then { g with lane := some l.val, sent := s.time } else g }).transmit
    p l f.header f.payload

/-- Whether a transmit lane has nothing else to carry: it carries flits, and the last one assigned to it has gone (R445). -/
def State.laneIdle (s : State) (i : Fin 256) : Bool :=
  let l := s.tx.get i
  (l.st == .active || l.st == .draining) && decide (l.busy ≤ s.time)

/-- Every lane that has nothing else to carry sends IDLE (R445), with the current ACK (R446 point 6). -/
def State.sendIdle (s : State) : State :=
  ((List.finRange 256).filter s.laneIdle).foldl (fun s i =>
    let p := (s.tx.get i).peer
    s.transmit p i (flitHeader 0 0 s.qlId p 0 0) 0) s

/-- Numbers and assigns the flits of a pair that can leave (R446 points 1 to 3), in at most `n` steps. -/
def State.pump (s : State) (p : Nat) : Nat → State
  | 0 => s
  | n + 1 =>
    let q := s.pair p
    match q.unacked.find? fun f => f.lane.isNone with
    | some f =>
      match s.nextLane p with
      | none => s
      | some l => (s.assignFlit p f l).pump p n
    | none =>
      match q.waiting with
      | [] => s
      | (h, b) :: ws =>
        if q.unacked.length ≥ 1024 || (s.nextLane p).isNone then s
        else
          let f : SentFlit :=
            { seq := q.txNext, header := h + BitVec.ofNat 64 (q.txNext * 2 ^ 48), payload := b, lane := none, sent := s.time }
          (s.modPair p fun q =>
            { q with txNext := (q.txNext + 1) % 65536, waiting := ws, unacked := q.unacked ++ [f] }).pump p n

/-- Lets every flit of a pair leave that can. -/
def State.flushPair (s : State) (p : Nat) : State :=
  s.pump p (2 * (s.pair p).waiting.length + (s.pair p).unacked.length + 1)

/-- Sends a numbered flit to a peer: type, bytes of payload in use. -/
def State.sendFlit (s : State) (p type : Nat) (bs : List Byte) : State :=
  let h := flitHeader 0 0 s.qlId p type bs.length
  (s.modPair p fun q => { q with waiting := q.waiting ++ [(h, BitVec.ofNat 1024 (ofBytes bs))] }).flushPair p

/-- Takes an acknowledgement (R446): flits below it are done. -/
def State.ackFlits (s : State) (p ack : Nat) : State :=
  (s.modPair p fun q =>
    { q with unacked := q.unacked.filter fun f => !(decide (1 ≤ (ack + 65536 - f.seq) % 65536)
        && decide ((ack + 65536 - f.seq) % 65536 ≤ 1024)) }).flushPair p

/-- RETRANSMIT_TIMEOUT (R446 point 4): a flit not acknowledged within 4 µs is sent again on the next lane of the turn. -/
def execRetransmitTimeout (peer : Fin 64) (seq : Nat) (s : State) : Out :=
  match (s.pair peer.val).unacked.find? fun f => f.seq == seq with
  | none => .next s
  | some f =>
    if f.lane.isNone || !s.microsSince f.sent 4 then .next s
    else
      match s.nextLane peer.val with
      | none => .next s
      | some l => .next (s.assignFlit peer.val f l)

/-! ### Control flits (R445) -/

/-- Sends a CTRL flit: operation, plane, slot, tenancy, plane bitmap. -/
def State.sendCtrl (s : State) (p op plane slot : Nat) (ten : BitVec 8) (map : Nat) : State :=
  s.sendFlit p 8 ([BitVec.ofNat 8 op, BitVec.ofNat 8 plane, BitVec.ofNat 8 slot, ten] ++ toBytes 4 map)

/-- The planes of a bitmap, ascending. -/
def planesOf (m : Nat) : List Nat := (List.range 32).filter fun p => m / 2 ^ p % 2 == 1

/-- The bitmap of planes. -/
def planeMap (ps : List Nat) : Nat := (ps.map fun p => 2 ^ p).sum

/-! ### Transmit lanes (R440) -/

/-- A laser becomes FREE. -/
def State.freeTx (s : State) (i : Fin 256) : State := s.modTx i fun _ => TxLane.reset

/-- A lane becomes ACTIVE: flits that wait may leave (R470). -/
def State.activateTx (s : State) (i : Fin 256) : State :=
  (s.modTx i fun l => { l with st := .active, retrain := false, back := false }).flushPair (s.tx.get i).peer

/-- CASTOFF or REVOKE names a transmit lane (R440). -/
def State.dropTx (s : State) (i : Fin 256) : State :=
  match (s.tx.get i).st with
  | .active => s.modTx i fun l => { l with st := .draining, retrain := false }
  | .draining => s.modTx i fun l => { l with retrain := false }
  | .tuning | .retraining => s.freeTx i
  | _ => s

/-! ### Receive slots (R439 to R442) -/

/-- The slot that holds a package's lane on a plane. -/
def State.slotFrom (s : State) (p plane : Nat) : Option (Fin 256) :=
  ((List.range 8).map fun w => Fin.ofNat 256 (8 * plane + w)).find? fun i => (s.rx.get i).st != .free && (s.rx.get i).peer == p

/-- The transmit lane to a package on a plane. -/
def State.laneTo (s : State) (p plane : Nat) : Option (Fin 256) :=
  ((List.range 8).map fun w => Fin.ofNat 256 (8 * plane + w)).find? fun i => (s.tx.get i).st != .free && (s.tx.get i).peer == p

/-- A slot whose state begins anew; its counters stay until a reset (R439). -/
def RxSlot.anew (r : RxSlot) : RxSlot := { RxSlot.reset with retrains := r.retrains, ucf := r.ucf, csym := r.csym }

/-- Grants a free slot of a plane to a package (R441): the lowest-numbered one, TUNING from the grant. A pair that still holds a lane on the
plane gets no second one (R436). -/
def State.grantSlot (s : State) (p plane : Nat) (ten : BitVec 8) : Option State :=
  if (s.slotFrom p plane).isSome then none
  else
    match ((List.range 8).map fun w => Fin.ofNat 256 (8 * plane + w)).find? fun i => (s.rx.get i).st == .free with
    | none => none
    | some i =>
      let s := s.modRx i fun r => { r.anew with ten := ten, st := .tuning, peer := p, since := s.storeClk.toNat }
      some (s.sendCtrl p 2 plane (i.val % 8) ten 0)

/-- The earlier of two pending entries (R441, R442): by arrival, then the lower package, then the lower plane. -/
def PendingLane.first (a b : PendingLane) : PendingLane :=
  if b.arrival < a.arrival ∨ (b.arrival = a.arrival ∧ (b.peer < a.peer ∨ (b.peer = a.peer ∧ b.plane < a.plane))) then b else a

/-- The oldest of pending entries. -/
def oldestPending : List PendingLane → Option PendingLane
  | [] => none
  | e :: es => some (es.foldl PendingLane.first e)

/-- A receive slot becomes FREE and is granted to the oldest pending entry on its plane (R441) whose package holds no lane there (R436). -/
def State.freeRx (s : State) (i : Fin 256) : State :=
  let s := s.modRx i RxSlot.anew
  let plane := i.val / 8
  match oldestPending (s.pendingLanes.filter fun e => e.plane == plane && (s.slotFrom e.peer plane).isNone) with
  | none => s
  | some e =>
    match s.grantSlot e.peer plane e.ten with
    | none => s
    | some s => { s with pendingLanes := s.pendingLanes.filter fun x => x != e }

/-- A slot's lane is cast off or revoked (R440). -/
def State.dropRx (s : State) (i : Fin 256) (revoked : Bool) : State :=
  match (s.rx.get i).st with
  | .active => s.modRx i fun r => { r with st := .draining, retrain := false, revoked := revoked }
  | .draining => s.modRx i fun r => { r with retrain := false, revoked := r.revoked || revoked }
  | .tuning | .retraining => s.freeRx i
  | _ => s

/-- The package that the mooring at place `i` joins to this one, at the sending or the receiving end (R437): lane i = 8 plane + w serves the
distance plane + 32 w, w < 2. -/
def State.mooringAt (s : State) (i : Nat) (out : Bool) : Option Nat :=
  let me := s.qlId
  let d := i / 8 + 32 * (i % 8)
  let p := if out then (me + d) % 64 else (me + 64 - d) % 64
  if i % 8 < 2 ∧ d ≠ 0 ∧ d < 64 ∧ s.isPeer p then some p else none

/-- Tunes the moorings of the pod (R437): one that stands already is left as it is, one whose package is no longer there becomes FREE, and
every chartered lane stays unless a mooring takes its place (log entry 82). -/
def State.tuneMoorings (s : State) : State :=
  { s with
    tx := Vector.ofFn fun i =>
      let l := s.tx.get i
      match s.mooringAt i.val true with
      | some p => if l.moor && l.peer == p then l else { TxLane.reset with moor := true, st := .active, peer := p }
      | none => if l.moor then TxLane.reset else l
    rx := Vector.ofFn fun i =>
      let r := s.rx.get i
      match s.mooringAt i.val false with
      | some p => if r.moor && r.peer == p then r else { r.anew with moor := true, st := .active, peer := p }
      | none => if r.moor then r.anew else r }

end Sys2Proof.Machine
end

