-- ==== Sys2Proof/Machine/Store.lean ====
section
/-!
DEFINITION. The structures of the sealed prefix store (13_prefix_store.md) and the pod directory (26_pod_store.md, R460, R461): names,
index entries, frames, tiers, eviction, references and the drop of poisoned nodes.
-/
namespace Sys2Proof.Machine

/-! ### An instance (R262, R263) -/

/-- Token slots of a block. -/
def InstRec.slots (c : InstRec) : Nat := 4 * 2 ^ c.bt
/-- The head dimension D. -/
def InstRec.dim (c : InstRec) : Nat := 64 * 2 ^ c.d
/-- Header bytes H. -/
def InstRec.header (c : InstRec) : Nat := (320 + 136 * c.nl + 255) / 256 * 256
/-- Bytes of one layer SL. -/
def InstRec.layer (c : InstRec) : Nat := 2 * c.nh * c.slots * c.dim * 2
/-- Bytes of a node N. -/
def InstRec.size (c : InstRec) : Nat := c.header + c.nl * c.layer
/-- Entries of the index E. -/
def InstRec.entries (c : InstRec) : Nat := 2 ^ c.ixlog

/-- The offset of the K vector of layer `l`, head `h`, slot `t` in a frame (R265). -/
def InstRec.kAt (c : InstRec) (l h t : Nat) : Nat := c.header + l * c.layer + (h * c.slots + t) * 2 * c.dim
/-- The offset of its V vector. -/
def InstRec.vAt (c : InstRec) (l h t : Nat) : Nat := c.kAt l h t + c.nh * c.slots * 2 * c.dim
/-- The offset of FILL[l] (R264). -/
def InstRec.fillAt (_c : InstRec) (l : Nat) : Nat := 320 + 8 * l
/-- The offset of MULT[l][t]. -/
def InstRec.multAt (c : InstRec) (l t : Nat) : Nat := 320 + 8 * c.nl + 128 * l + 2 * t

/-- An instance. -/
def State.inst (s : State) (i : Nat) : Inst := s.insts.get (Fin.ofNat 8 i)

/-- Changes an instance. -/
def State.modInst (s : State) (i : Nat) (f : Inst → Inst) : State :=
  let k := Fin.ofNat 8 i
  { s with insts := s.insts.set k.val (f (s.insts.get k)) k.isLt }

/-- Adds to a counter of an instance (R283). -/
def State.countInst (s : State) (i k n : Nat) : State :=
  s.modInst i fun v => let j := Fin.ofNat 8 k; { v with cnt := v.cnt.set j.val (v.cnt.get j + BitVec.ofNat 64 n) j.isLt }

/-! ### Memory as the store engines see it -/

/-- The party that the index engine and the store engines are towards the index, the directory and the frames that they own: steps
are made one at a time, each after all writes before it (R271, R310). -/
def State.storeActor (s : State) : Actor :=
  { who := none, cls := .kvx, stamp := 0
    know := { Know.none with reads := allClasses.map fun q => (.kvx, { src := none, cls := q, lo := 0, hi := s.stamp }) } }

/-- A party whose steps on a frame are made in order with the other steps of the store engines and of the backfill engines
(R310). -/
def State.inOrder (s : State) (a : Actor) : Actor :=
  { a with know := { a.know with
      reads := [PathClass.kvx, .bfill].map (fun q => (a.cls, { src := none, cls := q, lo := 0, hi := s.stamp })) ++ a.know.reads } }

/-- The writes that came to `t` since `s` as the store engine's own are those of a command's party (R221, R234). -/
def State.signed (s t : State) (a : Actor) : State :=
  let own := fun (w : WriteRec) =>
    if w.who.isNone && w.cls == .kvx && decide (s.mem.writes ≤ w.perf) then { w with who := a.who, stamp := a.stamp } else w
  { t with mem := { t.mem with hist := t.mem.hist.map own } }

/-- Bytes as they stand, of the index and directory tables. -/
def State.peek (s : State) (pa n : Nat) : List Byte := (List.range n).map fun i => cellsGet s.mem.cells (pa + i)

/-- A number of `n` bytes as it stands. -/
def State.peekNat (s : State) (pa n : Nat) : Nat := ofBytes (s.peek pa n)

/-- Bytes at consecutive addresses. -/
def bytesAt (pa : Nat) (bs : List Byte) : List (Nat × Byte) := (List.range bs.length).map fun i => (pa + i, bs.getD i 0)

/-- Writes bytes as a store engine; `rel` is what the write hands on, as a release (R240). -/
def State.pokeWith (s : State) (rel : Option Rel) (pa : Nat) (bs : List Byte) : State :=
  s.writePas s.storeActor { atomic := false, rel := rel } (bytesAt pa bs)

/-- Writes bytes as a store engine. -/
def State.poke (s : State) (pa : Nat) (bs : List Byte) : State := s.pokeWith none pa bs

/-- Reads bytes of a frame for a party and what it acquired: the bytes, and whether a sector was poisoned. -/
def State.frameAs (s : State) (a : Actor) (sp : List Span) (pa n : Nat) : List Byte × Bool × State :=
  let (bs, s) := s.readPas (fun w => s.ordered a w || sp.any fun p => p.covers w) ((List.range n).map fun i => pa + i)
  (bs.map Prod.fst, bs.any Prod.snd, s)

/-- Reads bytes of a frame that a step changes: after the steps before it (R310). -/
def State.frameNow (s : State) (a : Actor) (pa n : Nat) : List Byte × Bool × State := s.frameAs (s.inOrder a) [] pa n

/-- Writes bytes of a frame in one step (R310) for a party. -/
def State.pokeAs (s : State) (a : Actor) (pa : Nat) (bs : List Byte) : State := s.writePas (s.inOrder a) .plain (bytesAt pa bs)

/-- What a party's accesses of a class come after, and its own writes (R233, R240, R321). -/
def Actor.past (a : Actor) (cls : PathClass) : List Span :=
  { src := a.who, cls := a.cls, lo := a.stamp, hi := a.stamp } :: (a.know.reads.filter fun r => r.1 == cls).map Prod.snd
    ++ a.know.seen.map fun n => { src := none, cls := cls, lo := n, hi := n }

/-- A release that hands on writes. -/
def Rel.ofSpans (a : Actor) (sp : List Span) : Rel := { core := a.who.map Who.core, spans := sp.map fun p => (none, p) }

/-- Writes a layer's FILL: a release of what the setter has ordered before it, towards the readers of the bits of `set` (R240, R321). -/
def State.writeFill (s : State) (a : Actor) (c : InstRec) (pa l set fill : Nat) : State :=
  s.writePas (s.inOrder a) (.release { Rel.ofSpans a (a.past .kvx) with fills := set }) (bytesAt (pa + c.fillAt l) (toBytes 8 fill))

/-- What the reader of a fill bit as set synchronises with: the writes that set it (R321). -/
def fillSpans (rs : List Rel) (slot : Nat) : List Span :=
  ((rs.filter fun r => r.fills / 2 ^ slot % 2 == 1).flatMap fun r => r.spans.map Prod.snd).eraseDups

/-- The byte of a layer's FILL that holds a slot's bit, as a party reads it: the byte, whether its sector is poisoned, and what the reader
synchronises with where the bit is set. -/
def State.fillByte (s : State) (a : Actor) (c : InstRec) (pa l slot : Nat) : Nat × Bool × List Span × State :=
  let (bs, s) := s.readCells (s.ordered a) [pa + c.fillAt l + slot / 8]
  match bs with
  | b :: _ => (b.byte.toNat, b.bad, fillSpans b.rels slot, s)
  | [] => (0, false, [], s)

/-- Copies a frame within memory for the index engine, reading what `sp` covers: a poisoned sector is copied poisoned (R397). -/
def State.copyFrame (s : State) (sp : List Span) (src dst n : Nat) : State :=
  let a := s.storeActor
  let (bs, s) := s.readPas (fun w => s.ordered a w || sp.any fun p => p.covers w) ((List.range n).map fun i => src + i)
  let bad := (List.range n).filter fun i => (bs.getD i (0, false)).2
  let s := s.poke dst (bs.map Prod.fst)
  s.poisonPas s.storeActor (bad.map fun i => dst + i)

/-! ### Names (R267, R268) -/

/-- The name of a node: of its parent's name and its tokens. -/
def State.nameOf (s : State) (c : InstRec) (p : Nat) (toks : List Nat) : Nat :=
  if c.dom = 0 then
    let h := toks.foldl (fun h t => (h * 31 + t) % 2 ^ 32) ((p % 2 ^ 32 + c.model.toNat % 2 ^ 32) % 2 ^ 32)
    if h = 0 then 1 else h
  else
    let key := (s.keys.find? fun k => k.1 == c.dom).elim 0 fun k => k.2.toNat
    let x := toBytes 16 p ++ toBytes 8 c.model.toNat ++ (toks.map fun t => toBytes 4 t).flatten
    ofBytes (kmac128 (toBytes 32 key) x 16 [0x50, 0x4C, 0x32, 0x4E, 0x4F, 0x44, 0x45])

/-! ### The index (R269 to R271) -/

/-- An index entry (R269). -/
structure IxEntry where
  name : Nat
  parent : Nat
  children : Nat
  state : Nat
  tier : Nat
  depth : Nat
  t0core : Nat
  refcnt : Nat
  lease : Nat
  lastuse : Nat
  loc : Nat
  t0addr : Nat
  deriving DecidableEq, Repr

/-- The states of an entry. -/
def ixSealed : Nat := 3
/-- EVICTING. -/
def ixEvicting : Nat := 4
/-- PARENT of a node at depth 1. -/
def ixNone : Nat := 0xFFFFFFFF

/-- Reads an entry. -/
def State.ix (s : State) (c : InstRec) (n : Nat) : IxEntry :=
  let f := fun o k => s.peekNat (c.ixbase + 64 * n + o) k
  { name := f 0 16, parent := f 16 4, children := f 20 2, state := f 22 1 % 8, tier := f 22 1 / 8 % 4, depth := f 24 2
    t0core := f 26 2, refcnt := f 28 4, lease := f 32 8, lastuse := f 40 8, loc := f 48 8, t0addr := f 56 4 }

/-- Writes an entry; `rel` is what the insert or the move of its node hands on (R240). -/
def State.putIxWith (s : State) (rel : Option Rel) (c : InstRec) (n : Nat) (e : IxEntry) : State :=
  s.pokeWith rel (c.ixbase + 64 * n)
    (toBytes 16 e.name ++ toBytes 4 e.parent ++ toBytes 2 e.children ++ toBytes 2 (e.state + 8 * e.tier) ++ toBytes 2 e.depth
      ++ toBytes 2 e.t0core ++ toBytes 4 e.refcnt ++ toBytes 8 e.lease ++ toBytes 8 e.lastuse ++ toBytes 8 e.loc
      ++ toBytes 4 e.t0addr ++ toBytes 4 0)

/-- Writes an entry. -/
def State.putIx (s : State) (c : InstRec) (n : Nat) (e : IxEntry) : State := s.putIxWith none c n e

/-- What a lookup of entry `n` acquires: what the insert or the last move of its node handed on (R240, R273). -/
def State.nodeSpans (s : State) (c : InstRec) (n : Nat) : List Span :=
  match (s.recsAt (c.ixbase + 64 * n + 22)).findSome? WriteRec.rel with
  | some r => r.spans.map Prod.snd
  | none => []

/-- Reads bytes of a sealed node's frame for a party that has met its entry (R273): the bytes, and whether a sector was poisoned. -/
def State.sealedBytes (s : State) (a : Actor) (c : InstRec) (n pa len : Nat) : List Byte × Bool × State :=
  s.frameAs a (s.nodeSpans c n) pa len

/-- Changes an entry. -/
def State.modIx (s : State) (c : InstRec) (n : Nat) (f : IxEntry → IxEntry) : State := s.putIx c n (f (s.ix c n))

/-- A FREE entry. -/
def IxEntry.free : IxEntry :=
  { name := 0, parent := 0, children := 0, state := 0, tier := 0, depth := 0, t0core := 0, refcnt := 0, lease := 0
    lastuse := 0, loc := 0, t0addr := 0 }

/-- The probe sequence of a name (R270). -/
def InstRec.probe (c : InstRec) (name : Nat) : List Nat :=
  let e := c.entries
  ((List.range 32).map fun i => (name / 4 % (e / 4) * 4 + i) % e).filter fun n => !(c.ixlog == 22 && n == 2 ^ 22 - 1)

/-- The entry of a name whose state is not FREE. -/
def State.findName (s : State) (c : InstRec) (name : Nat) : Option Nat :=
  (c.probe name).find? fun n => (s.ix c n).state != 0 && (s.ix c n).name == name

/-- The first FREE entry of a name's probe sequence. -/
def State.freeEntry (s : State) (c : InstRec) (name : Nat) : Option Nat := (c.probe name).find? fun n => (s.ix c n).state == 0

/-! ### The pod directory (R458 to R461) -/

/-- The table of an instance that takes part in pod sharing: base and PDLOG. -/
def Inst.directory (v : Inst) : Option (Nat × Nat) :=
  if v.pdptr = 0 then none else some (fld v.pdptr 45 12 * 4096, fld v.pdptr 4 0)

/-- The home package of a name (R460). -/
def State.homePkg (s : State) (name : Nat) : Nat :=
  let ps := (List.range 64).filter s.fe.qlPod.getLsbD
  if ps.isEmpty then s.qlId else ps.getD (name % 2 ^ 32 % ps.length) 0

/-- The probe sequence of a name in a directory table (R460). -/
def dirProbe (log name : Nat) : List Nat :=
  (List.range 64).map fun i => ((name / 8 % 2 ^ (log - 3) + i / 8) % 2 ^ (log - 3)) * 8 + i % 8

/-- The address of the directory entry of a name, if it has one. -/
def State.dirFind (s : State) (t : Nat × Nat) (name : Nat) : Option Nat :=
  ((dirProbe t.2 name).map fun n => t.1 + 32 * n).find? fun a => s.peekNat (a + 24) 1 % 2 == 1 && s.peekNat a 16 == name

/-- HOLDERS of a name: none registered gives 0. -/
def State.dirHolders (s : State) (t : Nat × Nat) (name : Nat) : Nat :=
  match s.dirFind t name with
  | some a => s.peekNat (a + 16) 8
  | none => 0

/-- REG at the home (R461). -/
def State.dirReg (s : State) (t : Nat × Nat) (name pkg : Nat) : State :=
  match s.dirFind t name with
  | some a => s.poke (a + 16) (toBytes 8 (s.peekNat (a + 16) 8 ||| 2 ^ pkg))
  | none =>
    match ((dirProbe t.2 name).map fun n => t.1 + 32 * n).find? fun a => s.peekNat (a + 24) 1 % 2 == 0 with
    | some a => s.poke a (toBytes 16 name ++ toBytes 8 (2 ^ pkg) ++ toBytes 8 1)
    | none => { s with fe := { s.fe with pdDrops := s.fe.pdDrops + 1 } }

/-- DEREG at the home (R461): an entry without holders becomes FREE. -/
def State.dirDereg (s : State) (t : Nat × Nat) (name pkg : Nat) : State :=
  match s.dirFind t name with
  | none => s
  | some a =>
    let h := (BitVec.ofNat 64 (s.peekNat (a + 16) 8) &&& ~~~(1#64 <<< pkg)).toNat
    if h = 0 then s.poke a (toBytes 32 0) else s.poke (a + 16) (toBytes 8 h)

/-- The payload of a STORE flit (R464). -/
def storePayload (op inst ten : Nat) (c : InstRec) (off b8 name : Nat) : List Byte :=
  toBytes 1 op ++ toBytes 1 inst ++ toBytes 1 ten ++ toBytes 1 c.dom ++ toBytes 4 off ++ toBytes 8 b8 ++ toBytes 16 name
    ++ toBytes 1 c.bt ++ toBytes 2 c.nl ++ toBytes 1 c.nh ++ toBytes 1 c.d ++ toBytes 3 0 ++ toBytes 8 c.model.toNat

/-- Sends REG (1) or DEREG (2) for a name of a pod-shared instance to its home, or applies it here (R461). -/
def State.podNotice (s : State) (i : Nat) (c : InstRec) (op name : Nat) : State :=
  match (s.inst i).directory with
  | none => s
  | some t =>
    let home := s.homePkg name
    if home = s.qlId then (if op = 1 then s.dirReg t name s.qlId else s.dirDereg t name s.qlId)
    else s.sendFlit home 9 (storePayload op i 0 c 0 0 name)

/-! ### Frames (R263, R274, R275) -/

/-- The frames in use of a tier. -/
def Inst.used (v : Inst) (tier : Nat) : List Nat := if tier = 1 then v.t1 else v.t2
/-- The frames of a tier. -/
def InstRec.frames (c : InstRec) (tier : Nat) : Nat := if tier = 1 then c.t1fr else c.t2fr
/-- The address of a frame. -/
def InstRec.frameAt (c : InstRec) (tier n : Nat) : Nat := (if tier = 1 then c.t1base else c.t2base) + n * c.size
/-- The lowest-numbered free frame of a tier. -/
def Inst.freeFrame (v : Inst) (c : InstRec) (tier : Nat) : Option Nat :=
  (List.range (c.frames tier)).find? fun n => !(v.used tier).contains n
/-- The frames that sealed nodes may take in a tier (R274). -/
def InstRec.sealedCap (c : InstRec) (tier : Nat) : Nat := if tier = 1 then c.t1fr - c.privmax else c.t2fr
/-- The frames that hold sealed nodes in a tier. -/
def Inst.sealedUse (v : Inst) (tier : Nat) : Nat := if tier = 1 then v.t1.length - v.priv.length else v.t2.length

/-- The frame number of an address in a tier, if it is a frame's. -/
def InstRec.frameNum (c : InstRec) (tier pa : Nat) : Option Nat :=
  let b := if tier = 1 then c.t1base else c.t2base
  if b ≤ pa ∧ (pa - b) % c.size = 0 ∧ (pa - b) / c.size < c.frames tier then some ((pa - b) / c.size) else none

/-- Takes a frame. -/
def State.takeFrame (s : State) (i tier n : Nat) : State :=
  s.modInst i fun v => if tier = 1 then { v with t1 := v.t1 ++ [n] } else { v with t2 := v.t2 ++ [n] }

/-- Gives a frame back. -/
def State.dropFrame (s : State) (i tier n : Nat) : State :=
  s.modInst i fun v =>
    if tier = 1 then { v with t1 := v.t1.filter (· != n) } else { v with t2 := v.t2.filter (· != n) }

/-- Gives back the frame at an address. -/
def State.dropFrameAt (s : State) (i : Nat) (c : InstRec) (tier pa : Nat) : State :=
  match c.frameNum tier pa with
  | some n => s.dropFrame i tier n
  | none => s

/-- Gives back a T0 frame. -/
def State.dropT0 (s : State) (i : Nat) (c : InstRec) (e : IxEntry) : State :=
  if e.t0core / 2 ^ 15 % 2 = 1 then
    s.modInst i fun v => { v with t0 := v.t0.filter fun f => f != (e.t0core % 256, (e.t0addr - c.t0base) / c.size) }
  else s

/-! ### Removal (R271, R276, R279) -/

/-- Frees the old copies of an entry (R276) whose REFCNT has become 0. -/
def State.freeOld (s : State) (i n : Nat) : State :=
  let os := (s.inst i).old.filter fun o => o.1 == n
  let s := os.foldl (fun s o => if o.2.1 = 0 then s else s.dropFrame i o.2.1 o.2.2) s
  s.modInst i fun v => { v with old := v.old.filter fun o => o.1 != n }

/-- Frees an EVICTING entry in the first step at which its REFCNT and CHILDREN are 0, and then its parent likewise; `fuel`
bounds the depth of the chain. -/
def State.reap (s : State) (i : Nat) (c : InstRec) : Nat → Nat → State
  | 0, _ => s
  | fuel + 1, n =>
    let e := s.ix c n
    if e.state = ixEvicting ∧ e.refcnt = 0 ∧ e.children = 0 then
      let s := s.freeOld i n
      let s := s.dropT0 i c e
      let s := s.dropFrameAt i c e.tier e.loc
      let s := s.poke (e.loc + 296) [0]
      let s := s.putIx c n IxEntry.free
      let s := s.podNotice i c 2 e.name
      if e.parent = ixNone ∨ c.entries ≤ e.parent then s
      else (s.modIx c e.parent fun p => { p with children := p.children - 1 }).reap i c fuel e.parent
    else s

/-- Drops a reference of an entry and what follows from that (R276, R314). -/
def State.unref (s : State) (i : Nat) (c : InstRec) (n : Nat) : State :=
  let e := s.ix c n
  let s := s.putIx c n { e with refcnt := e.refcnt - 1 }
  let s := if e.refcnt ≤ 1 then s.freeOld i n else s
  s.reap i c 65536 n

/-! ### Eviction (R280) -/

/-- Whether `a` comes before `b` in the eviction order. -/
def IxEntry.before (clk : Nat) (a b : IxEntry) : Bool :=
  let la := decide (clk < a.lease)
  let lb := decide (clk < b.lease)
  if la != lb then !la
  else if a.lastuse ≠ b.lastuse then decide (a.lastuse < b.lastuse)
  else if a.depth ≠ b.depth then decide (a.depth > b.depth)
  else decide (a.name < b.name)

/-- The victim among the entries that `p` selects, SEALED and without references. -/
def State.victim (s : State) (c : InstRec) (p : IxEntry → Bool) : Option Nat :=
  let ok := fun n => (s.ix c n).state == ixSealed && (s.ix c n).refcnt == 0 && p (s.ix c n)
  ((List.range c.entries).filter ok).foldl (fun best n =>
    match best with
    | none => some n
    | some b => if (s.ix c n).before s.storeClk.toNat (s.ix c b) then some n else some b) none

/-- Makes a node EVICTING, in its entry and in its header (R264, R269). -/
def State.markEvicting (s : State) (i : Nat) (c : InstRec) (n : Nat) : State :=
  let e := s.ix c n
  ((s.putIx c n { e with state := ixEvicting }).poke (e.loc + 296) [BitVec.ofNat 8 ixEvicting]).countInst i 5 1

/-- Removes a victim from the store: EVICTING, then FREE. -/
def State.evict (s : State) (i : Nat) (c : InstRec) (n : Nat) : State := (s.markEvicting i c n).reap i c 65536 n

/-! ### Poisoned sealed nodes (R398) -/

/-- Whether an entry is `n` or a descendant of it, looking up at most `fuel` parents. -/
def State.descends (s : State) (c : InstRec) (n : Nat) : Nat → Nat → Bool
  | 0, m => m == n
  | fuel + 1, m =>
    m == n || (let p := (s.ix c m).parent; p != ixNone && decide (p < c.entries) && s.descends c n fuel p)

/-- Marks a node and every present descendant EVICTING, and removes those that nothing holds (R398). -/
def State.dropNode (s : State) (i : Nat) (c : InstRec) (n : Nat) : State :=
  let ms := (List.range c.entries).filter fun m => (s.ix c m).state == ixSealed && s.descends c n (s.ix c m).depth m
  let s := ms.foldl (fun s m => s.markEvicting i c m) s
  ms.foldl (fun s m => s.reap i c 65536 m) s

/-- Drops the SEALED node that `at_` finds among the entries of an instance. -/
def State.dropFound (s : State) (i : Nat) (at_ : InstRec → Nat → IxEntry → Bool) : State :=
  match (s.inst i).cfg with
  | none => s
  | some c =>
    match (List.range c.entries).find? fun n => (s.ix c n).state == ixSealed && at_ c n (s.ix c n) with
    | some n => s.dropNode i c n
    | none => s

/-- Whether a frame of `n` bytes at `base` holds an address. -/
def frameHolds (base n a : Nat) : Bool := decide (base ≤ a) && decide (a < base + n)

/-- A poisoned sector has been found in memory: a SEALED node that holds it in its frame, or in an old copy that references keep (R276), is
dropped. -/
def State.foundPoison (s : State) (sec : Nat) : State :=
  (List.range 8).foldl (fun s i =>
    s.dropFound i fun c n e =>
      frameHolds e.loc c.size (sec * 32)
        || (s.inst i).old.any fun o => o.1 == n && frameHolds (c.frameAt o.2.1 o.2.2) c.size (sec * 32)) s

/-- A poisoned sector has been found in a core's scratchpad: a SEALED node that holds it in its T0 replica is dropped. -/
def State.foundT0 (s : State) (core : CoreId) (sec : Nat) : State :=
  (List.range 8).foldl (fun s i =>
    s.dropFound i fun c _ e => e.t0core == 2 ^ 15 + core.val && frameHolds e.t0addr c.size (sec * 32)) s

/-- The step that R398 prescribes for every sector found poisoned since the last one. -/
def State.settlePoison (s : State) : State :=
  let found := s.mem.found
  let spad := s.mem.foundSpad
  let s := found.foldl (fun s k => s.foundPoison k) { s with mem := { s.mem with found := [], foundSpad := [] } }
  spad.foldl (fun s k => s.foundT0 k.1 k.2) s

/-! ### Room in a tier (R275, R280) -/

/-- Whether a tier has a place for one more sealed node; `frame`: and a free frame for it. -/
def Inst.hasRoom (v : Inst) (c : InstRec) (tier : Nat) (frame : Bool) : Bool :=
  decide (v.sealedUse tier < c.sealedCap tier) && (!frame || (v.freeFrame c tier).isSome)

/-- Makes room in T2 by removing victims (R275, R280). -/
def State.roomT2 (s : State) (i : Nat) (c : InstRec) : Nat → Bool × State
  | 0 => ((s.inst i).hasRoom c 2 true, s)
  | fuel + 1 =>
    if (s.inst i).hasRoom c 2 true then (true, s)
    else
      match s.victim c fun e => e.tier == 2 && e.children == 0 && decide (e.lease ≤ s.storeClk.toNat) with
      | none => (false, s)
      | some n => (s.evict i c n).roomT2 i c fuel

/-- Moves a sealed node to a frame of another tier (R276). Whoever meets its entry from then on reads the new copy. -/
def State.moveNode (s : State) (i : Nat) (c : InstRec) (n tier fr : Nat) : State :=
  let e := s.ix c n
  let to_ := c.frameAt tier fr
  let sp := s.nodeSpans c n
  let s := s.takeFrame i tier fr
  let s := s.copyFrame sp e.loc to_ c.size
  let copied : Span := { src := none, cls := .kvx, lo := 0, hi := s.stamp, perf := some s.mem.writes, area := some (to_, c.size) }
  let s := s.putIxWith (some (Rel.ofSpans s.storeActor (copied :: sp))) c n { e with tier := tier, loc := to_ }
  match c.frameNum e.tier e.loc with
  | none => s
  | some o => if e.refcnt = 0 then s.dropFrame i e.tier o else s.modInst i fun v => { v with old := v.old ++ [(n, e.tier, o)] }

/-- Makes one place in T1: a victim moves to T2, or is removed where the instance has no T2 (R280). One whose copy would read poison is
dropped with its descendants (R279, R398). -/
def State.evictT1 (s : State) (i : Nat) (c : InstRec) : Bool × State :=
  if c.t2fr = 0 then
    match s.victim c fun e => e.tier == 1 && e.children == 0 && decide (e.lease ≤ s.storeClk.toNat) with
    | none => (false, s)
    | some n => (true, s.evict i c n)
  else
    match s.victim c fun e => e.tier == 1 with
    | none => (false, s)
    | some n =>
      let (_, bad, s) := s.sealedBytes s.storeActor c n (s.ix c n).loc c.size
      if bad then (true, s.dropNode i c n) else
      let (ok, s) := s.roomT2 i c (c.t2fr + 1)
      match ok, (s.inst i).freeFrame c 2 with
      | true, some fr => (true, (s.moveNode i c n 2 fr).countInst i 4 1)
      | _, _ => (false, s)

/-- Makes room in T1 for a sealed node. -/
def State.roomT1 (s : State) (i : Nat) (c : InstRec) (frame : Bool) : Nat → Bool × State
  | 0 => ((s.inst i).hasRoom c 1 frame, s)
  | fuel + 1 =>
    if (s.inst i).hasRoom c 1 frame then (true, s)
    else
      match s.evictT1 i c with
      | (false, s) => (false, s)
      | (true, s) => s.roomT1 i c frame fuel

/-! ### T0 replicas (R274, R280, R316) -/

/-- The lowest-numbered free T0 frame of a core. -/
def Inst.freeT0 (v : Inst) (c : InstRec) (core : Nat) : Option Nat :=
  (List.range c.t0fr).find? fun n => !v.t0.contains (core, n)

/-- A free T0 frame of a core, where a victim has lost its replica for it (R275, R280). -/
def State.roomT0 (s : State) (i : Nat) (c : InstRec) (core : Nat) : Option Nat × State :=
  match (s.inst i).freeT0 c core with
  | some n => (some n, s)
  | none =>
    match s.victim c fun e => e.t0core == 2 ^ 15 + core with
    | none => (none, s)
    | some n =>
      let e := s.ix c n
      let s := s.dropT0 i c e
      let s := (s.putIx c n { e with t0core := 0, t0addr := 0 }).countInst i 4 1
      ((s.inst i).freeT0 c core, s)

/-! ### References from locked segments (R285) -/

/-- Whether a node translation entry names the present copy of its node on core `core`. -/
def State.entryCurrent (s : State) (e : BitVec 128) (core : CoreId) : Bool :=
  match (s.inst (fld e 105 103)).cfg with
  | none => false
  | some c =>
    let x := s.ix c (fld e 127 106)
    x.state == ixSealed && decide (x.refcnt < 2 ^ 32 - 1)
      && (if e.getLsbD 101 then x.t0core == 2 ^ 15 + core.val && x.t0addr == fld e 45 0 else x.loc == fld e 45 0)

/-- Locks segment `g` of a core (R285). -/
def State.lockSegment (s : State) (core : CoreId) (g : Nat) : State :=
  if (s.core core).ntlocks.getLsbD g then s
  else
    let s := (List.range 64).foldl (fun s j =>
      let n := Fin.ofNat 1024 (64 * g + j)
      let e := (s.core core).ntEntry n
      if !e.getLsbD 102 || e.getLsbD 100 then s
      else if s.entryCurrent e core then
        match (s.inst (fld e 105 103)).cfg with
        | none => s
        | some c =>
          let s := s.modIx c (fld e 127 106) fun x => { x with refcnt := x.refcnt + 1 }
          s.modCore core fun k => { k with ntrefs := k.ntrefs ++ [(g, fld e 105 103, fld e 127 106)] }
      else s.modCore core fun k => { k with nt := k.nt.set n.val 0 n.isLt }) s
    s.modCore core fun k => { k with ntlocks := k.ntlocks ||| (1#32 <<< g) }

/-- Unlocks segment `g` of a core: the references that the lock took are dropped. -/
def State.unlockSegment (s : State) (core : CoreId) (g : Nat) : State :=
  let rs := (s.core core).ntrefs.filter fun r => r.1 == g
  let s := rs.foldl (fun s r =>
    match (s.inst r.2.1).cfg with
    | none => s
    | some c => s.unref r.2.1 c r.2.2) s
  s.modCore core fun k =>
    { k with ntrefs := k.ntrefs.filter (fun r => r.1 != g), ntlocks := k.ntlocks &&& ~~~(1#32 <<< g) }

/-- Unlocks every segment of a core (R259). -/
def State.unlockAll (s : State) (core : CoreId) : State := (List.range 16).foldl (fun s g => s.unlockSegment core g) s

/-! ### Private frames (R274, R317) -/

/-- Whether an address is a private frame of a tenancy. -/
def State.isPrivate (s : State) (i : Nat) (c : InstRec) (pa : Nat) (ten : BitVec 8) : Bool :=
  match c.frameNum 1 pa with
  | some n => (s.inst i).priv.contains (n, ten)
  | none => false

/-- Frees a private node and its frame. -/
def State.freePrivate (s : State) (i : Nat) (c : InstRec) (pa : Nat) : State :=
  match c.frameNum 1 pa with
  | none => s
  | some n =>
    let s := (s.poke (pa + 296) [0]).dropFrame i 1 n
    s.modInst i fun v => { v with priv := v.priv.filter fun p => p.1 != n }

/-- The pending backfills of a frame (R327). -/
def Inst.pendingOf (v : Inst) (pa : Nat) : Nat := (v.pending.find? fun p => p.1 == pa).elim 0 Prod.snd

/-- Adds one to the pending count of a frame. -/
def State.addPending (s : State) (i pa : Nat) : State :=
  s.modInst i fun v => { v with pending := (pa, v.pendingOf pa + 1) :: v.pending.filter fun p => p.1 != pa }

/-- Takes one from the pending count of a frame. -/
def State.subPending (s : State) (i pa : Nat) : State :=
  s.modInst i fun v =>
    let n := v.pendingOf pa - 1
    { v with pending := (if n = 0 then [] else [(pa, n)]) ++ v.pending.filter fun p => p.1 != pa }

end Sys2Proof.Machine
end

