-- ==== Sys2Proof/Machine/Lists.lean ====
section
/-!
DEFINITION. Work lists (04_parallel.md, R101 to R107; their place in memory R408) and tokens read by a program (R111).
-/
namespace Sys2Proof.Machine

/-- The items waiting in a list. -/
def WorkList.count (l : WorkList) : Nat := l.tail - l.head

/-- The list of a number (R101). -/
def State.list (s : State) (n : Nat) : WorkList := s.lists.get (Fin.ofNat 1024 n)

/-- Replaces a list. -/
def State.setList (s : State) (n : Nat) (l : WorkList) : State := { s with lists := s.lists.set (Fin.ofNat 1024 n).val l (Fin.ofNat 1024 n).isLt }

/-- Whether a list group is granted to a tenancy (R103). -/
def State.groupHeld (s : State) (ten : BitVec 8) (g : Nat) : Bool := (s.tens.get ten.toFin).listgrp.getLsbD g

/-- The physical address of ring position `p` of list `n` of a tenancy (R408). -/
def State.listAddr (s : State) (ten : BitVec 8) (n p : Nat) : Nat :=
  let t := s.tens.get ten.toFin
  let rank := ((List.range (n / 16)).filter fun g => t.listgrp.getLsbD g).length * 16 + n % 16
  t.listbase + rank * 16 * 2 ^ t.wlcap + 16 * (p % 2 ^ t.wlcap)

/-- A list's capacity (R101, R408). -/
def State.listCap (s : State) (ten : BitVec 8) : Nat := 2 ^ (s.tens.get ten.toFin).wlcap

/-- WLIST with detail FULL. -/
def Trap.listFull (n : Nat) : Trap := { cause := .wlist, det := 0, va := n }

/-- WLIST with detail NOTHELD. -/
def Trap.listNotHeld (n : Nat) : Trap := { cause := .wlist, det := 1, va := n }

/-- Appends items to a list at consecutive positions (R103, R105): releases on the CORE path at PACKAGE scope (R107). What a list hands on
goes with its items on chip. -/
def State.listPush (s : State) (cx : Cx) (ten : BitVec 8) (n : Nat) (items : List (List Byte)) : State :=
  let l := s.list n
  let a := cx.actor s
  let s := s.arm a true true
  let r := s.releaseNow (s.releaseOf cx.who)
  let s := (List.range items.length).foldl (fun s i =>
    let pa := s.listAddr ten n (l.tail + i)
    let bs := items.getD i []
    s.writePas a .plain ((List.range bs.length).map fun j => (pa + j, bs.getD j 0))) s
  s.setList n { l with tail := l.tail + items.length, know := l.know ++ List.replicate items.length [r] }

/-- Takes up to `k` items from a list (R104): their bytes, zero from a poisoned sector, and the acquires (R101, R107). DERRVA holds the
physical address of a poisoned item (DESIGN CHOICE: a list region has no virtual address; log entry 87). -/
def State.listPop (s : State) (cx : Cx) (ten : BitVec 8) (n : Nat) : Nat → List (List Byte) × State
  | 0 => ([], s)
  | k + 1 =>
    let l := s.list n
    if l.count = 0 then ([], s)
    else
      let a := cx.actor s
      let s := s.armPubs a
      let pa := s.listAddr ten n l.head
      let (bs, s) := s.coreRead cx.who.core (s.ordered a) ((List.range 16).map fun i => pa + i)
      let s := if bs.any Prod.snd then s.modCore cx.who.core fun c => c.derrRecord 1 pa else s
      let s := s.setList n { l with head := l.head + 1, know := l.know.drop 1 }
      let s := s.acquire cx.who cx.stamp (l.know.headD [])
      let s := s.modSeq cx.who fun v => { v with unacked := Fin.ofNat 64 (n / 16) :: v.unacked }
      let (rest, s) := s.listPop cx ten n k
      (bs.map Prod.fst :: rest, s)

/-- Acknowledges every item that a sequencer holds (R102). -/
def State.acknowledge (s : State) (w : Who) : State := s.modSeq w fun v => { v with unacked := [] }

/-- Whether a list group is quiescent (R106): its lists are empty and no item popped from it is unacknowledged, by an iteration that runs
or by one that has been pre-empted. -/
def State.quiescent (s : State) (g : Nat) : Bool :=
  ((List.range 16).all fun i => (s.list (16 * g + i)).count == 0)
    && s.cores.toList.all fun c =>
      (ring.all fun q => !(c.seq q).unacked.contains (Fin.ofNat 64 g))
        && c.suspended.all fun v => v.seqs.all fun q => !q.1.contains (Fin.ofNat 64 g)

/-- A QUIES in flight answers 1 once the group that it watches has been quiescent (R106). -/
def State.watchQuiet (s : State) : State :=
  if s.cores.toList.any fun c => c.flights.any fun f => f.watch.isSome then
    s.mapCores fun _ c =>
      { c with flights := c.flights.map fun f =>
          if f.watch.any s.quiescent then { f with value := 1, watch := none } else f }
  else s

/-- WLPUSH (R103). -/
def execWlpush (d a : Reg) (x : Ctl) (s : State) : Out :=
  issue { x := x, gsrc := [d, a, regNext d], tape := .abandon, acc := [.core], rel := true, enc := encode (.wlpush d a x) }
    (fun cx s =>
      let v := s.seq cx.who
      let n := (v.rg a).toNat % 1024
      let ten := s.tenOf cx.who.core
      if !s.groupHeld ten (n / 16) then .trap (Trap.listNotHeld n)
      else if (s.list n).count ≥ s.listCap ten then .trap (Trap.listFull n)
      else
        let item := toBytes 8 (v.rg d).toNat ++ toBytes 8 ((v.rg (regNext d)).toNat % 2 ^ 63)
        .done (s.listPush cx ten n [item]) .next false) s

/-- WLPOP (R104): the single form and the batch form. -/
def execWlpop (d a : Reg) (x : Ctl) (s : State) : Out :=
  issue { x := x, minLat := 7, gsrc := [a], gdst := [d, regNext d], tape := .abandon, acc := [.core], enc := encode (.wlpop d a x)
          waits := fun cx s =>
            let g := ((s.seq cx.who).rg a).toNat
            g / 1024 % 1024 != 0
              && (s.core cx.who.core).cmdHolds cx.who.sq (g / 2 ^ 20 % 2 ^ 22) (16 * (g / 1024 % 1024)) }
    (fun cx s =>
      let v := s.seq cx.who
      let g := (v.rg a).toNat
      let n := g % 1024
      let c := g / 1024 % 1024
      let adr := g / 2 ^ 20 % 2 ^ 22
      let ten := s.tenOf cx.who.core
      if c ≠ 0 ∧ (adr % 16 ≠ 0 ∨ adr + 16 * c > 2 ^ 22) then .trap (Trap.spaddr adr)
      else if !s.groupHeld ten (n / 16) then .trap (Trap.listNotHeld n)
      else
        let s := s.acknowledge cx.who
        let (lat, s) := s.freeNat
        let at0 := s.cycle + 1 + Config.latency lat
        if c = 0 then
          match s.listPop cx ten n 1 with
          | (bs :: _, s) =>
            .done (s.fly cx at0 false [.g d (BitVec.ofNat 64 (ofBytes (bs.take 8))),
              .g (regNext d) (BitVec.ofNat 64 (ofBytes (bs.drop 8)))]) .next true
          | ([], s) => .done (s.fly cx at0 false [.g d 0, .g (regNext d) 0x8000000000000000]) .next true
        else
          let (items, s) := s.listPop cx ten n c
          let s := s.spadStore cx.who.core (cx.actor s) adr items.flatten
          .done (s.fly cx at0 false [.g d (BitVec.ofNat 64 items.length)]) .next true) s

/-- QUIES (R106): the group is watched from its issue until it lands. -/
def execQuies (d a : Reg) (x : Ctl) (s : State) : Out :=
  issue { x := x, minLat := 7, gsrc := [a], gdst := [d], cls := .varying, acc := [.core], enc := encode (.quies d a x) }
    (fun cx s =>
      let g := ((s.seq cx.who).rg a).toNat % 64
      if !s.groupHeld (s.tenOf cx.who.core) g then .trap (Trap.listNotHeld g)
      else
        let s := s.acknowledge cx.who
        let (lat, s) := s.freeNat
        let s := s.fly cx (s.cycle + 1 + Config.latency lat) false [.g d 0]
        .done (s.modCore cx.who.core fun c =>
          { c with flights := c.flights.map fun f => if f.ins == cx.stamp then { f with watch := some g } else f }).watchQuiet .next true) s

/-- TKCNT (R111): the counts after this instruction's own pops (R83). -/
def execTkcnt (d : Reg) (x : Ctl) (s : State) : Out :=
  issue { x := x, minLat := 1, gdst := [d], cls := .varying, enc := encode (.tkcnt d x) }
    (fun cx s =>
      let c := s.core cx.who.core
      .land cx s [.g d (BitVec.ofNat 64 (((List.finRange 8).map fun i => c.tokenCount i * 2 ^ (8 * i.val)).sum))]) s

/-! ### The barrier (R108 to R110) -/

/-- BAR (R109): arrives at the next generation of its launch; X issues nothing until BARRIER_RELEASE. Its arrival is a release
(R110). -/
def execBar (x : Ctl) (s : State) : Out :=
  issue { x := x, issuers := [.X], illegal := fun cx s => (s.core cx.who.core).inTrap, acc := [.core], rel := true
          enc := encode (.bar x) }
    (fun cx s =>
      match s.launchOf cx.who.core with
      | none => .trap { cause := .barwave, det := 0, va := 0 }
      | some l =>
        if l.multiWave then .trap { cause := .barwave, det := 0, va := 0 }
        else
          let s := s.arm (cx.actor s) true true
          let n := (s.core cx.who.core).barCount + 1
          let r := s.releaseNow (s.releaseOf cx.who)
          let s := s.modCore cx.who.core fun c => { c with barCount := n, barWaiting := true }
          .done (s.modLaunch l.id fun l =>
            { l with arrived := l.arrived ++ [(cx.who.core, n)]
                     barKnow := l.barKnow ++ [r] }) .next false) s

/-- Whether some participant of a launch has neither arrived at generation `n` nor finished its iteration (R108): every tuple that
is still to be handed out will be a participant. -/
def Launch.missing (l : Launch) (n : Nat) : Bool :=
  (l.ending.isNone && decide (l.next < l.count)) || l.members.any fun m => !m.2.2 && !(l.arrived.contains (m.1, n))

/-- The generation at which X of a core waits in launch `id`. -/
def Core.awaits (c : Core) (id : Nat) : Option Nat :=
  if c.barWaiting && (c.iter.any fun it => it.launch == id) then some c.barCount else none

/-- BARRIER_RELEASE (R108): the next generation of a launch, when every participant has arrived or finished; every core that waits
at it or at an earlier one goes on, and the release is an acquire of its X (R110). -/
def execBarrierRelease (launch : Nat) (s : State) : Out :=
  match s.launches.find? fun l => l.id == launch with
  | none => .next s
  | some l =>
    let waits := fun (n : Nat) => (allCores.filter fun c => ((s.core c).awaits launch).any fun g => decide (g ≤ n))
    let next := l.released + 1
    let n := if l.missing next || !(l.arrived.any fun a => a.2 == next) then l.released else next
    let s' := s.modLaunch launch fun l => { l with released := n }
    .next ((waits n).foldl (fun s c =>
      let w : Who := { core := c, sq := .X }
      let s := s.modCore c fun k => { k with barWaiting := false }
      (s.acquire w s.stamp l.barKnow).endTest w) s')

end Sys2Proof.Machine
end

