-- ==== Sys2Proof/Machine/System.lean ====
section
/-!
DEFINITION. Landing, deadlock, trap mode and the system instructions but the context image (01_sequencer.md, 04_parallel.md,
20_faults.md).
-/
namespace Sys2Proof.Machine

/-! ### Landing -/

/-- Whether a cycle lies after the capture cycle of a stop or of a pre-emption that the core is in (R368, R378). -/
def Core.captured (c : Core) (cycle : Nat) : Bool :=
  c.stop.any (fun t => decide (t.cycle < cycle)) || (c.preempt.bind PreReq.capture).any fun t => decide (t < cycle)

/-- Whether a result may land in the current cycle (R27, R29): a bounded one from the cycle after its issue, one without a bound
when its operation delivers it, with every piece of its access performed; results of a core that is stopping wait for the snapshot buffer (R368). -/
def Core.mayLand (c : Core) (cycle : Nat) (f : Flight) : Bool :=
  match f.bound with
  | some _ => decide (f.issued < cycle) && !c.captured cycle
  | none => decide (f.issued < cycle) && decide (f.notBefore ≤ cycle) && f.left == 0

/-- RESULT_LANDING (R27 to R30); a QUIES looks at its group up to its landing (R106). -/
def execResultLanding (c : CoreId) (id : Nat) (s : State) : Out :=
  let s := s.watchQuiet
  match (s.core c).flights.find? fun f => f.id == id with
  | none => .next s
  | some f =>
    if (s.core c).mayLand s.cycle f then .next (s.modCore c fun k => k.landFlight s.cycle f) else .next s

/-! ### Token deadlock (R87) -/

/-- Whether the core is in token deadlock in cycle `t`: a sequencer that issued its last instruction in this cycle, and may have
popped a token by it, has not yet ended. -/
def Core.deadlocked (c : Core) (t : Nat) : Bool :=
  let idle := fun (q : Sq) => ((c.seq q).ended && (c.seq q).tried != t + 1) || ((c.seq q).wait == .token && (c.seq q).tried == t + 1)
  ring.all idle && (ring.any fun q => !(c.seq q).ended) && (List.finRange 8).all fun i => c.pendingPushes i == 0

/-- Whether TOKDEAD is to be taken at the end of cycle `t`. -/
def Core.tokdeadNow (c : Core) (t : Nat) : Bool :=
  c.iter.any Iter.started && c.stop.isNone && !c.inTrap && !c.replayFault && c.deadlocked t

/-- TOKDEAD (R87): at the end of a cycle in which nothing can change the token queues any more, the first waiting sequencer in ring
order takes it; a replay stream takes a replay fault instead (R359). -/
def execTokdead (c : CoreId) (s : State) : Out :=
  let k := s.core c
  if k.tokdeadNow s.cycle then
    match ring.find? fun q => !(k.seq q).ended with
    | none => .next s
    | some q =>
      let trap : Trap := { cause := .tokdead, det := 0, va := 0 }
      if q != .X && k.tapePhase == .replaying then .next (s.replayFaultOf { core := c, sq := q } trap)
      else .next (s.raise { core := c, sq := q } trap)
  else .next s

/-! ### Trap mode (R368 to R375) -/

/-- The results that go to the snapshot buffer: those with a bound, in issue order, each with a free offset within its window
(R369, log entry 11). -/
def toSnapshot (capture : Nat) : List Flight → Nat → List SnapEntry × Nat
  | [], free => ([], free)
  | f :: fs, free =>
    match f.bound with
    | none => toSnapshot capture fs free
    | some b =>
      let lo := max 1 (f.issued + 1 - capture)
      let hi := f.issued + b - capture
      let o := lo + Config.freeNat free % (hi - lo + 1)
      let e : SnapEntry :=
        { sq := f.sq, dest := f.dest, value := f.value, en := f.en, flags := f.flags, pushF := f.push.any Push.f
          pushB := f.push.any Push.b, know := (f.push.map Push.know).getD Know.none, waits := f.waits, ins := f.ins, off := o }
      let (rest, free) := toSnapshot capture fs (free + 1)
      (e :: rest, free)

/-- Among the entries of one instruction the one that lands last, of two in one cycle the later in the list, carries the flags and
the pushes (R84, R134). -/
def settleLast (es : List SnapEntry) : List SnapEntry :=
  es.zipIdx.map fun (e, i) =>
    let mates := es.zipIdx.filter fun p => p.1.ins == e.ins
    if mates.any fun p => decide (e.off < p.1.off) || (p.1.off == e.off && decide (i < p.2)) then
      { e with flags := 0, pushF := false, pushB := false, know := Know.none }
    else
      { e with flags := mates.foldl (fun v p => v ||| p.1.flags) 0, pushF := mates.any fun p => p.1.pushF
               pushB := mates.any fun p => p.1.pushB, know := mates.foldl (fun k p => k.merge p.1.know) Know.none }

/-- Whether everything that a stop waits for is done (R241 point 4, R368 point 3): engine commands, matrix writes, global accesses and
results without a bound. -/
def Core.drained (c : Core) : Bool :=
  c.cmds.isEmpty && c.matWrites.isEmpty && c.pend.isEmpty && c.flights.all fun f => f.bound.isSome

/-- Moves the results in flight that have a bound to the snapshot buffer at capture cycle `t`; entries that have not landed since an earlier
stop stay in it with the offsets that are left. -/
def State.capture (s : State) (c : CoreId) (t : Nat) : State :=
  let k := s.core c
  let (es, f) := toSnapshot t k.flights s.free
  let old := k.snap.map fun e => { e with off := k.resumeAt - 1 + e.off - t }
  { (s.setCore c { k with snap := old ++ settleLast es, flights := k.flights.filter fun g => g.bound.isNone }) with free := f }

/-- The resumption address of a sequencer (R368): the end address of one that has ended, 0 for a replay stream that runs. -/
def Core.epcOf (c : Core) (q : Sq) : Word :=
  let v := c.seq q
  if v.ended then v.entry + BitVec.ofNat 64 (2 * v.extent)
  else if c.tapePhase == .replaying && q != .X then 0 else v.pc

/-- TRAP_MODE_ENTRY (R366 to R374): once the core has drained, results in flight enter the snapshot buffer; X is saved to XSAVE;
TRAPCAUSE, TRAPVA and the EPC registers are written; X starts at TRAPVEC with no active block. A latched replay fault is taken
at X's boundary (R359, R384). With TRAPVEC = 0 the iteration ends and its launch completes with FAULT. -/
def execTrapModeEntry (c : CoreId) (s : State) : Out :=
  let k := s.core c
  let stop :=
    match k.stop with
    | some t => some t
    | none =>
      if k.replayFault && !k.inTrap && k.iter.isSome then
        some { sq := .X, cause := BitVec.ofNat 8 Cause.replay.code, det := 0, va := 0, cycle := s.cycle - 1 }
      else none
  match stop with
  | none => .next s
  | some t =>
    let s := if k.stop.isNone then (s.abandon c 8).flushCore c else s
    let s := s.modCore c fun k => { k with stop := some t }
    let k := s.core c
    if !(decide (t.cycle < s.cycle) && k.drained) then .next s
    else
      let cause := BitVec.ofNat 32 (2 ^ 31 + t.det.toNat * 2 ^ 12
        + (if t.cause.toNat = Cause.replay.code then 0 else sqIndex t.sq) * 2 ^ 8 + t.cause.toNat)
      let isReplay := t.cause.toNat == Cause.replay.code
      if k.trapvec = 0 then
        let s := s.modCore c fun k => { k with trapcause := cause, trapva := t.va, replayFault := k.replayFault && !isReplay }
        .next (s.endIteration c statusFault cause t.va)
      else
        let s := s.capture c t.cycle
        .next (s.modCore c fun k =>
          let x := k.sX
          let k := { k with
            gang := none, preempt := k.preempt.map fun (p : PreReq) => { p with capture := none }
            xsave := { g := x.g, p := x.p, lc := x.lc, fpstat := x.fpstat, blocks := x.blocks, ended := x.ended }
            trapcause := cause, trapva := t.va, stop := none, replayFault := k.replayFault && !isReplay
            epc := #v[k.epcOf .X, k.epcOf .L, k.epcOf .C, k.epcOf .S] }
          let k := k.modSeqs fun _ v => { v with since := none, wait := .none, tried := 0 }
          k.modSeq .X fun v => { v with blocks := [], pc := k.trapvec, ended := false, lastSafe := none })

/-- The cycle in which a snapshot entry lands after resumption at `r` (R370). -/
def Core.snapDue (c : Core) (e : SnapEntry) : Nat := c.resumeAt - 1 + e.off

/-- Entry `idx` of the snapshot buffer lands: earlier results to its destination, in the buffer or in flight, lose the bytes that it
writes (R30, R370). -/
def Core.landSnap (k : Core) (cycle idx : Nat) (e : SnapEntry) : Core :=
  let lose := fun (g : Flight) => if g.ins < e.ins && g.dest.same g.sq e.dest e.sq then g.without e.en else g
  let k := { k with
    snap := ((k.snap.take idx).map fun (g : SnapEntry) => g.yield e.dest e.sq e.en) ++ k.snap.drop (idx + 1)
    flights := k.flights.map lose }
  let k := k.writeDest e.sq e.dest e.value e.en
  let k := k.raiseFlags e.sq e.flags
  k.completePush e.sq e.pushF e.pushB cycle e.know

/-- SNAPSHOT_LAND (R370): the entry writes its enabled bytes, raises its flags and completes its pushes; a poisoned one lands zero data
and no flags (R399). -/
def execSnapshotLand (c : CoreId) (idx : Nat) (s : State) : Out :=
  let k := s.core c
  match k.snap[idx]? with
  | none => .next s
  | some e =>
    if k.inTrap || k.captured s.cycle || decide (s.cycle < k.snapDue e) then .next s
    else if e.bad then
      .next ((s.foundOnDie idx).modCore c fun k => (k.derrRecord 6 0).landSnap s.cycle idx { e with value := 0, flags := 0 })
    else .next (s.modCore c fun k => k.landSnap s.cycle idx e)

/-! ### System instructions (R385 to R391) -/

/-- TRAP (R386): the SOFT trap; the instruction completes. -/
def execTrap (a : Reg) (x : Ctl) (s : State) : Out :=
  issue { x := x, gsrc := [a], illegal := fun cx s => (s.core cx.who.core).inTrap, enc := encode (.trap a x) }
    (fun cx s =>
      let va := ((s.seq cx.who).rg a).toNat
      if (s.core cx.who.core).stop.isSome then .stall cx.s0
      else .done (s.raise cx.who { cause := .soft, det := 0, va := va }) .next false) s

/-- What RTE does with the replay streams (R360, R384): resumed, or discarded when RPSTAT.ABORT is 1. -/
def State.rteReplay (s : State) (c : CoreId) : State :=
  let k := s.core c
  if fld k.trapcause 7 0 = Cause.replay.code then
    if k.rpstat.getLsbD 30 then
      let s := match k.iter with
        | some { tape := some t, .. } => s.emptyTape c t 7
        | _ => s
      s.modCore c fun k =>
        { (k.modSeqs fun q v => if q == .X then v else { v with ended := true }) with
          tapePhase := .aborted, replayTape := none, rpstat := k.rpstat &&& ~~~0xC0000000#64 }
    else s.modCore c fun k => { k with rpstat := k.rpstat &&& ~~~0x80000000#64 }
  else s

/-- RTE (R370, R387): leaves trap mode. It waits until X's own results have landed; with a block of the handler active it takes
ILLEGAL, a double fault. -/
def execRte (x : Ctl) (s : State) : Out :=
  issue { x := x, issuers := [.X], illegal := fun cx s => !(s.core cx.who.core).inTrap, enc := encode (.rte x)
          waits := fun cx s => (s.core cx.who.core).flights.any fun f => f.sq == cx.who.sq }
    (fun cx s =>
      if !(s.seq cx.who).blocks.isEmpty then .trap Trap.illegal
      else
        let c := cx.who.core
        let s := s.rteReplay c
        let s := s.modCore c fun k =>
          let v := k.xsave
          let k := k.modSeq .X fun q =>
            { q with g := v.g, p := v.p, lc := v.lc, fpstat := v.fpstat, blocks := v.blocks, ended := v.ended }
          let k := k.modSeqs fun q w => if w.ended then w else { w with pc := k.epc.get (Fin.ofNat 4 (sqIndex q)) }
          { k with trapcause := k.trapcause &&& 0x7FFFFFFF, resumeAt := s.cycle + 1 }
        let s := if (s.core c).tapePhase == .replaying then s
          else [Sq.L, .C, .S].foldl (fun s q => s.endTest { core := c, sq := q }) s
        .done s .set false) s

/-- The header of a snapshot entry (R371). -/
def SnapEntry.header (e : SnapEntry) : Nat :=
  let (kind, reg) : Nat × Nat :=
    match e.dest with
    | .none => (0, 0)
    | .g r => (0, r.val)
    | .p r => (1, r.val)
    | .row n => (2, n.val)
    | .mask m => (3, m.val)
  e.pushB.toNat * 2 ^ 24 + e.pushF.toNat * 2 ^ 23 + e.flags.toNat * 2 ^ 17 + reg * 2 ^ 10 + kind * 2 ^ 8 + sqIndex e.sq * 2 ^ 6
    + e.off

/-- Dword `k` of a snapshot entry (R371). -/
def SnapEntry.dword (e : SnapEntry) (k : Nat) : Word :=
  if k = 0 then BitVec.ofNat 64 e.header
  else if k ≤ 8 then
    match e.dest with
    | .row _ => (e.en >>> (64 * (k - 1))).setWidth 64
    | .mask _ => BitVec.allOnes 64
    | _ => 0
  else (e.value >>> (64 * (k - 9))).setWidth 64

/-- SNAPRD (R390). -/
def execSnaprd (d a : Reg) (x : Ctl) (s : State) : Out :=
  issue { x := x, minLat := 1, issuers := [.X], gsrc := [a], gdst := [d], enc := encode (.snaprd d a x) }
    (fun cx s =>
      let v := ((s.seq cx.who).rg a).toNat
      if v / 2 ^ 15 ≠ 0 ∨ v / 128 % 2 ≠ 0 then .trap Trap.illegal
      else
        let k := v / 256 % 128
        let r := match (s.core cx.who.core).snap[v % 128]? with
          | none => 0
          | some e => if k > 72 then 0 else e.dword k
        .land cx s [.g d r]) s

/-- The events that a waiting WFE sees (R391): EVT, PRE and TIME. -/
def wfeEvents (cx : Cx) (s : State) (a : Reg) : Nat :=
  let v := s.seq cx.who
  let k := s.core cx.who.core
  let t := (v.rg a).toNat
  let waited := match v.since with
    | none => 0
    | some n => s.cycle - n
  v.eventLatch.toNat + (k.preempt.isSome).toNat * 2 + (decide (t ≠ 0) && decide (t ≤ waited)).toNat * 4

/-- WFE (R391). -/
def execWfe (d a : Reg) (x : Ctl) (s : State) : Out :=
  issue { x := x, minLat := 1, gsrc := [a], gdst := [d], cls := .varying, enc := encode (.wfe d a x)
          waits := fun cx s => wfeEvents cx s a == 0 }
    (fun cx s =>
      let r := wfeEvents cx s a
      let s := s.modSeq cx.who fun v => { v with eventLatch := false }
      .land cx s [.g d (BitVec.ofNat 64 r)]) s

/-- An encoding that is no instruction (R34, R41): ILLEGAL before any wait (R481). -/
def execIllegalEncoding (s : State) : Out := .next (s.raise s.turn Trap.illegal)

end Sys2Proof.Machine
end

