-- ==== Sys2Proof/Machine/Tape.lean ====
section
/-!
DEFINITION. Command tapes but the issue of replay entries (19_tapes.md).
-/
namespace Sys2Proof.Machine

/-! ### The bytes of a tape (R350) -/

/-- An entry's bytes. -/
def TapeEntry.image (e : TapeEntry) : List Byte :=
  toBytes 4 e.w.toNat
    ++ [BitVec.ofNat 8 (sqIndex e.stream + e.marker.toNat * 4 + e.interlocked.toNat * 8 + e.ops.length % 8 * 16), 0, 0, 0]
    ++ (e.ops.map fun w => toBytes 8 w.toNat).flatten

/-- The header, the code ranges, the guards, the patch records and the entries of tape `tid`. -/
def Tape.image (t : Tape) (tid : Nat) : List Byte :=
  let st := match t.st with
    | .empty => 0
    | .recording => 1
    | .valid => 2
  let head :=
    [BitVec.ofNat 8 st, BitVec.ofNat 8 tid, t.ten, BitVec.ofNat 8 t.kread.toNat, BitVec.ofNat 8 t.guards.length,
      BitVec.ofNat 8 t.ranges.length] ++ toBytes 2 t.patches.length ++ toBytes 4 t.entries.length ++ toBytes 4 t.bytes
      ++ toBytes 4 t.htgen.toNat ++ toBytes 4 t.ntgen.toNat ++ toBytes 2 t.ntlocks.toNat ++ [0, 0] ++ toBytes 4 t.acct.toNat
      ++ toBytes 4 t.cores ++ toBytes 4 0 ++ toBytes 8 t.energy ++ toBytes 8 t.dur ++ toBytes 8 0
      ++ (List.range 64).map (fun i => t.looptab.getD i 0)
      ++ ((List.range 4).map fun i => toBytes 8 (t.kval.getD i 0).toNat).flatten
      ++ ((List.range 3).map fun i => toBytes 8 (t.ent.getD i 0).toNat).flatten
      ++ ((List.range 3).map fun i => toBytes 4 (t.ext.getD i 0)).flatten ++ toBytes 60 0
  let ranges := (t.ranges.map fun r => toBytes 8 r.1 ++ toBytes 4 r.2 ++ toBytes 4 0).flatten
  let guards := (t.guards.map fun g => toBytes 8 g.1.toNat ++ toBytes 8 g.2.1.toNat ++ toBytes 8 g.2.2.toNat).flatten
  let patches := (t.patches.map fun p => toBytes 4 (p.entry + p.pos * 2 ^ 20 + p.pv.val * 2 ^ 22)).flatten
  let upto := head ++ ranges ++ guards ++ patches
  upto ++ toBytes ((8 - upto.length % 8) % 8) 0 ++ (t.entries.map TapeEntry.image).flatten

/-! ### Replay streams (R353, R354) -/

/-- Sets the three replay streams to their first entries; a stream without entries has ended (R354). -/
def State.startReplay (s : State) (c : CoreId) (t : Tape) : State :=
  s.modCore c fun k =>
    let k := { k with tapePhase := .replaying, replayTape := some t, tapeBegun := some s.time }
    [Sq.L, .C, .S].foldl (fun k q =>
      let n := t.nextOf q 0
      (k.setRpNext q n).modSeq q fun v => { v with ended := decide (t.entries.length ≤ n) }) k

/-! ### Guards (R352) -/

/-- The code of the first failing guard of tape `t` for the iteration of a core, or 0. -/
def Core.failedGuard (c : Core) (l : Launch) (t : Tape) : Nat :=
  if t.ent ≠ l.ent.drop 1 ∨ t.ext ≠ l.ext.drop 1 then 1
  else if t.htgen ≠ c.htgen then 2
  else if t.ntgen ≠ c.ntgen ∨ t.ntlocks ≠ c.ntlocks.setWidth 16 then 3
  else if t.acct ≠ c.acct then 4
  else if t.looptab ≠ l.looptab ∨ (t.kread ∧ t.kval ≠ c.k.toList) then 5
  else if t.cores ≠ l.coreset.length then 6
  else
    let bad := fun (g : Word × Word × Word) =>
      let p := c.pv.get (Fin.ofNat 32 (g.1.toNat % 32))
      if g.1.getLsbD 8 then !(decide (g.2.1.toNat ≤ p.toNat) && decide (p.toNat ≤ g.2.2.toNat)) else p != g.2.1
    match t.guards.findIdx? bad with
    | some i => 16 + i
    | none => 0

/-- The tape of a core's iteration. -/
def Core.iterTape (c : Core) : Option (Fin 16) := c.iter.bind Iter.tape

/-- A tape found poisoned at TAPEB becomes EMPTY (R399); the sector's index in the array is free. -/
def State.dropBadTape (s : State) (c : CoreId) (t : Fin 16) : State :=
  if (s.core c).tapeBad.any fun b => b.1 == t then
    let (n, s) := s.freeNat
    (s.foundOnDie (n % 4096)).emptyTape c t 7
  else s

/-- TAPEB (R345, R346): a replay when tape t is VALID and every guard holds; otherwise a recording starts. -/
def execTapeb (d : Reg) (x : Ctl) (s : State) : Out :=
  issue { x := x, minLat := 7, issuers := [.X], gdst := [d], enc := encode (.tapeb d x) }
    (fun cx s =>
      let c := cx.who.core
      let k := s.core c
      match k.iterTape, s.launchOf c with
      | some t, some l =>
        if k.tapeBegun.isSome ∨ k.tapes.toList.any (fun p => p.st == .recording) then .trap Trap.illegal
        else
          let s := s.dropBadTape c t
          let tp := (s.core c).tapes.get t
          let (lat, s) := s.freeNat
          let at0 := s.cycle + 1 + Config.latency lat
          let valid := tp.st == .valid && tp.ten == s.tenOf c
          let g := if valid then k.failedGuard l tp else 0
          if valid && g == 0 then .done ((s.startReplay c tp).fly cx at0 false [.g d 1]) .next true
          else
            let s := s.emptyTape c t 7
            let new : Tape := { Tape.blank with
              st := .recording, ten := s.tenOf c, htgen := k.htgen, ntgen := k.ntgen, ntlocks := k.ntlocks.setWidth 16
              acct := k.acct, cores := l.coreset.length, looptab := l.looptab, kval := k.k.toList, ent := l.ent.drop 1
              ext := l.ext.drop 1 }
            let s := s.modCore c fun k =>
              { (k.modSeqs fun _ v =>
                  { v with gcls := Vector.replicate 32 .clean, pcls := Vector.replicate 8 true
                           lccls := Vector.replicate 3 .clean }) with
                tapes := k.tapes.set t.val new t.isLt, tapePhase := .recording, tapeBegun := some s.time, tapeLines := []
                tapemiss := if g = 0 then k.tapemiss else k.tapemiss + 1 }
            let s := if (s.core c).tapeUse > tapeMemory then s.abandon c 5 else s
            let r := g * 256 + (if tp.st == .valid then 0 else 4)
            .done (s.fly cx at0 false [.g d (BitVec.ofNat 64 r)]) .next true
      | _, _ => .trap Trap.illegal) s

/-- Inserts a number into an ascending list without repeats. -/
def insertUp (n : Nat) : List Nat → List Nat
  | [] => [n]
  | m :: ms => if n < m then n :: m :: ms else if n = m then m :: ms else m :: insertUp n ms

/-- The maximal runs of consecutive numbers in an ascending list: first and length. -/
def runsOf : List Nat → List (Nat × Nat)
  | [] => []
  | n :: ns =>
    match runsOf ns with
    | (m, k) :: rest => if n + 1 = m then (n, k + 1) :: rest else (n, 1) :: (m, k) :: rest
    | [] => [(n, 1)]

/-- Completes a recording (R350, R351) by a TAPEE that completes in cycle `done`: ranges, energy and duration are filled in and the
physical lines that now hold the code recorded beside those that it was read from; FULL when the ranges or the tape memory do
not suffice. -/
def State.finishTape (s : State) (c : CoreId) (t : Fin 16) (done : Nat) : Nat × State :=
  let k := s.core c
  let tp := k.tapes.get t
  let runs := runsOf (k.tapeLines.foldl (fun acc n => insertUp n acc) [])
  let t0 := k.tapeBegun.getD s.time
  let t1 := s.time + (done - s.cycle) * s.cycleTime
  let new := { tp with st := TapeState.valid, ranges := runs.map fun r => (r.1 * 256, r.2 * 256)
                       energy := Config.energy c.val t0 t1, dur := (t1 - t0) * 1000 / timeUnit }
  if runs.length > 16 ∨ k.tapeUse - tp.bytes + new.bytes > tapeMemory then (5, s.abandon c 5)
  else
    let a : Actor := { who := some { core := c, sq := .X }, cls := .core, stamp := s.stamp, know := (s.core c).sX.know }
    let s := s.modCore c fun k => { k with tapes := k.tapes.set t.val new t.isLt, tapePhase := .finished, tapeLines := [] }
    let s := k.tapeLines.foldl (fun s l =>
      match s.translate a c (s.tenOf c) Need.fetch (l * 256) with
      | (.ok (pa, _), s) => (s.placeOf pa).elim s fun pa => { s with codeLines := (pa / 256, c, t) :: s.codeLines }
      | (.error _, s) => s) s
    (0, s)

/-- Whether what TAPEE waits for is done (R363). -/
def Core.tapeIdle (c : Core) : Bool :=
  [Sq.L, .C, .S].all (fun q => (c.seq q).ended) && (c.cmds.all fun k => k.sq == .X) && c.matWrites.isEmpty
    && (c.flights.all fun f => f.sq == .X) && c.snap.all fun e => e.sq == .X

/-- TAPEE (R363). A TAPEE before TAPEB in a launch that names a tape takes ILLEGAL at once, although L, C and S, which wait for TAPEB
(R345), have not ended (log entry 76). -/
def execTapee (d : Reg) (x : Ctl) (s : State) : Out :=
  issue { x := x, minLat := 7, issuers := [.X], gdst := [d], enc := encode (.tapee d x)
          waits := fun cx s => (s.core cx.who.core).tapePhase != .held && !(s.core cx.who.core).tapeIdle }
    (fun cx s =>
      let c := cx.who.core
      let k := s.core c
      if k.tapeBegun.isNone || k.tapeEnded then .trap Trap.illegal
      else
        let (lat, s) := s.freeNat
        let at0 := s.cycle + 1 + Config.latency lat
        let (st, s) :=
          match k.tapePhase, k.iterTape with
          | .recording, some t => s.finishTape c t at0
          | .replaying, _ => (1, s)
          | .aborted, _ => (2, s)
          | .abandoned n, _ => (n, s)
          | _, _ => (0, s)
        let s := s.modCore c fun k => { k with tapeEnded := true, tapePhase := .finished, replayTape := none }
        .done (s.fly cx at0 false [.g d (BitVec.ofNat 64 st)]) .next true) s

/-- TGUARD (R362): KIND 0 reads no pair, so it waits for none. A 17th guard abandons the recording as GUARDS (R349). -/
def execTguard (d a : Reg) (x : Ctl) (s : State) : Out :=
  issue { x := x, issuers := [.X], gsrc := [d], enc := encode (.tguard d a x)
          waits := fun cx s => ((s.seq cx.who).rg d).getLsbD 8 &&
            [a, regNext a].any fun r => (s.core cx.who.core).gBusy cx.who.sq (!cx.exposed) r }
    (fun cx s =>
      let v := s.seq cx.who
      let w := v.rg d
      let c := cx.who.core
      let k := s.core c
      if w &&& ~~~0x11F#64 ≠ 0 then .trap Trap.illegal
      else
        match k.tapePhase, k.iterTape with
        | .recording, some t =>
          let tp := k.tapes.get t
          if tp.guards.length ≥ 16 then .done (s.abandon c 6) .next false
          else
            let g := if w.getLsbD 8 then (w, v.rg a, v.rg (regNext a)) else (w, k.pv.get (Fin.ofNat 32 (w.toNat % 32)), 0)
            let new := { tp with guards := tp.guards ++ [g] }
            if k.tapeUse - tp.bytes + new.bytes > tapeMemory then .done (s.abandon c 5) .next false
            else .done (s.modCore c fun k => { k with tapes := k.tapes.set t.val new t.isLt }) .next false
        | _, _ => .done s .next false) s

/-- TAPEINV (R364). -/
def execTapeinv (a : Reg) (x : Ctl) (s : State) : Out :=
  issue { x := x, issuers := [.X], gsrc := [a], enc := encode (.tapeinv a x) }
    (fun cx s =>
      let w := (s.seq cx.who).rg a
      if w.toNat / 65536 ≠ 0 then .trap Trap.illegal
      else .done ((List.finRange 16).foldl (fun s t => if w.getLsbD t.val then s.emptyTape cx.who.core t 7 else s) s)
        .next false) s

/-- TAPEQ (R365). -/
def execTapeq (d a : Reg) (x : Ctl) (s : State) : Out :=
  issue { x := x, minLat := 2, issuers := [.X], gsrc := [a], gdst := [d], enc := encode (.tapeq d a x) }
    (fun cx s =>
      let w := ((s.seq cx.who).rg a).toNat
      if w / 2 ^ 18 ≠ 0 then .trap Trap.illegal
      else
        let t := (s.core cx.who.core).tapes.get (Fin.ofNat 16 (w % 16))
        let off := 8 * (w / 16 % 2 ^ 14)
        let r := if t.st != .valid ∨ t.bytes ≤ off then 0 else ofBytes (((t.image (w % 16)).drop off).take 8)
        .land cx s [.g d (BitVec.ofNat 64 r)]) s

end Sys2Proof.Machine
end

