-- ==== Sys2Proof/Machine/Walker.lean ====
section
/-!
DEFINITION. The walker (04_parallel.md, R94 to R100): tuples, their indices and candidates, and which launch receives a free core
(R124, R381).
-/
namespace Sys2Proof.Machine

/-- The trip counts of the spatial levels, outer first, with whether each is a DIES level (R96). -/
def Launch.spatial (l : Launch) : List (Bool × Nat) :=
  l.levels.filterMap fun v => match v.1 with
    | .temporal => none
    | .cores => some (false, v.2)
    | .dies => some (true, v.2)

/-- The trip counts of the temporal levels (R98). -/
def Launch.temporal (l : Launch) : List Nat :=
  l.levels.filterMap fun v => match v.1 with
    | .temporal => some v.2
    | _ => none

/-- The product of trip counts. -/
def tripProduct (ts : List (Bool × Nat)) : Nat := ts.foldl (fun n t => n * t.2) 1

/-- The indices of tuple `n`: the first level varies slowest (R96). -/
def tupleIndices : List (Bool × Nat) → Nat → List Nat
  | [], _ => []
  | t :: ts, n => n / tripProduct ts % t.2 :: tupleIndices ts n

/-- k0 to k3 of tuple `n` (R96, R99). -/
def Launch.kvals (l : Launch) (n : Nat) : List Word :=
  match l.deal with
  | some base => [BitVec.ofNat 64 n, base + BitVec.ofNat 64 (64 * n), 0, 0]
  | none => ((tupleIndices l.spatial n).map (BitVec.ofNat 64) ++ [0, 0, 0, 0]).take 4

/-- The DIES indices of tuple `n` as one number, the first declared most significant; none without a DIES level (R97). -/
def Launch.diesNumber (l : Launch) (n : Nat) : Option Nat :=
  let ds := (l.spatial.zip (tupleIndices l.spatial n)).filter fun p => p.1.1
  if ds.isEmpty then none else some (ds.foldl (fun s p => s * p.1.2 + p.2) 0)

/-- The dies of a core set in ascending order. -/
def diesOf (cs : List CoreId) : List (Fin 4) := (List.finRange 4).filter fun d => cs.any fun c => dieOf c == d

/-- The candidates for tuple `n` (R97 point 1), in ascending order. -/
def Launch.candidates (l : Launch) (n : Nat) : List CoreId :=
  match l.diesNumber n with
  | none => l.coreset
  | some s =>
    let ds := diesOf l.coreset
    match ds[s % ds.length]? with
    | some d => l.coreset.filter fun c => dieOf c == d
    | none => []

/-- The candidates in the order of R97 point 2. -/
def Launch.searchOrder (l : Launch) (n : Nat) : List CoreId :=
  let cs := l.candidates n
  match l.lastCore with
  | none => cs
  | some p => (cs.filter fun c => decide (p.val < c.val)) ++ cs.filter fun c => decide (c.val ≤ p.val)

/-- Whether a core can be given an iteration: it runs none, and one that has a suspended iteration has only just been freed by its
pre-emption (R93, R381). -/
def Core.isFree (c : Core) : Bool := c.iter.isNone && c.suspended.all fun u => !u.given

/-- The core that a launch's next tuple chooses (R97); none where it waits or where nothing is to be handed out. -/
def State.choice (s : State) (l : Launch) : Option CoreId :=
  if l.ending.isSome || decide (l.count ≤ l.next) then none else (l.searchOrder l.next).find? fun c => (s.core c).isFree

/-- The order in which the active launches are offered a free core: that of their dispatch (R124), after the launch for which the
core was pre-empted (R381). -/
def State.offerOrder (s : State) (c : CoreId) : List Launch :=
  match (s.core c).suspended with
  | none => s.launches
  | some u => (s.launches.filter fun l => l.id == u.forLaunch) ++ s.launches.filter fun l => l.id != u.forLaunch

/-- The launch that receives a free core. -/
def State.receiver (s : State) (c : CoreId) : Option Nat :=
  ((s.offerOrder c).find? fun l => s.choice l == some c).map Launch.id

/-- Whether a launch is multi-wave (R100). -/
def Launch.needsWaves (l : Launch) : Bool :=
  if l.spatial.any Prod.fst then
    (diesOf l.coreset).any fun d =>
      decide ((l.coreset.filter fun c => dieOf c == d).length
        < ((List.range l.count).filter fun n => (l.candidates n).any fun c => dieOf c == d).length)
  else decide (l.coreset.length < l.count)

end Sys2Proof.Machine
end

