-- ==== Sys2Proof/Machine/Context.lean ====
section
/-!
DEFINITION. The context image (20_faults.md, R379 to R383), CTXSV, CTXRS, taking a pre-emption and resuming from one.
-/
namespace Sys2Proof.Machine

/-! ### Virtual memory accesses in bulk -/

/-- The physical addresses of sections at virtual addresses, for CORE writes: every section is translated before any is written. -/
def State.placeSections (s : State) (a : Actor) (c : CoreId) (ten : BitVec 8) (secs : List (Nat × List Byte)) :
    Except PageFault (List (Nat × Byte)) × State :=
  let step := fun (acc : Except PageFault (List (Nat × Byte)) × State) (sec : Nat × List Byte) =>
    match acc with
    | (.error f, s) => (.error f, s)
    | (.ok ws, s) =>
      match s.translateBytes a c ten Need.store sec.1 sec.2.length with
      | (.error f, s) => (.error f, s)
      | (.ok pas, s) => (.ok (ws ++ (pas.map Prod.fst).zip sec.2), s)
  secs.foldl step (.ok [], s)

/-- A core's CORE writes of an image: merged AMOs of their lines are sent first (R427 point 4). -/
def State.imageWrite (s : State) (a : Actor) (c : CoreId) (ws : List (Nat × Byte)) : State :=
  ((s.flushLines c (ws.map Prod.fst)).armPubs a).writePas a .plain ws

/-- Writes sections at virtual addresses as CORE writes: a sector that they cover becomes good, the bytes of any other poisoned sector
are lost (R388, R396). -/
def State.writeVa (s : State) (a : Actor) (c : CoreId) (ten : BitVec 8) (secs : List (Nat × List Byte)) :
    Except PageFault State × State :=
  match s.placeSections a c ten secs with
  | (.error f, s) => (.error f, s)
  | (.ok ws, s) => (.ok (s.imageWrite a c ws), s)

/-- Reads bytes at a virtual address as CORE reads: the bytes, and the address of the first byte that was poisoned. -/
def State.readVa (s : State) (a : Actor) (c : CoreId) (ten : BitVec 8) (va n : Nat) :
    Except PageFault (List Byte × Option Nat) × State :=
  match s.translateBytes a c ten Need.load va n with
  | (.error f, s) => (.error f, s)
  | (.ok pas, s) =>
    let s := s.armPubs a
    let (bs, s) := s.coreRead c (s.ordered a) (pas.map Prod.fst)
    (.ok (bs.map Prod.fst, (bs.findIdx? Prod.snd).map fun i => va + i), s)

/-! ### Masks (R43, R379) -/

/-- The combined mask (R379): CR, MK, TG, TQ and VG are ORed; SX is the largest. The fields that name a sequencer's own registers are
left out. -/
def combineMasks (ms : List (BitVec 32)) : BitVec 32 :=
  let o := ms.foldl (· ||| ·) 0
  let sx := ms.foldl (fun n m => max n (fld m 24 21)) 0
  (o &&& ~~~0x3E003FF#32) ||| BitVec.ofNat 32 (sx * 2 ^ 21)

/-- Whether a mask names general register `r` (GG). -/
def maskG (m : BitVec 32) (r : Nat) : Bool := m.getLsbD (r / 4)
/-- PD. -/
def maskP (m : BitVec 32) : Bool := m.getLsbD 8
/-- LC. -/
def maskLc (m : BitVec 32) : Bool := m.getLsbD 9
/-- TQ. -/
def maskTq (m : BitVec 32) : Bool := m.getLsbD 10
/-- TG. -/
def maskTg (m : BitVec 32) : Bool := m.getLsbD 11
/-- MK. -/
def maskMk (m : BitVec 32) : Bool := m.getLsbD 20
/-- FP. -/
def maskFp (m : BitVec 32) : Bool := m.getLsbD 25
/-- CR. -/
def maskCr (m : BitVec 32) : Bool := m.getLsbD 26

/-- The absolute rows that VG names (R43). -/
def maskRows (m : BitVec 32) (vwb : BitVec 32) : List Nat :=
  ((List.range 32).filter fun n => m.getLsbD (12 + n / 4)).map fun n => (vwb.toNat + n) % 128

/-- The bytes of scratchpad that SX names (R43). -/
def maskSpad (m : BitVec 32) : Nat := if fld m 24 21 = 0 then 0 else 2 ^ (fld m 24 21 + 9)

/-! ### Writing an image -/

/-- The architectural registers of a sequencer that an image holds. -/
structure SeqImage where
  g : Vector Word 32
  p : Vector Bool 8
  lc : Vector (BitVec 32) 3
  fpstat : BitVec 32
  blocks : List Block
  epc : Word
  ended : Bool
  replay : Bool
  mask : BitVec 32

/-- The 512 bytes of a sequencer block (R383). -/
def SeqImage.bytes (q : SeqImage) : List Byte :=
  let m := q.mask
  let blk := fun (d : Nat) =>
    match q.blocks.reverse[d]? with
    | none => toBytes 16 0
    | some b => toBytes 8 b.start.toNat ++ toBytes 2 ((b.stop.toNat - b.start.toNat) / 2)
        ++ toBytes 6 b.interlocked.toNat
  ((List.range 32).map fun r => toBytes 8 (if r ≠ 0 ∧ maskG m r then (q.g.toList.getD r 0).toNat else 0)).flatten
    ++ toBytes 8 q.epc.toNat
    ++ ((List.range 3).map fun d => toBytes 4 (if maskLc m then (q.lc.toList.getD d 0).toNat else 0)).flatten
    ++ toBytes 4 (if maskFp m then q.fpstat.toNat else 0)
    ++ [if maskP m then BitVec.ofNat 8 (1 + ((List.range 8).map fun j =>
          if j ≠ 0 ∧ q.p.toList.getD j false then 2 ^ j else 0).sum) else 0]
    ++ [BitVec.ofNat 8 q.blocks.length, BitVec.ofNat 8 (q.ended.toNat + 2 * q.replay.toNat), 0]
    ++ toBytes 4 m.toNat ++ blk 0 ++ blk 1 ++ blk 2 ++ toBytes 176 0

/-- The 2,048 bytes of the core block (R383); `gen` is the barrier generation that X awaits. -/
def Core.blockBytes (c : Core) (m : BitVec 32) (gen : Nat) : List Byte :=
  (c.h.toList.map fun w => toBytes 8 w.toNat).flatten ++ (c.k.toList.map fun w => toBytes 8 w.toNat).flatten
    ++ (c.pv.toList.map fun w => toBytes 8 w.toNat).flatten
    ++ ((List.finRange 8).map fun i => BitVec.ofNat 8 (if maskTq m then c.tokenCount i else 0))
    ++ toBytes 8 (if maskTg m then c.tags.toNat else 0)
    ++ (c.tstat.toList.map fun b => if maskTg m then b else 0)
    ++ toBytes 4 (if maskCr m then c.acct.toNat else 0) ++ toBytes 4 (if maskCr m then c.vwb.toNat else 0)
    ++ toBytes 4 c.mcr.toNat ++ toBytes 4 c.engerr.toNat ++ toBytes 8 c.engerrva.toNat ++ toBytes 8 c.rpstat.toNat
    ++ toBytes 8 c.rpnext.toNat ++ toBytes 8 c.trapvec.toNat ++ toBytes 4 gen ++ toBytes 4 0
    ++ toBytes 4 c.ntlocks.toNat ++ toBytes 4 c.htgen.toNat ++ toBytes 4 c.ntgen.toNat ++ toBytes 12 0
    ++ (c.m.toList.map fun v => toBytes 64 (if maskMk m then v.toNat else 0)).flatten ++ toBytes 1024 0

/-- The 256 bytes of the header (R382). -/
def imageHeader (flags : Nat) (cmask : BitVec 32) (nsnap ttid : Nat) (ten : BitVec 8) (core launch iter tapelen : Nat) :
    List Byte :=
  toBytes 4 0x58434C50 ++ toBytes 2 1 ++ toBytes 2 flags ++ toBytes 4 cmask.toNat ++ toBytes 2 nsnap
    ++ [BitVec.ofNat 8 ttid, ten] ++ toBytes 2 core ++ toBytes 6 0 ++ toBytes 8 launch ++ toBytes 8 iter ++ toBytes 4 tapelen
    ++ toBytes 212 0

/-- The sections of a core's context image (R382), with their offsets: `qs` the sequencers in ring order, `cmask` the combined
mask. -/
def Core.imageSections (c : Core) (me : CoreId) (it : Iter) (cmask : BitVec 32) (qs : List SeqImage) (preempt : Bool) :
    List (Nat × List Byte) :=
  let tape := c.replayTape
  let ttid := match tape, it.tape with
    | some _, some t => t.val
    | _, _ => 0xFF
  let tbytes := match tape with
    | some t => t.image ttid
    | none => []
  let flags := (!c.snap.isEmpty).toNat + tape.isSome.toNat * 2 + preempt.toNat * 4
  [(0, imageHeader flags cmask c.snap.length ttid it.ten me.val it.launch it.tuple tbytes.length),
    (0x100, (qs.map SeqImage.bytes).flatten),
    (0x900, c.blockBytes cmask (if c.barWaiting then c.barCount else 0)),
    (0x1100, (c.snap.map fun e => ((List.range 73).map fun k => toBytes 8 (e.dword k).toNat).flatten).flatten),
    (0x14000, (c.handles.toList.map fun h => toBytes 32 h.toNat).flatten),
    (0x16000, (c.nt.toList.map fun h => toBytes 16 h.toNat).flatten)]
    ++ ((maskRows cmask c.vwb).map fun n => (0x1A000 + 512 * n, toBytes 512 (c.row n).toNat))
    ++ [(0x2A000, tbytes), (0x4A000, (List.range (maskSpad cmask)).map fun i => cellsGet c.spad i)]

/-- The parts of a core's sequencers that an image holds: live (pre-emption), or X from XSAVE (CTXSV). -/
def Core.seqImages (c : Core) (masks : Sq → BitVec 32) (fromXsave : Bool) : List SeqImage :=
  ring.map fun q =>
    let v := c.seq q
    let replay := c.tapePhase == .replaying && q != .X
    if fromXsave && q == .X then
      { g := c.xsave.g, p := c.xsave.p, lc := c.xsave.lc, fpstat := c.xsave.fpstat, blocks := c.xsave.blocks
        epc := c.epc.get 0, ended := c.xsave.ended, replay := false, mask := masks q }
    else
      { g := v.g, p := v.p, lc := v.lc, fpstat := v.fpstat, blocks := v.blocks
        epc := if fromXsave then c.epc.get (Fin.ofNat 4 (sqIndex q)) else c.epcOf q
        ended := v.ended, replay := replay, mask := masks q }

/-- CTXSV (R388). -/
def execCtxsv (d a : Reg) (x : Ctl) (s : State) : Out :=
  issue { x := x, issuers := [.X], gsrc := [d, a], acc := [.core], illegal := fun cx s => !(s.core cx.who.core).inTrap
          enc := encode (.ctxsv d a x) }
    (fun cx s =>
      let v := s.seq cx.who
      let w := v.rg d
      let ga := (v.rg a).toNat
      let m := w.setWidth 32
      let c := cx.who.core
      if w.toNat / 2 ^ 32 ≠ 0 ∨ !maskWordOk m ∨ ga % 4096 ≠ 0 then .trap Trap.illegal
      else
        match (s.core c).iter with
        | none => .done s .next false
        | some it =>
          let k := s.core c
          let secs := k.imageSections c it m (k.seqImages (fun _ => m) true) false
          match s.writeVa (cx.actor s) c it.ten (secs.map fun p => (ga + p.1, p.2)) with
          | (.error f, s) => .fault s (Trap.page f)
          | (.ok s, _) => .done s .next false) s

/-! ### Reading an image -/

/-- An image's sections as they were read. -/
structure ImageData where
  head : List Byte
  seqs : List Byte
  core : List Byte
  snaps : List Byte
  handles : List Byte
  nt : List Byte
  rows : List (Nat × List Byte)
  tape : List Byte
  spad : List Byte

/-- A field of `n` bytes at offset `o`. -/
def at_ (bs : List Byte) (o n : Nat) : Nat := ofBytes ((bs.drop o).take n)

/-- A tape read back from its bytes (R350). -/
def parseTape (bs : List Byte) : Tape :=
  let ng := at_ bs 4 1
  let nr := at_ bs 5 1
  let np := at_ bs 6 2
  let ne := at_ bs 8 4
  let o1 := 256 + 16 * nr
  let o2 := o1 + 24 * ng
  let o3 := (o2 + 4 * np + 7) / 8 * 8
  let rec entries : Nat → Nat → List TapeEntry
    | 0, _ => []
    | n + 1, o =>
      let b := at_ bs (o + 4) 1
      let k := b / 16 % 8
      { w := BitVec.ofNat 32 (at_ bs o 4), stream := sqOfIndex b, marker := b / 4 % 2 == 1, interlocked := b / 8 % 2 == 1
        ops := (List.range k).map fun i => BitVec.ofNat 64 (at_ bs (o + 8 + 8 * i) 8) } :: entries n (o + 8 + 8 * k)
  { st := .valid, ten := BitVec.ofNat 8 (at_ bs 2 1), kread := at_ bs 3 1 % 2 == 1
    guards := (List.range ng).map fun i => (BitVec.ofNat 64 (at_ bs (o1 + 24 * i) 8), BitVec.ofNat 64 (at_ bs (o1 + 24 * i + 8) 8),
      BitVec.ofNat 64 (at_ bs (o1 + 24 * i + 16) 8))
    ranges := (List.range nr).map fun i => (at_ bs (256 + 16 * i) 8, at_ bs (256 + 16 * i + 8) 4)
    patches := (List.range np).map fun i =>
      let w := at_ bs (o2 + 4 * i) 4
      { entry := w % 2 ^ 20, pos := w / 2 ^ 20 % 4, pv := Fin.ofNat 32 (w / 2 ^ 22) }
    entries := entries ne o3
    htgen := BitVec.ofNat 32 (at_ bs 16 4), ntgen := BitVec.ofNat 32 (at_ bs 20 4), ntlocks := BitVec.ofNat 16 (at_ bs 24 2)
    acct := BitVec.ofNat 32 (at_ bs 28 4), cores := at_ bs 32 4, energy := at_ bs 40 8, dur := at_ bs 48 8
    looptab := (bs.drop 64).take 64
    kval := (List.range 4).map fun i => BitVec.ofNat 64 (at_ bs (128 + 8 * i) 8)
    ent := (List.range 3).map fun i => BitVec.ofNat 64 (at_ bs (160 + 8 * i) 8)
    ext := (List.range 3).map fun i => at_ bs (184 + 4 * i) 4 }

/-- The status of an image's header for the stopped iteration (R389): 1 and 2, or 0. -/
def headStatus (h : List Byte) (me : CoreId) (it : Iter) : Nat :=
  let reserved := at_ h 18 6 ≠ 0 ∨ at_ h 44 212 ≠ 0 ∨ at_ h 6 2 ≥ 8 ∨ !maskWordOk (BitVec.ofNat 32 (at_ h 8 4))
  if at_ h 0 4 ≠ 0x58434C50 ∨ at_ h 4 2 ≠ 1 ∨ reserved ∨ at_ h 12 2 > 128 then 1
  else if at_ h 15 1 ≠ it.ten.toNat ∨ at_ h 16 2 ≠ me.val ∨ at_ h 24 8 ≠ it.launch then 2
  else 0

/-- Whether a reserved field of a sequencer block is not zero (R7, R383): unassigned bytes, the mask word, FPSTAT. -/
def seqReserved (b : List Byte) : Bool :=
  let blk := fun (d : Nat) => at_ b (288 + 16 * d + 10) 1 / 2 ≠ 0 ∨ at_ b (288 + 16 * d + 11) 5 ≠ 0
  !maskWordOk (BitVec.ofNat 32 (at_ b 284 4)) || decide (at_ b 276 4 / 64 ≠ 0 ∨ at_ b 281 1 > 3 ∨ at_ b 282 1 / 4 ≠ 0 ∨ at_ b 283 1 ≠ 0
    ∨ at_ b 336 176 ≠ 0 ∨ blk 0 ∨ blk 1 ∨ blk 2)

/-- Whether a reserved field of the core block is not zero (R7, R383): unassigned bytes and the reserved bits of the registers
that it holds (R153, R181, R257, R288, R342, R360). -/
def coreReserved (b : List Byte) : Bool :=
  decide (at_ b 484 4 ≠ 0 ∨ at_ b 500 12 ≠ 0 ∨ at_ b 1024 1024 ≠ 0 ∨ at_ b 432 4 / 8 ≠ 0 ∨ at_ b 436 4 / 128 ≠ 0)
    || BitVec.ofNat 32 (at_ b 440 4) &&& 0xFFFF8080 != 0 || BitVec.ofNat 32 (at_ b 444 4) &&& 0x7FFF00C0 != 0
    || BitVec.ofNat 64 (at_ b 456 8) &&& 0xFFFFF00000F00000 != 0 || decide (at_ b 464 8 / 2 ^ 60 ≠ 0) || decide (at_ b 488 4 / 65536 ≠ 0)
    || (List.range 8).any fun i => decide (63 < at_ b (352 + i) 1)

/-- Whether a reserved field of the sections of an image is not zero (R7, R371, R383). -/
def ImageData.reserved (im : ImageData) : Bool :=
  (List.range 4).any (fun i => seqReserved ((im.seqs.drop (512 * i)).take 512)) || coreReserved im.core
    || (List.range (im.snaps.length / 584)).any fun i =>
      let h := at_ im.snaps (584 * i) 8
      decide (h / 2 ^ 25 ≠ 0 ∨ h / 16 % 4 ≠ 0)

/-- The status of an image for the stopped iteration (R389): 0 when it may be restored. A reserved field of a section gives 1 as one
of the header does (R7, log entry 77). -/
def imageStatus (im : ImageData) (me : CoreId) (it : Iter) (ntlocks : BitVec 32) : Nat :=
  if headStatus im.head me it ≠ 0 then headStatus im.head me it
  else if at_ im.core 488 4 ≠ ntlocks.toNat then 3
  else if im.reserved then 1
  else 0

/-- A snapshot entry read back (R371); an image does not say whether its readers wait, so they do (log entry 23). -/
def parseSnap (bs : List Byte) (know : Sq → Know) : SnapEntry :=
  let h := at_ bs 0 8
  let reg := h / 2 ^ 10 % 128
  let q := sqOfIndex (h / 64)
  { sq := q
    dest := match h / 256 % 4 with
      | 0 => if reg % 32 = 0 then .none else .g (Fin.ofNat 32 reg)
      | 1 => if reg % 8 = 0 then .none else .p (Fin.ofNat 8 reg)
      | 2 => .row (Fin.ofNat 128 reg)
      | _ => .mask (Fin.ofNat 8 reg)
    value := BitVec.ofNat 4096 (at_ bs 72 512), en := BitVec.ofNat 512 (at_ bs 8 64)
    flags := BitVec.ofNat 6 (h / 2 ^ 17), pushF := h / 2 ^ 23 % 2 == 1, pushB := h / 2 ^ 24 % 2 == 1
    know := know q, waits := true, ins := 0, off := max 1 (h % 16) }

/-- Gives the loop buffer to the outermost block that repeats (R24): `bs` are the blocks from depth `d` inward. -/
def withBuffer (lc : Vector (BitVec 32) 3) : Nat → List Block → List Block
  | _, [] => []
  | d, b :: bs => if 1 < (lc.toList.getD d 0).toNat then { b with buf := some [] } :: bs else b :: withBuffer lc (d + 1) bs

/-- The even address in 8 bytes of an image: bit 0 of a pc is always 0 (R10). -/
def evenAt (b : List Byte) (o : Nat) : Word := BitVec.ofNat 64 (at_ b o 8) &&& ~~~1#64

/-- Restores the parts of a sequencer that its mask word names, and its blocks (R383); nothing of its code has been fetched. -/
def restoreSeq (v : Seq) (b : List Byte) : Seq :=
  let m := BitVec.ofNat 32 (at_ b 284 4)
  let n := min (at_ b 281 1) 3
  let lc := Vector.ofFn fun (d : Fin 3) => if maskLc m then BitVec.ofNat 32 (at_ b (264 + 4 * d.val) 4) else v.lc.get d
  { v with
    g := Vector.ofFn fun r => if r.val ≠ 0 ∧ maskG m r.val then BitVec.ofNat 64 (at_ b (8 * r.val) 8) else v.g.get r
    p := Vector.ofFn fun r => if r.val ≠ 0 ∧ maskP m then at_ b 280 1 / 2 ^ r.val % 2 == 1 else v.p.get r
    lc := lc
    fpstat := if maskFp m then BitVec.ofNat 32 (at_ b 276 4) else v.fpstat
    blocks := (withBuffer lc 0 ((List.range n).map fun d =>
      let st := evenAt b (288 + 16 * d)
      { start := st, stop := st + 2 * BitVec.ofNat 64 (at_ b (296 + 16 * d) 2)
        interlocked := at_ b (298 + 16 * d) 1 % 2 == 1, buf := none : Block })).reverse
    ended := at_ b 282 1 % 2 == 1 }

/-- Restores the core's own state from an image (R379, R383, R389); what the mask does not name is left. -/
def Core.restoreCore (c : Core) (im : ImageData) : Core :=
  let m := BitVec.ofNat 32 (at_ im.head 8 4)
  let cb := im.core
  let know := fun q => (c.seq q).know
  let c := { c with
    h := Vector.ofFn fun i => BitVec.ofNat 64 (at_ cb (8 * i.val) 8)
    k := Vector.ofFn fun i => BitVec.ofNat 64 (at_ cb (64 + 8 * i.val) 8)
    pv := Vector.ofFn fun i => BitVec.ofNat 64 (at_ cb (96 + 8 * i.val) 8)
    tokens := if maskTq m then Vector.ofFn fun i =>
        let n := at_ cb (352 + i.val) 1
        let old := c.tokens.get i
        if old.length = n then old else List.replicate n Know.none
      else c.tokens
    tags := if maskTg m then BitVec.ofNat 64 (at_ cb 360 8) else c.tags
    tstat := if maskTg m then Vector.ofFn fun i => BitVec.ofNat 8 (at_ cb (368 + i.val) 1) else c.tstat
    acct := if maskCr m then BitVec.ofNat 32 (at_ cb 432 4) else c.acct
    vwb := if maskCr m then BitVec.ofNat 32 (at_ cb 436 4) else c.vwb
    mcr := BitVec.ofNat 32 (at_ cb 440 4), engerr := BitVec.ofNat 32 (at_ cb 444 4)
    engerrva := BitVec.ofNat 64 (at_ cb 448 8), rpstat := BitVec.ofNat 64 (at_ cb 456 8)
    rpnext := BitVec.ofNat 64 (at_ cb 464 8), trapvec := evenAt cb 472
    barWaiting := at_ cb 480 4 != 0
    barCount := if at_ cb 480 4 = 0 then c.barCount else at_ cb 480 4
    ntlocks := BitVec.ofNat 32 (at_ cb 488 4), htgen := BitVec.ofNat 32 (at_ cb 492 4), ntgen := BitVec.ofNat 32 (at_ cb 496 4)
    m := if maskMk m then Vector.ofFn fun i => BitVec.ofNat 512 (at_ cb (512 + 64 * i.val) 64) else c.m
    handles := Vector.ofFn fun i => BitVec.ofNat 256 (at_ im.handles (32 * i.val) 32)
    nt := Vector.ofFn fun i => BitVec.ofNat 128 (at_ im.nt (16 * i.val) 16)
    snap := (List.range (at_ im.head 12 2)).map fun i => parseSnap ((im.snaps.drop (584 * i)).take 584) know }
  let c := im.rows.foldl (fun c r => c.setRow (Fin.ofNat 128 r.1) (BitVec.ofNat 4096 (ofBytes r.2)) (BitVec.allOnes 512)) c
  { c with spad := (List.range im.spad.length).foldl (fun cs i => cellsPut cs i (im.spad.getD i 0)) c.spad }

/-- Reads the sections of an image that its header names, with the first poisoned address of each section that meets poison. `vwb` is
the VWB in force at the safe point where the image does not hold it (R43, log entry 78). -/
def State.readImage (s : State) (a : Actor) (c : CoreId) (ten : BitVec 8) (ga : Nat) (head : List Byte) (vwb : BitVec 32) :
    Except PageFault (ImageData × List Nat) × State :=
  let m := BitVec.ofNat 32 (at_ head 8 4)
  let step := fun (acc : Except PageFault (List (List Byte) × List Nat) × State) (sec : Nat × Nat) =>
    match acc with
    | (.error f, s) => (.error f, s)
    | (.ok (got, bad), s) =>
      match s.readVa a c ten (ga + sec.1) sec.2 with
      | (.error f, s) => (.error f, s)
      | (.ok (bs, p), s) => (.ok (got ++ [bs], bad ++ p.toList), s)
  let tl := if at_ head 6 2 / 2 % 2 = 1 then min (at_ head 40 4) 131072 else 0
  let fixed := [(0x100, 2048), (0x900, 2048), (0x1100, 584 * min (at_ head 12 2) 128), (0x14000, 8192), (0x16000, 16384),
    (0x2A000, tl), (0x4A000, maskSpad m)]
  match fixed.foldl step (.ok ([], []), s) with
  | (.error f, s) => (.error f, s)
  | (.ok (got, bad), s) =>
    let rows := maskRows m (if maskCr m then BitVec.ofNat 32 (at_ (got.getD 1 []) 436 4) else vwb)
    match (rows.map fun n => (0x1A000 + 512 * n, 512)).foldl step (.ok ([], bad), s) with
    | (.error f, s) => (.error f, s)
    | (.ok (rs, bad), s) =>
      (.ok ({ head := head, seqs := got.getD 0 [], core := got.getD 1 [], snaps := got.getD 2 [], handles := got.getD 3 []
              nt := got.getD 4 [], tape := got.getD 5 [], spad := got.getD 6 [], rows := rows.zip rs }, bad), s)

/-- The sequencer block of ring position `i` of an image. -/
def ImageData.seqBytes (im : ImageData) (i : Nat) : List Byte := (im.seqs.drop (512 * i)).take 512

/-- Delivers the status of CTXRS. -/
def Act.status (cx : Cx) (s : State) (d : Reg) (st : Nat) : Act :=
  let (lat, s) := s.freeNat
  .done (s.fly cx (s.cycle + 1 + Config.latency lat) false [.g d (BitVec.ofNat 64 st)]) .next true

/-- What CTXRS makes of a core in trap mode from an image (R389): X's state goes to XSAVE. -/
def Core.restored (k : Core) (im : ImageData) : Core :=
  let withTape := at_ im.head 6 2 / 2 % 2 == 1
  let k := k.restoreCore im
  let x := restoreSeq { k.sX with g := k.xsave.g, p := k.xsave.p, lc := k.xsave.lc, fpstat := k.xsave.fpstat } (im.seqBytes 0)
  let k := { k with
    xsave := { g := x.g, p := x.p, lc := x.lc, fpstat := x.fpstat, blocks := x.blocks, ended := x.ended }
    epc := Vector.ofFn fun i => evenAt (im.seqBytes i.val) 256
    replayTape := if withTape then some (parseTape im.tape) else k.replayTape
    tapePhase := if withTape then .replaying else if k.tapePhase == TapePhase.replaying then .finished else k.tapePhase }
  k.modSeqs fun q v => if q == Sq.X then v else restoreSeq v (im.seqBytes (sqIndex q))

/-- CTXRS (R389): restores an image into the stopped core, so that RTE resumes the image's state. The header is read and tested before
the other sections. -/
def execCtxrs (d a : Reg) (x : Ctl) (s : State) : Out :=
  issue { x := x, minLat := 7, issuers := [.X], gsrc := [a], gdst := [d], acc := [.core]
          illegal := fun cx s => !(s.core cx.who.core).inTrap, enc := encode (.ctxrs d a x) }
    (fun cx s =>
      let c := cx.who.core
      let ga := ((s.seq cx.who).rg a).toNat
      let act := cx.actor s
      let note := fun (s : State) (vas : List Nat) => s.modCore c fun k => vas.foldl (fun k va => k.derrRecord 1 va) k
      if ga % 4096 ≠ 0 then .trap Trap.illegal
      else
        match (s.core c).iter with
        | none => .done s .next false
        | some it =>
          match s.readVa act c it.ten ga 256 with
          | (.error f, s) => .fault s (Trap.page f)
          | (.ok (head, p), s) =>
            let s := note s p.toList
            if headStatus head c it ≠ 0 then .status cx s d (headStatus head c it)
            else
              match s.readImage act c it.ten ga head (s.core c).vwb with
              | (.error f, s) => .fault s (Trap.page f)
              | (.ok (im, ps), s) =>
                let s := note s ps
                let st := imageStatus im c it (s.core c).ntlocks
                if st ≠ 0 then .status cx s d st
                else
                  let withTape := at_ head 6 2 / 2 % 2 == 1
                  let s := if withTape then (List.finRange 16).foldl (fun s t => s.emptyTape c t 7) s else s
                  .status cx (s.modCore c fun k => k.restored im) d 0) s

/-! ### Pre-emption (R376 to R381) -/

/-- The virtual address of a core's context slot (R408): the slot of its rank among the tenancy's cores. -/
def State.slotOf (s : State) (ten : BitVec 8) (c : CoreId) : Nat :=
  let t := s.tens.get ten.toFin
  t.ctxbase.toNat + 0x44A000 * ((List.range c.val).filter fun i => t.cores.getLsbD i).length

/-- Whether a sequencer has stopped for a pending request (R377): its stream or replay stream has ended, or the last instruction
or entry that it issued had S = 1. -/
def Core.stoppedFor (c : Core) (q : Sq) : Bool := (c.seq q).ended || (c.seq q).lastSafe.isSome

/-- Whether a pending pre-emption may be taken (R368, R377, R378). -/
def Core.mayPreempt (c : Core) : Bool :=
  c.preempt.isSome && ring.all c.stoppedFor && !c.inTrap && c.stop.isNone && !c.replayFault
    && !(ring.all (fun q => (c.seq q).ended) && c.flights.isEmpty && c.snap.isEmpty && c.cmds.isEmpty && c.matWrites.isEmpty)

/-- The state of an iteration that a core forgets when it is freed. -/
def Core.clearIteration (c : Core) : Core :=
  { (c.modSeqs fun _ v =>
      { v with ended := true, blocks := [], since := none, wait := .none, hold := [], unacked := [], lastSafe := none, refetch := false }) with
    iter := none, preempt := none, stop := none, flights := [], snap := [], rising := [], hLate := [], replayTape := none
    tapePhase := .free, tapeBegun := none, tapeEnded := false, barWaiting := false, barCount := 0, gang := none
    gangCount := 0, replayFault := false, tokens := Vector.replicate 8 [] }

/-- The accesses of an iteration since it began or was last resumed. -/
def Iter.spans (it : Iter) (c : CoreId) (now : Nat) : List Span :=
  allClasses.map fun k => { src := none, cls := k, lo := it.since, hi := now, cores := some (1#256 <<< c.val) }

/-- PREEMPT_TAKE (R378, R379, R381): when every sequencer has stopped and the core has drained, the results in flight enter the
snapshot buffer, the context image is written to the core's slot and the core is freed. A write that faults or meets a
poisoned sector withdraws the request and the core resumes at once. -/
def execPreemptTake (c : CoreId) (s : State) : Out :=
  let k := s.core c
  match k.iter with
  | none => .next s
  | some it =>
    match k.preempt.bind PreReq.capture with
    | none => .next s
    | some t =>
    if !(k.mayPreempt && k.drained && k.rising.isEmpty && k.hLate.isEmpty) then .next s
    else
      let s := s.flushCore c
      let s := s.capture c t
      let k := s.core c
      let masks := fun q => if (k.seq q).ended then 0 else (k.seq q).lastSafe.getD 0
      let cmask := combineMasks (ring.map masks)
      let slot := s.slotOf it.ten c
      let secs := k.imageSections c it cmask (k.seqImages masks false) true
      let a : Actor := { who := some { core := c, sq := .X }, cls := .core, stamp := s.stamp, know := k.sX.know }
      let keep := fun (s : State) => (s.modCore c fun k => { k with preempt := none, resumeAt := s.cycle + 1 })
      let withdraw := fun (s : State) =>
        Host.Outcome.next { keep s with fe := { s.fe with preWithdrawn := s.fe.preWithdrawn + 1 } }
      match s.placeSections a c it.ten (secs.map fun p => (slot + p.1, p.2)) with
      | (.error _, s) => withdraw s
      | (.ok ws, s) =>
        let (seen, s) := s.checkSectors (sectorsOf (ws.filterMap fun w => s.placeOf w.1))
        if !(badOf seen).isEmpty then withdraw s
        else
        let s := (s.imageWrite a c ws).abandon c 8
        let s := { s with fe := { s.fe with preempts := s.fe.preempts + 1 } }
        let s := s.modLaunch it.launch fun l => { l with past := l.past ++ it.spans c s.stamp }
        .next (s.modCore c fun k =>
          { k.clearIteration with
            ntlocks := 0, ntrefs := []
            suspended := some { iter := it, forLaunch := (k.preempt.map PreReq.launch).getD 0, given := false
                                tapePhase := k.tapePhase, tapeBegun := k.tapeBegun, tapeEnded := k.tapeEnded
                                barCount := k.barCount, gangCount := k.gangCount, arb := k.arb, vwb := k.vwb, ntlocks := k.ntlocks
                                ntrefs := k.ntrefs, tokens := k.tokens
                                seqs := ring.map fun q => ((k.seq q).unacked, (k.seq q).know, (k.seq q).eventLatch) } })

/-- PREEMPT_WITHDRAW (R378): a request that has not been taken within 2^20 cycles; the cycles since the capture cycle do not count for
results in flight (R370). -/
def execPreemptWithdraw (c : CoreId) (s : State) : Out :=
  match (s.core c).preempt with
  | none => .next s
  | some p =>
    if s.cycle < p.cycle + 2 ^ 20 then .next s
    else
      let s := match p.capture with
        | none => s
        | some t => (s.capture c t).modCore c fun k => { k with resumeAt := s.cycle + 1 }
      let s := s.modCore c fun k => { k with preempt := none }
      .next { s with fe := { s.fe with preWithdrawn := s.fe.preWithdrawn + 1 } }

/-- A core whose registers, rows, masks, counts, tags and scratchpad are zero (R380), but the registers that an image always
holds. -/
def Core.zeroed (c : Core) : Core :=
  { (c.modSeqs fun _ v =>
      { v with g := Vector.replicate 32 0, p := Vector.replicate 8 false, lc := Vector.replicate 3 0, fpstat := 0 }) with
    acc := Vector.replicate 128 0, m := Vector.replicate 8 0, tokens := Vector.replicate 8 [], tags := 0
    tstat := Vector.replicate 64 0, spad := [], spadBad := [], accBad := [], spadHist := [], acct := 0, vwb := 0
    derr := 0, derrva := 0, bferr := 0, tapemiss := 0, trapcause := 0, trapva := 0 }

/-- ITERATION_RESUME (R380, R381): the image is restored as by CTXRS and the core resumes, with a cold matrix engine (log entry 79),
unless the core has just been freed and a launch takes it; an image that cannot be restored ends the iteration, and its launch with
CTXLOST. -/
def execIterationResume (c : CoreId) (s : State) : Out :=
  let k := s.core c
  match k.suspended with
  | none => .next s
  | some su =>
    if k.iter.isSome || (!su.given && (s.receiver c).isSome) then .next s
    else
      let it := { su.iter with since := s.stamp }
      let s := (s.unlockAll c).modCore c fun k => { k with ntlocks := su.ntlocks, ntrefs := su.ntrefs }
      let ents := (s.launches.find? fun l => l.id == it.launch).elim ([], []) fun l => (l.ent, l.ext)
      let slot := s.slotOf it.ten c
      let a : Actor := { who := none, cls := .core, stamp := s.stamp, know := Know.none }
      let lost := fun (s : State) =>
        let s := s.modCore c fun k => { k with suspended := none, iter := some it, lastLaunch := some it.launch }
        Host.Outcome.next (s.endIteration c statusCtxlost 0 (BitVec.ofNat 64 slot))
      match s.readVa a c it.ten slot 256 with
      | (.error _, s) => lost s
      | (.ok (head, p0), s) =>
        match s.readImage a c it.ten slot head su.vwb with
        | (.error _, s) => lost s
        | (.ok (im, p1), s) =>
          if p0.isSome || !p1.isEmpty || imageStatus im c it su.ntlocks != 0 then lost s
          else
            .next (s.modCore c fun k =>
              let k := { k.zeroed with tokens := su.tokens }
              let k := { k with tokens := if maskTq (BitVec.ofNat 32 (at_ head 8 4)) then k.tokens else Vector.replicate 8 [] }
              let k := k.restoreCore im
              let withTape := at_ head 6 2 / 2 % 2 == 1
              let k := { k with
                iter := some it, suspended := none, lastLaunch := some it.launch, tapePhase := su.tapePhase
                tapeBegun := su.tapeBegun, tapeEnded := su.tapeEnded
                barCount := su.barCount, gangCount := su.gangCount, arb := su.arb, replayTape := if withTape then some (parseTape im.tape) else none
                resumeAt := s.cycle + 1, ramp := .cold }
              k.modSeqs fun q v =>
                let b := im.seqBytes (sqIndex q)
                let (un, kn, ev) := su.seqs.getD (sqIndex q) ([], Know.none, false)
                let v := restoreSeq v b
                { v with pc := evenAt b 256, entry := ents.1.getD (sqIndex q) 0, extent := ents.2.getD (sqIndex q) 0
                         lastSafe := if v.ended then none else some (BitVec.ofNat 32 (at_ b 284 4)), unacked := un, know := kn, eventLatch := ev
                         discard := s.mem.writes, refetch := false, since := none, wait := .none, tried := 0 })

end Sys2Proof.Machine
end

