-- ==== Sys2Proof/Machine/Control.lean ====
section
/-!
DEFINITION. Control flow (03_scalar.md, 01_sequencer.md): blocks, branches, calls, LCUT, and the scalar scratchpad accesses.
-/
namespace Sys2Proof.Machine

/-! ### Branches -/

/-- A branch target relative to the instruction (R37): parcels. The sum wraps modulo 2^64 (DESIGN CHOICE: no rule says what an exact sum
outside the 64-bit range names; log entry 86). -/
def target {n : Nat} (own : Word) (o : BitVec n) : Word := own + 2 * o.signExtend 64

/-- A taken branch (R17, R23, R86): its results, if any, land without its push, which completes in the issue cycle. -/
def Act.branch (cx : Cx) (s : State) (t : Word) (stays : Bool) (rs : List Result) : Act :=
  if s.branchOk cx t stays then
    .done (s.fly { cx with x := { cx.x with sf := false, sb := false } } 0 false rs) (.jump t) false
  else .trap Trap.illegal

/-- A branch to a register's value (R72): bit 0 set takes ILLEGAL. -/
def Act.branchReg (cx : Cx) (s : State) (t : Word) (stays : Bool) (rs : List Result) : Act :=
  if t.getLsbD 0 then .trap Trap.illegal else .branch cx s t stays rs

/-- A conditional branch (R70): taken when the predicate differs from `n`. -/
def condBranch (i : Instr) (x : Ctl) (p : PReg) (n : Bool) (own2 : Word → Word) (s : State) : Out :=
  issue { x := x, psrc := [p], pflow := [p], enc := encode i }
    (fun cx s => if (s.seq cx.who).rp p != n then .branch cx s (own2 cx.own) true [] else .done s .next false) s

/-- BT (R70). -/
def execBt (p : PReg) (o : BitVec 13) (x : Ctl) (s : State) : Out :=
  condBranch (.bt p o x) x p false (fun own => target own o) s

/-- BF (R70). -/
def execBf (p : PReg) (o : BitVec 13) (x : Ctl) (s : State) : Out :=
  condBranch (.bf p o x) x p true (fun own => target own o) s

/-- J (R71). -/
def execJ (o : BitVec 17) (x : Ctl) (s : State) : Out :=
  issue { x := x, enc := encode (.j o x) } (fun cx s => .branch cx s (target cx.own o) true []) s

/-- CALL (R71): g31 receives the next address. -/
def execCall (o : BitVec 17) (x : Ctl) (s : State) : Out :=
  issue { x := x, gdst := [31], enc := encode (.call o x) }
    (fun cx s => .branch cx s (target cx.own o) false [.g 31 cx.next]) s

/-- JR (R72). -/
def execJr (a : Reg) (x : Ctl) (s : State) : Out :=
  issue { x := x, gsrc := [a], gflow := [a], enc := encode (.jr a x) }
    (fun cx s => .branchReg cx s ((s.seq cx.who).rg a) true []) s

/-- CALLR (R72). -/
def execCallr (d a : Reg) (x : Ctl) (s : State) : Out :=
  issue { x := x, gsrc := [a], gflow := [a], gdst := [d], enc := encode (.callr d a x) }
    (fun cx s => .branchReg cx s ((s.seq cx.who).rg a) false [.g d cx.next]) s

/-- RET (R72). -/
def execRet (a : Reg) (x : Ctl) (s : State) : Out :=
  issue { x := x, gsrc := [a], gflow := [a], enc := encode (.ret a x) }
    (fun cx s => .branchReg cx s ((s.seq cx.who).rg a) true []) s

/-- C.BR (R39). -/
def execCBr (o : BitVec 11) (s : State) : Out :=
  issue { short := true } (fun cx s => .branch cx s (target cx.own o) true []) s

/-- A 16-bit conditional branch (R39). -/
def condBranch16 (p : PReg) (n : Bool) (o : BitVec 8) (s : State) : Out :=
  issue { short := true, psrc := [p], pflow := [p] }
    (fun cx s => if (s.seq cx.who).rp p != n then .branch cx s (target cx.own o) true [] else .done s .next false) s

/-- C.BT (R39). -/
def execCBt (p : PReg) (o : BitVec 8) (s : State) : Out := condBranch16 p false o s

/-- C.BF (R39). -/
def execCBf (p : PReg) (o : BitVec 8) (s : State) : Out := condBranch16 p true o s

/-! ### Blocks -/

/-- BLK (R18, R19, R24): the outermost block that repeats gets the loop buffer. -/
def execBlk (i : Bool) (r : BitVec 7) (n : BitVec 9) (s : State) : Out :=
  let d := (s.seq s.turn).blocks.length
  issue { lflow := if r = 0 then [d] else [], enc := encode (.blk i r n) }
    (fun cx s =>
      let v := s.seq cx.who
      if v.blocks.length ≥ 3 then .trap Trap.illegal
      else
        let v := if r = 0 then v else (v.setLc d (r.setWidth 32)).setLcclass d .clean
        let start := cx.own + 4
        let stop := start + 2 * BitVec.ofNat 64 (n.toNat + 1)
        if v.rlc d = 0 then .done (s.modSeq cx.who fun _ => v) (.reach stop) false
        else
          let buffered := decide (1 < (v.rlc d).toNat) && v.blocks.all fun b => b.buf.isNone
          let b : Block := { start := start, stop := stop, interlocked := i, buf := if buffered then some [] else none }
          .done (s.modSeq cx.who fun _ => { v with blocks := b :: v.blocks, pc := start }) .set false) s

/-- Ends the innermost active block (R22): its count becomes 0, and CLEAN (R348), and control
reaches its end. -/
def endInnermost (s : State) (w : Who) : Option (State × Word) :=
  match (s.seq w).blocks with
  | [] => none
  | b :: bs => some (s.modSeq w fun v => { (v.setLc bs.length 0).setLcclass bs.length .clean with blocks := bs }, b.stop)

/-- BRK (R22, R75). -/
def execBrk (x : Ctl) (s : State) : Out :=
  issue { x := x, enc := encode (.brk x) }
    (fun cx s =>
      match endInnermost s cx.who with
      | none => .trap Trap.illegal
      | some (s, e) => .done s (.reach e) false) s

/-- LCUT (R76): the commands of the sequencer that no engine has started complete as CANCELLED; then the innermost block ends. -/
def execLcut (x : Ctl) (s : State) : Out :=
  issue { x := x, tape := .abandon, enc := encode (.lcut x) }
    (fun cx s =>
      let cut := (s.core cx.who.core).cmds.filter fun k => k.sq == cx.who.sq && k.phase == .queued
      let s := s.modCore cx.who.core fun c => cut.foldl (fun c k => c.completeCmd cx.who.core s.cycle k codeCancelled 0 0 0) c
      match endInnermost s cx.who with
      | none => .done s .next false
      | some (s, e) => .done s (.reach e) false) s

/-! ### Scalar scratchpad accesses (R14, R79) -/

/-- The effective address of a format-M access: the exact sum (R14). -/
def spadEa (v : Seq) (a : Reg) (z : Sz) (o : BitVec 5) : Nat := (v.rg a).toNat + o.toNat * 2 ^ z.code

/-- The scratchpad load of SLD and SLDS; `sgn` extends the sign. -/
def spadScalarLoad (i : Instr) (x : Ctl) (sgn : Bool) (d a : Reg) (z : Sz) (o : BitVec 5) (s : State) : Out :=
  issue { x := x, minLat := 2, gsrc := [a], gdst := [d], cls := .varying, enc := encode i
          waits := fun cx s => (s.core cx.who.core).cmdHolds cx.who.sq (spadEa (s.seq cx.who) a z o) (2 ^ z.code) }
    (fun cx s =>
      let ea := spadEa (s.seq cx.who) a z o
      let n := 2 ^ z.code
      if ea ≥ 2 ^ 22 ∨ ea % n ≠ 0 then .trap (Trap.spaddr ea)
      else
        let (bs, bad, s) := s.spadLoad cx.who.core (cx.actor s) ea n
        let s := if bad then s.modCore cx.who.core fun c => c.derrRecord 2 ea else s
        let v := ofBytes bs
        .land cx s [.g d (if sgn then BitVec.ofInt 64 (sextNat (8 * n) v) else BitVec.ofNat 64 v)]) s

/-- SLD (R79). -/
def execSld (d a : Reg) (z : Sz) (o : BitVec 5) (x : Ctl) (s : State) : Out :=
  spadScalarLoad (.sld d a z o x) x false d a z o s

/-- SLDS (R79). -/
def execSlds (d a : Reg) (z : Sz) (o : BitVec 5) (x : Ctl) (s : State) : Out :=
  spadScalarLoad (.slds d a z o x) x true d a z o s

/-- SST (R79): the write is performed in the issue cycle (R84). -/
def execSst (d a : Reg) (z : Sz) (o : BitVec 5) (x : Ctl) (s : State) : Out :=
  issue { x := x, gsrc := [d, a], tape := .abandon, enc := encode (.sst d a z o x)
          waits := fun cx s => (s.core cx.who.core).cmdHolds cx.who.sq (spadEa (s.seq cx.who) a z o) (2 ^ z.code) }
    (fun cx s =>
      let v := s.seq cx.who
      let ea := spadEa v a z o
      let n := 2 ^ z.code
      if ea ≥ 2 ^ 22 ∨ ea % n ≠ 0 then .trap (Trap.spaddr ea)
      else .done (s.spadStore cx.who.core (cx.actor s) ea (toBytes n (v.rg d).toNat)) .next false) s

end Sys2Proof.Machine
end

