-- ==== Sys2Proof/Machine/Handles.lean ====
section
/-!
DEFINITION. Tensor handles (R141 to R144): the fields of an entry, the checks made when it is loaded, and where an element stands.
-/
namespace Sys2Proof.Machine

/-- The fields of a handle table entry (R141). -/
structure Handle where
  fmt : Nat
  kp : Nat
  loc : Nat
  sbase : Int
  addr : Nat
  rows : Nat
  cols : Nat
  pitch : Nat
  soff : Nat
  deriving DecidableEq, Repr

/-- Reads an entry (R141). -/
def handleOf (e : BitVec 256) : Handle :=
  { fmt := fld e 7 0, kp := fld e 11 8, loc := fld e 12 12, sbase := sextNat 16 (fld e 31 16), addr := fld e 127 64
    rows := fld e 159 128, cols := fld e 191 160, pitch := fld e 223 192, soff := fld e 255 224 }

/-- The size in bytes of an element of a dense format (R142). -/
def fmtSize (fmt : Nat) : Nat :=
  match fmt with
  | 1 | 5 => 8
  | 2 | 6 => 4
  | 3 | 4 | 7 => 2
  | 8 => 1
  | _ => 1

/-- The float format of a code (R142); none for the integer formats. -/
def fmtFloat (fmt : Nat) : Option Fmt :=
  match fmt with
  | 1 => some fp64
  | 2 => some fp32
  | 3 => some fp16
  | 4 => some bf16
  | _ => none

/-- A dense format (R142). -/
def Handle.dense (h : Handle) : Bool := decide (1 ≤ h.fmt) && decide (h.fmt ≤ 8)

/-- Groups of 128 elements in a row (R143). -/
def Handle.groups (h : Handle) : Nat := h.cols / 128

/-- The address of an element of a dense tensor (R143). -/
def Handle.at (h : Handle) (i j : Nat) : Nat := h.addr + i * h.pitch + j * fmtSize h.fmt

/-- Whether an entry passes the checks made at loading (R144). -/
def handleOk (e : BitVec 256) : Bool :=
  let h := handleOf e
  let reserved := fld e 15 13 == 0 && fld e 63 32 == 0
  let shape := h.rows != 0 && h.cols != 0
  if h.fmt = 9 then
    let run := 16 * h.rows * h.groups
    reserved && shape && decide (2 ≤ h.kp) && decide (h.kp ≤ 8) && h.cols % 128 == 0 && h.pitch % 16 == 0
      && decide (run ≤ h.pitch) && decide (h.kp * h.pitch ≤ h.soff)
      && (if h.loc = 0 then canonical h.addr
          else decide (max (h.addr + (h.kp - 1) * h.pitch + run) (h.addr + h.soff + h.rows * h.groups) ≤ 2 ^ 22))
  else
    reserved && shape && decide (1 ≤ h.fmt) && decide (h.fmt ≤ 8) && h.kp == 0 && h.sbase == 0 && h.soff == 0
      && h.pitch % fmtSize h.fmt == 0 && decide (h.cols * fmtSize h.fmt ≤ h.pitch)
      && (if h.loc = 0 then canonical h.addr
          else decide (h.addr + (h.rows - 1) * h.pitch + h.cols * fmtSize h.fmt ≤ 2 ^ 22))

/-- An entry as it is loaded (R144): one that fails a check has FMT = NONE. -/
def loadHandle (e : BitVec 256) : BitVec 256 := if handleOk e then e else e &&& ~~~(0xFF#256)

/-- The fields of a descriptor (R183): handle index, row origin, column origin. -/
def descIndex (d : Word) : Fin 256 := Fin.ofNat 256 (fld d 7 0)
/-- The row origin IO. -/
def descRow (d : Word) : Nat := fld d 35 8
/-- The column origin JO. -/
def descCol (d : Word) : Nat := fld d 63 36

/-- The handle that a descriptor names. -/
def Core.handle (c : Core) (d : Word) : Handle := handleOf (c.hEntry (descIndex d))

/-- The poisoned entries among those that descriptors name (R399). -/
def Core.badHandles (c : Core) (ds : List Word) : List Nat := ((ds.map descIndex).filter c.handleBad.contains).map Fin.val

end Sys2Proof.Machine
end

