-- ==== Sys2Proof/Machine/Migration.lean ====
section
/-!
DEFINITION. Refused register writes (R407), the invalidation of translations (R219, R220) and the migration of pages (R429 to R434).
-/
namespace Sys2Proof.Machine

/-! ### Refused writes (R407) -/

/-- Latches FE_ERR if it is clear. -/
def State.latchFe (s : State) (code off : Nat) : State :=
  if s.fe.feErr.getLsbD 31 then s
  else { s with fe := { s.fe with feErr := BitVec.ofNat 32 (2 ^ 31 + code * 2 ^ 24 + off % 2 ^ 20) } }

/-- The refusal that counts among those that hold: in the order 6, 4, 3, 5, 1, 2. -/
def firstCode (cs : List (Bool × Nat)) : Option Nat :=
  [6, 4, 3, 5, 1, 2].find? fun k => cs.any fun c => c.1 && c.2 == k

/-- A register write: refused with a code, or done. -/
def State.guardWrite (s : State) (off : Nat) (cs : List (Bool × Nat)) (f : State → State) : State :=
  match firstCode cs with
  | some k => s.latchFe k off
  | none => f s

/-- Whether a launch is active. -/
def State.launchActive (s : State) : Bool := !s.launches.isEmpty

/-! ### Regions that no page may share (R262, R408, R429, R458) -/

/-- Whether two ranges of addresses overlap: base and length. -/
def overlap (a b : Nat × Nat) : Bool := decide (a.1 < b.1 + b.2) && decide (b.1 < a.1 + a.2)

/-- The T0 region of an instance, in every core's scratchpad. -/
def InstRec.t0Region (c : InstRec) : List (Nat × Nat) := if c.t0fr = 0 then [] else [(c.t0base, c.t0fr * c.size)]

/-- The regions and index table of an instance in memory. -/
def InstRec.regions (c : InstRec) : List (Nat × Nat) :=
  [(c.ixbase, 64 * c.entries), (c.t1base, c.t1fr * c.size)] ++ (if c.t2fr = 0 then [] else [(c.t2base, c.t2fr * c.size)])

/-- The list region of a tenancy (R408). -/
def Tenancy.listRegion (t : Tenancy) : List (Nat × Nat) :=
  let g := ((List.range 64).filter t.listgrp.getLsbD).length
  if g = 0 then [] else [(t.listbase, 256 * 2 ^ t.wlcap * g)]

/-- The regions of every enabled instance, without instance `skip`. -/
def State.storeRegions (s : State) (skip : Nat) : List (Nat × Nat) :=
  (List.range 8).flatMap fun i =>
    if i = skip then [] else match (s.inst i).cfg with | some c => c.regions | none => []

/-- The T0 regions of every enabled instance, without instance `skip`. -/
def State.t0Regions (s : State) (skip : Nat) : List (Nat × Nat) :=
  (List.range 8).flatMap fun i =>
    if i = skip then [] else match (s.inst i).cfg with | some c => c.t0Region | none => []

/-- The directory tables, without that of instance `skip`. -/
def State.directories (s : State) (skip : Nat) : List (Nat × Nat) :=
  (List.range 8).flatMap fun i =>
    if i = skip then [] else match (s.inst i).directory with | some t => [(t.1, 32 * 2 ^ t.2)] | none => []

/-- What a migrated page must not overlap (R429). -/
def State.fixedRegions (s : State) : List (Nat × Nat) :=
  s.stubs.map (fun t => (t.src, 65536)) ++ s.storeRegions 8 ++ s.directories 8
    ++ s.tens.toList.flatMap fun t => if t.on then (t.ptr.toNat, 128) :: t.listRegion else []

/-- Populated HBM or pool (R203). -/
def State.isBacked (s : State) (pa : Nat) : Bool := isHbm pa || s.isPool pa

/-! ### Invalidation of translations (R219, R220) -/

/-- Makes EMPTY the tapes that an invalidation touches (R344 point 3): those of tenancy `ten`, where scope 0 spares the ranges
outside the 1 GiB region of `va`; with scope 2 every tape. -/
def State.tlbiTapes (s : State) (scope ten va : Nat) : State :=
  let g := va / 2 ^ 30
  let hits := fun (t : Tape) =>
    t.st != .empty && (scope == 2 || (t.ten.toNat == ten
      && (scope == 1 || t.ranges.any fun r => decide (r.1 / 2 ^ 30 ≤ g) && decide (g ≤ (r.1 + r.2 - 1) / 2 ^ 30))))
  allCores.foldl (fun s c =>
    (List.finRange 16).foldl (fun s t => if hits ((s.core c).tapes.get t) then s.emptyTape c t 7 else s) s) s

/-- A write of TLBI_CTL. -/
def State.writeTlbi (s : State) (v : BitVec 64) : State :=
  let scope := fld v 3 2
  let bad := v &&& ~~~0x80FF000D#64 != 0
  s.guardWrite 0x248
    [(s.fe.tlbiCtl.getLsbD 31, 4), (bad || scope == 3, 1), (scope == 0 && !canonical s.fe.tlbiVa.toNat, 2)] fun s =>
      let go := v.getLsbD 0
      let s := { s with tlbiAt := s.fe.tlbiVa
                        fe := { s.fe with tlbiCtl := (v &&& 0xFF000C#64).setWidth 32 ||| (if go then 0x80000000 else 0) } }
      if go then
        let s := s.tlbiTapes scope (fld v 23 16) s.fe.tlbiVa.toNat
        { s with stubs := s.stubs.map fun t =>
            let after := !(s.migration.any fun m => m.k == t.k)
            if t.ten.toNat = fld v 23 16 ∧ after then { t with invalidating := true } else t }
      else s

/-- Whether the invalidation in progress names a page of tenancy `ten`. -/
def State.tlbiNames (s : State) (ten : BitVec 8) (va size : Nat) : Bool :=
  let c := s.fe.tlbiCtl
  let mine := ten.toNat == fld c 23 16
  match fld c 3 2 with
  | 0 => mine && decide (va / size = s.tlbiAt.toNat / size)
  | 1 => mine
  | _ => true

/-- Whether an access that a translation of a tenancy which the invalidation names has given an address has not been performed (R220 point
3): on its way, held, forwarded, or merged and still in a combining buffer. The host's accesses are not translated. -/
def State.tlbiWaits (s : State) : Bool :=
  let mine := fun (t : BitVec 8) => fld s.fe.tlbiCtl 3 2 == 2 || t.toNat == fld s.fe.tlbiCtl 23 16
  (s.unperformed.any fun h => h.port.isNone && mine h.ten) || s.combine.toList.any fun es => es.any fun e => mine e.ten

/-- TLBI_PAGE (R220). -/
def execTlbiPage (v : BitVec 64) (s : State) : Out :=
  if v.getLsbD 0 && fld v 3 2 == 0 then .next (s.writeTlbi v) else .next s

/-- TLBI_TENANCY (R220). -/
def execTlbiTenancy (v : BitVec 64) (s : State) : Out :=
  if v.getLsbD 0 && fld v 3 2 == 1 then .next (s.writeTlbi v) else .next s

/-- TLBI_ALL (R220). -/
def execTlbiAll (v : BitVec 64) (s : State) : Out :=
  if v.getLsbD 0 && fld v 3 2 == 2 then .next (s.writeTlbi v) else .next s

/-- TLBI_COMPLETE (R220): once every access through a named entry has been performed, the entries are gone and BUSY clears. -/
def execTlbiComplete (s : State) : Out :=
  if !s.fe.tlbiCtl.getLsbD 31 || s.tlbiWaits then .next s
  else
    .next { s with
      mem := { s.mem with
        tlb := s.mem.tlb.filter fun e => !s.tlbiNames e.ten e.va e.size
        utlb := s.mem.utlb.filter fun e => !s.tlbiNames e.2.ten e.2.va e.2.size }
      fe := { s.fe with tlbiCtl := s.fe.tlbiCtl &&& 0x7FFFFFFF }
      stubs := s.stubs.map fun t => if t.invalidating then { t with invalidating := false, invalidated := true } else t }

/-! ### Migration (R429 to R433) -/

/-- Copies a page with its sector marks and with what observers may still see of it: each good sector is encoded for its new
address, each poisoned one written poisoned (R430). The copy is in memory that a warm reset does not lose (R403). -/
def State.movePage (s : State) (src dst : Nat) : State :=
  let (seen, s) := s.checkSectors ((List.range 2048).map fun i => src / 32 + i)
  let to_ := fun (a : Nat) => dst + (a - src)
  let inSrc := fun (a : Nat) => decide (src ≤ a) && decide (a < src + 65536)
  let inDst := fun (a : Nat) => decide (dst ≤ a) && decide (a < dst + 65536)
  let now := fun (a : Nat) => ((seenAt seen a).byte (cellsGet s.mem.cells a) a).1
  let cells := (List.range 65536).foldl (fun cs i => cellsPut cs (dst + i) (now (src + i))) s.mem.cells
  { s with mem := { s.mem with
      cells := cells
      marks := ((badOf seen).map fun k => (dst / 32 + (k - src / 32), SectorMark.poison))
        ++ s.mem.marks.filter fun m => !inDst (m.1 * 32)
      hist := s.mem.hist.flatMap fun w =>
        if inSrc w.addr then [w, { w with addr := to_ w.addr, durable := true }] else if inDst w.addr then [] else [w] } }

/-- The payload of a FWD flit (R434). -/
def fwdPayload (op b1 b2 n core ten k pa en : Nat) (opnd data : List Byte) : List Byte :=
  [BitVec.ofNat 8 op, BitVec.ofNat 8 b1, BitVec.ofNat 8 b2, BitVec.ofNat 8 n, BitVec.ofNat 8 core, BitVec.ofNat 8 ten]
    ++ toBytes 2 k ++ toBytes 8 pa ++ toBytes 8 en ++ (opnd ++ List.replicate (16 - opnd.length) 0) ++ toBytes 24 0
    ++ (data ++ List.replicate (64 - data.length) 0)

/-- Sends a page as START and 1,024 COPY flits (R434 points 1 and 2). -/
def State.sendPage (s : State) (pkg k ten src dst : Nat) : State :=
  let (seen, s) := s.checkSectors ((List.range 2048).map fun i => src / 32 + i)
  let bad := badOf seen
  let now := fun (a : Nat) => ((seenAt seen a).byte (cellsGet s.mem.cells a) a).1
  let s := s.sendFlit pkg 10 (fwdPayload 1 0 0 0 0 ten k dst 0 [] [])
  (List.range 1024).foldl (fun s i =>
    let marks := (if bad.contains (src / 32 + 2 * i) then 1 else 0) + (if bad.contains (src / 32 + 2 * i + 1) then 2 else 0)
    s.sendFlit pkg 10 (fwdPayload 2 marks 0 64 0 ten k (dst + 64 * i) 0 [] ((List.range 64).map fun j => now (src + 64 * i + j)))) s

/-- The refusals of a write of MIG_CTL (R429). -/
def State.migRefusals (s : State) (v : BitVec 64) : List (Bool × Nat) :=
  let src := s.fe.migSrc.toNat
  let dst := s.fe.migDst.toNat
  let xp := v.getLsbD 21
  let hits := fun (p : Nat) => s.fixedRegions.any fun r => overlap (p, 65536) r
  [(v &&& ~~~0xFF3FFF01#64 != 0, 1)] ++
  (if v.getLsbD 0 then
    [(s.migration.isSome, 4), (decide (16 ≤ s.stubs.length), 4),
      (src % 65536 != 0 || dst % 65536 != 0, 2), (!s.isBacked src || (!xp && !s.isBacked dst), 2), (!xp && src == dst, 2),
      (xp && !s.isPeer (fld v 29 24), 2), (hits src || (!xp && hits dst), 2)]
  else [])

/-- A write of MIG_CTL; with GO it starts migration k (R430, R434): BUSY is set, the combining buffers' entries of the page are
flushed and its tapes become EMPTY. -/
def State.writeMig (s : State) (v : BitVec 64) : State :=
  s.guardWrite 0x3D0 (s.migRefusals v) fun s =>
    let s := { s with fe := { s.fe with migCtl := (v &&& 0x3F20FF00#64).setWidth 32 ||| (s.fe.migCtl &&& 0x40000000) } }
    if !v.getLsbD 0 then s
    else
      let src := s.fe.migSrc.toNat
      let dst := s.fe.migDst.toNat
      let s := (List.finRange 4).foldl (fun s d => s.flushWhere d fun e => pageOf e.pa == src) s
      let s := s.touchCode ((List.range 256).map fun i => src + 256 * i)
      let k := s.migCount + 1
      let xp := if v.getLsbD 21 then some (fld v 29 24) else none
      let m : Migration := { k := k, src := src, dst := dst, ten := BitVec.ofNat 8 (fld v 15 8), xp := xp, copied := false, held := [] }
      let s := { s with migration := some m, migCount := k, fe := { s.fe with migCtl := s.fe.migCtl &&& ~~~0x40000000#32 } }
      match xp with
      | none => s
      | some p => s.sendPage p k (fld v 15 8) src dst

/-- MIG_GO (R430). -/
def execMigGo (v : BitVec 64) (s : State) : Out :=
  if v.getLsbD 0 && !v.getLsbD 21 then .next (s.writeMig v) else .next s

/-- MIG_GO_XP (R434). -/
def execMigGoXp (v : BitVec 64) (s : State) : Out :=
  if v.getLsbD 0 && v.getLsbD 21 then .next (s.writeMig v) else .next s

/-- Installs the stub of the copied page with the accesses that were held (R430): BUSY clears when they have been forwarded. -/
def State.installStub (s : State) (m : Migration) : State :=
  let t : Stub :=
    { k := m.k, src := m.src, dst := m.dst, ten := m.ten, xp := m.xp, held := m.held, flying := [], invalidating := false
      invalidated := false }
  { s with stubs := s.stubs ++ [t], migration := if m.held.isEmpty then none else some { m with copied := true, held := [] } }

/-- MIGRATION_COPY_DONE (R430): the page is copied and the stub installed. -/
def execMigrationCopyDone (s : State) : Out :=
  match s.migration with
  | none => .next s
  | some m => if m.copied || m.xp.isSome then .next s else .next ((s.movePage m.src m.dst).installStub m)

/-- BUSY clears once the accesses held by the copy have been forwarded. -/
def State.settleMigration (s : State) : State :=
  match s.migration with
  | none => s
  | some m =>
    if m.copied && s.stubs.all fun t => t.k != m.k || t.held.isEmpty then { s with migration := none } else s

/-- How many bytes lie from the first to the last one of an access. -/
def HeldAccess.reach (h : HeldAccess) : Nat := ((h.bytes.map fun (b : Nat × Nat) => b.1 - h.pa + 1).getLast?).getD 0

/-- The source core of an access that is forwarded, 0 for one that no core made. -/
def HeldAccess.source (h : HeldAccess) : Nat :=
  match h.peer with
  | some { fwd := some f, .. } => f.1
  | _ => h.who.elim 0 fun w => w.core.val

/-- The operation and AR of an atomic as AMO has them (R247): PLNST.OR and PLNST.AND are OR and AND, the maximum of an MDRAIN is MAXU
(R194, R251). -/
def HeldAccess.amoOp (h : HeldAccess) : Nat :=
  match h.op with
  | 32 => 2
  | 33 => 1
  | 34 => 7
  | n => n

/-- The ACCESS flit of a held access (R434 point 3). -/
def HeldAccess.flit (h : HeldAccess) (k dst : Nat) : List Byte :=
  let pa := dst + h.pa % 65536
  match h.kind with
  | 0 => fwdPayload 5 0 0 h.reach h.source h.ten.toNat k pa 0 [] []
  | 1 =>
    let places := (h.bytes.map fun (b : Nat × Nat) => b.1 - h.pa).zip h.data
    let data := (List.range h.reach).map fun i => ((places.find? fun b => b.1 == i).map Prod.snd).getD 0
    fwdPayload 5 1 0 h.reach h.source h.ten.toNat k pa ((places.map fun b => 2 ^ b.1).sum) [] data
  | _ => fwdPayload 5 (2 + h.sz * 4) h.amoOp 0 h.source h.ten.toNat k pa 0 (h.data.take 16) []

/-- The bytes that a REPLY gives to an access (R434 point 3): `bad` says that they are poison. -/
def HeldAccess.replied (h : HeldAccess) (b : BitVec 1024) (bad : Bool) : List (Byte × Bool) :=
  let bs := match h.kind with
    | 0 => h.bytes.map fun (d : Nat × Nat) => BitVec.ofNat 8 (b.toNat / 256 ^ (64 + (d.1 - h.pa)))
    | 1 => []
    | _ => (List.range 8).map fun i => BitVec.ofNat 8 (b.toNat / 256 ^ (24 + i))
  bs.map fun x => (if bad then 0 else x, bad)

/-- An access arrives at its page's home: performed, or held there in order of arrival. -/
def State.arrive (s : State) (h : HeldAccess) : State :=
  if s.homeOf h.core h.pa == .here then
    let (bs, s) := s.performHeld h
    s.reply h bs
  else s.holdAt h

/-- STUB_FORWARD (R431, R434): the oldest access that waits at a stub arrives at the page's new home, or is sent to the package
that holds it. -/
def execStubForward (idx : Nat) (s : State) : Out :=
  match s.stubs[idx]? with
  | none => .next s
  | some t =>
    match t.held with
    | [] => .next s
    | h :: hs =>
      let s := { s with stubs := s.stubs.modify idx fun t => { t with held := hs } }
      match t.xp with
      | some p =>
        let s := { s with stubs := s.stubs.modify idx fun t => { t with flying := t.flying ++ [h] } }
        .next ((s.sendFlit p 10 (h.flit (t.k % 65536) t.dst)).settleMigration)
      | none => .next ((s.arrive (h.toPage t.dst)).settleMigration)

/-- STUB_RETIRE (R432): the stub of the oldest migration retires once nothing is in flight through it and an invalidation for its
tenancy has run. -/
def execStubRetire (idx : Nat) (s : State) : Out :=
  match s.stubs[idx]? with
  | none => .next s
  | some t =>
    if (s.stubs.any fun u => u.k < t.k) || !t.held.isEmpty || !t.flying.isEmpty || !t.invalidated
        || s.migration.any (fun m => m.k == t.k) then .next s
    else .next { s with stubs := s.stubs.eraseIdx idx, fe := { s.fe with migDone := s.fe.migDone + 1 } }

/-! ### FWD flits (R434) -/

/-- A field of `n` bytes of a payload at byte `o`. -/
def payNat (b : BitVec 1024) (o n : Nat) : Nat := b.toNat / 256 ^ o % 256 ^ n

/-- `n` bytes of a payload. -/
def payBytes (b : BitVec 1024) (o n : Nat) : List Byte := toBytes n (payNat b o n)

/-- Whether this package accepts a page at `dst` (R434 point 1). -/
def State.acceptsPage (s : State) (dst : Nat) : Bool :=
  s.fe.migInbase.getLsbD 0 && dst % 65536 == 0 && decide (fld s.fe.migInbase 45 16 ≤ dst / 65536)
    && decide (dst / 65536 ≤ fld s.fe.migInlim 45 16) && !s.fixedRegions.any fun r => overlap (dst, 65536) r

/-- Sends a FWD flit of migration `k` in answer to one: ACCEPT, REFUSE or REPLY. -/
def State.answerFwd (s : State) (p op b1 n core ten k pa : Nat) (opnd data : List Byte) : State :=
  s.sendFlit p 10 (fwdPayload op b1 0 n core ten k pa 0 opnd data)

/-- The access that an ACCESS flit carries, as one that arrives here on the CORE path (R434 point 3). -/
def fwdAccessOf (p : Nat) (b : BitVec 1024) : HeldAccess :=
  let pa := payNat b 8 8
  let en := payNat b 16 8
  let kind := payNat b 1 1 % 4
  let sz := payNat b 1 1 / 4 % 4
  let n := if kind = 2 then 2 ^ sz else payNat b 3 1
  let places := (List.range (min n 64)).filter fun i => kind != 1 || en / 2 ^ i % 2 == 1
  let data := if kind = 1 then places.map fun i => BitVec.ofNat 8 (b.toNat / 256 ^ (64 + i)) else payBytes b 24 16
  { Actor.host.held (BitVec.ofNat 8 (payNat b 5 1)) kind (places.map fun i => (pa + i, i)) data with
    op := payNat b 2 1 % 32, sz := sz, peer := some { peer := p, fwd := some (payNat b 4 1, payNat b 6 2, pa) } }

/-- The REPLY to a forwarded access that has been performed (R434 point 3). -/
def State.sendReply (s : State) (h : HeldAccess) (p core k pa : Nat) (bs : List (Byte × Bool)) : State :=
  let bad := if bs.any Prod.snd then 1 else 0
  match h.kind with
  | 0 => s.answerFwd p 6 bad h.bytes.length core h.ten.toNat k pa [] (bs.map Prod.fst)
  | 1 => s.answerFwd p 6 0 0 core h.ten.toNat k pa [] []
  | _ => s.answerFwd p 6 bad 0 core h.ten.toNat k pa (bs.map Prod.fst) []

/-- A START flit (R434 point 1). -/
def State.takeStart (s : State) (p : Nat) (b : BitVec 1024) : State :=
  let pa := payNat b 8 8
  let k := payNat b 6 2
  if s.acceptsPage pa then { s with incoming := s.incoming ++ [{ peer := p, k := k, dst := pa, copied := 0 }] }
  else s.answerFwd p 4 0 0 (payNat b 4 1) (payNat b 5 1) k pa [] []

/-- A COPY flit (R434 point 2): its sectors are written, without being accesses of any tenancy or tape events (R430). With the last
one the page is accepted. -/
def State.takeCopy (s : State) (p : Nat) (b : BitVec 1024) : State :=
  let k := payNat b 6 2
  let pa := payNat b 8 8
  match s.incoming.find? fun i => i.peer == p && i.k == k with
  | none => s
  | some i =>
    let s := s.putPas Actor.host .plain ((List.range 64).zip (payBytes b 64 64) |>.map fun w => (pa + w.1, w.2))
    let marks := payNat b 1 1
    let s := s.poisonPas Actor.host ((if marks % 2 = 1 then [pa] else []) ++ (if marks / 2 % 2 = 1 then [pa + 32] else []))
    let rest := s.incoming.filter fun j => j != i
    if i.copied = 1023 then ({ s with incoming := rest }).answerFwd p 3 0 0 (payNat b 4 1) (payNat b 5 1) k pa [] []
    else { s with incoming := rest ++ [{ i with copied := i.copied + 1 }] }

/-- An ACCEPT flit: the stub is installed (R434 point 2). -/
def State.takeAccept (s : State) (p k : Nat) : State :=
  match s.migration with
  | some m => if m.xp = some p ∧ m.k % 65536 = k ∧ !m.copied then s.installStub m else s
  | none => s

/-- A REFUSE flit: SRC stays the home, and the held accesses are performed there in order of arrival (R434 point 1). -/
def State.takeRefuse (s : State) (p k : Nat) : State :=
  match s.migration with
  | some m =>
    if m.xp = some p ∧ m.k % 65536 = k ∧ !m.copied then
      let s := { s with migration := none
                        fe := { s.fe with migCtl := s.fe.migCtl ||| 0x40000000, migDone := s.fe.migDone + 1 } }
      m.held.foldl State.arrive s
    else s
  | none => s

/-- A REPLY flit: the oldest access sent on is complete (R431 point 3, R434 point 3). -/
def State.takeReply (s : State) (p : Nat) (b : BitVec 1024) : State :=
  match s.stubs.findIdx? fun t => t.xp == some p && t.k % 65536 == payNat b 6 2 with
  | none => s
  | some i =>
    match (s.stubs[i]?).map Stub.flying with
    | some (h :: hs) =>
      let s := { s with stubs := s.stubs.modify i fun t => { t with flying := hs } }
      s.reply h (h.replied b (payNat b 1 1 % 2 == 1))
    | _ => s

/-- Serves a FWD flit of a peer (R434). -/
def State.serveFwd (s : State) (p : Nat) (b : BitVec 1024) : State :=
  match payNat b 0 1 with
  | 1 => s.takeStart p b
  | 2 => s.takeCopy p b
  | 3 => s.takeAccept p (payNat b 6 2)
  | 4 => s.takeRefuse p (payNat b 6 2)
  | 5 => s.arrive (fwdAccessOf p b)
  | 6 => s.takeReply p b
  | _ => s

end Sys2Proof.Machine
end

