-- ==== Sys2Proof/Machine/Scalar.lean ====
section
/-!
DEFINITION. The scalar instructions (03_scalar.md): arithmetic, immediates, bit operations, compares, predicates and the 16-bit
forms of these (R39).
-/
namespace Sys2Proof.Machine

/-! ### Integer functions -/

/-- The low six bits of a shift operand (R59). -/
def shamt (b : Word) : Nat := b.toNat % 64

/-- FSHL (R60): the high half of d:a shifted left. -/
def funnelLeft (d a b : Word) : Word := BitVec.ofNat 64 ((d.toNat * 2 ^ 64 + a.toNat) * 2 ^ shamt b / 2 ^ 64)

/-- FSHR (R60): the low half of a:d shifted right. -/
def funnelRight (d a b : Word) : Word := BitVec.ofNat 64 ((a.toNat * 2 ^ 64 + d.toNat) / 2 ^ shamt b)

/-- MULH (R59). -/
def mulHigh (a b : Word) : Word := BitVec.ofInt 64 ((a.toInt * b.toInt) / 2 ^ 64)

/-- MULHU (R59). -/
def mulHighU (a b : Word) : Word := BitVec.ofNat 64 (a.toNat * b.toNat / 2 ^ 64)

/-- DIV (R61). -/
def divSigned (a b : Word) : Word :=
  if b = 0 then BitVec.allOnes 64 else if a.toInt = -(2 ^ 63) ∧ b.toInt = -1 then a else BitVec.ofInt 64 (a.toInt.tdiv b.toInt)

/-- DIVU (R61). -/
def divUnsigned (a b : Word) : Word := if b = 0 then BitVec.allOnes 64 else BitVec.ofNat 64 (a.toNat / b.toNat)

/-- REM (R61). -/
def remSigned (a b : Word) : Word :=
  if b = 0 then a else if a.toInt = -(2 ^ 63) ∧ b.toInt = -1 then 0
  else BitVec.ofInt 64 (a.toInt - b.toInt * a.toInt.tdiv b.toInt)

/-- REMU (R61). -/
def remUnsigned (a b : Word) : Word := if b = 0 then a else BitVec.ofNat 64 (a.toNat % b.toNat)

/-- The number of set bits among the low `n` bits. -/
def popCount (v : Nat) : Nat → Nat
  | 0 => 0
  | n + 1 => popCount v n + v / 2 ^ n % 2

/-- The zero bits above the highest set bit of an `n`-bit value (R64). -/
def leadingZeros (v : Nat) : Nat → Nat
  | 0 => 0
  | n + 1 => if v / 2 ^ n % 2 = 1 then 0 else 1 + leadingZeros v n

/-- The zero bits below the lowest set bit of an `n`-bit value (R64). -/
def trailingZeros : Nat → Nat → Nat
  | _, 0 => 0
  | v, n + 1 => if v % 2 = 1 then 0 else 1 + trailingZeros (v / 2) n

/-- An `n`-bit value with its bits in reverse order (R64). -/
def reverseBits : Nat → Nat → Nat
  | _, 0 => 0
  | v, n + 1 => v % 2 * 2 ^ n + reverseBits (v / 2) n

/-- The position of the set bit of rank `k`, searching bits `i` up to 63 (R64). -/
def findSet (v k : Nat) : Nat → Nat → Nat
  | _, 0 => 64
  | i, n + 1 =>
    if v / 2 ^ i % 2 = 1 then (if k = 0 then i else findSet v (k - 1) (i + 1) n) else findSet v k (i + 1) n

/-- The low bit and the width of the field that gb describes (R65). -/
def bitField (b : Word) : Nat × Nat :=
  let lo := b.toNat % 64
  (lo, min (b.toNat / 256 % 128) (64 - lo))

/-- BFX (R65). -/
def bfExtract (a b : Word) : Word := BitVec.ofNat 64 (a.toNat / 2 ^ (bitField b).1 % 2 ^ (bitField b).2)

/-- BFXS (R65). -/
def bfExtractSigned (a b : Word) : Word :=
  let (lo, w) := bitField b
  if w = 0 then 0 else BitVec.ofInt 64 (sextNat w (a.toNat / 2 ^ lo))

/-- BFI (R65). -/
def bfInsert (d a b : Word) : Word :=
  let (lo, w) := bitField b
  let m : Word := BitVec.ofNat 64 ((2 ^ w - 1) * 2 ^ lo)
  (d &&& ~~~m) ||| ((a <<< lo) &&& m)

/-- The low `n` bits, sign-extended (R58). -/
def sextW (n : Nat) (a : Word) : Word := BitVec.ofInt 64 (sextNat n a.toNat)

/-- The low `n` bits, zero-extended (R58). -/
def zextW (n : Nat) (a : Word) : Word := BitVec.ofNat 64 (a.toNat % 2 ^ n)

/-- The condition of CMP and CMPI (R66). -/
def ccHolds (c : Cc) (a y : Word) : Bool :=
  match c with
  | .eq => a == y
  | .ne => a != y
  | .lt => decide (a.toInt < y.toInt)
  | .ge => decide (a.toInt ≥ y.toInt)
  | .le => decide (a.toInt ≤ y.toInt)
  | .gt => decide (a.toInt > y.toInt)
  | .ltu => decide (a.toNat < y.toNat)
  | .geu => decide (a.toNat ≥ y.toNat)
  | .leu => decide (a.toNat ≤ y.toNat)
  | .gtu => decide (a.toNat > y.toNat)
  | .tst => (a &&& y) != 0
  | .tstn => (a &&& y) == 0

/-! ### The shapes of scalar instructions -/

/-- An instruction that computes gd from ga and gb (R59, R61, R64, R65). -/
def alu2 (i : Instr) (x : Ctl) (lat : Nat) (cls : ClassUse) (d a b : Reg) (f : Word → Word → Word) (s : State) : Out :=
  issue { x := x, minLat := lat, gsrc := [a, b], gdst := [d], cls := cls, enc := encode i }
    (fun cx s => .land cx s [.g d (f ((s.seq cx.who).rg a) ((s.seq cx.who).rg b))]) s

/-- One that also reads gd (R60, R65). -/
def alu3 (i : Instr) (x : Ctl) (lat : Nat) (d a b : Reg) (f : Word → Word → Word → Word) (s : State) : Out :=
  issue { x := x, minLat := lat, gsrc := [d, a, b], gdst := [d], enc := encode i }
    (fun cx s => .land cx s [.g d (f ((s.seq cx.who).rg d) ((s.seq cx.who).rg a) ((s.seq cx.who).rg b))]) s

/-- One that computes gd from ga (R62, R64). -/
def alu1 (i : Instr) (x : Ctl) (lat : Nat) (cls : ClassUse) (d a : Reg) (f : Word → Word) (s : State) : Out :=
  issue { x := x, minLat := lat, gsrc := [a], gdst := [d], cls := cls, enc := encode i }
    (fun cx s => .land cx s [.g d (f ((s.seq cx.who).rg a))]) s

/-- A 16-bit form that computes gd from general registers (R39): b = 1. -/
def short (srcs : List Reg) (cls : ClassUse) (d : Reg) (f : Seq → Word) (s : State) : Out :=
  issue { short := true, gsrc := srcs, gdst := [d], cls := cls } (fun cx s => .land cx s [.g d (f (s.seq cx.who))]) s

/-- An instruction that computes a predicate (R66, R68). -/
def toPred (i : Instr) (x : Ctl) (d : PReg) (gs : List Reg) (ps : List PReg) (f : Seq → Bool) (s : State) : Out :=
  issue { x := x, gsrc := gs, psrc := ps, pdst := [d], enc := encode i }
    (fun cx s => .land cx s [.p d (f (s.seq cx.who))]) s


/-- ADD (R59). -/
def execAdd (d : Reg) (a : Reg) (b : Reg) (x : Ctl) (s : State) : Out :=
  alu2 (.add d a b x) x 0 .add d a b (fun p q => p + q) s

/-- SUB (R59). -/
def execSub (d : Reg) (a : Reg) (b : Reg) (x : Ctl) (s : State) : Out :=
  alu2 (.sub d a b x) x 0 .sub d a b (fun p q => p - q) s

/-- AND (R59). -/
def execAnd (d : Reg) (a : Reg) (b : Reg) (x : Ctl) (s : State) : Out :=
  alu2 (.and d a b x) x 0 .std d a b (fun p q => p &&& q) s

/-- OR (R59). -/
def execOr (d : Reg) (a : Reg) (b : Reg) (x : Ctl) (s : State) : Out :=
  alu2 (.or d a b x) x 0 .std d a b (fun p q => p ||| q) s

/-- XOR (R59). -/
def execXor (d : Reg) (a : Reg) (b : Reg) (x : Ctl) (s : State) : Out :=
  alu2 (.xor d a b x) x 0 .std d a b (fun p q => p ^^^ q) s

/-- ANDN (R59). -/
def execAndn (d : Reg) (a : Reg) (b : Reg) (x : Ctl) (s : State) : Out :=
  alu2 (.andn d a b x) x 0 .std d a b (fun p q => p &&& ~~~q) s

/-- SLL (R59). -/
def execSll (d : Reg) (a : Reg) (b : Reg) (x : Ctl) (s : State) : Out :=
  alu2 (.sll d a b x) x 0 .std d a b (fun p q => p <<< shamt q) s

/-- SRL (R59). -/
def execSrl (d : Reg) (a : Reg) (b : Reg) (x : Ctl) (s : State) : Out :=
  alu2 (.srl d a b x) x 0 .std d a b (fun p q => p >>> shamt q) s

/-- SRA (R59). -/
def execSra (d : Reg) (a : Reg) (b : Reg) (x : Ctl) (s : State) : Out :=
  alu2 (.sra d a b x) x 0 .std d a b (fun p q => p.sshiftRight (shamt q)) s

/-- ROR (R59). -/
def execRor (d : Reg) (a : Reg) (b : Reg) (x : Ctl) (s : State) : Out :=
  alu2 (.ror d a b x) x 0 .std d a b (fun p q => p.rotateRight (shamt q)) s

/-- FSHL (R60). -/
def execFshl (d : Reg) (a : Reg) (b : Reg) (x : Ctl) (s : State) : Out :=
  alu3 (.fshl d a b x) x 1 d a b funnelLeft s

/-- FSHR (R60). -/
def execFshr (d : Reg) (a : Reg) (b : Reg) (x : Ctl) (s : State) : Out :=
  alu3 (.fshr d a b x) x 1 d a b funnelRight s

/-- MUL (R59). -/
def execMul (d : Reg) (a : Reg) (b : Reg) (x : Ctl) (s : State) : Out :=
  alu2 (.mul d a b x) x 3 .std d a b (fun p q => p * q) s

/-- MULH (R59). -/
def execMulh (d : Reg) (a : Reg) (b : Reg) (x : Ctl) (s : State) : Out :=
  alu2 (.mulh d a b x) x 3 .std d a b (fun p q => mulHigh p q) s

/-- MULHU (R59). -/
def execMulhu (d : Reg) (a : Reg) (b : Reg) (x : Ctl) (s : State) : Out :=
  alu2 (.mulhu d a b x) x 3 .std d a b (fun p q => mulHighU p q) s

/-- FNS (R64). -/
def execFns (d : Reg) (a : Reg) (b : Reg) (x : Ctl) (s : State) : Out :=
  alu2 (.fns d a b x) x 1 .std d a b (fun p q => BitVec.ofNat 64 (findSet p.toNat q.toNat 0 64)) s

/-- DIV (R61). -/
def execDiv (d : Reg) (a : Reg) (b : Reg) (x : Ctl) (s : State) : Out :=
  alu2 (.div d a b x) x 6 .std d a b (fun p q => divSigned p q) s

/-- DIVU (R61). -/
def execDivu (d : Reg) (a : Reg) (b : Reg) (x : Ctl) (s : State) : Out :=
  alu2 (.divu d a b x) x 6 .std d a b (fun p q => divUnsigned p q) s

/-- REM (R61). -/
def execRem (d : Reg) (a : Reg) (b : Reg) (x : Ctl) (s : State) : Out :=
  alu2 (.rem d a b x) x 6 .std d a b (fun p q => remSigned p q) s

/-- REMU (R61). -/
def execRemu (d : Reg) (a : Reg) (b : Reg) (x : Ctl) (s : State) : Out :=
  alu2 (.remu d a b x) x 6 .std d a b (fun p q => remUnsigned p q) s

/-- MIN (R59). -/
def execMin (d : Reg) (a : Reg) (b : Reg) (x : Ctl) (s : State) : Out :=
  alu2 (.min d a b x) x 0 .std d a b (fun p q => if p.toInt ≤ q.toInt then p else q) s

/-- MAX (R59). -/
def execMax (d : Reg) (a : Reg) (b : Reg) (x : Ctl) (s : State) : Out :=
  alu2 (.max d a b x) x 0 .std d a b (fun p q => if p.toInt ≥ q.toInt then p else q) s

/-- MINU (R59). -/
def execMinu (d : Reg) (a : Reg) (b : Reg) (x : Ctl) (s : State) : Out :=
  alu2 (.minu d a b x) x 0 .std d a b (fun p q => if p.toNat ≤ q.toNat then p else q) s

/-- MAXU (R59). -/
def execMaxu (d : Reg) (a : Reg) (b : Reg) (x : Ctl) (s : State) : Out :=
  alu2 (.maxu d a b x) x 0 .std d a b (fun p q => if p.toNat ≥ q.toNat then p else q) s

/-- ADDI (R62). -/
def execAddi (d : Reg) (a : Reg) (i : BitVec 7) (x : Ctl) (s : State) : Out :=
  alu1 (.addi d a i x) x 0 .add d a (fun p => p + i.signExtend 64) s

/-- ANDI (R62). -/
def execAndi (d : Reg) (a : Reg) (i : BitVec 7) (x : Ctl) (s : State) : Out :=
  alu1 (.andi d a i x) x 0 .std d a (fun p => p &&& i.signExtend 64) s

/-- SLLI (R62). -/
def execSlli (d : Reg) (a : Reg) (h : BitVec 6) (x : Ctl) (s : State) : Out :=
  alu1 (.slli d a h x) x 0 .std d a (fun p => p <<< h.toNat) s

/-- SRLI (R62). -/
def execSrli (d : Reg) (a : Reg) (h : BitVec 6) (x : Ctl) (s : State) : Out :=
  alu1 (.srli d a h x) x 0 .std d a (fun p => p >>> h.toNat) s

/-- SRAI (R62). -/
def execSrai (d : Reg) (a : Reg) (h : BitVec 6) (x : Ctl) (s : State) : Out :=
  alu1 (.srai d a h x) x 0 .std d a (fun p => p.sshiftRight h.toNat) s

/-- RORI (R62). -/
def execRori (d : Reg) (a : Reg) (h : BitVec 6) (x : Ctl) (s : State) : Out :=
  alu1 (.rori d a h x) x 0 .std d a (fun p => p.rotateRight h.toNat) s

/-- LI (R62). -/
def execLi (d : Reg) (i : BitVec 12) (x : Ctl) (s : State) : Out :=
  issue { x := x, gdst := [d], enc := encode (.li d i x) } (fun cx s => .land cx s [.g d (i.signExtend 64)]) s

/-- LDC (R63): the constant is read as instruction fetch reads it (R229); a poisoned one is zero (R397). Its address wraps modulo 2^64
(DESIGN CHOICE, log entry 86). -/
def execLdc (d : Reg) (i : BitVec 12) (x : Ctl) (s : State) : Out :=
  issue { x := x, minLat := 7, gdst := [d], enc := encode (.ldc d i x) }
    (fun cx s =>
      let ea := (cx.own &&& ~~~7#64) + 8 * i.signExtend 64
      match s.codeBytes cx.who ea.toNat 8 with
      | (.error f, s) => .fault s (Trap.page f)
      | (.ok bs, s) =>
        let s := s.usedLine cx.who (ea.toNat / 256)
        let (n, s) := s.freeNat
        .done (s.fly cx (s.cycle + 1 + Config.latency n) false [.g d (BitVec.ofNat 64 (ofBytes bs))]) .next true) s

/-- Popc (R64). -/
def execPopc (d : Reg) (a : Reg) (x : Ctl) (s : State) : Out :=
  alu1 (.popc d a x) x 1 .std d a (fun p => BitVec.ofNat 64 (popCount p.toNat 64)) s

/-- Clz (R64). -/
def execClz (d : Reg) (a : Reg) (x : Ctl) (s : State) : Out :=
  alu1 (.clz d a x) x 1 .std d a (fun p => BitVec.ofNat 64 (leadingZeros p.toNat 64)) s

/-- Ctz (R64). -/
def execCtz (d : Reg) (a : Reg) (x : Ctl) (s : State) : Out :=
  alu1 (.ctz d a x) x 1 .std d a (fun p => BitVec.ofNat 64 (trailingZeros p.toNat 64)) s

/-- Brev (R64). -/
def execBrev (d : Reg) (a : Reg) (x : Ctl) (s : State) : Out :=
  alu1 (.brev d a x) x 0 .std d a (fun p => BitVec.ofNat 64 (reverseBits p.toNat 64)) s

/-- Bswap (R64). -/
def execBswap (d : Reg) (a : Reg) (x : Ctl) (s : State) : Out :=
  alu1 (.bswap d a x) x 0 .std d a (fun p => BitVec.ofNat 64 (ofBytes (toBytes 8 p.toNat).reverse)) s

/-- SextB (R64). -/
def execSextB (d : Reg) (a : Reg) (x : Ctl) (s : State) : Out :=
  alu1 (.sextB d a x) x 0 .std d a (fun p => sextW 8 p) s

/-- SextH (R64). -/
def execSextH (d : Reg) (a : Reg) (x : Ctl) (s : State) : Out :=
  alu1 (.sextH d a x) x 0 .std d a (fun p => sextW 16 p) s

/-- SextW (R64). -/
def execSextW (d : Reg) (a : Reg) (x : Ctl) (s : State) : Out :=
  alu1 (.sextW d a x) x 0 .std d a (fun p => sextW 32 p) s

/-- ZextB (R64). -/
def execZextB (d : Reg) (a : Reg) (x : Ctl) (s : State) : Out :=
  alu1 (.zextB d a x) x 0 .std d a (fun p => zextW 8 p) s

/-- ZextH (R64). -/
def execZextH (d : Reg) (a : Reg) (x : Ctl) (s : State) : Out :=
  alu1 (.zextH d a x) x 0 .std d a (fun p => zextW 16 p) s

/-- ZextW (R64). -/
def execZextW (d : Reg) (a : Reg) (x : Ctl) (s : State) : Out :=
  alu1 (.zextW d a x) x 0 .std d a (fun p => zextW 32 p) s

/-- BFX (R65). -/
def execBfx (d : Reg) (a : Reg) (b : Reg) (x : Ctl) (s : State) : Out :=
  alu2 (.bfx d a b x) x 1 .std d a b (fun p q => bfExtract p q) s

/-- BFXS (R65). -/
def execBfxs (d : Reg) (a : Reg) (b : Reg) (x : Ctl) (s : State) : Out :=
  alu2 (.bfxs d a b x) x 1 .std d a b (fun p q => bfExtractSigned p q) s

/-- BFI (R65). -/
def execBfi (d : Reg) (a : Reg) (b : Reg) (x : Ctl) (s : State) : Out :=
  alu3 (.bfi d a b x) x 1 d a b bfInsert s

/-- CMP (R66). -/
def execCmp (p : PReg) (a : Reg) (b : Reg) (c : Cc) (x : Ctl) (s : State) : Out :=
  toPred (.cmp p a b c x) x p [a, b] [] (fun v => ccHolds c (v.rg a) (v.rg b)) s

/-- CMPI (R66). -/
def execCmpi (p : PReg) (a : Reg) (i : BitVec 5) (c : Cc) (x : Ctl) (s : State) : Out :=
  toPred (.cmpi p a i c x) x p [a] [] (fun v => ccHolds c (v.rg a) (i.signExtend 64)) s

/-- Sel (R67): a value always lands in gd. -/
def execSel (d : Reg) (a : Reg) (p : PReg) (x : Ctl) (s : State) : Out :=
  issue { x := x, gsrc := [d, a], psrc := [p], gdst := [d], enc := encode (.sel d a p x) }
    (fun cx s => .land cx s [.g d (if (s.seq cx.who).rp p then (s.seq cx.who).rg a else (s.seq cx.who).rg d)]) s

/-- SelN (R67): a value always lands in gd. -/
def execSelN (d : Reg) (a : Reg) (p : PReg) (x : Ctl) (s : State) : Out :=
  issue { x := x, gsrc := [d, a], psrc := [p], gdst := [d], enc := encode (.selN d a p x) }
    (fun cx s => .land cx s [.g d (if !(s.seq cx.who).rp p then (s.seq cx.who).rg a else (s.seq cx.who).rg d)]) s

/-- PAND (R68). -/
def execPand (p : PReg) (q : PReg) (r : PReg) (x : Ctl) (s : State) : Out :=
  toPred (.pand p q r x) x p [] [q, r] (fun v => v.rp q && v.rp r) s

/-- POR (R68). -/
def execPor (p : PReg) (q : PReg) (r : PReg) (x : Ctl) (s : State) : Out :=
  toPred (.por p q r x) x p [] [q, r] (fun v => v.rp q || v.rp r) s

/-- PXOR (R68). -/
def execPxor (p : PReg) (q : PReg) (r : PReg) (x : Ctl) (s : State) : Out :=
  toPred (.pxor p q r x) x p [] [q, r] (fun v => v.rp q != v.rp r) s

/-- PANDN (R68). -/
def execPandn (p : PReg) (q : PReg) (r : PReg) (x : Ctl) (s : State) : Out :=
  toPred (.pandn p q r x) x p [] [q, r] (fun v => v.rp q && !v.rp r) s

/-- PNOT (R68). -/
def execPnot (p : PReg) (q : PReg) (x : Ctl) (s : State) : Out :=
  toPred (.pnot p q x) x p [] [q] (fun v => !v.rp q) s

/-- PSETG (R68). -/
def execPsetg (p : PReg) (a : Reg) (x : Ctl) (s : State) : Out :=
  toPred (.psetg p a x) x p [a] [] (fun v => v.rg a != 0) s

/-- PRD (R69). -/
def execPrd (d : Reg) (x : Ctl) (s : State) : Out :=
  issue { x := x, psrc := List.finRange 8, gdst := [d], enc := encode (.prd d x) }
    (fun cx s => .land cx s [.g d (BitVec.ofNat 64 ((List.finRange 8).map fun j =>
      if (s.seq cx.who).rp j then 2 ^ j.val else 0).sum)]) s

/-- C.NOP (R39). -/
def execCNop (s : State) : Out :=
  issue { short := true } (fun _ s => .done s .next true) s

/-- C.MV (R39). -/
def execCMv (d : Reg) (a : Reg) (s : State) : Out :=
  short [a] .add d (fun v => v.rg a) s

/-- C.LI (R39). -/
def execCLi (d : Reg) (i : BitVec 6) (s : State) : Out :=
  short [] .std d (fun _ => i.signExtend 64) s

/-- C.ADDI (R39). -/
def execCAddi (d : Reg) (i : BitVec 6) (s : State) : Out :=
  short [d] .add d (fun v => v.rg d + i.signExtend 64) s

/-- C.ADD (R39). -/
def execCAdd (d : Reg) (a : Reg) (s : State) : Out :=
  short [d, a] .add d (fun v => v.rg d + v.rg a) s

/-- C.SUB (R39). -/
def execCSub (d : Reg) (a : Reg) (s : State) : Out :=
  short [d, a] .sub d (fun v => v.rg d - v.rg a) s

/-- C.AND (R39). -/
def execCAnd (d : Reg) (a : Reg) (s : State) : Out :=
  short [d, a] .std d (fun v => v.rg d &&& v.rg a) s

/-- C.OR (R39). -/
def execCOr (d : Reg) (a : Reg) (s : State) : Out :=
  short [d, a] .std d (fun v => v.rg d ||| v.rg a) s

/-- C.XOR (R39). -/
def execCXor (d : Reg) (a : Reg) (s : State) : Out :=
  short [d, a] .std d (fun v => v.rg d ^^^ v.rg a) s

/-- C.SLLI (R39). -/
def execCSlli (d : Reg) (h : BitVec 6) (s : State) : Out :=
  short [d] .std d (fun v => v.rg d <<< h.toNat) s

/-- C.SRLI (R39). -/
def execCSrli (d : Reg) (h : BitVec 6) (s : State) : Out :=
  short [d] .std d (fun v => v.rg d >>> h.toNat) s

/-- C.SRAI (R39). -/
def execCSrai (d : Reg) (h : BitVec 6) (s : State) : Out :=
  short [d] .std d (fun v => (v.rg d).sshiftRight h.toNat) s

end Sys2Proof.Machine
end

