-- ==== Sys2Proof/Machine/Special.lean ====
section
/-!
DEFINITION. The special functions of the vector engine (R167). Square root, reciprocal and reciprocal square root are exact up to a
sticky bit. The others are transcendental: each is computed in fixed point with 900 fraction bits, which is rounded once
(log entry 10).
-/
namespace Sys2Proof.Machine

/-- The special functions (R166). -/
inductive SpecialFn where
  | sqrt | rcp | rsqrt | exp | exp2 | log | log2 | tanh | sigm | sin | cos
  deriving DecidableEq, Repr

/-! ### Integer square root -/

/-- Adds to `r` the bits below `2 ^ k` that keep its square within `n`. -/
def isqrtBits (n : Nat) : Nat → Nat → Nat
  | 0, r => r
  | k + 1, r => if (r + 2 ^ k) * (r + 2 ^ k) ≤ n then isqrtBits n k (r + 2 ^ k) else isqrtBits n k r

/-- The integer square root. -/
def isqrt (n : Nat) : Nat := isqrtBits n (Nat.log2 n / 2 + 1) 0

/-- A positive quantity known to be `q` or strictly between `q` and `q + 1` units of 2^`e`, as a value that rounds as it does. -/
def sticky (neg : Bool) (q : Nat) (exact : Bool) (e : Int) : FVal :=
  if exact then .num neg q e else .num neg (2 * q + 1) (e - 1)

/-- √(m × 2^e). -/
def sqrtVal (m : Nat) (e : Int) : FVal :=
  let (m, e) := if e % 2 = 0 then (m, e) else (2 * m, e - 1)
  let n := m * 2 ^ 120
  sticky false (isqrt n) (isqrt n * isqrt n == n) (e / 2 - 60)

/-- 1 / (m × 2^e). -/
def rcpVal (neg : Bool) (m : Nat) (e : Int) : FVal := sticky neg (2 ^ 120 / m) (2 ^ 120 % m == 0) (-e - 120)

/-- 1 / √(m × 2^e). -/
def rsqrtVal (m : Nat) (e : Int) : FVal :=
  let (m, e) := if e % 2 = 0 then (m, e) else (2 * m, e - 1)
  let q := isqrt (2 ^ 240 / m)
  sticky false q (q * q * m == 2 ^ 240) (-(e / 2) - 120)

/-! ### Fixed point with 900 fraction bits -/

/-- One. -/
def fxOne : Int := 2 ^ 900

/-- A product. -/
def fxMul (a b : Int) : Int := a * b / fxOne

/-- A finite value in fixed point. -/
def fxOf (neg : Bool) (m : Nat) (e : Int) : Int :=
  let k : Int := if e + 900 ≥ 0 then (m * 2 ^ (e + 900).toNat : Nat) else (m / 2 ^ (-(e + 900)).toNat : Nat)
  if neg then -k else k

/-- A fixed-point number as a value. -/
def fxVal (x : Int) : FVal := ofScaled x (-900) false

/-- Horner's sum 1 + r/1 × (1 + r/2 × (…)) of `n` terms, the innermost divisor being `n`. -/
def fxExpSum (r : Int) : Nat → Int → Int
  | 0, acc => acc
  | n + 1, acc => fxExpSum r n (fxOne + fxMul r acc / (n + 1 : Nat))

/-- Squares `n` times. -/
def fxSquares : Nat → Int → Int
  | 0, x => x
  | n + 1, x => fxSquares n (fxMul x x)

/-- e^x for |x| ≤ 400. -/
def fxExp (x : Int) : Int := fxSquares 10 (fxExpSum (x / 1024) 150 fxOne)

/-- The sum of t^(2i+1) / (2i+1) over `n` further terms, `t2` = ±t². -/
def fxOddSum (t2 : Int) : Nat → Nat → Int → Int → Int
  | 0, _, _, acc => acc
  | n + 1, k, p, acc => fxOddSum t2 n (k + 2) (fxMul p t2) (acc + p / (k : Nat))

/-- atanh t for |t| ≤ 1/3. -/
def fxAtanh (t : Int) : Int := fxOddSum (fxMul t t) 300 1 t 0

/-- atan (1/k) for k ≥ 5. -/
def fxAtanInv (k : Nat) : Int :=
  let t := fxOne / (k : Nat)
  fxOddSum (-(fxMul t t)) 210 1 t 0

/-- ln 2. -/
def fxLn2 : Int := 2 * fxAtanh (fxOne / 3)

/-- π / 2 (Machin's formula). -/
def fxHalfPi : Int := 2 * (4 * fxAtanInv 5 - fxAtanInv 239)

/-- ln (m × 2^e) for m > 0. -/
def fxLog (m : Nat) (e : Int) : Int :=
  let k : Int := Nat.log2 m
  let f := fxOf false m (-k)
  (e + k) * fxLn2 + 2 * fxAtanh ((f - fxOne) * fxOne / (f + fxOne))

/-- The sum of ± r^k / k! over `n` further terms of every second k. -/
def fxTrigSum (r2 : Int) : Nat → Nat → Int → Int → Int
  | 0, _, _, acc => acc
  | n + 1, k, p, acc => fxTrigSum r2 n (k + 2) (-(fxMul p r2) / ((k + 1) * (k + 2) : Nat)) (acc + p)

/-- sin r and cos r for |r| ≤ 1. -/
def fxSinCos (r : Int) : Int × Int :=
  let r2 := fxMul r r
  (fxTrigSum r2 90 1 r 0, fxTrigSum r2 90 0 fxOne 0)

/-- sin x, or cos x: x is reduced by the nearest multiple of π / 2. -/
def fxTrig (cos : Bool) (x : Int) : Int :=
  let q := (2 * x + fxHalfPi) / (2 * fxHalfPi)
  let (sn, cs) := fxSinCos (x - q * fxHalfPi)
  match (if cos then q + 1 else q) % 4 with
  | 0 => sn
  | 1 => cs
  | 2 => -sn
  | _ => -cs

/-! ### The functions -/

/-- A positive value too small, or too large, for every format. -/
def farValue (large : Bool) : FVal := .num false 1 (if large then 2000 else -2000)

/-- A value just below 1. -/
def belowOne (neg : Bool) : FVal := .num neg (2 ^ 300 - 1) (-300)

/-- Whether |m × 2^e| exceeds 2^k. -/
def exceeds (m : Nat) (e : Int) (k : Int) : Bool := decide (k ≤ e + Nat.log2 m)

/-- The exact value of a special function, or one that rounds as it does, with the flags of a special input (R167). -/
def specialVal (fn : SpecialFn) (v : FVal) : FVal × BitVec 6 :=
  match v with
  | .nan sg => (.nan false, if sg then flNV else 0)
  | .inf neg =>
    match fn with
    | .sqrt => if neg then (.nan false, flNV) else (.inf false, 0)
    | .rcp => (.num neg 0 0, 0)
    | .rsqrt => if neg then (.nan false, flNV) else (.num false 0 0, 0)
    | .exp | .exp2 => if neg then (.num false 0 0, 0) else (.inf false, 0)
    | .log | .log2 => if neg then (.nan false, flNV) else (.inf false, 0)
    | .tanh => (.num neg 1 0, 0)
    | .sigm => if neg then (.num false 0 0, 0) else (.num false 1 0, 0)
    | .sin | .cos => (.nan false, flNV)
  | .num neg m e =>
    if m = 0 then
      match fn with
      | .sqrt | .tanh | .sin => (.num neg 0 0, 0)
      | .rcp | .rsqrt => (.inf neg, flDZ)
      | .exp | .exp2 | .cos => (.num false 1 0, 0)
      | .log | .log2 => (.inf true, flDZ)
      | .sigm => (.num false 1 (-1), 0)
    else
      match fn with
      | .sqrt => if neg then (.nan false, flNV) else (sqrtVal m e, 0)
      | .rcp => (rcpVal neg m e, 0)
      | .rsqrt => if neg then (.nan false, flNV) else (rsqrtVal m e, 0)
      | .exp => (if exceeds m e 8 then farValue !neg else fxVal (fxExp (fxOf neg m e)), 0)
      | .exp2 =>
        (if exceeds m e 8 then farValue !neg
         else
           let x := fxOf neg m e
           if x % fxOne = 0 then .num false 1 (x / fxOne) else fxVal (fxExp (fxMul x fxLn2)), 0)
      | .log =>
        if neg then (.nan false, flNV)
        else (if (FVal.num neg m e).eqv (.num false 1 0) then .num false 0 0 else fxVal (fxLog m e), 0)
      | .log2 =>
        if neg then (.nan false, flNV)
        else
          let k : Int := Nat.log2 m
          (if m = 2 ^ Nat.log2 m then ofScaled (e + k) 0 false else fxVal (fxLog m e * fxOne / fxLn2), 0)
      | .tanh =>
        (if exceeds m e 7 then belowOne neg
         else
           let u := fxExp (2 * fxOf neg m e)
           fxVal ((u - fxOne) * fxOne / (u + fxOne)), 0)
      | .sigm =>
        (if exceeds m e 8 then (if neg then farValue false else belowOne false)
         else
           let u := fxExp (fxOf neg m e)
           fxVal (u * fxOne / (u + fxOne)), 0)
      | .sin => (fxVal (fxTrig false (fxOf neg m e)), 0)
      | .cos => (fxVal (fxTrig true (fxOf neg m e)), 0)

/-- A special function on bits of a format (R167): for FP16 and BF16 the FP32 result is rounded once more; a
delivered value that is tiny and differs from the exact one raises UF (R133). -/
def Fmt.special (f : Fmt) (fn : SpecialFn) (flush : Bool) (bits : Nat) : Nat × BitVec 6 :=
  let (x, fx) := f.read flush bits
  let (v, fv) := specialVal fn x
  if f.fb < 23 then
    let (y, fy) := fp32.round 0 flush v
    let (r, fr) := f.round 0 flush (fp32.read false y).1
    let tiny := decide (r % 2 ^ (f.width - 1) < 2 ^ f.fb) && r % 2 ^ (f.width - 1) != 0
    (r, fx ||| fv ||| fy ||| fr ||| (if tiny && fy.getLsbD 0 then flUF else 0))
  else
    let (r, fr) := f.round 0 flush v
    (r, fx ||| fv ||| fr)

/-! ### Minimum, maximum and comparison (R163, R164) -/

/-- Whether a comes before b where −0 is less than +0. -/
def FVal.below (a b : FVal) : Bool :=
  a.lt b || (match a, b with | .num true 0 _, .num false 0 _ => true | _, _ => false)

/-- IEEE minimum or maximum (`number` = false), minimumNumber or maximumNumber (`number` = true). -/
def Fmt.minMax (f : Fmt) (flush : Bool) (greatest number : Bool) (a b : Nat) : Nat × BitVec 6 :=
  let (x, fx) := f.read flush a
  let (y, fy) := f.read flush b
  let fl := fx ||| fy ||| nvOf x ||| nvOf y
  let give := fun (v : FVal) => ((f.round 0 false v).1, fl)
  if x.isNan && y.isNan then (f.nan, fl)
  else if x.isNan then if number then give y else (f.nan, fl)
  else if y.isNan then if number then give x else (f.nan, fl)
  else if greatest then give (if x.below y then y else x)
  else give (if y.below x then y else x)

/-- A float condition of VCMP (R164). -/
def Fmt.compare (f : Fmt) (flush : Bool) (cc : Vcc) (a b : Nat) : Bool × BitVec 6 :=
  let (x, fx) := f.read flush a
  let (y, fy) := f.read flush b
  let un := x.isNan || y.isNan
  let nv : BitVec 6 :=
    match cc with
    | .lt | .ge | .le | .gt => if un then flNV else 0
    | _ => nvOf x ||| nvOf y
  let r :=
    match cc with
    | .eq => x.eqv y
    | .ne => !x.eqv y
    | .lt => !un && x.lt y
    | .ge => !un && !x.lt y
    | .le => !un && !y.lt x
    | .gt => !un && y.lt x
    | .un => un
    | .ord => !un
    | _ => false
  (r, fx ||| fy ||| nv)

end Sys2Proof.Machine
end

