-- ==== Sys2Proof/Machine/Vector.lean ====
section
/-!
DEFINITION. The vector instructions (07_vector.md), VDEFER (R105) and VCONF (R325): every operand form over rows cut into lanes
by ACCT, with lanes selected by m0.
-/
namespace Sys2Proof.Machine

/-! ### Lanes (R154 to R157) -/

/-- A lane type: width in bytes, lanes in a row, float format (R154). -/
structure LaneKind where
  w : Nat
  n : Nat
  fmt : Option Fmt

/-- The lane type of a TYPE code (R154). -/
def laneKind (ty : Nat) : LaneKind :=
  match ty with
  | 0 => { w := 4, n := 128, fmt := some fp32 }
  | 1 => { w := 4, n := 128, fmt := none }
  | 2 => { w := 2, n := 256, fmt := some bf16 }
  | 3 => { w := 2, n := 256, fmt := some fp16 }
  | 4 => { w := 2, n := 256, fmt := none }
  | 5 => { w := 8, n := 64, fmt := some fp64 }
  | 6 => { w := 8, n := 64, fmt := none }
  | _ => { w := 1, n := 512, fmt := none }

/-- The lane type that ACCT selects. -/
def Core.lane (c : Core) : LaneKind := laneKind (fld c.acct 2 0)

/-- The bits of a lane. -/
def LaneKind.bits (k : LaneKind) : Nat := 8 * k.w

/-- The accumulator row of a vector register (R155). -/
def Core.vrow (c : Core) (v : VReg) : Fin 128 := Fin.ofNat 128 (c.vwb.toNat % 128 + v.val)

/-- The register `j` after a vector register (R155). -/
def vplus (v : VReg) (j : Nat) : VReg := Fin.ofNat 32 (v.val + j)

/-- A row as it is read: a poisoned sector reads zero (R399). -/
def Core.rowBytes (c : Core) (n : Fin 128) : Nat :=
  let v := (c.acc.get n).toNat
  let bad := c.accBad.filter fun x => x / 16 == n.val
  if bad.isEmpty then v
  else ((List.range 512).map fun j => if bad.contains (n.val * 16 + j / 32) then 0 else v / 256 ^ j % 256 * 256 ^ j).sum

/-- The poisoned sectors of rows. -/
def Core.badRows (c : Core) (rows : List (Fin 128)) : List Nat := c.accBad.filter fun x => rows.any fun n => x / 16 == n.val

/-- Records and counts reads of poisoned rows (R399 to R401). -/
def State.noteRows (s : State) (c : CoreId) (rows : List (Fin 128)) : State :=
  match (s.core c).badRows rows with
  | [] => s
  | ks => (ks.foldl State.foundOnDie s).modCore c fun k => k.derrRecord 3 0

/-- The lanes of width `w` of a row. -/
def lanesOf (w n row : Nat) : List Nat := (List.range n).map fun i => row / 2 ^ (8 * w * i) % 2 ^ (8 * w)

/-- A row made of lanes of width `w`, lane 0 first. -/
def packLanes (w : Nat) : List Nat → Nat
  | [] => 0
  | v :: vs => v % 2 ^ (8 * w) + 2 ^ (8 * w) * packLanes w vs

/-- Whether a mask selects lane `i` (R156). -/
def selects (m : Mask) (w i : Nat) : Bool := m.getLsbD (i * w)

/-- The byte enables of lanes of width `w`. -/
def laneMask (w : Nat) (sel : List Bool) : Mask :=
  BitVec.ofNat 512 ((List.range sel.length).map fun i => if sel.getD i false then (2 ^ w - 1) * 2 ^ (i * w) else 0).sum

/-- What a vector instruction reads besides its rows: the core at issue and the block mode. -/
structure Vx where
  c : Core
  flush : Bool

/-- The lane type. -/
def Vx.k (v : Vx) : LaneKind := v.c.lane

/-- The lanes of a vector register. -/
def Vx.lanes (v : Vx) (r : VReg) : List Nat := lanesOf v.k.w v.k.n (v.c.rowBytes (v.c.vrow r))

/-- For each lane, whether m0 selects it. -/
def Vx.sel (v : Vx) : List Bool := (List.range v.k.n).map fun i => selects (v.c.mask 0) v.k.w i

/-- A result for the lanes of a vector register that `sel` selects. -/
def Vx.put (v : Vx) (r : VReg) (w : Nat) (vals : List Nat) (sel : List Bool) (fl : BitVec 6) : Result :=
  { dest := .row (v.c.vrow r), value := BitVec.ofNat 4096 (packLanes w vals), en := laneMask w sel, flags := fl }

/-- A result for a whole vector register. -/
def Vx.putAll (v : Vx) (r : VReg) (row : Nat) (fl : BitVec 6) : Result :=
  { dest := .row (v.c.vrow r), value := BitVec.ofNat 4096 row, en := BitVec.allOnes 512, flags := fl }

/-- A result for a mask. -/
def Result.mask (m : MReg) (v : Mask) (fl : BitVec 6) : Result :=
  { dest := .mask m, value := v.setWidth 4096, en := BitVec.allOnes 512, flags := fl }

/-- All flags of lanes. -/
def orFlags (fs : List (Nat × BitVec 6)) : BitVec 6 := fs.foldl (fun a f => a ||| f.2) 0

/-! ### The shapes of vector instructions -/

/-- ISSUING A VECTOR INSTRUCTION (R158, R160, R161): C alone issues it; it reads the rows `srcs`, the masks `ms` and ACCT at
issue; `bad` says which TYPE it does not accept. -/
def vecIssue (sp : Spec) (sfu : Bool) (srcs : List VReg) (ms : List MReg) (bad : LaneKind → Bool)
    (f : Vx → Seq → List Result) (s : State) : Out :=
  issue { sp with
      issuers := [.C]
      wide := fun c => (srcs.map fun v => Dest.row (c.vrow v)) ++ ms.map Dest.mask
      waits := fun cx s => sfu && decide (s.cycle < (s.core cx.who.core).sfuBusy) }
    (fun cx s =>
      let c := s.core cx.who.core
      if bad c.lane then .trap Trap.illegal
      else
        let s := (s.noteRows cx.who.core (srcs.map c.vrow)).modCore cx.who.core fun c =>
          { c with sfuBusy := if sfu then s.cycle + 4 else c.sfuBusy }
        .land cx s (f { c := c, flush := cx.exposed } (s.seq cx.who))) s

/-- Every TYPE is accepted. -/
def anyType : LaneKind → Bool := fun _ => false
/-- Integer TYPE only. -/
def intOnly (k : LaneKind) : Bool := k.fmt.isSome
/-- Float TYPE only. -/
def floatOnly (k : LaneKind) : Bool := k.fmt.isNone
/-- FP32, FP16 and BF16 only. -/
def smallFloat (k : LaneKind) : Bool := k.fmt.isNone || k.w == 8
/-- FP32 only. -/
def fp32Only (k : LaneKind) : Bool := k.fmt != some fp32

/-- An instruction that gives the lanes of vd that m0 selects a value computed from the same lanes of its sources (R157). -/
def laneWise (i : Instr) (x : Ctl) (lat : Nat) (sfu : Bool) (d : VReg) (srcs : List VReg) (bad : LaneKind → Bool)
    (f : LaneKind → Bool → List Nat → Nat × BitVec 6) (s : State) : Out :=
  vecIssue { x := x, minLat := lat, wdst := fun c => [.row (c.vrow d)], tape := .command, enc := encode i } sfu srcs [0] bad
    (fun v _ =>
      let ls := srcs.map v.lanes
      let sel := v.sel
      let rs := (List.range v.k.n).map fun j =>
        if sel.getD j false then f v.k v.flush (ls.map fun l => l.getD j 0) else (0, 0)
      [v.put d v.k.w (rs.map Prod.fst) sel (orFlags rs)]) s

/-- An integer or a float operation, by TYPE. -/
def byType (ff : Fmt → Bool → List Nat → Nat × BitVec 6) (fi : Nat → List Nat → Nat) (k : LaneKind) (flush : Bool)
    (l : List Nat) : Nat × BitVec 6 :=
  match k.fmt with
  | some f => ff f flush l
  | none => (fi k.bits l % 2 ^ k.bits, 0)

/-- An operation on bits, whatever the TYPE (R159). -/
def bitwise (fi : Nat → List Nat → Nat) (k : LaneKind) (_ : Bool) (l : List Nat) : Nat × BitVec 6 :=
  (fi k.bits l % 2 ^ k.bits, 0)

/-- The first and second source lanes. -/
def two {α : Type} (f : Nat → Nat → α) (l : List Nat) : α := f (l.getD 0 0) (l.getD 1 0)

/-- The three source lanes. -/
def three {α : Type} (f : Nat → Nat → Nat → α) (l : List Nat) : α := f (l.getD 0 0) (l.getD 1 0) (l.getD 2 0)

/-- A signed number as `b` bits. -/
def wrapInt (b : Nat) (k : Int) : Nat := (k % 2 ^ b).toNat

/-- |x| of a `b`-bit integer, as an unsigned number. -/
def absInt (b x : Nat) : Nat := (sextNat b x).natAbs

/-- Clears the sign bit of a `b`-bit lane. -/
def clearSign (b x : Nat) : Nat := x % 2 ^ (b - 1)

/-! ### Arithmetic, logic and shifts (R162) -/

/-- VADD (R162): va + vb. -/
def execVadd (v a b : VReg) (x : Ctl) (s : State) : Out :=
  laneWise (.vadd v a b x) x 2 false v [a, b] anyType (byType (fun f fl => two (f.add 0 fl)) (fun _ => two fun p q => p + q)) s

/-- VSUB (R162): va − vb. -/
def execVsub (v a b : VReg) (x : Ctl) (s : State) : Out :=
  laneWise (.vsub v a b x) x 2 false v [a, b] anyType (byType (fun f fl => two (f.sub 0 fl)) (fun n => two fun p q => p + (2 ^ n - q))) s

/-- VMUL (R162): va × vb. -/
def execVmul (v a b : VReg) (x : Ctl) (s : State) : Out :=
  laneWise (.vmul v a b x) x 3 false v [a, b] anyType (byType (fun f fl => two (f.mul 0 fl)) (fun _ => two fun p q => p * q)) s

/-- VFMA (R162): va × vb + vd, rounded once. -/
def execVfma (v a b : VReg) (x : Ctl) (s : State) : Out :=
  laneWise (.vfma v a b x) x 3 false v [a, b, v] anyType (byType (fun f fl => three (f.fma 0 fl)) (fun _ => three fun p q r => p * q + r)) s

/-- VMIN (R162): IEEE minimum or signed minimum (R163). -/
def execVmin (v a b : VReg) (x : Ctl) (s : State) : Out :=
  laneWise (.vmin v a b x) x 2 false v [a, b] anyType (byType (fun f fl => two (f.minMax fl false false)) (fun n => two fun p q => if sextNat n p ≤ sextNat n q then p else q)) s

/-- VMAX (R162): IEEE maximum or signed maximum (R163). -/
def execVmax (v a b : VReg) (x : Ctl) (s : State) : Out :=
  laneWise (.vmax v a b x) x 2 false v [a, b] anyType (byType (fun f fl => two (f.minMax fl true false)) (fun n => two fun p q => if sextNat n q ≤ sextNat n p then p else q)) s

/-- VMINN (R162): minimumNumber or unsigned minimum (R163). -/
def execVminn (v a b : VReg) (x : Ctl) (s : State) : Out :=
  laneWise (.vminn v a b x) x 2 false v [a, b] anyType (byType (fun f fl => two (f.minMax fl false true)) (fun _ => two fun p q => min p q)) s

/-- VMAXN (R162): maximumNumber or unsigned maximum (R163). -/
def execVmaxn (v a b : VReg) (x : Ctl) (s : State) : Out :=
  laneWise (.vmaxn v a b x) x 2 false v [a, b] anyType (byType (fun f fl => two (f.minMax fl true true)) (fun _ => two fun p q => max p q)) s

/-- VAND (R162): va AND vb. -/
def execVand (v a b : VReg) (x : Ctl) (s : State) : Out :=
  laneWise (.vand v a b x) x 1 false v [a, b] anyType (bitwise fun _ => two fun p q => p &&& q) s

/-- VOR (R162): va OR vb. -/
def execVor (v a b : VReg) (x : Ctl) (s : State) : Out :=
  laneWise (.vor v a b x) x 1 false v [a, b] anyType (bitwise fun _ => two fun p q => p ||| q) s

/-- VXOR (R162): va XOR vb. -/
def execVxor (v a b : VReg) (x : Ctl) (s : State) : Out :=
  laneWise (.vxor v a b x) x 1 false v [a, b] anyType (bitwise fun _ => two fun p q => p ^^^ q) s

/-- VANDN (R162): va AND NOT vb. -/
def execVandn (v a b : VReg) (x : Ctl) (s : State) : Out :=
  laneWise (.vandn v a b x) x 1 false v [a, b] anyType (bitwise fun n => two fun p q => p &&& (2 ^ n - 1 - q)) s

/-- VSLL (R162): va << s. -/
def execVsll (v a b : VReg) (x : Ctl) (s : State) : Out :=
  laneWise (.vsll v a b x) x 2 false v [a, b] anyType (bitwise fun n => two fun p q => p * 2 ^ (q % n)) s

/-- VSRL (R162): va >> s, zeros in. -/
def execVsrl (v a b : VReg) (x : Ctl) (s : State) : Out :=
  laneWise (.vsrl v a b x) x 2 false v [a, b] anyType (bitwise fun n => two fun p q => p / 2 ^ (q % n)) s

/-- VSRA (R162): va >> s, copies of the top bit in. -/
def execVsra (v a b : VReg) (x : Ctl) (s : State) : Out :=
  laneWise (.vsra v a b x) x 2 false v [a, b] anyType (bitwise fun n => two fun p q => wrapInt n (sextNat n p / 2 ^ (q % n))) s

/-- VFSHL (R162): funnel shift left of (vd, va) by s (R60). -/
def execVfshl (v a b : VReg) (x : Ctl) (s : State) : Out :=
  laneWise (.vfshl v a b x) x 2 false v [a, b, v] anyType (bitwise fun n => three fun p q r => (r * 2 ^ n + p) * 2 ^ (q % n) / 2 ^ n) s

/-- VFSHR (R162): funnel shift right of (vd, va) by s (R60). -/
def execVfshr (v a b : VReg) (x : Ctl) (s : State) : Out :=
  laneWise (.vfshr v a b x) x 2 false v [a, b, v] anyType (bitwise fun n => three fun p q r => (p * 2 ^ n + r) / 2 ^ (q % n)) s

/-- VABSD (R162): |va − vb|. -/
def execVabsd (v a b : VReg) (x : Ctl) (s : State) : Out :=
  laneWise (.vabsd v a b x) x 2 false v [a, b] anyType (byType (fun f fl => two fun p q => ((clearSign f.width (f.sub 0 fl p q).1), (f.sub 0 fl p q).2))
      (fun n => two fun p q => (sextNat n p - sextNat n q).natAbs)) s

/-- VSEL (R162): byte by byte by m1, within the lanes that m0 selects. -/
def execVsel (v a b : VReg) (x : Ctl) (s : State) : Out :=
  vecIssue { x := x, minLat := 1, wdst := fun c => [.row (c.vrow v)], tape := .command, enc := encode (.vsel v a b x) } false [a, b] [0, 1] anyType
    (fun y _ =>
      let p := lanesOf 1 512 (y.c.rowBytes (y.c.vrow a))
      let q := lanesOf 1 512 (y.c.rowBytes (y.c.vrow b))
      let r := packLanes 1 ((List.range 512).map fun j => if (y.c.mask 1).getLsbD j then p.getD j 0 else q.getD j 0)
      [{ y.putAll v r 0 with en := laneMask y.k.w y.sel }]) s

/-- VPERM (R162): lane u(vb) mod n of va. -/
def execVperm (v a b : VReg) (x : Ctl) (s : State) : Out :=
  vecIssue { x := x, minLat := 2, wdst := fun c => [.row (c.vrow v)], tape := .command, enc := encode (.vperm v a b x) } false [a, b] [0] anyType
    (fun y _ =>
      let p := y.lanes a
      [y.put v y.k.w ((y.lanes b).map fun i => p.getD (i % y.k.n) 0) y.sel 0]) s

/-! ### Compare and masks (R164, R165) -/

/-- Whether a condition is ILLEGAL for a TYPE (R164). -/
def vccBad (cc : Vcc) (k : LaneKind) : Bool :=
  match cc with
  | .ltu | .geu | .leu | .gtu => k.fmt.isSome
  | .un | .ord => k.fmt.isNone
  | _ => false

/-- An integer condition of VCMP on `n`-bit lanes (R164). -/
def vccInt (cc : Vcc) (n p q : Nat) : Bool :=
  match cc with
  | .eq => p == q
  | .ne => p != q
  | .lt => decide (sextNat n p < sextNat n q)
  | .ge => decide (sextNat n p ≥ sextNat n q)
  | .le => decide (sextNat n p ≤ sextNat n q)
  | .gt => decide (sextNat n p > sextNat n q)
  | .ltu => decide (p < q)
  | .geu => decide (p ≥ q)
  | .leu => decide (p ≤ q)
  | .gtu => decide (p > q)
  | _ => false

/-- VCMP (R164). -/
def execVcmp (m : MReg) (a b : VReg) (c : Vcc) (x : Ctl) (s : State) : Out :=
  vecIssue { x := x, minLat := 2, tape := .command, enc := encode (.vcmp m a b c x) } false [a, b] [] (vccBad c)
    (fun y _ =>
      let rs := ((y.lanes a).zip (y.lanes b)).map fun (p, q) =>
        match y.k.fmt with
        | some f => f.compare y.flush c p q
        | none => (vccInt c y.k.bits p q, 0)
      [Result.mask m (laneMask y.k.w (rs.map Prod.fst)) (rs.foldl (fun acc r => acc ||| r.2) 0)]) s

/-- A mask operation that writes a whole mask from masks (R165). -/
def maskOp (i : Instr) (x : Ctl) (m : MReg) (srcs : List MReg) (f : Core → Mask) (s : State) : Out :=
  vecIssue { x := x, minLat := 1, tape := .command, enc := encode i } false [] srcs anyType
    (fun y _ => [Result.mask m (f y.c) 0]) s

/-- MAND (R165). -/
def execMand (m n o : MReg) (x : Ctl) (s : State) : Out :=
  maskOp (.mand m n o x) x m [n, o] (fun c => c.mask n &&& c.mask o) s

/-- MOR (R165). -/
def execMor (m n o : MReg) (x : Ctl) (s : State) : Out :=
  maskOp (.mor m n o x) x m [n, o] (fun c => c.mask n ||| c.mask o) s

/-- MXOR (R165). -/
def execMxor (m n o : MReg) (x : Ctl) (s : State) : Out :=
  maskOp (.mxor m n o x) x m [n, o] (fun c => c.mask n ^^^ c.mask o) s

/-- MANDN (R165). -/
def execMandn (m n o : MReg) (x : Ctl) (s : State) : Out :=
  maskOp (.mandn m n o x) x m [n, o] (fun c => c.mask n &&& ~~~(c.mask o)) s

/-- MNOT (R165). -/
def execMnot (m n : MReg) (x : Ctl) (s : State) : Out := maskOp (.mnot m n x) x m [n] (fun c => ~~~(c.mask n)) s

/-- MSETL (R165): the first u(ga) lanes. -/
def execMsetl (m : MReg) (a : Reg) (x : Ctl) (s : State) : Out :=
  vecIssue { x := x, minLat := 1, gsrc := [a], tape := .command, enc := encode (.msetl m a x) } false [] [] anyType
    (fun y q =>
      [Result.mask m (laneMask y.k.w ((List.range y.k.n).map fun i => decide (i < (q.rg a).toNat))) 0]) s

/-- MCNT (R165): how many lanes a mask selects. -/
def execMcnt (n : MReg) (a : Reg) (x : Ctl) (s : State) : Out :=
  vecIssue { x := x, minLat := 1, gdst := [a], cls := .varying, enc := encode (.mcnt n a x) } false [] [n] anyType
    (fun y _ =>
      [Result.g a (BitVec.ofNat 64 ((List.range y.k.n).filter fun i => selects (y.c.mask n) y.k.w i).length)]) s

/-- MFFS (R165): the lowest lane that a mask selects, n if none. -/
def execMffs (n : MReg) (a : Reg) (x : Ctl) (s : State) : Out :=
  vecIssue { x := x, minLat := 1, gdst := [a], cls := .varying, enc := encode (.mffs n a x) } false [] [n] anyType
    (fun y _ =>
      [Result.g a (BitVec.ofNat 64
        (((List.range y.k.n).find? fun i => selects (y.c.mask n) y.k.w i).getD y.k.n))]) s

/-! ### Unary and special functions (R166, R167) -/

/-- The first source lane. -/
def one {α : Type} (f : Nat → α) (l : List Nat) : α := f (l.getD 0 0)

/-- VNEG (R166). -/
def execVneg (v a : VReg) (x : Ctl) (s : State) : Out :=
  laneWise (.vneg v a x) x 1 false v [a] anyType (fun k _ => one fun p => (if k.fmt.isSome then p ^^^ 2 ^ (k.bits - 1) else (2 ^ k.bits - p) % 2 ^ k.bits, 0)) s

/-- VABS (R166). -/
def execVabs (v a : VReg) (x : Ctl) (s : State) : Out :=
  laneWise (.vabs v a x) x 1 false v [a] anyType (fun k _ => one fun p => (if k.fmt.isSome then clearSign k.bits p else absInt k.bits p, 0)) s

/-- VMOV (R166). -/
def execVmov (v a : VReg) (x : Ctl) (s : State) : Out :=
  laneWise (.vmov v a x) x 1 false v [a] anyType (fun _ _ => one fun p => (p, 0)) s

/-- VPOPC (R166). -/
def execVpopc (v a : VReg) (x : Ctl) (s : State) : Out :=
  laneWise (.vpopc v a x) x 2 false v [a] anyType (fun k _ => one fun p => (popCount p k.bits, 0)) s

/-- VCLZ (R166). -/
def execVclz (v a : VReg) (x : Ctl) (s : State) : Out :=
  laneWise (.vclz v a x) x 2 false v [a] anyType (fun k _ => one fun p => (leadingZeros p k.bits, 0)) s

/-- VCTZ (R166). -/
def execVctz (v a : VReg) (x : Ctl) (s : State) : Out :=
  laneWise (.vctz v a x) x 2 false v [a] anyType (fun k _ => one fun p => (trailingZeros p k.bits, 0)) s

/-- VBREV (R166). -/
def execVbrev (v a : VReg) (x : Ctl) (s : State) : Out :=
  laneWise (.vbrev v a x) x 2 false v [a] anyType (fun k _ => one fun p => (reverseBits p k.bits, 0)) s

/-- A special function lane by lane (R167). -/
def specialOp (i : Instr) (x : Ctl) (fn : SpecialFn) (v a : VReg) (bad : LaneKind → Bool) (s : State) : Out :=
  laneWise i x 6 true v [a] bad (byType (fun f fl => one (f.special fn fl)) fun _ _ => 0) s

/-- VSQRT (R166, R167). -/
def execVsqrt (v a : VReg) (x : Ctl) (s : State) : Out :=
  specialOp (.vsqrt v a x) x .sqrt v a floatOnly s

/-- VRCP (R166, R167). -/
def execVrcp (v a : VReg) (x : Ctl) (s : State) : Out :=
  specialOp (.vrcp v a x) x .rcp v a floatOnly s

/-- VRSQRT (R166, R167). -/
def execVrsqrt (v a : VReg) (x : Ctl) (s : State) : Out :=
  specialOp (.vrsqrt v a x) x .rsqrt v a smallFloat s

/-- VEXP (R166, R167). -/
def execVexp (v a : VReg) (x : Ctl) (s : State) : Out :=
  specialOp (.vexp v a x) x .exp v a smallFloat s

/-- VEXP2 (R166, R167). -/
def execVexp2 (v a : VReg) (x : Ctl) (s : State) : Out :=
  specialOp (.vexp2 v a x) x .exp2 v a smallFloat s

/-- VLOG (R166, R167). -/
def execVlog (v a : VReg) (x : Ctl) (s : State) : Out :=
  specialOp (.vlog v a x) x .log v a smallFloat s

/-- VLOG2 (R166, R167). -/
def execVlog2 (v a : VReg) (x : Ctl) (s : State) : Out :=
  specialOp (.vlog2 v a x) x .log2 v a smallFloat s

/-- VTANH (R166, R167). -/
def execVtanh (v a : VReg) (x : Ctl) (s : State) : Out :=
  specialOp (.vtanh v a x) x .tanh v a smallFloat s

/-- VSIGM (R166, R167). -/
def execVsigm (v a : VReg) (x : Ctl) (s : State) : Out :=
  specialOp (.vsigm v a x) x .sigm v a smallFloat s

/-- VSIN (R166, R167). -/
def execVsin (v a : VReg) (x : Ctl) (s : State) : Out :=
  specialOp (.vsin v a x) x .sin v a smallFloat s

/-- VCOS (R166, R167). -/
def execVcos (v a : VReg) (x : Ctl) (s : State) : Out :=
  specialOp (.vcos v a x) x .cos v a smallFloat s

/-! ### Conversions (R168 to R170) -/

/-- Converts a lane (R136, R169). -/
def convertLane (src dst : LaneKind) (rm : Rm) (flush : Bool) (p : Nat) : Nat × BitVec 6 :=
  match src.fmt, dst.fmt with
  | some f, some g => cvtFloat f g rm flush p
  | some f, none => cvtToInt f dst.bits rm flush p
  | none, some g => cvtFromInt g rm flush (sextNat src.bits p)
  | none, none =>
    let k := sextNat src.bits p
    (wrapInt dst.bits (max (-(2 ^ (dst.bits - 1))) (min (2 ^ (dst.bits - 1) - 1) k)), 0)

/-- The ratio of two lane widths (R168). -/
def widthRatio (a b : LaneKind) : Nat := if a.w ≥ b.w then a.w / b.w else b.w / a.w

/-- VCVT (R168, R169). -/
def execVcvt (v a : VReg) (k : BitVec 3) (r p : BitVec 2) (x : Ctl) (s : State) : Out :=
  let dk := laneKind k.toNat
  vecIssue { x := x, minLat := 2, wdst := fun c => [.row (c.vrow v)], tape := .command, enc := encode (.vcvt v a k r p x) } false [a] [0]
    (fun sk => widthRatio sk dk == 8 || decide (p.toNat ≥ widthRatio sk dk) || (r != 0 && sk.fmt.isNone && dk.fmt.isNone))
    (fun y _ =>
      let ns := y.k.n
      let src := y.lanes a
      let sel := y.sel
      let from_ := fun (i : Nat) =>
        if y.k.w > dk.w then (if p.toNat * ns ≤ i ∧ i < p.toNat * ns + ns then some (i - p.toNat * ns) else none)
        else some (p.toNat * dk.n + i)
      let on := fun (i : Nat) => match from_ i with | some j => sel.getD j false | none => false
      let rs := (List.range dk.n).map fun i =>
        match from_ i with
        | some j => if sel.getD j false then convertLane y.k dk r y.flush (src.getD j 0) else (0, 0)
        | none => (0, 0)
      [y.put v dk.w (rs.map Prod.fst) ((List.range dk.n).map on) (orFlags rs)]) s

/-- The destination and the source format of a VCVTEF pair (R170). -/
def efPair (f : BitVec 2) : Fmt × Fmt :=
  match f.toNat with
  | 0 => (bf16, fp32)
  | 1 => (fp16, fp32)
  | _ => (fp32, fp64)

/-- One lane of VCVTEF: y, e and the flags (R170). -/
def efLane (d sf : Fmt) (flush : Bool) (p : Nat) : Nat × Nat × BitVec 6 :=
  let (xv, _) := sf.read flush p
  let (y, fy) := cvtFloat sf d 0 flush p
  match xv with
  | .nan _ => (y, sf.nan, fy)
  | .inf _ => (y, 0, fy)
  | .num neg m _ =>
    match (d.read false y).1 with
    | .num n1 m1 e1 =>
      let (e, fe) := sf.round 0 flush (addExact 0 xv (.num (!n1) m1 e1)).1
      (y, if m = 0 then 0 else e, fy ||| fe)
    | _ =>
      let big := (d.read false (d.maxFinite (!neg))).1
      (y, (sf.round 0 flush (addExact 0 xv big).1).1, fy)

/-- VCVTEF (R170): va narrowed into vd, and the residual into ve. -/
def execVcvtef (v a e : VReg) (f : BitVec 2) (x : Ctl) (s : State) : Out :=
  let (df, sf) := efPair f
  vecIssue { x := x, minLat := 2, wdst := fun c => [.row (c.vrow v), .row (c.vrow e)]
             tape := .command, illegal := fun _ _ => v == e, enc := encode (.vcvtef v a e f x) } false
    [a] [0] (fun k => k.fmt != some sf)
    (fun y _ =>
      let sel := y.sel
      let src := y.lanes a
      let rs := (List.range y.k.n).map fun i =>
        if sel.getD i false then efLane df sf y.flush (src.getD i 0) else (0, 0, 0)
      [y.put v (df.width / 8) (rs.map fun r => r.1) sel (rs.foldl (fun acc r => acc ||| r.2.2) 0),
        y.put e y.k.w (rs.map fun r => r.2.1) sel 0]) s

/-! ### Reductions and scans (R171, R172, R149) -/

/-- The operation of a reduction: its identity, what a leaf contributes, and ⊕ (R171). -/
structure Fold where
  unit : Nat
  leaf : Nat → Nat
  op : Nat → Nat → Nat × BitVec 6

/-- One level of the pairwise tree. -/
def pairUp (f : Nat → Nat → Nat × BitVec 6) : List Nat → List Nat × BitVec 6
  | a :: b :: rest =>
    let (v, fv) := f a b
    let (vs, fs) := pairUp f rest
    (v :: vs, fv ||| fs)
  | l => (l, 0)

/-- The pairwise tree of a group of at most 2^`n` lanes (R149). -/
def tree (f : Nat → Nat → Nat × BitVec 6) : Nat → List Nat → List Nat × BitVec 6
  | 0, l => (l, 0)
  | n + 1, l =>
    if l.length ≤ 1 then (l, 0)
    else
      let (l1, f1) := pairUp f l
      let (l2, f2) := tree f n l1
      (l2, f1 ||| f2)

/-- The prefixes of a group from the left (R149). -/
def scanFrom (f : Nat → Nat → Nat × BitVec 6) : Nat → List Nat → List Nat × BitVec 6
  | _, [] => ([], 0)
  | acc, v :: vs =>
    let (r, fr) := f acc v
    let (rest, fs) := scanFrom f r vs
    (r :: rest, fr ||| fs)

/-- The size of the groups that a code names (R171). -/
def groupSize (n : Nat) (g : BitVec 3) : Nat := if g = 0 then n else 2 ^ g.toNat

/-- A reduction or scan (R171, R172): it writes every lane of vd. -/
def reduceOp (i : Instr) (x : Ctl) (lat : Nat) (v a : VReg) (g : BitVec 3) (scan : Bool) (bad : LaneKind → Bool)
    (fo : LaneKind → Bool → Fold) (s : State) : Out :=
  vecIssue { x := x, minLat := lat, wdst := fun c => [.row (c.vrow v)], tape := .command, enc := encode i } false [a] [0]
    (fun k => bad k || decide (groupSize k.n g > k.n))
    (fun y _ =>
      let o := fo y.k y.flush
      let sel := y.sel
      let src := y.lanes a
      let xs := (List.range y.k.n).map fun j => if sel.getD j false then o.leaf (src.getD j 0) else o.unit
      let k := groupSize y.k.n g
      let gs := (List.range (y.k.n / k)).map fun j =>
        let grp := (xs.drop (j * k)).take k
        if scan then scanFrom o.op o.unit grp
        else
          let (r, fr) := tree o.op 9 grp
          (List.replicate k (r.headD 0), fr)
      [y.putAll v (packLanes y.k.w (gs.flatMap Prod.fst)) (gs.foldl (fun acc r => acc ||| r.2) 0)]) s

/-- Addition (R171). -/
def foldSum (k : LaneKind) (fl : Bool) : Fold :=
  match k.fmt with
  | some f => { unit := f.zero true, leaf := id, op := f.add 0 fl }
  | none => { unit := 0, leaf := id, op := fun p q => ((p + q) % 2 ^ k.bits, 0) }

/-- IEEE or signed maximum (R171). -/
def foldMax (k : LaneKind) (fl : Bool) : Fold :=
  match k.fmt with
  | some f => { unit := f.inf true, leaf := id, op := f.minMax fl true false }
  | none => { unit := 2 ^ (k.bits - 1), leaf := id, op := fun p q => (if sextNat k.bits q ≤ sextNat k.bits p then p else q, 0) }

/-- IEEE or signed minimum (R171). -/
def foldMin (k : LaneKind) (fl : Bool) : Fold :=
  match k.fmt with
  | some f => { unit := f.inf false, leaf := id, op := f.minMax fl false false }
  | none =>
    { unit := 2 ^ (k.bits - 1) - 1, leaf := id, op := fun p q => (if sextNat k.bits p ≤ sextNat k.bits q then p else q, 0) }

/-- Maximum of magnitudes (R171). -/
def foldMaxA (k : LaneKind) (fl : Bool) : Fold :=
  match k.fmt with
  | some f => { unit := 0, leaf := clearSign k.bits, op := f.minMax fl true false }
  | none => { unit := 0, leaf := absInt k.bits, op := fun p q => (max p q, 0) }

/-- A fold on bits (R159, R171). -/
def foldBits (unit : Nat → Nat) (f : Nat → Nat → Nat) (k : LaneKind) (_ : Bool) : Fold :=
  { unit := unit k.bits, leaf := id, op := fun p q => (f p q, 0) }

/-- VRSUM (R171, R172). -/
def execVrsum (v a : VReg) (g : BitVec 3) (x : Ctl) (s : State) : Out :=
  reduceOp (.vrsum v a g x) x 4 v a g false anyType foldSum s

/-- VRMAX (R171, R172). -/
def execVrmax (v a : VReg) (g : BitVec 3) (x : Ctl) (s : State) : Out :=
  reduceOp (.vrmax v a g x) x 4 v a g false anyType foldMax s

/-- VRMIN (R171, R172). -/
def execVrmin (v a : VReg) (g : BitVec 3) (x : Ctl) (s : State) : Out :=
  reduceOp (.vrmin v a g x) x 4 v a g false anyType foldMin s

/-- VRMAXU (R171, R172). -/
def execVrmaxu (v a : VReg) (g : BitVec 3) (x : Ctl) (s : State) : Out :=
  reduceOp (.vrmaxu v a g x) x 4 v a g false intOnly (foldBits (fun _ => 0) max) s

/-- VRMINU (R171, R172). -/
def execVrminu (v a : VReg) (g : BitVec 3) (x : Ctl) (s : State) : Out :=
  reduceOp (.vrminu v a g x) x 4 v a g false intOnly (foldBits (fun n => 2 ^ n - 1) min) s

/-- VRMAXA (R171, R172). -/
def execVrmaxa (v a : VReg) (g : BitVec 3) (x : Ctl) (s : State) : Out :=
  reduceOp (.vrmaxa v a g x) x 4 v a g false anyType foldMaxA s

/-- VROR (R171, R172). -/
def execVror (v a : VReg) (g : BitVec 3) (x : Ctl) (s : State) : Out :=
  reduceOp (.vror v a g x) x 4 v a g false anyType (foldBits (fun _ => 0) fun p q => p ||| q) s

/-- VRAND (R171, R172). -/
def execVrand (v a : VReg) (g : BitVec 3) (x : Ctl) (s : State) : Out :=
  reduceOp (.vrand v a g x) x 4 v a g false anyType (foldBits (fun n => 2 ^ n - 1) fun p q => p &&& q) s

/-- VRXOR (R171, R172). -/
def execVrxor (v a : VReg) (g : BitVec 3) (x : Ctl) (s : State) : Out :=
  reduceOp (.vrxor v a g x) x 4 v a g false anyType (foldBits (fun _ => 0) fun p q => p ^^^ q) s

/-- VSCAN (R171, R172). -/
def execVscan (v a : VReg) (g : BitVec 3) (x : Ctl) (s : State) : Out :=
  reduceOp (.vscan v a g x) x 5 v a g true anyType foldSum s

/-- VSCANMAX (R171, R172). -/
def execVscanmax (v a : VReg) (g : BitVec 3) (x : Ctl) (s : State) : Out :=
  reduceOp (.vscanmax v a g x) x 5 v a g true anyType foldMax s

/-! ### Permutes, compress and moves (R173) -/

/-- VCMPR (R173). -/
def execVcmpr (v a : VReg) (x : Ctl) (s : State) : Out :=
  vecIssue { x := x, minLat := 2, wdst := fun c => [.row (c.vrow v)], tape := .command, enc := encode (.vcmpr v a x) } false [a] [0] anyType
    (fun y _ =>
      let picked := ((y.lanes a).zip y.sel).filterMap fun (p, b) => if b then some p else none
      [y.putAll v (packLanes y.k.w picked) 0]) s

/-- Hands the lanes of a list, in order, to the selected places. -/
def expand : List Bool → List Nat → List Nat
  | [], _ => []
  | true :: bs, p :: ps => p :: expand bs ps
  | true :: bs, [] => 0 :: expand bs []
  | false :: bs, ps => 0 :: expand bs ps

/-- VEXPD (R173). -/
def execVexpd (v a : VReg) (x : Ctl) (s : State) : Out :=
  vecIssue { x := x, minLat := 2, wdst := fun c => [.row (c.vrow v)], tape := .command, enc := encode (.vexpd v a x) } false [a] [0] anyType
    (fun y _ => [y.put v y.k.w (expand y.sel (y.lanes a)) y.sel 0]) s

/-- VBCAST (R173). -/
def execVbcast (v : VReg) (a : Reg) (x : Ctl) (s : State) : Out :=
  vecIssue { x := x, minLat := 1, gsrc := [a], wdst := fun c => [.row (c.vrow v)], tape := .command
             enc := encode (.vbcast v a x) } false [] [0] anyType
    (fun y q => [y.put v y.k.w (List.replicate y.k.n (q.rg a).toNat) y.sel 0]) s

/-- VEXTR (R173): gd names the lane and receives it. -/
def execVextr (d : Reg) (v : VReg) (x : Ctl) (s : State) : Out :=
  vecIssue { x := x, minLat := 2, gsrc := [d], gdst := [d], cls := .varying, enc := encode (.vextr d v x) } false [v] [] anyType
    (fun y q => [Result.g d (BitVec.ofNat 64 ((y.lanes v).getD ((q.rg d).toNat % y.k.n) 0))]) s

/-- VFROMM (R173). -/
def execVfromm (v : VReg) (m : MReg) (x : Ctl) (s : State) : Out :=
  vecIssue { x := x, minLat := 1, wdst := fun c => [.row (c.vrow v)], tape := .command, enc := encode (.vfromm v m x) } false [] [m] anyType
    (fun y _ =>
      [y.putAll v (packLanes 1 ((List.range 512).map fun j => if (y.c.mask m).getLsbD j then 255 else 0)) 0]) s

/-- VTOM (R173). -/
def execVtom (m : MReg) (a : VReg) (x : Ctl) (s : State) : Out :=
  vecIssue { x := x, minLat := 1, tape := .command, enc := encode (.vtom m a x) } false [a] [] anyType
    (fun y _ =>
      [Result.mask m (laneMask 1 ((lanesOf 1 512 (y.c.rowBytes (y.c.vrow a))).map fun p => p != 0)) 0]) s

/-- VIOTA (R173). -/
def execViota (v : VReg) (x : Ctl) (s : State) : Out :=
  vecIssue { x := x, minLat := 1, wdst := fun c => [.row (c.vrow v)], tape := .command, enc := encode (.viota v x) } false [] [0] intOnly
    (fun y _ => [y.put v y.k.w (List.range y.k.n) y.sel 0]) s

/-! ### Softmax states (R174 to R176) and VCONF (R325) -/

/-- The bits of −∞ in FP32. -/
def negInf32 : Nat := fp32.inf true

/-- Whether a maximum is a NaN or +∞ (R175). -/
def badMax (m : Nat) : Bool := decide (m = fp32.inf false) || (fp32.read false m).1.isNan

/-- exp (round (p − m)), or +0 where p is −∞ (R175). -/
def expDiff (flush : Bool) (p m : Nat) : Nat × BitVec 6 :=
  if p = negInf32 then (0, 0)
  else
    let (r, fr) := fp32.sub 0 flush p m
    let (e, fe) := fp32.special .exp flush r
    (e, fr ||| fe)

/-- One lane of VOSM: the new state, or none where nothing changes, and the flags (R175). -/
def osmLane (flush : Bool) (mx sm a b : Nat) : Option (Nat × Nat) × BitVec 6 :=
  let (xv, f0) := fp32.add 0 flush a b
  let (m, f1) := fp32.minMax flush true false mx xv
  if m = negInf32 then (none, f0 ||| f1)
  else if badMax m then (some (m, fp32.nan), f0 ||| f1 ||| flNV)
  else
    let (e1, f2) := expDiff flush mx m
    let (e2, f3) := expDiff flush xv m
    let (t, f4) := fp32.mul 0 flush sm e1
    let (r, f5) := fp32.add 0 flush t e2
    (some (m, r), f0 ||| f1 ||| f2 ||| f3 ||| f4 ||| f5)

/-- VOSM (R175). -/
def execVosm (v a b : VReg) (x : Ctl) (s : State) : Out :=
  vecIssue { x := x, minLat := 6, wdst := fun c => [.row (c.vrow v), .row (c.vrow (vplus v 1))]
             tape := .command, enc := encode (.vosm v a b x) } true [v, vplus v 1, a, b] [0] fp32Only
    (fun y _ =>
      let sel := y.sel
      let (lm, lt, la, lb) := (y.lanes v, y.lanes (vplus v 1), y.lanes a, y.lanes b)
      let rs := (List.range 128).map fun i =>
        if sel.getD i false then osmLane y.flush (lm.getD i 0) (lt.getD i 0) (la.getD i 0) (lb.getD i 0)
        else (none, 0)
      let on := rs.map fun r => r.1.isSome
      [y.put v 4 (rs.map fun r => match r.1 with | some (m, _) => m | none => 0) on (rs.foldl (fun acc r => acc ||| r.2) 0),
        y.put (vplus v 1) 4 (rs.map fun r => match r.1 with | some (_, t) => t | none => 0) on 0]) s

/-- One lane of VLSE: the lanes of A's rows after it, or none where nothing changes, and the flags (R176). -/
def lseLane (flush : Bool) (as bs : List Nat) : Option (List Nat) × BitVec 6 :=
  let ma := as.headD 0
  let mb := bs.headD 0
  let (m, f0) := fp32.minMax flush true false ma mb
  if m = negInf32 then (none, f0)
  else if badMax m then (some (m :: (as.drop 1).map fun _ => fp32.nan), f0 ||| flNV)
  else
    let (fa, f1) := expDiff flush ma m
    let (fb, f2) := expDiff flush mb m
    let rs := ((as.drop 1).zip (bs.drop 1)).map fun (p, q) =>
      let (t, g1) := fp32.mul 0 flush p fa
      let (u, g2) := fp32.mul 0 flush q fb
      let (r, g3) := fp32.add 0 flush t u
      (r, g1 ||| g2 ||| g3)
    (some (m :: rs.map Prod.fst), f0 ||| f1 ||| f2 ||| orFlags rs)

/-- Whether the register sets of a VLSE overlap (R176). -/
def lseOverlap (d a k : Nat) : Bool :=
  (List.range (k + 2)).any fun i => (List.range (k + 2)).any fun j => (d + i) % 32 == (a + j) % 32

/-- VLSE (R176). -/
def execVlse (v a : VReg) (k : BitVec 5) (x : Ctl) (s : State) : Out :=
  let n := k.toNat + 2
  vecIssue
    { x := x, minLat := 6, wdst := fun c => (List.range n).map fun j => .row (c.vrow (vplus v j)), tape := .command
      illegal := fun _ _ => decide (k.toNat > 14) || lseOverlap v.val a.val k.toNat
      enc := encode (.vlse v a k x) }
    true (((List.range n).map (vplus v)) ++ (List.range n).map (vplus a)) [0] fp32Only
    (fun y _ =>
      let sel := y.sel
      let ra := (List.range n).map fun j => y.lanes (vplus v j)
      let rb := (List.range n).map fun j => y.lanes (vplus a j)
      let rs := (List.range 128).map fun i =>
        if sel.getD i false then lseLane y.flush (ra.map fun l => l.getD i 0) (rb.map fun l => l.getD i 0) else (none, 0)
      let on := rs.map fun r => r.1.isSome
      (List.range n).map fun j =>
        y.put (vplus v j) 4 (rs.map fun r => match r.1 with | some l => l.getD j 0 | none => 0) on
          (if j = 0 then rs.foldl (fun acc r => acc ||| r.2) 0 else 0)) s

/-- One lane of VCONF (R325). -/
def confLane (flush : Bool) (mx sm th : Nat) : Bool × BitVec 6 :=
  let (m, f0) := fp32.read flush mx
  let (sv, f1) := fp32.read flush sm
  let (t, f2) := fp32.read flush th
  let fl := f0 ||| f1 ||| f2 ||| nvOf m ||| nvOf sv ||| nvOf t
  match m with
  | .num _ _ _ =>
    if sv.isNan || t.isNan then (false, fl)
    else
      let (p, fp) := fp32.mul 0 flush sm th
      let (pv, _) := fp32.read false p
      (!pv.isNan && !(FVal.num false 1 0).lt pv, fl ||| fp)
  | _ => (false, fl)

/-- VCONF (R325). -/
def execVconf (m : MReg) (a b : VReg) (x : Ctl) (s : State) : Out :=
  vecIssue { x := x, minLat := 2, tape := .command, enc := encode (.vconf m a b x) } false [a, vplus a 1, b] [0] fp32Only
    (fun y _ =>
      let sel := y.sel
      let (lm, lt, lb) := (y.lanes a, y.lanes (vplus a 1), y.lanes b)
      let rs := (List.range 128).map fun i =>
        if sel.getD i false then confLane y.flush (lm.getD i 0) (lt.getD i 0) (lb.getD i 0)
        else (false, 0)
      [Result.mask m (laneMask 4 (rs.map Prod.fst)) (rs.foldl (fun acc r => acc ||| r.2) 0)]) s

/-! ### Scratchpad vector access (R177) -/

/-- The effective address of VLD, VST and VSTU: the exact sum (R14, R177). -/
def vmAddr (v : Seq) (a : Reg) (o : BitVec 5) : Nat := (v.rg a).toNat + o.toNat * 64

/-- The first out-of-range or misaligned address of a whole row (R177). -/
def rowAddrBad (ea : Nat) : Bool := ea % 64 != 0 || decide (ea + 512 > 2 ^ 22)

/-- VLD (R177): the lanes that m0 selects. -/
def execVld (v : VReg) (a : Reg) (o : BitVec 5) (x : Ctl) (s : State) : Out :=
  issue { x := x, minLat := 3, issuers := [.C], gsrc := [a], wide := fun _ => [.mask 0], wdst := fun c => [.row (c.vrow v)]
          tape := .command, enc := encode (.vld v a o x) }
    (fun cx s =>
      let c := s.core cx.who.core
      let ea := vmAddr (s.seq cx.who) a o
      if rowAddrBad ea then .trap (Trap.spaddr ea)
      else
        let y : Vx := { c := c, flush := cx.exposed }
        let (bs, _, s) := s.spadLoad cx.who.core (cx.actor s) ea 512
        let en := laneMask y.k.w y.sel
        let bad := (List.range 512).any fun j => en.getLsbD j && c.spadBad.contains ((ea + j) / 32)
        let s := if bad then s.modCore cx.who.core fun c => c.derrRecord 2 ea else s
        .land cx s [y.put v y.k.w (lanesOf y.k.w y.k.n (ofBytes bs)) y.sel 0]) s

/-- Stores the bytes of a row that `en` enables to the scratchpad, in the issue cycle (R84, R177). -/
def State.spadRow (s : State) (cx : Cx) (ea row : Nat) (en : Mask) : State :=
  s.modCore cx.who.core fun c =>
    c.spadWrite (cx.actor s)
      (((List.range 512).filter fun j => en.getLsbD j).map fun j => (ea + j, BitVec.ofNat 8 (row / 256 ^ j)))

/-- VST (R177): the lanes that m0 selects. -/
def execVst (v : VReg) (a : Reg) (o : BitVec 5) (x : Ctl) (s : State) : Out :=
  issue { x := x, issuers := [.C], gsrc := [a], wide := fun c => [.row (c.vrow v), .mask 0], tape := .command
          enc := encode (.vst v a o x) }
    (fun cx s =>
      let c := s.core cx.who.core
      let ea := vmAddr (s.seq cx.who) a o
      if rowAddrBad ea then .trap (Trap.spaddr ea)
      else
        let y : Vx := { c := c, flush := cx.exposed }
        let s := s.noteRows cx.who.core [c.vrow v]
        .done (s.spadRow cx ea (c.rowBytes (c.vrow v)) (laneMask y.k.w y.sel)) .next false) s

/-- VSTU (R177): byte by byte by m0, at any byte address. -/
def execVstu (v : VReg) (a : Reg) (o : BitVec 5) (x : Ctl) (s : State) : Out :=
  issue { x := x, issuers := [.C], gsrc := [a], wide := fun c => [.row (c.vrow v), .mask 0], tape := .command
          enc := encode (.vstu v a o x) }
    (fun cx s =>
      let c := s.core cx.who.core
      let ea := vmAddr (s.seq cx.who) a o
      if (List.range 512).any fun j => (c.mask 0).getLsbD j && decide (ea + j ≥ 2 ^ 22) then .trap (Trap.spaddr ea)
      else
        let s := s.noteRows cx.who.core [c.vrow v]
        .done (s.spadRow cx ea (c.rowBytes (c.vrow v)) (c.mask 0)) .next false) s

/-! ### VDEFER (R105) -/

/-- VDEFER (R105): one item for each lane that m0 selects. -/
def execVdefer (g : Reg) (a b : VReg) (x : Ctl) (s : State) : Out :=
  issue { x := x, issuers := [.C], gsrc := [g], wide := fun c => [.row (c.vrow a), .row (c.vrow b), .mask 0]
          tape := .abandon, acc := [.core], rel := true, enc := encode (.vdefer g a b x) }
    (fun cx s =>
      let y : Vx := { c := s.core cx.who.core, flush := cx.exposed }
      let n := ((s.seq cx.who).rg g).toNat % 1024
      let ten := s.tenOf cx.who.core
      let pa := y.lanes a
      let pb := y.lanes b
      let sel := y.sel
      let items := ((List.range y.k.n).filter fun i => sel.getD i false).map fun i =>
        toBytes 8 (pa.getD i 0) ++ toBytes 8 (pb.getD i 0 % 2 ^ 32 + i * 2 ^ 32)
      let s := s.noteRows cx.who.core [y.c.vrow a, y.c.vrow b]
      if items.isEmpty then .done s .next false
      else if !s.groupHeld ten (n / 16) then .trap (Trap.listNotHeld n)
      else if (s.list n).count + items.length > s.listCap ten then .trap (Trap.listFull n)
      else .done (s.listPush cx ten n items) .next false) s

end Sys2Proof.Machine
end

