-- ==== Sys2Proof/Machine/Engines.lean ====
section
/-!
DEFINITION. Engine commands (14_engines.md): issue, the accesses of an engine, the copy and gather engines, and the tag
instructions.
-/
namespace Sys2Proof.Machine

/-! ### Issue (R126, R290) -/

/-- The commands of a sequencer that have not started (R126). -/
def Core.unstarted (c : Core) (q : Sq) : Nat := (c.cmds.filter fun k => k.sq == q && k.phase == .queued).length

/-- Issues an engine command (R126, R290): it waits while its tag is PENDING or its sequencer holds 32 commands that have not
started; then its tag becomes PENDING. `ready` holds what must be true of the operands, or the trap they take. -/
def submit (sp : Spec) (cls : PathClass) (tag : Cx → State → BitVec 6) (ready : Cx → State → Option Trap)
    (op : Cx → State → CmdOp) (spad : Cx → State → List (Nat × Nat)) (s : State) : Out :=
  issue { sp with
      tape := .command
      acc := [.core]
      waits := fun cx s =>
        (s.core cx.who.core).tagPending (tag cx s) || decide (32 ≤ (s.core cx.who.core).unstarted cx.who.sq) || sp.waits cx s }
    (fun cx s =>
      match ready cx s with
      | some t => .trap t
      | none =>
        let c := cx.who.core
        let t := tag cx s
        let k : Cmd :=
          { id := cx.stamp, sq := cx.who.sq, cls := cls, op := op cx s, tag := t, phase := .queued, push := cx.push s
            know := (s.seq cx.who).know, ten := s.tenOf c, launch := ((s.core c).iter.map Iter.launch).getD 0, data := []
            fixed := none, replies := [], sent := 0, spad := spad cx s }
        .done (s.modCore c fun m =>
          { m with cmds := m.cmds ++ [k], tags := m.tags &&& ~~~(1#64 <<< t.toNat)
                   tstat := m.tstat.set t.toFin.val 1 t.toFin.isLt }) .next true) s

/-- A command of a core. -/
def State.cmd (s : State) (c : CoreId) (id : Nat) : Option Cmd := (s.core c).cmds.find? fun k => k.id == id

/-- Replaces a command. -/
def State.putCmd (s : State) (c : CoreId) (k : Cmd) : State :=
  s.modCore c fun m => { m with cmds := m.cmds.map fun x => if x.id == k.id then k else x }

/-- Completes a command with a code, flags, and the detail and address for ENGERR: once every access that it made has been performed
(R222, R290). -/
def State.finish (s : State) (c : CoreId) (k : Cmd) (code flags det va : Nat) : State :=
  if s.outstanding { core := c, sq := k.sq } k.id then s.putCmd c { k with phase := .ending code flags det va }
  else s.modCore c fun m => m.completeCmd c s.cycle k code flags det (BitVec.ofNat 64 va)

/-- The party that a command's accesses are made by. -/
def Cmd.actor (k : Cmd) (c : CoreId) : Actor :=
  { who := some { core := c, sq := k.sq }, cls := k.cls, stamp := k.id, know := k.know }

/-! ### Accesses of an engine -/

/-- Translates bytes one 64 KiB unit after another, going on past faults: the physical address of each byte, none where its page
faults, and the faults. -/
def State.engUnits (s : State) (k : Cmd) (c : CoreId) (need : Need) : Nat → Nat → Nat → List (Option Nat) × List PageFault × State
  | 0, _, _ => ([], [], s)
  | fuel + 1, va, n =>
    if n = 0 then ([], [], s)
    else
      let m := min n (65536 - va % 65536)
      let (r, s) := s.translate (k.actor c) c k.ten need va
      let (rest, fs, s) := s.engUnits k c need fuel (va + m) (n - m)
      match r with
      | .ok (pa, _) => ((List.range m).map (fun i => some (pa + i)) ++ rest, fs, s)
      | .error d => (List.replicate m none ++ rest, { det := d, va := va % 2 ^ 64 } :: fs, s)

/-- Translates `n` bytes at `va` for a command. -/
def State.engTranslate (s : State) (k : Cmd) (c : CoreId) (need : Need) (va n : Nat) :
    List (Option Nat) × List PageFault × State := s.engUnits k c need (n / 65536 + 2) va n

/-- What reading gives an engine: each byte with whether it was poisoned, none where its page faults; and the faults. -/
structure EngRead where
  bytes : List (Option (Byte × Bool))
  faults : List PageFault

/-- Reads a run of bytes in the scratchpad or at a global address (R293, R297). -/
def State.engRead (s : State) (k : Cmd) (c : CoreId) (spad : Bool) (addr n : Nat) : EngRead × State :=
  if spad then
    let (bs, _, s) := s.spadLoad c (k.actor c) addr n
    ({ bytes := (List.range n).map fun i => some (bs.getD i 0, (s.core c).spadBad.contains ((addr + i) / 32)), faults := [] }, s)
  else
    let (pas, fs, s) := s.engTranslate k c Need.load addr n
    let (bs, s) := s.readAs (k.actor c) (pas.filterMap id)
    let fill := pas.foldl (fun (acc : List (Option (Byte × Bool)) × List (Byte × Bool)) p =>
      match p, acc.2 with
      | some _, b :: rest => (some b :: acc.1, rest)
      | _, rest => (none :: acc.1, rest)) ([], bs)
    ({ bytes := fill.1.reverse, faults := fs }, s)

/-- A write of an engine: where, the byte, and whether it comes from a poisoned sector. -/
structure EngWrite where
  addr : Nat
  byte : Byte
  bad : Bool

/-- Writes to the scratchpad: a poisoned byte is written as zero (R297). -/
def State.engWriteSpad (s : State) (k : Cmd) (c : CoreId) (ws : List EngWrite) : State :=
  s.modCore c fun m => m.spadWrite (k.actor c) (ws.map fun w => (w.addr, if w.bad then 0 else w.byte))

/-- Writes to physical memory, all of one command: a sector that receives a byte from a poisoned one is written poisoned whole
(R397). -/
def State.engWritePas (s : State) (k : Cmd) (c : CoreId) (ws : List EngWrite) : State :=
  let s := s.writePas (k.actor c) .plain (ws.map fun w => (w.addr, w.byte))
  s.poisonPas (k.actor c) ((ws.filter EngWrite.bad).map EngWrite.addr)

/-- Keeps a free choice of writes: a destination byte of a command that ends with PAGE holds its new or its old value (R297). -/
def State.someOf (s : State) : List EngWrite → List EngWrite × State
  | [] => ([], s)
  | w :: ws =>
    let (b, s) := s.freeBit
    let (rest, s) := s.someOf ws
    (if b then w :: rest else rest, s)

/-! ### Tensor positions (R143, R144, R292) -/

/-- The end of a handle's extent (R144, R292 point 4). -/
def Handle.extentEnd (h : Handle) : Nat :=
  if h.fmt = 9 then max (h.addr + (h.kp - 1) * h.pitch + 16 * h.rows * h.groups) (h.addr + h.soff + h.rows * h.groups)
  else h.addr + (h.rows - 1) * h.pitch + h.cols * fmtSize h.fmt

/-- The address of a position: for NI that of plane 0 of its group (R293). -/
def Handle.place (h : Handle) (i j : Nat) : Nat :=
  if h.fmt = 9 then h.addr + 16 * (i * h.groups + j / 128) else h.at i j

/-- Whether a run of bytes lies in a handle's extent. -/
def Handle.holds (h : Handle) (a n : Nat) : Bool := decide (h.addr ≤ a) && decide (a + n ≤ h.extentEnd)

/-- The scratchpad bytes of a run through a handle. -/
def Handle.spadRun (h : Handle) (a n : Nat) : List (Nat × Nat) := if h.loc = 1 then [(a, n)] else []

/-- The status bits that conversion flags give (R289): NV, OF, UF and NX. -/
def tagFlags (f : BitVec 6) : Nat :=
  (if f.getLsbD 4 then 8 else 0) + (if f.getLsbD 2 then 4 else 0) + (if f.getLsbD 1 then 2 else 0) + (if f.getLsbD 0 then 1 else 0)

/-- The lane kind of a dense format (R142). -/
def fmtKind (fmt : Nat) : LaneKind := { w := fmtSize fmt, n := 1, fmt := fmtFloat fmt }

/-! ### CPY and CPY2D (R293, R294) -/

/-- The address of the fault that a command reports: any of those met (R297; the choice is free). -/
def State.pickFault (s : State) (fs : List PageFault) : PageFault × State :=
  let (n, s) := s.freeNat
  (fs.getD (n % fs.length) { det := 0, va := 0 }, s)

/-- Performs a copy of bytes that have been read: the destination runs are (address, length) in order. -/
def State.engCopy (s : State) (k : Cmd) (c : CoreId) (spad : Bool) (src : EngRead) (runs : List (Nat × Nat))
    (badAt : Nat) (flags : BitVec 6) : State :=
  let addrs := runs.flatMap fun r => (List.range r.2).map fun i => r.1 + i
  let (dst, fs, s) :=
    if spad then (addrs.map some, [], s)
    else
      runs.foldl (fun (acc : List (Option Nat) × List PageFault × State) r =>
        let (ps, fs, s) := acc.2.2.engTranslate k c Need.store r.1 r.2
        (acc.1 ++ ps, acc.2.1 ++ fs, s)) ([], [], s)
  let ws := (dst.zip src.bytes).filterMap fun p =>
    match p with
    | (some a, some b) => some ({ addr := a, byte := b.1, bad := b.2 } : EngWrite)
    | _ => none
  let faults := src.faults ++ fs
  let (ws, s) := if faults.isEmpty then (ws, s) else s.someOf ws
  let s := if spad then s.engWriteSpad k c ws else s.engWritePas k c ws
  if !faults.isEmpty then
    let (f, s) := s.pickFault faults
    s.finish c k codePage (tagFlags flags) f.det f.va
  else if src.bytes.any fun b => b.any Prod.snd then s.finish c k codePoison (tagFlags flags) 0 badAt
  else s.finish c k codeOk (tagFlags flags) 0 0

/-- The address of the first poisoned byte of a global run. -/
def EngRead.badVa (r : EngRead) (spad : Bool) (addrs : List Nat) : Nat :=
  if spad then 0 else (r.bytes.findIdx? fun b => b.any Prod.snd).elim 0 fun i => addrs.getD i 0

/-- CPY's effect (R293). -/
def State.runCpy (s : State) (c : CoreId) (k : Cmd) (dd ds : Word) (hd hs : BitVec 256) (gb : Word) : State :=
  let d := handleOf hd
  let h := handleOf hs
  let n := fld gb 31 0
  let src := h.place (descRow ds) (descCol ds)
  let (r, s) := s.engRead k c (h.loc == 1) src n
  s.engCopy k c (d.loc == 1) r [(d.place (descRow dd) (descCol dd), n)]
    (r.badVa (h.loc == 1) ((List.range n).map fun i => src + i)) 0

/-- Cuts a list into parts of `n`. -/
def chunks {α : Type} (n : Nat) : Nat → List α → List (List α)
  | 0, _ => []
  | m + 1, l => l.take n :: chunks n m (l.drop n)

/-- An element of CPY2D that has been read: its bytes where no page faults, and whether one was poisoned. -/
def elemOf (bs : List (Option (Byte × Bool))) : Option (Nat × Bool) :=
  if bs.any Option.isNone then none
  else some (ofBytes (bs.filterMap fun b => b.map Prod.fst), bs.any fun b => b.any Prod.snd)

/-- CPY2D's effect (R294): every element is read before any is written. -/
def State.runCpy2d (s : State) (c : CoreId) (k : Cmd) (dd ds : Word) (hd hs : BitVec 256) (gb : Word) : State :=
  let d := handleOf hd
  let h := handleOf hs
  let rws := fld gb 47 24
  let cls := fld gb 23 0
  let ws := fmtSize h.fmt
  let wd := fmtSize d.fmt
  let runs := (List.range rws).map fun i => h.at (descRow ds + i) (descCol ds)
  let (r, s) := runs.foldl (fun (acc : EngRead × State) a =>
    let (x, s) := acc.2.engRead k c (h.loc == 1) a (cls * ws)
    ({ bytes := acc.1.bytes ++ x.bytes, faults := acc.1.faults ++ x.faults }, s)) ({ bytes := [], faults := [] }, s)
  let els := (chunks ws (rws * cls) r.bytes).map elemOf
  let conv := els.map fun e => e.map fun v => (convertLane (fmtKind h.fmt) (fmtKind d.fmt) 0 false (if v.2 then 0 else v.1), v.2)
  let flags := conv.foldl (fun acc e => match e with | some v => acc ||| v.1.2 | none => acc) (0 : BitVec 6)
  let bytes := conv.flatMap fun e =>
    match e with
    | some v => (toBytes wd v.1.1).map fun b => some (b, v.2)
    | none => List.replicate wd none
  let addrs := runs.flatMap fun a => (List.range (cls * ws)).map fun i => a + i
  s.engCopy k c (d.loc == 1) { bytes := bytes, faults := r.faults }
    ((List.range rws).map fun i => (d.at (descRow dd + i) (descCol dd), cls * wd)) (r.badVa (h.loc == 1) addrs) flags

/-! ### GATH and SCAT (R295, R296) -/

/-- What the items of a gather or scatter have met: the first PAGE, the first POISON, and whether an index was out of bounds. -/
structure GathNote where
  page : Option PageFault
  poison : Option Nat
  bounds : Bool

/-- Completes a gather or scatter (R297): PAGE, POISON, BOUNDS in that order. -/
def State.finishGath (s : State) (c : CoreId) (k : Cmd) (g : GathNote) : State :=
  match g.page, g.poison, g.bounds with
  | some f, _, _ => s.finish c k codePage 0 f.det f.va
  | none, some a, _ => s.finish c k codePoison 0 0 a
  | none, none, true => s.finish c k codeBounds 0 0 0
  | none, none, false => s.finish c k codeOk 0 0 0

/-- Bytes of zero in place of those of an item that has a fault. -/
def zeroItem (len : Nat) : List (Byte × Bool) := List.replicate len (0, false)

/-- What GATH reads for an item from `src`: zeros where the position is out of bounds or a page faults. -/
def State.gathRead (s : State) (c : CoreId) (k : Cmd) (h : Handle) (len row src : Nat) (g : GathNote) :
    List (Byte × Bool) × GathNote × State :=
  if h.rows ≤ row ∨ !h.holds src len then (zeroItem len, { g with bounds := true }, s)
  else
    let (r, s) := s.engRead k c (h.loc == 1) src len
    match r.faults with
    | f :: _ => (zeroItem len, { g with page := g.page.or (some f) }, s)
    | [] =>
      let bs := r.bytes.filterMap id
      let a := if h.loc = 1 then 0 else src + (bs.findIdx Prod.snd)
      (bs, if bs.any Prod.snd then { g with poison := g.poison.or (some a) } else g, s)

/-- The writes of a list of bytes at addresses; there is none where a page faults. -/
def engWritesAt (ps : List (Option Nat)) (bytes : List (Byte × Bool)) : List EngWrite :=
  (ps.zip bytes).filterMap fun p => p.1.map fun a => { addr := a, byte := p.2.1, bad := p.2.2 }

/-- Item `i` of GATH: where a page of its destination faults, what of the item is mapped is filled with zeros (R297). -/
def State.gathItem (s : State) (c : CoreId) (k : Cmd) (dd ds : Word) (d h : Handle) (len i x : Nat) (g : GathNote) : GathNote × State :=
  let dst := d.place (descRow dd + i) (descCol dd)
  let row := descRow ds + x
  let (bytes, g, s) := s.gathRead c k h len row (h.place row (descCol ds)) g
  if d.loc = 1 then (g, s.engWriteSpad k c (engWritesAt ((List.range len).map fun j => some (dst + j)) bytes))
  else
    let (ps, fs, s) := s.engTranslate k c Need.store dst len
    match fs with
    | f :: _ => ({ g with page := g.page.or (some f) }, s.engWritePas k c (engWritesAt ps (zeroItem len)))
    | [] => (g, s.engWritePas k c (engWritesAt ps bytes))

/-- Item `i` of SCAT. -/
def State.scatItem (s : State) (c : CoreId) (k : Cmd) (dd ds : Word) (d h : Handle) (len i x : Nat) (g : GathNote) : GathNote × State :=
  let src := h.place (descRow ds + i) (descCol ds)
  let row := descRow dd + x
  let dst := d.place row (descCol dd)
  if d.rows ≤ row ∨ !d.holds dst len then ({ g with bounds := true }, s)
  else
    let (r, s) := s.engRead k c (h.loc == 1) src len
    match r.faults with
    | f :: _ => ({ g with page := g.page.or (some f) }, s)
    | [] =>
      let bytes := r.bytes.filterMap id
      let bad := bytes.any Prod.snd
      let a := if h.loc = 1 then 0 else src + (bytes.findIdx Prod.snd)
      let g := if bad then { g with poison := g.poison.or (some a) } else g
      if d.loc = 1 then
        (g, s.engWriteSpad k c (engWritesAt ((List.range len).map fun j => some (dst + j)) bytes))
      else
        let (ps, fs, s) := s.engTranslate k c Need.store dst len
        match fs with
        | f :: _ => ({ g with page := g.page.or (some f) }, s)
        | [] => (g, s.engWritePas k c (engWritesAt ps bytes))

/-- The effect of GATH or SCAT: items in ascending order, so that of overlapping destinations of SCAT the highest item wins
(R296). The indices were read when the command started; an item whose index was poisoned, in the scratchpad, has a POISON without a virtual
address. -/
def State.runGath (s : State) (c : CoreId) (k : Cmd) (scat : Bool) (dd ds : Word) (hd hs : BitVec 256) (gb : Word) : State :=
  let d := handleOf hd
  let h := handleOf hs
  let len := fld gb 53 38
  let cnt := fld gb 37 22
  let g0 : GathNote := { page := none, poison := none, bounds := false }
  let (g, s) := (List.range cnt).foldl (fun (acc : GathNote × State) i =>
    let x := ofBytes ((k.data.drop (4 * i)).take 4)
    let acc := if k.replies.any fun r => r.1 == i then ({ acc.1 with poison := acc.1.poison.or (some 0) }, acc.2) else acc
    if scat then acc.2.scatItem c k dd ds d h len i x acc.1 else acc.2.gathItem c k dd ds d h len i x acc.1) (g0, s)
  s.finishGath c k g

/-! ### The checks at start (R292 to R295) -/

/-- The first code of checks that fail. -/
def firstFail (cs : List (Bool × Nat)) : Option Nat := (cs.find? Prod.fst).map Prod.snd

/-- CPY's checks; a write through an NI handle with KP < 8 is reported like one with FMT = NONE (R144). -/
def cpyCheck (dd ds : Word) (hd hs : BitVec 256) (gb : Word) : Option Nat :=
  let d := handleOf hd
  let h := handleOf hs
  let n := fld gb 31 0
  firstFail [(fld gb 63 34 != 0, codeHandle), (d.fmt == 0 || h.fmt == 0 || (d.fmt == 9 && decide (d.kp < 8)), codeHandle),
    ((d.fmt == 9 && descCol dd % 128 != 0) || (h.fmt == 9 && descCol ds % 128 != 0), codeHandle),
    (!d.holds (d.place (descRow dd) (descCol dd)) n || !h.holds (h.place (descRow ds) (descCol ds)) n, codeBounds)]

/-- CPY2D's checks. -/
def cpy2dCheck (dd ds : Word) (hd hs : BitVec 256) (gb gb1 : Word) : Option Nat :=
  let d := handleOf hd
  let h := handleOf hs
  let rws := fld gb 47 24
  let cls := fld gb 23 0
  let out := fun (x : Handle) (p : Word) => decide (x.rows < descRow p + rws) || decide (x.cols < descCol p + cls)
  firstFail [(fld gb 63 50 != 0, codeHandle), (gb1 != 0, codeHandle), (!d.dense || !h.dense, codeHandle),
    (out d dd || out h ds, codeBounds)]

/-- The checks of GATH and, with source and destination exchanged, of SCAT. -/
def gathCheck (scat : Bool) (dd ds : Word) (hd hs : BitVec 256) (gb : Word) : Option Nat :=
  let d := handleOf hd
  let h := handleOf hs
  let len := fld gb 53 38
  let cnt := fld gb 37 22
  let idx := fld gb 21 0
  let (x, p) := if scat then (h, ds) else (d, dd)
  let out := (List.range cnt).any fun i => !x.holds (x.place (descRow p + i) (descCol p)) len
  firstFail [(fld gb 63 56 != 0, codeHandle), (!d.dense || !h.dense, codeHandle),
    (idx % 4 != 0 || decide (2 ^ 22 < idx + 4 * cnt), codeSpaddr), (out, codeBounds)]

/-- What a class does with a copy or gather command that it accepts: a command of length zero completes with OK, one that fails
a check with that check's code; a gather's index list is read. -/
def State.acceptCopy (s : State) (c : CoreId) (k : Cmd) : State :=
  let done := fun (zero : Bool) (code : Option Nat) (f : State → State) =>
    if zero then s.finish c k codeOk 0 0 0
    else match code with
      | some n => s.finish c k n 0 0 0
      | none => f s
  let go := fun (s : State) => s.putCmd c { k with phase := .started s.cycle }
  let list := fun (gb : Word) (s : State) =>
    let bad := (List.range (fld gb 37 22)).filter fun i => (s.core c).spadBad.contains ((fld gb 21 0 + 4 * i) / 32)
    let (bs, _, s) := s.spadLoad c (k.actor c) (fld gb 21 0) (4 * fld gb 37 22)
    s.putCmd c { k with phase := .started s.cycle, data := bs, replies := bad.map fun i => (i, []) }
  match k.op with
  | .cpy dd ds hd hs gb => done (fld gb 31 0 == 0) (cpyCheck dd ds hd hs gb) go
  | .cpy2d dd ds hd hs gb gb1 => done (fld gb 47 24 == 0 || fld gb 23 0 == 0) (cpy2dCheck dd ds hd hs gb gb1) go
  | .gath dd ds hd hs gb => done (fld gb 53 38 == 0 || fld gb 37 22 == 0) (gathCheck false dd ds hd hs gb) (list gb)
  | .scat dd ds hd hs gb => done (fld gb 53 38 == 0 || fld gb 37 22 == 0) (gathCheck true dd ds hd hs gb) (list gb)
  | _ => s

/-- The effect and completion of a copy or gather command. -/
def State.completeCopy (s : State) (c : CoreId) (k : Cmd) : State :=
  match k.op with
  | .cpy dd ds hd hs gb => s.runCpy c k dd ds hd hs gb
  | .cpy2d dd ds hd hs gb _ => s.runCpy2d c k dd ds hd hs gb
  | .gath dd ds hd hs gb => s.runGath c k false dd ds hd hs gb
  | .scat dd ds hd hs gb => s.runGath c k true dd ds hd hs gb
  | _ => s

/-! ### The instructions (R292 to R296, R303) -/

/-- The handle entry that a descriptor names, as it is at issue (R292 point 1). -/
def State.entryAt (s : State) (cx : Cx) (d : Word) : BitVec 256 := (s.core cx.who.core).hEntry (descIndex d)

/-- The scratchpad bytes that CPY or CPY2D touches. -/
def copySpad (dd ds : Word) (hd hs : BitVec 256) (n rows : Nat) (w : Handle → Nat) : List (Nat × Nat) :=
  let f := fun (h : Handle) (p : Word) =>
    (List.range rows).flatMap fun i => h.spadRun (h.place (descRow p + i) (descCol p)) (n * w h)
  f (handleOf hd) dd ++ f (handleOf hs) ds

/-- Issues a copy or gather command: `dst` and `src` are the descriptors' registers. -/
def copyCmd (i : Instr) (x : Ctl) (g : BitVec 6) (cls : PathClass) (a b : Reg) (pair : Bool)
    (op : Word → Word → BitVec 256 → BitVec 256 → Word → Word → CmdOp)
    (spad : Word → Word → BitVec 256 → BitVec 256 → Word → List (Nat × Nat)) (s : State) : Out :=
  submit { x := x, issuers := [.L, .S], gsrc := [a, b, regNext a] ++ (if pair then [regNext b] else []), enc := encode i
           onDie := fun cx s => (s.core cx.who.core).badHandles [(s.seq cx.who).rg a, (s.seq cx.who).rg (regNext a)] }
    cls (fun _ _ => g) (fun _ _ => none)
    (fun cx s =>
      let v := s.seq cx.who
      let dd := v.rg a
      let ds := v.rg (regNext a)
      op dd ds (s.entryAt cx dd) (s.entryAt cx ds) (v.rg b) (v.rg (regNext b)))
    (fun cx s =>
      let v := s.seq cx.who
      let dd := v.rg a
      let ds := v.rg (regNext a)
      spad dd ds (s.entryAt cx dd) (s.entryAt cx ds) (v.rg b)) s

/-- CPY (R293). -/
def execCpy (g : BitVec 6) (a b : Reg) (x : Ctl) (s : State) : Out :=
  copyCmd (.cpy g a b x) x g .copy a b false (fun dd ds hd hs gb _ => .cpy dd ds hd hs gb)
    (fun dd ds hd hs gb => copySpad dd ds hd hs (fld gb 31 0) 1 fun _ => 1) s

/-- CPY2D (R294). -/
def execCpy2d (g : BitVec 6) (a b : Reg) (x : Ctl) (s : State) : Out :=
  copyCmd (.cpy2d g a b x) x g .copy a b true (fun dd ds hd hs gb gb1 => .cpy2d dd ds hd hs gb gb1)
    (fun dd ds hd hs gb => copySpad dd ds hd hs (fld gb 23 0) (fld gb 47 24) fun h => fmtSize h.fmt) s

/-- The scratchpad bytes that GATH or SCAT may touch: its index list, its items, and the extent through which it indexes. -/
def gathSpad (scat : Bool) (dd ds : Word) (hd hs : BitVec 256) (gb : Word) : List (Nat × Nat) :=
  let d := handleOf hd
  let h := handleOf hs
  let len := fld gb 53 38
  let cnt := fld gb 37 22
  let (x, p, y) := if scat then (h, ds, d) else (d, dd, h)
  (fld gb 21 0, 4 * cnt) :: ((List.range cnt).flatMap fun i => x.spadRun (x.place (descRow p + i) (descCol p)) len)
    ++ y.spadRun y.addr (y.extentEnd - y.addr)

/-- GATH (R295). -/
def execGath (g : BitVec 6) (a b : Reg) (x : Ctl) (s : State) : Out :=
  copyCmd (.gath g a b x) x g .gath a b false (fun dd ds hd hs gb _ => .gath dd ds hd hs gb) (gathSpad false) s

/-- SCAT (R296). -/
def execScat (g : BitVec 6) (a b : Reg) (x : Ctl) (s : State) : Out :=
  copyCmd (.scat g a b x) x g .gath a b false (fun dd ds hd hs gb _ => .scat dd ds hd hs gb) (gathSpad true) s

/-! ### Waiting and testing (R301, R302) -/

/-- The tags of a mask, ascending. -/
def tagsOf (m : Word) : List Nat := (List.range 64).filter m.getLsbD

/-- Whether a tag of the mask is PENDING. -/
def Core.anyPending (c : Core) (m : Word) : Bool := (tagsOf m).any fun t => c.tagPending (BitVec.ofNat 6 t)

/-- WTANY and WTALL once they issue: the ENGINE trap for an error code among the tags returned. -/
def waitTags (d a : Reg) (cx : Cx) (s : State) : Act :=
  let c := s.core cx.who.core
  let r := c.tags &&& (s.seq cx.who).rg a
  if (tagsOf r).any fun t => isError (c.tstat.get (Fin.ofNat 64 t)) then .trap { cause := .engine, det := 0, va := 0 }
  else
    let s := s.modCore cx.who.core fun c => c.observeTags cx.who.sq (tagsOf r)
    .land cx s [if cx.replay then .g 0 0 else .g d r]

/-- WTANY (R301); a replay entry writes no register (R356). -/
def execWtany (d a : Reg) (x : Ctl) (s : State) : Out :=
  issue { x := x, minLat := 1, gsrc := [a], gdst := [d], tape := .command, cls := .varying, enc := encode (.wtany d a x)
          waits := fun cx s =>
            let c := s.core cx.who.core
            let m := (s.seq cx.who).rg a
            c.tags &&& m == 0 && c.anyPending m }
    (waitTags d a) s

/-- WTALL (R301). -/
def execWtall (d a : Reg) (x : Ctl) (s : State) : Out :=
  issue { x := x, minLat := 1, gsrc := [a], gdst := [d], tape := .command, cls := .varying, enc := encode (.wtall d a x)
          waits := fun cx s => (s.core cx.who.core).anyPending ((s.seq cx.who).rg a) }
    (waitTags d a) s

/-- FFRDY (R302). -/
def execFfrdy (d a : Reg) (x : Ctl) (s : State) : Out :=
  issue { x := x, minLat := 1, gsrc := [a], gdst := [d], cls := .varying, enc := encode (.ffrdy d a x) }
    (fun cx s =>
      let r := (s.core cx.who.core).tags &&& (s.seq cx.who).rg a
      match (tagsOf r).head? with
      | some t => .land cx (s.modCore cx.who.core fun c => c.observeTags cx.who.sq [t]) [.g d (BitVec.ofNat 64 t)]
      | none => .land cx s [.g d 64]) s

/-- TAGCLR (R302): DONE tags become IDLE. -/
def execTagclr (a : Reg) (x : Ctl) (s : State) : Out :=
  issue { x := x, gsrc := [a], tape := .command, enc := encode (.tagclr a x) }
    (fun cx s =>
      let m := (s.seq cx.who).rg a
      .done (s.modCore cx.who.core fun c =>
        { c with tags := c.tags &&& ~~~m
                 tstat := Vector.ofFn fun t => if m.getLsbD t.val && c.tags.getLsbD t.val then 0 else c.tstat.get t })
        .next false) s

end Sys2Proof.Machine
end

