-- ==== Sys2Proof/Machine/FrontEnd.lean ====
section
/-!
DEFINITION. The front end's register block (R406, R407): what every register reads as, what a write does, and the writes that
have rows of their own (R117, R262, R409, R437, R458).
-/
namespace Sys2Proof.Machine

/-! ### Reading (R406) -/

/-- The index of an offset among `n` registers of stride `st` from `base`. -/
def regIndex (off base st n : Nat) : Option Nat :=
  if base ≤ off ∧ off < base + st * n ∧ (off - base) % st = 0 then some ((off - base) / st) else none

/-- The code of a lane's state (R439). -/
def LaneState.code : LaneState → Nat
  | .free => 0
  | .reserved => 1
  | .tuning => 2
  | .active => 3
  | .draining => 4
  | .retraining => 5

/-- A lane register: QL_TXi or QL_RXi (R439); a lane's channel is that of R435. -/
def laneReg (ten : BitVec 8) (moor : Bool) (st : LaneState) (peer chan : Nat) : Nat :=
  if st = .free then 0
  else ten.toNat * 2 ^ 24 + moor.toNat * 2 ^ 23 + st.code * 2 ^ 20 + chan * 2 ^ 14 + peer * 2 ^ 8

/-- QL_TXi. -/
def State.txReg (s : State) (i : Nat) : Nat :=
  let l := s.tx.get (Fin.ofNat 256 i)
  laneReg l.ten l.moor l.st l.peer ((l.peer + 64 - s.qlId) % 64)

/-- QL_RXi. -/
def State.rxReg (s : State) (i : Nat) : Nat :=
  let l := s.rx.get (Fin.ofNat 256 i)
  laneReg l.ten l.moor l.st l.peer ((s.qlId + 64 - l.peer) % 64)

/-- QL_RXCi. -/
def State.rxcReg (s : State) (i : Nat) : Nat :=
  let l := s.rx.get (Fin.ofNat 256 i)
  l.retrains.toNat * 2 ^ 48 + l.ucf.toNat * 2 ^ 32 + l.csym.toNat

/-- Registers that stand alone. -/
def State.readScalar (s : State) (off : Nat) : Option Nat :=
  let f := s.fe
  match off with
  | 0x0 => some f.feErr.toNat
  | 0x8 => some f.feStat.toNat
  | 0x140 => some (min f.pwrBudget.toNat 2800)
  | 0x148 => some f.pwrStatic.toNat
  | 0x150 => some f.pwrDefrate.toNat
  | 0x158 => some f.admitRefusals.toNat
  | 0x180 => some f.preWait.toNat
  | 0x188 => some f.preempts.toNat
  | 0x190 => some f.preWithdrawn.toNat
  | 0x200 => some f.poolPorts.toNat
  | 0x208 => some f.poolSize.toNat
  | 0x210 => some f.hostwinSize.toNat
  | 0x240 => some f.tlbiVa.toNat
  | 0x248 => some f.tlbiCtl.toNat
  | 0x280 => some f.eccCe.toNat
  | 0x288 => some f.eccUe.toNat
  | 0x290 => some f.eccPsnrd.toNat
  | 0x298 => some f.eccLast.toNat
  | 0x2A0 => some f.scrubPeriod.toNat
  | 0x380 => some f.rwHold.toNat
  | 0x388 => some f.rwMerged.toNat
  | 0x390 => some f.rwSent.toNat
  | 0x3C0 => some f.migSrc.toNat
  | 0x3C8 => some f.migDst.toNat
  | 0x3D0 => some (f.migCtl.toNat + s.migration.isSome.toNat * 2 ^ 31 + s.stubs.length * 2 ^ 16)
  | 0x3D8 => some f.migDone.toNat
  | 0x3E0 => some f.migInbase.toNat
  | 0x3E8 => some f.migInlim.toNat
  | 0x4C0 => some f.pdDrops.toNat
  | 0x2800 => some f.launchSeq.toNat
  | 0x2900 => some f.qlId.toNat
  | 0x2908 => some f.qlPod.toNat
  | 0x2910 => some f.qlStarve.toNat
  | 0x2918 => some f.qlThr.toNat
  | 0x2920 => some f.qlRevokes.toNat
  | 0x2C00 => some f.pkgPwr.toNat
  | 0x2C08 => some f.clkMhz.toNat
  | _ => none

/-- The arrays of registers: base, stride, count and the value of each. -/
def State.regArrays (s : State) : List (Nat × Nat × Nat × (Nat → Nat)) :=
  [(0x100, 8, 6, fun i => (s.fe.age.get (Fin.ofNat 6 i)).toNat),
   (0x160, 8, 4, fun i => (s.fe.dieCap.get (Fin.ofNat 4 i)).toNat),
   (0x300, 16, 8, fun i => (s.fe.rwbase.get (Fin.ofNat 8 i)).toNat),
   (0x308, 16, 8, fun i => (s.fe.rwlim.get (Fin.ofNat 8 i)).toNat),
   (0x400, 8, 8, fun i => (s.inst i).ptr.toNat),
   (0x480, 8, 8, fun i => (s.inst i).pdptr.toNat),
   (0x800, 8, 64, fun i => ((s.inst (i / 8)).cnt.get (Fin.ofNat 8 i)).toNat),
   (0x1000, 8, 256, fun i => (s.queues.get (Fin.ofNat 256 i)).cfg.toNat),
   (0x2000, 8, 256, fun i => (s.tens.get (Fin.ofNat 256 i)).ptr.toNat),
   (0x2C10, 8, 4, fun i => (s.fe.dieTemp.get (Fin.ofNat 4 i)).toNat),
   (0x3000, 8, 256, fun i => (s.fe.lanecap.get (Fin.ofNat 256 i)).toNat),
   (0x3800, 8, 256, s.txReg),
   (0x4000, 8, 256, s.rxReg),
   (0x4800, 8, 256, s.rxcReg)]

/-- The 8-byte register at an offset: an unassigned offset and a portal page read 0 (R406, R411). -/
def State.regRead (s : State) (off : Nat) : Nat :=
  match s.readScalar off with
  | some v => v
  | none => (s.regArrays.findSome? fun r => (regIndex off r.1 r.2.1 r.2.2.1).map r.2.2.2).getD 0

/-- `n` aligned bytes of the register block. -/
def State.feLoad (s : State) (off n : Nat) : Nat := s.regRead (off / 8 * 8) / 256 ^ (off % 8) % 256 ^ n

/-! ### Plain registers and those with ranges (R407) -/

/-- Whether a value has bits outside a mask. -/
def outside (v m : Word) : Bool := v &&& ~~~m != 0

/-- Replaces the front end's registers. -/
def State.setFe (s : State) (f : FeRegs → FeRegs) : State := { s with fe := f s.fe }

/-- A register without conditions of its own: bits above its width are reserved. -/
def State.plainWrite (s : State) (off w : Nat) (v : Word) (f : FeRegs → FeRegs) : State :=
  s.guardWrite off [(decide (2 ^ w ≤ v.toNat), 1)] fun s => s.setFe f

/-- The number of pool ports that a value of POOL_PORTS enables. -/
def portCount (v : Word) : Nat := ((List.range 28).filter fun p => decide (2 ≤ p) && v.getLsbD p).length

/-- Whether POOL_SIZE suits the ports (R204). -/
def poolFits (ports size : Word) : Bool :=
  size == 0 || (decide (portCount ports ≠ 0) && size.toNat % portCount ports == 0)

/-- The windows that are enabled: first byte and length (R424). -/
def windows (b l : Vector (BitVec 64) 8) : List (Nat × Nat) :=
  (List.finRange 8).filterMap fun i =>
    if (b.get i).getLsbD 0 then some (fld (b.get i) 45 8 * 256, (fld (l.get i) 45 8 + 1) * 256 - fld (b.get i) 45 8 * 256)
    else none

/-- Whether a window's limit is below its base, or it leaves the HBM or pool range (R424). -/
def windowBad (b l : BitVec 64) : Bool :=
  b.getLsbD 0 &&
    let lo := fld b 45 8 * 256
    let hi := fld l 45 8 * 256 + 256
    decide (hi ≤ lo) || !(decide (hi ≤ 2 ^ 39) || (decide (poolBase ≤ lo) && decide (hi ≤ hostBase)))

/-- Whether some two of a list of ranges overlap. -/
def anyOverlap : List (Nat × Nat) → Bool
  | [] => false
  | r :: rs => rs.any (overlap r) || anyOverlap rs

/-- A write of RWBASEn or RWLIMn that leaves the windows `b`, `l` (R424). -/
def State.writeWindow (s : State) (off : Nat) (rsv : Bool) (b l : Vector (BitVec 64) 8) : State :=
  s.guardWrite off
    [(s.launchActive, 3), (rsv, 1), ((List.finRange 8).any fun i => windowBad (b.get i) (l.get i), 2), (anyOverlap (windows b l), 2)]
    fun s => s.setFe fun f => { f with rwbase := b, rwlim := l }

/-- A write of MIG_INBASE or MIG_INLIM that leaves `b`, `l` (R434). -/
def State.writeInWindow (s : State) (off : Nat) (rsv : Bool) (b l : BitVec 64) : State :=
  let lo := fld b 45 16 * 65536
  let hi := fld l 45 16 * 65536 + 65535
  let same := (isHbm lo && isHbm hi) || (s.isPool lo && s.isPool hi)
  s.guardWrite off
    [(!s.incoming.isEmpty, 4), (rsv, 1), (b.getLsbD 0 && decide (hi < lo), 2), (b.getLsbD 0 && !same, 2)]
    fun s => s.setFe fun f => { f with migInbase := b, migInlim := l }

/-- A write of QL_ID or QL_POD (R438): the moorings are tuned anew (R437). -/
def State.writePod (s : State) (off : Nat) (cs : List (Bool × Nat)) (f : FeRegs → FeRegs) : State :=
  s.guardWrite off ((s.launchActive, 3) :: cs) fun s => (s.setFe f).tuneMoorings

/-! ### Queues (R117) -/

/-- A write of QCFGn. -/
def State.writeQcfg (s : State) (n : Fin 256) (v : Word) : State :=
  let q := s.queues.get n
  s.guardWrite (0x1000 + 8 * n.val)
    [(outside v 0xFF70F, 1), (fld v 3 1 == 7 && fld v 19 12 != 0, 2),
      (fld v 19 12 != fld q.cfg 19 12 && !q.packets.isEmpty, 3)]
    fun s =>
      let cfg := (v &&& 0xFF00F#64).setWidth 32 ||| BitVec.ofNat 32 (fld v 3 1 * 256)
      { s with queues := s.queues.set n.val { q with cfg := cfg, waitFrom := s.storeClk.toNat } n.isLt }

/-- QCFG_WRITE (R117). -/
def execQcfgWrite (n : Fin 256) (v : BitVec 64) (s : State) : Out := .next (s.writeQcfg n v)

/-! ### Tenancies (R408, R409) -/

/-- A little-endian field of a record. -/
def recNat (b : List Byte) (o n : Nat) : Nat := ofBytes ((b.drop o).take n)

/-- The configuration record of R408. -/
def tenancyOf (v : Word) (b : List Byte) : Tenancy :=
  { ptr := v, on := true, root := recNat b 0 8, trapvec := BitVec.ofNat 64 (recNat b 8 8)
    ctxbase := BitVec.ofNat 64 (recNat b 16 8), leasemax := recNat b 24 4, wlcap := recNat b 28 1
    listgrp := BitVec.ofNat 64 (recNat b 32 8), listbase := recNat b 40 8, cores := BitVec.ofNat 256 (recNat b 64 32)
    domains := BitVec.ofNat 256 (recNat b 96 32) }

/-- The conditions of R409 with code 2 on a record for tenancy `n`. -/
def State.tenancyBad (s : State) (n : Fin 256) (t : Tenancy) : Bool :=
  let others := ((List.finRange 256).filter fun i => i != n).map fun i => s.tens.get i
  let live := others.filter Tenancy.on
  decide (t.ptr.toNat % 128 ≠ 0) || !isHbm t.ptr.toNat
    || decide (t.root % 65536 ≠ 0) || !isHbm t.root || t.trapvec.getLsbD 0 || decide (t.ctxbase.toNat % 4096 ≠ 0)
    || decide (t.wlcap < 6) || decide (20 < t.wlcap) || t.cores == 0
    || live.any (fun o => o.cores &&& t.cores != 0 || o.listgrp &&& t.listgrp != 0)
    || decide (t.listbase % 65536 ≠ 0) || ((t.listbase == 0) != (t.listgrp == 0))
    || t.listRegion.any fun r => decide (2 ^ 39 < r.1 + r.2) || live.any fun o => o.listRegion.any (overlap r)

/-- Whether tenancy `n` has an active launch or a non-empty queue (R409). -/
def State.tenancyBusy (s : State) (n : Fin 256) : Bool :=
  (s.launches.any fun l => l.packet.ten.toNat == n.val)
    || s.queues.toList.any fun q => fld q.cfg 19 12 == n.val && !q.packets.isEmpty

/-- Reads a record in physical memory as the front end does: none where the address is not populated memory. -/
def State.readRecord (s : State) (pa n : Nat) : Option (List (Byte × Bool)) × State :=
  let pas := (List.range n).map fun i => pa + i
  if pas.all fun a => s.isBacked a || s.isHostWin a then
    let (bs, s) := s.readAs Actor.host pas
    (some bs, s)
  else (none, s)

/-- A write of TENCFGn (R409): the active test, then the record's read, then reserved fields, then ranges. -/
def State.writeTencfg (s : State) (n : Fin 256) (v : Word) : State :=
  let off := 0x2000 + 8 * n.val
  if s.tenancyBusy n then s.latchFe 3 off
  else if v = 0 then { s with tens := s.tens.set n.val Tenancy.reset n.isLt }
  else
    match s.readRecord v.toNat 128 with
    | (none, s) => s.latchFe 5 off
    | (some bs, s) =>
      let b := bs.map Prod.fst
      let t := tenancyOf v b
      s.guardWrite off [(bs.any Prod.snd, 5), (recNat b 29 3 != 0 || recNat b 48 16 != 0, 1), (s.tenancyBad n t, 2)]
        fun s => { s with tens := s.tens.set n.val t n.isLt }

/-- TENCFG_WRITE (R409). -/
def execTencfgWrite (n : Fin 256) (v : BitVec 64) (s : State) : Out := .next (s.writeTencfg n v)

/-! ### Store instances (R261, R262) -/

/-- The instance record of R262. -/
def instRecOf (b : List Byte) : InstRec :=
  { bt := recNat b 0 1, dom := recNat b 1 1, nl := recNat b 2 2, nh := recNat b 4 1, d := recNat b 5 1, ixlog := recNat b 6 1
    model := BitVec.ofNat 64 (recNat b 8 8), ixbase := recNat b 16 8, t1base := recNat b 24 8, t1fr := recNat b 32 4
    privmax := recNat b 36 4, t2base := recNat b 40 8, t2fr := recNat b 48 4, t0base := recNat b 52 4, t0fr := recNat b 56 2
    theta := BitVec.ofNat 32 (recNat b 60 4) }

/-- Fields outside their ranges (R262). -/
def InstRec.outOfRange (c : InstRec) : Bool :=
  decide (4 < c.bt) || decide (c.nl < 1) || decide (128 < c.nl) || decide (c.nh < 1) || decide (64 < c.nh) || decide (2 < c.d)
    || decide (c.ixlog < 6) || decide (22 < c.ixlog) || decide (c.ixbase % (64 * c.entries) ≠ 0) || decide (c.t1base % 4096 ≠ 0)
    || decide (c.privmax < 1) || decide (c.t1fr ≤ c.privmax) || decide (c.t2base % 4096 ≠ 0)
    || ((c.t2base == 0) != (c.t2fr == 0)) || decide (c.t0base % 256 ≠ 0)
    || !(decide (c.theta.toNat ≤ 0x3F800000) || c.theta == 0x80000000)

/-- Regions that leave their memory (R262). -/
def State.regionsLeave (s : State) (c : InstRec) : Bool :=
  decide (2 ^ 39 < c.ixbase + 64 * c.entries) || decide (2 ^ 39 < c.t1base + c.t1fr * c.size)
    || (decide (c.t2fr ≠ 0)
      && (decide (c.t2base < poolBase) || decide (poolBase + s.fe.poolSize.toNat * 2 ^ 30 < c.t2base + c.t2fr * c.size)))
    || decide (2 ^ 22 < c.t0base + c.t0fr * c.size)

/-- Marks every index entry of an instance FREE. -/
def State.clearIndex (s : State) (c : InstRec) : State :=
  (List.range c.entries).foldl (fun s n => s.putIx c n IxEntry.free) s

/-- A write of SI_PTRn (R261, R262). -/
def State.writeSiPtr (s : State) (n : Fin 8) (v : Word) : State :=
  let off := 0x400 + 8 * n.val
  let keep := (s.insts.get n).pdptr
  let put := fun (s : State) (i : Inst) => { s with insts := s.insts.set n.val i n.isLt }
  if s.launchActive then s.latchFe 3 off
  else if v = 0 then put s { Inst.reset with pdptr := keep }
  else
    match s.readRecord v.toNat 64 with
    | (none, s) => s.latchFe 2 off
    | (some bs, s) =>
      let b := bs.map Prod.fst
      let c := instRecOf b
      s.guardWrite off
        [(bs.any Prod.snd, 5), (decide (8 ≤ recNat b 0 1) || recNat b 7 1 != 0 || recNat b 58 2 != 0, 1),
          (decide (v.toNat % 64 ≠ 0) || !isHbm v.toNat, 2), (c.outOfRange, 2), (s.regionsLeave c, 2),
          (c.regions.any fun r => (s.storeRegions n.val).any (overlap r), 2),
          (c.t0Region.any fun r => (s.t0Regions n.val).any (overlap r), 2),
          (decide (c.dom ≠ 0) && !s.keys.any fun k => k.1 == c.dom, 2)]
        fun s => (put s { Inst.reset with ptr := v, cfg := some c, pdptr := keep }).clearIndex c

/-- SI_PTR_WRITE (R262). -/
def execSiPtrWrite (n : Fin 8) (v : BitVec 64) (s : State) : Out := .next (s.writeSiPtr n v)

/-- A write of PD_PTRn (R458): every entry of the table becomes FREE; 0 ends the sharing of the instance. -/
def State.writePdPtr (s : State) (n : Fin 8) (v : Word) : State :=
  let base := fld v 45 12 * 4096
  let log := fld v 4 0
  let put := fun (s : State) => { s with insts := s.insts.set n.val { s.insts.get n with pdptr := v } n.isLt }
  s.guardWrite (0x480 + 8 * n.val)
    ((s.launchActive, 3) :: (outside v 0x3FFFFFFFF01F, 1) ::
      (if v = 0 then []
      else
        [(decide (log < 6) || decide (22 < log), 2), (decide (base % (32 * 2 ^ log) ≠ 0), 2),
          (decide (2 ^ 39 < base + 32 * 2 ^ log), 2),
          ((s.storeRegions 8 ++ s.directories n.val).any (overlap (base, 32 * 2 ^ log)), 2), ((s.insts.get n).ptr == 0, 2)]))
    fun s =>
      if v = 0 then put s
      else (List.range (2 ^ log)).foldl (fun s i => s.poke (base + 32 * i) (toBytes 32 0)) (put s)

/-- PD_PTR_WRITE (R458). -/
def execPdPtrWrite (n : Fin 8) (v : BitVec 64) (s : State) : Out := .next (s.writePdPtr n v)

/-! ### FE_ERR and QL_POD -/

/-- A write of FE_ERR (R407): 0 clears it, any other value is discarded. -/
def State.writeFeErr (s : State) (v : Word) : State := if v = 0 then s.setFe fun f => { f with feErr := 0 } else s

/-- FE_ERR_WRITE (R407). -/
def execFeErrWrite (v : BitVec 64) (s : State) : Out := .next (s.writeFeErr v)

/-- A write of QL_POD (R437, R438). -/
def State.writeQlPod (s : State) (v : Word) : State :=
  s.writePod 0x2908 [(!v.getLsbD s.qlId, 2)] fun f => { f with qlPod := v }

/-- QL_POD_WRITE (R437). -/
def execQlPodWrite (v : BitVec 64) (s : State) : Out := .next (s.writeQlPod v)

/-! ### Every write (R406, R407) -/

/-- A portal page's offset (R410). -/
def isPortal (off : Nat) : Bool := decide (0x100000 ≤ off) && decide (off < 0x200000)

/-- A posted write to a portal page is discarded and counted (R411): PDROP saturates. -/
def State.portalDrop (s : State) : State :=
  s.setFe fun f => if fld f.feStat 15 0 = 0xFFFF then f else { f with feStat := f.feStat + 1 }

/-- Writes of registers that stand alone; none where the offset is another. -/
def State.writeScalar (s : State) (off : Nat) (v : Word) : Option State :=
  match off with
  | 0x0 => some (s.writeFeErr v)
  | 0x140 => some (s.plainWrite off 16 v fun f => { f with pwrBudget := v.setWidth 16 })
  | 0x148 => some (s.plainWrite off 16 v fun f => { f with pwrStatic := v.setWidth 16 })
  | 0x150 => some (s.plainWrite off 32 v fun f => { f with pwrDefrate := v.setWidth 32 })
  | 0x180 => some (s.plainWrite off 16 v fun f => { f with preWait := v.setWidth 16 })
  | 0x200 => some (s.guardWrite off
      [(s.launchActive, 3), (outside v 0x0FFFFFFC, 1), (!poolFits v (s.fe.poolSize.setWidth 64), 2)]
      fun s => s.setFe fun f => { f with poolPorts := v.setWidth 32 })
  | 0x208 => some (s.guardWrite off
      [(s.launchActive, 3), (outside v 0xFFFFFFFF, 1), (decide (16384 < v.toNat) || !poolFits (s.fe.poolPorts.setWidth 64) v, 2)]
      fun s => s.setFe fun f => { f with poolSize := v.setWidth 32 })
  | 0x210 => some (s.guardWrite off [(s.launchActive, 3), (outside v 0xFFFFFFFF, 1), (decide (16384 < v.toNat), 2)]
      fun s => s.setFe fun f => { f with hostwinSize := v.setWidth 32 })
  | 0x240 => some (s.setFe fun f => { f with tlbiVa := v })
  | 0x248 => some (s.writeTlbi v)
  | 0x2A0 => some (s.plainWrite off 32 v fun f => { f with scrubPeriod := v.setWidth 32 })
  | 0x380 => some (s.guardWrite off [(outside v 0xFFFFFFFF, 1), (decide (v.toNat < 1) || decide (4095 < v.toNat), 2)]
      fun s => s.setFe fun f => { f with rwHold := v.setWidth 32 })
  | 0x3C0 => some (s.setFe fun f => { f with migSrc := v })
  | 0x3C8 => some (s.setFe fun f => { f with migDst := v })
  | 0x3D0 => some (s.writeMig v)
  | 0x3E0 => some (s.writeInWindow off (outside v 0x3FFFFFFF0001) v s.fe.migInlim)
  | 0x3E8 => some (s.writeInWindow off (outside v 0x3FFFFFFF0000) s.fe.migInbase v)
  | 0x2900 => some (s.writePod off [(outside v 0x3F, 1)] fun f => { f with qlId := v })
  | 0x2908 => some (s.writeQlPod v)
  | 0x2910 => some (s.guardWrite off [(decide (v.toNat < 1) || decide (65535 < v.toNat), 2)]
      fun s => s.setFe fun f => { f with qlStarve := v })
  | 0x2918 => some (s.guardWrite off [(decide (v.toNat < 1) || decide (2 ^ 20 < v.toNat), 2)]
      fun s => s.setFe fun f => { f with qlThr := v })
  | _ => none

/-- The arrays that can be written: base, stride, count and what a write of each does. -/
def State.writeArrays (s : State) (v : Word) : List (Nat × Nat × Nat × (Nat → State)) :=
  [(0x100, 8, 6, fun i => s.plainWrite (0x100 + 8 * i) 16 v fun f =>
      { f with age := f.age.set (Fin.ofNat 6 i).val (v.setWidth 16) (Fin.ofNat 6 i).isLt }),
   (0x160, 8, 4, fun i => s.plainWrite (0x160 + 8 * i) 16 v fun f =>
      { f with dieCap := f.dieCap.set (Fin.ofNat 4 i).val (v.setWidth 16) (Fin.ofNat 4 i).isLt }),
   (0x300, 16, 8, fun i => s.writeWindow (0x300 + 16 * i) (outside v 0x3FFFFFFFFF01)
      (s.fe.rwbase.set (Fin.ofNat 8 i).val v (Fin.ofNat 8 i).isLt) s.fe.rwlim),
   (0x308, 16, 8, fun i => s.writeWindow (0x308 + 16 * i) (outside v 0x3FFFFFFFFF00)
      s.fe.rwbase (s.fe.rwlim.set (Fin.ofNat 8 i).val v (Fin.ofNat 8 i).isLt)),
   (0x400, 8, 8, fun i => s.writeSiPtr (Fin.ofNat 8 i) v),
   (0x480, 8, 8, fun i => s.writePdPtr (Fin.ofNat 8 i) v),
   (0x1000, 8, 256, fun i => s.writeQcfg (Fin.ofNat 256 i) v),
   (0x2000, 8, 256, fun i => s.writeTencfg (Fin.ofNat 256 i) v),
   (0x3000, 8, 256, fun i => s.guardWrite (0x3000 + 8 * i) [(decide (193 < v.toNat), 2)] fun s => s.setFe fun f =>
      { f with lanecap := f.lanecap.set (Fin.ofNat 256 i).val v (Fin.ofNat 256 i).isLt })]

/-- A write of the 8-byte register at an offset: a read-only register and an unassigned offset refuse it with code 6. -/
def State.regWrite (s : State) (off : Nat) (v : Word) : State :=
  if isPortal off then s.portalDrop
  else
    match s.writeScalar off v with
    | some t => t
    | none => ((s.writeArrays v).findSome? fun r => (regIndex off r.1 r.2.1 r.2.2.1).map r.2.2.2).getD (s.latchFe 6 off)

/-- A write of `n` aligned bytes of the register block: the other half of an 8-byte register is kept (log entry 45). -/
def State.feStore (s : State) (off n v : Nat) : State :=
  let base := off / 8 * 8
  let k := off % 8
  if n = 8 then s.regWrite base (BitVec.ofNat 64 v)
  else
    let old := s.regRead base
    s.regWrite base (BitVec.ofNat 64 (old - old / 256 ^ k % 256 ^ n * 256 ^ k + v % 256 ^ n * 256 ^ k))

/-- REGISTER_WRITE (R407): a write by the host over CXL.io. -/
def execRegisterWrite (off : Nat) (v : BitVec 64) (s : State) : Out := .next (s.regWrite off v)

/-- PORTAL_POSTED_WRITE (R411). -/
def execPortalPostedWrite (portal : Nat) (s : State) : Out := if portal < 256 then .next s.portalDrop else .next s

end Sys2Proof.Machine
end

