-- ==== Sys2Proof/Machine/StoreCmds.lean ====
section
/-!
DEFINITION. The commands of the store engines (15_store_engines.md): parameter blocks and their checks, names and lookup, references,
leases and promotion, private nodes and sealing, merging, KVLD and KVST, backfill and the planner.
-/
namespace Sys2Proof.Machine

/-! ### Result codes (R308) -/

/-- DONE. -/
def resDone : Nat := 0
/-- NOSPACE. -/
def resNospace : Nat := 1
/-- INDEXFULL. -/
def resIndexfull : Nat := 2
/-- NOPARENT. -/
def resNoparent : Nat := 3
/-- DUP. -/
def resDup : Nat := 4
/-- COLLISION. -/
def resCollision : Nat := 5
/-- NOSEAL. -/
def resNoseal : Nat := 6
/-- NOTFULL. -/
def resNotfull : Nat := 7
/-- STATE. -/
def resState : Nat := 8
/-- NOTPRESENT. -/
def resNotpresent : Nat := 9
/-- REFUSED. -/
def resRefused : Nat := 10
/-- LATE. -/
def resLate : Nat := 11
/-- SEGMENTS. -/
def resSegments : Nat := 12

/-- SLOT of a private node in a block (R307). -/
def slotPrivate : Nat := 0xFFFFFFFF

/-! ### Parameter blocks (R306, R307, R309) -/

/-- A number in a list of bytes. -/
def atBytes (bs : List Byte) (o n : Nat) : Nat := ofBytes ((bs.drop o).take n)

/-- The control word and the block address of a command of MAJ 0x3D. -/
def CmdOp.block : CmdOp → Option (Word × Word)
  | .pxhash d a | .pxlook d a | .pxpin d a | .pxunpin d a | .pxseal d a | .pxalloc d a | .pxlease d a | .pxprom d a
  | .kmerge d a | .bfill d a | .plan d a | .pxfetch d a | .pxrepl d a => some (d, a)
  | _ => none

/-- The operand bytes that a command uses: offset and length (R307, R465). -/
def CmdOp.used : CmdOp → List (Nat × Nat)
  | .pxhash .. => [(16, 16), (32, 4), (36, 4), (40, 4)]
  | .pxlook .. => [(16, 4), (20, 4), (24, 4), (28, 4), (32, 8)]
  | .pxpin .. => [(16, 4)]
  | .pxunpin .. => [(16, 4), (24, 8)]
  | .pxlease .. => [(16, 4), (20, 4)]
  | .pxprom .. => [(16, 4), (20, 1), (24, 8)]
  | .pxalloc .. => [(16, 16), (32, 4), (36, 4)]
  | .pxseal .. => [(16, 8)]
  | .kmerge .. => [(16, 8), (24, 2)]
  | .bfill .. => [(16, 8), (24, 1), (25, 1), (26, 1), (32, 8)]
  | .plan .. => [(16, 4), (20, 4), (24, 4), (32, 8)]
  | .pxfetch .. => [(16, 16), (32, 8), (40, 4), (44, 4), (48, 4)]
  | .pxrepl .. => [(16, 16), (32, 16)]
  | _ => []

/-- Whether a reserved operand byte is not zero (R309 check 3). -/
def CmdOp.reservedSet (op : CmdOp) (b : List Byte) : Bool :=
  ((List.range 48).map (· + 16)).any fun i =>
    b.getD i 0 != 0 && !op.used.any fun u => decide (u.1 ≤ i) && decide (i < u.1 + u.2)

/-- A count where it is in its range, else 0: an array of a count outside its range is tested for alignment only (R309 check 2). -/
def inRange (n lo hi : Nat) : Nat := if lo ≤ n ∧ n ≤ hi then n else 0

/-- A scratchpad array that a block names: address, length, alignment, and whether the command reads it. -/
structure SpadArray where
  addr : Nat
  len : Nat
  align : Nat
  input : Bool

/-- The scratchpad arrays that a block names (R307, R465). -/
def CmdOp.arrays (op : CmdOp) (c : InstRec) (b : List Byte) : List SpadArray :=
  match op with
  | .pxhash .. =>
    let k := inRange (atBytes b 32 4) 1 64
    [⟨atBytes b 36 4, 4 * c.slots * k, 4, true⟩, ⟨atBytes b 40 4, 16 * k, 16, false⟩]
  | .pxlook .. =>
    let k := inRange (atBytes b 16 4) 1 64
    [⟨atBytes b 20 4, 16 * k, 16, true⟩, ⟨atBytes b 24 4, 4 * c.slots * k, 4, true⟩]
  | .plan .. => [⟨atBytes b 24 4, 4 * inRange (atBytes b 16 4) 1 65535, 4, true⟩]
  | .pxfetch .. => if atBytes b 40 4 % 2 = 1 then [⟨atBytes b 32 8, atBytes b 48 4, 1, false⟩] else []
  | _ => []

/-- Whether BFILL's weights are unfit (R326). -/
def badWeights (c : InstRec) (h : Handle) : Bool :=
  h.fmt != 4 || h.loc != 0 || h.cols % 32 != 0 || decide (h.rows < 2 * c.nl * c.nh * c.dim)

/-- Whether an operand is outside its range (R307, R309 check 3, R326, R465). -/
def CmdOp.rangeBad (op : CmdOp) (c : InstRec) (w : Handle) (b : List Byte) : Bool :=
  let n := atBytes b
  match op with
  | .pxhash .. => inRange (n 32 4) 1 64 == 0
  | .pxlook .. => inRange (n 16 4) 1 64 == 0 || decide (1 < n 28 4) || n 32 8 % 16 != 0
  | .pxunpin .. => n 16 4 != slotPrivate && n 24 8 != 0
  | .pxprom .. => decide (1 < n 20 1)
  | .pxalloc .. => n 32 4 == 0 || decide (1 < n 36 4) || (n 16 16 == 0) != (n 32 4 == 1)
  | .bfill .. => n 32 8 % 64 != 0 || badWeights c w
  | .plan .. => inRange (n 16 4) 1 65535 == 0 || inRange (n 20 4) 1 65535 == 0 || n 32 8 % 64 != 0
  | .pxfetch .. =>
    decide (1 < n 40 4) || (n 40 4 == 0 && n 32 8 % 256 != 0) || n 44 4 % 256 != 0 || n 48 4 % 256 != 0
      || inRange (n 48 4) 256 c.size == 0
  | _ => false

/-- Whether a field exceeds the instance (R309 check 4, R465). -/
def CmdOp.exceeds (op : CmdOp) (c : InstRec) (b : List Byte) : Bool :=
  let n := atBytes b
  match op with
  | .kmerge .. => decide (c.nl ≤ n 24 2)
  | .bfill .. => decide (c.nl ≤ n 25 1) || decide (c.slots ≤ n 24 1)
  | .pxfetch .. => decide (c.size < n 44 4 + n 48 4)
  | _ => false

/-- The global bytes that a command reads or writes: address, length, and what it needs of the pages (R309 check 5). -/
def CmdOp.globals (op : CmdOp) (w : Handle) (b : List Byte) : Option (Nat × Nat × Need) :=
  let n := atBytes b
  match op with
  | .pxlook .. => if n 32 8 = 0 then none else some (n 32 8, 16 * n 16 4, Need.store)
  | .bfill .. => some (n 32 8, 2 * w.cols, Need.load)
  | .plan .. => some (n 32 8, 64 * n 20 4, Need.store)
  | .pxfetch .. => if n 40 4 = 1 then none else some (n 32 8, n 48 4, Need.store)
  | _ => none

/-- The scratchpad bytes of a block command for R298, from the block as it stands at issue. -/
def CmdOp.blockSpad (op : CmdOp) (s : State) (c : CoreId) : List (Nat × Nat) :=
  match op.block with
  | none => []
  | some (d, a) =>
    let b := (List.range 64).map fun i => cellsGet (s.core c).spad (a.toNat + i)
    match (s.inst (fld d 8 6)).cfg with
    | none => [(a.toNat, 64)]
    | some r => (a.toNat, 64) :: (op.arrays r b).map fun x => (x.addr, x.len)

/-- Whether a tenancy holds a domain (R408). -/
def State.holdsDomain (s : State) (ten : BitVec 8) (dom : Nat) : Bool := (s.tens.get ten.toFin).domains.getLsbD dom

/-- Whether a command also needs the instance to take part in pod sharing (R465). -/
def CmdOp.podShared : CmdOp → Bool
  | .pxfetch .. | .pxrepl .. => true
  | _ => false

/-- Reads scratchpad arrays one after another. -/
def State.readArrays (s : State) (c : CoreId) (a : Actor) : List SpadArray → List Byte × Bool × State
  | [] => ([], false, s)
  | x :: xs =>
    let (bs, bad, s) := s.spadLoad c a x.addr x.len
    let (rest, bad2, s) := s.readArrays c a xs
    (bs ++ rest, bad || bad2, s)

/-- What a store engine does with a block command that it accepts (R309): the first check that fails completes it; else it has
started, its data being the block, then the scratchpad arrays and the global input that it names. `sent` is 1 where the global input
is poisoned. -/
def State.acceptBlock (s : State) (c : CoreId) (k : Cmd) : State :=
  match k.op.block with
  | none => s
  | some (d, a) =>
    let i := fld d 8 6
    match (s.inst i).cfg with
    | none => s.finish c k codeHandle 0 0 0
    | some r =>
      if fld d 63 9 ≠ 0 ∨ !s.holdsDomain k.ten r.dom ∨ (k.op.podShared && (s.inst i).directory.isNone) then
        s.finish c k codeHandle 0 0 0
      else if a.toNat % 64 ≠ 0 ∨ a.toNat + 64 > 2 ^ 22 then s.finish c k codeSpaddr 0 0 0
      else
        let (b, bad, s) := s.spadLoad c (k.actor c) a.toNat 64
        let s := ((s.core c).badHandles [BitVec.ofNat 64 (atBytes b 26 1)]).foldl State.foundOnDie s
        let w := handleOf ((s.core c).hEntry (Fin.ofNat 256 (atBytes b 26 1)))
        let arr := k.op.arrays r b
        if arr.any fun x => x.addr % x.align != 0 || decide (x.addr + x.len > 2 ^ 22) then s.finish c k codeSpaddr 0 0 0
        else if bad then s.finish c k codePoison 0 0 0
        else if k.op.reservedSet b || k.op.rangeBad r w b then s.finish c k codeHandle 0 0 0
        else if k.op.exceeds r b then s.finish c k codeBounds 0 0 0
        else
          let g := k.op.globals w b
          let (pas, fs, s) :=
            match g with
            | none => ([], [], s)
            | some (va, n, need) => s.engTranslate k c need va n
          match fs with
          | f :: _ => s.finish c k codePage 0 f.det f.va
          | [] =>
            let (xs, bad, s) := s.readArrays c (k.actor c) (arr.filter SpadArray.input)
            if bad then s.finish c k codePoison 0 0 0
            else
              let (ys, s) :=
                match g with
                | some (_, _, need) => if need.rd then s.readAs (k.actor c) (pas.filterMap id) else ([], s)
                | none => ([], s)
              s.putCmd c { k with phase := .started s.cycle, data := b ++ xs ++ ys.map Prod.fst
                                  sent := (ys.any Prod.snd).toNat }

/-! ### Results -/

/-- Writes bytes 0 to 15 of the block (R306). -/
def State.putResult (s : State) (c : CoreId) (k : Cmd) (res rval : Nat) : State :=
  match k.op.block with
  | none => s
  | some (_, a) =>
    let bs := toBytes 8 res ++ toBytes 8 rval
    s.engWriteSpad k c ((List.range 16).map fun i => { addr := a.toNat + i, byte := bs.getD i 0, bad := false })

/-- Completes a command with a result code. -/
def State.answer (s : State) (c : CoreId) (k : Cmd) (res rval : Nat) : State := (s.putResult c k res rval).finish c k codeOk 0 0 0

/-- Completes a command that has met poison after it began to take effect (R309). -/
def State.answerPoison (s : State) (c : CoreId) (k : Cmd) : State := s.finish c k codePoison 0 0 0

/-- NOSPACE or INDEXFULL, counted (R283). -/
def State.answerFull (s : State) (c : CoreId) (k : Cmd) (i res : Nat) : State := (s.countInst i 7 1).answer c k res 0

/-- Writes bytes at a global address for a command, whose pages were checked when it was accepted. -/
def State.engStore (s : State) (k : Cmd) (c : CoreId) (va : Nat) (bs : List Byte) : State :=
  let (pas, _, s) := s.engTranslate k c Need.store va bs.length
  s.engWritePas k c ((pas.zip bs).filterMap fun p => p.1.map fun a => { addr := a, byte := p.2, bad := false })

/-! ### Names and lookup (R312, R313, R272) -/

/-- Cuts bytes into 32-bit numbers. -/
def words32 (bs : List Byte) (n : Nat) : List Nat := (List.range n).map fun i => atBytes bs (4 * i) 4

/-- The names of a chain of blocks. -/
def State.chain (s : State) (c : InstRec) : Nat → List (List Nat) → List Nat
  | _, [] => []
  | p, t :: ts => let n := s.nameOf c p t; n :: s.chain c n ts

/-- PXHASH (R312). -/
def State.runPxhash (s : State) (c : CoreId) (k : Cmd) (r : InstRec) : State :=
  let n := atBytes k.data 32 4
  let toks := (List.range n).map fun i => words32 (k.data.drop (64 + 4 * r.slots * i)) r.slots
  let out := ((s.chain r (atBytes k.data 16 16) toks).map fun x => toBytes 16 x).flatten
  let o := atBytes k.data 40 4
  (s.engWriteSpad k c ((List.range out.length).map fun i => { addr := o + i, byte := out.getD i 0, bad := false })).answer c k
    resDone n

/-- The binary search of R272. -/
def State.bisect (s : State) (r : InstRec) (names : List Nat) : Nat → Nat → Nat → Nat
  | 0, lo, _ => lo
  | fuel + 1, lo, hi =>
    if lo < hi then
      let mid := (lo + hi + 1) / 2
      let hit := (s.findName r (names.getD (mid - 1) 0)).any fun n => (s.ix r n).state == ixSealed
      if hit then s.bisect r names fuel mid hi else s.bisect r names fuel lo (mid - 1)
    else lo

/-- What the verification of a lookup has found: the entries of the blocks verified, and whether it met poison. -/
structure LookNote where
  hits : List Nat
  bad : Bool

/-- The verification of R272 with the pins of R313, for the blocks in `bs` (name, tokens). -/
def State.verify (s : State) (a : Actor) (i : Nat) (r : InstRec) (pin : Bool) : List (Nat × List Nat) → Option Nat → LookNote × State
  | [], _ => ({ hits := [], bad := false }, s)
  | (name, toks) :: bs, prev =>
    match s.findName r name with
    | none => ({ hits := [], bad := false }, s)
    | some n =>
      let e := s.ix r n
      if e.state ≠ ixSealed then ({ hits := [], bad := false }, s)
      else
        let (tb, bad, s) := s.sealedBytes a r n e.loc (4 * r.slots)
        if bad then ({ hits := [], bad := true }, s)
        else if words32 tb r.slots ≠ toks ∨ prev.any fun p => p != e.parent then
          ({ hits := [], bad := false }, s.countInst i 2 1)
        else if pin && e.refcnt == 2 ^ 32 - 1 then ({ hits := [], bad := false }, s)
        else
          let s := s.putIx r n { e with lastuse := s.storeClk.toNat, refcnt := if pin then e.refcnt + 1 else e.refcnt }
          let (v, s) := s.verify a i r pin bs (some n)
          ({ v with hits := n :: v.hits }, s)

/-- The node translation entry of a hit (R313, R284). -/
def State.hitEntry (s : State) (c : CoreId) (i : Nat) (r : InstRec) (n : Nat) : Nat :=
  let e := s.ix r n
  let t0 := e.t0core == 2 ^ 15 + c.val
  n * 2 ^ 106 + i * 2 ^ 103 + 2 ^ 102 + (if t0 then 2 ^ 101 + e.t0addr else e.loc)

/-- What the reader of the nodes in `hits` is ordered after on the KVX path (R240, R273). -/
def State.hitKnow (s : State) (r : InstRec) (hits : List Nat) : Know := Know.ofReads .kvx (hits.flatMap fun n => s.nodeSpans r n).eraseDups

/-- PXLOOK (R313, R272): a hit acquires what the insert of its node handed on (R273). Where a node's tokens are poisoned it completes with POISON; whether its results are written is free. -/
def State.runPxlook (s : State) (c : CoreId) (k : Cmd) (i : Nat) (r : InstRec) : State :=
  let n := atBytes k.data 16 4
  let names := (List.range n).map fun j => atBytes k.data (64 + 16 * j) 16
  let toks := (List.range n).map fun j => words32 (k.data.drop (64 + 16 * n + 4 * r.slots * j)) r.slots
  let j := s.bisect r names 7 0 n
  let (v, s) := s.verify (k.actor c) i r (atBytes k.data 28 4 == 1) ((names.zip toks).take j) none
  let k := { k with know := k.know.merge (s.hitKnow r v.hits) }
  let h := v.hits.length
  let s := (s.countInst i 0 1).countInst i 1 h
  let out := ((List.range n).map fun x => match v.hits[x]? with
    | some m => toBytes 16 (s.hitEntry c i r m)
    | none => toBytes 16 0).flatten
  let va := atBytes k.data 32 8
  let (w, s) := if v.bad then s.freeBit else (true, s)
  let s := if w && va != 0 then s.engStore k c va out else s
  if v.bad then (if w then s.putResult c k resDone h else s).answerPoison c k else s.answer c k resDone h

/-! ### References, leases and promotion (R314 to R316) -/

/-- The entry of a slot, if the slot is one of the index. -/
def State.slotEntry (s : State) (r : InstRec) (n : Nat) : Option IxEntry := if n < r.entries then some (s.ix r n) else none

/-- The entry of a slot, if it is SEALED. -/
def State.sealedEntry (s : State) (r : InstRec) (n : Nat) : Option IxEntry :=
  match s.slotEntry r n with
  | some e => if e.state = ixSealed then some e else none
  | none => none

/-- PXPIN (R314). -/
def State.runPxpin (s : State) (c : CoreId) (k : Cmd) (r : InstRec) : State :=
  let n := atBytes k.data 16 4
  match s.sealedEntry r n with
  | none => s.answer c k resNotpresent 0
  | some e =>
    if e.refcnt = 2 ^ 32 - 1 then s.answer c k resRefused e.refcnt
    else (s.putIx r n { e with refcnt := e.refcnt + 1, lastuse := s.storeClk.toNat }).answer c k resDone (e.refcnt + 1)

/-- PXUNPIN (R314); of a private node it waits for the frame's backfills. -/
def State.runPxunpin (s : State) (c : CoreId) (k : Cmd) (i : Nat) (r : InstRec) : State :=
  let n := atBytes k.data 16 4
  let pa := atBytes k.data 24 8
  if n = slotPrivate then
    if !s.isPrivate i r pa k.ten then s.answer c k resState 0
    else if (s.inst i).pendingOf pa ≠ 0 then s
    else (s.freePrivate i r pa).answer c k resDone 0
  else
    match s.slotEntry r n with
    | none => s.answer c k resNotpresent 0
    | some e =>
      if e.state < 2 ∨ e.state > 4 then s.answer c k resNotpresent 0
      else if e.refcnt = 0 then s.answer c k resRefused 0
      else (s.unref i r n).answer c k resDone (e.refcnt - 1)

/-- PXLEASE (R315, R278). -/
def State.runPxlease (s : State) (c : CoreId) (k : Cmd) (r : InstRec) : State :=
  let n := atBytes k.data 16 4
  let d := atBytes k.data 20 4
  match s.sealedEntry r n with
  | none => s.answer c k resNotpresent 0
  | some e =>
    let g := min d (s.tens.get k.ten.toFin).leasemax
    let l := if d = 0 then e.lease else max e.lease ((s.storeClk.toNat + g) % 2 ^ 64)
    (s.putIx r n { e with lease := l }).answer c k resDone l

/-- The result of a promotion: LATE past its deadline, which is counted (R276, R316). -/
def State.answerMove (s : State) (c : CoreId) (k : Cmd) (i addr : Nat) : State :=
  if s.storeClk.toNat > atBytes k.data 24 8 then (s.countInst i 6 1).answer c k resLate addr else s.answer c k resDone addr

/-- PXPROM (R316): a move that reads poison completes with POISON and moves nothing. -/
def State.runPxprom (s : State) (c : CoreId) (k : Cmd) (i : Nat) (r : InstRec) : State :=
  let n := atBytes k.data 16 4
  match s.sealedEntry r n with
  | none => s.answer c k resNotpresent 0
  | some e =>
    if atBytes k.data 20 1 = 1 then
      if e.tier = 1 then s.answer c k resDone e.loc
      else
        let (_, bad, s) := s.sealedBytes (k.actor c) r n e.loc r.size
        if bad then s.answerPoison c k
        else
          let (ok, s) := s.roomT1 i r true (r.t1fr + 1)
          match ok, (s.inst i).freeFrame r 1, s.sealedEntry r n with
          | true, some fr, some _ => (s.moveNode i r n 1 fr).answerMove c k i (r.frameAt 1 fr)
          | true, some _, none => s.answer c k resNotpresent 0
          | _, _, _ => s.answerFull c k i resNospace
    else if e.t0core = 2 ^ 15 + c.val then s.answer c k resDone e.t0addr
    else if e.t0core / 2 ^ 15 = 1 ∨ r.t0fr = 0 then s.answer c k resState 0
    else
      let (bs, bad, s) := s.sealedBytes (k.actor c) r n e.loc r.size
      if bad then s.answerPoison c k
      else
        match s.roomT0 i r c.val with
        | (none, s) => s.answerFull c k i resNospace
        | (some fr, s) =>
          let adr := r.t0base + fr * r.size
          let s := s.engWriteSpad k c ((List.range bs.length).map fun j => { addr := adr + j, byte := bs.getD j 0, bad := false })
          let s := s.modInst i fun v => { v with t0 := v.t0 ++ [(c.val, fr)] }
          let s := s.modIx r n fun e => { e with t0core := 2 ^ 15 + c.val, t0addr := adr }
          s.answerMove c k i adr

/-! ### Private nodes and sealing (R317, R322) -/

/-- The node states of a header (R264). -/
def nodeFilling : Nat := 1
/-- LOSSY. -/
def nodeLossy : Nat := 5

/-- The header of a new private node (R317). -/
def newHeader (r : InstRec) (pname depth noseal : Nat) : List Byte :=
  let fixed := List.replicate 256 (0 : Byte) ++ toBytes 16 0 ++ toBytes 16 pname ++ toBytes 8 r.model.toNat ++ toBytes 1 nodeFilling
    ++ toBytes 1 r.bt ++ toBytes 1 0 ++ toBytes 1 noseal ++ toBytes 2 r.nl ++ toBytes 1 r.nh ++ toBytes 1 r.d ++ toBytes 4 depth
    ++ toBytes 12 0
  let h := fixed ++ List.replicate (8 * r.nl) 0 ++ (List.replicate (64 * r.nl) [(1 : Byte), 0]).flatten
  h ++ List.replicate (r.header - h.length) 0

/-- PXALLOC (R317). -/
def State.runPxalloc (s : State) (c : CoreId) (k : Cmd) (i : Nat) (r : InstRec) : State :=
  match (s.inst i).freeFrame r 1 with
  | some fr =>
    if (s.inst i).priv.length < r.privmax then
      let s := (s.takeFrame i 1 fr).modInst i fun v => { v with priv := v.priv ++ [(fr, k.ten)] }
      let pa := r.frameAt 1 fr
      (s.poke pa (newHeader r (atBytes k.data 16 16) (atBytes k.data 32 4) (atBytes k.data 36 4))).answer c k resDone pa
    else s.answerFull c k i resNospace
  | none => s.answerFull c k i resNospace

/-- A node that is to enter the index: its frame's address, name, tokens, parent's name and depth. -/
structure Sealing where
  pa : Nat
  name : Nat
  toks : List Nat
  pname : Nat
  depth : Nat

/-- What the tests of a seal give (R322). -/
inductive SealTest where
  /-- All hold: the parent's entry number and the entry to take. -/
  | ok (parent entry : Nat)
  | fails (res rval : Nat)
  | poison

/-- Tests 1 to 3 of R322, in their order. -/
def State.sealTests (s : State) (a : Actor) (i : Nat) (r : InstRec) (z : Sealing) : SealTest × State :=
  match s.findName r z.name with
  | some n =>
    let (tb, bad, s) := s.sealedBytes a r n (s.ix r n).loc (4 * r.slots)
    if bad then (.poison, s)
    else if words32 tb r.slots = z.toks then (.fails resDup n, s)
    else (.fails resCollision 0, s.countInst i 2 1)
  | none =>
    let parent := if z.depth ≤ 1 then some ixNone else (s.findName r z.pname).filter fun n => (s.ix r n).state == ixSealed
    match parent with
    | none => (.fails resNoparent 0, s)
    | some p =>
      match s.freeEntry r z.name with
      | none => (.fails resIndexfull 0, s.countInst i 7 1)
      | some e => (.ok p e, s)

/-- The insert of a node whose tests hold: its entry becomes SEALED, its parent gains a child, and holders are told (R271, R279,
R461). It is a release of the writes to the frame that are ordered before it (R240). A depth or a number of children that its field cannot hold leaves that field free. -/
def State.insertNode (s : State) (a : Actor) (i : Nat) (r : InstRec) (z : Sealing) (parent n : Nat) : State :=
  let (f, s) := s.freeNat
  let (g, s) := s.freeNat
  let s := (s.pokeAs a (z.pa + 256) (toBytes 16 z.name)).pokeAs a (z.pa + 296) [3]
  let rel := Rel.ofSpans a ((a.past a.cls).map fun sp => { sp with area := some (z.pa, r.size) })
  let s := s.putIxWith (some rel) r n
    { IxEntry.free with
      name := z.name, parent := parent, state := ixSealed, tier := 1, depth := if z.depth < 65536 then z.depth else f % 65536
      refcnt := 1, lastuse := s.storeClk.toNat, loc := z.pa }
  let s := if parent = ixNone then s
    else s.modIx r parent fun e => { e with children := if e.children < 65535 then e.children + 1 else g % 65536 }
  (s.countInst i 3 1).podNotice i r 1 z.name

/-- Seals a node: the tests, the place in T1 (`place` is false where its frame is one already), the tests again, and the insert. -/
def State.sealNode (s : State) (a : Actor) (i : Nat) (r : InstRec) (z : Sealing) (place : Bool) : SealTest × State :=
  match s.sealTests a i r z with
  | (.ok _ _, s) =>
    let (ok, s) := if place then s.roomT1 i r false (r.t1fr + 1) else (true, s)
    if !ok then (.fails resNospace 0, s.countInst i 7 1)
    else
      match s.sealTests a i r z with
      | (.ok p e, s) => (.ok p e, s.insertNode a i r z p e)
      | x => x
  | x => x

/-- Whether a header says that every slot of every layer is filled (R266). -/
def headerFull (r : InstRec) (h : List Byte) : Bool :=
  atBytes h 298 1 == r.slots && (List.range r.nl).all fun l => atBytes h (r.fillAt l) 8 % 2 ^ r.slots == 2 ^ r.slots - 1

/-- PXSEAL (R322). The state of the node is that of the last step on its header (R310); its tokens, TCNT and fill bits are read on the KVX
path, where no order exists with the KVSTs of other cores but what fences and tags give (R335). -/
def State.runPxseal (s : State) (c : CoreId) (k : Cmd) (i : Nat) (r : InstRec) : State :=
  let pa := atBytes k.data 16 8
  if !s.isPrivate i r pa k.ten then s.answer c k resState 0
  else if (s.inst i).pendingOf pa ≠ 0 then s
  else
    let (h, bad, s) := s.frameAs (k.actor c) [] pa (320 + 8 * r.nl)
    let (now, bad2, s) := s.frameNow (k.actor c) (pa + 256) 64
    if bad || bad2 then s.answerPoison c k
    else if atBytes now 40 1 % 8 = nodeLossy ∨ atBytes now 43 1 % 2 = 1 then s.answer c k resNoseal 0
    else if !headerFull r h then s.answer c k resNotfull 0
    else
      let toks := words32 h r.slots
      let p := atBytes now 16 16
      let z : Sealing := { pa := pa, name := s.nameOf r p toks, toks := toks, pname := p, depth := atBytes now 48 4 }
      match s.sealNode (k.actor c) i r z true with
      | (.ok _ n, s) =>
        let s := match r.frameNum 1 pa with
          | some fr => s.modInst i fun v => { v with priv := v.priv.filter fun p => p.1 != fr }
          | none => s
        s.answer c k resDone n
      | (.fails res rval, s) =>
        let s := if res = resCollision then s.poke (pa + 299) [BitVec.ofNat 8 (atBytes now 43 1) ||| 1] else s
        s.answer c k res rval
      | (.poison, s) => s.answerPoison c k

/-! ### Merging (R323, R324) -/

/-- The exact value of a BF16. -/
def bf16Val (b : Nat) : FVal := (bf16.read false b).1

/-- Σ a[i] × b[i], exact, rounded once to FP32. -/
def dot32 (a b : List Nat) : Nat :=
  (fp32.round 0 false (sumExact ((a.zip b).map fun p => (mulExact (bf16Val p.1) (bf16Val p.2)).1)).1).1

/-- Whether a number is finite. -/
def FVal.finite : FVal → Bool
  | .num .. => true
  | _ => false

/-- The similarity test of R324 on two key vectors. -/
def similarKeys (theta : Nat) (t u : List Nat) : Bool :=
  let v := fun b => (fp32.read false b).1
  let a := dot32 t u
  let p := dot32 t t
  let q := dot32 u u
  let s := (fp32.special .sqrt false (fp32.mul 0 false p q).1).1
  let z := FVal.num false 0 0
  (v a).finite && (v p).finite && (v q).finite && (v s).finite && z.lt (v p) && z.lt (v q)
    && !(v a).lt (v (fp32.mul 0 false theta s).1)

/-- The weighted mean of two BF16 numbers, rounded once (R323). -/
def meanBf16 (mt mu x y : Nat) : Nat :=
  let s := (addExact 0 (mulExact (.num false mt 0) (bf16Val x)).1 (mulExact (.num false mu 0) (bf16Val y)).1).1
  let v := match s with
    | .num n m e => if m = 0 then s else let d := mt + mu; sticky n (m * 2 ^ 80 / d) (m * 2 ^ 80 % d == 0) (e - 80)
    | s => s
  (bf16.round 0 false v).1

/-- One layer of a private node while it is merged: per slot its vectors (K of each head, then V of each head) and MULT; FILL. -/
structure MergeLayer where
  vecs : List (List (List Nat))
  mult : List Nat
  fill : Nat
  pairs : Nat

/-- The next filled slot at or above `t`. -/
def MergeLayer.next (m : MergeLayer) (bt t : Nat) : Option Nat := (List.range bt).find? fun i => decide (t ≤ i) && m.fill / 2 ^ i % 2 == 1

/-- The loop of R323 from slot `t`. -/
def MergeLayer.run (r : InstRec) : Nat → Nat → MergeLayer → MergeLayer
  | 0, _, m => m
  | fuel + 1, t, m =>
    match m.next r.slots (t + 1) with
    | none => m
    | some u =>
      let x := m.vecs.getD t []
      let y := m.vecs.getD u []
      let mt := m.mult.getD t 0
      let mu := m.mult.getD u 0
      let alike := (List.range r.nh).all fun h => similarKeys r.theta.toNat (x.getD h []) (y.getD h [])
      if alike && decide (mt + mu ≤ 65535) then
        let z := (x.zip y).map fun p => (p.1.zip p.2).map fun q => meanBf16 mt mu q.1 q.2
        MergeLayer.run r fuel t
          { vecs := m.vecs.set t z, mult := (m.mult.set t (mt + mu)).set u 0, fill := m.fill - 2 ^ u, pairs := m.pairs + 1 }
      else MergeLayer.run r fuel u m

/-- Cuts bytes into 16-bit numbers. -/
def words16 (bs : List Byte) (n : Nat) : List Nat := (List.range n).map fun i => atBytes bs (2 * i) 2

/-- What KMERGE reads of the filled slots `ts` of a layer: multiplicity and vectors, and whether it met poison. -/
def State.mergeSlots (s : State) (a : Actor) (r : InstRec) (pa l : Nat) : List Nat → List (Nat × Nat × List (List Nat)) × Bool × State
  | [] => ([], false, s)
  | t :: ts =>
    let (mu, b1, s) := s.frameNow a (pa + r.multAt l t) 2
    let offs := (List.range r.nh).map (fun h => r.kAt l h t) ++ (List.range r.nh).map fun h => r.vAt l h t
    let (vs, b2, s) := offs.foldl (fun (acc : List (List Nat) × Bool × State) o =>
      let (d, b, s) := acc.2.2.frameNow a (pa + o) (2 * r.dim)
      (acc.1 ++ [words16 d r.dim], acc.2.1 || b, s)) ([], false, s)
    let (rest, b3, s) := s.mergeSlots a r pa l ts
    ((t, ofBytes mu, vs) :: rest, b1 || b2 || b3, s)

/-- Writes a slot that a merge has changed: its multiplicity and, where it is still filled, its vectors. -/
def State.putMerged (s : State) (a : Actor) (r : InstRec) (pa l : Nat) (m : MergeLayer) (t : Nat) : State :=
  let s := s.pokeAs a (pa + r.multAt l t) (toBytes 2 (m.mult.getD t 0))
  if m.fill / 2 ^ t % 2 = 0 then s
  else
    (List.range (2 * r.nh)).foldl (fun s h =>
      let o := if h < r.nh then r.kAt l h t else r.vAt l (h - r.nh) t
      s.pokeAs a (pa + o) (((m.vecs.getD t []).getD h []).flatMap fun x => toBytes 2 x)) s

/-- KMERGE (R323), one step on its frame (R310): it reads the slots whose fill bits are set, and writes those that it merges. -/
def State.runKmerge (s : State) (c : CoreId) (k : Cmd) (i : Nat) (r : InstRec) : State :=
  let pa := atBytes k.data 16 8
  let l := atBytes k.data 24 2
  if !s.isPrivate i r pa k.ten then s.answer c k resState 0
  else if (s.inst i).pendingOf pa ≠ 0 then s
  else
    let a := k.actor c
    let (st, b1, s) := s.frameNow a (pa + 296) 1
    let (fl, b2, s) := s.frameNow a (pa + r.fillAt l) 8
    let filled := (List.range r.slots).filter fun t => ofBytes fl / 2 ^ t % 2 == 1
    let (slots, b3, s) := s.mergeSlots a r pa l filled
    let at_ := fun (t : Nat) => slots.find? fun x => x.1 == t
    let m : MergeLayer :=
      { vecs := (List.range r.slots).map fun t => (at_ t).elim [] fun x => x.2.2
        mult := (List.range 64).map fun t => (at_ t).elim 0 fun x => x.2.1, fill := ofBytes fl, pairs := 0 }
    let n := match m.next r.slots 0 with
      | none => m
      | some t => MergeLayer.run r r.slots t m
    if b1 then s.answerPoison c k
    else if ofBytes st % 8 ≠ nodeFilling ∧ ofBytes st % 8 ≠ nodeLossy then s.answer c k resState 0
    else if b2 || b3 then s.answerPoison c k
    else if n.pairs = 0 then s.answer c k resDone 0
    else
      let s := (filled.filter fun t => n.mult.getD t 0 != m.mult.getD t 0).foldl (fun s t => s.putMerged a r pa l n t) s
      let s := s.writeFill a r pa l n.fill n.fill
      (s.pokeAs a (pa + 296) [BitVec.ofNat 8 (ofBytes st / 8 * 8 + nodeLossy)]).answer c k resDone n.pairs

/-! ### The planner (R329, R330) -/

/-- The segments of the chord of blocks `first` to `last - 1`, over sequences (number, first global block, length in tokens):
(SEQ, FIRST, COUNT, LASTT, END). -/
def chordSegs (bt first last : Nat) (seqs : List (Nat × Nat × Nat)) : List (Nat × Nat × Nat × Nat × Nat) :=
  seqs.filterMap fun (n, lo, len) =>
    let b := (len + bt - 1) / bt
    let x := max lo first
    let y := min (lo + b) last
    if x < y then
      let isEnd := y == lo + b
      some (n, x - lo, y - x, if isEnd then len - (b - 1) * bt else bt, isEnd.toNat)
    else none

/-- A chord descriptor (R330). -/
def chordBytes (j size : Nat) (segs : List (Nat × Nat × Nat × Nat × Nat)) : List Byte :=
  toBytes 2 j ++ toBytes 1 segs.length ++ toBytes 1 0 ++ toBytes 4 size
    ++ (segs.map fun (q, f, n, t, e) => toBytes 8 (q + f * 2 ^ 16 + n * 2 ^ 40 + t * 2 ^ 56 + e * 2 ^ 63)).flatten
    ++ List.replicate (8 * (7 - segs.length)) 0

/-- PLAN (R329). -/
def State.runPlan (s : State) (c : CoreId) (k : Cmd) (r : InstRec) : State :=
  let ns := atBytes k.data 16 4
  let nc := atBytes k.data 20 4
  let lens := words32 (k.data.drop 64) ns
  let blocks := lens.map fun n => (n + r.slots - 1) / r.slots
  let total := blocks.sum
  let starts := blocks.foldl (fun (acc : List Nat × Nat) b => (acc.2 :: acc.1, acc.2 + b)) ([], 0)
  let seqs := (List.range ns).zip (starts.1.reverse.zip lens)
  let q := total / nc
  let m := total % nc
  let chords := (List.range nc).map fun j =>
    let first := j * q + min j m
    let size := q + (if j < m then 1 else 0)
    (j, size, chordSegs r.slots first (first + size) seqs)
  if blocks.any fun b => decide (2 ^ 24 < b) then s.answer c k resRefused 0
  else
    match chords.find? fun x => decide (7 < x.2.2.length) || x.2.2.any fun g => decide (65535 < g.2.2.1) with
    | some x => s.answer c k resSegments x.1
    | none =>
      (s.engStore k c (atBytes k.data 32 8) ((chords.map fun x => chordBytes x.1 x.2.1 x.2.2).flatten)).answer c k resDone total

/-! ### Backfill (R326 to R328) -/

/-- Whether a frame is a private FILLING one of a tenancy; the second says that its state was poisoned. -/
def State.isFilling (s : State) (a : Actor) (i : Nat) (r : InstRec) (pa : Nat) (ten : BitVec 8) : Bool × Bool × State :=
  if s.isPrivate i r pa ten then
    let (st, bad, s) := s.frameNow a (pa + 296) 1
    (ofBytes st % 8 == nodeFilling, bad, s)
  else (false, false, s)

/-- BFILL (R326): where its die's queue is full it does not complete. -/
def State.runBfill (s : State) (c : CoreId) (k : Cmd) (i : Nat) (r : InstRec) : State :=
  let pa := atBytes k.data 16 8
  match s.isFilling (k.actor c) i r pa k.ten with
  | (_, true, s) => s.answerPoison c k
  | (false, false, s) => s.answer c k resState 0
  | (true, false, s) =>
    if k.sent = 1 then s.answerPoison c k
    else
      let die := dieOf c
      let q := s.backfill.get die
      if q.length ≥ 4096 then s
      else
        let l0 := atBytes k.data 25 1
        let item : BackfillItem :=
          { who := { core := c, sq := k.sq }, stamp := k.id, know := k.know, ten := k.ten, inst := i, frame := pa
            slot := atBytes k.data 24 1, layer := l0
            handle := (s.core c).hEntry (Fin.ofNat 256 (atBytes k.data 26 1))
            hidden := (words16 (k.data.drop 64) ((k.data.length - 64) / 2)).map fun x => BitVec.ofNat 16 x }
        let s := { s with backfill := s.backfill.set die.val (q ++ [item]) die.isLt }
        (s.addPending i pa).answer c k resDone (r.nl - l0)

/-- The projection of R327: groups of 32 in ascending order, each rounded to FP32 and added; then one rounding to BF16. -/
def projection (w x : List Nat) : Nat :=
  let n := w.length / 32
  let acc := (List.range n).foldl (fun acc g =>
    let ps := ((w.drop (32 * g)).take 32).zip ((x.drop (32 * g)).take 32)
    let v := (sumExact (ps.map fun p => (mulExact (bf16Val p.1) (bf16Val p.2)).1)).1
    (fp32.add 0 false acc (fp32.round 0 false v).1).1) 0
  (cvtFloat fp32 bf16 0 false acc).1

/-- The rows of weights that a layer needs, each translated and read; none where one faults or is poisoned. -/
def State.weightRows (s : State) (it : BackfillItem) (h : Handle) : List Nat → Option (List (List Nat)) × State
  | [] => (some [], s)
  | i :: is =>
    let a : Actor := { who := some it.who, cls := .kvx, stamp := it.stamp, know := it.know }
    match s.translateBytes a it.who.core it.ten Need.load (h.at i 0) (2 * h.cols) with
    | (.error _, s) => (none, s)
    | (.ok pas, s) =>
      let (bs, s) := s.readAs a (pas.map Prod.fst)
      if bs.any Prod.snd then (none, s)
      else
        match s.weightRows it h is with
        | (none, s) => (none, s)
        | (some rest, s) => (some (words16 (bs.map Prod.fst) h.cols :: rest), s)

/-- Ends the item at the head of a die's queue. -/
def State.endItem (s : State) (die : Fin 4) (it : BackfillItem) : State :=
  { s with backfill := s.backfill.set die.val (s.backfill.get die).tail die.isLt }.subPending it.inst it.frame

/-- The item at the head of a die's queue moves on to its next layer, or ends. -/
def State.nextLayer (s : State) (die : Fin 4) (it : BackfillItem) (r : InstRec) : State :=
  if it.layer + 1 ≥ r.nl then s.endItem die it
  else
    { s with backfill := s.backfill.set die.val ({ it with layer := it.layer + 1 } :: (s.backfill.get die).tail) die.isLt }

/-- The writer that a backfill is: the BFILL class (R240). -/
def BackfillItem.actor (it : BackfillItem) : Actor := { who := some it.who, cls := .bfill, stamp := it.stamp, know := it.know }

/-- BACKFILL_ITEM (R327): one layer of the item at the head of a die's queue, and the item's end with its last layer. -/
def execBackfillItem (die : Fin 4) (s : State) : Out :=
  match s.backfill.get die with
  | [] => .next s
  | it :: _ =>
    match (s.inst it.inst).cfg with
    | none => .next (s.endItem die it)
    | some r =>
      let l := it.layer
      let early := fun (s : State) =>
        (s.modCore it.who.core fun k => { k with bferr := k.bferr + 1 }).endItem die it
      let s0 := s
      let (fl, bad, s) := s.frameNow it.actor (it.frame + r.fillAt l) 8
      if it.know.after.any fun p => p.1 == .bfill && (s.core it.who.core).incomplete p.2 then .next s0
      else if bad then .next (early s)
      else if ofBytes fl / 2 ^ it.slot % 2 = 1 then .next (s.nextLayer die it r)
      else
        let h := handleOf it.handle
        let n := r.nh * r.dim
        match s.weightRows it h ((List.range (2 * n)).map fun x => 2 * l * n + x) with
        | (none, s) => .next (early s)
        | (some rows, s) =>
          let x := it.hidden.map BitVec.toNat
          let out := rows.map fun w => projection w x
          let ws := (List.range r.nh).flatMap fun g =>
            let k := (out.drop (g * r.dim)).take r.dim
            let v := (out.drop (n + g * r.dim)).take r.dim
            let put := fun (o : Nat) (vs : List Nat) =>
              let bs := vs.flatMap fun y => toBytes 2 y
              (List.range bs.length).map fun i => (it.frame + o + i, bs.getD i 0)
            put (r.kAt l g it.slot) k ++ put (r.vAt l g it.slot) v
          let s := s.writePas (s.inOrder it.actor) .plain ws
          let s := s.writeFill it.actor r it.frame l (2 ^ it.slot) (ofBytes fl + 2 ^ it.slot)
          .next (s.nextLayer die it r)

/-! ### KVLD and KVST (R318 to R321) -/

/-- The fields of a node translation entry (R284). -/
def ntInst (e : BitVec 128) : Nat := fld e 105 103
/-- V. -/
def ntValid (e : BitVec 128) : Bool := e.getLsbD 102
/-- T0. -/
def ntT0 (e : BitVec 128) : Bool := e.getLsbD 101
/-- PRIV. -/
def ntPriv (e : BitVec 128) : Bool := e.getLsbD 100
/-- ADDR. -/
def ntAddr (e : BitVec 128) : Nat := fld e 45 0

/-- The coordinate of a KVLD or KVST. -/
structure KvAt where
  nte : Nat
  l : Nat
  h : Nat
  t : Nat
  c : Nat

/-- Reads the coordinate from ga and gd. -/
def kvAt (gd ga : Word) : KvAt := { nte := fld ga 9 0, l := fld ga 16 10, h := fld ga 22 17, t := fld ga 28 23, c := fld gd 13 8 + 1 }

/-- The bytes of the scratchpad image. -/
def KvAt.bytes (x : KvAt) (r : InstRec) : Nat := 4 * x.c * r.dim + 4 * x.c

/-- What a store engine does with a KVLD or KVST that it accepts (R318). -/
def State.acceptKv (s : State) (c : CoreId) (k : Cmd) (st : Bool) (gd ga gb : Word) (e : BitVec 128) : State :=
  let x := kvAt gd ga
  if fld gd 63 16 ≠ 0 ∨ fld ga 63 29 ≠ 0 ∨ (!st && fld gd 15 14 != 0) then s.finish c k codeHandle 0 0 0
  else
    match (s.inst (ntInst e)).cfg with
    | none => s.finish c k codeHandle 0 0 0
    | some r =>
      if !s.holdsDomain k.ten r.dom ∨ (ntPriv e && !s.isPrivate (ntInst e) r (ntAddr e) k.ten) then s.finish c k codeHandle 0 0 0
      else if r.nl ≤ x.l ∨ r.nh ≤ x.h ∨ r.slots < x.t + x.c then s.finish c k codeBounds 0 0 0
      else if gb.toNat % 64 ≠ 0 ∨ gb.toNat + x.bytes r > 2 ^ 22 then s.finish c k codeSpaddr 0 0 0
      else s.putCmd c { k with phase := .started s.cycle }

/-- Reads bytes of a node for a party, in its frame or in a T0 replica on core `c`: the bytes, and whether a sector was poisoned. -/
def State.nodeBytes (s : State) (c : CoreId) (a : Actor) (t0 : Bool) (adr n : Nat) : List Byte × Bool × State :=
  if t0 then s.spadLoad c a adr n else s.frameAs a [] adr n

/-- The fill bit of a slot as a party reads it: whether it is set, whether its sector is poisoned, and what the reader synchronises with
where it is set (R321). -/
def State.fillBit (s : State) (c : CoreId) (a : Actor) (t0 : Bool) (adr : Nat) (r : InstRec) (l slot : Nat) :
    Bool × Bool × List Span × State :=
  if t0 then
    let (fl, bad, s) := s.spadLoad c a (adr + r.fillAt l + slot / 8) 1
    (ofBytes fl / 2 ^ (slot % 8) % 2 == 1, bad, [], s)
  else
    let (fl, bad, sp, s) := s.fillByte a r adr l slot
    (fl / 2 ^ (slot % 8) % 2 == 1, bad, sp, s)

/-- The bias of a slot: VLOG of its multiplicity (R319). -/
def biasOf (mult : Nat) : Nat := (fp32.special .log false (cvtFromInt fp32 0 false mult).1).1

/-- A slot as KVLD returns it (R319). -/
structure KvSlot where
  k : List Byte
  v : List Byte
  bias : Nat
  bad : Bool
  /-- What reading its fill bit as set synchronises with (R321). -/
  spans : List Span

/-- One slot of one head, in one step (R310, R319): an absent slot, or one that meets poison (R397), has zero images and the bias −∞. -/
def State.kvSlot (s : State) (c : CoreId) (k : Cmd) (e : BitVec 128) (r : InstRec) (x : KvAt) (slot : Nat) : KvSlot × State :=
  let zero := List.replicate (2 * r.dim) (0 : Byte)
  let absent : KvSlot := { k := zero, v := zero, bias := fp32.inf true, bad := false, spans := [] }
  let t0 := ntT0 e
  let adr := ntAddr e
  let (set, b1, sp, s) := s.fillBit c (k.actor c) t0 adr r x.l slot
  if b1 then ({ absent with bad := true }, s)
  else if !set then (absent, s)
  else
    let a := { k.actor c with know := k.know.merge (Know.ofReads .kvx sp) }
    let (mu, b2, s) := s.nodeBytes c a t0 (adr + r.multAt x.l slot) 2
    let (kb, b3, s) := s.nodeBytes c a t0 (adr + r.kAt x.l x.h slot) (2 * r.dim)
    let (vb, b4, s) := s.nodeBytes c a t0 (adr + r.vAt x.l x.h slot) (2 * r.dim)
    if b2 || b3 || b4 then ({ absent with bad := true, spans := sp }, s)
    else ({ k := kb, v := vb, bias := biasOf (ofBytes mu), bad := false, spans := sp }, s)

/-- The scratchpad image of the slots that KVLD has kept in order: each its K image, V image and bias word. -/
def kvImage (d : Nat) (slots : List (List Byte)) : List Byte :=
  slots.flatMap (fun b => b.take d) ++ slots.flatMap (fun b => (b.drop d).take d) ++ slots.flatMap fun b => b.drop (2 * d)

/-- KVLD (R319), one slot in each step: the slots read so far are kept in order, each with whether it met poison. With the last one the
image is written, and a poisoned slot, which comes back absent, completes the command with POISON (R397). What the fill bits
carry is before every access that is ordered after it (R321). -/
def State.runKvld (s : State) (c : CoreId) (k : Cmd) (gd ga gb : Word) (e : BitVec 128) : State :=
  match (s.inst (ntInst e)).cfg with
  | none => s.finish c k codeHandle 0 0 0
  | some r =>
    let x := kvAt gd ga
    let (v, s) := s.kvSlot c k e r x (x.t + k.sent)
    let k := { k with
      sent := k.sent + 1
      replies := k.replies ++ [(v.bad.toNat, v.k ++ v.v ++ toBytes 4 v.bias)]
      know := k.know.merge (Know.ofReads .kvx v.spans) }
    if k.sent < x.c then s.putCmd c k
    else
      let out := kvImage (2 * r.dim) (k.replies.map Prod.snd)
      let s := s.engWriteSpad k c ((List.range out.length).map fun i => { addr := gb.toNat + i, byte := out.getD i 0, bad := false })
      s.finish c k (if k.replies.any fun v => v.1 == 1 then codePoison else codeOk) 0 0 0

/-- The writes of KVST but for FILL (R320), from its image and the node's header bytes: MULT of its slots, TCNT. -/
def kvWrites (r : InstRec) (x : KvAt) (tk fl : Bool) (adr : Nat) (img mult : List Byte) (tcnt : Nat) : List (Nat × Byte) :=
  let at_ := fun (o : Nat) (bs : List Byte) => (List.range bs.length).map fun i => (adr + o + i, bs.getD i 0)
  let part := fun (o n : Nat) => (img.drop o).take n
  let d := 2 * r.dim
  ((List.range x.c).flatMap fun j =>
    at_ (r.kAt x.l x.h (x.t + j)) (part (d * j) d) ++ at_ (r.vAt x.l x.h (x.t + j)) (part (x.c * d + d * j) d)
      ++ (if tk then at_ (4 * (x.t + j)) (part (2 * x.c * d + 4 * j) 4) else [])
      ++ (if fl && atBytes mult (2 * j) 2 == 0 then at_ (r.multAt x.l (x.t + j)) (toBytes 2 1) else []))
    ++ (if tk then at_ 298 (toBytes 1 (max tcnt (x.t + x.c))) else [])

/-- KVST (R320), one step on its frame (R310): a node in another state gives HANDLE; a poisoned header POISON, with nothing written;
poisoned bytes of the image are taken as zero, with POISON (R399). -/
def State.runKvst (s : State) (c : CoreId) (k : Cmd) (gd ga gb : Word) (e : BitVec 128) : State :=
  match (s.inst (ntInst e)).cfg with
  | none => s.finish c k codeHandle 0 0 0
  | some r =>
    let x := kvAt gd ga
    let adr := ntAddr e
    let a := k.actor c
    let fills := gd.getLsbD 14
    let (st, b1, s) := s.frameNow a (adr + 296) 3
    if b1 then s.answerPoison c k
    else if atBytes st 0 1 % 8 ≠ nodeFilling ∧ atBytes st 0 1 % 8 ≠ nodeLossy then s.finish c k codeHandle 0 0 0
    else
      let (fl, b2, s) := if fills then s.frameNow a (adr + r.fillAt x.l) 8 else ([], false, s)
      let (mu, b3, s) := if fills then s.frameNow a (adr + r.multAt x.l x.t) (2 * x.c) else ([], false, s)
      if b2 || b3 then s.answerPoison c k
      else
        let (img, b4, s) := s.spadLoad c a gb.toNat (x.bytes r)
        let set := (2 ^ x.c - 1) * 2 ^ x.t
        let s := s.writePas (s.inOrder a) .plain (kvWrites r x (gd.getLsbD 15) fills adr img mu (atBytes st 2 1))
        let s := if fills then s.writeFill a r adr x.l set (ofBytes fl ||| set) else s
        s.finish c k (if b4 then codePoison else codeOk) 0 0 0

/-! ### The instructions (R306, R318, R328) -/

/-- Issues a block command of MAJ 0x3D (R306, R331). -/
def blockCmd (i : Instr) (x : Ctl) (cls : PathClass) (d a : Reg) (op : Word → Word → CmdOp) (s : State) : Out :=
  submit { x := x, issuers := [.X, .L, .S], gsrc := [d, a], enc := encode i } cls
    (fun cx s => ((s.seq cx.who).rg d).setWidth 6) (fun _ _ => none)
    (fun cx s => op ((s.seq cx.who).rg d) ((s.seq cx.who).rg a))
    (fun cx s => (op ((s.seq cx.who).rg d) ((s.seq cx.who).rg a)).blockSpad s cx.who.core) s

/-- PXHASH (R312). -/
def execPxhash (d a : Reg) (x : Ctl) (s : State) : Out := blockCmd (.pxhash d a x) x .kvx d a .pxhash s
/-- PXLOOK (R313). -/
def execPxlook (d a : Reg) (x : Ctl) (s : State) : Out := blockCmd (.pxlook d a x) x .kvx d a .pxlook s
/-- PXPIN (R314). -/
def execPxpin (d a : Reg) (x : Ctl) (s : State) : Out := blockCmd (.pxpin d a x) x .kvx d a .pxpin s
/-- PXUNPIN (R314). -/
def execPxunpin (d a : Reg) (x : Ctl) (s : State) : Out := blockCmd (.pxunpin d a x) x .kvx d a .pxunpin s
/-- PXSEAL (R322). -/
def execPxseal (d a : Reg) (x : Ctl) (s : State) : Out := blockCmd (.pxseal d a x) x .kvx d a .pxseal s
/-- PXALLOC (R317). -/
def execPxalloc (d a : Reg) (x : Ctl) (s : State) : Out := blockCmd (.pxalloc d a x) x .kvx d a .pxalloc s
/-- PXLEASE (R315). -/
def execPxlease (d a : Reg) (x : Ctl) (s : State) : Out := blockCmd (.pxlease d a x) x .kvx d a .pxlease s
/-- PXPROM (R316). -/
def execPxprom (d a : Reg) (x : Ctl) (s : State) : Out := blockCmd (.pxprom d a x) x .kvx d a .pxprom s
/-- KMERGE (R323). -/
def execKmerge (d a : Reg) (x : Ctl) (s : State) : Out := blockCmd (.kmerge d a x) x .kvx d a .kmerge s
/-- BFILL (R326). -/
def execBfill (d a : Reg) (x : Ctl) (s : State) : Out := blockCmd (.bfill d a x) x .kvx d a .bfill s
/-- PLAN (R329). -/
def execPlan (d a : Reg) (x : Ctl) (s : State) : Out := blockCmd (.plan d a x) x .kvx d a .plan s
/-- PXFETCH (R465). -/
def execPxfetch (d a : Reg) (x : Ctl) (s : State) : Out := blockCmd (.pxfetch d a x) x .remote d a .pxfetch s
/-- PXREPL (R465). -/
def execPxrepl (d a : Reg) (x : Ctl) (s : State) : Out := blockCmd (.pxrepl d a x) x .remote d a .pxrepl s

/-- Whether a command is a BFILL. -/
def CmdOp.isBfill : CmdOp → Bool
  | .bfill .. => true
  | _ => false

/-- The size of the private frame at an address, where it is the address of one of a T1 region's frames. -/
def State.frameSize (s : State) (pa : Nat) : Option Nat :=
  (s.insts.toList.filterMap Inst.cfg).findSome? fun r => (r.frameNum 1 pa).map fun _ => r.size

/-- BFWAIT (R328): it waits for the core's BFILLs issued before it and for the frame's pending backfills. The frame's backfill writes are
then before every later access on the KVX path, and before a FENCEX from the BFILL class. -/
def execBfwait (a : Reg) (x : Ctl) (s : State) : Out :=
  issue { x := x, issuers := [.X, .L, .S], gsrc := [a], tape := .command, enc := encode (.bfwait a x)
          waits := fun cx s =>
            (s.core cx.who.core).cmds.any (fun (k : Cmd) => k.op.isBfill)
              || s.insts.toList.any fun (v : Inst) => v.pendingOf ((s.seq cx.who).rg a).toNat != 0 }
    (fun cx s =>
      let g := (s.seq cx.who).rg a
      if fld g 7 0 ≠ 0 ∨ fld g 63 46 ≠ 0 then .trap Trap.illegal
      else
        let done := match s.frameSize g.toNat with
          | some n =>
            let sp : Span := { src := none, cls := .bfill, lo := 0, hi := cx.stamp, perf := some s.mem.writes, area := some (g.toNat, n) }
            (Know.ofReads .kvx [sp]).merge (Know.ofReads .bfill [sp])
          | none => Know.none
        .done (s.modSeq cx.who fun v => { v with know := v.know.merge done }) .next false) s

/-- Issues KVLD or KVST: the entry is read at issue, and NTMISS taken where it does not serve (R286, R318). -/
def kvCmd (i : Instr) (x : Ctl) (st : Bool) (d a b : Reg) (op : Word → Word → Word → BitVec 128 → CmdOp) (s : State) : Out :=
  let entry := fun (cx : Cx) (s : State) => (s.core cx.who.core).ntEntry (Fin.ofNat 1024 (fld ((s.seq cx.who).rg a) 9 0))
  submit { x := x, issuers := [.L, .S], gsrc := [d, a, b], enc := encode i
           onDie := fun cx s => [fld ((s.seq cx.who).rg a) 9 0 / 2].filter (s.core cx.who.core).ntBad.contains } .kvx
    (fun cx s => ((s.seq cx.who).rg d).setWidth 6)
    (fun cx s =>
      let e := entry cx s
      if !ntValid e || (st && !ntPriv e) then
        some { cause := .ntmiss, det := 0, va := fld ((s.seq cx.who).rg a) 9 0 }
      else none)
    (fun cx s => op ((s.seq cx.who).rg d) ((s.seq cx.who).rg a) ((s.seq cx.who).rg b) (entry cx s))
    (fun cx s =>
      match (s.inst (ntInst (entry cx s))).cfg with
      | none => []
      | some r => [(((s.seq cx.who).rg b).toNat, (kvAt ((s.seq cx.who).rg d) ((s.seq cx.who).rg a)).bytes r)]) s

/-- KVLD (R318, R319). -/
def execKvld (d a b : Reg) (x : Ctl) (s : State) : Out := kvCmd (.kvld d a b x) x false d a b .kvld s

/-- KVST (R318, R320). -/
def execKvst (d a b : Reg) (x : Ctl) (s : State) : Out := kvCmd (.kvst d a b x) x true d a b .kvst s

/-! ### Acceptance and completion -/

/-- What a store engine does with a command that it accepts. -/
def State.acceptStore (s : State) (c : CoreId) (k : Cmd) : State :=
  match k.op with
  | .kvld gd ga gb e => s.acceptKv c k false gd ga gb e
  | .kvst gd ga gb e => s.acceptKv c k true gd ga gb e
  | _ => s.acceptBlock c k

/-- The effect and completion of a store command; it does not complete where it must still wait. -/
def State.storeEffect (s : State) (c : CoreId) (k : Cmd) : State :=
  match k.op with
  | .kvld gd ga gb e => s.runKvld c k gd ga gb e
  | .kvst gd ga gb e => s.runKvst c k gd ga gb e
  | op =>
    match op.block with
    | none => s
    | some (d, _) =>
      let i := fld d 8 6
      match (s.inst i).cfg with
      | none => s.finish c k codeHandle 0 0 0
      | some r =>
        match op with
        | .pxhash .. => s.runPxhash c k r
        | .pxlook .. => s.runPxlook c k i r
        | .pxpin .. => s.runPxpin c k r
        | .pxunpin .. => s.runPxunpin c k i r
        | .pxseal .. => s.runPxseal c k i r
        | .pxalloc .. => s.runPxalloc c k i r
        | .pxlease .. => s.runPxlease c k r
        | .pxprom .. => s.runPxprom c k i r
        | .kmerge .. => s.runKmerge c k i r
        | .bfill .. => s.runBfill c k i r
        | .plan .. => s.runPlan c k r
        | _ => s

/-- The effect and completion of a store command, whose writes are all its own. -/
def State.completeStore (s : State) (c : CoreId) (k : Cmd) : State := s.signed (s.storeEffect c k) (k.actor c)

end Sys2Proof.Machine
end

