-- ==== Sys2Proof/Machine/Remote.lean ====
section
/-!
DEFINITION. Remote access (25_optical.md, R448 to R452), sharing of sealed nodes between packages (26_pod_store.md, R462 to R467), and
the acceptance and completion of engine commands (R126, R290).
-/
namespace Sys2Proof.Machine

/-! ### Requests (R448 to R451) -/

/-- The target package of a remote command's control word. -/
def rcPeer (gd : Word) : Nat := fld gd 13 8
/-- LEN. -/
def rcLen (gd : Word) : Nat := fld gd 22 16 + 1
/-- SPA. -/
def rcSpa (gd : Word) : Nat := fld gd 53 32
/-- OP of RAMO. -/
def rcOp (gd : Word) : Nat := fld gd 19 16
/-- SZ of RAMO. -/
def rcSz (gd : Word) : Nat := fld gd 21 20

/-- Whether a reserved bit of a control word is set (R448). -/
def rcReserved (ramo : Bool) (gd : Word) : Bool :=
  fld gd 63 54 != 0 || fld gd 31 26 != 0 || gd.getLsbD 23 || fld gd 15 14 != 0 || fld gd 7 6 != 0 || (ramo && gd.getLsbD 22)

/-- The checks of R448: the code of the first that fails. -/
def State.remoteCheck (s : State) (ramo : Bool) (gd ga : Word) : Option Nat :=
  firstFail
    [(rcReserved ramo gd || !s.isPeer (rcPeer gd)
        || (ramo && (decide (10 < rcOp gd) || (rcOp gd == 10 && rcSz gd == 0) || ga.toNat % 2 ^ rcSz gd != 0)), codeHandle),
     (if ramo then rcSpa gd % 16 != 0 || decide (rcSpa gd + 16 > 2 ^ 22) else decide (rcSpa gd + rcLen gd > 2 ^ 22), codeSpaddr)]

/-- Records that a command waits for a response of a peer (R451). -/
def State.await (s : State) (p : Nat) (c : CoreId) (k : Cmd) : State :=
  s.modPair p fun q => { q with awaited := q.awaited ++ [(c, k.id)] }

/-- The payload of RLDREQ, RSTREQ and, with its operand area, RAMOREQ (R445). -/
def requestBytes (ga : Word) (b8 b9 : Nat) (ten : BitVec 8) (area : List Byte) : List Byte :=
  toBytes 8 ga.toNat ++ toBytes 1 b8 ++ toBytes 1 b9 ++ [ten] ++ toBytes 5 0 ++ area

/-- Starts RLD, RST or RAMO: the checks, then the request (R448 to R450). A poisoned operand in scratchpad completes the command
with POISON, and nothing is sent. -/
def State.acceptRemote (s : State) (c : CoreId) (k : Cmd) (kind : Nat) (gd ga : Word) : State :=
  let p := rcPeer gd
  match s.remoteCheck (kind == 2) gd ga with
  | some code => s.finish c k code 0 0 0
  | none =>
    let n := if kind = 1 then rcLen gd else if kind = 2 then 16 else 0
    let (bs, bad, s) := s.spadLoad c (k.actor c) (rcSpa gd) n
    if bad then s.finish c k codePoison 0 0 0
    else
      let s := (s.putCmd c { k with phase := .started s.cycle }).await p c k
      match kind with
      | 0 => s.sendFlit p 1 (requestBytes ga (rcLen gd - 1) (fld gd 25 24) k.ten [])
      | 1 => (s.sendFlit p 3 (requestBytes ga (rcLen gd - 1) (fld gd 25 24) k.ten [])).sendFlit p 4 bs
      | _ => s.sendFlit p 5 (requestBytes ga (rcOp gd) (rcSz gd) k.ten bs)

/-- Issues RLD, RST or RAMO (R448, R456). -/
def remoteCmd (i : Instr) (x : Ctl) (d a : Reg) (op : Word → Word → CmdOp) (n : Word → Nat) (s : State) : Out :=
  submit { x := x, issuers := [.L, .S], gsrc := [d, a], enc := encode i } .remote
    (fun cx s => ((s.seq cx.who).rg d).setWidth 6) (fun _ _ => none)
    (fun cx s => op ((s.seq cx.who).rg d) ((s.seq cx.who).rg a))
    (fun cx s => [(rcSpa ((s.seq cx.who).rg d), n ((s.seq cx.who).rg d))]) s

/-- RLD (R449). -/
def execRld (d a : Reg) (x : Ctl) (s : State) : Out := remoteCmd (.rld d a x) x d a .rld rcLen s

/-- RST (R449). -/
def execRst (d a : Reg) (x : Ctl) (s : State) : Out := remoteCmd (.rst d a x) x d a .rst rcLen s

/-- RAMO (R450). -/
def execRamo (d a : Reg) (x : Ctl) (s : State) : Out := remoteCmd (.ramo d a x) x d a .ramo (fun _ => 16) s

/-! ### Serving a peer's requests (R448 to R451) -/

/-- The party that this package's remote engine is. -/
def Actor.peer : Actor := { who := none, cls := .remote, stamp := 0, know := Know.none }

/-- The ERR flit (R445): code, detail, address. -/
def State.sendErr (s : State) (p code det va : Nat) : State :=
  s.sendFlit p 7 (toBytes 1 code ++ toBytes 1 det ++ toBytes 6 0 ++ toBytes 8 va)

/-- Translates for the remote engine: the addresses, or none when the error has been reported. The engine's translations are
held by cluster 0's TLB (log entry 19). -/
def State.peerTranslate (s : State) (p : Nat) (ten : BitVec 8) (need : Need) (va n : Nat) : Option (List Nat) × State :=
  if !(s.tens.get ten.toFin).on then (none, s.sendErr p codeHandle 0 0)
  else
    match s.translateBytes Actor.peer 0 ten need va n with
    | (.error f, s) => (none, s.sendErr p codePage f.det f.va)
    | (.ok pas, s) => (some (pas.map Prod.fst), s)

/-- What the request that a peer's remote engine is served first asks for: the kind of its accesses, how many bytes, and what it needs of
their pages. -/
def PeerReq.shape (q : PeerReq) : Nat × Nat × Need :=
  match q.type with
  | 1 => (0, payNat q.payload 8 1 % 128 + 1, Need.load)
  | 3 => (1, payNat q.payload 8 1 % 128 + 1, Need.store)
  | _ => (2, 2 ^ (payNat q.payload 9 1 % 4), Need.amo)

/-- The access that a request makes at these addresses. -/
def PeerReq.access (q : PeerReq) (p : Nat) (pas : List Nat) : HeldAccess :=
  let data := match q.type with
    | 1 => []
    | 3 => payBytes q.data 0 pas.length
    | _ => payBytes q.payload 16 16
  { Actor.peer.held (BitVec.ofNat 8 (payNat q.payload 10 1)) q.shape.1 pas.zipIdx data with
    op := payNat q.payload 8 1, sz := payNat q.payload 9 1 % 4, peer := some { peer := p } }

/-- Changes the request that is served first. -/
def State.modServing (s : State) (p : Nat) (f : PeerReq → PeerReq) : State :=
  s.modPair p fun q => { q with serving := match q.serving with | [] => [] | r :: rs => f r :: rs }

/-- The request that was served first has been answered. -/
def State.popServing (s : State) (p : Nat) : State := s.modPair p fun q => { q with serving := q.serving.tail }

/-- Makes the accesses of the request that is served first, or reports its error (R448 to R450). -/
def State.makeService (s : State) (p : Nat) (q : PeerReq) : State :=
  let (_, n, need) := q.shape
  match s.peerTranslate p (BitVec.ofNat 8 (payNat q.payload 10 1)) need (payNat q.payload 0 8) n with
  | (none, s) => s.popServing p
  | (some pas, s) =>
    let h := q.access p pas
    (s.modServing p fun q => { q with left := some (s.splitOf h).length }).access h

/-- Begins to serve the next request of a peer (R451): one at a time, in the order of their numbers. -/
def State.serveNext (s : State) (p : Nat) : State :=
  match (s.pair p).serving with
  | [] => s
  | q :: _ =>
    if q.left.isSome then s
    else
      match s.withFar (.peer p) fun s => s.makeService p q with
      | .ok s => s
      | .error s => s

/-- The answer to a request whose accesses have all been performed. -/
def State.answerRequest (s : State) (p : Nat) (q : PeerReq) : State :=
  let n := if q.type = 5 then 8 else q.shape.2.1
  let bs := (List.range n).map fun i => ((q.got.find? fun b => b.1 == i).map Prod.snd).getD (0, false)
  if q.type = 3 then s.sendFlit p 6 []
  else if bs.any Prod.snd then s.sendErr p codePoison 0 0
  else s.sendFlit p (if q.type = 1 then 2 else 6) (bs.map Prod.fst)

/-- A piece of the request that is served first has been performed. -/
def State.takeService (s : State) (h : HeldAccess) (p : Nat) (bs : List (Byte × Bool)) : State :=
  let places := if h.kind = 2 then List.range 8 else h.bytes.map Prod.snd
  let s := s.modServing p fun q => { q with left := q.left.map (· - 1), got := q.got ++ places.zip bs }
  match (s.pair p).serving with
  | q :: _ => if q.left = some 0 then ((s.popServing p).answerRequest p q).serveNext p else s
  | [] => s

/-- Answers what has been performed for other packages, at most `n` accesses (R434, R451). -/
def State.sendAnswers : Nat → State → State
  | 0, s => s
  | n + 1, s =>
    match s.answers with
    | [] => s
    | (h, bs) :: rest =>
      let s := { s with answers := rest }
      match h.peer with
      | some { peer := p, fwd := some f } => State.sendAnswers n (s.sendReply h p f.1 f.2.1 f.2.2 bs)
      | some { peer := p, fwd := none } => State.sendAnswers n (s.takeService h p bs)
      | none => State.sendAnswers n s

/-- A request of a peer has come to the remote engine: it waits for those before it. -/
def State.takeRequest (s : State) (p type : Nat) (b data : BitVec 1024) : State :=
  (s.modPair p fun q =>
    { q with serving := q.serving ++ [{ type := type, payload := b, data := data, left := none, got := [] }] }).serveNext p

/-! ### PXFETCH and PXREPL (R465 to R467) -/

/-- A value that a command keeps between its replies. -/
def Cmd.note (k : Cmd) (i : Nat) : Option (List Byte) := (k.replies.find? fun r => r.1 == i).map Prod.snd

/-- Keeps a value. -/
def Cmd.setNote (k : Cmd) (i : Nat) (bs : List Byte) : Cmd := { k with replies := (i, bs) :: k.replies.filter fun r => r.1 != i }

/-- The notes of PXFETCH and PXREPL: the holders not yet asked, the package asked, the bytes received, that one was poisoned, and
the frame that PXREPL has taken. -/
def noteHolders : Nat := 0
/-- The package asked. -/
def noteAsked : Nat := 1
/-- The bytes received. -/
def noteData : Nat := 2
/-- A sector was poisoned. -/
def noteBad : Nat := 3
/-- The frame taken. -/
def noteFrame : Nat := 4

/-- The frame bytes that a command reads: offset and length. -/
def Cmd.podRange (k : Cmd) (r : InstRec) : Nat × Nat :=
  match k.op with
  | .pxfetch .. => (atBytes k.data 44 4, atBytes k.data 48 4)
  | _ => (0, r.size)

/-- Ends a pod command without its full effect: PXREPL's frame is freed. -/
def State.podFail (s : State) (c : CoreId) (k : Cmd) (i res rval : Nat) : State :=
  let s := match k.note noteFrame with
    | some fr => s.dropFrame i 1 (ofBytes fr)
    | none => s
  s.answer c k res rval

/-- Asks the next holder (R466): ascending from the package after this one, wrapping; none is left: NOTPRESENT. -/
def State.podNext (s : State) (c : CoreId) (k : Cmd) (i : Nat) (r : InstRec) : State :=
  let holders := ofBytes ((k.note noteHolders).getD [])
  let order := (List.range 63).map fun d => (s.qlId + 1 + d) % 64
  match order.find? fun p => holders / 2 ^ p % 2 == 1 && s.isPeer p with
  | none => s.podFail c k i resNotpresent 0
  | some p =>
    let k := ((k.setNote noteHolders (toBytes 8 (holders - 2 ^ p))).setNote noteAsked (toBytes 1 p)).setNote noteData []
    let k := { k with replies := k.replies.filter fun x => x.1 != noteBad }
    let (off, len) := k.podRange r
    ((s.putCmd c k).await p c k).sendFlit p 9 (storePayload 5 i k.ten.toNat r off len (atBytes k.data 16 16))

/-- Begins the search for a copy: QUERY to the name's home, or a look into this package's own directory (R466). -/
def State.podQuery (s : State) (c : CoreId) (k : Cmd) (i : Nat) (r : InstRec) : State :=
  let name := atBytes k.data 16 16
  let home := s.homePkg name
  if home = s.qlId then
    match (s.inst i).directory with
    | none => s.podFail c k i resNotpresent 0
    | some t => s.podNext c (k.setNote noteHolders (toBytes 8 (s.dirHolders t name))) i r
  else ((s.putCmd c k).await home c k).sendFlit home 9 (storePayload 3 i k.ten.toNat r 0 0 name)

/-- Starts PXFETCH or PXREPL: the checks of R309; PXREPL first looks for the name and takes a frame (R467). -/
def State.acceptPod (s : State) (c : CoreId) (k : Cmd) : State :=
  let s := s.acceptBlock c k
  match s.cmd c k.id, k.op.block with
  | some k, some (d, _) =>
    let i := fld d 8 6
    match (s.inst i).cfg with
    | none => s
    | some r =>
      match k.op with
      | .pxrepl .. =>
        match s.findName r (atBytes k.data 16 16) with
        | some n => s.answer c k resDup n
        | none =>
          let (ok, s) := s.roomT1 i r true (r.t1fr + 1)
          match ok, (s.inst i).freeFrame r 1 with
          | true, some fr => (s.takeFrame i 1 fr).podQuery c (k.setNote noteFrame (toBytes 4 fr)) i r
          | _, _ => s.answerFull c k i resNospace
      | _ => s.podQuery c k i r
  | _, _ => s

/-- PXFETCH has all its bytes (R466). -/
def State.fetched (s : State) (c : CoreId) (k : Cmd) (p : Nat) (bs : List Byte) (bad : Bool) : State :=
  let dst := atBytes k.data 32 8
  let s :=
    if atBytes k.data 40 4 = 1 then
      s.engWriteSpad k c ((List.range bs.length).map fun j => { addr := dst + j, byte := bs.getD j 0, bad := false })
    else s.engStore k c dst bs
  if bad then s.answerPoison c k else s.answer c k resDone p

/-- PXREPL has the whole frame (R467), which it writes on the REMOTE path (R221). -/
def State.replicated (s : State) (c : CoreId) (k : Cmd) (i : Nat) (r : InstRec) (bs : List Byte) (bad : Bool) : State :=
  let fr := ofBytes ((k.note noteFrame).getD [])
  let pa := r.frameAt 1 fr
  let s := s.pokeAs (k.actor c) pa bs
  let name := atBytes k.data 16 16
  let toks := words32 bs r.slots
  let pname := atBytes bs 272 16
  let model := { r with model := BitVec.ofNat 64 (atBytes bs 288 8) }
  if bad then (s.dropFrame i 1 fr).answerPoison c k
  else if atBytes bs 256 16 ≠ name ∨ s.nameOf model pname toks ≠ name ∨ pname ≠ atBytes k.data 32 16 then
    (s.countInst i 2 1).podFail c k i resState 0
  else
    match s.sealNode (k.actor c) i r { pa := pa, name := name, toks := toks, pname := pname, depth := atBytes bs 304 4 } false with
    | (.ok _ n, s) => s.answer c k resDone n
    | (.fails res rval, s) => s.podFail c k i res rval
    | (.poison, s) => (s.dropFrame i 1 fr).answerPoison c k

/-! ### Responses (R451, R466) -/

/-- The command whose response is next from a peer. -/
def State.awaitedCmd (s : State) (p : Nat) : Option (CoreId × Cmd) :=
  match (s.pair p).awaited with
  | [] => none
  | (c, id) :: _ => (s.cmd c id).map fun k => (c, k)

/-- The response that was next has arrived. -/
def State.popAwaited (s : State) (p : Nat) : State := s.modPair p fun q => { q with awaited := q.awaited.tail }

/-- Writes bytes at SPA and completes a remote command. -/
def State.deliverSpad (s : State) (c : CoreId) (k : Cmd) (spa : Nat) (bs : List Byte) (code : Nat) : State :=
  (s.engWriteSpad k c ((List.range bs.length).map fun j => { addr := spa + j, byte := bs.getD j 0, bad := false })).finish c k
    code 0 0 0

/-- RLDDATA or RESP has arrived. -/
def State.takeResponse (s : State) (p : Nat) (data : Bool) (b : BitVec 1024) : State :=
  match s.awaitedCmd p with
  | none => s.popAwaited p
  | some (c, k) =>
    match k.op, data with
    | .rld gd _, true => (s.popAwaited p).deliverSpad c k (rcSpa gd) (payBytes b 0 (rcLen gd)) codeOk
    | .rst _ _, false => (s.popAwaited p).finish c k codeOk 0 0 0
    | .ramo gd _, false => (s.popAwaited p).deliverSpad c k (rcSpa gd) (payBytes b 0 8) codeOk
    | _, _ => s

/-- ERR has arrived (R448): POISON delivers zero bytes (R397); for a pod command it says that bytes of the copy are poisoned. -/
def State.takeErr (s : State) (p : Nat) (b : BitVec 1024) : State :=
  let code := payNat b 0 1
  match s.awaitedCmd p with
  | none => s.popAwaited p
  | some (c, k) =>
    if code = codePoison then
      match k.op with
      | .rld gd _ => (s.popAwaited p).deliverSpad c k (rcSpa gd) (List.replicate (rcLen gd) 0) codePoison
      | .ramo gd _ => (s.popAwaited p).deliverSpad c k (rcSpa gd) (List.replicate 8 0) codePoison
      | .pxfetch .. | .pxrepl .. => s.putCmd c (k.setNote noteBad [1])
      | _ => (s.popAwaited p).finish c k codePoison 0 0 0
    else (s.popAwaited p).finish c k code 0 (payNat b 1 1) (payNat b 8 8)

/-- The instance of a pod command and its record. -/
def State.podInst (s : State) (k : Cmd) : Option (Nat × InstRec) :=
  match k.op.block with
  | some (d, _) => (s.inst (fld d 8 6)).cfg.map fun r => (fld d 8 6, r)
  | none => none

/-- HOLDERS has arrived. -/
def State.takeHolders (s : State) (p : Nat) (b : BitVec 1024) : State :=
  match s.awaitedCmd p with
  | none => s.popAwaited p
  | some (c, k) =>
    match s.podInst k with
    | some (i, r) => (s.popAwaited p).podNext c (k.setNote noteHolders (toBytes 8 (payNat b 8 8))) i r
    | none => s

/-- NOTPRESENT has arrived: to a READ the next holder is asked, to a QUERY there is none. -/
def State.takeNotpresent (s : State) (p : Nat) : State :=
  match s.awaitedCmd p with
  | none => s.popAwaited p
  | some (c, k) =>
    match s.podInst k with
    | some (i, r) => (s.popAwaited p).podNext c k i r
    | none => s

/-- DATA has arrived: with the last of its bytes the command has its copy. -/
def State.takeData (s : State) (p : Nat) (b : BitVec 1024) : State :=
  match s.awaitedCmd p with
  | none => s.popAwaited p
  | some (c, k) =>
    match s.podInst k with
    | none => s
    | some (i, r) =>
      let bs := (k.note noteData).getD [] ++ payBytes b 0 128
      if bs.length < (k.podRange r).2 then s.putCmd c (k.setNote noteData bs)
      else
        let s := s.popAwaited p
        let bad := (k.note noteBad).isSome
        match k.op with
        | .pxfetch .. => s.fetched c k p bs bad
        | _ => s.replicated c k i r bs bad

/-! ### Serving the pod store (R459, R461 to R463) -/

/-- The instance that a STORE request names, where its fields agree with this package's own (R459). -/
def State.servedInst (s : State) (b : BitVec 1024) : Option (Nat × InstRec × (Nat × Nat)) :=
  let i := payNat b 1 1
  if 8 ≤ i then none
  else
    match (s.inst i).cfg, (s.inst i).directory with
    | some r, some t =>
      if payNat b 3 1 = r.dom ∧ payNat b 32 1 = r.bt ∧ payNat b 33 2 = r.nl ∧ payNat b 35 1 = r.nh ∧ payNat b 36 1 = r.d
          ∧ payNat b 40 8 = r.model.toNat then some (i, r, t) else none
    | _, _ => none

/-- Sends NOTPRESENT, in reply to the request `b`. -/
def State.sendNotpresent (s : State) (p : Nat) (b : BitVec 1024) : State := s.sendFlit p 9 (toBytes 1 7 ++ payBytes b 1 47)

/-- Cuts bytes into DATA flits (R464). -/
def State.sendData (s : State) (p : Nat) (bs : List Byte) : State :=
  (chunks 128 (bs.length / 128) bs).foldl (fun s d => s.sendFlit p 9 d) s

/-- Serves a READ (R463): the reference that it holds is taken and dropped in the same step. -/
def State.serveRead (s : State) (p : Nat) (b : BitVec 1024) : State :=
  match s.servedInst b with
  | none => s.sendNotpresent p b
  | some (i, r, _) =>
    let name := payNat b 16 16
    let off := payNat b 4 4
    let len := payNat b 8 4
    match (s.findName r name).filter fun n => (s.ix r n).state == ixSealed && decide (off + len ≤ r.size) with
    | none => (s.podNotice i r 2 name).sendNotpresent p b
    | some n =>
      let (bs, bad, s) := s.sealedBytes Actor.peer r n ((s.ix r n).loc + off) len
      let s := if bad then s.sendErr p codePoison 0 0 else s
      s.sendData p bs

/-- Serves a STORE flit of a peer: REG, DEREG, QUERY, READ; HOLDERS, DATA and NOTPRESENT answer this package's own requests.
A DATA flit carries 128 bytes of data and no other field, and is known by its LEN (R464). -/
def State.serveStore (s : State) (p : Nat) (op : Nat) (b : BitVec 1024) : State :=
  match op with
  | 1 =>
    match s.servedInst b with
    | some (_, _, t) => s.dirReg t (payNat b 16 16) p
    | none => s
  | 2 =>
    match s.servedInst b with
    | some (_, _, t) => s.dirDereg t (payNat b 16 16) p
    | none => s
  | 3 =>
    match s.servedInst b with
    | some (i, r, t) => s.sendFlit p 9 (storePayload 4 i (payNat b 2 1) r 0 (s.dirHolders t (payNat b 16 16)) (payNat b 16 16))
    | none => s.sendNotpresent p b
  | 4 => s.takeHolders p b
  | 5 => s.serveRead p b
  | 6 => s.takeData p b
  | 7 => s.takeNotpresent p
  | _ => s

/-! ### Acceptance and completion of engine commands (R126, R290) -/

/-- The oldest command of a sequencer that has not started. -/
def Core.oldestQueued (c : Core) (q : Sq) : Option Cmd := c.cmds.find? fun k => k.sq == q && k.phase == .queued

/-- The order in which a class accepts from X, L and S: from least recent, at iteration start L, S, X (R126). -/
def Core.arbOrder (c : Core) (e : PathClass) : List Sq := ((c.arb.find? fun a => a.1 == e).map Prod.snd).getD [.L, .S, .X]

/-- Whether a command's accesses no longer wait for what a fence before it waits for (R234 point 2). -/
def Core.mayStart (c : Core) (k : Cmd) : Bool := !k.know.after.any fun p => p.1 == k.cls && c.incomplete p.2

/-- The command that a class accepts next. Commands of one sequencer that name different classes may start in one cycle, in issue order
(DESIGN CHOICE: R126 does not say whether they may; log entry 83). -/
def Core.nextAccept (c : Core) (e : PathClass) : Option Cmd :=
  ((c.arbOrder e).filterMap fun q => (c.oldestQueued q).filter fun k => k.cls == e && c.mayStart k).head?

/-- The class has accepted from a sequencer. -/
def Core.noteAccept (c : Core) (e : PathClass) (q : Sq) : Core :=
  { c with arb := (e, (c.arbOrder e).filter (fun x => x != q) ++ [q]) :: c.arb.filter fun a => a.1 != e }

/-- What its engine does with a command that it accepts. -/
def State.acceptCmd (s : State) (c : CoreId) (k : Cmd) : State :=
  match k.op with
  | .cpy .. | .cpy2d .. | .gath .. | .scat .. => s.acceptCopy c k
  | .rld gd ga => s.acceptRemote c k 0 gd ga
  | .rst gd ga => s.acceptRemote c k 1 gd ga
  | .ramo gd ga => s.acceptRemote c k 2 gd ga
  | .pxfetch .. | .pxrepl .. => s.acceptPod c k
  | _ => s.acceptStore c k

/-- ENGINE_COMMAND_ACCEPT (R126): an engine class of a core accepts a command, the oldest of its sequencer. -/
def execEngineCommandAccept (c : CoreId) (e : PathClass) (s : State) : Out :=
  match (s.core c).nextAccept e with
  | none => .next s
  | some k => .next ((s.modCore c fun m => m.noteAccept e k.sq).acceptCmd c k)

/-- ENGINE_COMMAND_COMPLETE (R290): a command that has started has its effect, and its tag becomes DONE once its accesses have been
performed. Commands to another package have their effect when their response arrives; those that must wait stay as they are. -/
def execEngineCommandComplete (c : CoreId) (id : Nat) (s : State) : Out :=
  match s.cmd c id with
  | none => .next s
  | some k =>
    match k.phase with
    | .queued => .next s
    | .ending code flags det va => .next (s.finish c k code flags det va)
    | .started _ =>
      match k.op with
      | .cpy .. | .cpy2d .. | .gath .. | .scat .. => .next (s.completeCopy c k)
      | .rld .. | .rst .. | .ramo .. | .pxfetch .. | .pxrepl .. => .next s
      | _ => .next (s.completeStore c k)

end Sys2Proof.Machine
end

