-- ==== Sys2Proof/Machine/Lanes.lean ====
section
/-!
DEFINITION. Lanes of the Quayline fabric (25_optical.md): flits as they arrive, in their order (R446), control flits, errors, training and
starvation (R440 to R442, R447), and the charter instructions (R453 to R455).
-/
namespace Sys2Proof.Machine

/-! ### Control flits (R440, R441, R445, R447, R454) -/

/-- REQ: each plane is granted at once or recorded as pending (R441). -/
def State.takeReq (s : State) (p : Nat) (ten : BitVec 8) (planes : List Nat) : State :=
  planes.foldl (fun s f =>
    match s.grantSlot p f ten with
    | some s => s
    | none =>
      let e : PendingLane := { peer := p, plane := f, ten := ten, arrival := s.storeClk.toNat }
      { s with pendingLanes := s.pendingLanes ++ [e] }) s

/-- A plane of a CHARTER has been granted: where its result has not landed, it counts the lane as granted (R453). -/
def State.countGrant (s : State) (r : LaneRequest) : State :=
  s.modCore r.core fun k =>
    { k with flights := k.flights.map fun f => if f.ins = r.ins then { f with value := f.value + 1 - 256 } else f }

/-- GRANT: the reserved laser begins to tune. -/
def State.takeGrant (s : State) (p plane : Nat) : State :=
  match s.laneTo p plane with
  | none => s
  | some i =>
    if (s.tx.get i).st != .reserved then s
    else
      let s := { s.modTx i (fun l => { l with st := .tuning, granted := s.grants, since := s.storeClk.toNat }) with
                 grants := s.grants + 1 }
      match s.laneRequests.find? fun r => r.peer == p && r.planes.contains plane with
      | none => s
      | some r =>
        let rest := s.laneRequests.filter fun x => x != r
        let left := r.planes.filter fun f => f != plane
        ({ s with laneRequests := rest ++ (if left.isEmpty then [] else [{ r with planes := left }]) }).countGrant r

/-- REVOKE, at the sender: the chartered lane of the plane is dropped. -/
def State.takeRevoke (s : State) (p plane : Nat) : State :=
  match s.laneTo p plane with
  | none => s
  | some i => if (s.tx.get i).moor then s else s.dropTx i

/-- DRAIN, at the sender: the lane takes no later flit (R447). -/
def State.takeDrain (s : State) (p plane : Nat) : State :=
  match s.laneTo p plane with
  | none => s
  | some i => if (s.tx.get i).st == .active then s.modTx i fun l => { l with st := .draining, retrain := true } else s

/-- HANDBACK, at the sender: the lane is in the turn again (R447, R470); where it still drains, as soon as that has ended, and where its half
still tunes, when that has ended without a lock (R440). -/
def State.takeHandback (s : State) (p plane : Nat) : State :=
  match s.laneTo p plane with
  | none => s
  | some i =>
    match (s.tx.get i).st with
    | .retraining => s.activateTx i
    | .tuning => s.modTx i fun l => { l with back := true }
    | .draining => if (s.tx.get i).retrain then s.modTx i fun l => { l with back := true } else s
    | _ => s

/-- RELEASE, at the receiver. -/
def State.takeRelease (s : State) (p plane : Nat) : State :=
  match s.slotFrom p plane with
  | none => s
  | some i => if (s.rx.get i).moor then s else s.dropRx i false

/-- WITHDRAW, at the receiver: the pending entries end; a slot granted meanwhile is dropped as one that CASTOFF names. -/
def State.takeWithdraw (s : State) (p : Nat) (ten : BitVec 8) (planes : List Nat) : State :=
  let s := { s with pendingLanes := s.pendingLanes.filter fun e => !(e.peer == p && e.ten == ten && planes.contains e.plane) }
  planes.foldl (fun s f =>
    match s.slotFrom p f with
    | some i => if (s.rx.get i).st == .tuning && (s.rx.get i).ten == ten then s.dropRx i false else s
    | none => s) s

/-- A CTRL flit, by its operation. -/
def State.takeCtrl (s : State) (p : Nat) (b : BitVec 1024) : State :=
  let plane := payNat b 1 1 % 32
  let ten := BitVec.ofNat 8 (payNat b 3 1)
  match payNat b 0 1 with
  | 1 => s.takeReq p ten (planesOf (payNat b 4 4))
  | 2 => s.takeGrant p plane
  | 3 => s.takeRevoke p plane
  | 4 => s.takeDrain p plane
  | 5 => s.takeHandback p plane
  | 6 => s.takeRelease p plane
  | 7 => s.takeWithdraw p ten (planesOf (payNat b 4 4))
  | _ => s

/-! ### Delivery in order (R446 point 5, R451) -/

/-- TYPE of a header. -/
def flitType (h : BitVec 64) : Nat := fld h 19 16

/-- The operation of a STORE flit: DATA is known by its LEN of 128 (R464). -/
def storeOp (h : BitVec 64) (b : BitVec 1024) : Nat := if fld h 15 8 = 128 then 6 else payNat b 0 1

/-- The remote engine takes a flit whose turn it is. -/
def State.deliver (s : State) (p : Nat) (h : BitVec 64) (b : BitVec 1024) : State :=
  match flitType h with
  | 1 => s.takeRequest p 1 b 0
  | 2 => s.takeResponse p true b
  | 3 => s.modPair p fun q => { q with rst := some b }
  | 4 =>
    match (s.pair p).rst with
    | none => s
    | some r => (s.modPair p fun q => { q with rst := none }).takeRequest p 3 r b
  | 5 => s.takeRequest p 5 b 0
  | 6 => s.takeResponse p false b
  | 7 => s.takeErr p b
  | 8 => s.takeCtrl p b
  | 9 => s.serveStore p (storeOp h b) b
  | 10 => s.serveFwd p b
  | _ => s

/-- Delivers the flits of a pair whose turn has come, `n` at most. -/
def State.deliverAll (s : State) (p : Nat) : Nat → State
  | 0 => s
  | n + 1 =>
    let q := s.pair p
    match q.rxHeld.find? fun f => f.1 == q.rxNext with
    | none => s
    | some (_, h, b) =>
      let s := s.modPair p fun q =>
        { q with rxNext := (q.rxNext + 1) % 65536, rxHeld := q.rxHeld.filter fun f => f.1 != q.rxNext }
      ((s.deliver p h b).sendAnswers 64).deliverAll p n

/-- A flit in the receiver's window takes its turn (R446 point 5). -/
def State.takeFlit (s : State) (p : Nat) (h : BitVec 64) (b : BitVec 1024) : State :=
  let n := fld h 63 48
  let q := s.pair p
  let d := (n + 65536 - q.rxNext) % 65536
  if 1024 ≤ d ∨ q.rxHeld.any fun g => g.1 == n then s
  else (s.modPair p fun q => { q with rxHeld := q.rxHeld ++ [(n, h, b)] }).deliverAll p (q.rxHeld.length + 1)

/-- A flit arrives (R444 to R447): its errors are corrected and count in the slot's window; one beyond correction counts as 5 symbols, and
it, or one of a type that is never sent, is discarded and counted; the others carry an acknowledgement, and the numbered ones wait for
their turn. A slot that is FREE receives nothing. -/
def State.receive (s : State) (f : Flit) : State :=
  let r := s.rx.get f.slot
  if r.st == .free then s
  else
    let got := correctedFlit f
    let s := s.modRx f.slot fun r =>
      { r with count := r.count + got.elim 5 (fun g => g.2.2), flits := r.flits + 1
               ucf := if got.all (fun g => decide (11 ≤ flitType g.1)) && r.ucf != 0xFFFF then r.ucf + 1 else r.ucf }
    match got with
    | none => s
    | some (h, b, _) =>
      let p := fld h 31 26
      if 11 ≤ flitType h ∨ p ≠ r.peer ∨ fld h 25 20 ≠ s.qlId then s
      else
        let s := s.ackFlits p (fld h 47 32)
        if flitType h = 0 then s else s.takeFlit p h b

/-- Receives a flit that is, once corrected, of the kind that the event names. One beyond correction is of no kind, and any event
receives it. -/
def receiveAs (ok : BitVec 64 → BitVec 1024 → Bool) (f : Flit) (s : State) : Out :=
  if (correctedFlit f).all fun g => ok g.1 g.2.1 then .next (s.receive f) else .next s

/-- A header of a type. -/
def hasType (n : Nat) (h : BitVec 64) (_ : BitVec 1024) : Bool := flitType h == n

/-- A flit that has a type and, in byte 0, an operation. -/
def isOp (type op : Nat) (h : BitVec 64) (b : BitVec 1024) : Bool := flitType h == type && payNat b 0 1 == op

/-- IDLE (R446), or a flit of a type that is never sent (R445). -/
def execIdle (f : Flit) (s : State) : Out := receiveAs (fun h _ => flitType h == 0 || decide (11 ≤ flitType h)) f s
/-- RLDREQ (R449). -/
def execRldreq (f : Flit) (s : State) : Out := receiveAs (hasType 1) f s
/-- RLDDATA (R449). -/
def execRlddata (f : Flit) (s : State) : Out := receiveAs (hasType 2) f s
/-- RSTREQ (R449). -/
def execRstreq (f : Flit) (s : State) : Out := receiveAs (hasType 3) f s
/-- RSTDATA (R449). -/
def execRstdata (f : Flit) (s : State) : Out := receiveAs (hasType 4) f s
/-- RAMOREQ (R450). -/
def execRamoreq (f : Flit) (s : State) : Out := receiveAs (hasType 5) f s
/-- RESP (R450). -/
def execResp (f : Flit) (s : State) : Out := receiveAs (hasType 6) f s
/-- ERR (R448). -/
def execErr (f : Flit) (s : State) : Out := receiveAs (hasType 7) f s
/-- CTRL REQ (R441). -/
def execCtrlReq (f : Flit) (s : State) : Out := receiveAs (isOp 8 1) f s
/-- CTRL GRANT (R440). -/
def execCtrlGrant (f : Flit) (s : State) : Out := receiveAs (isOp 8 2) f s
/-- CTRL REVOKE (R440). -/
def execCtrlRevoke (f : Flit) (s : State) : Out := receiveAs (isOp 8 3) f s
/-- CTRL DRAIN (R447). -/
def execCtrlDrain (f : Flit) (s : State) : Out := receiveAs (isOp 8 4) f s
/-- CTRL HANDBACK (R447). -/
def execCtrlHandback (f : Flit) (s : State) : Out := receiveAs (isOp 8 5) f s
/-- CTRL RELEASE (R454). -/
def execCtrlRelease (f : Flit) (s : State) : Out := receiveAs (isOp 8 6) f s
/-- CTRL WITHDRAW (R454). -/
def execCtrlWithdraw (f : Flit) (s : State) : Out := receiveAs (isOp 8 7) f s

/-- A STORE flit of an operation. -/
def isStore (op : Nat) (h : BitVec 64) (b : BitVec 1024) : Bool := flitType h == 9 && storeOp h b == op

/-- STORE REG (R461). -/
def execStoreReg (f : Flit) (s : State) : Out := receiveAs (isStore 1) f s
/-- STORE DEREG (R461). -/
def execStoreDereg (f : Flit) (s : State) : Out := receiveAs (isStore 2) f s
/-- STORE QUERY (R466). -/
def execStoreQuery (f : Flit) (s : State) : Out := receiveAs (isStore 3) f s
/-- STORE HOLDERS (R466). -/
def execStoreHolders (f : Flit) (s : State) : Out := receiveAs (isStore 4) f s
/-- STORE READ (R463). -/
def execStoreRead (f : Flit) (s : State) : Out := receiveAs (isStore 5) f s
/-- STORE DATA (R466). -/
def execStoreData (f : Flit) (s : State) : Out := receiveAs (isStore 6) f s
/-- STORE NOTPRESENT (R466). -/
def execStoreNotpresent (f : Flit) (s : State) : Out := receiveAs (isStore 7) f s
/-- FWD START (R434). -/
def execFwdStart (f : Flit) (s : State) : Out := receiveAs (isOp 10 1) f s
/-- FWD COPY (R434). -/
def execFwdCopy (f : Flit) (s : State) : Out := receiveAs (isOp 10 2) f s
/-- FWD ACCEPT (R434). -/
def execFwdAccept (f : Flit) (s : State) : Out := receiveAs (isOp 10 3) f s
/-- FWD REFUSE (R434). -/
def execFwdRefuse (f : Flit) (s : State) : Out := receiveAs (isOp 10 4) f s
/-- FWD ACCESS (R434). -/
def execFwdAccess (f : Flit) (s : State) : Out := receiveAs (isOp 10 5) f s
/-- FWD REPLY (R434). -/
def execFwdReply (f : Flit) (s : State) : Out := receiveAs (isOp 10 6) f s

/-! ### Tuning, errors and training (R440, R447) -/

/-- TUNING_LOCK (R440): the receiver locks on the training pattern; the half of the lane at this package becomes ACTIVE. A slot
and a transmit lane of the same number are told apart by which of them is TUNING, the slot first. -/
def execTuningLock (i : Fin 256) (s : State) : Out :=
  if (s.rx.get i).st == .tuning then .next (s.modRx i fun r => { r with st := .active, count := 0, flits := 0 })
  else if (s.tx.get i).st == .tuning then .next (s.activateTx i)
  else .next s

/-- TUNING_TIMEOUT (R440): no lock within 100 µs. -/
def execTuningTimeout (i : Fin 256) (s : State) : Out :=
  let late := fun (since : Nat) => decide (since + 100 ≤ s.storeClk.toNat)
  if (s.rx.get i).st == .tuning && late (s.rx.get i).since then .next (s.modRx i fun r => { r with st := .retraining })
  else if (s.tx.get i).st == .tuning && late (s.tx.get i).since then
    .next (if (s.tx.get i).back then s.activateTx i else s.modTx i fun l => { l with st := .retraining })
  else .next s

/-- ERROR_WINDOW_END (R447): after 2^20 flits the count is stored, and a lane with more than QL_THR corrected symbols begins to
drain for retraining. -/
def execErrorWindowEnd (i : Fin 256) (s : State) : Out :=
  let r := s.rx.get i
  if r.st == .free || decide (r.flits < 2 ^ 20) then .next s
  else
    let s := s.modRx i fun r => { r with csym := BitVec.ofNat 32 r.count, count := 0, flits := 0 }
    if r.st == .active && decide (s.fe.qlThr.toNat < r.count) then
      let s := s.modRx i fun r => { r with st := .draining, retrain := true, retrains := r.retrains + 1 }
      .next (s.sendCtrl r.peer 4 (i.val / 8) (i.val % 8) r.ten 0)
    else .next s

/-- TRAINING_WINDOW_END (R447, R471): a window of at most QL_THR / 16 corrected symbols passes, and the lane is handed back. -/
def execTrainingWindowEnd (i : Fin 256) (symbols : Nat) (s : State) : Out :=
  let r := s.rx.get i
  if r.st == .retraining && decide (symbols ≤ s.fe.qlThr.toNat / 16) then
    let s := s.modRx i fun r => { r with st := .active, retrain := false, count := 0, flits := 0 }
    .next (s.sendCtrl r.peer 5 (i.val / 8) (i.val % 8) r.ten 0)
  else .next s

/-- Whether no flit assigned to a transmit lane still waits for its acknowledgement (R440). -/
def State.accounted (s : State) (i : Fin 256) : Bool :=
  !(s.pair (s.tx.get i).peer).unacked.any fun f => f.lane == some i.val

/-- LANE_DRAIN_END (R440): every flit of a draining lane is accounted for: FREE, or RETRAINING where the drain was for that. At the
sender this follows from what it has sent; at the receiver its time is free (log entry 17). -/
def execLaneDrainEnd (i : Fin 256) (s : State) : Out :=
  let l := s.tx.get i
  if l.st == .draining && s.accounted i then
    if !l.retrain then .next (s.freeTx i)
    else if l.back then .next (s.activateTx i)
    else .next (s.modTx i fun l => { l with st := .retraining })
  else if (s.rx.get i).st == .draining then
    if (s.rx.get i).retrain then .next (s.modRx i fun r => { r with st := .retraining, revoked := false })
    else .next (s.freeRx i)
  else .next s

/-! ### Starvation (R442) -/

/-- The chartered lanes from a package into this one, in any state but FREE. -/
def State.heldBy (s : State) (p : Nat) : Nat :=
  (s.rx.toList.filter fun r => r.st != .free && !r.moor && r.peer == p).length

/-- STARVATION_CHECK (R442). -/
def execStarvationCheck (s : State) : Out :=
  if s.rx.toList.any fun r => r.revoked && r.st == .draining then .next s
  else
    match oldestPending (s.pendingLanes.filter fun e => decide (s.fe.qlStarve.toNat < s.storeClk.toNat - e.arrival)) with
    | none => .next s
    | some e =>
      let vs := ((List.range 8).map fun w => Fin.ofNat 256 (8 * e.plane + w)).filter fun i =>
        (s.rx.get i).st != .free && !(s.rx.get i).moor && (s.rx.get i).peer != e.peer
      let better := fun (a b : Fin 256) =>
        let x := s.heldBy (s.rx.get a).peer
        let y := s.heldBy (s.rx.get b).peer
        decide (x < y) || (x == y && decide ((s.rx.get a).peer < (s.rx.get b).peer))
      match vs with
      | [] => .next s
      | v :: vs =>
        let v := vs.foldl (fun a b => if better a b then b else a) v
        let p := (s.rx.get v).peer
        if s.heldBy p < s.heldBy e.peer + 2 then .next s
        else
          let ten := (s.rx.get v).ten
          let s := { s with fe := { s.fe with qlRevokes := s.fe.qlRevokes + 1 } }
          .next ((s.sendCtrl p 3 e.plane (v.val % 8) ten 0).dropRx v true)

/-! ### CHARTER, CASTOFF and LANEQ (R453 to R455) -/

/-- The chartered transmit lanes that a tenancy holds or reserves. -/
def State.lanesOf (s : State) (ten : BitVec 8) : List (Fin 256) :=
  (List.finRange 256).filter fun i => (s.tx.get i).st != .free && !(s.tx.get i).moor && (s.tx.get i).ten == ten

/-- Those to a peer. -/
def State.lanesTo (s : State) (ten : BitVec 8) (p : Nat) : List (Fin 256) := (s.lanesOf ten).filter fun i => (s.tx.get i).peer == p

/-- The lasers of a plane that are not FREE. -/
def State.busyLasers (s : State) (plane : Nat) : Nat :=
  ((List.range 8).filter fun w => (s.tx.get (Fin.ofNat 256 (8 * plane + w))).st != .free).length

/-- The lowest FREE laser of a plane. -/
def State.freeLaser (s : State) (plane : Nat) : Option (Fin 256) :=
  ((List.range 8).map fun w => Fin.ofNat 256 (8 * plane + w)).find? fun i => (s.tx.get i).st == .free

/-- The planes that a CHARTER may take, in its order: by lasers in use, then by number. -/
def State.charterPlanes (s : State) (p : Nat) : List Nat :=
  let ok := (List.range 32).filter fun f => (s.freeLaser f).isSome && (s.laneTo p f).isNone
  (List.range 8).flatMap fun n => ok.filter fun f => s.busyLasers f == n

/-- The result of a CHARTER that asks for no lane. -/
def charterStatus (n : Nat) : Word := BitVec.ofNat 64 (n * 2 ^ 16)

/-- CHARTER (R453): its result lands when the receiver's reply has come, whose time is free; each GRANT that arrives before counts
as granted. -/
def execCharter (d a : Reg) (x : Ctl) (s : State) : Out :=
  issue { x := x, minLat := 7, issuers := [.X], gsrc := [a], gdst := [d], cls := .varying, enc := encode (.charter d a x) }
    (fun cx s =>
      let ga := (s.seq cx.who).rg a
      let p := fld ga 5 0
      let n := fld ga 12 8
      let ten := s.tenOf cx.who.core
      if fld ga 63 13 ≠ 0 ∨ fld ga 7 6 ≠ 0 ∨ n = 0 then .trap Trap.illegal
      else if !s.isPeer p then .land cx s [.g d (charterStatus 1)]
      else if s.laneRequests.any fun r => r.ten == ten && r.peer == p then .land cx s [.g d (charterStatus 3)]
      else
        let cap := (s.fe.lanecap.get ten.toFin).toNat - (s.lanesOf ten).length
        let planes := (s.charterPlanes p).take (min n cap)
        if planes.isEmpty then .land cx s [.g d (charterStatus 2)]
        else
          let s := planes.foldl (fun s f =>
            match s.freeLaser f with
            | some i => s.modTx i fun _ => { TxLane.reset with ten := ten, st := .reserved, peer := p }
            | none => s) s
          let r : LaneRequest := { ten := ten, peer := p, planes := planes, core := cx.who.core, ins := cx.stamp }
          let s := { s with laneRequests := s.laneRequests ++ [r] }
          let s := s.sendCtrl p 1 0 0 ten (planeMap planes)
          let st := if planes.length < n then 2 else 0
          let (lat, s) := s.freeNat
          .done (s.fly cx (s.cycle + 1 + Config.latency lat) false
            [.g d (BitVec.ofNat 64 (planes.length * 256) + charterStatus st)]) .next true) s

/-- Inserts a lane into a list ordered by grant, most recent first. -/
def State.insertLane (s : State) (i : Fin 256) : List (Fin 256) → List (Fin 256)
  | [] => [i]
  | j :: js => if (s.tx.get j).granted ≤ (s.tx.get i).granted then i :: j :: js else j :: s.insertLane i js

/-- The lanes that CASTOFF releases: not reserved, most recently granted first. -/
def State.releasable (s : State) (ten : BitVec 8) (p : Nat) : List (Fin 256) :=
  ((s.lanesTo ten p).filter fun i => (s.tx.get i).st != .reserved).foldr (fun i acc => s.insertLane i acc) []

/-- CASTOFF (R454). -/
def execCastoff (d a : Reg) (x : Ctl) (s : State) : Out :=
  issue { x := x, minLat := 1, issuers := [.X], gsrc := [a], gdst := [d], cls := .varying, enc := encode (.castoff d a x) }
    (fun cx s =>
      let ga := (s.seq cx.who).rg a
      let p := fld ga 5 0
      let n := fld ga 12 8
      let ten := s.tenOf cx.who.core
      if fld ga 63 13 ≠ 0 ∨ fld ga 7 6 ≠ 0 then .trap Trap.illegal
      else if !s.isPeer p then .land cx s [.g d 0]
      else
        let mine := fun (r : LaneRequest) => r.ten == ten && r.peer == p
        let planes := (s.laneRequests.filter mine).flatMap LaneRequest.planes
        let s := { s with laneRequests := s.laneRequests.filter fun r => !mine r }
        let s := ((s.lanesTo ten p).filter fun i => (s.tx.get i).st == .reserved).foldl (fun s i => s.freeTx i) s
        let s := if planes.isEmpty then s else s.sendCtrl p 7 0 0 ten (planeMap planes)
        let all := s.releasable ten p
        let out := if n = 0 then all else all.take n
        let s := out.foldl (fun s i => (s.sendCtrl p 6 (i.val / 8) (i.val % 8) ten 0).dropTx i) s
        .land cx s [.g d (BitVec.ofNat 64 out.length)]) s

/-- LANEQ (R455). -/
def execLaneq (d a : Reg) (x : Ctl) (s : State) : Out :=
  issue { x := x, minLat := 1, issuers := [.X], gsrc := [a], gdst := [d], cls := .varying, enc := encode (.laneq d a x) }
    (fun cx s =>
      let ga := (s.seq cx.who).rg a
      let p := fld ga 5 0
      if fld ga 63 6 ≠ 0 then .trap Trap.illegal
      else
        let mine := s.lanesTo (s.tenOf cx.who.core) p
        let reserved := (mine.filter fun i => (s.tx.get i).st == .reserved).length
        let pair := fun (st : LaneState) => (s.tx.toList.filter fun l => l.st == st && l.peer == p).length
        let into := (s.rx.toList.filter fun r => r.st != .free && r.peer == p).length
        let v := (mine.length - reserved) + reserved * 2 ^ 8 + pair .active * 2 ^ 16 + pair .retraining * 2 ^ 24 + into * 2 ^ 32
        .land cx s [.g d (BitVec.ofNat 64 v)]) s

end Sys2Proof.Machine
end

