-- ==== Sys2Proof/Machine/Launch.lean ====
section
/-!
DEFINITION. From packet to iteration: portals, heads of queues, dispatch, the walker, iterations and completion records
(04_parallel.md, 05_scheduling.md, 23_front_end.md), and requests for pre-emption (R376).
-/
namespace Sys2Proof.Machine

/-! ### Queues -/

/-- Changes a queue. -/
def State.modQueue (s : State) (n : Fin 256) (f : Queue → Queue) : State :=
  { s with queues := s.queues.set n.val (f (s.queues.get n)) n.isLt }

/-- Whether a queue is enabled (R117). -/
def Queue.enabled (q : Queue) : Bool := q.cfg.getLsbD 0
/-- LEVEL. -/
def Queue.level (q : Queue) : Nat := fld q.cfg 10 8
/-- Sets LEVEL and restarts the wait (R118). -/
def Queue.setLevel (q : Queue) (l now : Nat) : Queue :=
  { q with cfg := (q.cfg &&& ~~~0x700#32) ||| BitVec.ofNat 32 (l % 8 * 256), waitFrom := now }

/-- The head of a queue leaves it. -/
def State.popHead (s : State) (n : Fin 256) : State := s.modQueue n fun q => { q with packets := q.packets.drop 1 }

/-- What counts as a dispatch for R118: LEVEL returns to BASE and the wait restarts. A launch that leaves the head is one, a COPY or a MARK
is none (DEDUCED, log entry 26). -/
def State.countsAsDispatch (s : State) (n : Fin 256) : State :=
  s.modQueue n fun q => q.setLevel (fld q.cfg 3 1) s.storeClk.toNat

/-- Whether every earlier packet of a queue has completed, for its head: launches dispatched and copies begun remain open. -/
def State.earlierDone (s : State) (n : Fin 256) : Bool :=
  !(s.launches.any fun l => l.packet.queue == n) && !s.copies.any fun c => c.packet.queue == n

/-- The dispatch fabric works: FE_STAT.UP is 1 and RELOAD 0 (R407, R421). -/
def State.fabricUp (s : State) : Bool := s.fe.feStat.getLsbD 31 && !s.fe.feStat.getLsbD 30

/-- The head of an enabled queue. -/
def State.head (s : State) (n : Fin 256) : Option Packet :=
  let q := s.queues.get n
  if q.enabled then q.packets.head? else none

/-! ### Portals (R410 to R412) -/

/-- The packet of R412, accepted when `perf` writes have been performed. -/
def packetOf (num perf : Nat) (ten : BitVec 8) (b : List Byte) : Packet :=
  { num := num, op := recNat b 0 1, serial := recNat b 1 1 % 2 == 1, irq := recNat b 1 1 / 2 % 2 == 1
    queue := Fin.ofNat 256 (recNat b 2 1), usertag := BitVec.ofNat 64 (recNat b 8 8), cpl := BitVec.ofNat 64 (recNat b 16 8)
    arg := BitVec.ofNat 64 (recNat b 24 8), ten := ten, perf := perf, record := none, past := [] }

/-- Whether a packet is one that a portal turns away (R410): a reserved bit, OP, CPL or its queue. -/
def State.packetBad (s : State) (ten : Nat) (b : List Byte) : Bool :=
  let q := s.queues.get (Fin.ofNat 256 (recNat b 2 1))
  !(s.tens.get (Fin.ofNat 256 ten)).on || decide (recNat b 1 1 / 4 ≠ 0) || recNat b 3 1 != 0 || recNat b 4 4 != 0
    || recNat b 32 32 != 0 || decide (recNat b 0 1 < 1) || decide (3 < recNat b 0 1) || decide (recNat b 16 8 % 32 ≠ 0)
    || decide (fld q.cfg 19 12 ≠ ten) || !q.enabled

/-- PORTAL_DMW (R410, R411): a deferrable write of `data` at offset `off` of a portal page, with its completion. -/
def execPortalDmw (portal off : Nat) (data : List (BitVec 8)) (s : State) : Out :=
  if 256 ≤ portal then .next s
  else if data.length ≠ 64 ∨ off % 64 ≠ 0 then .next (s.emit (.dmw .unsupported))
  else if !s.fabricUp then .next (s.emit (.dmw .retry))
  else if s.packetBad portal data then .next (s.emit (.dmw .unsupported))
  else
    let p := packetOf (s.packetNum + 1) s.mem.writes (BitVec.ofNat 8 portal) data
    let q := s.queues.get p.queue
    if 64 ≤ q.packets.length then .next (s.emit (.dmw .retry))
    else
      let s := s.modQueue p.queue fun q =>
        { q with packets := q.packets ++ [p], waitFrom := if q.packets.isEmpty then s.storeClk.toNat else q.waitFrom }
      .next ({ s with packetNum := s.packetNum + 1 }.emit (.dmw .success))

/-! ### Completion records (R417) -/

/-- Status codes of R417 beside those of Ops. -/
def statusOk : Nat := 0
/-- LOOPTAB. -/
def statusLooptab : Nat := 1
/-- RECORD. -/
def statusRecord : Nat := 2
/-- PAGE. -/
def statusPage : Nat := 3
/-- POISON. -/
def statusPoison : Nat := 4
/-- TENANCY. -/
def statusTenancy : Nat := 5

/-- The bytes of a completion record. -/
def completionBytes (usertag : Word) (status : Nat) (cause : BitVec 32) (id : Nat) (va : Word) : List Byte :=
  toBytes 8 usertag.toNat ++ [BitVec.ofNat 8 status, 0, 0, 0] ++ toBytes 4 cause.toNat ++ toBytes 8 id ++ toBytes 8 va.toNat

/-- Completes a packet (R417): the record is one release at PACKAGE after the accesses in `spans`, all of which it makes visible
there, and which later SERIAL packets of the queue follow (R415); then the interrupt. A record whose write faults is latched in FE_ERR with
the queue's number. -/
def State.completePacket (s : State) (p : Packet) (status : Nat) (cause : BitVec 32) (id : Nat) (va : Word) (spans : List Span) :
    State :=
  let s := s.modQueue p.queue fun q => { q with past := mergeNew q.past spans }
  match s.translateBytes Actor.host 0 p.ten Need.store p.cpl.toNat 32 with
  | (.error _, s) => s.latchFe 5 p.queue.val
  | (.ok pas, s) =>
    let seen : Published :=
      { spans := spans, who := { core := 0, sq := .X }, stamp := s.stamp, scope := .package, armed := true }
    let s := if spans.isEmpty then s else { s with mem := { s.mem with pubs := seen :: s.mem.pubs } }
    let s := s.writePas Actor.host (.release (s.releaseNow { core := none, spans := spans.map fun p => (some .package, p) }))
      ((pas.map Prod.fst).zip (completionBytes p.usertag status cause id va))
    if p.irq then s.emit (.msix p.queue.val) else s

/-- LAUNCH_COMPLETE (R93, R123, R259): a launch none of whose tuples runs or is still to be handed out completes; the cores that
ran one of its iterations unlock their segments. -/
def State.settleLaunch (s : State) (id : Nat) : State :=
  match s.launches.find? fun l => l.id == id with
  | none => s
  | some l =>
    if l.done = l.next ∧ (l.ending.isSome ∨ l.count ≤ l.next) then
      let s := { s with launches := s.launches.filter fun k => k.id != id }
      let s := (l.members.map Prod.fst).eraseDups.foldl State.unlockAll s
      let (st, cause, va) := l.ending.getD (statusOk, 0, 0)
      s.completePacket l.packet st cause l.id va l.past
    else s

/-! ### Launch records (R94, R95, R413, R414) -/

/-- The levels of a loop table (R94): kind and trip count. -/
def loopLevels (b : List Byte) : List (LevelKind × Nat) :=
  (List.range (recNat b 0 1)).map fun j =>
    (match recNat b (20 + 8 * j) 1 with
      | 0 => .temporal
      | 1 => .cores
      | _ => .dies, recNat b (16 + 8 * j) 4)

/-- Whether a loop table is rejected (R95, R99). -/
def loopBad (b : List Byte) : Bool :=
  let nlev := recNat b 0 1
  let deal := recNat b 1 1 % 2 == 1
  let base := recNat b 8 8
  let lv := loopLevels b
  let sp := lv.filter fun l => l.1 != .temporal
  let used := (List.range 6).filter fun j => decide (j < nlev)
  let unused := (List.range 6).filter fun j => decide (nlev ≤ j)
  decide (nlev < 1) || decide (6 < nlev) || decide (2 ≤ recNat b 1 1) || recNat b 2 6 != 0
    || used.any (fun j => recNat b (21 + 8 * j) 3 != 0 || decide (2 < recNat b (20 + 8 * j) 1))
    || unused.any (fun j => recNat b (16 + 8 * j) 8 != 0)
    || (!deal && base != 0) || decide (3 < lv.length - sp.length) || decide (4 < sp.length)
    || decide (2 ^ 32 - 1 < sp.foldl (fun (n : Nat) l => n * l.2) 1)
    || (deal && !(decide (sp.length = 1) && sp.all (fun l => l.1 == .cores) && base != 0 && decide (base % 64 = 0)))

/-- Whether a launch record has a reserved bit set or a field out of range (R413). -/
def launchBad (arg : Word) (b : List Byte) : Bool :=
  decide (arg.toNat % 64 ≠ 0) || decide (recNat b 80 1 / 16 % 8 ≠ 0) || recNat b 83 5 != 0 || recNat b 92 4 != 0
    || (List.range 4).any (fun i => recNat b (8 * i) 8 % 2 == 1 || decide (2 ^ 20 < recNat b (32 + 4 * i) 4))
    || (List.range 8).any (fun i => decide (63 < recNat b (48 + i) 1))
    || decide (recNat b 56 8 % 32 ≠ 0) || decide (recNat b 64 8 % 64 ≠ 0) || decide (recNat b 72 8 % 8 ≠ 0)
    || decide (32 < recNat b 81 1) || (recNat b 81 1 != 0 && recNat b 72 8 == 0)

/-- The core set of a record: the tenancy's CORES where it names none. -/
def State.recordCores (s : State) (ten : BitVec 8) (b : List Byte) : BitVec 256 :=
  let cs := BitVec.ofNat 256 (recNat b 96 32)
  if cs = 0 then (s.tens.get ten.toFin).cores else cs

/-- The rate of a record (R121): 1,000 × ENERGY / DUR of its tape, as the lowest-numbered core of its core set that holds it VALID has
them (R350); where it has measured no energy, the declared estimate, or PWR_DEFRATE. -/
def State.launchRate (s : State) (ten : BitVec 8) (b : List Byte) : Rate :=
  let cs := s.recordCores ten b
  let declared : Rate := { num := if recNat b 88 4 = 0 then s.fe.pwrDefrate.toNat else recNat b 88 4, den := 1 }
  let tape := fun (c : CoreId) => (s.core c).tapes.get (Fin.ofNat 16 (recNat b 80 1 % 16))
  match allCores.find? fun c => cs.getLsbD c.val && (tape c).st == .valid with
  | some c =>
    if recNat b 80 1 < 128 ∨ (tape c).energy = 0 ∨ (tape c).dur = 0 then declared
    else { num := 1000 * (tape c).energy, den := (tape c).dur }
  | none => declared

/-- Whether the sum of rates times widths is at most `limit` mW. -/
def ratesFit (limit : Nat) (rs : List (Rate × Nat)) : Bool :=
  let d := rs.foldl (fun m r => m * r.1.den) 1
  decide ((rs.map fun r => r.1.num * r.2 * (d / r.1.den)).sum ≤ limit * d)

/-- What reading an argument of a packet gives: the bytes, or the status and address that end it. -/
def State.readArg (s : State) (ten : BitVec 8) (va n : Nat) : Except (Nat × Nat) (List Byte) × State :=
  match s.translateBytes Actor.host 0 ten Need.load va n with
  | (.error f, s) => (.error (statusPage, f.va), s)
  | (.ok pas, s) =>
    let (bs, s) := s.readAs Actor.host (pas.map Prod.fst)
    match bs.findIdx? Prod.snd with
    | some i => (.error (statusPoison, va + i), s)
    | none => (.ok (bs.map Prod.fst), s)

/-- The status of a LAUNCH at its head (R414): the first row that applies, with the address of a failing read; or what it becomes a
candidate with, its rate for good: a later write of PWR_DEFRATE does not change it (DEDUCED, log entry 60). -/
def State.judgeLaunch (s : State) (p : Packet) : Except (Nat × Nat) Candidate × State :=
  match s.readArg p.ten p.arg.toNat 128 with
  | (.error e, s) => (.error e, s)
  | (.ok b, s) =>
    let (lr, s) := s.readArg p.ten (recNat b 64 8) 64
    let (pr, s) := if recNat b 72 8 = 0 then (.ok [], s) else s.readArg p.ten (recNat b 72 8) (8 * recNat b 81 1)
    match lr, pr with
    | .error e, .error e' => (.error (if e.1 = statusPage then e else e'), s)
    | .error e, _ => (.error e, s)
    | _, .error e => (.error e, s)
    | .ok lt, .ok pv =>
      let ten := recNat b 82 1
      if (ten ≠ 0 ∧ ten ≠ p.ten.toNat) ∨ s.recordCores p.ten b &&& ~~~(s.tens.get p.ten.toFin).cores ≠ 0 then
        (.error (statusTenancy, 0), s)
      else if launchBad p.arg b then (.error (statusRecord, 0), s)
      else if loopBad lt then (.error (statusLooptab, 0), s)
      else
        (.ok { bytes := b, looptab := lt, rate := s.launchRate p.ten b
               pvec := (List.range (recNat b 81 1)).map fun i => BitVec.ofNat 64 (recNat pv (8 * i) 8) }, s)

/-- The spatial trip product of a loop table. -/
def loopCount (b : List Byte) : Nat := ((loopLevels b).filter fun l => l.1 != .temporal).foldl (fun n l => n * l.2) 1

/-- LAUNCH_AT_HEAD (R414, R120): the record is read and checked; the packet becomes a candidate, or completes at once. -/
def execLaunchAtHead (n : Fin 256) (s : State) : Out :=
  match s.head n with
  | none => .next s
  | some p =>
    if p.op ≠ 1 ∨ p.record.isSome ∨ p.serial ∨ !s.fabricUp then .next s
    else
      let ends := fun (s : State) (st va : Nat) =>
        (((s.popHead n).countsAsDispatch n).completePacket p st 0 0 (BitVec.ofNat 64 va) [])
      match s.judgeLaunch p with
      | (.error (st, va), s) => .next (ends s st va)
      | (.ok c, s) =>
        if loopCount c.looptab = 0 then .next (ends s statusOk 0)
        else
          .next (s.modQueue n fun q => { q with packets := { p with record := some c } :: q.packets.drop 1 })

/-- SERIAL_WAIT_END (R414): every earlier packet of the queue has completed, so its SERIAL head goes on. -/
def execSerialWaitEnd (n : Fin 256) (s : State) : Out :=
  match s.head n with
  | none => .next s
  | some p =>
    if p.serial && s.earlierDone n then
      .next (s.modQueue n fun q => { q with packets := { p with serial := false, past := q.past } :: q.packets.drop 1 })
    else .next s

/-! ### Copies and markers (R416) -/

/-- COPY_BEGIN (R416): the packet leaves its queue and its control block is read. -/
def execCopyBegin (n : Fin 256) (s : State) : Out :=
  match s.head n with
  | none => .next s
  | some p =>
    if p.op ≠ 2 ∨ p.serial ∨ !s.fabricUp then .next s
    else
      let s := s.popHead n
      match s.readArg p.ten p.arg.toNat 32 with
      | (.error (st, va), s) => .next (s.completePacket p st 0 0 (BitVec.ofNat 64 va) [])
      | (.ok b, s) =>
        if recNat b 24 8 ≠ 0 ∨ 2 ^ 40 < recNat b 16 8 then .next (s.completePacket p statusRecord 0 0 0 [])
        else
          let j : CopyJob :=
            { id := p.num, packet := p, src := BitVec.ofNat 64 (recNat b 0 8), dst := BitVec.ofNat 64 (recNat b 8 8)
              len := recNat b 16 8 }
          .next { s with copies := s.copies ++ [j] }

/-- Translates `n` bytes page by page for the front end: each byte's address, none where its page faults; and the faults. -/
def State.copyUnits (s : State) (ten : BitVec 8) (need : Need) : Nat → Nat → Nat → List (Option Nat) × List PageFault × State
  | 0, _, _ => ([], [], s)
  | fuel + 1, va, n =>
    if n = 0 then ([], [], s)
    else
      let m := min n (65536 - va % 65536)
      let (here, f, s) :=
        match s.translateBytes Actor.host 0 ten need va m with
        | (.ok pas, s) => (pas.map fun (p : Nat × Nat) => some p.1, [], s)
        | (.error f, s) => (List.replicate m none, [f], s)
      let (rest, fs, s) := s.copyUnits ten need fuel (va + m) (n - m)
      (here ++ rest, f ++ fs, s)

/-- A free choice of pieces, the first among them. -/
def State.somePieces (s : State) : List Nat → List Nat × State
  | [] => ([], s)
  | g :: gs => gs.foldl (fun acc h => let (b, s) := acc.2.freeBit; (if b then acc.1 ++ [h] else acc.1, s)) ([g], s)

/-- Keeps a free choice of writes: those that a copy ending with an error performed before it. -/
def State.someWrites (s : State) : List (Nat × Byte) → List (Nat × Byte) × State
  | [] => ([], s)
  | w :: ws =>
    let (b, s) := s.freeBit
    let (rest, s) := s.someWrites ws
    (if b then w :: rest else rest, s)

/-- The party that makes the accesses of a copy: CORE accesses, known by the packet's number (R415, R416). -/
def CopyJob.actor (j : CopyJob) : Actor := { Actor.host with stamp := j.packet.num }

/-- The writes of a copy. -/
def CopyJob.span (j : CopyJob) : Span := { src := none, cls := .core, lo := j.packet.num, hi := j.packet.num, host := true }

/-- A copy as it goes on. -/
def State.setCopy (s : State) (j : CopyJob) : State := { s with copies := s.copies.map fun k => if k.id == j.id then j else k }

/-- The copy's translations: what it has to read and write, and the faults. -/
def State.planCopy (s : State) (j : CopyJob) : State :=
  let fuel := j.len / 65536 + 2
  let (sp, fs, s) := s.copyUnits j.packet.ten Need.load fuel j.src.toNat j.len
  let (dp, fd, s) := s.copyUnits j.packet.ten Need.store fuel j.dst.toNat j.len
  let todo := (List.range j.len).filterMap fun i =>
    match sp[i]?, dp[i]? with
    | some (some a), some (some b) => some (i, a, b)
    | _, _ => none
  s.setCopy { j with todo := some todo, errs := (fs ++ fd).map fun f => (statusPage, f.va) }

/-- Some pieces of the copy's source are read (R225). -/
def State.readCopy (s : State) (j : CopyJob) (todo : List (Nat × Nat × Nat)) : State :=
  let (gs, s) := s.somePieces (todo.map fun p => p.2.1 / 8).eraseDups
  let now := todo.filter fun p => gs.contains (p.2.1 / 8)
  let (bs, s) := s.readAs j.actor (now.map fun p => p.2.1)
  let got := now.zip bs
  s.setCopy { j with
    todo := some (todo.filter fun p => !gs.contains (p.2.1 / 8))
    got := j.got ++ (got.filter fun g => !g.2.2).map fun g => (g.1.2.2, g.2.1)
    errs := j.errs ++ (got.filter fun g => g.2.2).map fun g => (statusPoison, j.src.toNat + g.1.1) }

/-- Ends a copy. -/
def State.endCopy (s : State) (j : CopyJob) (e : Nat × Nat) : State :=
  { s with copies := s.copies.filter fun k => k.id != j.id }.completePacket j.packet e.1 0 0 (BitVec.ofNat 64 e.2) [j.span]

/-- Some pieces of the copy's destination are written; a sector that it covers whole in one (R396). -/
def State.writeCopy (s : State) (j : CopyJob) : State :=
  let secs := fun (w : Nat × Byte) => if covers j.got (w.1 / 32) then w.1 / 32 * 4 else w.1 / 8
  let (gs, s) := s.somePieces (j.got.map secs).eraseDups
  let s := s.writePas j.actor .plain (j.got.filter fun w => gs.contains (secs w))
  let left := j.got.filter fun w => !gs.contains (secs w)
  if left.isEmpty then s.endCopy j (statusOk, 0) else s.setCopy { j with got := left }

/-- COPY_COMPLETE (R416): the copy goes on, its pieces in any order and accesses of other parties between them (R225); every byte is read
before one is written, so that each is as its source was before the copy (R293); with the last piece the packet completes. After a fault or
a poisoned read, some of the other bytes have been written (the choice is free) and nothing of the poisoned ones. -/
def execCopyComplete (id : Nat) (s : State) : Out :=
  match s.copies.find? fun j => j.id == id with
  | none => .next s
  | some j =>
    match j.todo with
    | none => .next (s.planCopy j)
    | some (p :: ps) => .next (s.readCopy j (p :: ps))
    | some [] =>
      if j.errs.isEmpty then .next (if j.got.isEmpty then s.endCopy j (statusOk, 0) else s.writeCopy j)
      else
        let (ws, s) := s.someWrites j.got
        let (k, s) := s.freeNat
        .next ((s.writePas j.actor .plain ws).endCopy j (j.errs.getD (k % j.errs.length) (statusPage, 0)))

/-- MARK_COMPLETE (R416): a MARK at its head completes once every earlier packet of its queue has. -/
def execMarkComplete (n : Fin 256) (s : State) : Out :=
  match s.head n with
  | none => .next s
  | some p =>
    if p.op = 3 ∧ s.earlierDone n ∧ s.fabricUp then .next ((s.popHead n).completePacket p statusOk 0 0 0 []) else .next s

/-! ### Ageing, the decision and admission (R118 to R124) -/

/-- Whether a queue rises at the check of R118. -/
def State.ages (s : State) (q : Queue) : Bool :=
  q.enabled && !q.packets.isEmpty && decide (q.level ≤ 5)
    && (let a := (s.fe.age.get (Fin.ofNat 6 q.level)).toNat; decide (a ≠ 0) && decide (a < s.storeClk.toNat - q.waitFrom))

/-- AGEING_CHECK (R118). -/
def execAgeingCheck (s : State) : Out :=
  .next { s with queues := s.queues.map fun q => if s.ages q then q.setLevel (q.level + 1) s.storeClk.toNat else q }

/-- The queues whose head is a candidate (R119 step 1). -/
def State.candidateQueues (s : State) : List (Fin 256) :=
  (List.finRange 256).filter fun n => (s.head n).any fun p => p.op == 1 && p.record.isSome && !p.serial

/-- The queue chosen at a decision (R119 steps 1 and 2). -/
def State.chosenQueue (s : State) : Option (Fin 256) :=
  let qs := s.candidateQueues
  let lv := fun (n : Fin 256) => (s.queues.get n).level
  let top := qs.foldl (fun m n => max m (lv n)) 0
  let at_ := qs.filter fun n => lv n == top
  match s.lastQueue.get (Fin.ofNat 8 top) with
  | none => at_.head?
  | some l => ((at_.filter fun n => decide (l.val < n.val)) ++ at_.filter fun n => decide (n.val ≤ l.val)).head?

/-- The host's writes performed before the packet was accepted (R415). -/
def Packet.hostSpan (p : Packet) : Span := { src := none, cls := .core, lo := 0, hi := 0, perf := some p.perf, host := true }

/-- The launch that a candidate becomes (R90, R96, R100, R121, R413, R415). -/
def State.launchFrom (s : State) (p : Packet) (c : Candidate) (level : Nat) : Launch :=
  let b := c.bytes
  let cs := s.recordCores p.ten b
  let cores := allCores.filter fun i => cs.getLsbD i.val
  let count := loopCount c.looptab
  let width := min count cores.length
  let l : Launch :=
    { id := s.fe.launchSeq.toNat + 1, packet := p, level := level
      ent := (List.range 4).map fun i => BitVec.ofNat 64 (recNat b (8 * i) 8)
      ext := (List.range 4).map fun i => recNat b (32 + 4 * i) 4, tok := (List.range 8).map fun i => recNat b (48 + i) 1
      htab := BitVec.ofNat 64 (recNat b 56 8), looptab := c.looptab, levels := loopLevels c.looptab
      deal := if recNat c.looptab 1 1 % 2 = 1 then some (BitVec.ofNat 64 (recNat c.looptab 8 8)) else none
      tape := if 128 ≤ recNat b 80 1 then some (Fin.ofNat 16 (recNat b 80 1)) else none, pvec := c.pvec, coreset := cores
      rate := c.rate, width := width
      dieWidth := (List.finRange 4).map fun d => min width (cores.filter fun i => dieOf i == d).length
      count := count, next := 0, done := 0, lastCore := none, multiWave := false, since := s.stamp, members := [], arrived := []
      barKnow := [], released := 0, solo := false, start := p.hostSpan :: p.past, past := [], ending := none, waitFrom := none }
  { l with multiWave := l.needsWaves }

/-- The power admission test (R121): rates in mW, limits in W. -/
def State.admits (s : State) (l : Launch) : Bool :=
  let ls := s.launches ++ [l]
  decide (s.fe.pwrStatic.toNat ≤ min s.fe.pwrBudget.toNat 2800)
    && ratesFit ((min s.fe.pwrBudget.toNat 2800 - s.fe.pwrStatic.toNat) * 1000) (ls.map fun k => (k.rate, k.width))
    && (List.finRange 4).all fun d =>
      ratesFit ((s.fe.dieCap.get d).toNat * 1000) (ls.map fun k => (k.rate, k.dieWidth.getD d.val 0))

/-- DISPATCH_DECISION (R119 to R124): at most one launch is dispatched, every 16 cycles. One admitted alone above its limit runs alone
until it completes: until then every candidate is refused (R122). -/
def execDispatchDecision (s : State) : Out :=
  if s.cycle % 16 ≠ 0 ∨ !s.fabricUp ∨ 16 ≤ s.launches.length then .next s
  else
    match s.chosenQueue with
    | none => .next s
    | some n =>
      match s.head n with
      | some { record := some c, .. } =>
        let p := ((s.head n).getD (packetOf 0 0 0 []))
        let lv := (s.queues.get n).level
        let l := s.launchFrom p c lv
        let fits := s.admits l
        if !s.launches.isEmpty && (!fits || s.launches.any Launch.solo) then
          .next (s.setFe fun f => { f with admitRefusals := f.admitRefusals + 1 })
        else
          let s := (s.popHead n).countsAsDispatch n
          .next { s with
            launches := s.launches ++ [{ l with solo := !fits }]
            lastQueue := s.lastQueue.set (Fin.ofNat 8 lv).val (some n) (Fin.ofNat 8 lv).isLt
            fe := { s.fe with launchSeq := s.fe.launchSeq + 1 } }
      | _ => .next s

/-! ### The walker (R96, R97, R124) -/

/-- TUPLE_HANDOUT (R97, R124): the walker gives the next tuple of a launch to the core it chooses, when no launch offered that core
before it takes it; a tuple that finds no free candidate begins to wait. -/
def execTupleHandout (launch : Nat) (s : State) : Out :=
  match s.launches.find? fun l => l.id == launch with
  | none => .next s
  | some l =>
    match s.choice l with
    | none =>
      if l.ending.isNone && decide (l.next < l.count) && l.waitFrom.isNone then
        .next (s.modLaunch launch fun l => { l with waitFrom := some s.time })
      else .next s
    | some c =>
      if s.receiver c ≠ some launch then .next s
      else
        let s := s.modCore c fun k =>
          { k with iter := some { launch := launch, tuple := l.next, ten := l.packet.ten, tape := l.tape, started := false }
                   suspended := k.suspended.map fun u => { u with given := true } }
        .next (s.modLaunch launch fun l =>
          { l with next := l.next + 1, lastCore := some c, waitFrom := none, members := l.members ++ [(c, l.next, false)]
                   arrived := l.arrived.filter fun a => a.1 != c })

/-! ### Iterations (R91 to R93, R145) -/

/-- What the accesses of a launch, of every class, are ordered after (R415). -/
def Launch.startKnow (l : Launch) : Know :=
  { Know.none with reads := allClasses.flatMap fun k => l.start.map fun p => (k, p) }

/-- A sequencer at iteration start (R91, R92, R98, R415). -/
def Seq.begin (v : Seq) (ent : Word) (ext : Nat) (trips : List Nat) (discard : Nat) (start : Know) : Seq :=
  { Seq.reset with
    pc := ent, entry := ent, extent := ext, ended := ext == 0
    lc := Vector.ofFn fun d => BitVec.ofNat 32 (trips.getD d.val 0)
    discard := discard, know := v.know.merge start, eventLatch := v.eventLatch }

/-- The core's state at iteration start (R15, R92, R98, R127, R191, R343, R345, R372). -/
def Core.begin (c : Core) (l : Launch) (it : Iter) (trapvec : Word) (discard now : Nat) : Core :=
  let k := l.kvals it.tuple
  let xEnds := l.ext.getD 0 0 == 0
  { (c.modSeqs fun q v =>
      v.begin (l.ent.getD (sqIndex q) 0) (l.ext.getD (sqIndex q) 0) l.temporal discard l.startKnow) with
    h := Vector.replicate 8 0
    hLate := []
    k := Vector.ofFn fun i => k.getD i.val 0
    tokens := Vector.ofFn fun i => List.replicate (l.tok.getD i.val 0) Know.none
    rising := [], flights := [], snap := [], spadHist := []
    arb := [], pv := Vector.ofFn fun i => l.pvec.getD i.val 0
    trapvec := trapvec, ramp := .cold, gangCount := 0, gang := none, barCount := 0, barWaiting := false
    tapePhase := if l.tape.isNone || xEnds then .free else .held
    tapeBegun := none, tapeEnded := false, tapeLines := [], replayTape := none, replayIssue := none, replayFault := false
    stop := none, preempt := none, iter := some { it with started := true, since := now }, lastLaunch := some it.launch }

/-- HANDLE_TABLE_LOAD (R145): the status and address that end the iteration, or none. The table keeps its old entries where the load
does not deliver one whole (log entry 85). -/
def State.loadHandles (s : State) (c : CoreId) (l : Launch) : Option (Nat × Nat) × State :=
  let a : Actor := { who := none, cls := .core, stamp := s.stamp, know := Know.none }
  match s.translateBytes a c l.packet.ten Need.load l.htab.toNat 8192 with
  | (.error f, s) => (some (statusPage, f.va), s)
  | (.ok pas, s) =>
    let (bs, s) := s.coreRead c (s.ordered a) (pas.map Prod.fst)
    let s := s.modCore c fun k => { k with htgen := k.htgen + 1 }
    match bs.findIdx? Prod.snd with
    | some i => (some (statusPoison, l.htab.toNat + i), s)
    | none =>
      let es := (List.range 256).map fun i => loadHandle (BitVec.ofNat 256 (recNat (bs.map Prod.fst) (32 * i) 32))
      (none, s.modCore c fun k => { k with handles := Vector.ofFn fun i => es.getD i.val 0, handleBad := [] })

/-- ITERATION_START (R92): segments locked for another launch are unlocked (R259), tapes of another tenancy become EMPTY (R344), the
handle table is loaded where R145 asks for it, and the core's state is set. -/
def execIterationStart (c : CoreId) (s : State) : Out :=
  match (s.core c).iter, s.launchOf c with
  | some it, some l =>
    if it.started then .next s
    else
      let other := (s.core c).lastLaunch != some it.launch
      let s := if other then s.unlockAll c else s
      let s := (List.finRange 16).foldl (fun s t =>
        let tp := (s.core c).tapes.get t
        if tp.st != .empty && tp.ten != it.ten then s.emptyTape c t 7 else s) s
      let (r, s) := if other && l.htab != 0 then s.loadHandles c l else (none, s)
      let s := s.modCore c fun k => k.begin l it (s.tens.get it.ten.toFin).trapvec s.mem.writes s.stamp
      match r with
      | none => .next s
      | some (st, va) => .next (s.endIteration c st 0 (BitVec.ofNat 64 va))
  | _, _ => .next s

/-- Whether a core has finished its iteration (R93). -/
def Core.finished (c : Core) : Bool :=
  (c.iter.any Iter.started) && ring.all (fun q => (c.seq q).ended) && c.flights.isEmpty && c.snap.isEmpty
    && c.cmds.isEmpty && c.matWrites.isEmpty && c.stop.isNone && !c.replayFault && !c.inTrap

/-- The accesses of a core's sequencers that are on their way are performed, and its merged AMOs sent. -/
def State.finishAccesses (s : State) (c : CoreId) : State :=
  let s := s.flushCore c
  (s.pending.filter fun h => h.core == some c && h.far.isNone).foldl State.performPend s

/-- ITERATION_FINISH (R93, R378, R427): contributions in the combining buffer are sent, and with the other accesses of the core performed
(log entry 84); the items that the core holds are acknowledged (R102), a pending request lapses, and the core is free; with its last
iteration the launch completes. -/
def execIterationFinish (c : CoreId) (s : State) : Out :=
  let k := s.core c
  match k.iter with
  | none => .next s
  | some it =>
    if !k.finished then .next s
    else
      let s := s.finishAccesses c
      if !(s.core c).pend.isEmpty then .next s
      else
        let s := s.modCore c Core.clearIteration
        let s := s.modLaunch it.launch fun l =>
          { l with done := l.done + 1
                   past := l.past ++ it.spans c s.stamp
                   members := l.members.map fun m => if m.1 == c && m.2.1 == it.tuple then (c, it.tuple, true) else m }
        .next (s.settleLaunch it.launch)

/-! ### Requests for pre-emption (R376) -/

/-- The core to which a request for a launch's waiting tuple goes: of the candidates that run a launch of a lower level and may be
asked, the one with the lowest level, then the lowest number. -/
def State.preemptTarget (s : State) (l : Launch) : Option CoreId :=
  let levelOf := fun (c : CoreId) => (s.launchOf c).map Launch.level
  let may := fun (c : CoreId) =>
    let k := s.core c
    k.preempt.isNone && !k.inTrap && k.suspended.isNone && (k.iter.any Iter.started) && (levelOf c).any fun v => decide (v < l.level)
  let cs := (l.candidates l.next).filter may
  let low := cs.foldl (fun m c => min m ((levelOf c).getD 8)) 8
  cs.find? fun c => levelOf c == some low

/-- Whether a launch's next tuple has waited for PRE_WAIT µs with no request outstanding for it. -/
def State.preemptWanted (s : State) (l : Launch) : Bool :=
  s.fe.preWait != 0 && l.ending.isNone && decide (l.next < l.count)
    && (l.waitFrom.any fun t => s.microsSince t s.fe.preWait.toNat)
    && !allCores.any fun c => (s.core c).preempt.any fun p => p.launch == l.id

/-- PREEMPT_REQUEST (R376). -/
def execPreemptRequest (launch : Nat) (c : CoreId) (s : State) : Out :=
  match s.launches.find? fun l => l.id == launch with
  | none => .next s
  | some l =>
    if s.preemptWanted l && s.preemptTarget l == some c then
      .next (s.modCore c fun k => { k with preempt := some { launch := launch, cycle := s.cycle, capture := none } })
    else .next s

end Sys2Proof.Machine
end

