-- ==== Sys2Proof/Machine/LoadStore.lean ====
section
/-!
DEFINITION. Memory, atomic, fence and node translation instructions (12_memory_ops.md), and the reduction windows (R424 to R428).
-/
namespace Sys2Proof.Machine

/-! ### Scalar loads and stores (R228, R242 to R244) -/

/-- The need of a scalar access of `n` bytes at `ea`: a plain one of 4 or 8 aligned bytes may reach device registers (R243). -/
def scalarNeed (need : Need) (plain : Bool) (ea n : Nat) : Need :=
  { need with scalar := plain && decide (4 ≤ n) && decide (ea % n = 0) }

/-- The effective address of a scalar access (R242): the exact sum. -/
def loadEa (v : Seq) (a : Reg) (z : Sz) (o : BitVec 3) : Nat := (v.rg a).toNat + o.toNat * 2 ^ z.code

/-- The device register that bytes translate to (R243): its physical address. -/
def deviceAt (pas : List (Nat × Nat)) : Option Nat := (pas.find? fun p => p.2 == 1).map Prod.fst

/-- A load's access: its bytes with their places go to the result just sent into flight, piece by piece (R225). -/
def State.loadAccess (s : State) (cx : Cx) (acq : Bool) (ea sx : Nat) (bytes : List (Nat × Nat)) : State :=
  let h := { cx.access s 0 ea bytes [] with acq := acq }
  (s.awaiting cx h.split.length sx).access h

/-- A store's access, each piece of a release being one (R225, R246). -/
def State.storeAccess (s : State) (cx : Cx) (rel : Bool) (ea : Nat) (bytes : List (Nat × Nat)) (data : List Byte) : State :=
  s.access { cx.access s 1 ea bytes data with rel := if rel then some (s.releaseOf cx.who) else none }

/-- A scalar load: `sgn` sign-extends, `acq` is an acquire. A device register is read after every earlier CORE access of the sequencer
(R228). -/
def loadScalar (i : Instr) (x : Ctl) (sgn acq : Bool) (d a : Reg) (z : Sz) (o : BitVec 3) (s : State) : Out :=
  issue { x := x, minLat := 7, gsrc := [a], gdst := [d], cls := .varying, tape := if acq then .abandon else .quiet, acc := [.core]
          enc := encode i }
    (fun cx s =>
      let n := 2 ^ z.code
      let ea := loadEa (s.seq cx.who) a z o
      if acq && decide (ea % n ≠ 0) then .trap Trap.illegal
      else
        match s.translateBytes (cx.actor s) cx.who.core (s.tenOf cx.who.core) (scalarNeed Need.load (!acq) ea n) ea n with
        | (.error f, s) => .fault s (Trap.page f)
        | (.ok pas, s) =>
          let sx := if sgn then 8 * n else 0
          let (lat, s) := s.freeNat
          let s := fun (v : Nat) => s.fly cx (s.cycle + 1 + Config.latency lat) false [.g d (BitVec.ofNat 64 v)]
          match deviceAt pas with
          | some pa =>
            if cx.s0.amoOut cx.who then .stall cx.s0
            else
              let got := (List.range n).zip (toBytes n ((s 0).feLoad (pa - regBase) n))
              .done ((s (valueOf got sx)).armPubs (cx.actor (s 0))) .next true
          | none => .done ((s 0).loadAccess cx acq ea sx ((pas.map Prod.fst).zip (List.range n))) .next true) s

/-- LD (R242). -/
def execLd (d a : Reg) (z : Sz) (h : Hint) (o : BitVec 3) (x : Ctl) (s : State) : Out :=
  loadScalar (.ld d a z h o x) x false false d a z o s

/-- LDS (R242). -/
def execLds (d a : Reg) (z : Sz) (h : Hint) (o : BitVec 3) (x : Ctl) (s : State) : Out :=
  loadScalar (.lds d a z h o x) x true false d a z o s

/-- LD.ACQ (R242, R244). -/
def execLdAcq (d a : Reg) (z : Sz) (h : Hint) (o : BitVec 3) (x : Ctl) (s : State) : Out :=
  loadScalar (.ldAcq d a z h o x) x false true d a z o s

/-- A scalar store; `rel` is a release. -/
def storeScalar (i : Instr) (x : Ctl) (rel : Bool) (d a : Reg) (z : Sz) (o : BitVec 3) (s : State) : Out :=
  issue { x := x, gsrc := [d, a], tape := .abandon, acc := [.core], rel := rel, enc := encode i }
    (fun cx s =>
      let n := 2 ^ z.code
      let v := s.seq cx.who
      let ea := loadEa v a z o
      if rel && decide (ea % n ≠ 0) then .trap Trap.illegal
      else
        match s.translateBytes (cx.actor s) cx.who.core (s.tenOf cx.who.core) (scalarNeed Need.store (!rel) ea n) ea n with
        | (.error f, s) => .fault s (Trap.page f)
        | (.ok pas, s) =>
          match deviceAt pas with
          | some pa =>
            if cx.s0.amoOut cx.who then .stall cx.s0
            else .done ((s.armPubs (cx.actor s)).feStore (pa - regBase) n ((v.rg d).toNat % 256 ^ n)) .next false
          | none =>
            .done (s.storeAccess cx rel ea ((pas.map Prod.fst).zip (List.range n)) (toBytes n (v.rg d).toNat)) .next false) s

/-- ST (R242). -/
def execSt (d a : Reg) (z : Sz) (h : Hint) (o : BitVec 3) (x : Ctl) (s : State) : Out :=
  storeScalar (.st d a z h o x) x false d a z o s

/-- ST.REL (R242, R244). -/
def execStRel (d a : Reg) (z : Sz) (h : Hint) (o : BitVec 3) (x : Ctl) (s : State) : Out :=
  storeScalar (.stRel d a z h o x) x true d a z o s

/-! ### Row loads and stores (R245, R246) -/

/-- Translates the selected bytes of a row, page by page: a page with no selected byte is not accessed. Answers each byte's
physical address and place. -/
def State.translateRow (s : State) (a : Actor) (c : CoreId) (ten : BitVec 8) (need : Need) (ea : Nat) :
    List (List Nat) → Except PageFault (List (Nat × Nat)) × State
  | [] => (.ok [], s)
  | [] :: rest => s.translateRow a c ten need ea rest
  | (i :: is) :: rest =>
    let last := (i :: is).getLastD i
    match s.translateBytes a c ten need (ea + i) (last + 1 - i) with
    | (.error f, s) => (.error f, s)
    | (.ok pas, s) =>
      match s.translateRow a c ten need ea rest with
      | (.error f, s) => (.error f, s)
      | (.ok more, s) => (.ok ((i :: is).map (fun j => ((pas.getD (j - i) (0, 0)).1, j)) ++ more), s)

/-- The selected bytes of a row at `ea`, split at its page boundary. -/
def rowPages (ea : Nat) (m : Mask) : List (List Nat) :=
  let sel := (List.range 512).filter m.getLsbD
  [sel.filter fun i => (ea + i) / 65536 == ea / 65536, sel.filter fun i => (ea + i) / 65536 != ea / 65536]

/-- The effective address of a row access. -/
def rowEa (v : Seq) (a : Reg) (o : BitVec 3) : Nat := (v.rg a).toNat + o.toNat * 512

/-- The bytes of the lanes that m0 selects (R157). -/
def Core.laneBytes (c : Core) : Mask :=
  laneMask c.lane.w ((List.range c.lane.n).map fun i => selects (c.mask 0) c.lane.w i)

/-- A row load. -/
def loadRow (i : Instr) (x : Ctl) (acq : Bool) (v : VReg) (a : Reg) (o : BitVec 3) (s : State) : Out :=
  issue { x := x, minLat := 7, issuers := [.C], gsrc := [a], wide := fun _ => [.mask 0], wdst := fun c => [.row (c.vrow v)]
          tape := .command, acc := [.core], enc := encode i }
    (fun cx s =>
      let k := s.core cx.who.core
      let ea := rowEa (s.seq cx.who) a o
      let en := k.laneBytes
      if ea % 64 ≠ 0 then .trap Trap.illegal
      else
        match s.translateRow (cx.actor s) cx.who.core (s.tenOf cx.who.core) Need.load ea (rowPages ea en) with
        | (.error f, s) => .fault s (Trap.page f)
        | (.ok pas, s) =>
          let (lat, s) := s.freeNat
          let s := s.fly cx (s.cycle + 1 + Config.latency lat) false [{ dest := .row (k.vrow v), value := 0, en := en, flags := 0 }]
          .done (s.loadAccess cx acq ea 0 pas) .next true) s

/-- VLDG (R246). -/
def execVldg (v : VReg) (a : Reg) (h : Hint) (o : BitVec 3) (x : Ctl) (s : State) : Out :=
  loadRow (.vldg v a h o x) x false v a o s

/-- VLDG.ACQ (R246). -/
def execVldgAcq (v : VReg) (a : Reg) (h : Hint) (o : BitVec 3) (x : Ctl) (s : State) : Out :=
  loadRow (.vldgAcq v a h o x) x true v a o s

/-- A row store. -/
def storeRow (i : Instr) (x : Ctl) (rel : Bool) (v : VReg) (a : Reg) (o : BitVec 3) (s : State) : Out :=
  issue { x := x, issuers := [.C], gsrc := [a], wide := fun c => [.row (c.vrow v), .mask 0], tape := .command, acc := [.core]
          rel := rel, enc := encode i }
    (fun cx s =>
      let k := s.core cx.who.core
      let ea := rowEa (s.seq cx.who) a o
      if ea % 64 ≠ 0 then .trap Trap.illegal
      else
        match s.translateRow (cx.actor s) cx.who.core (s.tenOf cx.who.core) Need.store ea (rowPages ea k.laneBytes) with
        | (.error f, s) => .fault s (Trap.page f)
        | (.ok pas, s) =>
          let row := k.rowBytes (k.vrow v)
          .done ((s.noteRows cx.who.core [k.vrow v]).storeAccess cx rel ea pas (pas.map fun p => BitVec.ofNat 8 (row / 256 ^ p.2)))
            .next false) s

/-- VSTG (R246). -/
def execVstg (v : VReg) (a : Reg) (h : Hint) (o : BitVec 3) (x : Ctl) (s : State) : Out :=
  storeRow (.vstg v a h o x) x false v a o s

/-- VSTG.REL (R246). -/
def execVstgRel (v : VReg) (a : Reg) (h : Hint) (o : BitVec 3) (x : Ctl) (s : State) : Out :=
  storeRow (.vstgRel v a h o x) x true v a o s

/-! ### Atomics (R247 to R251, R425, R426) -/

/-- Whether an address lies in an enabled reduction window (R424). -/
def State.inWindow (s : State) (pa : Nat) : Bool :=
  (windows s.fe.rwbase s.fe.rwlim).any fun w => decide (w.1 ≤ pa) && decide (pa < w.1 + w.2)

/-- Places a combinable AMO in its die's combining buffer (R426): it is performed when the merged one is (R428). -/
def State.combineAmo (s : State) (cx : Cx) (op sz pa x : Nat) : State :=
  let c := cx.who.core
  let die := dieOf c
  let bit : BitVec 64 := 1#64 <<< (c.val % 64)
  let part := (cx.who, cx.stamp)
  let mine := fun (e : CombineEntry) => e.pa == pa && e.sz == sz && e.op == op
  let s := s.modCore c fun k => { k with pend := k.pend ++ [{ cls := .core, sq := cx.who.sq, id := cx.stamp }] }
  let es := s.combine.get die
  if es.any mine then
    { s with
      combine := s.combine.set die.val (es.map fun e =>
        if mine e then
          { e with value := BitVec.ofNat 64 (amoInt op (2 ^ sz) e.value.toNat x 0), mask := e.mask ||| bit, parts := e.parts ++ [part] }
        else e) die.isLt
      fe := { s.fe with rwMerged := s.fe.rwMerged + 1 } }
  else
    let s := s.flushWhere die fun e => overlap (e.pa, 2 ^ e.sz) (pa, 2 ^ sz)
    let s := match s.combine.get die with
      | [] => s
      | e :: rest => if 63 ≤ rest.length then s.flushEntry die e else s
    let new : CombineEntry :=
      { pa := pa, sz := sz, op := op, value := BitVec.ofNat 64 x, mask := bit, parts := [part], ten := s.tenOf c, since := s.cycle }
    { s with combine := s.combine.set die.val (s.combine.get die ++ [new]) die.isLt }

/-- The result of an atomic goes into flight; its push does not wait for it (R241 point 6). -/
def State.flyAtomic (s : State) (cx : Cx) (notBefore : Nat) (d : Reg) : State :=
  s.fly { cx with x := { cx.x with sf := false, sb := false } } notBefore false [.g d 0]

/-- An atomic of a sequencer at its line's bank: `op` is the operation of R247 with AR (32 and 33 are those of R251), `ar` makes it a release
and an acquire; `y` is the replacement of CAS. -/
def atomicAt (cx : Cx) (d : Reg) (ar : Bool) (op sz ea pa x y : Nat) (s : State) : Act :=
  let (lat, s) := s.freeNat
  let s := (s.flyAtomic cx (s.cycle + 1 + Config.latency lat) d).awaiting cx 1 0
  .done (s.access
    { cx.access s 2 ea ((List.range (2 ^ sz)).map fun i => (pa + i, i)) (toBytes 8 x ++ toBytes 8 y) with
      op := op, sz := sz, acq := ar, rel := if ar then some (s.releaseOf cx.who) else none }) .next false

/-- AMO (R247, R248): operation `op`; inside an enabled window a combinable one goes to the combining buffer and lands 0 (R425). -/
def amo (i : Instr) (x : Ctl) (op : Nat) (d a : Reg) (r : Bool) (z : Sz) (s : State) : Out :=
  issue { x := x, minLat := 7, gsrc := if op = 9 then [d, a, regNext d] else [d, a], gdst := [d], cls := .varying, tape := .abandon
          acc := [.core], rel := r, enc := encode i }
    (fun cx s =>
      let n := 2 ^ z.code
      let v := s.seq cx.who
      let ea := (v.rg a).toNat
      let opnd := (v.rg d).toNat % 256 ^ n
      if ea % n ≠ 0 then .trap Trap.illegal
      else
        match s.translateBytes (cx.actor s) cx.who.core (s.tenOf cx.who.core) Need.amo ea n with
        | (.error f, s) => .fault s (Trap.page f)
        | (.ok pas, s) =>
          let pa := (pas.headD (0, 0)).1
          if !r && decide (op ≤ 7) && s.inWindow pa then
            .done (((s.armPubs (cx.actor s)).combineAmo cx op z.code pa opnd).flyAtomic cx (s.cycle + 1) d) .next false
          else atomicAt cx d r (op + (if r then 16 else 0)) z.code ea pa opnd ((v.rg (regNext d)).toNat % 256 ^ n) s) s

/-- AMO.ADD (R247). -/
def execAmoAdd (d a : Reg) (r : Bool) (z : Sz) (x : Ctl) (s : State) : Out := amo (.amoAdd d a r z x) x 0 d a r z s
/-- AMO.AND (R247). -/
def execAmoAnd (d a : Reg) (r : Bool) (z : Sz) (x : Ctl) (s : State) : Out := amo (.amoAnd d a r z x) x 1 d a r z s
/-- AMO.OR (R247). -/
def execAmoOr (d a : Reg) (r : Bool) (z : Sz) (x : Ctl) (s : State) : Out := amo (.amoOr d a r z x) x 2 d a r z s
/-- AMO.XOR (R247). -/
def execAmoXor (d a : Reg) (r : Bool) (z : Sz) (x : Ctl) (s : State) : Out := amo (.amoXor d a r z x) x 3 d a r z s
/-- AMO.MIN (R247). -/
def execAmoMin (d a : Reg) (r : Bool) (z : Sz) (x : Ctl) (s : State) : Out := amo (.amoMin d a r z x) x 4 d a r z s
/-- AMO.MAX (R247). -/
def execAmoMax (d a : Reg) (r : Bool) (z : Sz) (x : Ctl) (s : State) : Out := amo (.amoMax d a r z x) x 5 d a r z s
/-- AMO.MINU (R247). -/
def execAmoMinu (d a : Reg) (r : Bool) (z : Sz) (x : Ctl) (s : State) : Out := amo (.amoMinu d a r z x) x 6 d a r z s
/-- AMO.MAXU (R247). -/
def execAmoMaxu (d a : Reg) (r : Bool) (z : Sz) (x : Ctl) (s : State) : Out := amo (.amoMaxu d a r z x) x 7 d a r z s
/-- AMO.SWAP (R247). -/
def execAmoSwap (d a : Reg) (r : Bool) (z : Sz) (x : Ctl) (s : State) : Out := amo (.amoSwap d a r z x) x 8 d a r z s
/-- AMO.CAS (R247). -/
def execAmoCas (d a : Reg) (r : Bool) (z : Sz) (x : Ctl) (s : State) : Out := amo (.amoCas d a r z x) x 9 d a r z s
/-- AMO.FADD (R247, R249). -/
def execAmoFadd (d a : Reg) (r : Bool) (z : Sz) (x : Ctl) (s : State) : Out := amo (.amoFadd d a r z x) x 10 d a r z s

/-- PLNST (R251): `op` 32 is OR, 33 is AND. -/
def planeStore (i : Instr) (x : Ctl) (op : Nat) (d a : Reg) (s : State) : Out :=
  issue { x := x, minLat := 7, gsrc := [d, a], gdst := [d], cls := .varying, tape := .abandon, acc := [.core], enc := encode i }
    (fun cx s =>
      let v := s.seq cx.who
      let ea := (v.rg a).toNat
      match s.translateBytes (cx.actor s) cx.who.core (s.tenOf cx.who.core) Need.amo ea 1 with
      | (.error f, s) => .fault s (Trap.page f)
      | (.ok pas, s) => atomicAt cx d false op 0 ea (pas.headD (0, 0)).1 ((v.rg d).toNat % 256) 0 s) s

/-- PLNST.OR (R251). -/
def execPlnstOr (d a : Reg) (x : Ctl) (s : State) : Out := planeStore (.plnstOr d a x) x 32 d a s

/-- PLNST.AND (R251). -/
def execPlnstAnd (d a : Reg) (x : Ctl) (s : State) : Out := planeStore (.plnstAnd d a x) x 33 d a s

/-- RW_HOLD_EXPIRY (R427 point 1): the entries of a line whose age has reached RW_HOLD are flushed. -/
def execRwHoldExpiry (die : Fin 4) (line : Nat) (s : State) : Out :=
  .next (s.flushWhere die fun e => e.pa / 256 == line && decide (e.since + s.fe.rwHold.toNat ≤ s.cycle))

/-! ### Fences, publication and cache operations (R252 to R256) -/

/-- What a FENCE or FENCEX for classes `cas` waits for (R234 point 1): the sequencer issues nothing until it is complete. The merged AMOs of
the core are flushed first, and its earlier CORE accesses performed, where CORE is among them (R427). -/
def State.fenceWait (s : State) (cx : Cx) (cas : List PathClass) : List Nat × State :=
  let s := if cas.contains .core then (s.flushCore cx.who.core).settle (cx.actor s) true else s
  let ids := (cas.flatMap fun ca => (s.core cx.who.core).fenceSet cx.who.core (s.seq cx.who).know ca).eraseDups
  (ids, s.modSeq cx.who fun v => { v with hold := v.hold ++ ids })

/-- FENCEX (R234, R253): what it waits for is fixed at issue; the edge holds from then on. -/
def execFencex (sc : Scope) (ca cb : PathClass) (x : Ctl) (s : State) : Out :=
  issue { x := x, tape := .command, enc := encode (.fencex sc ca cb x) }
    (fun cx s =>
      let (ids, s) := s.fenceWait cx [ca]
      .done (s.fenceEdge cx.who cx.stamp ca cb sc ids) .next false) s

/-- FENCE (R229, R235): FENCEX for every pair of classes; what was fetched ahead is discarded when its waits have ended. -/
def execFence (sc : Scope) (x : Ctl) (s : State) : Out :=
  issue { x := x, tape := .command, enc := encode (.fence sc x) }
    (fun cx s =>
      let (ids, s) := s.fenceWait cx allClasses
      let s := s.modSeq cx.who fun v => { v with refetch := true }
      .done (allClasses.foldl (fun s ca => allClasses.foldl (fun s cb => s.fenceEdge cx.who cx.stamp ca cb sc ids) s) s) .next false) s

/-- PUBL (R254): what fences before it made visible at a narrower scope becomes visible at `sc`, at the latest when the next release is
performed. -/
def execPubl (sc : Scope) (x : Ctl) (s : State) : Out :=
  issue { x := x, tape := .command, enc := encode (.publ sc x) }
    (fun cx s =>
      let c := s.core cx.who.core
      let k := (s.seq cx.who).know
      let wider := fun (m : MadeVis) =>
        (m.sq == cx.who.sq || k.covers { core := cx.who.core, sq := m.sq } m.stamp) && decide (m.scope.code < sc.code)
      let p : Published :=
        { spans := (c.madeVis.filter wider).map MadeVis.span, who := cx.who, stamp := cx.stamp, scope := sc, armed := false, publ := true }
      let s := s.modCore cx.who.core fun c => { c with madeVis := c.madeVis.map fun m => if wider m then { m with scope := sc } else m }
      .done { s with mem := { s.mem with pubs := p :: s.mem.pubs } } .next false) s

/-- CFLUSH and CINV (R255): a CORE access to the line of ga that changes no value. -/
def cacheOp (i : Instr) (x : Ctl) (a : Reg) (s : State) : Out :=
  issue { x := x, gsrc := [a], tape := .abandon, acc := [.core], enc := encode i }
    (fun cx s =>
      let c := cx.who.core
      let ea := ((s.seq cx.who).rg a).toNat
      match s.translateBytes (cx.actor s) c (s.tenOf c) Need.load ea 1 with
      | (.error f, s) => .fault s (Trap.page f)
      | (.ok pas, s) =>
        let pa := (pas.headD (0, 0)).1
        .done (((s.flushLines c [pa]).armPubs (cx.actor s)).writeBack pa) .next false) s

/-- CFLUSH (R255). -/
def execCflush (a : Reg) (x : Ctl) (s : State) : Out := cacheOp (.cflush a x) x a s

/-- CINV (R255). -/
def execCinv (a : Reg) (x : Ctl) (s : State) : Out := cacheOp (.cinv a x) x a s

/-- CPREF (R256): a request that changes timing only. -/
def execCpref (k : Bool) (h : Hint) (a : Reg) (x : Ctl) (s : State) : Out :=
  issue { x := x, gsrc := [a], enc := encode (.cpref k h a x) } (fun _ s => .done s .next false) s

/-! ### Node translation (R257 to R259, R284) -/

/-- A node translation entry as NTLD loads it (R284): invalid where a check fails. -/
def State.ntChecked (s : State) (e : BitVec 128) : BitVec 128 :=
  let slot := fld e 127 106
  let ad := ntAddr e
  let none22 := slot == 2 ^ 22 - 1
  let ok :=
    match (s.inst (ntInst e)).cfg with
    | none => false
    | some c =>
      let inside := fun (base n : Nat) => decide (base ≤ ad) && decide (ad < base + n * c.size)
      let inT0 := inside c.t0base c.t0fr
      let inT12 := inside c.t1base c.t1fr || inside c.t2base c.t2fr
      ntValid e && fld e 99 46 == 0 && decide (ad % 256 = 0)
        && (if ntPriv e then none22 else !none22 && decide (slot < c.entries))
        && (if ntT0 e then !ntPriv e && inT0 else inT12)
  if ok then e else 0

/-- Whether a KVLD or KVST in flight names an entry of segment `g` (R258). -/
def Core.kvNames (c : Core) (g : Nat) : Bool :=
  c.cmds.any fun k =>
    match k.op with
    | .kvld _ ga _ _ | .kvst _ ga _ _ => ga.toNat % 1024 / 64 == g
    | _ => false

/-- NTLD (R258). -/
def execNtld (d a b : Reg) (x : Ctl) (s : State) : Out :=
  issue { x := x, minLat := 7, issuers := [.X], gsrc := [a, b], gdst := [d], acc := [.core], enc := encode (.ntld d a b x) }
    (fun cx s =>
      let c := cx.who.core
      let v := s.seq cx.who
      let ea := (v.rg a).toNat
      let g := (v.rg b).toNat
      if ea % 64 ≠ 0 ∨ 16 ≤ g then .trap Trap.illegal
      else
        let (lat, s) := s.freeNat
        let at0 := s.cycle + 1 + Config.latency lat
        match s.translateBytes (cx.actor s) c (s.tenOf c) Need.load ea 1024 with
        | (.error f, s) => .fault s (Trap.page f)
        | (.ok pas, s) =>
          if (s.core c).ntlocks.getLsbD g then .done (s.fly cx at0 false [.g d 1]) .next true
          else if (s.core c).kvNames g then .stall cx.s0
          else
            let s := s.armPubs (cx.actor s)
            let (bs, s) := s.coreRead c (s.ordered (cx.actor s)) (pas.map Prod.fst)
            let s := match bs.findIdx? Prod.snd with
              | some i => s.modCore c fun k => k.derrRecord 1 (ea + i)
              | none => s
            let es := (List.range 64).map fun i =>
              let e := (bs.drop (16 * i)).take 16
              if e.any Prod.snd then (0 : BitVec 128) else s.ntChecked (BitVec.ofNat 128 (ofBytes (e.map Prod.fst)))
            let s := s.modCore c fun k =>
              { k with nt := Vector.ofFn fun i => if i.val / 64 = g then es.getD (i.val % 64) 0 else k.nt.get i
                       ntBad := k.ntBad.filter fun n => n / 32 != g
                       ntgen := k.ntgen + 1 }
            .done (s.fly cx at0 false [.g d 0]) .next true) s

/-- NTLOCK and NTUNL (R259): `f` for each segment whose bit is set. -/
def segments (i : Instr) (x : Ctl) (a : Reg) (f : State → CoreId → Nat → State) (s : State) : Out :=
  issue { x := x, issuers := [.X], gsrc := [a], enc := encode i }
    (fun cx s =>
      let w := (s.seq cx.who).rg a
      if w.toNat / 65536 ≠ 0 then .trap Trap.illegal
      else .done (((List.range 16).filter w.getLsbD).foldl (fun s g => f s cx.who.core g) s) .next false) s

/-- NTLOCK (R259). -/
def execNtlock (a : Reg) (x : Ctl) (s : State) : Out := segments (.ntlock a x) x a State.lockSegment s

/-- NTUNL (R259). -/
def execNtunl (a : Reg) (x : Ctl) (s : State) : Out := segments (.ntunl a x) x a State.unlockSegment s

end Sys2Proof.Machine
end

