-- ==== Sys2Proof/Machine/Matrix.lean ====
section
/-!
DEFINITION. The matrix instructions (08_matrix.md), the staggered start of the matrix engine (R127), the gang rendezvous (R191) and the
last writes of MDRAIN and MSAVE (R134, R198).
-/
namespace Sys2Proof.Machine

/-! ### The tile (R181, R182) -/

/-- MROWS (R181). -/
def Core.mrows (c : Core) : Nat := fld c.mcr 14 8 + 1

/-- Row `m` of the tile (R181). -/
def Core.tileRow (c : Core) (m : Nat) : Fin 128 := Fin.ofNat 128 (fld c.mcr 6 0 + m)

/-- The rows of the tile. -/
def Core.tileRows (c : Core) : List (Fin 128) := (List.range c.mrows).map c.tileRow

/-- What a matrix instruction needs of an operand format (R182): ACCT.TYPE, K of a dense instruction, columns of the tile,
accumulator format (none is INT32). -/
structure MatKind where
  acct : Nat
  k : Nat
  n : Nat
  acc : Option Fmt

/-- The formats that MMA accepts (R182, R187). -/
def matKind (fmt : Nat) : Option MatKind :=
  match fmt with
  | 1 => some { acct := 5, k := 8, n := 64, acc := some fp64 }
  | 2 => some { acct := 0, k := 8, n := 128, acc := some fp32 }
  | 3 | 4 => some { acct := 0, k := 32, n := 128, acc := some fp32 }
  | 9 => some { acct := 1, k := 64, n := 128, acc := none }
  | _ => none

/-- Whether ACCT.TYPE or MROWS rules the format out (R182). -/
def Core.kindBad (c : Core) (m : MatKind) : Bool := fld c.acct 2 0 != m.acct || (m.acct == 5 && decide (c.mrows > 64))

/-- The value of row `n` after every matrix result to it that has issued (R186 point 3): poisoned sectors read zero. -/
def Core.matRow (c : Core) (n : Fin 128) : Nat :=
  let fs := c.flights.filter fun f => f.matrix && f.dest == .row n
  match fs.foldl (fun acc f => match acc with | none => some f | some (g : Flight) => if g.ins < f.ins then some f else some g) none with
  | some f => f.value.toNat
  | none => c.rowBytes n

/-! ### Reading operands from the scratchpad (R184, R138) -/

/-- An operand row over some K positions: its elements, none where a position is not read, and for NI its scale exponent. -/
structure MatVec where
  fs : List (Option FVal)
  ws : List (Option Int)
  e : Int

/-- The bytes that `n` elements at row `i`, column `j` of a tensor take: runs of the scratchpad (R143, R185). -/
def Handle.runs (h : Handle) (i j n : Nat) : List (Nat × Nat) :=
  if h.rows ≤ i ∨ h.cols ≤ j then []
  else if h.fmt = 9 then
    let g := i * h.groups + j / 128
    ((List.range h.kp).map fun p => (h.addr + p * h.pitch + 16 * g + j % 128 / 8, n / 8)) ++ [(h.addr + h.soff + g, 1)]
  else [(h.at i j, min n (h.cols - j) * fmtSize h.fmt)]

/-- The bank groups that runs touch (R185). -/
def bankGroups (rs : List (Nat × Nat)) : List Nat :=
  (rs.flatMap fun r => [r.1 / 2 ^ 20 % 4, (r.1 + r.2 - 1) / 2 ^ 20 % 4]).eraseDups

/-- The first poisoned address of a run of a core's scratchpad. -/
def Core.badFrom (c : Core) (adr n : Nat) : Option Nat :=
  ((List.range n).find? fun i => c.spadBad.contains ((adr + i) / 32)).map (adr + ·)

/-- What reading operands gathers: the address of the first poisoned byte, the flags of flushed inputs, and the state. -/
structure Gather where
  s : State
  bad : Option Nat
  fl : BitVec 6

/-- Reads one run of the scratchpad of a core. -/
def Gather.run (g : Gather) (c : CoreId) (a : Actor) (r : Nat × Nat) : List Byte × Gather :=
  let (bs, _, s) := g.s.spadLoad c a r.1 r.2
  (bs, { g with s := s, bad := g.bad.or ((g.s.core c).badFrom r.1 r.2) })

/-- Reads runs one after another. -/
def Gather.runs (g : Gather) (c : CoreId) (a : Actor) : List (Nat × Nat) → List (List Byte) × Gather
  | [] => ([], g)
  | r :: rs =>
    let (b, g) := g.run c a r
    let (bs, g) := g.runs c a rs
    (b :: bs, g)

/-- The integer w of element `e` of the bytes of `k` planes (R138, R139). -/
def niElem (k : Nat) (planes : List (List Byte)) (e : Nat) : Int :=
  let q := ((List.range k).map fun p =>
    if ((planes.getD p []).getD (e / 8) 0).getLsbD (e % 8) then 2 ^ (7 - p) else 0).sum
  niWeight k (sextNat 8 q)

/-- Reads `n` elements of an operand at row `i`, column `j`; `live` says whether this part is read at all. Every element of a part that is
read has its flags, one that no index selects too (DESIGN CHOICE, log entry 34). -/
def Gather.vec (g : Gather) (c : CoreId) (a : Actor) (h : Handle) (flush live : Bool) (i j n : Nat) : MatVec × Gather :=
  if !live then ({ fs := List.replicate n none, ws := List.replicate n none, e := 0 }, g)
  else
    match h.runs i j n with
    | [] => ({ fs := List.replicate n none, ws := List.replicate n none, e := 0 }, g)
    | rs =>
      let (bs, g) := g.runs c a rs
      if h.fmt = 9 then
        ({ fs := [], ws := (List.range n).map fun e => some (niElem h.kp bs e)
           e := sextNat 8 (ofBytes (bs.getD h.kp [])) }, g)
      else
        let w := fmtSize h.fmt
        let f := (fmtFloat h.fmt).getD fp32
        let raw := bs.headD []
        let vs := (List.range (raw.length / w)).map fun e => f.read flush (ofBytes ((raw.drop (e * w)).take w))
        ({ fs := (vs.map fun v => some v.1) ++ List.replicate (n - vs.length) none, ws := [], e := 0 },
          { g with fl := vs.foldl (fun acc v => acc ||| v.2) g.fl })

/-- Reads the parts of several rows: for each of `cnt` rows, `segs` parts of `n` elements from column `j` on. -/
def Gather.rows (g : Gather) (c : CoreId) (a : Actor) (h : Handle) (flush : Bool) (live : Nat → Nat → Bool) (io j segs n : Nat) :
    Nat → List (List MatVec) × Gather
  | 0 => ([], g)
  | cnt + 1 =>
    let (rest, g) := g.rows c a h flush live io j segs n cnt
    let step := fun (acc : List MatVec × Gather) (t : Nat) =>
      let (v, g) := acc.2.vec c a h flush (live cnt t) (io + cnt) (j + t * n) n
      (acc.1 ++ [v], g)
    let (vs, g) := (List.range segs).foldl step ([], g)
    (rest ++ [vs], g)

/-! ### Sums (R146 to R148) -/

/-- The products of a K-group: the pairs (index in A, index in B) at which both positions are read. -/
def products (a b : MatVec) (pairs : List (Nat × Nat)) : List FVal :=
  pairs.filterMap fun (i, j) =>
    match a.fs.getD i none, b.fs.getD j none with
    | some x, some y => some (mulExact x y).1
    | _, _ => none

/-- c + the rounded exact sum of one K-group (R146). -/
def addGroup (f : Fmt) (flush : Bool) (c : Nat) (ps : List FVal) : Nat × BitVec 6 :=
  let (v, fv) := sumExact ps
  let (t, ft) := f.round 0 flush v
  let (r, fr) := f.add 0 flush c t
  (r, fv ||| ft ||| fr)

/-- The exact integer sum of a K-group of NI operands (R148): a position that is not read contributes 0. -/
def niSum (a b : MatVec) (pairs : List (Nat × Nat)) : Int :=
  (pairs.map fun (i, j) => (a.ws.getD i none).getD 0 * (b.ws.getD j none).getD 0).sum

/-- c + P × 2^d, wrapping (R148). -/
def niAdd (c : Nat) (p d : Int) : Nat :=
  let x := if d ≥ 0 then p * 2 ^ d.toNat else p / 2 ^ (-d).toNat
  (((c : Int) + x) % 2 ^ 32).toNat

/-- One element of a tile: the segments of A's row and of B's row, with the index pairs of each segment. -/
def tileElem (k : MatKind) (flush : Bool) (c : Nat) (a b : List MatVec) (pairs : List (List (Nat × Nat))) : Nat × BitVec 6 :=
  match k.acc with
  | some f =>
    (List.range pairs.length).foldl (fun acc t =>
      let (r, fr) := addGroup f flush acc.1
        (products (a.getD t ⟨[], [], 0⟩) (b.getD t ⟨[], [], 0⟩) (pairs.getD t []))
      (r, acc.2 ||| fr)) (c, 0)
  | none =>
    let p := ((List.range pairs.length).map fun t =>
      niSum (a.getD t ⟨[], [], 0⟩) (b.getD t ⟨[], [], 0⟩) (pairs.getD t [])).sum
    let ea := (a.map MatVec.e).foldl (fun x y => if x = 0 then y else x) 0
    let eb := (b.map MatVec.e).foldl (fun x y => if x = 0 then y else x) 0
    (niAdd c p (ea + eb), 0)

/-- The bytes of a lane of the accumulator format. -/
def MatKind.w (k : MatKind) : Nat := if k.acct = 5 then 8 else 4

/-- The results of a tile: each row is the row after every earlier matrix result, with the products of A and B added; the flags
go with the first row. -/
def tileResults (c : Core) (k : MatKind) (flush : Bool) (as bs : List (List MatVec))
    (pairs : Nat → List (List (Nat × Nat))) (fl : BitVec 6) : List Result :=
  let rows := (List.range c.mrows).map fun m =>
    let a := as.getD m []
    let old := lanesOf k.w k.n (c.matRow (c.tileRow m))
    let es := (List.range k.n).map fun n => tileElem k flush (old.getD n 0) a (bs.getD n []) (pairs n)
    (packLanes k.w (es.map Prod.fst), orFlags es)
  let all := rows.foldl (fun acc r => acc ||| r.2) fl
  (List.range c.mrows).map fun m =>
    { dest := .row (c.tileRow m), value := BitVec.ofNat 4096 (rows.getD m (0, 0)).1, en := BitVec.allOnes 512
      flags := if m = 0 then all else 0 }

/-! ### Occupancy, rows in flight and the ramp (R127, R179, R186) -/

/-- The waits of a matrix instruction (R179, R186 points 2 and 4): the engine is occupied, or a row has a result in flight, of
another family only for an instruction that accumulates. -/
def Core.matWait (c : Core) (cycle : Nat) (rows : List (Fin 128)) (reads : Bool) : Bool :=
  decide (cycle < c.matBusy)
    || (c.flights.any fun f => (reads || !f.matrix) && rows.any fun n => f.dest == .row n)
    || c.snap.any fun e => rows.any fun n => e.dest == .row n

/-- Waits for a warm engine, requesting a ramp slot where it is cold (R127). -/
def rampGate (cx : Cx) (s : State) (k : State → Act) : Act :=
  let c := s.core cx.who.core
  match c.ramp with
  | .warm _ => k s
  | .cold => .stall (cx.s0.modCore cx.who.core fun c => { c with ramp := .requested cx.s0.cycle })
  | _ => .stall cx.s0

/-- Sends matrix results into flight: they land within O + 8 cycles of issue (R186), and the engine is occupied for O (R179). -/
def State.flyTile (s : State) (cx : Cx) (o : Nat) (warm : Bool) (rs : List Result) : State :=
  let (n, s) := s.freeNat
  let s := s.fly cx (s.cycle + 1 + Config.latency n % (o + 8)) true rs
  s.modCore cx.who.core fun c =>
    { c with matBusy := s.cycle + o, ramp := if warm then .warm s.cycle else c.ramp }

/-- Records a poisoned operand by the address of its first poisoned byte (R399, R400). -/
def State.noteSpad (s : State) (c : CoreId) (bad : Option Nat) : State :=
  bad.elim s fun adr => s.modCore c fun k => k.derrRecord 2 adr

/-- The rows of the tile that an instruction reads from the accumulator itself: those without a matrix result in flight (R186 point 3). -/
def Core.rowsRead (c : Core) : List (Fin 128) := c.tileRows.filter fun n => !c.flights.any fun f => f.matrix && f.dest == .row n

/-- HANDLE. -/
def Trap.handle : Trap := { cause := .handle, det := 0, va := 0 }

/-- BANKCLASH. -/
def Trap.bankclash : Trap := { cause := .bankclash, det := 0, va := 0 }

/-! ### MMA (R187, R188) -/

/-- The cycles T of a dense instruction (R182, R188). -/
def denseT (a b : Handle) : Nat :=
  if a.fmt = 9 then
    let k := max a.kp b.kp
    if k ≤ 2 then 8 else if k ≤ 4 then 16 else 32
  else 32

/-- Whether an operand's handle and column origin are not accepted (R187, R197 row 4). -/
def operandBad (h : Handle) (k jo : Nat) : Bool := (matKind h.fmt).isNone || h.loc != 1 || jo % k != 0

/-- The runs that an operand's rows read. -/
def operandRuns (h : Handle) (io jo cnt k : Nat) : List (Nat × Nat) := (List.range cnt).flatMap fun m => h.runs (io + m) jo k

/-- Whether two operands share a bank group (R185). -/
def clash (a b : List (Nat × Nat)) : Bool :=
  let gb := bankGroups b
  (bankGroups a).any gb.contains

/-- The index pairs of a dense instruction: one group. -/
def densePairs (k : Nat) : List (List (Nat × Nat)) := [(List.range k).map fun i => (i, i)]

/-- MMA (R187). -/
def execMma (a b : Reg) (x : Ctl) (s : State) : Out :=
  issue { x := x, minLat := 7, issuers := [.C], gsrc := [a, b], tape := .command, enc := encode (.mma a b x)
          onDie := fun cx s => (s.core cx.who.core).badHandles [(s.seq cx.who).rg a, (s.seq cx.who).rg b]
          waits := fun cx s => (s.core cx.who.core).matWait s.cycle (s.core cx.who.core).tileRows false }
    (fun cx s => rampGate cx s fun s =>
      let c := s.core cx.who.core
      let da := (s.seq cx.who).rg a
      let db := (s.seq cx.who).rg b
      let ha := c.handle da
      let hb := c.handle db
      match matKind ha.fmt with
      | none => .trap Trap.handle
      | some k =>
        if c.kindBad k then .trap Trap.illegal
        else if operandBad ha k.k (descCol da) || operandBad hb k.k (descCol db) || ha.fmt != hb.fmt then .trap Trap.handle
        else if clash (operandRuns ha (descRow da) (descCol da) c.mrows k.k)
            (operandRuns hb (descRow db) (descCol db) k.n k.k) then .trap Trap.bankclash
        else
          let act := cx.actor s
          let g : Gather := { s := s, bad := none, fl := 0 }
          let (as, g) := g.rows cx.who.core act ha cx.exposed (fun _ _ => true) (descRow da) (descCol da) 1 k.k c.mrows
          let (bs, g) := g.rows cx.who.core act hb cx.exposed (fun _ _ => true) (descRow db) (descCol db) 1 k.k k.n
          let rs := tileResults c k cx.exposed as bs (fun _ => densePairs k.k) g.fl
          .done (((g.s.noteSpad cx.who.core g.bad).noteRows cx.who.core c.rowsRead).flyTile cx (denseT ha hb) true rs) .next true) s

/-! ### MMAS (R189, R190) -/

/-- Whether segment `t` is live for column group `g` (R189). -/
def segLive (coarse : Nat) (t g : Nat) : Bool := coarse / 2 ^ (4 * g + t) % 2 == 1

/-- The index pairs of a live segment from its index word (R189). -/
def sparsePairs (word : Nat) : List (Nat × Nat) :=
  (List.range 8).flatMap fun q =>
    [(4 * q + word / 2 ^ (4 * q) % 4, 2 * q), (4 * q + word / 2 ^ (4 * q + 2) % 4, 2 * q + 1)]

/-- Whether reserved metadata bits are set (R189). -/
def metaBad (bs : List Byte) (segs : Nat) : Bool :=
  let coarse := ofBytes (bs.take 2)
  ((List.range 16).any fun i => decide (segs ≤ i % 4) && coarse / 2 ^ i % 2 == 1) || (bs.drop 2).any fun v => v != 0

/-- MMAS (R189, R190): only the parts of A and B that a live segment uses are read. A metadata block is taken to reach 2^22 where one of
its bytes lies there or beyond (DEDUCED, log entry 88). -/
def execMmas (d a b : Reg) (x : Ctl) (s : State) : Out :=
  issue { x := x, minLat := 7, issuers := [.C], gsrc := [d, a, b], tape := .command, enc := encode (.mmas d a b x)
          onDie := fun cx s => (s.core cx.who.core).badHandles [(s.seq cx.who).rg a, (s.seq cx.who).rg b]
          waits := fun cx s => (s.core cx.who.core).matWait s.cycle (s.core cx.who.core).tileRows false }
    (fun cx s => rampGate cx s fun s =>
      let c := s.core cx.who.core
      let m := ((s.seq cx.who).rg d).toNat
      let da := (s.seq cx.who).rg a
      let db := (s.seq cx.who).rg b
      let ha := c.handle da
      let hb := c.handle db
      match (if ha.fmt = 3 ∨ ha.fmt = 4 ∨ ha.fmt = 9 then matKind ha.fmt else none) with
      | none => .trap Trap.handle
      | some k =>
        let segs := if ha.fmt = 9 then 4 else 2
        let act := cx.actor s
        if c.kindBad k then .trap Trap.illegal
        else if operandBad ha (32 * segs) (descCol da) || operandBad hb (16 * segs) (descCol db) || ha.fmt != hb.fmt
            || decide (m + 64 + 512 * segs > 2 ^ 22) then .trap Trap.handle
        else
          let g : Gather := { s := s, bad := none, fl := 0 }
          let (head, g) := g.run cx.who.core act (m, 64)
          let coarse := ofBytes (head.take 2)
          let liveA := fun t => (List.range 4).any (segLive coarse t)
          let liveB := fun n t => segLive coarse t (n / 32)
          if metaBad head segs then .trap Trap.handle
          else if m % 64 ≠ 0 then .trap (Trap.spaddr m)
          else
            let runsA := (List.range segs).flatMap fun t =>
              if liveA t then operandRuns ha (descRow da) (descCol da + 32 * t) c.mrows 32 else []
            let runsB := (List.range segs).flatMap fun t =>
              (List.range k.n).flatMap fun n => if liveB n t then hb.runs (descRow db + n) (descCol db + 16 * t) 16 else []
            if clash runsA runsB then .trap Trap.bankclash
            else
              let words := (List.range segs).flatMap fun t => (List.range k.n).map fun n =>
                (m + 64 + 4 * (128 * t + n), if liveB n t then 4 else 0)
              let (ws, g) := g.runs cx.who.core act words
              let (as, g) := g.rows cx.who.core act ha cx.exposed (fun _ t => liveA t) (descRow da) (descCol da) segs 32 c.mrows
              let (bs, g) := g.rows cx.who.core act hb cx.exposed liveB (descRow db) (descCol db) segs 16 k.n
              let pairs := fun n => (List.range segs).map fun t =>
                if liveB n t then sparsePairs (ofBytes (ws.getD (k.n * t + n) [])) else []
              let lmax := ((List.range 4).map fun q => ((List.range segs).filter fun t => segLive coarse t q).length).foldl max 0
              let t := max 4 (denseT ha hb * 16 * lmax / k.k)
              let rs := tileResults c k cx.exposed as bs pairs g.fl
              .done (((g.s.noteSpad cx.who.core g.bad).noteRows cx.who.core c.rowsRead).flyTile cx t true rs) .next true) s

/-! ### MGANG (R191) -/

/-- The rectangle of a gang descriptor: its first grid row and column, its rows and its columns (R191). -/
structure GangRect where
  row : Nat
  col : Nat
  rows : Nat
  cols : Nat
  deriving DecidableEq, Repr

/-- The fields of a gang descriptor. -/
def gangRect (gd : Word) : GangRect := { row := fld gd 2 0, col := fld gd 5 3, rows := fld gd 8 6 + 1, cols := fld gd 11 9 + 1 }

/-- Whether a gang descriptor has no reserved bit set and names a rectangle within the grid. -/
def gangFits (gd : Word) : Bool :=
  let r := gangRect gd
  fld gd 63 12 == 0 && decide (r.col + r.cols ≤ 8) && decide (r.row + r.rows ≤ 8)

/-- The cores that a gang descriptor names, on the die of a core, in rank order; those beyond the grid are none. -/
def gangMembers (c : CoreId) (gd : Word) : List CoreId :=
  let r := gangRect gd
  (List.range (r.rows * r.cols)).filterMap fun i =>
    let y := r.row + i / r.cols
    let x := r.col + i % r.cols
    if y < 8 ∧ x < 8 then some (Fin.ofNat 256 (c.val / 64 * 64 + y * 8 + x)) else none

/-- The source of A for a member, and the source of B: the first core of its row and of its column. -/
def gangSources (c : CoreId) (gd : Word) : CoreId × CoreId :=
  (Fin.ofNat 256 (c.val / 8 * 8 + fld gd 5 3), Fin.ofNat 256 (c.val / 64 * 64 + fld gd 2 0 * 8 + c.val % 8))

/-- The MGANG that a core has at its rendezvous: its engine is warm and C may issue (R127, R191). -/
def State.atRendezvous (s : State) (c : CoreId) : Option GangWait :=
  let k := s.core c
  match k.gang, k.ramp with
  | some w, .warm _ => if k.mayIssue s.cycle .C || k.mayReplay s.cycle .C then some w else none
  | _, _ => none

/-- The operands that a member uses: the ga of its row source and the gb of its column source (R191 point 3). -/
def State.gangOperands (s : State) (c : CoreId) (gd : Word) : Word × Word :=
  let (ca, cb) := gangSources c gd
  ((((s.core ca).gang.map GangWait.ga).getD 0), (((s.core cb).gang.map GangWait.gb).getD 0))

/-- Whether a member's ACCT.TYPE or MROWS does not suit the format of the A handle that its own ga names (R197 row 2). -/
def State.gangKindBad (s : State) (c : CoreId) : Bool :=
  match (s.core c).gang with
  | none => false
  | some w =>
    match matKind ((s.core c).handle w.ga).fmt with
    | none => false
    | some k => (s.core c).kindBad k

/-- Whether the tile of a member passes the checks of MMA (R187, R191 point 2): its own ACCT.TYPE and MROWS, the operands of its sources,
and the banks of a core that is both (R185, R191 point 3). -/
def State.gangOk (s : State) (c : CoreId) (gd : Word) : Bool :=
  let (ca, cb) := gangSources c gd
  let (ga, gb) := s.gangOperands c gd
  let ha := (s.core ca).handle ga
  let hb := (s.core cb).handle gb
  match matKind ha.fmt with
  | none => false
  | some k =>
    !((s.core c).kindBad k || operandBad ha k.k (descCol ga) || operandBad hb k.k (descCol gb) || ha.fmt != hb.fmt)
      && !(ca == cb && clash (operandRuns ha (descRow ga) (descCol ga) (s.core ca).mrows k.k)
            (operandRuns hb (descRow gb) (descCol gb) k.n k.k))

/-- Tells the MGANG that waits on a core what to do. -/
def State.gangTell (s : State) (c : CoreId) (g : GangGo) : State :=
  s.modCore c fun k => { k with gang := k.gang.map fun w => { w with go := g } }

/-- Whether a member's k-th MGANG has reached issue: it is there, or that MGANG has issued already, in another gang. -/
def State.gangReached (s : State) (m : CoreId) (k : Nat) : Bool :=
  decide ((s.core m).gangCount > k) || ((s.core m).gangCount == k && (s.atRendezvous m).isSome)

/-- Whether a member's k-th MGANG is there and nothing has been decided for it. -/
def State.gangWaits (s : State) (m : CoreId) (k : Nat) : Bool :=
  (s.core m).gangCount == k && (s.atRendezvous m).any fun v => v.go == .wait

/-- GANG_RENDEZVOUS (R191): when the MGANG of every member has reached issue with a warm engine, all issue together, or every
member takes GANG; a member whose own ACCT.TYPE or MROWS is wrong for its own ga takes ILLEGAL (R197). A core whose descriptor leaves the
grid or does not name it waits for those that it does name, and the check fails for all. -/
def execGangRendezvous (c : CoreId) (s : State) : Out :=
  match s.atRendezvous c with
  | none => .next s
  | some w =>
    let k := (s.core c).gangCount
    let ms := (c :: gangMembers c w.gd).eraseDups
    if w.go != .wait || !(ms.all fun m => s.gangReached m k) then .next s
    else
      let l := (s.core c).iter.map Iter.launch
      let same := ms.all fun m =>
        ((s.core m).gang.map GangWait.gd) == some w.gd && s.gangWaits m k && (s.core m).mcr == (s.core c).mcr
          && (s.core m).iter.map Iter.launch == l
      let ok := gangFits w.gd && (gangMembers c w.gd).contains c && same
        && ms.all fun m => !s.gangKindBad m && s.gangOk m w.gd
      let go := fun m =>
        let (ga, gb) := s.gangOperands m w.gd
        if ok then GangGo.issue ga gb else if s.gangKindBad m then .illegal else .gang
      .next ((ms.filter fun m => s.gangWaits m k).foldl (fun t m => t.gangTell m (go m)) s)

/-- GANGTIME_EXPIRY (R191 point 5): 2^20 cycles after the first member of a gang reached issue. -/
def execGangtimeExpiry (c : CoreId) (s : State) : Out :=
  match (s.core c).gang with
  | none => .next s
  | some w =>
    let ms := (c :: gangMembers c w.gd).eraseDups
    let here := ms.filter fun m => match (s.core m).gang with
      | some v => v.gd == w.gd && v.go == .wait && (s.core m).gangCount == (s.core c).gangCount
      | none => false
    let first := here.foldl (fun acc m => match (s.core m).gang with | some v => min acc v.since | none => acc) w.since
    if w.go == .wait && decide (first + 2 ^ 20 ≤ s.cycle) && here.length != ms.length then
      .next (here.foldl (fun s m => s.gangTell m .time) (s.gangTell c .time))
    else .next s

/-- MGANG (R191). It reaches issue with a warm engine and waits for its rendezvous; then it forms the tile of its gang row's A and
its gang column's B. -/
def execMgang (d a b : Reg) (x : Ctl) (s : State) : Out :=
  issue { x := x, minLat := 7, issuers := [.C], gsrc := [d, a, b], tape := .command, enc := encode (.mgang d a b x)
          onDie := fun cx s => (s.core cx.who.core).badHandles [(s.seq cx.who).rg a, (s.seq cx.who).rg b]
          waits := fun cx s => (s.core cx.who.core).matWait s.cycle (s.core cx.who.core).tileRows false }
    (fun cx s => rampGate cx s fun s =>
      let c := s.core cx.who.core
      let v := s.seq cx.who
      match c.gang with
      | none =>
        .stall (cx.s0.modCore cx.who.core fun k =>
          { k with gang := some { since := s.cycle, gd := v.rg d, ga := v.rg a, gb := v.rg b, go := .wait } })
      | some w =>
        match w.go with
        | .wait => .stall cx.s0
        | .gang => .trap { cause := .gang, det := 0, va := 0 }
        | .illegal => .trap Trap.illegal
        | .time => .trap { cause := .gangtime, det := 0, va := 0 }
        | .issue ga gb =>
          let (ca, cb) := gangSources cx.who.core w.gd
          let ha := (s.core ca).handle ga
          let hb := (s.core cb).handle gb
          match matKind ha.fmt with
          | none => .trap { cause := .gang, det := 0, va := 0 }
          | some k =>
            let act := fun (m : CoreId) => { (cx.actor s) with
              who := some { core := m, sq := .C }, know := (s.seq { core := m, sq := .C }).know : Actor }
            let g : Gather := { s := s, bad := none, fl := 0 }
            let (as, g) := g.rows ca (act ca) ha cx.exposed (fun _ _ => true) (descRow ga) (descCol ga) 1 k.k c.mrows
            let (bs, g) := g.rows cb (act cb) hb cx.exposed (fun _ _ => true) (descRow gb) (descCol gb) 1 k.k k.n
            let rs := tileResults c k cx.exposed as bs (fun _ => densePairs k.k) g.fl
            let s := ((g.s.noteSpad cx.who.core g.bad).noteRows cx.who.core c.rowsRead).flyTile cx (denseT ha hb) true rs
            .done (s.modCore cx.who.core fun k => { k with gang := none, gangCount := k.gangCount + 1 }) .next true) s

/-! ### MZERO and MCFG (R192) -/

/-- MZERO (R192). -/
def execMzero (x : Ctl) (s : State) : Out :=
  issue { x := x, minLat := 7, issuers := [.C], tape := .command, enc := encode (.mzero x)
          waits := fun cx s => (s.core cx.who.core).matWait s.cycle (s.core cx.who.core).tileRows false }
    (fun cx s => rampGate cx s fun s =>
      .done (s.flyTile cx 4 true ((s.core cx.who.core).tileRows.map fun n =>
        { dest := .row n, value := 0, en := BitVec.allOnes 512, flags := 0 })) .next true) s

/-- MCFG (R192): reserved bits of R181 take ILLEGAL. -/
def execMcfg (a : Reg) (x : Ctl) (s : State) : Out :=
  issue { x := x, issuers := [.C], gsrc := [a], tape := .command, enc := encode (.mcfg a x) }
    (fun cx s =>
      let v := (s.seq cx.who).rg a
      if v &&& 0xFFFFFFFFFFFF8080 ≠ 0 then .trap Trap.illegal
      else .done (s.modCore cx.who.core fun c => { c with mcr := v.setWidth 32 }) .next false) s

/-! ### MDRAIN (R193, R194) -/

/-- The actor of a matrix instruction's global accesses: the MAT path (R193, R195, R221). -/
def Cx.matActor (cx : Cx) (s : State) : Actor := { cx.actor s with cls := .mat }

/-- v = c × 2^X converted to the destination's format: the bits and the flags (R193). -/
def drainLane (tile : LaneKind) (dst : Nat) (x : Int) (flush : Bool) (c : Nat) : Nat × BitVec 6 :=
  let w := 8 * fmtSize dst
  match tile.fmt, fmtFloat dst with
  | some f, some g =>
    let (v, f0) := f.read flush c
    let v := match v with | .num n m e => FVal.num n m (e + x) | u => u
    let (r, f1) := g.round 0 flush v
    (r, f0 ||| f1)
  | some f, none =>
    let (v, f0) := f.read flush c
    let v := match v with | .num n m e => FVal.num n m (e + x) | u => u
    match v.toIntRound 0 with
    | none => (0, f0 ||| flNV)
    | some (k, ix) =>
      if k < -(2 ^ (w - 1)) then (2 ^ (w - 1), f0 ||| flNV)
      else if k > 2 ^ (w - 1) - 1 then (2 ^ (w - 1) - 1, f0 ||| flNV)
      else (wrapInt w k, f0 ||| (if ix then flNX else 0))
  | none, some g => g.round 0 flush (ofScaled (sextNat 32 c) x false)
  | none, none =>
    match (ofScaled (sextNat 32 c) x false).toIntRound 0 with
    | none => (0, 0)
    | some (k, _) => (wrapInt w (max (-(2 ^ (w - 1))) (min (2 ^ (w - 1) - 1) k)), 0)

/-- The bits of round_rne(|y|, FP32) (R194). -/
def magnitude32 (dst y : Nat) : Nat :=
  let w := 8 * fmtSize dst
  match fmtFloat dst with
  | some f => (cvtFloat f fp32 0 false (clearSign w y)).1
  | none => (fp32.round 0 false (ofScaled (absInt w y) 0 false)).1

/-- Translates the pages of several ranges of a core's tenancy: the physical addresses, or the first fault. -/
def State.translateRuns (s : State) (a : Actor) (c : CoreId) (need : Need) :
    List (Nat × Nat) → Except PageFault (List (List (Nat × Nat))) × State
  | [] => (.ok [], s)
  | (va, n) :: rs =>
    match s.translateBytes a c (s.tenOf c) need va n with
    | (.error f, s) => (.error f, s)
    | (.ok pas, s) =>
      match s.translateRuns a c need rs with
      | (.error f, s) => (.error f, s)
      | (.ok rest, s) => (.ok (pas :: rest), s)

/-- Notes an MDRAIN or MSAVE whose last write is still to come (R134, R198). -/
def State.openWrite (s : State) (cx : Cx) (drain : Bool) (fl : BitVec 6) : State :=
  let w : MatWrite := { id := cx.stamp, drain := drain, flags := fl, push := cx.push s, know := (s.seq cx.who).know.upTo cx.who cx.stamp
                        ten := s.tenOf cx.who.core, issued := s.cycle }
  s.modCore cx.who.core fun c => { c with matWrites := c.matWrites ++ [w] }

/-- The atomic maximum of an MDRAIN on its way to the bank of the word at `va` (R194). -/
def Cx.maximum (cx : Cx) (s : State) (va pa mx : Nat) : HeldAccess :=
  { (cx.matActor s).held (s.tenOf cx.who.core) 2 ((List.range 4).map fun i => (pa + i, i)) (toBytes 16 mx) with op := 34, sz := 2, va := va }

/-- MDRAIN (R193, R194): the tile is converted and written; the atomic maximum goes to its bank. -/
def execMdrain (d a b : Reg) (x : Ctl) (s : State) : Out :=
  issue { x := x, issuers := [.C], gsrc := [d, a, b], tape := .command, acc := [.mat], enc := encode (.mdrain d a b x)
          onDie := fun cx s => (s.core cx.who.core).badHandles [(s.seq cx.who).rg d]
          waits := fun cx s => (s.core cx.who.core).matWait s.cycle (s.core cx.who.core).tileRows true }
    (fun cx s =>
      let c := s.core cx.who.core
      let v := s.seq cx.who
      let dd := v.rg d
      let ga := (v.rg a).toNat
      let gb := v.rg b
      let ty := fld c.acct 2 0
      let tile := c.lane
      let n := if ty = 5 then 64 else 128
      let h := c.handle dd
      if (ty ≠ 0 ∧ ty ≠ 5 ∧ ty ≠ 1) ∨ fld gb 63 18 ≠ 0 ∨ ga % 4 ≠ 0 then .trap Trap.illegal
      else if !h.dense then .trap Trap.handle
      else
        let w := fmtSize h.fmt
        let io := descRow dd
        let jo := descCol dd
        let cnt := min n (h.cols - jo)
        let ms := if cnt = 0 then [] else (List.range c.mrows).filter fun m => decide (io + m < h.rows)
        let runs := ms.map fun m => (h.at (io + m) jo, cnt * w)
        let act := cx.matActor s
        let (pas, s) := if h.loc = 0 then s.translateRuns act cx.who.core Need.store runs else (.ok [], s)
        match pas with
        | .error f => .fault s (Trap.page f)
        | .ok pas =>
          let (word, s) := if ga = 0 then (.ok [], s) else s.translateBytes act cx.who.core (s.tenOf cx.who.core) Need.amo ga 4
          match word with
          | .error f => .fault s (Trap.page f)
          | .ok word =>
            let es := ms.map fun m =>
              ((lanesOf tile.w n (c.rowBytes (c.tileRow m))).take cnt).map
                (drainLane tile h.fmt (sextNat 16 (fld gb 15 0)) cx.exposed)
            let fl := es.foldl (fun acc r => acc ||| orFlags r) 0
            let data := es.map fun r => (r.map fun e => toBytes w e.1).flatten
            let s := s.noteRows cx.who.core (ms.map c.tileRow)
            let s :=
              if h.loc = 0 then
                s.writePas act .plain ((pas.flatten.map Prod.fst).zip data.flatten)
              else
                (runs.zip data).foldl (fun s r => s.spadStore cx.who.core (cx.actor s) r.1.1 r.2) s
            let mx := (es.flatten.map fun e => magnitude32 h.fmt e.1).foldl max 0
            let s := s.openWrite cx true fl
            let s := word.head?.elim s fun p => { s with pending := s.pending ++ [cx.maximum s ga p.1 mx] }
            .done (s.modCore cx.who.core fun c => { c with matBusy := s.cycle + c.mrows }) .next true) s

/-! ### MSAVE and MLOAD (R195) -/

/-- Whether gb has a reserved bit set, or the address is not a multiple of 64 (R197 row 2). -/
def rowMoveBad (ga gb : Word) : Bool := fld gb 63 19 != 0 || gb.getLsbD 15 || gb.getLsbD 7 || ga.toNat % 64 != 0

/-- The rows that gb selects (R195). -/
def moveRows (gb : Word) : List (Fin 128) := (List.range (fld gb 14 8 + 1)).map fun j => Fin.ofNat 128 (fld gb 6 0 + j)

/-- MSAVE (R195). -/
def execMsave (a b : Reg) (x : Ctl) (s : State) : Out :=
  issue { x := x, issuers := [.C], gsrc := [a, b], tape := .command, acc := [.mat], enc := encode (.msave a b x)
          waits := fun cx s => (s.core cx.who.core).matWait s.cycle (moveRows ((s.seq cx.who).rg b)) true }
    (fun cx s =>
      let c := s.core cx.who.core
      let ga := (s.seq cx.who).rg a
      let gb := (s.seq cx.who).rg b
      let rows := moveRows gb
      let n := 512 * rows.length
      let data := (rows.map fun r => toBytes 512 (c.rowBytes r)).flatten
      let finish := fun (s : State) =>
        let s := (s.noteRows cx.who.core rows).openWrite cx false 0
        Act.done (s.modCore cx.who.core fun c => { c with matBusy := s.cycle + rows.length }) .next true
      if rowMoveBad ga gb then .trap Trap.illegal
      else if gb.getLsbD 16 then
        if ga.toNat + n > 2 ^ 22 then .trap (Trap.spaddr ga.toNat)
        else finish (s.spadStore cx.who.core (cx.actor s) ga.toNat data)
      else
        let act := cx.matActor s
        match s.translateBytes act cx.who.core (s.tenOf cx.who.core) Need.store ga.toNat n with
        | (.error f, s) => .fault s (Trap.page f)
        | (.ok pas, s) => finish (s.writePas act .plain ((pas.map Prod.fst).zip data))) s

/-- The results of an MLOAD: one row for each 512 bytes. -/
def loadResults (rows : List (Fin 128)) (bs : List Byte) : List Result :=
  (List.range rows.length).map fun j =>
    { dest := .row (rows.getD j 0), value := BitVec.ofNat 4096 (ofBytes ((bs.drop (512 * j)).take 512))
      en := BitVec.allOnes 512, flags := 0 }

/-- MLOAD (R195): poisoned bytes read zero (R397, R399). A fence for MAT waits until its rows have landed (R234). -/
def execMload (a b : Reg) (x : Ctl) (s : State) : Out :=
  issue { x := x, minLat := 7, issuers := [.C], gsrc := [a, b], tape := .command, acc := [.mat], enc := encode (.mload a b x)
          waits := fun cx s => (s.core cx.who.core).matWait s.cycle (moveRows ((s.seq cx.who).rg b)) false }
    (fun cx s =>
      let ga := (s.seq cx.who).rg a
      let gb := (s.seq cx.who).rg b
      let rows := moveRows gb
      let n := 512 * rows.length
      if rowMoveBad ga gb then .trap Trap.illegal
      else if gb.getLsbD 16 then
        if ga.toNat + n > 2 ^ 22 then .trap (Trap.spaddr ga.toNat)
        else
          let (bs, _, s) := s.spadLoad cx.who.core (cx.actor s) ga.toNat n
          .done ((s.noteSpad cx.who.core ((s.core cx.who.core).badFrom ga.toNat n)).flyTile cx rows.length false (loadResults rows bs)) .next true
      else
        let act := cx.matActor s
        match s.translateBytes act cx.who.core (s.tenOf cx.who.core) Need.load ga.toNat n with
        | (.error f, s) => .fault s (Trap.page f)
        | (.ok pas, s) =>
          let (bs, s) := s.readAs act (pas.map Prod.fst)
          let s := (bs.findIdx? Prod.snd).elim s fun i => s.modCore cx.who.core fun c => c.derrRecord 1 (ga.toNat + i)
          let s := s.modCore cx.who.core fun c => { c with pend := c.pend ++ [{ cls := .mat, sq := .C, id := cx.stamp }] }
          .done (s.flyTile cx rows.length false (loadResults rows (bs.map Prod.fst))) .next true) s

/-! ### Device steps of the matrix engine -/

/-- Whether the die of a core grants it a slot in this cycle (R127 point 2): fewer than 4 ramps have started in the last 32 cycles, and no
request on the die is earlier. -/
def State.mayRamp (s : State) (c : CoreId) : Bool :=
  match (s.core c).ramp with
  | .requested t =>
    decide (((s.rampStarts.get (dieOf c)).filter fun r => decide (s.cycle < r + 32)).length < 4)
      && allCores.all fun m => dieOf m != dieOf c || (match (s.core m).ramp with
        | .requested u => !(decide (u < t) || (u == t && decide (m.val < c.val)))
        | _ => true)
  | _ => false

/-- RAMP_GRANT (R127 points 2 and 3): the ramp begins in this cycle. -/
def execRampGrant (c : CoreId) (s : State) : Out :=
  if s.mayRamp c then
    let d := dieOf c
    let starts := (s.rampStarts.get d).filter fun r => decide (s.cycle < r + 32)
    .next { (s.modCore c fun k => { k with ramp := .ramping s.cycle }) with
      rampStarts := s.rampStarts.set d.val (starts ++ [s.cycle]) d.isLt }
  else .next s

/-- RAMP_END (R127): the ramp runs for 32 cycles from its grant; the engine is then warm. -/
def execRampEnd (c : CoreId) (s : State) : Out :=
  match (s.core c).ramp with
  | .ramping r =>
    if r + 32 ≤ s.cycle then .next (s.modCore c fun k => { k with ramp := .warm (r + 31) }) else .next s
  | _ => .next s

/-- MATRIX_ENGINE_COLD (R127): 256 cycles have passed without an issue of MAJ 0x2E or the end of a ramp. -/
def execMatrixEngineCold (c : CoreId) (s : State) : Out :=
  match (s.core c).ramp with
  | .warm l => if l + 256 < s.cycle then .next (s.modCore c fun k => { k with ramp := .cold }) else .next s
  | _ => .next s

/-- BANK_ALU_OP (R208): an atomic packet on its way is applied at its line's home bank, or goes to the home that holds the accesses to
its page (R430, R431). The maximum of an MDRAIN is unsigned (R194); a poisoned sector is left unchanged (R397). -/
def execBankAluOp (id : Nat) (s : State) : Out :=
  match s.pending.find? fun h => h.kind == 2 && h.stamp == id with
  | none => .next s
  | some h => .next (s.performPend h)

/-- LAST_WRITE_PERFORMED (R134, R198): once no write or maximum of it is on its way, an MDRAIN or MSAVE raises its flags in C's FPSTAT and
completes its push. -/
def execLastWritePerformed (c : CoreId) (id : Nat) (s : State) : Out :=
  match (s.core c).matWrites.find? fun m => m.id == id with
  | none => .next s
  | some m =>
    if s.outstanding { core := c, sq := .C } id || decide (s.cycle ≤ m.issued) then .next s
    else
      .next (s.modCore c fun k =>
        let k := { k with matWrites := k.matWrites.filter fun w => w.id != id }
        let k := k.raiseFlags .C m.flags
        match m.push with
        | none => k
        | some p => k.completePush .C p.f p.b s.cycle p.know)

end Sys2Proof.Machine
end

