-- ==== Sys2Proof/Machine/Signature.lean ====
section
/-!
DEFINITION. SHA-384 and the ECDSA P-384 check of the firmware store (R1, R419, R477). The spec names the two algorithms; their
constants are those of their standards, the hash's computed from the roots that define them (log entry 15).
-/
namespace Sys2Proof.Machine

/-! ### SHA-384 -/

/-- The greatest `r` with `r ^ k ≤ n`, from bit `b - 1` down; `r` holds the bits already settled. -/
def rootFrom (k n : Nat) : Nat → Nat → Nat
  | 0, r => r
  | b + 1, r => rootFrom k n b (if (r + 2 ^ b) ^ k ≤ n then r + 2 ^ b else r)

/-- The first 64 bits after the point of the `k`-th root of `p`. -/
def rootBits (k p : Nat) : Nat := rootFrom k (p * 2 ^ (64 * k)) 72 0 % 2 ^ 64

/-- The primes below 410, which are the first 80. -/
def smallPrimes : List Nat :=
  (List.range 410).filter fun p => decide (2 ≤ p) && (List.range 21).all fun d => decide (d < 2) || decide (p ≤ d) || p % d != 0

/-- The hash's state before its first block: from the square roots of the ninth to the sixteenth prime. -/
def hashStart : List Nat := ((smallPrimes.drop 8).take 8).map (rootBits 2)

/-- A 64-bit word turned right. -/
def turnRight (n x : Nat) : Nat := x / 2 ^ n + x % 2 ^ n * 2 ^ (64 - n)

/-- Three turns of a word combined; the last is a plain shift where `cut` says so. -/
def turns (a b c : Nat) (cut : Bool) (x : Nat) : Nat :=
  turnRight a x ^^^ turnRight b x ^^^ (if cut then x / 2 ^ c else turnRight c x)

/-- The 80 words of a block: each new one from those 2, 7, 15 and 16 places back; the newest stands first. -/
def wordsOf : Nat → List Nat → List Nat
  | 0, ws => ws.reverse
  | n + 1, ws =>
    let back := fun i => ws.getD (i - 1) 0
    wordsOf n ((turns 19 61 6 true (back 2) + back 7 + turns 1 8 7 true (back 15) + back 16) % 2 ^ 64 :: ws)

/-- One round on the eight words of the state. -/
def hashRound (st : List Nat) (kw : Nat) : List Nat :=
  match st with
  | [a, b, c, d, e, f, g, h] =>
    let pick := (e &&& f) ^^^ ((2 ^ 64 - 1 - e) &&& g)
    let most := (a &&& b) ^^^ (a &&& c) ^^^ (b &&& c)
    let t := h + turns 14 18 41 false e + pick + kw
    [(t + turns 28 34 39 false a + most) % 2 ^ 64, a, b, c, (d + t) % 2 ^ 64, e, f, g]
  | _ => st

/-- The state after a block of sixteen words. -/
def hashBlock (keys st block : List Nat) : List Nat :=
  let out := ((wordsOf 64 block.reverse).zip keys).foldl (fun st p => hashRound st ((p.1 + p.2) % 2 ^ 64)) st
  (st.zip out).map fun p => (p.1 + p.2) % 2 ^ 64

/-- The number that big-endian bytes hold. -/
def ofBytesBig (bs : List Byte) : Nat := bs.foldl (fun n b => 256 * n + b.toNat) 0

/-- `n` big-endian bytes of a number. -/
def toBytesBig (n v : Nat) : List Byte := (toBytesLe n v).reverse
where
  /-- The same, low byte first. -/
  toBytesLe (n v : Nat) : List Byte := (List.range n).map fun i => BitVec.ofNat 8 (v / 256 ^ i)

/-- A message with its padding: a one bit, zeros, and its length in bits in 16 bytes, in whole blocks of 128 bytes. -/
def padMessage (m : List Byte) : List Byte :=
  m ++ [0x80#8] ++ List.replicate ((239 - m.length % 128) % 128) 0#8 ++ toBytesBig 16 (8 * m.length)

/-- The SHA-384 digest of bytes, as a number of 384 bits. -/
def sha384 (m : List Byte) : Nat :=
  let p := padMessage m
  let keys := smallPrimes.map (rootBits 3)
  let st := (List.range (p.length / 128)).foldl (fun st i =>
    hashBlock keys st ((List.range 16).map fun j => ofBytesBig ((p.drop (128 * i + 8 * j)).take 8))) hashStart
  (st.take 6).foldl (fun n w => 2 ^ 64 * n + w) 0

/-! ### ECDSA on P-384 -/

/-- The field of the curve. -/
def curveP : Nat := 2 ^ 384 - 2 ^ 128 - 2 ^ 96 + 2 ^ 32 - 1
/-- The order of its base point. -/
def curveN : Nat := 0xFFFFFFFFFFFFFFFFFFFFFFFFFFFFFFFFFFFFFFFFFFFFFFFFC7634D81F4372DDF581A0DB248B0A77AECEC196ACCC52973
/-- The constant of its equation y² = x³ − 3x + b. -/
def curveB : Nat := 0xB3312FA7E23EE7E4988E056BE3F82D19181D9C6EFE8141120314088F5013875AC656398D8A2ED19D2A85C8EDD3EC2AEF
/-- The base point. -/
def curveG : Nat × Nat :=
  (0xAA87CA22BE8B05378EB1C71EF320AD746E1D3B628BA79B9859F741E082542A385502F25DBF55296C3A545E3872760AB7,
   0x3617DE4A96262C6F5D9E98BF9292DC29F8F41DBD289A147CE9DA3113B5F0B8C00A60B1CE1D7E819D7A431D7C90EA0E5F)

/-- The difference modulo `m`. -/
def subMod (m a b : Nat) : Nat := (a % m + (m - b % m)) % m

/-- `a ^ e` modulo `m`, from the low `n` bits of `e`. -/
def powMod (m : Nat) : Nat → Nat → Nat → Nat
  | 0, _, _ => 1
  | n + 1, a, e => (if e % 2 = 1 then a else 1) * powMod m n (a * a % m) (e / 2) % m

/-- A point of the curve: x = X / Z², y = Y / Z³; Z = 0 is the point at infinity. -/
structure CurvePoint where
  x : Nat
  y : Nat
  z : Nat
  deriving DecidableEq, Repr

/-- The point at infinity. -/
def CurvePoint.zero : CurvePoint := ⟨1, 1, 0⟩

/-- A point added to itself. -/
def CurvePoint.double (a : CurvePoint) : CurvePoint :=
  let p := curveP
  let zz := a.z * a.z % p
  let yy := a.y * a.y % p
  let m := 3 * (subMod p a.x zz * ((a.x + zz) % p)) % p
  let s := 4 * (a.x * yy) % p
  let x := subMod p (m * m) (2 * s)
  ⟨x, subMod p (m * subMod p s x) (8 * (yy * yy)), 2 * (a.y * a.z) % p⟩

/-- The sum of two points. -/
def CurvePoint.add (a b : CurvePoint) : CurvePoint :=
  let p := curveP
  if a.z = 0 then b
  else if b.z = 0 then a
  else
    let za := a.z * a.z % p
    let zb := b.z * b.z % p
    let u := a.x * zb % p
    let v := b.x * za % p
    let s := a.y * (b.z * zb % p) % p
    let t := b.y * (a.z * za % p) % p
    if u = v then (if s = t then a.double else .zero)
    else
      let h := subMod p v u
      let r := subMod p t s
      let hh := h * h % p
      let hhh := h * hh % p
      let x := subMod p (r * r) (hhh + 2 * (u * hh))
      ⟨x, subMod p (r * subMod p (u * hh) x) (s * hhh), h * (a.z * b.z % p) % p⟩

/-- A point times the low `n` bits of `k`. -/
def CurvePoint.times : Nat → Nat → CurvePoint → CurvePoint
  | 0, _, _ => .zero
  | n + 1, k, a => (if k % 2 = 1 then a else .zero).add (times n (k / 2) a.double)

/-- Whether coordinates are those of a point of the curve. -/
def onCurve (x y : Nat) : Bool :=
  decide (x < curveP) && decide (y < curveP) && (y * y + 3 * x) % curveP == (x * x * x + curveB) % curveP

/-- The ECDSA check of a digest `e` against the key `(x, y)`. -/
def ecdsaOk (x y e r s : Nat) : Bool :=
  let n := curveN
  let w := powMod n 384 s (n - 2)
  let q := (CurvePoint.times 384 (e * w % n) ⟨curveG.1, curveG.2, 1⟩).add (CurvePoint.times 384 (r * w % n) ⟨x, y, 1⟩)
  let is := fun v => decide (v < curveP) && v * (q.z * q.z) % curveP == q.x
  onCurve x y && decide (1 ≤ r) && decide (r < n) && decide (1 ≤ s) && decide (s < n) && q.z != 0 && (is r || is (r + n))

/-- The digest of a public key: of its two coordinates, 48 bytes each, high byte first. -/
def keyDigest (x y : Nat) : Nat := sha384 (toBytesBig 48 x ++ toBytesBig 48 y)

end Sys2Proof.Machine

namespace Sys2Proof

open Machine in
/-- Whether an image carries a good signature under the key whose digest is fused into the package (R419, R477 step 2). -/
def Signed.verified (v : Signed) : Bool :=
  keyDigest v.keyX v.keyY == Config.fusedKeyDigest && ecdsaOk v.keyX v.keyY (sha384 v.data) v.r v.s

end Sys2Proof
end

