-- ==== Sys2Proof/Machine/Platform.lean ====
section
/-!
DEFINITION. The host's accesses to memory, scrubbing, power and temperature, reset and bring-up, the reload of the dispatch fabric,
and the management endpoint (10_levels.md, 21_errors.md, 23_front_end.md, 28_platform.md).
-/
namespace Sys2Proof.Machine

/-! ### The host and the scrubber (R209, R210, R401) -/

/-- `n` consecutive addresses. -/
def addrsFrom (pa n : Nat) : List Nat := (List.range n).map fun i => pa + i

/-- Whether a host port, an address and a length are an access to the register block through BAR0 (R406): 4 or 8 aligned bytes. -/
def barAccess (port pa n : Nat) : Bool :=
  decide (port < 2) && decide (regBase ≤ pa) && decide (pa < regBase + 0x200000) && (n == 4 || n == 8) && pa % n == 0

/-- Whether they are an access to device HBM (R210): ports 0 and 1. -/
def hbmAccess (port pa n : Nat) : Bool := decide (port < 2) && n != 0 && (addrsFrom pa n).all isHbm

/-- HOST_MEM_READ: device HBM through CXL.mem (R210, R230, R397), whose data is returned when its last piece has been performed, with the
poison indication; or a register through BAR0 (R406). -/
def execHostMemRead (pa : HostPlace) (len : Nat) (s : State) : Out :=
  let { port, pa } := pa
  if barAccess port pa len then .next (s.emit (.register (BitVec.ofNat 64 (s.feLoad (pa - regBase) len))))
  else if hbmAccess port pa len then
    let h : HeldAccess := { Actor.host.held 0 0 (addrsFrom pa len).zipIdx [] with port := some port, stamp := s.stamp }
    let s := { s with
      stamp := s.stamp + 1
      hostReads := s.hostReads ++ [({ id := h.stamp, len := len, left := (s.splitOf h).length, got := [] } : HostRead)] }
    .next (s.access h)
  else .next s

/-- HOST_MEM_WRITE: device HBM (R210, R230), poisoned where the host signals poison (R394); or a register through BAR0 (R406). -/
def execHostMemWrite (pa : HostPlace) (data : HostData) (s : State) : Out :=
  let { port, pa } := pa
  let { bytes := data, bad } := data
  if barAccess port pa data.length then .next (s.feStore (pa - regBase) data.length (ofBytes data))
  else if hbmAccess port pa data.length then
    .next (s.access { Actor.host.held 0 1 (addrsFrom pa data.length).zipIdx data with port := some port, bad := bad })
  else .next s

/-- HOST_SNOOP (R209): the line's bytes are returned to the host, which then writes its data to its line, poisoned where it signals poison
(R394). -/
def execHostSnoop (pa : Nat) (data : HostData) (s : State) : Out :=
  let { bytes := data, bad } := data
  let line := addrsFrom (pa / 256 * 256) 256
  if line.all s.isHostWin ∧ pa % 256 + data.length ≤ 256 then
    let (bs, s) := s.readAs Actor.host line
    let s := ((s.emit (.snoopData (bs.map Prod.fst))).writePas Actor.host .plain ((addrsFrom pa data.length).zip data))
    .next ((if bad then s.poisonPas Actor.host (addrsFrom pa data.length) else s).writeBack pa)
  else .next s

/-- SCRUB (R401): one sector of HBM or the pool is read, rewritten corrected or poisoned, and R398 applied. -/
def execScrub (pa : Nat) (s : State) : Out :=
  if s.fe.scrubPeriod ≠ 0 ∧ s.isBacked pa then
    let (v, s) := s.checkSector (pa / 32)
    .next (s.rewrite (pa / 32, v)).settlePoison
  else .next s

/-! ### Power and temperature (R474, R475) -/

/-- POWER_WINDOW (R474): the window's average power, and the arithmetic clock a number of 25 MHz steps lower when it is above the
budget, or not lower when it is not; how many steps is free. -/
def execPowerWindow (watts : Nat) (s : State) : Out :=
  let (k, s) := s.freeNat
  let now := s.fe.clkMhz.toNat
  let clk := if min s.fe.pwrBudget.toNat 2800 < watts then max 875 (now - 25 * (k % 35 + 1)) else min 1750 (now + 25 * (k % 36))
  .next (s.setFe fun f => { f with pkgPwr := BitVec.ofNat 64 watts, clkMhz := BitVec.ofNat 64 clk })

/-- Sets DIE_TEMPd, in units of 0.125 °C. -/
def State.setTemp (s : State) (d : Fin 4) (t : Nat) : State :=
  s.setFe fun f => { f with dieTemp := f.dieTemp.set d.val (BitVec.ofNat 64 t) d.isLt }

/-- THERMAL_THROTTLE (R474): the die reaches 105 °C and is held at 875 MHz. -/
def execThermalThrottle (die : Fin 4) (s : State) : Out :=
  .next ({ s with hot := s.hot.set die.val true die.isLt }.setTemp die 840)

/-- THERMAL_HOLD_END (R474): the die has fallen below 100 °C. -/
def execThermalHoldEnd (die : Fin 4) (s : State) : Out :=
  if s.hot.get die then
    let (k, s) := s.freeNat
    .next ({ s with hot := s.hot.set die.val false die.isLt }.setTemp die (k % 800))
  else .next s

/-- THERMAL_TRIP (R474): package power is removed; no completion record is written. -/
def execThermalTrip (s : State) : Out := .next { s with powered := false, launches := [] }

/-! ### Reset and bring-up (R402, R403, R476, R477) -/

/-- Steps 4 to 7 of R477: HOSTWIN_SIZE, the moorings, the bytes that firmware writes to HBM, tenancy 0, and FE_STAT.UP where the bitstream of
the dispatch fabric verifies (R419). The pilot core has done its work. -/
def State.bringUp (s : State) (hostwin : BitVec 32) (ten : BitVec 64) (load : List (Nat × BitVec 8)) : State :=
  let s := if hostwin.toNat ≤ 16384 then s.setFe fun f => { f with hostwinSize := hostwin } else s
  let s := s.tuneMoorings
  let s := { s with boot := .up, pilot := { s.pilot with running := false } }
  let s := s.putPas Actor.host .plain (load.filter fun w => isHbm w.1)
  let s := { s with mem := { s.mem with hist := [] } }
  let s := s.writeTencfg 0 ten
  if s.firmware.bitstream.verified then s.setFe fun f => { f with feStat := f.feStat ||| 0x80000000 } else s

/-- Memory outside the package, which a cold reset does not reach: the pool and the host's. -/
def outsideCells (cs : List Host.Cell) : List Host.Cell := cs.filter fun c => !isHbm c.1

/-- The writes to the bytes of a sector, the last one first. -/
def State.sectorRecs (s : State) (sec : Nat) : List WriteRec := s.mem.hist.filter fun w => w.addr / 32 == sec

/-- What a reset leaves of a sector: a free number of the last writes to it, none of which has reached memory, is undone with the poison
that they brought or cleared (R402); those to a page that has moved there stay (R403). -/
def State.loseSector (s : State) (sec : Nat) : State :=
  let rs := s.sectorRecs sec
  let loose := rs.takeWhile fun w => !w.durable
  let (f, s) := s.freeNat
  let gone := rs.take (f % (loose.length + 1))
  if s.stubs.any (fun t => t.xp.isNone && t.dst == pageOf (sec * 32)) then s
  else
    match gone.getLast? with
    | none => s
    | some w =>
      let poisoned := s.mem.marks.contains (sec, .poison)
      let (b, s) := s.freeBit
      let s := { s with mem := { s.mem with cells := gone.foldl (fun cs (w : WriteRec) => cellsPut cs w.addr w.old) s.mem.cells } }
      s.setMark sec (if w.oldBad || (poisoned && b) then some .poison else none)

/-- Dirty data that has not been written back is lost (R402). -/
def State.loseDirty (s : State) : State := (sectorsOf (s.mem.hist.map WriteRec.addr)).foldl State.loseSector s

/-- The pilot core starts from its boot ROM (R477 step 1; log entry 72). -/
def Pilot.boot : Pilot :=
  { core := { Core.reset.modSeq .X fun v => { v with ended := false, entry := 1 } with
      iter := some { launch := 0, tuple := 0, ten := 0, tape := none, started := true } }
    running := true, fault := none }

/-- The pilot core begins to load the dispatch fabric (R419), or has halted where the firmware image does not verify (R477 step 2). -/
def State.startLoading (s : State) (hostwin : BitVec 32) (ten : BitVec 64) (load : List (Nat × BitVec 8)) : State :=
  if s.firmware.image.verified then { s with boot := .loading hostwin ten load, pilot := Pilot.boot } else { s with boot := .halted }

/-- What any reset leaves: every register at its Reset value, every array cleared; the model's counters, what is outside, and the
firmware store go on. -/
def State.afterReset (s : State) : State :=
  { State.reset with
    free := s.free, stamp := s.stamp, cycle := s.cycle, time := s.time, inputs := s.inputs, outputs := s.outputs
    firmware := s.firmware, newFirmware := s.newFirmware }

/-- A cold reset (R476, R477): a firmware image that waits takes effect. -/
def State.coldReset (s : State) (hostwin : BitVec 32) (ten : BitVec 64) (load : List (Nat × BitVec 8)) : State :=
  let s := s.loseDirty
  { s.afterReset with
    mem := { Memory.reset with cells := outsideCells s.mem.cells, marks := s.mem.marks.filter fun m => !isHbm (m.1 * 32) }
    firmware := s.newFirmware.getD s.firmware, newFirmware := none }.startLoading hostwin ten load

/-- A warm reset (R402, R403). -/
def State.warmReset (s : State) (hostwin : BitVec 32) (ten : BitVec 64) (load : List (Nat × BitVec 8)) : State :=
  let s := s.loseDirty
  let f := s.fe
  { s.afterReset with
    mem := { Memory.reset with cells := s.mem.cells, marks := s.mem.marks }
    storeClk := s.storeClk
    hot := s.hot
    fe := { FeRegs.reset with
      qlId := f.qlId, qlPod := f.qlPod, qlStarve := f.qlStarve, qlThr := f.qlThr, lanecap := f.lanecap
      poolPorts := f.poolPorts, poolSize := f.poolSize, scrubPeriod := f.scrubPeriod } }.startLoading hostwin ten load

/-- COLD_RESET (R476, R477): RST_N was asserted and has been released. -/
def execColdReset (hostwin : BitVec 32) (ten : BitVec 64) (load : List (Nat × BitVec 8)) (s : State) : Out :=
  .next (s.coldReset hostwin ten load)

/-! ### The dispatch fabric (R419, R421) -/

/-- FABRIC_ERROR (R421): RELOAD is set, every active launch ends with status RESET once its iterations have finished; then the pilot core
loads the fabric again. -/
def execFabricError (s : State) : Out :=
  if s.fabricUp then
    let s := s.setFe fun f => { f with feStat := f.feStat ||| 0x40000000 }
    let s := { s with
      pilot := Pilot.boot
      launches := s.launches.map fun (l : Launch) => if l.ending.isNone then { l with ending := some (statusReset, 0, 0) } else l }
    .next ((s.launches.map Launch.id).foldl State.settleLaunch s)
  else .next s

/-- The pilot core has loaded the fabric: after a reset the device comes up (R477), after an error RELOAD is cleared, once no launch is
left (R421). How long it takes is open. -/
def State.finishLoading (s : State) : State :=
  if !s.pilot.running || Config.loading s.cycle then s
  else
    match s.boot with
    | .loading hostwin ten load => s.bringUp hostwin ten load
    | .up =>
      if s.fe.feStat.getLsbD 30 && s.launches.isEmpty then
        { s with pilot := { s.pilot with running := false } }.setFe fun f => { f with feStat :=
          (f.feStat &&& 0x3FFFFFFF) ||| (if s.firmware.bitstream.verified then 0x80000000 else 0) }
      else s
    | _ => s

/-! ### Management (R478 to R480) -/

/-- AUTH. -/
def mgmtAuth : Nat := 16
/-- BUSY. -/
def mgmtBusy : Nat := 17
/-- RANGE. -/
def mgmtRange : Nat := 18
/-- BADSIG. -/
def mgmtBadsig : Nat := 19

/-- A command that needs a session (R479): refused with AUTH outside one. -/
def State.inSession (s : State) (f : State → State) : Out := .next (if s.session then f s else s.emit (.management mgmtAuth))

/-- SECURE_SESSION (R479). -/
def execSecureSession (s : State) : Out := .next { s with session := true }

/-- GET_MEASUREMENTS (R478): the digests of the boot ROM, the firmware image, the bitstream and the fuse state, signed. -/
def execGetMeasurements (s : State) : Out :=
  let rom := sha384 Config.bootRom
  let image := sha384 s.firmware.image.data
  let fabric := sha384 s.firmware.bitstream.data
  let fuses := sha384 Config.fuses
  .next (s.emit (.measurements rom image fabric fuses (Config.attest rom image fabric fuses)))

/-- REGRD (R479). -/
def execRegrd (off : Nat) (s : State) : Out := .next (s.emit (.register (BitVec.ofNat 64 (s.regRead off))))

/-- REGWR (R479): the write that a host would make, answered with the FE_ERR code of a refusal. -/
def execRegwr (off : Nat) (v : BitVec 64) (s : State) : Out :=
  s.inSession fun s =>
    let t := (s.setFe fun f => { f with feErr := 0 }).regWrite off v
    let code := if t.fe.feErr.getLsbD 31 then fld t.fe.feErr 27 24 else 0
    let t := if s.fe.feErr.getLsbD 31 ∧ ¬(off = 0 ∧ v = 0) then t.setFe fun f => { f with feErr := s.fe.feErr } else t
    t.emit (.management code)

/-- Whether an enabled store instance has a domain (R480). -/
def State.domainBusy (s : State) (n : Nat) : Bool := s.insts.toList.any fun i => i.cfg.any fun c => c.dom == n

/-- KEYSET (R479, R480). -/
def execKeyset (n : Nat) (key : BitVec 256) (s : State) : Out :=
  s.inSession fun s =>
    if n < 1 ∨ 255 < n then s.emit (.management mgmtRange)
    else if s.domainBusy n then s.emit (.management mgmtBusy)
    else { s with keys := (n, key) :: s.keys.filter fun k => k.1 != n }.emit (.management 0)

/-- KEYCLR (R479, R480). -/
def execKeyclr (n : Nat) (s : State) : Out :=
  s.inSession fun s =>
    if s.domainBusy n ∧ n ≠ 0 then s.emit (.management mgmtBusy)
    else { s with keys := s.keys.filter fun k => k.1 != n }.emit (.management 0)

/-- FWUPD (R421, R479): the image, verified as in R477 step 2, takes effect at the next cold reset. -/
def execFwupd (image : Firmware) (s : State) : Out :=
  s.inSession fun s =>
    if image.image.verified then { s with newFirmware := some image }.emit (.management 0)
    else s.emit (.management mgmtBadsig)

/-- RESET with kind COLD (R476, R479). -/
def execResetCold (hostwin : BitVec 32) (ten : BitVec 64) (load : List (Nat × BitVec 8)) (s : State) : Out :=
  s.inSession fun s => (s.emit (.management 0)).coldReset hostwin ten load

/-- RESET with kind WARM (R402, R476, R479). -/
def execResetWarm (hostwin : BitVec 32) (ten : BitVec 64) (load : List (Nat × BitVec 8)) (s : State) : Out :=
  s.inSession fun s => (s.emit (.management 0)).warmReset hostwin ten load

end Sys2Proof.Machine
end

