-- ==== Sys2Proof/Machine/Sysreg.lean ====
section
/-!
DEFINITION. System registers (R42, R77, R78): MFS and MTS of every register that a chapter assigns.
-/
namespace Sys2Proof.Machine

/-- Whether MFS can read a number: every register that a chapter assigns (R42). -/
def sysAssigned (r : Nat) : Bool :=
  decide (r ≤ 4) || (decide (0x40 ≤ r) && decide (r ≤ 0x4E)) || (decide (0x50 ≤ r) && decide (r ≤ 0x5C))
    || (decide (0x60 ≤ r) && decide (r ≤ 0x67)) || (decide (0x70 ≤ r) && decide (r ≤ 0x8F))
    || (decide (0x100 ≤ r) && decide (r ≤ 0x103)) || r == 0x108 || r == 0x109
    || (decide (0x110 ≤ r) && decide (r ≤ 0x114))

/-- TAPEVALID (R342). -/
def Core.tapeValid (c : Core) : Nat :=
  ((List.finRange 16).map fun t => if (c.tapes.get t).st == .valid then 2 ^ t.val else 0).sum

/-- TSTATi (R288): eight status bytes. -/
def Core.tstatWord (c : Core) (i : Nat) : Nat :=
  ofBytes ((List.range 8).map fun j => c.tstat.get (Fin.ofNat 64 (8 * i + j)))

/-- The value of a system register for a sequencer (R77), at its width. -/
def State.sysRead (s : State) (w : Who) (r : Nat) : Nat :=
  let c := s.core w.core
  let v := c.seq w.sq
  if r = 0 then v.fpstat.toNat
  else if r ≤ 3 then (v.rlc (r - 1)).toNat
  else if r = 4 then sqIndex w.sq
  else if r ≤ 0x47 then (c.h.get (Fin.ofNat 8 (r - 0x40))).toNat
  else if r ≤ 0x4B then (c.k.get (Fin.ofNat 4 (r - 0x48))).toNat
  else if r = 0x4C then c.acct.toNat
  else if r = 0x4D then c.vwb.toNat
  else if r = 0x4E then c.mcr.toNat
  else if r = 0x50 then c.tags.toNat
  else if r = 0x51 then c.engerr.toNat
  else if r = 0x52 then c.engerrva.toNat
  else if r = 0x53 then c.bferr.toNat
  else if r = 0x54 then c.tapemiss.toNat
  else if r = 0x55 then c.rpstat.toNat
  else if r = 0x56 then c.rpnext.toNat
  else if r = 0x57 then c.tapeValid
  else if r = 0x58 then c.htgen.toNat
  else if r = 0x59 then c.ntgen.toNat
  else if r = 0x5A then c.ntlocks.toNat
  else if r = 0x5B then c.derr.toNat
  else if r = 0x5C then c.derrva.toNat
  else if r ≤ 0x67 then c.tstatWord (r - 0x60)
  else if r ≤ 0x8F then (c.pv.get (Fin.ofNat 32 (r - 0x70))).toNat
  else if r = 0x100 then w.core.val
  else if r = 0x101 then c.trapcause.toNat
  else if r = 0x102 then c.trapva.toNat
  else if r = 0x103 then c.trapvec.toNat
  else if r = 0x108 then (s.atomflags.get (s.tenOf w.core).toFin).toNat
  else if r = 0x109 then s.storeClk.toNat
  else if r ≤ 0x113 then (c.epc.get (Fin.ofNat 4 (r - 0x110))).toNat
  else c.snap.length

/-- The wait of R12 and R78: a result of the sequencer in flight, or an MDRAIN of it whose flags are still to be raised (R134). In trap mode
the results in the snapshot buffer are not waited for (DESIGN CHOICE, log entry 75). -/
def Core.flagsPending (c : Core) (q : Sq) : Bool :=
  (c.flights.any fun f => f.sq == q) || (c.heldBack.any fun e => e.sq == q)
    || (q == .C && c.matWrites.any fun m => m.drain)

/-- The class that MFS gives its destination (R348). -/
def mfsClass (r : Nat) : ClassUse :=
  if 0x70 ≤ r ∧ r ≤ 0x8F then .patch (Fin.ofNat 32 (r - 0x70))
  else if 0x48 ≤ r ∧ r ≤ 0x4B then .clean
  else if 1 ≤ r ∧ r ≤ 3 then .ofLc (r - 1)
  else .varying

/-- MFS (R12, R77, R250): ATOMFLAGS waits for the AMOs of its sequencer; reading k0 to k3 while a tape records sets its KREAD flag (R348). -/
def execMfs (d : Reg) (r : BitVec 12) (x : Ctl) (s : State) : Out :=
  let n := r.toNat
  issue { x := x, minLat := 1, gdst := [d], cls := mfsClass n, enc := encode (.mfs d r x)
          illegal := fun _ _ => !sysAssigned n
          waits := fun cx s => (n == 0 && (s.core cx.who.core).flagsPending cx.who.sq) || (n == 0x108 && s.amoOut cx.who) }
    (fun cx s =>
      let s := s.modCore cx.who.core fun c =>
        match c.tapePhase, c.iter with
        | .recording, some { tape := some t, .. } =>
          if decide (0x48 ≤ n) && decide (n ≤ 0x4B) && cx.who.sq != .X then
            { c with tapes := c.tapes.set t.val { c.tapes.get t with kread := true } t.isLt } else c
        | _, _ => c
      .land cx s [.g d (BitVec.ofNat 64 (s.sysRead cx.who n))]) s

/-- Registers that MTS may write from sequencer `q`, in trap mode or not (R42, R78, R153, R372), those with rows of their own
excepted. -/
def mtsAllowed (q : Sq) (trapMode : Bool) (r : Nat) : Bool :=
  (decide (1 ≤ r) && decide (r ≤ 3)) || (decide (0x40 ≤ r) && decide (r ≤ 0x47) && q == .X)
    || ((r == 0x4C || r == 0x4D) && q == .C) || (r == 0x103 && q == .X)
    || (decide (0x110 ≤ r) && decide (r ≤ 0x113) && q == .X && trapMode)

/-- How a tape treats MTS (R347). -/
def mtsTape (r : Nat) : TapeUse :=
  if r = 0x4C ∨ r = 0x4D then .command else if 1 ≤ r ∧ r ≤ 3 then .quiet else .abandon

/-- MTS to the registers of R10, R88, R153 and R372 (R78): LC0 to LC2, h0 to h7, ACCT, VWB, TRAPVEC and the EPC registers. -/
def execMts (d : Reg) (r : BitVec 12) (x : Ctl) (s : State) : Out :=
  let n := r.toNat
  issue { x := x, gsrc := [d], tape := mtsTape n, enc := encode (.mts d r x)
          illegal := fun cx s => !mtsAllowed cx.who.sq (s.core cx.who.core).inTrap n }
    (fun cx s =>
      let v := (s.seq cx.who).rg d
      let lo := v.setWidth 32
      if n ≤ 3 then
        .done (s.modSeq cx.who fun q => (q.setLc (n - 1) lo).setLcclass (n - 1) (q.gclass d)) .next false
      else if n ≤ 0x47 then
        .done (s.modCore cx.who.core fun c => { c with hLate := c.hLate ++ [(Fin.ofNat 8 (n - 0x40), v, s.cycle)] }) .next false
      else if n = 0x4C then
        if lo.toNat / 8 ≠ 0 then .trap Trap.illegal
        else .done (s.modCore cx.who.core fun c => { c with acct := lo }) .next false
      else if n = 0x4D then
        if lo.toNat / 128 ≠ 0 then .trap Trap.illegal
        else .done (s.modCore cx.who.core fun c => { c with vwb := lo }) .next false
      else if v.getLsbD 0 then .trap Trap.illegal
      else if n = 0x103 then .done (s.modCore cx.who.core fun c => { c with trapvec := v }) .next false
      else
        .done (s.modCore cx.who.core fun c =>
          { c with epc := c.epc.set (n % 4) v (Nat.mod_lt n (by decide)) }) .next false) s

/-- MTS FPSTAT (R11, R78). -/
def execMtsFpstat (d : Reg) (x : Ctl) (s : State) : Out :=
  issue { x := x, gsrc := [d], tape := .abandon, enc := encode (.mtsFpstat d x)
          waits := fun cx s => (s.core cx.who.core).flagsPending cx.who.sq }
    (fun cx s =>
      let v := ((s.seq cx.who).rg d).setWidth 32
      if v.toNat / 64 ≠ 0 then .trap Trap.illegal
      else .done (s.modSeq cx.who fun q => { q with fpstat := v }) .next false) s

/-- MTS ATOMFLAGS (R250): X only; once the AMOs of X have been performed it clears the flags whose bits are 1. -/
def execMtsAtomflags (d : Reg) (x : Ctl) (s : State) : Out :=
  issue { x := x, gsrc := [d], tape := .abandon, enc := encode (.mtsAtomflags d x)
          illegal := fun cx _ => cx.who.sq != .X, waits := fun cx s => s.amoOut cx.who }
    (fun cx s =>
      let v := ((s.seq cx.who).rg d).setWidth 32
      if v.toNat / 32 ≠ 0 then .trap Trap.illegal
      else
        let t := (s.tenOf cx.who.core).toFin
        .done { s with atomflags := s.atomflags.set t.val (s.atomflags.get t &&& ~~~v) t.isLt } .next false) s

/-- MTS ENGERR (R291): only 0, which clears ENGERR and ENGERRVA. -/
def execMtsEngerr (d : Reg) (x : Ctl) (s : State) : Out :=
  issue { x := x, gsrc := [d], tape := .abandon, enc := encode (.mtsEngerr d x) }
    (fun cx s =>
      if (s.seq cx.who).rg d ≠ 0 then .trap Trap.illegal
      else .done (s.modCore cx.who.core fun c => { c with engerr := 0, engerrva := 0 }) .next false) s

/-- MTS DERR (R400): only 0, which clears DERR and DERRVA. -/
def execMtsDerr (d : Reg) (x : Ctl) (s : State) : Out :=
  issue { x := x, gsrc := [d], tape := .abandon, enc := encode (.mtsDerr d x) }
    (fun cx s =>
      if (s.seq cx.who).rg d ≠ 0 then .trap Trap.illegal
      else .done (s.modCore cx.who.core fun c => { c with derr := 0, derrva := 0 }) .next false) s

/-- MTS RPSTAT (R360): X only, and only bit 30, ABORT. -/
def execMtsRpstat (d : Reg) (x : Ctl) (s : State) : Out :=
  issue { x := x, gsrc := [d], tape := .abandon, enc := encode (.mtsRpstat d x)
          illegal := fun cx _ => cx.who.sq != .X }
    (fun cx s =>
      let v := (s.seq cx.who).rg d
      if v &&& ~~~0x40000000#64 ≠ 0 then .trap Trap.illegal
      else .done (s.modCore cx.who.core fun c =>
        { c with rpstat := (c.rpstat &&& ~~~0x40000000#64) ||| v }) .next false) s

end Sys2Proof.Machine
end

