-- ==== Sys2Proof/Machine/Replay.lean ====
section
/-!
DEFINITION. The issue of tape entries (R353 to R360): each command entry has the meaning of its instruction.
-/
namespace Sys2Proof.Machine

/-- The meaning of a command entry's instruction (R347, R353); no other instruction makes a command entry. -/
def replayCommand (i : Instr) (s : State) : Out :=
  match i with
  | .mts d r x => execMts d r x s
  | .vadd v a b x => execVadd v a b x s
  | .vsub v a b x => execVsub v a b x s
  | .vmul v a b x => execVmul v a b x s
  | .vfma v a b x => execVfma v a b x s
  | .vmin v a b x => execVmin v a b x s
  | .vmax v a b x => execVmax v a b x s
  | .vminn v a b x => execVminn v a b x s
  | .vmaxn v a b x => execVmaxn v a b x s
  | .vand v a b x => execVand v a b x s
  | .vor v a b x => execVor v a b x s
  | .vxor v a b x => execVxor v a b x s
  | .vandn v a b x => execVandn v a b x s
  | .vsll v a b x => execVsll v a b x s
  | .vsrl v a b x => execVsrl v a b x s
  | .vsra v a b x => execVsra v a b x s
  | .vfshl v a b x => execVfshl v a b x s
  | .vfshr v a b x => execVfshr v a b x s
  | .vsel v a b x => execVsel v a b x s
  | .vperm v a b x => execVperm v a b x s
  | .vabsd v a b x => execVabsd v a b x s
  | .vcmp m a b c x => execVcmp m a b c x s
  | .vneg v a x => execVneg v a x s
  | .vabs v a x => execVabs v a x s
  | .vmov v a x => execVmov v a x s
  | .vpopc v a x => execVpopc v a x s
  | .vclz v a x => execVclz v a x s
  | .vctz v a x => execVctz v a x s
  | .vbrev v a x => execVbrev v a x s
  | .vsqrt v a x => execVsqrt v a x s
  | .vrcp v a x => execVrcp v a x s
  | .vrsqrt v a x => execVrsqrt v a x s
  | .vexp v a x => execVexp v a x s
  | .vexp2 v a x => execVexp2 v a x s
  | .vlog v a x => execVlog v a x s
  | .vlog2 v a x => execVlog2 v a x s
  | .vtanh v a x => execVtanh v a x s
  | .vsigm v a x => execVsigm v a x s
  | .vsin v a x => execVsin v a x s
  | .vcos v a x => execVcos v a x s
  | .vcvt v a k r p x => execVcvt v a k r p x s
  | .vcvtef v a e f x => execVcvtef v a e f x s
  | .vrsum v a g x => execVrsum v a g x s
  | .vrmax v a g x => execVrmax v a g x s
  | .vrmin v a g x => execVrmin v a g x s
  | .vrmaxu v a g x => execVrmaxu v a g x s
  | .vrminu v a g x => execVrminu v a g x s
  | .vrmaxa v a g x => execVrmaxa v a g x s
  | .vror v a g x => execVror v a g x s
  | .vrand v a g x => execVrand v a g x s
  | .vrxor v a g x => execVrxor v a g x s
  | .vscan v a g x => execVscan v a g x s
  | .vscanmax v a g x => execVscanmax v a g x s
  | .vcmpr v a x => execVcmpr v a x s
  | .vexpd v a x => execVexpd v a x s
  | .vbcast v a x => execVbcast v a x s
  | .vfromm v m x => execVfromm v m x s
  | .vtom m a x => execVtom m a x s
  | .viota v x => execViota v x s
  | .vosm v a b x => execVosm v a b x s
  | .vlse v a k x => execVlse v a k x s
  | .vconf m a b x => execVconf m a b x s
  | .mand m n o x => execMand m n o x s
  | .mor m n o x => execMor m n o x s
  | .mxor m n o x => execMxor m n o x s
  | .mandn m n o x => execMandn m n o x s
  | .mnot m n x => execMnot m n x s
  | .msetl m a x => execMsetl m a x s
  | .vld v a o x => execVld v a o x s
  | .vst v a o x => execVst v a o x s
  | .vstu v a o x => execVstu v a o x s
  | .mma a b x => execMma a b x s
  | .mmas d a b x => execMmas d a b x s
  | .mgang d a b x => execMgang d a b x s
  | .mzero x => execMzero x s
  | .mdrain d a b x => execMdrain d a b x s
  | .mcfg a x => execMcfg a x s
  | .msave a b x => execMsave a b x s
  | .mload a b x => execMload a b x s
  | .vldg v a h o x => execVldg v a h o x s
  | .vldgAcq v a h o x => execVldgAcq v a h o x s
  | .vstg v a h o x => execVstg v a h o x s
  | .vstgRel v a h o x => execVstgRel v a h o x s
  | .fence sc x => execFence sc x s
  | .fencex sc c e x => execFencex sc c e x s
  | .publ sc x => execPubl sc x s
  | .cpy g a b x => execCpy g a b x s
  | .cpy2d g a b x => execCpy2d g a b x s
  | .gath g a b x => execGath g a b x s
  | .scat g a b x => execScat g a b x s
  | .wtany d a x => execWtany d a x s
  | .wtall d a x => execWtall d a x s
  | .tagclr a x => execTagclr a x s
  | .pxhash d a x => execPxhash d a x s
  | .pxlook d a x => execPxlook d a x s
  | .pxpin d a x => execPxpin d a x s
  | .pxunpin d a x => execPxunpin d a x s
  | .pxseal d a x => execPxseal d a x s
  | .pxalloc d a x => execPxalloc d a x s
  | .pxlease d a x => execPxlease d a x s
  | .pxprom d a x => execPxprom d a x s
  | .kmerge d a x => execKmerge d a x s
  | .bfill d a x => execBfill d a x s
  | .bfwait a x => execBfwait a x s
  | .plan d a x => execPlan d a x s
  | .pxfetch d a x => execPxfetch d a x s
  | .pxrepl d a x => execPxrepl d a x s
  | .kvld d a b x => execKvld d a b x s
  | .kvst d a b x => execKvst d a b x s
  | .rld d a x => execRld d a x s
  | .rst d a x => execRst d a x s
  | .ramo d a x => execRamo d a x s
  | _ => .next (s.raise s.turn Trap.illegal)

/-- A marker entry (R353 point 3): its tokens, and its push in its own issue cycle. -/
def replayMarker (x : Ctl) (s : State) : Out := issue { x := x } (fun _ s => .done s .next false) s

/-- Whether the entry that a replay stream is to issue lies in a poisoned sector (R399). -/
def Core.badEntry (c : Core) (q : Sq) : Bool := c.iterTape.any fun t => c.tapeBad.contains (t, c.rpNext q)

/-- REPLAY_ENTRY_ISSUE (R353 to R357): the next entry of stream `q` issues, waits, or takes a replay fault. -/
def execReplayEntryIssue (c : CoreId) (q : Sq) (s : State) : Out :=
  let k := s.core c
  match k.replayEntry q with
  | none => .next s
  | some e =>
    if !k.mayReplay s.cycle q then .next s
    else if k.badEntry q then
      let (n, s) := s.freeNat
      .next ((s.foundOnDie (n % 4096)).replayFaultOf { core := c, sq := q } Trap.illegal)
    else
      let w := e.w.toNat
      let x := ctlOf w (if w / 2 % 2 = 1 then e.ops.getLast?.map (BitVec.setWidth 32) else none)
      let t := s.modCore c fun k => { k.modSeq q fun v => { v with tried := s.cycle + 1 } with replayIssue := some (q, !e.interlocked) }
      let t := { t with turn := { core := c, sq := q } }
      let r :=
        if e.marker then replayMarker x t
        else match decodeOperand (w / 512 % 64) (w / 32768) x with
          | .ok i => replayCommand i t
          | .error _ => .next (t.raise t.turn Trap.illegal)
      match r with
      | .next t => .next { t.modCore c fun k => { k with replayIssue := none } with turn := s.turn }
      | .fault f => .fault f
      | .refused r => .refused r

end Sys2Proof.Machine
end

