-- ==== Sys2Proof/Machine/Dispatch.lean ====
section
/-!
DEFINITION. The meaning of every instruction: one arm per constructor, each one direct call.
-/
namespace Sys2Proof.Machine

/-- The meaning of an instruction or device step. -/
def exec (i : Instr) (s : State) : Host.Outcome State Fault Refusal :=
  match i with
  | .blk im r n => Sys2Proof.Machine.execBlk im r n s
  | .add d a b x => Sys2Proof.Machine.execAdd d a b x s
  | .sub d a b x => Sys2Proof.Machine.execSub d a b x s
  | .and d a b x => Sys2Proof.Machine.execAnd d a b x s
  | .or d a b x => Sys2Proof.Machine.execOr d a b x s
  | .xor d a b x => Sys2Proof.Machine.execXor d a b x s
  | .andn d a b x => Sys2Proof.Machine.execAndn d a b x s
  | .sll d a b x => Sys2Proof.Machine.execSll d a b x s
  | .srl d a b x => Sys2Proof.Machine.execSrl d a b x s
  | .sra d a b x => Sys2Proof.Machine.execSra d a b x s
  | .ror d a b x => Sys2Proof.Machine.execRor d a b x s
  | .fshl d a b x => Sys2Proof.Machine.execFshl d a b x s
  | .fshr d a b x => Sys2Proof.Machine.execFshr d a b x s
  | .mul d a b x => Sys2Proof.Machine.execMul d a b x s
  | .mulh d a b x => Sys2Proof.Machine.execMulh d a b x s
  | .mulhu d a b x => Sys2Proof.Machine.execMulhu d a b x s
  | .fns d a b x => Sys2Proof.Machine.execFns d a b x s
  | .div d a b x => Sys2Proof.Machine.execDiv d a b x s
  | .divu d a b x => Sys2Proof.Machine.execDivu d a b x s
  | .rem d a b x => Sys2Proof.Machine.execRem d a b x s
  | .remu d a b x => Sys2Proof.Machine.execRemu d a b x s
  | .min d a b x => Sys2Proof.Machine.execMin d a b x s
  | .max d a b x => Sys2Proof.Machine.execMax d a b x s
  | .minu d a b x => Sys2Proof.Machine.execMinu d a b x s
  | .maxu d a b x => Sys2Proof.Machine.execMaxu d a b x s
  | .addi d a im x => Sys2Proof.Machine.execAddi d a im x s
  | .andi d a im x => Sys2Proof.Machine.execAndi d a im x s
  | .slli d a h x => Sys2Proof.Machine.execSlli d a h x s
  | .srli d a h x => Sys2Proof.Machine.execSrli d a h x s
  | .srai d a h x => Sys2Proof.Machine.execSrai d a h x s
  | .rori d a h x => Sys2Proof.Machine.execRori d a h x s
  | .li d im x => Sys2Proof.Machine.execLi d im x s
  | .ldc d im x => Sys2Proof.Machine.execLdc d im x s
  | .popc d a x => Sys2Proof.Machine.execPopc d a x s
  | .clz d a x => Sys2Proof.Machine.execClz d a x s
  | .ctz d a x => Sys2Proof.Machine.execCtz d a x s
  | .brev d a x => Sys2Proof.Machine.execBrev d a x s
  | .bswap d a x => Sys2Proof.Machine.execBswap d a x s
  | .sextB d a x => Sys2Proof.Machine.execSextB d a x s
  | .sextH d a x => Sys2Proof.Machine.execSextH d a x s
  | .sextW d a x => Sys2Proof.Machine.execSextW d a x s
  | .zextB d a x => Sys2Proof.Machine.execZextB d a x s
  | .zextH d a x => Sys2Proof.Machine.execZextH d a x s
  | .zextW d a x => Sys2Proof.Machine.execZextW d a x s
  | .bfx d a b x => Sys2Proof.Machine.execBfx d a b x s
  | .bfxs d a b x => Sys2Proof.Machine.execBfxs d a b x s
  | .bfi d a b x => Sys2Proof.Machine.execBfi d a b x s
  | .cmp p a b c x => Sys2Proof.Machine.execCmp p a b c x s
  | .cmpi p a im c x => Sys2Proof.Machine.execCmpi p a im c x s
  | .sel d a p x => Sys2Proof.Machine.execSel d a p x s
  | .selN d a p x => Sys2Proof.Machine.execSelN d a p x s
  | .pand p q r x => Sys2Proof.Machine.execPand p q r x s
  | .por p q r x => Sys2Proof.Machine.execPor p q r x s
  | .pxor p q r x => Sys2Proof.Machine.execPxor p q r x s
  | .pandn p q r x => Sys2Proof.Machine.execPandn p q r x s
  | .pnot p q x => Sys2Proof.Machine.execPnot p q x s
  | .psetg p a x => Sys2Proof.Machine.execPsetg p a x s
  | .prd d x => Sys2Proof.Machine.execPrd d x s
  | .bt p o x => Sys2Proof.Machine.execBt p o x s
  | .bf p o x => Sys2Proof.Machine.execBf p o x s
  | .j o x => Sys2Proof.Machine.execJ o x s
  | .call o x => Sys2Proof.Machine.execCall o x s
  | .jr a x => Sys2Proof.Machine.execJr a x s
  | .callr d a x => Sys2Proof.Machine.execCallr d a x s
  | .ret a x => Sys2Proof.Machine.execRet a x s
  | .brk x => Sys2Proof.Machine.execBrk x s
  | .lcut x => Sys2Proof.Machine.execLcut x s
  | .mfs d r x => Sys2Proof.Machine.execMfs d r x s
  | .mts d r x => Sys2Proof.Machine.execMts d r x s
  | .mtsFpstat d x => Sys2Proof.Machine.execMtsFpstat d x s
  | .mtsAtomflags d x => Sys2Proof.Machine.execMtsAtomflags d x s
  | .mtsEngerr d x => Sys2Proof.Machine.execMtsEngerr d x s
  | .mtsDerr d x => Sys2Proof.Machine.execMtsDerr d x s
  | .mtsRpstat d x => Sys2Proof.Machine.execMtsRpstat d x s
  | .sld d a z o x => Sys2Proof.Machine.execSld d a z o x s
  | .slds d a z o x => Sys2Proof.Machine.execSlds d a z o x s
  | .sst d a z o x => Sys2Proof.Machine.execSst d a z o x s
  | .trap a x => Sys2Proof.Machine.execTrap a x s
  | .rte x => Sys2Proof.Machine.execRte x s
  | .ctxsv d a x => Sys2Proof.Machine.execCtxsv d a x s
  | .ctxrs d a x => Sys2Proof.Machine.execCtxrs d a x s
  | .snaprd d a x => Sys2Proof.Machine.execSnaprd d a x s
  | .wfe d a x => Sys2Proof.Machine.execWfe d a x s
  | .bar x => Sys2Proof.Machine.execBar x s
  | .barrierRelease launch => Sys2Proof.Machine.execBarrierRelease launch s
  | .quies d a x => Sys2Proof.Machine.execQuies d a x s
  | .tkcnt d x => Sys2Proof.Machine.execTkcnt d x s
  | .wlpush d a x => Sys2Proof.Machine.execWlpush d a x s
  | .wlpop d a x => Sys2Proof.Machine.execWlpop d a x s
  | .tapeb d x => Sys2Proof.Machine.execTapeb d x s
  | .tapee d x => Sys2Proof.Machine.execTapee d x s
  | .tguard d a x => Sys2Proof.Machine.execTguard d a x s
  | .tapeinv a x => Sys2Proof.Machine.execTapeinv a x s
  | .tapeq d a x => Sys2Proof.Machine.execTapeq d a x s
  | .vadd v a b x => Sys2Proof.Machine.execVadd v a b x s
  | .vsub v a b x => Sys2Proof.Machine.execVsub v a b x s
  | .vmul v a b x => Sys2Proof.Machine.execVmul v a b x s
  | .vfma v a b x => Sys2Proof.Machine.execVfma v a b x s
  | .vmin v a b x => Sys2Proof.Machine.execVmin v a b x s
  | .vmax v a b x => Sys2Proof.Machine.execVmax v a b x s
  | .vminn v a b x => Sys2Proof.Machine.execVminn v a b x s
  | .vmaxn v a b x => Sys2Proof.Machine.execVmaxn v a b x s
  | .vand v a b x => Sys2Proof.Machine.execVand v a b x s
  | .vor v a b x => Sys2Proof.Machine.execVor v a b x s
  | .vxor v a b x => Sys2Proof.Machine.execVxor v a b x s
  | .vandn v a b x => Sys2Proof.Machine.execVandn v a b x s
  | .vsll v a b x => Sys2Proof.Machine.execVsll v a b x s
  | .vsrl v a b x => Sys2Proof.Machine.execVsrl v a b x s
  | .vsra v a b x => Sys2Proof.Machine.execVsra v a b x s
  | .vfshl v a b x => Sys2Proof.Machine.execVfshl v a b x s
  | .vfshr v a b x => Sys2Proof.Machine.execVfshr v a b x s
  | .vsel v a b x => Sys2Proof.Machine.execVsel v a b x s
  | .vperm v a b x => Sys2Proof.Machine.execVperm v a b x s
  | .vabsd v a b x => Sys2Proof.Machine.execVabsd v a b x s
  | .vcmp m a b c x => Sys2Proof.Machine.execVcmp m a b c x s
  | .vneg v a x => Sys2Proof.Machine.execVneg v a x s
  | .vabs v a x => Sys2Proof.Machine.execVabs v a x s
  | .vmov v a x => Sys2Proof.Machine.execVmov v a x s
  | .vpopc v a x => Sys2Proof.Machine.execVpopc v a x s
  | .vclz v a x => Sys2Proof.Machine.execVclz v a x s
  | .vctz v a x => Sys2Proof.Machine.execVctz v a x s
  | .vbrev v a x => Sys2Proof.Machine.execVbrev v a x s
  | .vsqrt v a x => Sys2Proof.Machine.execVsqrt v a x s
  | .vrcp v a x => Sys2Proof.Machine.execVrcp v a x s
  | .vrsqrt v a x => Sys2Proof.Machine.execVrsqrt v a x s
  | .vexp v a x => Sys2Proof.Machine.execVexp v a x s
  | .vexp2 v a x => Sys2Proof.Machine.execVexp2 v a x s
  | .vlog v a x => Sys2Proof.Machine.execVlog v a x s
  | .vlog2 v a x => Sys2Proof.Machine.execVlog2 v a x s
  | .vtanh v a x => Sys2Proof.Machine.execVtanh v a x s
  | .vsigm v a x => Sys2Proof.Machine.execVsigm v a x s
  | .vsin v a x => Sys2Proof.Machine.execVsin v a x s
  | .vcos v a x => Sys2Proof.Machine.execVcos v a x s
  | .vcvt v a k r p x => Sys2Proof.Machine.execVcvt v a k r p x s
  | .vcvtef v a e f x => Sys2Proof.Machine.execVcvtef v a e f x s
  | .vrsum v a g x => Sys2Proof.Machine.execVrsum v a g x s
  | .vrmax v a g x => Sys2Proof.Machine.execVrmax v a g x s
  | .vrmin v a g x => Sys2Proof.Machine.execVrmin v a g x s
  | .vrmaxu v a g x => Sys2Proof.Machine.execVrmaxu v a g x s
  | .vrminu v a g x => Sys2Proof.Machine.execVrminu v a g x s
  | .vrmaxa v a g x => Sys2Proof.Machine.execVrmaxa v a g x s
  | .vror v a g x => Sys2Proof.Machine.execVror v a g x s
  | .vrand v a g x => Sys2Proof.Machine.execVrand v a g x s
  | .vrxor v a g x => Sys2Proof.Machine.execVrxor v a g x s
  | .vscan v a g x => Sys2Proof.Machine.execVscan v a g x s
  | .vscanmax v a g x => Sys2Proof.Machine.execVscanmax v a g x s
  | .vcmpr v a x => Sys2Proof.Machine.execVcmpr v a x s
  | .vexpd v a x => Sys2Proof.Machine.execVexpd v a x s
  | .vbcast v a x => Sys2Proof.Machine.execVbcast v a x s
  | .vextr d v x => Sys2Proof.Machine.execVextr d v x s
  | .vfromm v m x => Sys2Proof.Machine.execVfromm v m x s
  | .vtom m a x => Sys2Proof.Machine.execVtom m a x s
  | .viota v x => Sys2Proof.Machine.execViota v x s
  | .vosm v a b x => Sys2Proof.Machine.execVosm v a b x s
  | .vlse v a k x => Sys2Proof.Machine.execVlse v a k x s
  | .vdefer g a b x => Sys2Proof.Machine.execVdefer g a b x s
  | .vconf m a b x => Sys2Proof.Machine.execVconf m a b x s
  | .mand m n o x => Sys2Proof.Machine.execMand m n o x s
  | .mor m n o x => Sys2Proof.Machine.execMor m n o x s
  | .mxor m n o x => Sys2Proof.Machine.execMxor m n o x s
  | .mandn m n o x => Sys2Proof.Machine.execMandn m n o x s
  | .mnot m n x => Sys2Proof.Machine.execMnot m n x s
  | .msetl m a x => Sys2Proof.Machine.execMsetl m a x s
  | .mcnt n a x => Sys2Proof.Machine.execMcnt n a x s
  | .mffs n a x => Sys2Proof.Machine.execMffs n a x s
  | .vld v a o x => Sys2Proof.Machine.execVld v a o x s
  | .vst v a o x => Sys2Proof.Machine.execVst v a o x s
  | .vstu v a o x => Sys2Proof.Machine.execVstu v a o x s
  | .mma a b x => Sys2Proof.Machine.execMma a b x s
  | .mmas d a b x => Sys2Proof.Machine.execMmas d a b x s
  | .mgang d a b x => Sys2Proof.Machine.execMgang d a b x s
  | .mzero x => Sys2Proof.Machine.execMzero x s
  | .mdrain d a b x => Sys2Proof.Machine.execMdrain d a b x s
  | .mcfg a x => Sys2Proof.Machine.execMcfg a x s
  | .msave a b x => Sys2Proof.Machine.execMsave a b x s
  | .mload a b x => Sys2Proof.Machine.execMload a b x s
  | .ld d a z h o x => Sys2Proof.Machine.execLd d a z h o x s
  | .lds d a z h o x => Sys2Proof.Machine.execLds d a z h o x s
  | .ldAcq d a z h o x => Sys2Proof.Machine.execLdAcq d a z h o x s
  | .st d a z h o x => Sys2Proof.Machine.execSt d a z h o x s
  | .stRel d a z h o x => Sys2Proof.Machine.execStRel d a z h o x s
  | .vldg v a h o x => Sys2Proof.Machine.execVldg v a h o x s
  | .vldgAcq v a h o x => Sys2Proof.Machine.execVldgAcq v a h o x s
  | .vstg v a h o x => Sys2Proof.Machine.execVstg v a h o x s
  | .vstgRel v a h o x => Sys2Proof.Machine.execVstgRel v a h o x s
  | .amoAdd d a r z x => Sys2Proof.Machine.execAmoAdd d a r z x s
  | .amoAnd d a r z x => Sys2Proof.Machine.execAmoAnd d a r z x s
  | .amoOr d a r z x => Sys2Proof.Machine.execAmoOr d a r z x s
  | .amoXor d a r z x => Sys2Proof.Machine.execAmoXor d a r z x s
  | .amoMin d a r z x => Sys2Proof.Machine.execAmoMin d a r z x s
  | .amoMax d a r z x => Sys2Proof.Machine.execAmoMax d a r z x s
  | .amoMinu d a r z x => Sys2Proof.Machine.execAmoMinu d a r z x s
  | .amoMaxu d a r z x => Sys2Proof.Machine.execAmoMaxu d a r z x s
  | .amoSwap d a r z x => Sys2Proof.Machine.execAmoSwap d a r z x s
  | .amoCas d a r z x => Sys2Proof.Machine.execAmoCas d a r z x s
  | .amoFadd d a r z x => Sys2Proof.Machine.execAmoFadd d a r z x s
  | .plnstOr d a x => Sys2Proof.Machine.execPlnstOr d a x s
  | .plnstAnd d a x => Sys2Proof.Machine.execPlnstAnd d a x s
  | .fence sc x => Sys2Proof.Machine.execFence sc x s
  | .fencex sc c e x => Sys2Proof.Machine.execFencex sc c e x s
  | .publ sc x => Sys2Proof.Machine.execPubl sc x s
  | .cflush a x => Sys2Proof.Machine.execCflush a x s
  | .cinv a x => Sys2Proof.Machine.execCinv a x s
  | .cpref k h a x => Sys2Proof.Machine.execCpref k h a x s
  | .ntld d a b x => Sys2Proof.Machine.execNtld d a b x s
  | .ntlock a x => Sys2Proof.Machine.execNtlock a x s
  | .ntunl a x => Sys2Proof.Machine.execNtunl a x s
  | .cpy g a b x => Sys2Proof.Machine.execCpy g a b x s
  | .cpy2d g a b x => Sys2Proof.Machine.execCpy2d g a b x s
  | .gath g a b x => Sys2Proof.Machine.execGath g a b x s
  | .scat g a b x => Sys2Proof.Machine.execScat g a b x s
  | .wtany d a x => Sys2Proof.Machine.execWtany d a x s
  | .wtall d a x => Sys2Proof.Machine.execWtall d a x s
  | .ffrdy d a x => Sys2Proof.Machine.execFfrdy d a x s
  | .tagclr a x => Sys2Proof.Machine.execTagclr a x s
  | .pxhash d a x => Sys2Proof.Machine.execPxhash d a x s
  | .pxlook d a x => Sys2Proof.Machine.execPxlook d a x s
  | .pxpin d a x => Sys2Proof.Machine.execPxpin d a x s
  | .pxunpin d a x => Sys2Proof.Machine.execPxunpin d a x s
  | .pxseal d a x => Sys2Proof.Machine.execPxseal d a x s
  | .pxalloc d a x => Sys2Proof.Machine.execPxalloc d a x s
  | .pxlease d a x => Sys2Proof.Machine.execPxlease d a x s
  | .pxprom d a x => Sys2Proof.Machine.execPxprom d a x s
  | .kmerge d a x => Sys2Proof.Machine.execKmerge d a x s
  | .bfill d a x => Sys2Proof.Machine.execBfill d a x s
  | .bfwait a x => Sys2Proof.Machine.execBfwait a x s
  | .plan d a x => Sys2Proof.Machine.execPlan d a x s
  | .pxfetch d a x => Sys2Proof.Machine.execPxfetch d a x s
  | .pxrepl d a x => Sys2Proof.Machine.execPxrepl d a x s
  | .kvld d a b x => Sys2Proof.Machine.execKvld d a b x s
  | .kvst d a b x => Sys2Proof.Machine.execKvst d a b x s
  | .rld d a x => Sys2Proof.Machine.execRld d a x s
  | .rst d a x => Sys2Proof.Machine.execRst d a x s
  | .ramo d a x => Sys2Proof.Machine.execRamo d a x s
  | .charter d a x => Sys2Proof.Machine.execCharter d a x s
  | .castoff d a x => Sys2Proof.Machine.execCastoff d a x s
  | .laneq d a x => Sys2Proof.Machine.execLaneq d a x s
  | .cNop => Sys2Proof.Machine.execCNop s
  | .cMv d a => Sys2Proof.Machine.execCMv d a s
  | .cLi d im => Sys2Proof.Machine.execCLi d im s
  | .cAddi d im => Sys2Proof.Machine.execCAddi d im s
  | .cAdd d a => Sys2Proof.Machine.execCAdd d a s
  | .cSub d a => Sys2Proof.Machine.execCSub d a s
  | .cAnd d a => Sys2Proof.Machine.execCAnd d a s
  | .cOr d a => Sys2Proof.Machine.execCOr d a s
  | .cXor d a => Sys2Proof.Machine.execCXor d a s
  | .cSlli d h => Sys2Proof.Machine.execCSlli d h s
  | .cSrli d h => Sys2Proof.Machine.execCSrli d h s
  | .cSrai d h => Sys2Proof.Machine.execCSrai d h s
  | .cBr o => Sys2Proof.Machine.execCBr o s
  | .cBt p o => Sys2Proof.Machine.execCBt p o s
  | .cBf p o => Sys2Proof.Machine.execCBf p o s
  | .resultLanding c id => Sys2Proof.Machine.execResultLanding c id s
  | .tokdead c => Sys2Proof.Machine.execTokdead c s
  | .rampGrant c => Sys2Proof.Machine.execRampGrant c s
  | .rampEnd c => Sys2Proof.Machine.execRampEnd c s
  | .matrixEngineCold c => Sys2Proof.Machine.execMatrixEngineCold c s
  | .gangRendezvous c => Sys2Proof.Machine.execGangRendezvous c s
  | .gangtimeExpiry c => Sys2Proof.Machine.execGangtimeExpiry c s
  | .engineCommandAccept c e => Sys2Proof.Machine.execEngineCommandAccept c e s
  | .engineCommandComplete c id => Sys2Proof.Machine.execEngineCommandComplete c id s
  | .backfillItem die => Sys2Proof.Machine.execBackfillItem die s
  | .bankAluOp id => Sys2Proof.Machine.execBankAluOp id s
  | .rwHoldExpiry die line => Sys2Proof.Machine.execRwHoldExpiry die line s
  | .replayEntryIssue c q => Sys2Proof.Machine.execReplayEntryIssue c q s
  | .trapModeEntry c => Sys2Proof.Machine.execTrapModeEntry c s
  | .snapshotLand c idx => Sys2Proof.Machine.execSnapshotLand c idx s
  | .preemptRequest launch c => Sys2Proof.Machine.execPreemptRequest launch c s
  | .preemptTake c => Sys2Proof.Machine.execPreemptTake c s
  | .preemptWithdraw c => Sys2Proof.Machine.execPreemptWithdraw c s
  | .iterationResume c => Sys2Proof.Machine.execIterationResume c s
  | .iterationStart c => Sys2Proof.Machine.execIterationStart c s
  | .iterationFinish c => Sys2Proof.Machine.execIterationFinish c s
  | .tupleHandout launch => Sys2Proof.Machine.execTupleHandout launch s
  | .ageingCheck => Sys2Proof.Machine.execAgeingCheck s
  | .dispatchDecision => Sys2Proof.Machine.execDispatchDecision s
  | .portalDmw portal off data => Sys2Proof.Machine.execPortalDmw portal off data s
  | .portalPostedWrite portal => Sys2Proof.Machine.execPortalPostedWrite portal s
  | .launchAtHead n => Sys2Proof.Machine.execLaunchAtHead n s
  | .serialWaitEnd n => Sys2Proof.Machine.execSerialWaitEnd n s
  | .copyBegin n => Sys2Proof.Machine.execCopyBegin n s
  | .copyComplete id => Sys2Proof.Machine.execCopyComplete id s
  | .markComplete n => Sys2Proof.Machine.execMarkComplete n s
  | .hostMemRead pa len => Sys2Proof.Machine.execHostMemRead pa len s
  | .hostMemWrite pa data => Sys2Proof.Machine.execHostMemWrite pa data s
  | .hostSnoop pa data => Sys2Proof.Machine.execHostSnoop pa data s
  | .qcfgWrite n v => Sys2Proof.Machine.execQcfgWrite n v s
  | .tencfgWrite n v => Sys2Proof.Machine.execTencfgWrite n v s
  | .siPtrWrite n v => Sys2Proof.Machine.execSiPtrWrite n v s
  | .pdPtrWrite n v => Sys2Proof.Machine.execPdPtrWrite n v s
  | .tlbiPage v => Sys2Proof.Machine.execTlbiPage v s
  | .tlbiTenancy v => Sys2Proof.Machine.execTlbiTenancy v s
  | .tlbiAll v => Sys2Proof.Machine.execTlbiAll v s
  | .tlbiComplete => Sys2Proof.Machine.execTlbiComplete s
  | .migGo v => Sys2Proof.Machine.execMigGo v s
  | .migGoXp v => Sys2Proof.Machine.execMigGoXp v s
  | .migrationCopyDone => Sys2Proof.Machine.execMigrationCopyDone s
  | .stubForward idx => Sys2Proof.Machine.execStubForward idx s
  | .stubRetire idx => Sys2Proof.Machine.execStubRetire idx s
  | .feErrWrite v => Sys2Proof.Machine.execFeErrWrite v s
  | .qlPodWrite v => Sys2Proof.Machine.execQlPodWrite v s
  | .registerWrite off v => Sys2Proof.Machine.execRegisterWrite off v s
  | .scrub pa => Sys2Proof.Machine.execScrub pa s
  | .powerWindow watts => Sys2Proof.Machine.execPowerWindow watts s
  | .thermalThrottle die => Sys2Proof.Machine.execThermalThrottle die s
  | .thermalTrip => Sys2Proof.Machine.execThermalTrip s
  | .coldReset hostwin ten load => Sys2Proof.Machine.execColdReset hostwin ten load s
  | .fabricError => Sys2Proof.Machine.execFabricError s
  | .regrd off => Sys2Proof.Machine.execRegrd off s
  | .regwr off v => Sys2Proof.Machine.execRegwr off v s
  | .keyset n key => Sys2Proof.Machine.execKeyset n key s
  | .keyclr n => Sys2Proof.Machine.execKeyclr n s
  | .fwupd image => Sys2Proof.Machine.execFwupd image s
  | .resetCold hostwin ten load => Sys2Proof.Machine.execResetCold hostwin ten load s
  | .resetWarm hostwin ten load => Sys2Proof.Machine.execResetWarm hostwin ten load s
  | .getMeasurements => Sys2Proof.Machine.execGetMeasurements s
  | .idle f => Sys2Proof.Machine.execIdle f s
  | .rldreq f => Sys2Proof.Machine.execRldreq f s
  | .rlddata f => Sys2Proof.Machine.execRlddata f s
  | .rstreq f => Sys2Proof.Machine.execRstreq f s
  | .rstdata f => Sys2Proof.Machine.execRstdata f s
  | .ramoreq f => Sys2Proof.Machine.execRamoreq f s
  | .resp f => Sys2Proof.Machine.execResp f s
  | .err f => Sys2Proof.Machine.execErr f s
  | .ctrlReq f => Sys2Proof.Machine.execCtrlReq f s
  | .ctrlGrant f => Sys2Proof.Machine.execCtrlGrant f s
  | .ctrlRevoke f => Sys2Proof.Machine.execCtrlRevoke f s
  | .ctrlDrain f => Sys2Proof.Machine.execCtrlDrain f s
  | .ctrlHandback f => Sys2Proof.Machine.execCtrlHandback f s
  | .ctrlRelease f => Sys2Proof.Machine.execCtrlRelease f s
  | .ctrlWithdraw f => Sys2Proof.Machine.execCtrlWithdraw f s
  | .retransmitTimeout peer seq => Sys2Proof.Machine.execRetransmitTimeout peer seq s
  | .starvationCheck => Sys2Proof.Machine.execStarvationCheck s
  | .tuningLock slot => Sys2Proof.Machine.execTuningLock slot s
  | .tuningTimeout slot => Sys2Proof.Machine.execTuningTimeout slot s
  | .errorWindowEnd slot => Sys2Proof.Machine.execErrorWindowEnd slot s
  | .trainingWindowEnd slot symbols => Sys2Proof.Machine.execTrainingWindowEnd slot symbols s
  | .laneDrainEnd lane => Sys2Proof.Machine.execLaneDrainEnd lane s
  | .storeReg f => Sys2Proof.Machine.execStoreReg f s
  | .storeDereg f => Sys2Proof.Machine.execStoreDereg f s
  | .storeQuery f => Sys2Proof.Machine.execStoreQuery f s
  | .storeHolders f => Sys2Proof.Machine.execStoreHolders f s
  | .storeRead f => Sys2Proof.Machine.execStoreRead f s
  | .storeData f => Sys2Proof.Machine.execStoreData f s
  | .storeNotpresent f => Sys2Proof.Machine.execStoreNotpresent f s
  | .fwdStart f => Sys2Proof.Machine.execFwdStart f s
  | .fwdCopy f => Sys2Proof.Machine.execFwdCopy f s
  | .fwdAccept f => Sys2Proof.Machine.execFwdAccept f s
  | .fwdRefuse f => Sys2Proof.Machine.execFwdRefuse f s
  | .fwdAccess f => Sys2Proof.Machine.execFwdAccess f s
  | .fwdReply f => Sys2Proof.Machine.execFwdReply f s
  | .illegalEncoding => Sys2Proof.Machine.execIllegalEncoding s
  | .lastWritePerformed c id => Sys2Proof.Machine.execLastWritePerformed c id s
  | .thermalHoldEnd die => Sys2Proof.Machine.execThermalHoldEnd die s
  | .secureSession => Sys2Proof.Machine.execSecureSession s

end Sys2Proof.Machine
end

