-- ==== Sys2Proof/Machine/Clock.lean ====
section
/-!
DEFINITION. Fetching an instruction, the device steps that a cycle has to make and their order, the end of a cycle, and where a
program is placed (01_sequencer.md, 04_parallel.md; log entries 1, 3).
-/
namespace Sys2Proof.Machine

/-! ### Fetch (R16, R17, R24, R34, R397) -/

/-- The bytes of the instruction at the pc of a sequencer: the parcel that tells its length, then the rest (R16, R17). Of one that
leaves the innermost body only the first parcel is fetched, which is no instruction (R23 point 1). -/
def State.fetchInstr (s : State) (w : Who) : Except PageFault (List Byte) × State :=
  let pc := (s.seq w).pc.toNat
  match s.codeBytes w pc 2 with
  | (.error f, s) => (.error f, s)
  | (.ok bs, s) =>
    let n := encBytes (leNat bs)
    if n = 2 ∨ (s.seq w).crosses (s.seq w).pc n then (.ok bs, s)
    else
      match s.codeBytes w (pc + 2) (n - 2) with
      | (.error f, s) => (.error f, s)
      | (.ok rest, s) => (.ok (bs ++ rest), s)

/-- The sequencer whose turn it is is offered an issue in this cycle. The first offer after a FENCE's waits discards what was fetched ahead
(R229, R235). -/
def State.attempt (s : State) : State :=
  s.modSeq s.turn fun v =>
    { v with tried := s.cycle + 1, discard := if v.refetch then s.mem.writes else v.discard, refetch := false }

/-- No page has moved, or is moving, to another package. -/
def State.near (s : State) : Bool := (s.stubs.all fun t => t.xp.isNone) && s.migration.all fun m => m.xp.isNone

/-- Makes a step that may need bytes of a page in another package (R434): where they are still to come, the package waits as `wait` says. -/
def State.reach (s : State) (k : Asker) (wait : State → State) (f : State → Out) : Out :=
  if s.near then f s
  else
    let go := fun (s : State) => match f s with
      | .next t => t
      | _ => s
    match s.withFar k go with
    | .ok t => .next t
    | .error t => .next (wait t)

/-- What the sequencer whose turn it is does in this cycle: the instruction at its pc, the next entry of its replay stream, or nothing;
a fetch that faults is a PAGE trap, bytes that are no instruction are ILLEGAL (R34, R481). -/
noncomputable def State.runTurn (s : State) : Out :=
  let w := s.turn
  let k := s.core w.core
  if k.mayReplay s.cycle w.sq then exec (.replayEntryIssue w.core w.sq) s
  else if k.mayIssue s.cycle w.sq then
    match s.attempt.fetchInstr w with
    | (.error f, s) => .next (s.raise w (Trap.page f))
    | (.ok bs, s) =>
      match decodeBytes bs with
      | .ok i => exec i s
      | .error _ => exec .illegalEncoding s
  else .next s

/-! ### Device steps (log entry 3) -/

/-- The constructor of `Instr` that a device step stands for. -/
noncomputable def Due.instr : Due → Instr
  | .landing c id => .resultLanding c id
  | .tokdead c => .tokdead c
  | .rampGrant c => .rampGrant c
  | .rampEnd c => .rampEnd c
  | .cold c => .matrixEngineCold c
  | .gangMeet c => .gangRendezvous c
  | .gangExpiry c => .gangtimeExpiry c
  | .accept c e => .engineCommandAccept c e
  | .complete c id => .engineCommandComplete c id
  | .lastWrite c id => .lastWritePerformed c id
  | .backfill d => .backfillItem d
  | .bankOp id => .bankAluOp id
  | .rwExpiry d l => .rwHoldExpiry d l
  | .barrier l => .barrierRelease l
  | .trapEntry c => .trapModeEntry c
  | .snapLand c i => .snapshotLand c i
  | .preReq l c => .preemptRequest l c
  | .preTake c => .preemptTake c
  | .preWithdraw c => .preemptWithdraw c
  | .resume c => .iterationResume c
  | .iterStart c => .iterationStart c
  | .iterFinish c => .iterationFinish c
  | .handout l => .tupleHandout l
  | .ageing => .ageingCheck
  | .dispatch => .dispatchDecision
  | .launchHead n => .launchAtHead n
  | .serialEnd n => .serialWaitEnd n
  | .copyBegin n => .copyBegin n
  | .copyDone id => .copyComplete id
  | .mark n => .markComplete n
  | .tlbiDone => .tlbiComplete
  | .migDone => .migrationCopyDone
  | .stubForward i => .stubForward i
  | .stubRetire i => .stubRetire i
  | .retransmit p n => .retransmitTimeout p n
  | .starvation => .starvationCheck
  | .tuningTimeout i => .tuningTimeout i
  | .errorWindow i => .errorWindowEnd i
  | .laneDrain i => .laneDrainEnd i

/-- Whether a result lands in the current cycle: at the end of its window at the latest, else when it may and the choice is made
(R27, R29, log entry 4). -/
def Core.landsNow (c : Core) (cycle : Nat) (f : Flight) : Bool :=
  c.mayLand cycle f && (match f.bound with
    | some b => decide (f.issued + b ≤ cycle) || Config.landsEarly f.id cycle
    | none => true)

/-- The entries of the snapshot buffer that land in a cycle, as places counted when those before have left (R370). -/
def Core.snapsNow (c : Core) (cycle : Nat) : List Nat :=
  let is := (List.range c.snap.length).filter fun i => (c.snap[i]?).any fun e => decide (c.snapDue e ≤ cycle)
  (List.range is.length).map fun k => is.getD k 0 - k

/-- What a core may have to do in a cycle, before launches are handed out. -/
def Core.work (k : Core) (c : CoreId) (cycle : Nat) : List Due :=
  let n := c.val
  (if k.replayFault && !k.inTrap && k.stop.isNone then [Due.trapEntry c] else [])
    ++ (k.flights.filter fun f => k.landsNow cycle f).map (fun f => Due.landing c f.id)
    ++ (if k.inTrap || k.captured cycle then [] else (k.snapsNow cycle).map fun i => Due.snapLand c i)
    ++ (match k.ramp with
        | .ramping _ => [Due.rampEnd c]
        | .warm _ => [Due.cold c]
        | _ => [])
    ++ (if k.gang.isSome then [Due.gangMeet c, Due.gangExpiry c] else [])
    ++ (allClasses.filter fun e => (k.cmds.any fun x => x.phase == .queued && x.cls == e) && Config.happens 0 n cycle).map
        (fun e => Due.accept c e)
    ++ (k.cmds.filter fun x => match x.phase with
        | .queued => false
        | .started t => decide (t + Config.latency x.id < cycle)
        | .ending .. => true).map (fun x => Due.complete c x.id)
    ++ (k.matWrites.filter fun m => Config.happens 1 m.id cycle).map (fun m => Due.lastWrite c m.id)
    ++ (if k.stop.isSome || (k.replayFault && !k.inTrap) then [Due.trapEntry c] else [])

/-- What a core may have to do after barriers: finishing, pre-emption. -/
def Core.late (k : Core) (c : CoreId) : List Due :=
  (if k.finished then [Due.iterFinish c] else [])
    ++ (if k.preempt.isSome then [Due.preTake c, Due.preWithdraw c] else [])

/-- What the queues may have to do. -/
def State.queueWork (s : State) : List Due :=
  (List.finRange 256).flatMap fun n =>
    match s.head n with
    | none => []
    | some p =>
      if Config.happens 2 n.val s.cycle then
        [Due.serialEnd n, if p.op = 1 then Due.launchHead n else if p.op = 2 then .copyBegin n else .mark n]
      else []

/-- What the units outside the cores may have to do. -/
def State.unitWork (s : State) : List Due :=
  ((List.finRange 4).filter fun d => !(s.backfill.get d).isEmpty && Config.happens 3 d.val s.cycle).map Due.backfill
    ++ (s.pending.filter fun h => h.kind == 2 && Config.happens 4 h.stamp s.cycle).map (fun h => Due.bankOp h.stamp)
    ++ ((List.finRange 4).flatMap fun d =>
        ((s.combine.get d).filter fun e => decide (e.since + s.fe.rwHold.toNat ≤ s.cycle)).map fun e => Due.rwExpiry d (e.pa / 256))
    ++ (s.launches.map fun l => Due.barrier l.id)
    ++ (s.copies.filter fun j => Config.happens 5 j.id s.cycle).map (fun j => Due.copyDone j.id)
    ++ (if s.fe.tlbiCtl.getLsbD 31 && Config.happens 6 0 s.cycle then [Due.tlbiDone] else [])
    ++ (if s.migration.isSome && Config.happens 7 0 s.cycle then [Due.migDone] else [])
    ++ ((List.range s.stubs.length).filter fun i => (s.stubs[i]?).any (fun t => !t.held.isEmpty) && Config.happens 8 i s.cycle).map
        Due.stubForward
    ++ (if s.stubs.isEmpty then [] else [Due.stubRetire 0])

/-- What the Quayline units may have to do. -/
def State.laneWork (s : State) (micro : Bool) : List Due :=
  ((List.finRange 64).flatMap fun p =>
      ((s.pairs.get p).unacked.filter fun f => f.lane.isSome && s.microsSince f.sent 4).map fun f => Due.retransmit p f.seq)
    ++ ((List.finRange 256).filter fun i => (s.tx.get i).st == .draining || (s.rx.get i).st == .draining).filterMap
        (fun i => if Config.happens 9 i.val s.cycle then some (Due.laneDrain i) else none)
    ++ ((List.finRange 256).filter fun i => decide (2 ^ 20 ≤ (s.rx.get i).flits)).map Due.errorWindow
    ++ (if micro then
        ((List.finRange 256).filter fun i => (s.tx.get i).st == .tuning || (s.rx.get i).st == .tuning).map Due.tuningTimeout
          ++ (if s.pendingLanes.isEmpty then [] else [Due.starvation])
      else [])

/-- Handing out: each active launch as many times as it has tuples, at most one for each core; one that has none to give its core
still begins to wait. -/
def State.handouts (s : State) : List Due :=
  s.launches.flatMap fun l => List.replicate (min (l.count - l.next) 256) (Due.handout l.id)

/-- The device steps of a cycle in their order (log entry 3); `micro` says that a microsecond of the store clock has begun. -/
def State.cycleWork (s : State) (micro : Bool) : List Due :=
  allCores.flatMap (fun c => (s.core c).work c s.cycle)
    ++ s.unitWork ++ s.laneWork micro
    ++ allCores.flatMap (fun c => (s.core c).late c)
    ++ s.queueWork
    ++ (if micro then [Due.ageing] else [])
    ++ (if s.cycle % 16 = 0 then [Due.dispatch] else [])
    ++ s.handouts
    ++ (allCores.filter fun c => (s.core c).suspended.isSome).map Due.resume
    ++ s.launches.filterMap (fun l => (s.preemptTarget l).map fun c => Due.preReq l.id c)

/-- The cores that have an iteration to start. -/
def State.startWork (s : State) : List Due :=
  (allCores.filter fun c => (s.core c).iter.any fun it => !it.started).map Due.iterStart

/-! ### The end of a cycle -/

/-- Pushes that completed in the cycle raise their queues' counts (R84), hand registers take what MTS wrote (R89), and a cycle at whose
end every sequencer has stopped for a pre-emption is its capture cycle (R378). -/
def Core.endCycle (cycle : Nat) (c : Core) : Core :=
  { c with
    preempt := c.preempt.map fun p => if p.capture.isNone && c.mayPreempt then { p with capture := some cycle } else p
    tokens := Vector.ofFn fun i => c.tokens.get i ++ (c.rising.filter fun r => r.1 == i).map fun r => r.2.2
    rising := []
    h := c.hLate.foldl (fun h w => h.set w.1.val w.2.1 w.1.isLt) c.h
    hLate := [] }

/-- Whether a core has stopped for a pre-emption in this cycle (R378). -/
def Core.stopping (c : Core) : Bool := (c.preempt.any fun p => p.capture.isNone) && c.mayPreempt

/-- What the units beside the sequencers do at the end of a cycle: R398 is applied to sectors found poisoned, the merged AMOs of a core
that has stopped for a pre-emption are sent (R427 point 3), the remote engine serves its peers (R451), and lanes with nothing to carry send
IDLE (R445). -/
def State.endUnits (s : State) : State :=
  let s := if s.mem.found.isEmpty && s.mem.foundSpad.isEmpty then s else s.settlePoison
  let s := (allCores.filter fun c => (s.core c).stopping).foldl State.flushCore s
  let s := (List.range 64).foldl State.serveNext s
  (State.sendAnswers s.answers.length s).sendIdle

/-! ### The pilot core (R420; log entry 72) -/

/-- Whether the pilot core issues an instruction: the 16-bit forms, majors 0x01 to 0x1C and 0x30 to 0x34, and FENCE. -/
def pilotIssues (w : Nat) (i : Instr) : Bool :=
  let maj := w / 512 % 64
  encBytes w == 2 || (decide (1 ≤ maj) && decide (maj ≤ 0x1C)) || (decide (0x30 ≤ maj) && decide (maj ≤ 0x34))
    || (match i with
      | .fence .. => true
      | _ => false)

/-- The pilot core halts and records the fault; loading ends with it. -/
def State.haltPilot (s : State) (pc : Word) (word : Nat) (cause : BitVec 8) : State :=
  { s with
    pilot := { s.pilot with running := false, fault := some { pc := pc, word := BitVec.ofNat 32 word, cause := cause } }
    boot := match s.boot with
      | .loading .. => .halted
      | b => b }

/-- The pilot core's sequencer, in the place of core 0's X: its instructions use physical addresses. -/
def State.enterPilot (s : State) : State :=
  { s.setCore 0 s.pilot.core with physical := true, turn := { core := 0, sq := .X } }

/-- The package again, with what the pilot core has done in `u`; its results have landed. -/
def State.leavePilot (s u : State) : State :=
  let k := (u.core 0).flights.foldl (fun k f =>
    match k.flights.find? fun g => g.id == f.id with
    | some g => k.landFlight s.cycle g
    | none => k) (u.core 0)
  { u.setCore 0 (s.core 0) with physical := false, turn := s.turn, pilot := { s.pilot with core := k } }

/-- The accesses that the pilot core makes in a step. -/
def State.pilotAccess (s : State) (h : HeldAccess) : Bool := h.who == some { core := 0, sq := .X } && decide (s.stamp ≤ h.stamp)

/-- One instruction of the pilot core, its accesses performed; any encoding that it does not issue, and a trap, halt it. Where an access
cannot be performed yet the instruction is made again in the next cycle. -/
noncomputable def State.pilotTurn (s : State) : State :=
  if !s.pilot.running then s
  else
    let t := s.enterPilot
    let pc := s.pilot.core.sX.pc
    match t.fetchInstr t.turn with
    | (.error _, _) => s.haltPilot pc 0 0
    | (.ok bs, t) =>
      let w := leNat bs
      match decodeBytes bs with
      | .error _ => s.haltPilot pc w 0
      | .ok i =>
        if !pilotIssues w i then s.haltPilot pc w 0
        else
          match exec i t with
          | .next u =>
            match (u.core 0).stop with
            | some t => s.haltPilot pc w t.cause
            | none =>
              let u := (u.pending.filter s.pilotAccess).foldl State.performPend u
              if u.unperformed.any s.pilotAccess || u.mem.missing != s.mem.missing then s else s.leavePilot u
          | _ => s

/-! ### From cycle to cycle -/

/-- A new cycle begins: the store clock counts µs (R278), and the cycle's device steps are listed. -/
noncomputable def State.newCycle (s : State) : State :=
  let s := s.endUnits.pilotTurn.finishLoading
  let now := s.time + s.cycleTime
  let micro : Bool := decide (s.time / timeUnit < now / timeUnit)
  let s : State := { s.mapCores (fun _ k => k.endCycle s.cycle) with cycle := s.cycle + 1, time := now, turn := { core := 0, sq := .X } }
  let s := if micro then { s with storeClk := s.storeClk + 1 } else s
  { s with agenda := s.startWork ++ s.cycleWork micro }

/-- The cores that are in token deadlock at the end of the cycle. -/
def State.deadCores (s : State) : List CoreId := allCores.filter fun c => (s.core c).tokdeadNow s.cycle

/-- What is still to be done in a cycle when every sequencer has had its turn: ramps that were requested in it, or before, are granted
(R127), then token deadlocks are raised (R87). -/
def State.lastWork (s : State) : List Due :=
  match allCores.filter s.mayRamp with
  | [] => s.deadCores.map Due.tokdead
  | cs => cs.map Due.rampGrant

/-- Every sequencer has had its turn: the cycle's last device steps are made, or the next cycle begins. -/
noncomputable def State.endOfCycle (s : State) : State :=
  if s.lastWork.isEmpty then s.newCycle else { s with agenda := s.lastWork }

/-- What happens freely between two steps of the sequencers: pieces of accesses on their way are performed (R223, R225, R230). -/
def State.drift (s : State) : State :=
  if s.pending.isEmpty then s
  else
    (s.pending.zipIdx.filter fun h => h.1.kind != 2 && Config.happens 10 (s.free + h.2) s.cycle).foldl (fun s h => s.performPend h.1)
      { s with free := s.free + s.pending.length }

/-- The turn passes on: within a core in ring order (R81), then to the next core that runs an iteration. Between two turns pieces are
performed, and each QUIES that waits looks at its group (R106). -/
noncomputable def State.advance (s : State) (w : Who) : State :=
  let s := s.drift.watchQuiet
  let later := allCores.find? fun c => decide (w.core.val < c.val) && (s.core c).iter.isSome
  let onward := match later with
    | some c => { s with turn := { core := c, sq := .X } }
    | none => s.endOfCycle
  if (s.core w.core).iter.isNone then onward
  else
    match w.sq with
    | .X => { s with turn := { w with sq := .L } }
    | .L => { s with turn := { w with sq := .C } }
    | .C => { s with turn := { w with sq := .S } }
    | .S => onward

/-! ### What comes from outside (log entries 1, 16, 17) -/

/-- Whether an event is one that arrives from outside the cores: from the host, the board, the management endpoint or a peer. -/
def fromOutside : Instr → Bool
  | .portalDmw .. | .portalPostedWrite .. | .hostMemRead .. | .hostMemWrite .. | .hostSnoop .. | .qcfgWrite .. | .tencfgWrite ..
  | .siPtrWrite .. | .pdPtrWrite .. | .tlbiPage .. | .tlbiTenancy .. | .tlbiAll .. | .migGo .. | .migGoXp .. | .feErrWrite ..
  | .qlPodWrite .. | .registerWrite .. | .scrub .. | .powerWindow .. | .thermalThrottle .. | .thermalHoldEnd .. | .thermalTrip
  | .coldReset .. | .fabricError | .regrd .. | .regwr .. | .keyset .. | .keyclr .. | .fwupd .. | .resetCold .. | .resetWarm ..
  | .getMeasurements | .secureSession | .tuningLock .. | .trainingWindowEnd .. | .idle .. | .rldreq .. | .rlddata .. | .rstreq ..
  | .rstdata .. | .ramoreq .. | .resp .. | .err .. | .ctrlReq .. | .ctrlGrant .. | .ctrlRevoke .. | .ctrlDrain ..
  | .ctrlHandback .. | .ctrlRelease .. | .ctrlWithdraw .. | .storeReg .. | .storeDereg .. | .storeQuery .. | .storeHolders ..
  | .storeRead .. | .storeData .. | .storeNotpresent .. | .fwdStart .. | .fwdCopy .. | .fwdAccept .. | .fwdRefuse ..
  | .fwdAccess .. | .fwdReply .. => true
  | _ => false

/-- Whether an event reaches a package whose bring-up has not reached the ports (R477 step 2): resets, the management endpoint, and
power and temperature. -/
def reachesPilot : Instr → Bool
  | .powerWindow .. | .thermalThrottle .. | .thermalHoldEnd .. | .thermalTrip | .coldReset .. | .regrd .. | .regwr .. | .keyset ..
  | .keyclr .. | .fwupd .. | .resetCold .. | .resetWarm .. | .getMeasurements | .secureSession => true
  | _ => false

/-- Whether an event is a cold reset from the pin, which also brings power back. -/
def restoresPower : Instr → Bool
  | .coldReset .. => true
  | _ => false

/-- Whether the package takes an event that arrives. -/
def State.takes (s : State) (i : Instr) : Bool :=
  if s.powered then fromOutside i && (s.boot == .up || reachesPilot i) else restoresPower i

/-- Whether an event is a flit, whose reads of pages elsewhere the remote engine makes (R451). -/
def byFlit : Instr → Bool
  | .idle .. | .rldreq .. | .rlddata .. | .rstreq .. | .rstdata .. | .ramoreq .. | .resp .. | .err .. | .ctrlReq .. | .ctrlGrant ..
  | .ctrlRevoke .. | .ctrlDrain .. | .ctrlHandback .. | .ctrlRelease .. | .ctrlWithdraw .. | .storeReg .. | .storeDereg ..
  | .storeQuery .. | .storeHolders .. | .storeRead .. | .storeData .. | .storeNotpresent .. | .fwdStart .. | .fwdCopy ..
  | .fwdAccept .. | .fwdRefuse .. | .fwdAccess .. | .fwdReply .. => true
  | _ => false

/-- Whether an event is a reset, which waits for nothing. -/
def isReset : Instr → Bool
  | .coldReset .. | .resetCold .. | .resetWarm .. => true
  | _ => false

/-- An event that has to wait comes again in the next cycle, after those that are already due. -/
def State.putOff (s : State) (i : Instr) : State :=
  let due := fun (a : Arrival) => decide (a.cycle ≤ s.cycle + 1)
  { s with inputs := s.inputs.takeWhile due ++ { cycle := s.cycle + 1, event := i } :: s.inputs.dropWhile due }

/-- An event that the package takes has its effect (R434: one that is neither a flit nor a reset waits for bytes of pages elsewhere). -/
noncomputable def State.takeEvent (s : State) (i : Instr) : Out :=
  if byFlit i || isReset i then exec i s else s.reach .outside (fun t => t.putOff i) (exec i)

/-- A device step is made, or listed again in a later cycle. -/
noncomputable def State.makeDue (s : State) (d : Due) : Out := s.reach (.due d) id (exec d.instr)

/-- The turn of a sequencer. Where it needs bytes of a page elsewhere that have not come it waits, and issues nothing (R434). -/
noncomputable def State.takeTurn (s : State) : Out := s.reach (.turn s.turn) (fun t => t.attempt.waiting s.turn .other) State.runTurn

/-! ### Placing one instruction (log entry 1) -/

/-- Where `withFetchWord` places code: its virtual and physical address, and the tables that map it. -/
def placeVa : Nat := 0x10000
/-- Its 1 GiB page. -/
def placePage : Nat := 0x40000000
/-- Its physical address. -/
def placePa : Nat := placePage + placeVa
/-- The level 3 table. -/
def placeRoot : Nat := 0x100000
/-- The level 2 table. -/
def placeTable : Nat := 0x200000

/-- The sequencer that issues an instruction with this word: C the vector and matrix families, L those that only L or S issue, X the
others. -/
def placeSq (w : Nat) : Sq :=
  let maj := w / 512 % 64
  if w % 2 = 0 then .X
  else if (0x20 ≤ maj ∧ maj ≤ 0x2F) ∨ maj = 0x35 then .C
  else if maj = 0x3A ∨ maj = 0x3B ∨ maj = 0x3E ∨ (maj = 0x3F ∧ w / 32768 % 128 < 3) then .L
  else .X

/-- Stores little-endian bytes as good data that nothing else may still see otherwise. -/
def State.placeBytes (s : State) (pa n v : Nat) : State :=
  let here := fun (a : Nat) => decide (pa ≤ a) && decide (a < pa + n)
  { s with mem := { s.mem with
      cells := (List.range n).foldl (fun cs i => cellsPut cs (pa + i) (BitVec.ofNat 8 (v / 256 ^ i))) s.mem.cells
      marks := s.mem.marks.filter fun m => decide (m.1 ≠ pa / 32)
      hist := s.mem.hist.filter fun r => !here r.addr } }

/-- A launch of one iteration on core 0, whose code is at `placeVa`. -/
def placeLaunch : Launch :=
  { id := 0, level := 0, ent := [], ext := [], tok := [], htab := 0, looptab := [], levels := [], deal := none, tape := none
    pvec := [], coreset := [0], rate := { num := 0, den := 1 }, width := 1, dieWidth := [1, 0, 0, 0], count := 1, next := 1, done := 0
    lastCore := some 0, multiWave := false, since := 0, members := [(0, 0, false)], arrived := [], barKnow := [], released := 0
    solo := false, start := [], past := [], ending := none, waitFrom := none
    packet :=
      { num := 0, op := 1, serial := false, irq := false, queue := 0, usertag := 0, cpl := 0, arg := 0, ten := 0, perf := 0
        record := none, past := [] } }

/-- Core 0 about to issue the instruction at `placeVa` on sequencer `q`. -/
def Core.placed (c : Core) (q : Sq) : Core :=
  { c.modSeq q fun v =>
      { v with pc := BitVec.ofNat 64 placeVa, entry := BitVec.ofNat 64 placeVa, extent := 2 ^ 20, ended := false, tried := 0, blocks := []
               hold := [], refetch := false, since := none, wait := .none } with
    iter := some { launch := 0, tuple := 0, ten := 0, tape := none, started := true }
    tapePhase := .free, replayIssue := none, replayFault := false, stop := none, preempt := none, trapcause := 0, barWaiting := false
    resumeAt := 0 }

/-- Places an instruction of `nbits` bits `w`, the bits above zero, where the next step fetches: core 0 runs an iteration of tenancy 0,
whose page table maps its code. -/
def State.place (s : State) (nbits w : Nat) : State :=
  let s := s.placeBytes (placeRoot + 8 * vaIndex 3 placeVa) 8 (placeTable + 1)
  let s := s.placeBytes (placeTable + 8 * vaIndex 2 placeVa) 8 (placePage + 0x13)
  let s := s.placeBytes placePa 8 (w % 2 ^ nbits)
  let q := placeSq w
  { s.modCore 0 (fun c => c.placed q) with
    mem := { s.mem with tlb := s.mem.tlb.filter fun e => decide (e.cluster ≠ 0) || decide (e.ten ≠ 0), utlb := s.mem.utlb.filter fun e => decide (e.1 ≠ 0) }
    tens := s.tens.set 0 { s.tens.get 0 with on := true, root := placeRoot }
    launches := placeLaunch :: s.launches.filter fun l => decide (l.id ≠ 0)
    stubs := [], migration := none, powered := true, inputs := [], agenda := [], turn := { core := 0, sq := q } }

end Sys2Proof.Machine
end

