-- ==== Sys2Proof/Machine/Step.lean ====
section
/-!
DEFINITION. One step of the package (log entry 3): an event that has arrived, a device step of the current cycle, or the turn of one
sequencer, after which the turn passes on.
-/
namespace Sys2Proof.Machine

/-- The turn passes on after what the sequencer did. -/
noncomputable def passTurn (w : Who) : Out → Out
  | .next s => .next (s.advance w)
  | .fault f => .fault f
  | .refused r => .refused r

/-- What a powered package does when no event has arrived. -/
noncomputable def State.inside (s : State) : Out :=
  match s.agenda with
  | d :: ds => { s with agenda := ds }.makeDue d
  | [] => passTurn s.turn s.takeTurn

/-- One step. An event that the package does not take is lost; without power and without an event the machine stops. -/
noncomputable def step (s : State) : Host.Outcome State Fault Refusal :=
  match s.inputs with
  | a :: rest =>
    if a.cycle ≤ s.cycle ∨ !s.powered then
      let s := { s with inputs := rest }
      if s.takes a.event then s.takeEvent a.event else .next s
    else s.inside
  | [] => if s.powered then s.inside else .fault .powerRemoved

/-- The package with one instruction placed where the next step fetches (log entry 1). -/
def State.withFetchWord (s : State) (nbits w : Nat) : State := s.place nbits w

end Sys2Proof.Machine
end

