-- ==== Sys2Proof/Safety.lean ====
section
/-!
DEFINITION. The terms in which statements are made: canonical memory, when an instruction meets nothing that stops or holds it, and
what is left after it has issued.
-/
namespace Sys2Proof.Machine

/-! ### Sound states -/

/-- Package memory and every scratchpad are in canonical form. -/
def State.Canonical (s : State) : Prop := s.mem.wf = true ∧ ∀ c : CoreId, cellsWf (s.core c).spad = true

/-! ### Ready to issue (R481, R83, R84, R125) -/

/-- The core whose turn it is. -/
def State.me (s : State) : Core := s.core s.turn.core

/-- The sequencer whose turn it is. -/
def State.mine (s : State) : Seq := s.seq s.turn

/-- Its innermost active block is an exposed one (R31). -/
def State.exposed (s : State) : Bool :=
  match s.mine.blocks with
  | [] => false
  | b :: _ => !b.interlocked

/-- No result in flight holds back a reader (R29), nor a writer of an accumulator row (R186). -/
def Core.calm (c : Core) (all : Bool) : Bool :=
  (c.flights.all fun f => !(all || f.waits) && !f.matrix) && c.heldBack.all fun e => !(all || e.waits)

/-- The bytes of an instruction. -/
def bytesOf (x : Ctl) (short : Bool) : Nat := if short then 2 else if x.safe.isSome then 8 else 4

/-- Nothing common to all instructions stops or holds one that sequencer `s.turn` is to issue: it is issued from code, `qs` may issue
it, its LAT is at least `min` where its block is exposed, it lies inside its block's body, it has no tokens and no mask word in trap
mode, its token conditions hold, and no result in flight holds it. -/
def State.ready (s : State) (x : Ctl) (short : Bool) (min : Nat) (qs : List Sq) : Bool :=
  s.me.replayIssue.isNone && qs.contains s.turn.sq && (!s.exposed || decide (min ≤ x.lat.toNat) || short)
    && !s.mine.crosses s.mine.pc (bytesOf x short)
    && (!s.me.inTrap || !(x.wf || x.sf || x.wb || x.sb || x.safe.isSome))
    && s.me.tokensReady s.turn.sq x && s.me.calm (!s.exposed)

/-- The state in which an instruction has its effect: its tokens taken (R83), its number given. -/
def State.popped (s : State) (x : Ctl) : State :=
  { s.modCore s.turn.core (fun c => c.popTokens s.turn.sq x) with stamp := s.stamp + 1 }

/-- Control of a sequencer: its pc, its active blocks (a loop buffer by whether there is one) and its counts. -/
structure Control where
  pc : Word
  blocks : List Block
  lc : Vector (BitVec 32) 3

/-- A block without what its loop buffer holds. -/
def Block.shape (b : Block) : Block := { b with buf := b.buf.map fun _ => [] }

/-- A sequencer's control. -/
def Seq.ctl (v : Seq) : Control := { pc := v.pc, blocks := v.blocks.map Block.shape, lc := v.lc }

/-- Control after sequential execution has reached `pc` (R20). -/
def Control.reach (k : Control) (pc : Word) : Control :=
  let r := cascade pc k.blocks k.lc
  { pc := r.1, blocks := r.2.1, lc := r.2.2.1 }

/-- The cycle before which a result that its operation delivers cannot land (R29): free. -/
def State.deliverAt (s : State) : Nat := s.cycle + 1 + Config.latency (Config.freeNat s.free)

/-- Where control goes from an instruction of `n` bytes by itself: to the next one, or as the end-of-iteration tests say (R20). -/
def State.onward (s : State) (n : Nat) : Control := s.mine.ctl.reach (s.mine.pc + BitVec.ofNat 64 n)

/-! ### After an instruction -/

/-- What issuing leaves of every core beside the instruction's own effect: all but sequencers, pushes, tapes, and the merged AMOs
that are now performed. -/
def Core.sameBut (c d : Core) : Prop :=
  ∃ ts tb ph ls rs pe a b e f, d =
    { c with tapes := ts, tapeBad := tb, tapePhase := ph, tapeLines := ls, rising := rs, pend := pe, sX := a, sL := b, sC := e, sS := f }

/-- The registers that a sequencer keeps (R10, R11, R21 apart from the counts, R391). -/
def Seq.sameRegs (v w : Seq) : Prop := w.g = v.g ∧ w.p = v.p ∧ w.fpstat = v.fpstat ∧ w.eventLatch = v.eventLatch

/-- State `t` follows `s` by what accompanies every instruction of sequencer `w` that issues: its tokens, its place on a tape,
control, the flushes that a push brings, and the fetch of the rest of a loop's body (R24). -/
structure Follows (w : Who) (s t : State) : Prop where
  core : ∀ c, (s.core c).sameBut (t.core c)
  seqs : ∀ q, q ≠ w → t.seq q = s.seq q
  regs : (s.seq w).sameRegs (t.seq w)
  stamp : t.stamp = s.stamp
  cycle : t.cycle = s.cycle
  turn : t.turn = s.turn
  launches : t.launches = s.launches
  agenda : t.agenda = s.agenda
  inputs : t.inputs = s.inputs
  outputs : t.outputs = s.outputs
  atomflags : t.atomflags = s.atomflags
  lists : t.lists = s.lists
  queues : t.queues = s.queues
  tens : t.tens = s.tens
  insts : t.insts = s.insts
  keys : t.keys = s.keys
  tx : t.tx = s.tx
  rx : t.rx = s.rx
  pairs : t.pairs = s.pairs

/-- A result as it stands in flight. -/
def Flight.result (f : Flight) : Result := { dest := f.dest, value := f.value, en := f.en, flags := f.flags }

/-- No block of a sequencer has a loop buffer. -/
def Seq.noLoop (v : Seq) : Prop := ∀ b ∈ v.blocks, b.buf = none

/-- `t` is the state after an instruction that the sequencer whose turn it is issues in `s`, whose own effect, its tokens taken, gives
`e` and whose control is then `k`: nothing else has changed but what accompanies every instruction. Where it pushes no token, and no loop's
body has to be fetched, memory is as its own effect leaves it; and where no AMO waits in the combining buffer of its die, the bytes of memory
are. -/
structure State.Does (s : State) (x : Ctl) (e : State) (k : Control) (t : State) : Prop where
  follows : Follows s.turn e t
  control : (t.seq s.turn).ctl = k
  memory : x.sf = false → x.sb = false → (e.seq s.turn).noLoop → t.mem = e.mem ∧ t.fe = e.fe
  bytes : e.combine.get (dieOf s.turn.core) = [] → t.mem.cells = e.mem.cells ∧ t.mem.hist = e.mem.hist

/-- `t` is `s` after accesses that were on their way have been performed: those of merged AMOs and of earlier instructions (R224, R427).
Of the sequencers, only what their later accesses are ordered after has changed; results in flight have their bytes. -/
structure State.Settles (s t : State) : Prop where
  seqs : ∀ w, ∃ k, t.seq w = { s.seq w with know := k }
  core : ∀ c, ∃ tok ris fl pe de dv ts tb ph a b e f, t.core c =
    { s.core c with tokens := tok, rising := ris, flights := fl, pend := pe, derr := de, derrva := dv, tapes := ts, tapeBad := tb,
                    tapePhase := ph, sX := a, sL := b, sC := e, sS := f }
  stamp : t.stamp = s.stamp
  cycle : t.cycle = s.cycle
  turn : t.turn = s.turn
  launches : t.launches = s.launches
  agenda : t.agenda = s.agenda
  inputs : t.inputs = s.inputs
  lists : t.lists = s.lists
  queues : t.queues = s.queues
  tens : t.tens = s.tens
  insts : t.insts = s.insts
  keys : t.keys = s.keys
  tx : t.tx = s.tx
  rx : t.rx = s.rx
  pairs : t.pairs = s.pairs

/-- What an instruction of the sequencer whose turn it is knows of itself as it issues. -/
def State.issuing (s : State) (x : Ctl) (short : Bool) (lat : Nat) : Cx := s.context { x := x, short := short, minLat := lat }

/-- Control after an instruction that leaves it as in `v` and goes on as `f` says (R19, R20). -/
def flowControl (cx : Cx) (v : Seq) : Flow → Control
  | .set => v.ctl
  | .jump t => { v.ctl with pc := t }
  | .next => v.ctl.reach cx.next
  | .reach t => v.ctl.reach t

/-- What a table says of an instruction: its common fields, its minimum LAT code, who may issue it; the classes of the accesses that it makes,
whether it is a release or a fence, and the poisoned sectors of on-die arrays that it reads; in `clear`, over the state in which
it is offered, that nothing of its own holds it or makes it ILLEGAL; in `when`, over the state with its tokens taken, that it meets no
trap; its effect there; and where control goes. -/
structure Effect where
  x : Ctl := Ctl.plain
  short : Bool := false
  lat : Nat := 0
  qs : List Sq := ring
  acc : List PathClass := []
  rel : Bool := false
  onDie : Cx → State → List Nat := fun _ _ => []
  clear : State → Prop := fun _ => True
  when : Cx → State → Prop := fun _ _ => True
  gives : Cx → State → State
  flow : Cx → State → Flow := fun _ _ => .next

/-- What the shared issue knows of it. -/
def Effect.spec (f : Effect) : Spec := { x := f.x, short := f.short, minLat := f.lat, acc := f.acc, rel := f.rel }

/-- The state in which what comes before its accesses has been performed (R224, R427); an instruction that makes none finds the state as it
is. -/
def Effect.settled (f : Effect) (s : State) : State := s.settleFor (s.context f.spec) f.spec

/-- What it knows of itself. -/
def Effect.cx (f : Effect) (s : State) : Cx := { s.context f.spec with s0 := f.settled s }

/-- The state in which it issues: the poisoned sectors that it reads are counted (R399). -/
def Effect.start (f : Effect) (s : State) : State := (f.onDie (f.cx s) (f.settled s)).foldl State.foundOnDie (f.settled s)

/-- The instruction completes with this effect wherever nothing holds it and it meets no trap: what comes before its accesses is performed,
its tokens are taken, and its effect follows. -/
def Effect.completes (f : Effect) (i : Instr) : Prop :=
  ∀ s : State, s.ready f.x f.short f.lat f.qs = true → f.clear s → (f.settled s).blockedFor (f.cx s) f.spec = false →
    f.when (f.cx s) ((f.start s).popped f.x) →
    ∃ t, exec i s = .next t ∧ s.Settles (f.settled s)
      ∧ s.Does f.x (f.gives (f.cx s) ((f.start s).popped f.x))
        (flowControl (f.cx s) ((f.gives (f.cx s) ((f.start s).popped f.x)).seq s.turn)
          (f.flow (f.cx s) ((f.start s).popped f.x))) t

/-- `t` is `s` after an instruction whose only effects are the results `rs`, sent into flight with minimum latency code `lat`, and its
tokens: control has gone on, and every register, every other sequencer, every other core, the rest of its own core, and memory (where it
pushes no token and fetches no loop's body; its bytes where no AMO waits in its die's combining buffer) are as they were. -/
structure State.Lands (s t : State) (x : Ctl) (short : Bool) (lat : Nat) (rs : List Result) : Prop where
  stamp : t.stamp = s.stamp + 1
  cycle : t.cycle = s.cycle
  turn : t.turn = s.turn
  control : (t.seq s.turn).ctl = s.onward (bytesOf x short)
  flights : ∃ fs, (t.core s.turn.core).flights = s.me.flights ++ fs ∧ fs.map Flight.result = rs
    ∧ ∀ f ∈ fs, f.sq = s.turn.sq ∧ f.issued = s.cycle ∧ f.bound = latBound lat
  regs : s.mine.sameRegs (t.seq s.turn)
  seqs : ∀ w, w ≠ s.turn → t.seq w = s.seq w
  others : ∀ c, c ≠ s.turn.core → (s.core c).sameBut (t.core c)
  own : ∃ tok fl, ({ s.me with tokens := tok, flights := fl } : Core).sameBut (t.core s.turn.core)
  memory : x.sf = false → x.sb = false → s.mine.noLoop → t.mem = s.mem ∧ t.fe = s.fe
  bytes : s.combine.get (dieOf s.turn.core) = [] → t.mem.cells = s.mem.cells ∧ t.mem.hist = s.mem.hist

/-! ### Events -/

/-- What a table says of a machine event: when it takes place, and what then holds of the states before and after. -/
structure Event where
  when : State → Prop
  gives : State → State → Prop

/-- The event takes place wherever its rule lets it. -/
def Event.occurs (e : Event) (i : Instr) : Prop := ∀ s : State, e.when s → ∃ t, exec i s = .next t ∧ e.gives s t

/-- `t` is `s` but for core `c`. -/
def State.onlyCore (s t : State) (c : CoreId) : Prop := ∃ k, t = s.setCore c k

/-- `t` is `s` but for core `c`, and for free values taken. -/
def State.onlyCoreFree (s t : State) (c : CoreId) : Prop := ∃ k n, t = { s.setCore c k with free := n }

/-- A trap of sequencer `w` outside trap mode (R367, R368): its core begins to stop for it in this cycle, and a recording, and
contributions on their way, are all that it touches beside that. -/
def State.Stops (s : State) (w : Who) (code det : Nat) (va : Word) (t : State) : Prop :=
  ∃ u, Follows w s u ∧ (∀ q, u.seq q = s.seq q) ∧ t = u.modCore w.core fun k =>
    { k with stop := some { sq := w.sq, cause := BitVec.ofNat 8 code, det := BitVec.ofNat 4 det, va := va, cycle := s.cycle } }

/-- What writing a result of sequencer `q` gives of a core's registers: the enabled bytes of its destination hold the value, the flags
are raised, and every other register is as before; g0 and p0 read as always (R10, R11, R28, R157). -/
structure Core.Takes (k m : Core) (q : Sq) (d : Dest) (v : Row) (en : Mask) (fl : BitVec 6) : Prop where
  g : ∀ (p : Sq) (r : Reg), (m.seq p).rg r = if d = .g r ∧ p = q ∧ r ≠ 0 then v.setWidth 64 else (k.seq p).rg r
  p : ∀ (p : Sq) (r : PReg), (m.seq p).rp r = if d = .p r ∧ p = q ∧ r ≠ 0 then v.getLsbD 0 else (k.seq p).rp r
  rows : ∀ (n : Fin 128) (i : Nat), i < 4096 →
    (m.acc.get n).getLsbD i = if d = .row n ∧ en.getLsbD (i / 8) = true then v.getLsbD i else (k.acc.get n).getLsbD i
  masks : ∀ n : MReg, m.m.get n = if d = .mask n then v.setWidth 512 else k.m.get n
  fpstat : ∀ p : Sq, (m.seq p).fpstat = if p = q then (k.seq p).fpstat ||| fl.setWidth 32 else (k.seq p).fpstat
  control : ∀ p : Sq, (m.seq p).ctl = (k.seq p).ctl

end Sys2Proof.Machine
end

