-- ==== Sys2Proof/Rules/Control.lean ====
section
/-!
DEFINITION. The control-flow instructions as their rules give them (R17 to R24, R39, R63, R70 to R76, R79): when each meets no trap, its
effect, and where control goes.
-/
namespace Sys2Proof.Rules
open Sys2Proof.Machine

/-- An instruction's results land without its push, which completes in the issue cycle (R86). -/
def linked (cx : Cx) (s : State) (rs : List Result) : State :=
  s.fly { cx with x := { cx.x with sf := false, sb := false } } 0 false rs

/-- A taken branch relative to the instruction, in parcels (R37), is allowed. -/
def branches {n : Nat} (o : BitVec n) (stays : Bool) (cx : Cx) (s : State) : Prop :=
  s.branchOk cx (cx.own + 2 * o.signExtend 64) stays = true

/-- A taken branch to a register's value (R72) is allowed. -/
def branchesTo (a : Reg) (stays : Bool) (cx : Cx) (s : State) : Prop :=
  (s.mine.rg a).getLsbD 0 = false ∧ s.branchOk cx (s.mine.rg a) stays = true

/-- The commands of the sequencer that no engine has started complete as CANCELLED (R76). -/
def cancelled (s : State) : State :=
  s.modCore s.turn.core fun c =>
    (s.me.cmds.filter fun k => k.sq == s.turn.sq && k.phase == .queued).foldl (fun c k => c.completeCmd s.turn.core s.cycle k codeCancelled 0 0 0) c

/-- `ControlRow i f`: instruction `i` completes as `f` says. -/
inductive ControlRow : Instr → Effect → Prop
  | bt (p : PReg) (o : BitVec 13) (x : Ctl) : ControlRow (.bt p o x)
      { x := x, when := fun cx s => s.mine.rp p = true ∧ branches o true cx s, gives := fun cx s => linked cx s []
        flow := fun cx _ => .jump (cx.own + 2 * o.signExtend 64) }
  | btNot (p : PReg) (o : BitVec 13) (x : Ctl) : ControlRow (.bt p o x)
      { x := x, when := fun _ s => s.mine.rp p = false, gives := fun _ s => s }
  | bf (p : PReg) (o : BitVec 13) (x : Ctl) : ControlRow (.bf p o x)
      { x := x, when := fun cx s => s.mine.rp p = false ∧ branches o true cx s, gives := fun cx s => linked cx s []
        flow := fun cx _ => .jump (cx.own + 2 * o.signExtend 64) }
  | bfNot (p : PReg) (o : BitVec 13) (x : Ctl) : ControlRow (.bf p o x)
      { x := x, when := fun _ s => s.mine.rp p = true, gives := fun _ s => s }
  | j (o : BitVec 17) (x : Ctl) : ControlRow (.j o x)
      { x := x, when := branches o true, gives := fun cx s => linked cx s []
        flow := fun cx _ => .jump (cx.own + 2 * o.signExtend 64) }
  | call (o : BitVec 17) (x : Ctl) : ControlRow (.call o x)
      { x := x, when := branches o false, gives := fun cx s => linked cx s [.g 31 cx.next]
        flow := fun cx _ => .jump (cx.own + 2 * o.signExtend 64) }
  | jr (a : Reg) (x : Ctl) : ControlRow (.jr a x)
      { x := x, when := branchesTo a true, gives := fun cx s => linked cx s [], flow := fun _ s => .jump (s.mine.rg a) }
  | callr (d a : Reg) (x : Ctl) : ControlRow (.callr d a x)
      { x := x, when := branchesTo a false, gives := fun cx s => linked cx s [.g d cx.next], flow := fun _ s => .jump (s.mine.rg a) }
  | ret (a : Reg) (x : Ctl) : ControlRow (.ret a x)
      { x := x, when := branchesTo a true, gives := fun cx s => linked cx s [], flow := fun _ s => .jump (s.mine.rg a) }
  | cBr (o : BitVec 11) : ControlRow (.cBr o)
      { short := true, when := branches o true, gives := fun cx s => linked cx s []
        flow := fun cx _ => .jump (cx.own + 2 * o.signExtend 64) }
  | cBt (p : PReg) (o : BitVec 8) : ControlRow (.cBt p o)
      { short := true, when := fun cx s => s.mine.rp p = true ∧ branches o true cx s, gives := fun cx s => linked cx s []
        flow := fun cx _ => .jump (cx.own + 2 * o.signExtend 64) }
  | cBtNot (p : PReg) (o : BitVec 8) : ControlRow (.cBt p o)
      { short := true, when := fun _ s => s.mine.rp p = false, gives := fun _ s => s }
  | cBf (p : PReg) (o : BitVec 8) : ControlRow (.cBf p o)
      { short := true, when := fun cx s => s.mine.rp p = false ∧ branches o true cx s, gives := fun cx s => linked cx s []
        flow := fun cx _ => .jump (cx.own + 2 * o.signExtend 64) }
  | cBfNot (p : PReg) (o : BitVec 8) : ControlRow (.cBf p o)
      { short := true, when := fun _ s => s.mine.rp p = true, gives := fun _ s => s }
  | cNop : ControlRow .cNop { short := true, gives := fun _ s => s }
  | brk (b : Block) (bs : List Block) (x : Ctl) : ControlRow (.brk x)
      { x := x, when := fun _ s => s.mine.blocks = b :: bs
        gives := fun _ s => s.modSeq s.turn fun v => { v.setLc bs.length 0 with blocks := bs }
        flow := fun _ _ => .reach b.stop }
  | lcutOut (x : Ctl) : ControlRow (.lcut x)
      { x := x, when := fun _ s => s.mine.blocks = [], gives := fun _ s => cancelled s }
  | lcut (b : Block) (bs : List Block) (x : Ctl) : ControlRow (.lcut x)
      { x := x, when := fun _ s => s.mine.blocks = b :: bs
        gives := fun _ s => (cancelled s).modSeq s.turn fun v => { v.setLc bs.length 0 with blocks := bs }
        flow := fun _ _ => .reach b.stop }

/-- The block that BLK opens (R18, R19, R24): its body of `n + 1` parcels begins after BLK; the outermost active block that repeats
gets a loop buffer. -/
def opened (own : Word) (i : Bool) (n : BitVec 9) (count : Nat) (outer : List Block) : Block :=
  { start := own + 4, stop := own + 4 + 2 * BitVec.ofNat 64 (n.toNat + 1), interlocked := i
    buf := if 1 < count ∧ outer.all (fun b => b.buf.isNone) then some [] else none }

/-- BLK with fewer than three active blocks: its count, from REP or from LCd (R18), and what follows (R19). -/
inductive BlockRow : Instr → Effect → Prop
  | rep (i : Bool) (r : BitVec 7) (n : BitVec 9) (hr : r ≠ 0) : BlockRow (.blk i r n)
      { when := fun _ s => s.mine.blocks.length < 3
        gives := fun cx s => s.modSeq s.turn fun v =>
          { (v.setLc v.blocks.length (r.setWidth 32)).setLcclass v.blocks.length .clean with
            blocks := opened cx.own i n r.toNat v.blocks :: v.blocks, pc := cx.own + 4 }
        flow := fun _ _ => .set }
  | count (i : Bool) (n : BitVec 9) : BlockRow (.blk i 0 n)
      { when := fun _ s => s.mine.blocks.length < 3 ∧ s.mine.rlc s.mine.blocks.length ≠ 0
        gives := fun cx s => s.modSeq s.turn fun v =>
          { v with blocks := opened cx.own i n (v.rlc v.blocks.length).toNat v.blocks :: v.blocks, pc := cx.own + 4 }
        flow := fun _ _ => .set }
  | skip (i : Bool) (n : BitVec 9) : BlockRow (.blk i 0 n)
      { when := fun _ s => s.mine.blocks.length < 3 ∧ s.mine.rlc s.mine.blocks.length = 0
        gives := fun _ s => s.modSeq s.turn fun v => v
        flow := fun cx _ => .reach (cx.own + 4 + 2 * BitVec.ofNat 64 (n.toNat + 1)) }

/-- What a scratchpad read of `n` bytes at `ea` leaves of the core whose turn it is: a poisoned byte is recorded (R400). -/
def spadRead (cx : Cx) (s : State) (ea n : Nat) : State :=
  let r := s.spadLoad s.turn.core (cx.actor s) ea n
  if r.2.1 then r.2.2.modCore s.turn.core fun c => c.derrRecord 2 ea else r.2.2

/-- The bytes that it gives, first byte lowest. -/
def spadValue (cx : Cx) (s : State) (ea n : Nat) : Nat := ofBytes (s.spadLoad s.turn.core (cx.actor s) ea n).1

/-- An effective address of R14: exact, aligned to its width and inside the scratchpad. -/
def spadAt (v : Seq) (a : Reg) (z : Sz) (o : BitVec 5) : Nat := (v.rg a).toNat + o.toNat * 2 ^ z.code

/-- SLD, SLDS and SST (R79): nothing holds the access, and its address is good. -/
inductive SpadRow : Instr → Effect → Prop
  | sld (d a : Reg) (z : Sz) (o : BitVec 5) (x : Ctl) : SpadRow (.sld d a z o x)
      { x := x, lat := 2, clear := fun s => s.me.cmdHolds s.turn.sq (spadAt s.mine a z o) (2 ^ z.code) = false
        when := fun _ s => spadAt s.mine a z o < 2 ^ 22 ∧ spadAt s.mine a z o % 2 ^ z.code = 0
        gives := fun cx s => (spadRead cx s (spadAt s.mine a z o) (2 ^ z.code)).fly cx 0 false
          [.g d (BitVec.ofNat 64 (spadValue cx s (spadAt s.mine a z o) (2 ^ z.code)))] }
  | slds (d a : Reg) (z : Sz) (o : BitVec 5) (x : Ctl) : SpadRow (.slds d a z o x)
      { x := x, lat := 2, clear := fun s => s.me.cmdHolds s.turn.sq (spadAt s.mine a z o) (2 ^ z.code) = false
        when := fun _ s => spadAt s.mine a z o < 2 ^ 22 ∧ spadAt s.mine a z o % 2 ^ z.code = 0
        gives := fun cx s => (spadRead cx s (spadAt s.mine a z o) (2 ^ z.code)).fly cx 0 false
          [.g d (BitVec.ofInt 64 (sextNat (8 * 2 ^ z.code) (spadValue cx s (spadAt s.mine a z o) (2 ^ z.code))))] }
  | sst (d a : Reg) (z : Sz) (o : BitVec 5) (x : Ctl) : SpadRow (.sst d a z o x)
      { x := x, clear := fun s => s.me.cmdHolds s.turn.sq (spadAt s.mine a z o) (2 ^ z.code) = false
        when := fun _ s => spadAt s.mine a z o < 2 ^ 22 ∧ spadAt s.mine a z o % 2 ^ z.code = 0
        gives := fun cx s =>
          s.spadStore s.turn.core (cx.actor s) (spadAt s.mine a z o) (toBytes (2 ^ z.code) (s.mine.rg d).toNat) }

/-- LDC (R63): the constant is read as instruction fetch reads it. -/
inductive ConstRow : Instr → Effect → Prop
  | ldc (d : Reg) (i : BitVec 12) (x : Ctl) (bs : List Byte) (t : State) : ConstRow (.ldc d i x)
      { x := x, lat := 7
        when := fun cx s =>
          s.fetchBytes s.turn ((cx.own &&& ~~~7#64) + 8 * i.signExtend 64).toNat 8 = (.bytes bs false, t) ∧ t.me.tapePhase = .free
            ∧ t.turn = s.turn
        gives := fun cx _ =>
          ({ t with free := t.free + 1 } : State).fly cx t.deliverAt false [.g d (BitVec.ofNat 64 (ofBytes bs))] }

end Sys2Proof.Rules
end

