-- ==== Sys2Proof/Rules/CoreEvents.lean ====
section
/-!
DEFINITION. The events of a core as their rules give them: landing, deadlock, trap mode, pre-emption, iterations, the matrix engine and
replay (R27 to R30, R87, R91 to R93, R127, R191, R198, R208, R353 to R381).
-/
namespace Sys2Proof.Rules
open Sys2Proof.Machine

/-- The word of TRAPCAUSE for a trap of `q` (R366): VALID, DET, SEQ, CAUSE. -/
def causeWord (det seq cause : Nat) : BitVec 32 := BitVec.ofNat 32 (2 ^ 31 + det * 2 ^ 12 + seq * 2 ^ 8 + cause)

/-- The pushes of an instruction that complete, as they stand until the end of the cycle (R84). -/
def pushes (q : Sq) (p : Option Push) (cycle : Nat) : List (Fin 8 × Nat × Know) :=
  match p with
  | none => []
  | some u => (if u.f then [(pushF q, cycle, u.know)] else []) ++ if u.b then [(pushB q, cycle, u.know)] else []

/-- The stop of a core whose trap mode begins: all that a stop waits for has happened (R368). -/
def settled (s : State) (k : Core) (t : Stop) : Prop :=
  k.stop = some t ∧ t.cycle < s.cycle ∧ k.cmds = [] ∧ k.matWrites = [] ∧ k.pend = [] ∧ ∀ f ∈ k.flights, f.bound ≠ none

/-- Entry `n` has left the snapshot buffer of core `c`: the entries before it have lost the bytes that it wrote (R30), and its pushes have
completed (R369, R370). -/
def snapGone (s t : State) (c : CoreId) (n : Nat) (e : SnapEntry) : Prop :=
  (t.core c).snap = (((s.core c).snap.take n).map fun (g : SnapEntry) => g.yield e.dest e.sq e.en) ++ (s.core c).snap.drop (n + 1)
    ∧ (t.core c).rising = (s.core c).rising ++ (if e.pushF then [(pushF e.sq, s.cycle, e.know)] else [])
        ++ if e.pushB then [(pushB e.sq, s.cycle, e.know)] else []

/-- Landing (R27 to R30), after each QUIES on its way has looked at its group (R106); deadlock (R87), trap mode (R366 to R374) and the
snapshot buffer (R370). -/
inductive TrapEvent : Instr → Event → Prop
  | landing (c : CoreId) (f : Flight) (u : State) : TrapEvent (.resultLanding c f.id)
      { when := fun s => u = s.watchQuiet ∧ ((u.core c).flights.find? fun g => g.id == f.id) = some f
          ∧ (u.core c).mayLand u.cycle f = true ∧ ∀ g ∈ (u.core c).flights, g.id ≠ f.id → g.ins ≠ f.ins
        gives := fun s t => u.onlyCore t c ∧ (u.core c).Takes (t.core c) f.sq f.dest f.value f.en f.flags
          ∧ (t.core c).flights = ((u.core c).flights.filter fun g => g.id != f.id).map f.yield
          ∧ (t.core c).rising = (u.core c).rising ++ pushes f.sq f.push s.cycle }
  | landingEarlier (c : CoreId) (f g : Flight) (u : State) : TrapEvent (.resultLanding c f.id)
      { when := fun s => u = s.watchQuiet ∧ ((u.core c).flights.find? fun h => h.id == f.id) = some f
          ∧ (u.core c).mayLand u.cycle f = true ∧ g ∈ (u.core c).flights ∧ g.id ≠ f.id ∧ g.ins = f.ins
        gives := fun _ t => u.onlyCore t c ∧ (u.core c).Takes (t.core c) f.sq f.dest f.value f.en 0
          ∧ (t.core c).rising = (u.core c).rising }
  | tokdead (c : CoreId) (q : Sq) : TrapEvent (.tokdead c)
      { when := fun s => (s.core c).tokdeadNow s.cycle = true ∧ (ring.find? fun p => !((s.core c).seq p).ended) = some q
          ∧ (q = .X ∨ (s.core c).tapePhase ≠ .replaying) ∧ (s.core c).replayIssue = none
        gives := fun s t => s.Stops { core := c, sq := q } 10 0 0 t }
  | tokdeadReplay (c : CoreId) (q : Sq) : TrapEvent (.tokdead c)
      { when := fun s => (s.core c).tokdeadNow s.cycle = true ∧ (ring.find? fun p => !((s.core c).seq p).ended) = some q
          ∧ q ≠ .X ∧ (s.core c).tapePhase = .replaying
        gives := fun s t => s.onlyCore t c ∧ (t.core c).replayFault = true ∧ (t.core c).rpstat.getLsbD 31 = true
          ∧ ∀ p, (t.core c).seq p = (s.core c).seq p }
  | illegal : TrapEvent .illegalEncoding
      { when := fun s => s.me.replayIssue = none ∧ s.me.inTrap = false ∧ s.me.stop = none
        gives := fun s t => s.Stops s.turn 1 0 0 t }
  | enter (c : CoreId) (p : Stop) : TrapEvent (.trapModeEntry c)
      { when := fun s => settled s (s.core c) p ∧ (s.core c).trapvec ≠ 0 ∧ p.cause ≠ 13
        gives := fun s t => s.onlyCoreFree t c
          ∧ (t.core c).trapcause = causeWord p.det.toNat (sqIndex p.sq) p.cause.toNat ∧ (t.core c).trapva = p.va
          ∧ (∀ q, (t.core c).epc.get (Fin.ofNat 4 (sqIndex q)) =
              if ((s.core c).seq q).ended = true then ((s.core c).seq q).entry + BitVec.ofNat 64 (2 * ((s.core c).seq q).extent)
              else if (s.core c).tapePhase = .replaying ∧ q ≠ .X then 0 else ((s.core c).seq q).pc)
          ∧ (t.core c).xsave = { g := (s.core c).sX.g, p := (s.core c).sX.p, lc := (s.core c).sX.lc, fpstat := (s.core c).sX.fpstat
                                 blocks := (s.core c).sX.blocks, ended := (s.core c).sX.ended }
          ∧ (t.core c).sX.ctl = { (s.core c).sX.ctl with pc := (s.core c).trapvec, blocks := [] } ∧ (t.core c).sX.ended = false
          ∧ (t.core c).stop = none ∧ (t.core c).flights = []
          ∧ (t.core c).snap.length = (s.core c).snap.length + (s.core c).flights.length
          ∧ (∀ q, ((s.core c).seq q).sameRegs ((t.core c).seq q)) ∧ (∀ q, q ≠ .X → ((t.core c).seq q).ctl = ((s.core c).seq q).ctl)
          ∧ (t.core c).acc = (s.core c).acc ∧ (t.core c).m = (s.core c).m ∧ (t.core c).spad = (s.core c).spad
          ∧ (t.core c).tokens = (s.core c).tokens ∧ (t.core c).tags = (s.core c).tags ∧ (t.core c).handles = (s.core c).handles }
  | noVector (c : CoreId) (p : Stop) (it : Iter) (l : Launch) : TrapEvent (.trapModeEntry c)
      { when := fun s => settled s (s.core c) p ∧ (s.core c).trapvec = 0 ∧ p.cause ≠ 13 ∧ (s.core c).tapePhase ≠ .recording
          ∧ (s.core c).iter = some it ∧ (s.launches.find? fun m => m.id == it.launch) = some l ∧ l.ending = none
        gives := fun s t => (∀ q, ((t.core c).seq q).ended = true) ∧ (t.core c).stop = none ∧ (t.core c).flights = []
          ∧ (t.launches.find? fun m => m.id == it.launch) =
              some { l with ending := some (6, causeWord p.det.toNat (sqIndex p.sq) p.cause.toNat, p.va) }
          ∧ t.mem = s.mem ∧ t.fe = s.fe ∧ ∀ d, d ≠ c → t.core d = s.core d }
  | snapshot (c : CoreId) (n : Nat) (e : SnapEntry) : TrapEvent (.snapshotLand c n)
      { when := fun s => (s.core c).snap[n]? = some e ∧ (s.core c).inTrap = false ∧ (s.core c).captured s.cycle = false
          ∧ (s.core c).resumeAt - 1 + e.off ≤ s.cycle ∧ e.bad = false
        gives := fun s t => s.onlyCore t c ∧ (s.core c).Takes (t.core c) e.sq e.dest e.value e.en e.flags ∧ snapGone s t c n e }
  | snapshotBad (c : CoreId) (n : Nat) (e : SnapEntry) : TrapEvent (.snapshotLand c n)
      { when := fun s => (s.core c).snap[n]? = some e ∧ (s.core c).inTrap = false ∧ (s.core c).captured s.cycle = false
          ∧ (s.core c).resumeAt - 1 + e.off ≤ s.cycle ∧ e.bad = true
        gives := fun s t => (s.foundOnDie n).onlyCore t c ∧ (s.core c).Takes (t.core c) e.sq e.dest 0 e.en 0 ∧ snapGone s t c n e
          ∧ (t.core c).derr = ((s.core c).derrRecord 6 0).derr ∧ (t.core c).derrva = ((s.core c).derrRecord 6 0).derrva }

/-- The cores that wait for each other at a rendezvous: those that a core's descriptor names, and itself. -/
def gangNamed (c : CoreId) (gd : Word) : List CoreId := (c :: gangMembers c gd).eraseDups

/-- Whether a core's MGANG agrees with that of `c` on gang, MCR and launch, and passes the checks of its own tile (R191, R197). -/
def gangMatches (s : State) (c m : CoreId) (gd : Word) : Bool :=
  (s.core m).gang.map GangWait.gd == some gd && s.gangWaits m (s.core c).gangCount && (s.core m).mcr == (s.core c).mcr
    && (s.core m).iter.map Iter.launch == (s.core c).iter.map Iter.launch && !s.gangKindBad m && s.gangOk m gd

/-- The ramp of the matrix engine (R127), gangs (R191) and the last write of an MDRAIN or MSAVE (R198). -/
inductive MatrixEvent : Instr → Event → Prop
  | grant (c : CoreId) (u : Nat) : MatrixEvent (.rampGrant c)
      { when := fun s => (s.core c).ramp = .requested u ∧ ((s.rampStarts.get (dieOf c)).filter fun r => decide (s.cycle < r + 32)).length < 4
          ∧ ∀ m v, dieOf m = dieOf c → (s.core m).ramp = .requested v → u < v ∨ u = v ∧ c.val ≤ m.val
        gives := fun s t => t = { (s.modCore c fun k => { k with ramp := .ramping s.cycle }) with
          rampStarts := s.rampStarts.set (dieOf c).val
            (((s.rampStarts.get (dieOf c)).filter fun r => decide (s.cycle < r + 32)) ++ [s.cycle]) (dieOf c).isLt } }
  | warm (c : CoreId) (r : Nat) : MatrixEvent (.rampEnd c)
      { when := fun s => (s.core c).ramp = .ramping r ∧ r + 32 ≤ s.cycle
        gives := fun s t => t = s.modCore c fun k => { k with ramp := .warm (r + 31) } }
  | cold (c : CoreId) (l : Nat) : MatrixEvent (.matrixEngineCold c)
      { when := fun s => (s.core c).ramp = .warm l ∧ l + 256 < s.cycle
        gives := fun s t => t = s.modCore c fun k => { k with ramp := .cold } }
  | noGang (c : CoreId) (w : GangWait) : MatrixEvent (.gangRendezvous c)
      { when := fun s => s.atRendezvous c = some w ∧ w.go = .wait ∧ (∀ m ∈ gangNamed c w.gd, s.gangReached m (s.core c).gangCount = true)
          ∧ ((gangFits w.gd = false ∨ c ∉ gangMembers c w.gd) ∨ ∃ m ∈ gangNamed c w.gd, gangMatches s c m w.gd = false)
        gives := fun s t => t.mem = s.mem ∧ (∀ q, t.seq q = s.seq q)
          ∧ ∀ m, t.core m = if m ∈ gangNamed c w.gd ∧ s.gangWaits m (s.core c).gangCount = true then
              { s.core m with gang := (s.core m).gang.map fun v => { v with go := if s.gangKindBad m then .illegal else .gang } }
            else s.core m }
  | gang (c : CoreId) (w : GangWait) : MatrixEvent (.gangRendezvous c)
      { when := fun s => s.atRendezvous c = some w ∧ w.go = .wait ∧ gangFits w.gd = true ∧ c ∈ gangMembers c w.gd
          ∧ ∀ m ∈ gangMembers c w.gd, s.gangReached m (s.core c).gangCount = true ∧ gangMatches s c m w.gd = true
        gives := fun s t => t.mem = s.mem ∧ (∀ q, t.seq q = s.seq q)
          ∧ ∀ m, t.core m = if m ∈ gangMembers c w.gd then
              { s.core m with gang := (s.core m).gang.map fun v =>
                  { v with go := .issue (s.gangOperands m w.gd).1 (s.gangOperands m w.gd).2 } }
            else s.core m }
  | gangtime (c : CoreId) (w : GangWait) : MatrixEvent (.gangtimeExpiry c)
      { when := fun s => (s.core c).gang = some w ∧ w.go = .wait ∧ w.since + 2 ^ 20 ≤ s.cycle
          ∧ ∃ m ∈ gangMembers c w.gd, (s.core m).gang = none
        gives := fun s t => ((t.core c).gang = some { w with go := .time }) ∧ t.mem = s.mem ∧ ∀ q, t.seq q = s.seq q }
  | lastWrite (c : CoreId) (m : MatWrite) : MatrixEvent (.lastWritePerformed c m.id)
      { when := fun s => ((s.core c).matWrites.find? fun w => w.id == m.id) = some m
          ∧ s.outstanding { core := c, sq := .C } m.id = false ∧ m.issued < s.cycle
        gives := fun s t => s.onlyCore t c ∧ (t.core c).matWrites = (s.core c).matWrites.filter (fun w => w.id != m.id)
          ∧ (∀ q, ((t.core c).seq q).ctl = ((s.core c).seq q).ctl ∧ ((t.core c).seq q).g = ((s.core c).seq q).g)
          ∧ (t.core c).sC.fpstat = (s.core c).sC.fpstat ||| m.flags.setWidth 32
          ∧ (t.core c).rising = (s.core c).rising ++ pushes .C m.push s.cycle }
  | bankAlu (h : HeldAccess) (w : Who) (r : AtomicRead) (u : State) : MatrixEvent (.bankAluOp h.stamp)
      { when := fun s => (s.pending.find? fun g => g.kind == 2 && g.stamp == h.stamp) = some h ∧ h.who = some w ∧ h.cls = .mat
          ∧ h.port = none ∧ h.far = none ∧ h.peer = none ∧ h.parts = [] ∧ h.rel = none ∧ h.acq = false
          ∧ s.homeOf h.core h.pa = .here
          ∧ ({ s with pending := s.pending.erase h } : State).bankStep h.actor none h.ten h.op h.sz h.pa (ofBytes (h.data.take (2 ^ h.sz)))
              (ofBytes ((h.data.drop 8).take (2 ^ h.sz))) = (r, u) ∧ r.bad = false
        gives := fun _ t => t = u }
  | bankPending (h : HeldAccess) : MatrixEvent (.bankAluOp h.stamp)
      { when := fun s => (s.pending.find? fun g => g.kind == 2 && g.stamp == h.stamp) = some h
        gives := fun s t => t = s.performPend h }

/-- A core just freed: it has no iteration, nothing in flight and no request (R91, R378). -/
def freed (k : Core) : Prop :=
  k.iter = none ∧ k.preempt = none ∧ k.stop = none ∧ k.flights = [] ∧ k.snap = [] ∧ k.rising = [] ∧ ∀ q, (k.seq q).ended = true

/-- A pre-emption may be taken from a core (R377, R378): every sequencer has stopped, the core has drained, and `n` is the capture cycle. -/
def mayTake (s : State) (c : CoreId) (it : Iter) (n : Nat) : Prop :=
  (s.core c).iter = some it ∧ (s.core c).mayPreempt = true ∧ (s.core c).drained = true ∧ (s.core c).rising = [] ∧ (s.core c).hLate = []
    ∧ (s.core c).preempt.bind PreReq.capture = some n

/-- The party that writes the image of a core. -/
def imageWriter (w : State) (c : CoreId) : Actor :=
  { who := some { core := c, sq := .X }, cls := .core, stamp := w.stamp, know := (w.core c).sX.know }

/-- The image, once the results in flight are captured: its bytes at the addresses of the context slot (R379, R381 to R383). -/
def imagePlaced (s : State) (c : CoreId) (it : Iter) (n : Nat) : Except PageFault (List (Nat × Byte)) × State :=
  let w := (s.flushCore c).capture c n
  let masks := fun q => if ((w.core c).seq q).ended then 0 else ((w.core c).seq q).lastSafe.getD 0
  w.placeSections (imageWriter w c) c it.ten
    (((w.core c).imageSections c it (combineMasks (ring.map masks)) ((w.core c).seqImages masks false) true).map fun p =>
      (w.slotOf it.ten c + p.1, p.2))

/-- The pre-emption is not taken: the core keeps its captured state and resumes in the next cycle, and the request is withdrawn (R381). -/
def kept (v : State) (c : CoreId) : State :=
  { (v.modCore c fun k => { k with preempt := none, resumeAt := v.cycle + 1 }) with
    fe := { v.fe with preWithdrawn := v.fe.preWithdrawn + 1 } }

/-- The core with the segments locked that its suspended iteration had locked (R380). -/
def relocked (s : State) (c : CoreId) (su : Suspended) : State :=
  (s.unlockAll c).modCore c fun k => { k with ntlocks := su.ntlocks, ntrefs := su.ntrefs }

/-- Iterations (R91 to R93), the barrier's release (R108) and pre-emption (R376 to R381). -/
inductive IterationEvent : Instr → Event → Prop
  | start (c : CoreId) (it : Iter) (l : Launch) : IterationEvent (.iterationStart c)
      { when := fun s => (s.core c).iter = some it ∧ s.launchOf c = some l ∧ it.started = false
          ∧ (∀ p ∈ (s.core c).tapes.toList, p.st = .empty ∨ p.ten = it.ten) ∧ (s.core c).lastLaunch = some it.launch
        gives := fun s t => s.onlyCore t c ∧ (t.core c).iter = some { it with started := true, since := s.stamp }
          ∧ (∀ q, ((t.core c).seq q).pc = l.ent.getD (sqIndex q) 0 ∧ ((t.core c).seq q).blocks = []
            ∧ ((t.core c).seq q).ended = decide (l.ext.getD (sqIndex q) 0 = 0)
            ∧ (∀ r, ((t.core c).seq q).rg r = 0) ∧ (∀ r : PReg, r ≠ 0 → ((t.core c).seq q).rp r = false) ∧ ((t.core c).seq q).fpstat = 0)
          ∧ (∀ i : Fin 8, (t.core c).tokenCount i = l.tok.getD i.val 0) ∧ (t.core c).h = Vector.replicate 8 0
          ∧ (t.core c).trapvec = (s.tens.get it.ten.toFin).trapvec ∧ (t.core c).ramp = .cold
          ∧ (t.core c).spad = (s.core c).spad ∧ (t.core c).acc = (s.core c).acc ∧ (t.core c).handles = (s.core c).handles }
  | finish (c : CoreId) (it : Iter) (l : Launch) : IterationEvent (.iterationFinish c)
      { when := fun s => (s.core c).iter = some it ∧ (s.core c).finished = true
          ∧ ((s.finishAccesses c).core c).pend = []
          ∧ (s.launches.find? fun m => m.id == it.launch) = some l ∧ l.done + 1 < l.count ∧ l.ending = none
        gives := fun s t => freed (t.core c) ∧ (∃ m, (t.launches.find? fun m => m.id == it.launch) = some m ∧ m.done = l.done + 1)
          ∧ t.cycle = s.cycle ∧ t.queues = s.queues }
  | finishLast (c : CoreId) (it : Iter) (l : Launch) : IterationEvent (.iterationFinish c)
      { when := fun s => (s.core c).iter = some it ∧ (s.core c).finished = true
          ∧ ((s.finishAccesses c).core c).pend = []
          ∧ (s.launches.find? fun m => m.id == it.launch) = some l ∧ l.done + 1 = l.next ∧ l.count ≤ l.next
        gives := fun s t => (∀ m ∈ t.launches, m.id ≠ it.launch) ∧ (t.core c).iter = none ∧ t.cycle = s.cycle
          ∧ ∀ n, (t.queues.get n).packets = (s.queues.get n).packets ∧ (t.queues.get n).cfg = (s.queues.get n).cfg }
  | finishWaits (c : CoreId) (it : Iter) : IterationEvent (.iterationFinish c)
      { when := fun s => (s.core c).iter = some it ∧ (s.core c).finished = true ∧ ((s.finishAccesses c).core c).pend ≠ []
        gives := fun s t => t = s.finishAccesses c }
  | barrier (l : Launch) : IterationEvent (.barrierRelease l.id)
      { when := fun s => (s.launches.find? fun m => m.id == l.id) = some l ∧ l.missing (l.released + 1) = false
          ∧ ∃ a ∈ l.arrived, a.2 = l.released + 1
        gives := fun s t => (t.launches.find? fun m => m.id == l.id) = some { l with released := l.released + 1 }
          ∧ t.mem.cells = s.mem.cells ∧ t.mem.hist = s.mem.hist ∧ t.mem.marks = s.mem.marks
          ∧ (∀ c g, (s.core c).awaits l.id = some g → g ≤ l.released + 1 → (t.core c).barWaiting = false)
          ∧ ∀ c, (s.core c).awaits l.id = none → t.core c = s.core c }
  | request (c : CoreId) (l : Launch) : IterationEvent (.preemptRequest l.id c)
      { when := fun s => (s.launches.find? fun m => m.id == l.id) = some l ∧ s.preemptWanted l = true ∧ s.preemptTarget l = some c
        gives := fun s t => t = s.modCore c fun k => { k with preempt := some { launch := l.id, cycle := s.cycle, capture := none } } }
  | withdraw (c : CoreId) (p : PreReq) : IterationEvent (.preemptWithdraw c)
      { when := fun s => (s.core c).preempt = some p ∧ p.cycle + 2 ^ 20 ≤ s.cycle ∧ p.capture = none
        gives := fun s t => t = { (s.modCore c fun k => { k with preempt := none }) with
          fe := { s.fe with preWithdrawn := s.fe.preWithdrawn + 1 } } }
  | withdrawCaptured (c : CoreId) (p : PreReq) (n : Nat) (u : State) : IterationEvent (.preemptWithdraw c)
      { when := fun s => (s.core c).preempt = some p ∧ p.cycle + 2 ^ 20 ≤ s.cycle ∧ p.capture = some n ∧ u = s.capture c n
        gives := fun s t => t = { (u.modCore c fun k => { k with resumeAt := s.cycle + 1, preempt := none }) with
          fe := { s.fe with preWithdrawn := s.fe.preWithdrawn + 1 } } }
  | take (c : CoreId) (it : Iter) (n : Nat) (ws : List (Nat × Byte)) (u v w : State) (seen : List (Nat × SectorNow)) :
      IterationEvent (.preemptTake c)
      { when := fun s => mayTake s c it n ∧ imagePlaced s c it n = (.ok ws, u)
          ∧ u.checkSectors (sectorsOf (ws.filterMap fun x => u.placeOf x.1)) = (seen, v) ∧ badOf seen = []
          ∧ w = v.imageWrite (imageWriter ((s.flushCore c).capture c n) c) c ws
        gives := fun _ t => freed (t.core c) ∧ (t.core c).tokens = Vector.replicate 8 []
          ∧ (∃ su, (t.core c).suspended = some su ∧ su.iter = it ∧ su.given = false)
          ∧ t.mem = w.mem ∧ t.fe = { w.fe with preempts := w.fe.preempts + 1 } ∧ ∀ d, d ≠ c → t.core d = w.core d }
  | takeFault (c : CoreId) (it : Iter) (n : Nat) (f : PageFault) (v : State) : IterationEvent (.preemptTake c)
      { when := fun s => mayTake s c it n ∧ imagePlaced s c it n = (.error f, v)
        gives := fun _ t => t = kept v c }
  | takePoison (c : CoreId) (it : Iter) (n : Nat) (ws : List (Nat × Byte)) (u v : State) (seen : List (Nat × SectorNow)) :
      IterationEvent (.preemptTake c)
      { when := fun s => mayTake s c it n ∧ imagePlaced s c it n = (.ok ws, u)
          ∧ u.checkSectors (sectorsOf (ws.filterMap fun x => u.placeOf x.1)) = (seen, v) ∧ badOf seen ≠ []
        gives := fun _ t => t = kept v c }
  | resumeLost (c : CoreId) (su : Suspended) (f : PageFault) (v : State) (l : Launch) : IterationEvent (.iterationResume c)
      { when := fun s => (s.core c).suspended = some su ∧ (s.core c).iter = none ∧ su.given = true
          ∧ (let w := relocked s c su
            w.readVa { who := none, cls := .core, stamp := w.stamp, know := Know.none } c su.iter.ten (w.slotOf su.iter.ten c) 256)
              = (.error f, v)
          ∧ (v.core c).tapePhase ≠ .recording ∧ (v.launches.find? fun m => m.id == su.iter.launch) = some l ∧ l.ending = none
        gives := fun s t => (t.core c).suspended = none ∧ (t.core c).iter = some { su.iter with since := s.stamp }
          ∧ (∀ q, ((t.core c).seq q).ended = true)
          ∧ (t.launches.find? fun m => m.id == su.iter.launch) =
              some { l with ending := some (9, 0, BitVec.ofNat 64 (s.slotOf su.iter.ten c)) } }
  | resume (c : CoreId) (su : Suspended) (head : List Byte) (im : ImageData) (u v : State) : IterationEvent (.iterationResume c)
      { when := fun s => (s.core c).suspended = some su ∧ (s.core c).iter = none ∧ su.given = true
          ∧ (let w := relocked s c su
            let a : Actor := { who := none, cls := .core, stamp := w.stamp, know := Know.none }
            w.readVa a c su.iter.ten (w.slotOf su.iter.ten c) 256 = (.ok (head, none), u)
            ∧ u.readImage a c su.iter.ten (w.slotOf su.iter.ten c) head su.vwb = (.ok (im, []), v))
          ∧ imageStatus im c su.iter su.ntlocks = 0
        gives := fun s t => (∃ k, t = v.setCore c k) ∧ (t.core c).iter = some { su.iter with since := s.stamp }
          ∧ (t.core c).suspended = none
          ∧ (∀ q, ((t.core c).seq q).pc = evenAt (im.seqBytes (sqIndex q)) 256) ∧ (t.core c).resumeAt = v.cycle + 1
          ∧ (t.core c).ramp = .cold ∧ (t.core c).tapePhase = su.tapePhase ∧ (t.core c).barCount = su.barCount }

/-- The common fields of a tape entry (R351). -/
def entryCtl (e : TapeEntry) : Ctl :=
  ctlOf e.w.toNat (if e.w.toNat / 2 % 2 = 1 then e.ops.getLast?.map (BitVec.setWidth 32) else none)

/-- The state in which entry `e` of stream `q` is offered to its core's issue. -/
def offered (s : State) (c : CoreId) (q : Sq) (e : TapeEntry) : State :=
  { (s.modCore c fun k =>
      { k.modSeq q fun v => { v with tried := s.cycle + 1 } with replayIssue := some (q, !e.interlocked) }) with
    turn := { core := c, sq := q } }

/-- The issue of a tape's marker entry (R353): its tokens are taken, its pushes complete in this cycle, and the stream goes on to its next
entry; of a command entry whose command issues; and an entry in a poisoned sector, a replay fault of CAUSE 1 (R399). -/
inductive ReplayEvent : Instr → Event → Prop
  | marker (c : CoreId) (q : Sq) (e : TapeEntry) (tp : Tape) : ReplayEvent (.replayEntryIssue c q)
      { when := fun s => (s.core c).replayTape = some tp ∧ (s.core c).replayEntry q = some e ∧ (s.core c).mayReplay s.cycle q = true
          ∧ (s.core c).badEntry q = false ∧ e.marker = true ∧ (s.core c).tokensReady q (entryCtl e) = true
        gives := fun s t => t.stamp = s.stamp + 1 ∧ t.turn = s.turn ∧ t.cycle = s.cycle ∧ t.launches = s.launches
          ∧ (∀ d, d ≠ c → (s.core d).sameBut (t.core d))
          ∧ (t.core c).rpNext q = tp.nextOf q ((s.core c).rpNext q + 1) % 2 ^ 20
          ∧ ((t.core c).seq q).ended = decide (tp.entries.length ≤ tp.nextOf q ((s.core c).rpNext q + 1))
          ∧ ((t.core c).seq q).lastSafe = (entryCtl e).safe ∧ ((t.core c).seq q).g = ((s.core c).seq q).g
          ∧ (t.core c).tokens = ((s.core c).popTokens q (entryCtl e)).tokens ∧ (t.core c).replayIssue = none
          ∧ (t.core c).rising.map (fun r => (r.1, r.2.1)) = (s.core c).rising.map (fun r => (r.1, r.2.1))
              ++ (if (entryCtl e).sf then [(pushF q, s.cycle)] else []) ++ if (entryCtl e).sb then [(pushB q, s.cycle)] else [] }
  | poisoned (c : CoreId) (q : Sq) (e : TapeEntry) : ReplayEvent (.replayEntryIssue c q)
      { when := fun s => (s.core c).replayEntry q = some e ∧ (s.core c).mayReplay s.cycle q = true ∧ (s.core c).badEntry q = true
        gives := fun s t => (t.core c).replayFault = true ∧ ((t.core c).rpstat >>> 32) &&& 0xFF#64 = 1
          ∧ (∀ p, (t.core c).seq p = (s.core c).seq p) ∧ t.mem = s.mem ∧ ∀ d, d ≠ c → t.core d = s.core d }
  | command (c : CoreId) (q : Sq) (e : TapeEntry) (i : Instr) (u : State) : ReplayEvent (.replayEntryIssue c q)
      { when := fun s => (s.core c).replayEntry q = some e ∧ (s.core c).mayReplay s.cycle q = true
          ∧ (s.core c).badEntry q = false ∧ e.marker = false
          ∧ decodeOperand (e.w.toNat / 512 % 64) (e.w.toNat / 32768) (entryCtl e) = .ok i
          ∧ replayCommand i (offered s c q e) = .next u
        gives := fun s t => t = { (u.modCore c fun k => { k with replayIssue := none }) with turn := s.turn } }

end Sys2Proof.Rules
end

