-- ==== Sys2Proof/Rules/Matrix.lean ====
section
/-!
DEFINITION. The matrix instructions as their rules give them (R127, R179 to R198): when each meets no trap, and its effect.
-/
namespace Sys2Proof.Rules
open Sys2Proof.Machine

/-- The matrix engine of the core whose turn it is does not hold an instruction on these rows (R186, R198). -/
def rowsFree (reads : Bool) (rows : State → List (Fin 128)) (s : State) : Prop := s.me.matWait s.cycle (rows s) reads = false

/-- The rows of its tile. -/
def tile (s : State) : List (Fin 128) := s.me.tileRows

/-- The engine is warm (R127). -/
def engineWarm (s : State) : Prop := ∃ l, s.me.ramp = .warm l

/-- An operand that a register's descriptor names. -/
def operand (s : State) (r : Reg) : Handle := s.me.handle (s.mine.rg r)

/-- Nothing read yet. -/
def gather (s : State) : Gather := { s := s, bad := none, fl := 0 }

/-- The handle entries found poisoned that descriptors in `rs` name (R399). -/
def handlesRead (rs : List Reg) (cx : Cx) (s : State) : List Nat := (s.core cx.who.core).badHandles (rs.map (s.seq cx.who).rg)

/-- What is recorded of the poisoned bytes and rows that a multiplication reads: the operand address of the first poisoned byte, and the rows
of the tile that no earlier matrix instruction still provides (R186, R399, R400). -/
def poisonRead (s : State) (g : Gather) : State := (g.s.noteSpad s.turn.core g.bad).noteRows s.turn.core s.me.rowsRead

/-- The dense operands A and B of formats with `k.k` elements a row and `k.n` columns, read from the scratchpad. -/
def denseOperands (cx : Cx) (s : State) (k : MatKind) (a b : Reg) : List (List MatVec) × List (List MatVec) × Gather :=
  let ra := (gather s).rows s.turn.core (cx.actor s) (operand s a) cx.exposed (fun _ _ => true) (descRow (s.mine.rg a))
    (descCol (s.mine.rg a)) 1 k.k s.me.mrows
  let rb := ra.2.rows s.turn.core (cx.actor s) (operand s b) cx.exposed (fun _ _ => true) (descRow (s.mine.rg b))
    (descCol (s.mine.rg b)) 1 k.k k.n
  (ra.1, rb.1, rb.2)

/-- MMA (R187) with operands that it accepts. -/
inductive MultiplyRow : Instr → Effect → Prop
  | mma (a b : Reg) (x : Ctl) (k : MatKind) : MultiplyRow (.mma a b x)
      { x := x, lat := 7, qs := [.C], onDie := handlesRead [a, b], clear := rowsFree false tile
        when := fun _ s => engineWarm s ∧ matKind (operand s a).fmt = some k ∧ s.me.kindBad k = false
          ∧ operandBad (operand s a) k.k (descCol (s.mine.rg a)) = false
          ∧ operandBad (operand s b) k.k (descCol (s.mine.rg b)) = false ∧ (operand s a).fmt = (operand s b).fmt
          ∧ clash (operandRuns (operand s a) (descRow (s.mine.rg a)) (descCol (s.mine.rg a)) s.me.mrows k.k)
              (operandRuns (operand s b) (descRow (s.mine.rg b)) (descCol (s.mine.rg b)) k.n k.k) = false
        gives := fun cx s =>
          let r := denseOperands cx s k a b
          (poisonRead s r.2.2).flyTile cx (denseT (operand s a) (operand s b)) true
            (tileResults s.me k cx.exposed r.1 r.2.1 (fun _ => densePairs k.k) r.2.2.fl) }
  | mgang (d a b : Reg) (x : Ctl) (w : GangWait) (ga gb : Word) (k : MatKind) : MultiplyRow (.mgang d a b x)
      { x := x, lat := 7, qs := [.C], onDie := handlesRead [a, b], clear := rowsFree false tile
        when := fun _ s => engineWarm s ∧ s.me.gang = some w ∧ w.go = .issue ga gb
          ∧ matKind ((s.core (gangSources s.turn.core w.gd).1).handle ga).fmt = some k
        gives := fun cx s =>
          let ca := (gangSources s.turn.core w.gd).1
          let cb := (gangSources s.turn.core w.gd).2
          let act := fun (m : CoreId) => { (cx.actor s) with
            who := some { core := m, sq := .C }, know := (s.seq { core := m, sq := .C }).know : Actor }
          let ha := (s.core ca).handle ga
          let hb := (s.core cb).handle gb
          let ra := (gather s).rows ca (act ca) ha cx.exposed (fun _ _ => true) (descRow ga) (descCol ga) 1 k.k s.me.mrows
          let rb := ra.2.rows cb (act cb) hb cx.exposed (fun _ _ => true) (descRow gb) (descCol gb) 1 k.k k.n
          ((poisonRead s rb.2).flyTile cx (denseT ha hb) true
            (tileResults s.me k cx.exposed ra.1 rb.1 (fun _ => densePairs k.k) rb.2.fl)).modCore s.turn.core fun c =>
              { c with gang := none, gangCount := c.gangCount + 1 } }
  | mzero (x : Ctl) : MultiplyRow (.mzero x)
      { x := x, lat := 7, qs := [.C], clear := rowsFree false tile, when := fun _ s => engineWarm s
        gives := fun cx s => s.flyTile cx 4 true (s.me.tileRows.map fun n =>
          { dest := .row n, value := 0, en := BitVec.allOnes 512, flags := 0 }) }
  | mcfg (a : Reg) (x : Ctl) : MultiplyRow (.mcfg a x)
      { x := x, qs := [.C], when := fun _ s => s.mine.rg a &&& 0xFFFFFFFFFFFF8080 = 0
        gives := fun _ s => s.modCore s.turn.core fun c => { c with mcr := (s.mine.rg a).setWidth 32 } }

/-- The segments of a sparse operand format (R189). -/
def segments (h : Handle) : Nat := if h.fmt = 9 then 4 else 2

/-- MMAS (R189, R190): `k` is the kind of its formats, `head` its 64 metadata bytes and `g` what is left after they were read. -/
inductive SparseRow : Instr → Effect → Prop
  | mmas (d a b : Reg) (x : Ctl) (k : MatKind) (head : List Byte) (g : Gather) (n : Nat) : SparseRow (.mmas d a b x)
      { x := x, lat := 7, qs := [.C], onDie := handlesRead [a, b], clear := rowsFree false tile
        when := fun cx s =>
          let ha := operand s a
          let hb := operand s b
          let da := s.mine.rg a
          let db := s.mine.rg b
          let segs := segments ha
          let coarse := ofBytes (head.take 2)
          engineWarm s ∧ (ha.fmt = 3 ∨ ha.fmt = 4 ∨ ha.fmt = 9) ∧ matKind ha.fmt = some k ∧ s.me.kindBad k = false
            ∧ operandBad ha (32 * segs) (descCol da) = false ∧ operandBad hb (16 * segs) (descCol db) = false ∧ ha.fmt = hb.fmt
            ∧ n = (s.mine.rg d).toNat ∧ n + 64 + 512 * segs ≤ 2 ^ 22 ∧ n % 64 = 0
            ∧ (gather s).run s.turn.core (cx.actor s) (n, 64) = (head, g) ∧ metaBad head segs = false
            ∧ clash ((List.range segs).flatMap fun t =>
                  if (List.range 4).any (segLive coarse t) then operandRuns ha (descRow da) (descCol da + 32 * t) s.me.mrows 32 else [])
                ((List.range segs).flatMap fun t => (List.range k.n).flatMap fun j =>
                  if segLive coarse t (j / 32) then hb.runs (descRow db + j) (descCol db + 16 * t) 16 else []) = false
        gives := fun cx s =>
          let ha := operand s a
          let hb := operand s b
          let da := s.mine.rg a
          let db := s.mine.rg b
          let segs := segments ha
          let coarse := ofBytes (head.take 2)
          let words := (List.range segs).flatMap fun t => (List.range k.n).map fun j =>
            (n + 64 + 4 * (128 * t + j), if segLive coarse t (j / 32) then 4 else 0)
          let ws := g.runs s.turn.core (cx.actor s) words
          let ra := ws.2.rows s.turn.core (cx.actor s) ha cx.exposed (fun _ t => (List.range 4).any (segLive coarse t)) (descRow da)
            (descCol da) segs 32 s.me.mrows
          let rb := ra.2.rows s.turn.core (cx.actor s) hb cx.exposed (fun j t => segLive coarse t (j / 32)) (descRow db) (descCol db)
            segs 16 k.n
          let pairs := fun j => (List.range segs).map fun t =>
            if segLive coarse t (j / 32) then sparsePairs (ofBytes (ws.1.getD (k.n * t + j) [])) else []
          let live := ((List.range 4).map fun q => ((List.range segs).filter fun t => segLive coarse t q).length).foldl max 0
          (poisonRead s rb.2).flyTile cx (max 4 (denseT ha hb * 16 * live / k.k)) true
            (tileResults s.me k cx.exposed ra.1 rb.1 pairs rb.2.fl) }

/-- The rows of the tile that MDRAIN writes: row numbers, and how many elements each has (R193). -/
def drainRows (s : State) (h : Handle) (dd : Word) : List Nat × Nat :=
  let cnt := min (if fld s.me.acct 2 0 = 5 then 64 else 128) (h.cols - descCol dd)
  (if cnt = 0 then [] else (List.range s.me.mrows).filter fun m => decide (descRow dd + m < h.rows), cnt)

/-- The converted elements of those rows (R193). -/
def drainElems (cx : Cx) (s : State) (h : Handle) (dd gb : Word) : List (List (Nat × BitVec 6)) :=
  (drainRows s h dd).1.map fun m =>
    ((lanesOf s.me.lane.w (if fld s.me.acct 2 0 = 5 then 64 else 128) (s.me.rowBytes (s.me.tileRow m))).take (drainRows s h dd).2).map
      (drainLane s.me.lane h.fmt (sextNat 16 (fld gb 15 0)) cx.exposed)

/-- Their bytes, row by row. -/
def drainData (cx : Cx) (s : State) (h : Handle) (dd gb : Word) : List (List Byte) :=
  (drainElems cx s h dd gb).map fun r => (r.map fun e => toBytes (fmtSize h.fmt) e.1).flatten

/-- The ranges that it writes: address and length of each row's part. -/
def drainRuns (s : State) (h : Handle) (dd : Word) : List (Nat × Nat) :=
  (drainRows s h dd).1.map fun m => (h.at (descRow dd + m) (descCol dd), (drainRows s h dd).2 * fmtSize h.fmt)

/-- The tile's elements written: to global memory at `pas`, or to the scratchpad (R193). -/
def drainStored (cx : Cx) (s u : State) (h : Handle) (dd gb : Word) (pas : List (List (Nat × Nat))) : State :=
  if h.loc = 0 then u.writePas (cx.matActor s) .plain ((pas.flatten.map Prod.fst).zip (drainData cx s h dd gb).flatten)
  else ((drainRuns s h dd).zip (drainData cx s h dd gb)).foldl (fun t r => t.spadStore s.turn.core (cx.actor t) r.1.1 r.2) u

/-- The maximum of the magnitudes on its way to its bank (R194), where MDRAIN names an address. -/
def drainMax (cx : Cx) (s t : State) (h : Handle) (dd ga gb : Word) (word : List (Nat × Nat)) : State :=
  match word.head? with
  | none => t
  | some p =>
    { t with pending := t.pending ++ [cx.maximum t ga.toNat p.1
        (((drainElems cx s h dd gb).flatten.map fun e => magnitude32 h.fmt e.1).foldl max 0)] }

/-- MDRAIN (R193, R194); `pas` and `word` are its pieces' and the maximum's translations. -/
inductive DrainRow : Instr → Effect → Prop
  | mdrain (d a b : Reg) (x : Ctl) (pas : List (List (Nat × Nat))) (word : List (Nat × Nat)) (u v : State) : DrainRow (.mdrain d a b x)
      { x := x, qs := [.C], acc := [.mat], onDie := handlesRead [d], clear := rowsFree true tile
        when := fun cx s => (fld s.me.acct 2 0 = 0 ∨ fld s.me.acct 2 0 = 1 ∨ fld s.me.acct 2 0 = 5)
          ∧ fld (s.mine.rg b) 63 18 = 0 ∧ (s.mine.rg a).toNat % 4 = 0 ∧ (operand s d).dense = true
          ∧ (if (operand s d).loc = 0 then s.translateRuns (cx.matActor s) s.turn.core Need.store (drainRuns s (operand s d) (s.mine.rg d))
              else (.ok [], s)) = (.ok pas, u)
          ∧ (if (s.mine.rg a).toNat = 0 then (.ok [], u)
              else u.translateBytes (cx.matActor s) s.turn.core (u.tenOf s.turn.core) Need.amo (s.mine.rg a).toNat 4) = (.ok word, v)
        gives := fun cx s =>
          let v := v.noteRows s.turn.core ((drainRows s (operand s d) (s.mine.rg d)).1.map s.me.tileRow)
          let t := (drainStored cx s v (operand s d) (s.mine.rg d) (s.mine.rg b) pas).openWrite cx true
            ((drainElems cx s (operand s d) (s.mine.rg d) (s.mine.rg b)).foldl (fun acc r => acc ||| orFlags r) 0)
          let t := drainMax cx s t (operand s d) (s.mine.rg d) (s.mine.rg a) (s.mine.rg b) word
          t.modCore s.turn.core fun c => { c with matBusy := t.cycle + c.mrows } }

/-- What MSAVE leaves once its bytes are written: the poisoned rows that it reads are noted (R195, R198, R399). -/
def saved (cx : Cx) (s u : State) (rows : List (Fin 128)) : State :=
  let t := (u.noteRows s.turn.core rows).openWrite cx false 0
  t.modCore s.turn.core fun c => { c with matBusy := t.cycle + rows.length }

/-- The bytes that MSAVE writes. -/
def savedBytes (s : State) (rows : List (Fin 128)) : List Byte := (rows.map fun r => toBytes 512 (s.me.rowBytes r)).flatten

/-- An MLOAD from memory is on its way (R234), and poison in what it reads is recorded by its first address (R400). -/
def loading (cx : Cx) (s : State) (a : Nat) (bs : List (Byte × Bool)) (u : State) : State :=
  let u := match bs.findIdx? Prod.snd with
    | some i => u.modCore s.turn.core fun c => c.derrRecord 1 (a + i)
    | none => u
  u.modCore s.turn.core fun c => { c with pend := c.pend ++ [{ cls := .mat, sq := .C, id := cx.stamp }] }

/-- MSAVE and MLOAD (R195): to and from the scratchpad, or global memory at `pas`. -/
inductive RowMove : Instr → Effect → Prop
  | saveSpad (a b : Reg) (x : Ctl) : RowMove (.msave a b x)
      { x := x, qs := [.C], acc := [.mat], clear := rowsFree true fun s => moveRows (s.mine.rg b)
        when := fun _ s => rowMoveBad (s.mine.rg a) (s.mine.rg b) = false ∧ (s.mine.rg b).getLsbD 16 = true
          ∧ (s.mine.rg a).toNat + 512 * (moveRows (s.mine.rg b)).length ≤ 2 ^ 22
        gives := fun cx s =>
          let rows := moveRows (s.mine.rg b)
          saved cx s (s.spadStore s.turn.core (cx.actor s) (s.mine.rg a).toNat (savedBytes s rows)) rows }
  | saveMem (a b : Reg) (x : Ctl) (pas : List (Nat × Nat)) (u : State) : RowMove (.msave a b x)
      { x := x, qs := [.C], acc := [.mat], clear := rowsFree true fun s => moveRows (s.mine.rg b)
        when := fun cx s => rowMoveBad (s.mine.rg a) (s.mine.rg b) = false ∧ (s.mine.rg b).getLsbD 16 = false
          ∧ s.translateBytes (cx.matActor s) s.turn.core (s.tenOf s.turn.core) Need.store (s.mine.rg a).toNat
              (512 * (moveRows (s.mine.rg b)).length) = (.ok pas, u)
        gives := fun cx s =>
          let rows := moveRows (s.mine.rg b)
          saved cx s (u.writePas (cx.matActor s) .plain ((pas.map Prod.fst).zip (savedBytes s rows))) rows }
  | loadSpad (a b : Reg) (x : Ctl) : RowMove (.mload a b x)
      { x := x, lat := 7, qs := [.C], acc := [.mat], clear := rowsFree false fun s => moveRows (s.mine.rg b)
        when := fun _ s => rowMoveBad (s.mine.rg a) (s.mine.rg b) = false ∧ (s.mine.rg b).getLsbD 16 = true
          ∧ (s.mine.rg a).toNat + 512 * (moveRows (s.mine.rg b)).length ≤ 2 ^ 22
        gives := fun cx s =>
          let rows := moveRows (s.mine.rg b)
          let r := s.spadLoad s.turn.core (cx.actor s) (s.mine.rg a).toNat (512 * rows.length)
          (r.2.2.noteSpad s.turn.core ((r.2.2.core s.turn.core).badFrom (s.mine.rg a).toNat (512 * rows.length))).flyTile cx
            rows.length false (loadResults rows r.1) }
  | loadMem (a b : Reg) (x : Ctl) (pas : List (Nat × Nat)) (u : State) : RowMove (.mload a b x)
      { x := x, lat := 7, qs := [.C], acc := [.mat], clear := rowsFree false fun s => moveRows (s.mine.rg b)
        when := fun cx s => rowMoveBad (s.mine.rg a) (s.mine.rg b) = false ∧ (s.mine.rg b).getLsbD 16 = false
          ∧ s.translateBytes (cx.matActor s) s.turn.core (s.tenOf s.turn.core) Need.load (s.mine.rg a).toNat
              (512 * (moveRows (s.mine.rg b)).length) = (.ok pas, u)
        gives := fun cx s =>
          let rows := moveRows (s.mine.rg b)
          let r := u.readAs (cx.matActor s) (pas.map Prod.fst)
          (loading cx s (s.mine.rg a).toNat r.1 r.2).flyTile cx rows.length false (loadResults rows (r.1.map Prod.fst)) }

end Sys2Proof.Rules
end

