-- ==== Sys2Proof/Rules/Engines.lean ====
section
/-!
DEFINITION. Engine commands as they issue, the tag instructions and the charter instructions as their rules give them (R126, R290 to
R303, R306, R318, R328, R448, R453 to R455).
-/
namespace Sys2Proof.Rules
open Sys2Proof.Machine

/-! ### Commands (R126, R290, R292) -/

/-- A command as its registers give it at issue: its class, its tag, what it is to do and the scratchpad bytes it may touch. -/
structure Order where
  cls : PathClass
  tag : State → BitVec 6
  op : State → CmdOp
  spad : State → List (Nat × Nat)

/-- Submitting a command: its tag becomes PENDING and is no longer DONE, and the command stands behind the core's others, not started. -/
def submitted (o : Order) (cx : Cx) (s : State) : State :=
  s.modCore s.turn.core fun m =>
    { m with
      cmds := m.cmds ++ [{ id := cx.stamp, sq := s.turn.sq, cls := o.cls, op := o.op s, tag := o.tag s, phase := .queued, push := cx.push s
                           know := s.mine.know, ten := s.tenOf s.turn.core, launch := (s.me.iter.map Iter.launch).getD 0, data := []
                           fixed := none, replies := [], sent := 0, spad := o.spad s }]
      tags := m.tags &&& ~~~(1#64 <<< (o.tag s).toNat)
      tstat := m.tstat.set (o.tag s).toNat 1 (o.tag s).isLt }

/-- The instruction that submits a command, where its tag is not PENDING, its sequencer holds fewer than 32 commands that have not
started (R126), and `ok` holds of the operands; `bad` are the poisoned entries on the die that it reads (R399). -/
def command (x : Ctl) (qs : List Sq) (o : Order) (bad : Cx → State → List Nat := fun _ _ => []) (ok : State → Prop := fun _ => True) :
    Effect :=
  { x := x, qs := qs, acc := [.core], onDie := bad
    clear := fun s => s.me.tagPending (o.tag s) = false ∧ s.me.unstarted s.turn.sq < 32
    when := fun _ s => ok s
    gives := submitted o }

/-- The entry that descriptor register `a` names. -/
def entry (s : State) (a : Reg) : BitVec 256 := s.me.hEntry (descIndex (s.mine.rg a))

/-- A command on two tensors, its descriptors in `a` and the register after it. -/
def tensors (g : BitVec 6) (cls : PathClass) (a b : Reg) (op : Word → Word → BitVec 256 → BitVec 256 → Word → Word → CmdOp)
    (spad : Word → Word → BitVec 256 → BitVec 256 → Word → List (Nat × Nat)) : Order :=
  { cls := cls, tag := fun _ => g
    op := fun s => op (s.mine.rg a) (s.mine.rg (regNext a)) (entry s a) (entry s (regNext a)) (s.mine.rg b) (s.mine.rg (regNext b))
    spad := fun s => spad (s.mine.rg a) (s.mine.rg (regNext a)) (entry s a) (entry s (regNext a)) (s.mine.rg b) }

/-- CPY (R293), CPY2D (R294), GATH (R295) and SCAT (R296). -/
inductive CopyRow : Instr → Effect → Prop
  | cpy (g : BitVec 6) (a b : Reg) (x : Ctl) : CopyRow (.cpy g a b x)
      (command x [.L, .S] (tensors g .copy a b (fun dd ds hd hs gb _ => .cpy dd ds hd hs gb)
        fun dd ds hd hs gb => copySpad dd ds hd hs (gb.toNat % 2 ^ 32) 1 fun _ => 1) (handlesRead [a, regNext a]))
  | cpy2d (g : BitVec 6) (a b : Reg) (x : Ctl) : CopyRow (.cpy2d g a b x)
      (command x [.L, .S] (tensors g .copy a b (fun dd ds hd hs gb gb1 => .cpy2d dd ds hd hs gb gb1)
        fun dd ds hd hs gb => copySpad dd ds hd hs (gb.toNat % 2 ^ 24) (gb.toNat / 2 ^ 24 % 2 ^ 24) fun h => fmtSize h.fmt)
        (handlesRead [a, regNext a]))
  | gath (g : BitVec 6) (a b : Reg) (x : Ctl) : CopyRow (.gath g a b x)
      (command x [.L, .S] (tensors g .gath a b (fun dd ds hd hs gb _ => .gath dd ds hd hs gb) (gathSpad false))
        (handlesRead [a, regNext a]))
  | scat (g : BitVec 6) (a b : Reg) (x : Ctl) : CopyRow (.scat g a b x)
      (command x [.L, .S] (tensors g .gath a b (fun dd ds hd hs gb _ => .scat dd ds hd hs gb) (gathSpad true))
        (handlesRead [a, regNext a]))

/-- A command on a command block at the scratchpad address in `a`, its tag in `d` (R306). -/
def block (x : Ctl) (cls : PathClass) (d a : Reg) (op : Word → Word → CmdOp) : Effect :=
  command x [.X, .L, .S]
    { cls := cls, tag := fun s => (s.mine.rg d).setWidth 6, op := fun s => op (s.mine.rg d) (s.mine.rg a)
      spad := fun s => (op (s.mine.rg d) (s.mine.rg a)).blockSpad s s.turn.core }

/-- The thirteen commands of MAJ 0x3D (R306). -/
inductive BlockCmdRow : Instr → Effect → Prop
  | pxhash (d a : Reg) (x : Ctl) : BlockCmdRow (.pxhash d a x) (block x .kvx d a .pxhash)
  | pxlook (d a : Reg) (x : Ctl) : BlockCmdRow (.pxlook d a x) (block x .kvx d a .pxlook)
  | pxpin (d a : Reg) (x : Ctl) : BlockCmdRow (.pxpin d a x) (block x .kvx d a .pxpin)
  | pxunpin (d a : Reg) (x : Ctl) : BlockCmdRow (.pxunpin d a x) (block x .kvx d a .pxunpin)
  | pxseal (d a : Reg) (x : Ctl) : BlockCmdRow (.pxseal d a x) (block x .kvx d a .pxseal)
  | pxalloc (d a : Reg) (x : Ctl) : BlockCmdRow (.pxalloc d a x) (block x .kvx d a .pxalloc)
  | pxlease (d a : Reg) (x : Ctl) : BlockCmdRow (.pxlease d a x) (block x .kvx d a .pxlease)
  | pxprom (d a : Reg) (x : Ctl) : BlockCmdRow (.pxprom d a x) (block x .kvx d a .pxprom)
  | kmerge (d a : Reg) (x : Ctl) : BlockCmdRow (.kmerge d a x) (block x .kvx d a .kmerge)
  | bfill (d a : Reg) (x : Ctl) : BlockCmdRow (.bfill d a x) (block x .kvx d a .bfill)
  | plan (d a : Reg) (x : Ctl) : BlockCmdRow (.plan d a x) (block x .kvx d a .plan)
  | pxfetch (d a : Reg) (x : Ctl) : BlockCmdRow (.pxfetch d a x) (block x .remote d a .pxfetch)
  | pxrepl (d a : Reg) (x : Ctl) : BlockCmdRow (.pxrepl d a x) (block x .remote d a .pxrepl)

/-- The entry of the node translation table that register `a` names (R286). -/
def node (s : State) (a : Reg) : BitVec 128 := s.me.ntEntry (Fin.ofNat 1024 ((s.mine.rg a).toNat % 1024))

/-- Its sector, where it is found poisoned: two entries share one (R399). -/
def nodeRead (a : Reg) (cx : Cx) (s : State) : List Nat :=
  [((s.seq cx.who).rg a).toNat % 1024 / 2].filter (s.core cx.who.core).ntBad.contains

/-- The scratchpad bytes of KVLD and KVST: the record's, from the address in `b`. -/
def kvSpad (s : State) (d a b : Reg) : List (Nat × Nat) :=
  match (s.inst (ntInst (node s a))).cfg with
  | none => []
  | some r => [((s.mine.rg b).toNat, (kvAt (s.mine.rg d) (s.mine.rg a)).bytes r)]

/-- Their order. -/
def kvOrder (d a b : Reg) (op : Word → Word → Word → BitVec 128 → CmdOp) : Order :=
  { cls := .kvx, tag := fun s => (s.mine.rg d).setWidth 6
    op := fun s => op (s.mine.rg d) (s.mine.rg a) (s.mine.rg b) (node s a), spad := fun s => kvSpad s d a b }

/-- KVLD through a VALID entry, KVST through one that is also PRIVATE (R318), RLD and RST (R449), and RAMO (R450). -/
inductive TransferRow : Instr → Effect → Prop
  | kvld (d a b : Reg) (x : Ctl) : TransferRow (.kvld d a b x)
      (command x [.L, .S] (kvOrder d a b .kvld) (nodeRead a) fun s => ntValid (node s a) = true)
  | kvst (d a b : Reg) (x : Ctl) : TransferRow (.kvst d a b x)
      (command x [.L, .S] (kvOrder d a b .kvst) (nodeRead a) fun s => ntValid (node s a) = true ∧ ntPriv (node s a) = true)
  | rld (d a : Reg) (x : Ctl) : TransferRow (.rld d a x)
      (command x [.L, .S]
        { cls := .remote, tag := fun s => (s.mine.rg d).setWidth 6, op := fun s => .rld (s.mine.rg d) (s.mine.rg a)
          spad := fun s => [(rcSpa (s.mine.rg d), rcLen (s.mine.rg d))] })
  | rst (d a : Reg) (x : Ctl) : TransferRow (.rst d a x)
      (command x [.L, .S]
        { cls := .remote, tag := fun s => (s.mine.rg d).setWidth 6, op := fun s => .rst (s.mine.rg d) (s.mine.rg a)
          spad := fun s => [(rcSpa (s.mine.rg d), rcLen (s.mine.rg d))] })
  | ramo (d a : Reg) (x : Ctl) : TransferRow (.ramo d a x)
      (command x [.L, .S]
        { cls := .remote, tag := fun s => (s.mine.rg d).setWidth 6, op := fun s => .ramo (s.mine.rg d) (s.mine.rg a)
          spad := fun s => [(rcSpa (s.mine.rg d), 16)] })

/-! ### Tags (R301, R302) and BFWAIT (R328) -/

/-- The DONE tags of the mask in `a`. -/
def doneOf (s : State) (a : Reg) : Word := s.me.tags &&& s.mine.rg a

/-- No tag returned holds an error code. -/
def noError (s : State) (a : Reg) : Prop :=
  ∀ t : Fin 64, (doneOf s a).getLsbD t.val = true → isError (s.me.tstat.get t) = false

/-- A wait that returns the DONE tags of its mask, and observes them (R222). -/
def returnTags (d a : Reg) (cx : Cx) (s : State) : State :=
  (s.modCore s.turn.core fun c => c.observeTags s.turn.sq (tagsOf (doneOf s a))).fly cx 0 false [.g d (doneOf s a)]

/-- What BFWAIT orders (R328): the backfill writes performed to its frame come before later accesses on the KVX path, and before those that
a FENCEX from the BFILL class orders. -/
def backfilled (s : State) (cx : Cx) (pa : Nat) : Know :=
  match s.frameSize pa with
  | some n =>
    let w : Span := { src := none, cls := .bfill, lo := 0, hi := cx.stamp, perf := some s.mem.writes, area := some (pa, n) }
    (Know.ofReads .kvx [w]).merge (Know.ofReads .bfill [w])
  | none => Know.none

/-- WTANY once a tag of its mask is DONE or none is PENDING, WTALL once none is PENDING, FFRDY, TAGCLR, and BFWAIT for a frame that has
no backfill to come. -/
inductive TagRow : Instr → Effect → Prop
  | wtany (d a : Reg) (x : Ctl) : TagRow (.wtany d a x)
      { x := x, lat := 1, clear := fun s => doneOf s a ≠ 0 ∨ s.me.anyPending (s.mine.rg a) = false
        when := fun _ s => s.me.replayIssue = none ∧ noError s a, gives := returnTags d a }
  | wtall (d a : Reg) (x : Ctl) : TagRow (.wtall d a x)
      { x := x, lat := 1, clear := fun s => s.me.anyPending (s.mine.rg a) = false
        when := fun _ s => s.me.replayIssue = none ∧ noError s a, gives := returnTags d a }
  | ffrdyNone (d a : Reg) (x : Ctl) : TagRow (.ffrdy d a x)
      { x := x, lat := 1, when := fun _ s => doneOf s a = 0, gives := fun cx s => s.fly cx 0 false [.g d 64] }
  | ffrdy (d a : Reg) (x : Ctl) (t : Fin 64) : TagRow (.ffrdy d a x)
      { x := x, lat := 1
        when := fun _ s => (doneOf s a).getLsbD t.val = true ∧ ∀ u : Fin 64, u < t → (doneOf s a).getLsbD u.val = false
        gives := fun cx s =>
          (s.modCore s.turn.core fun c => c.observeTags s.turn.sq [t.val]).fly cx 0 false [.g d (BitVec.ofNat 64 t.val)] }
  | tagclr (a : Reg) (x : Ctl) : TagRow (.tagclr a x)
      { x := x
        gives := fun _ s => s.modCore s.turn.core fun c =>
          { c with
            tags := c.tags &&& ~~~s.mine.rg a
            tstat := Vector.ofFn fun t => if (s.mine.rg a).getLsbD t.val && c.tags.getLsbD t.val then 0 else c.tstat.get t } }
  | bfwait (a : Reg) (x : Ctl) : TagRow (.bfwait a x)
      { x := x, qs := [.X, .L, .S]
        clear := fun s => (∀ k ∈ s.me.cmds, k.op.isBfill = false) ∧ ∀ v ∈ s.insts.toList, v.pendingOf (s.mine.rg a).toNat = 0
        when := fun _ s => (s.mine.rg a).toNat % 2 ^ 8 = 0 ∧ (s.mine.rg a).toNat < 2 ^ 46
        gives := fun cx s => s.modSeq s.turn fun v => { v with know := v.know.merge (backfilled s cx (s.mine.rg a).toNat) } }

/-! ### Charters (R453 to R455) -/

/-- The package that a charter operand names. -/
def peer (s : State) (a : Reg) : Nat := (s.mine.rg a).toNat % 64
/-- Its count of lanes. -/
def count (s : State) (a : Reg) : Nat := (s.mine.rg a).toNat / 2 ^ 8 % 32
/-- Whether its reserved bits are 0. -/
def charterFields (s : State) (a : Reg) : Prop := (s.mine.rg a).toNat < 2 ^ 13 ∧ (s.mine.rg a).toNat / 64 % 4 = 0
/-- The tenancy that charters. -/
def holder (s : State) : BitVec 8 := s.tenOf s.turn.core
/-- Whether a request of the tenancy to the peer is open. -/
def asked (s : State) (a : Reg) : Prop := ∃ r ∈ s.laneRequests, r.ten = holder s ∧ r.peer = peer s a
/-- The planes that CHARTER asks for: as many as it wants, as the tenancy's cap allows, and as have a free laser. -/
def planesFor (s : State) (a : Reg) : List Nat :=
  (s.charterPlanes (peer s a)).take
    (min (count s a) ((s.fe.lanecap.get (holder s).toFin).toNat - (s.lanesOf (holder s)).length))

/-- One laser of each plane reserved for the tenancy. -/
def reserve (s : State) (a : Reg) (planes : List Nat) : State :=
  planes.foldl (fun u f =>
    match u.freeLaser f with
    | some i => u.modTx i fun _ => { TxLane.reset with ten := holder s, st := .reserved, peer := peer s a }
    | none => u) s

/-- CHARTER (R453), CASTOFF of a package that is no peer (R454) and LANEQ (R455). -/
inductive CharterRow : Instr → Effect → Prop
  | noPeer (d a : Reg) (x : Ctl) : CharterRow (.charter d a x)
      { x := x, lat := 7, qs := [.X]
        when := fun _ s => charterFields s a ∧ count s a ≠ 0 ∧ s.isPeer (peer s a) = false
        gives := fun cx s => s.fly cx 0 false [.g d 0x10000] }
  | open (d a : Reg) (x : Ctl) : CharterRow (.charter d a x)
      { x := x, lat := 7, qs := [.X]
        when := fun _ s => charterFields s a ∧ count s a ≠ 0 ∧ s.isPeer (peer s a) = true ∧ asked s a
        gives := fun cx s => s.fly cx 0 false [.g d 0x30000] }
  | none (d a : Reg) (x : Ctl) : CharterRow (.charter d a x)
      { x := x, lat := 7, qs := [.X]
        when := fun _ s => charterFields s a ∧ count s a ≠ 0 ∧ s.isPeer (peer s a) = true ∧ ¬ asked s a ∧ planesFor s a = []
        gives := fun cx s => s.fly cx 0 false [.g d 0x20000] }
  | asks (d a : Reg) (x : Ctl) : CharterRow (.charter d a x)
      { x := x, lat := 7, qs := [.X]
        when := fun _ s => charterFields s a ∧ count s a ≠ 0 ∧ s.isPeer (peer s a) = true ∧ ¬ asked s a ∧ planesFor s a ≠ []
        gives := fun cx s =>
          let ps := planesFor s a
          let u := reserve s a ps
          let r : LaneRequest := { ten := holder s, peer := peer s a, planes := ps, core := s.turn.core, ins := cx.stamp }
          let u := ({ u with laneRequests := u.laneRequests ++ [r] } : State).sendCtrl (peer s a) 1 0 0 (holder s) (planeMap ps)
          ({ u with free := u.free + 1 } : State).fly cx u.deliverAt false
            [.g d (BitVec.ofNat 64 (ps.length * 256 + if ps.length < count s a then 0x20000 else 0))] }
  | castoffNoPeer (d a : Reg) (x : Ctl) : CharterRow (.castoff d a x)
      { x := x, lat := 1, qs := [.X], when := fun _ s => charterFields s a ∧ s.isPeer (peer s a) = false
        gives := fun cx s => s.fly cx 0 false [.g d 0] }
  | castoff (d a : Reg) (x : Ctl) : CharterRow (.castoff d a x)
      { x := x, lat := 1, qs := [.X], when := fun _ s => charterFields s a ∧ s.isPeer (peer s a) = true
        gives := fun cx s =>
          let p := peer s a
          let mine := fun (r : LaneRequest) => r.ten == holder s && r.peer == p
          let planes := (s.laneRequests.filter mine).flatMap LaneRequest.planes
          let u := ({ s with laneRequests := s.laneRequests.filter fun r => !mine r } : State)
          let u := ((u.lanesTo (holder s) p).filter fun i => (u.tx.get i).st == .reserved).foldl (fun u i => u.freeTx i) u
          let u := if planes = [] then u else u.sendCtrl p 7 0 0 (holder s) (planeMap planes)
          let all := u.releasable (holder s) p
          let out := if count s a = 0 then all else all.take (count s a)
          (out.foldl (fun u i => (u.sendCtrl p 6 (i.val / 8) (i.val % 8) (holder s) 0).dropTx i) u).fly cx 0 false
            [.g d (BitVec.ofNat 64 out.length)] }
  | laneq (d a : Reg) (x : Ctl) : CharterRow (.laneq d a x)
      { x := x, lat := 1, qs := [.X], when := fun _ s => (s.mine.rg a).toNat < 64
        gives := fun cx s =>
          let p := peer s a
          let mine := s.lanesTo (holder s) p
          let kept := (mine.filter fun i => (s.tx.get i).st == .reserved).length
          let sent := fun (st : LaneState) => (s.tx.toList.filter fun l => l.st == st && l.peer == p).length
          let into := (s.rx.toList.filter fun r => r.st != .free && r.peer == p).length
          s.fly cx 0 false [.g d (BitVec.ofNat 64 ((mine.length - kept) + kept * 2 ^ 8 + sent .active * 2 ^ 16
            + sent .retraining * 2 ^ 24 + into * 2 ^ 32))] }

end Sys2Proof.Rules
end

