-- ==== Sys2Proof/Rules/FabricEvents.lean ====
section
/-!
DEFINITION. The events of the engines and of the Quayline fabric as their rules give them: acceptance and completion of commands,
backfill, flits that arrive in their turn and with their errors corrected, and lanes (R126, R290, R327, R434, R440 to R451, R459 to R466).
-/
namespace Sys2Proof.Rules
open Sys2Proof.Machine

/-! ### Engines (R126, R290, R327) -/

/-- A fence before a command holds it back (R234 point 2). -/
def heldByFence (k : Core) (c : Cmd) : Prop := ∃ p ∈ c.know.after, p.1 = c.cls ∧ k.incomplete p.2 = true

/-- A class accepts the first, in its order, of the oldest commands that the sequencers have not started and that no fence holds back. -/
def acceptable (k : Core) (e : PathClass) (c : Cmd) : Prop :=
  ∃ p q : List Sq, k.arbOrder e = p ++ c.sq :: q ∧ (k.cmds.find? fun m => m.sq == c.sq && m.phase == .queued) = some c ∧ c.cls = e
    ∧ ¬ heldByFence k c
    ∧ ∀ r ∈ p, ∀ m, (k.cmds.find? fun n => n.sq == r && n.phase == .queued) = some m → m.cls ≠ e ∨ heldByFence k m

/-- A command of a core that its class has accepted. -/
def running (s : State) (c : CoreId) (k : Cmd) : Prop :=
  ((s.core c).cmds.find? fun m => m.id == k.id) = some k ∧ ∃ n, k.phase = .started n

/-- Every access that a command has made is performed. -/
def performed (s : State) (c : CoreId) (k : Cmd) : Prop := s.outstanding { core := c, sq := k.sq } k.id = false

/-- A command done (R289, R290): it is gone, its tag is DONE with its code, and every event latch is set. -/
def ended (s t : State) (c : CoreId) (k : Cmd) (code : Nat) : Prop :=
  (∀ m ∈ (t.core c).cmds, m.id ≠ k.id) ∧ (t.core c).tags = (s.core c).tags ||| (1#64 <<< k.tag.toNat)
    ∧ (t.core c).tstat.get k.tag.toFin = BitVec.ofNat 8 code ∧ ∀ q, ((t.core c).seq q).eventLatch = true

/-- Acceptance of a command of length zero, which completes with OK (R293 to R295); of one of CPY that meets its checks; the completion of
one whose accesses have been performed, of CPY within the scratchpad and of a started KVLD; and items of a backfill queue. -/
inductive EngineEvent : Instr → Event → Prop
  | empty (c : CoreId) (k : Cmd) (dd ds : Word) (hd hs : BitVec 256) (gb : Word) : EngineEvent (.engineCommandAccept c .copy)
      { when := fun s => acceptable (s.core c) .copy k ∧ performed s c k ∧ k.op = .cpy dd ds hd hs gb ∧ gb.toNat % 2 ^ 32 = 0
        gives := fun s t => ended s t c k 2 ∧ t.mem = s.mem ∧ (t.core c).spad = (s.core c).spad ∧ s.onlyCore t c }
  | checked (c : CoreId) (k : Cmd) (dd ds : Word) (hd hs : BitVec 256) (gb : Word) (code : Nat) : EngineEvent (.engineCommandAccept c .copy)
      { when := fun s => acceptable (s.core c) .copy k ∧ performed s c k ∧ k.op = .cpy dd ds hd hs gb ∧ gb.toNat % 2 ^ 32 ≠ 0
          ∧ cpyCheck dd ds hd hs gb = some code
        gives := fun s t => ended s t c k code ∧ t.mem = s.mem ∧ (t.core c).spad = (s.core c).spad ∧ s.onlyCore t c }
  | starts (c : CoreId) (k : Cmd) (dd ds : Word) (hd hs : BitVec 256) (gb : Word) : EngineEvent (.engineCommandAccept c .copy)
      { when := fun s => acceptable (s.core c) .copy k ∧ k.op = .cpy dd ds hd hs gb ∧ gb.toNat % 2 ^ 32 ≠ 0
          ∧ cpyCheck dd ds hd hs gb = none
        gives := fun s t => s.onlyCore t c ∧ (t.core c).tags = (s.core c).tags ∧ (t.core c).tstat = (s.core c).tstat
          ∧ (t.core c).cmds = (s.core c).cmds.map fun m => if m.id = k.id then { k with phase := .started s.cycle } else m }
  | accepts (c : CoreId) (e : PathClass) (k : Cmd) : EngineEvent (.engineCommandAccept c e)
      { when := fun s => acceptable (s.core c) e k
        gives := fun s t => t = (s.modCore c fun m =>
          { m with arb := (e, (m.arbOrder e).filter (fun x => x != k.sq) ++ [k.sq]) :: m.arb.filter fun a => a.1 != e }).acceptCmd c k }
  | ending (c : CoreId) (k : Cmd) (code flags det va : Nat) : EngineEvent (.engineCommandComplete c k.id)
      { when := fun s => ((s.core c).cmds.find? fun m => m.id == k.id) = some k ∧ k.phase = .ending code flags det va ∧ performed s c k
        gives := fun s t => ended s t c k (flags * 16 + code) ∧ t.mem = s.mem ∧ (t.core c).spad = (s.core c).spad ∧ s.onlyCore t c }
  | copied (c : CoreId) (k : Cmd) (dd ds : Word) (hd hs : BitVec 256) (gb : Word) : EngineEvent (.engineCommandComplete c k.id)
      { when := fun s => running s c k ∧ performed s c k ∧ k.op = .cpy dd ds hd hs gb
          ∧ (handleOf hd).loc = 1 ∧ (handleOf hs).loc = 1 ∧ (s.core c).spadBad = [] ∧ (s.core c).spadHist = []
          ∧ cellsWf (s.core c).spad = true
        gives := fun s t => ended s t c k 2 ∧ t.mem = s.mem ∧ t.fe = s.fe ∧ (∀ d, d ≠ c → t.core d = s.core d)
          ∧ (∀ i < gb.toNat % 2 ^ 32, cellsGet (t.core c).spad ((handleOf hd).place (descRow dd) (descCol dd) + i)
              = cellsGet (s.core c).spad ((handleOf hs).place (descRow ds) (descCol ds) + i))
          ∧ ∀ a, (∀ i < gb.toNat % 2 ^ 32, a ≠ (handleOf hd).place (descRow dd) (descCol dd) + i) →
              cellsGet (t.core c).spad a = cellsGet (s.core c).spad a }
  | storeDone (c : CoreId) (k : Cmd) (gd ga gb : Word) (x : BitVec 128) : EngineEvent (.engineCommandComplete c k.id)
      { when := fun s => running s c k ∧ k.op = .kvld gd ga gb x
        gives := fun s t => t = s.completeStore c k }
  | filled (die : Fin 4) (it : BackfillItem) (its : List BackfillItem) (r : InstRec) (fl : List Byte) (u : State) :
      EngineEvent (.backfillItem die)
      { when := fun s => s.backfill.get die = it :: its ∧ (s.inst it.inst).cfg = some r ∧ it.know.after = []
          ∧ s.frameNow it.actor (it.frame + r.fillAt it.layer) 8 = (fl, false, u) ∧ ofBytes fl / 2 ^ it.slot % 2 = 1
          ∧ it.layer + 1 < r.nl ∧ u.backfill = s.backfill
        gives := fun _ t => t = { u with backfill := u.backfill.set die.val ({ it with layer := it.layer + 1 } :: its) die.isLt } }
  | last (die : Fin 4) (it : BackfillItem) (its : List BackfillItem) (r : InstRec) (fl : List Byte) (u : State) :
      EngineEvent (.backfillItem die)
      { when := fun s => s.backfill.get die = it :: its ∧ (s.inst it.inst).cfg = some r ∧ it.know.after = []
          ∧ s.frameNow it.actor (it.frame + r.fillAt it.layer) 8 = (fl, false, u) ∧ ofBytes fl / 2 ^ it.slot % 2 = 1
          ∧ r.nl ≤ it.layer + 1 ∧ u.backfill = s.backfill
        gives := fun _ t => t = ({ u with backfill := u.backfill.set die.val its die.isLt } : State).subPending it.inst it.frame }
  | layer (die : Fin 4) (it : BackfillItem) (its : List BackfillItem) (r : InstRec) (fl : List Byte) (u v : State)
      (rows : List (List Nat)) : EngineEvent (.backfillItem die)
      { when := fun s => s.backfill.get die = it :: its ∧ (s.inst it.inst).cfg = some r ∧ it.know.after = []
          ∧ s.frameNow it.actor (it.frame + r.fillAt it.layer) 8 = (fl, false, u) ∧ ofBytes fl / 2 ^ it.slot % 2 = 0
          ∧ u.weightRows it (handleOf it.handle)
              ((List.range (2 * (r.nh * r.dim))).map fun x => 2 * it.layer * (r.nh * r.dim) + x) = (some rows, v)
        gives := fun _ t =>
          let out := rows.map fun w => projection w (it.hidden.map BitVec.toNat)
          let at_ := fun (o : Nat) (vs : List Nat) =>
            let bs := vs.flatMap fun y => toBytes 2 y
            (List.range bs.length).map fun i => (it.frame + o + i, bs.getD i 0)
          let ws := (List.range r.nh).flatMap fun g =>
            at_ (r.kAt it.layer g it.slot) ((out.drop (g * r.dim)).take r.dim)
              ++ at_ (r.vAt it.layer g it.slot) ((out.drop (r.nh * r.dim + g * r.dim)).take r.dim)
          t = ((v.writePas (v.inOrder it.actor) .plain ws).writeFill it.actor r it.frame it.layer (2 ^ it.slot)
            (ofBytes fl + 2 ^ it.slot)).nextLayer die it r }

/-! ### Flits (R443 to R446) -/

/-- The package that a flit's header names as its source. -/
def source (h : BitVec 64) : Nat := h.toNat / 2 ^ 26 % 64

/-- A flit whose header and payload are these once `n` symbols are corrected, sent to this package by its slot's peer. -/
def arrives (f : Flit) (h : BitVec 64) (b : BitVec 1024) (n : Nat) (s : State) : Prop :=
  (s.rx.get f.slot).st ≠ .free ∧ correctedFlit f = some (h, b, n) ∧ source h = (s.rx.get f.slot).peer ∧ h.toNat / 2 ^ 20 % 64 = s.qlId

/-- Its slot has counted the flit and what was corrected, and its acknowledgement is taken. -/
def counted (s : State) (f : Flit) (h : BitVec 64) (n : Nat) : State :=
  ({ s with rx := s.rx.set f.slot.val { s.rx.get f.slot with
      count := (s.rx.get f.slot).count + n, flits := (s.rx.get f.slot).flits + 1 } f.slot.isLt } : State).ackFlits
    (source h) (h.toNat / 2 ^ 32 % 65536)

/-- One of a numbered type whose turn it is, where nothing is still to be answered. -/
def inTurn (f : Flit) (h : BitVec 64) (b : BitVec 1024) (n type : Nat) (s : State) : Prop :=
  arrives f h b n s ∧ h.toNat / 2 ^ 16 % 16 = type ∧ h.toNat / 2 ^ 48 = ((counted s f h n).pair (source h)).rxNext
    ∧ ((counted s f h n).pair (source h)).rxHeld = [] ∧ s.answers = []

/-- The state in which the engine takes such a flit: the next number is due from its peer. -/
def due (s : State) (f : Flit) (h : BitVec 64) (n : Nat) : State :=
  (counted s f h n).modPair (source h) fun q => { q with rxNext := (q.rxNext + 1) % 65536 }

/-- The command whose response from `p` is due. -/
def awaits (s : State) (p : Nat) (c : CoreId) (k : Cmd) : Prop :=
  ∃ rest, (s.pair p).awaited = (c, k.id) :: rest ∧ s.cmd c k.id = some k

/-- No page moves, no access is on its way, and no request of `p` is being served. -/
def quiet (s : State) (p : Nat) : Prop :=
  s.stubs = [] ∧ s.migration = none ∧ s.pending = [] ∧ s.farKept = [] ∧ s.mem.far = [] ∧ s.mem.missing = [] ∧ (s.pair p).serving = []

/-- The request of type `type` and payload `b`, with its data `d`, is served. -/
def serving (s : State) (p type : Nat) (b d : BitVec 1024) (left : Option Nat) : State :=
  s.modPair p fun q => { q with serving := [{ type := type, payload := b, data := d, left := left, got := [] }] }

/-- The access of a peer's request that translates (R448), to `n` bytes in one granule: the physical addresses, and the state in which it is
made. -/
def peerPaged (s : State) (p type : Nat) (b d : BitVec 1024) (need : Need) (n : Nat) (pas : List Nat) (u : State) : Prop :=
  (s.tens.get (BitVec.ofNat 8 (payNat b 10 1)).toFin).on = true
    ∧ (∃ ps, ps.map Prod.fst = pas ∧ (serving s p type b d none).translateBytes Actor.peer 0 (BitVec.ofNat 8 (payNat b 10 1)) need
        (payNat b 0 8) n = (.ok ps, u))
    ∧ u.stubs = [] ∧ u.migration = none ∧ u.pending = [] ∧ u.mem.missing = [] ∧ u.answers = []
    ∧ u.pairs = (serving s p type b d none).pairs ∧ pas ≠ [] ∧ ∀ a ∈ pas, a / 8 = pas.headD 0 / 8

/-- The answer `bs` of type `type` goes to `p`; the request is no longer served, and memory is as in `v`. -/
def replies (v t : State) (p type : Nat) (bs : List Byte) : Prop :=
  ∃ w : State, w.mem.cells = v.mem.cells ∧ w.mem.marks = v.mem.marks ∧ w.cores = v.cores ∧ (w.pair p).serving = []
    ∧ t = w.sendFlit p type bs

/-- IDLE, requests of a peer, the responses to this package's own, and flits that are discarded (R444 to R446, R448 to R451). -/
inductive FlitEvent : Instr → Event → Prop
  | idle (f : Flit) (h : BitVec 64) (b : BitVec 1024) (n : Nat) : FlitEvent (.idle f)
      { when := fun s => arrives f h b n s ∧ h.toNat / 2 ^ 16 % 16 = 0, gives := fun s t => t = counted s f h n }
  | beyond (f : Flit) : FlitEvent (.idle f)
      { when := fun s => (s.rx.get f.slot).st ≠ .free ∧ correctedFlit f = none
        gives := fun s t => t = s.modRx f.slot fun r =>
          { r with count := r.count + 5, flits := r.flits + 1, ucf := if r.ucf = 0xFFFF then r.ucf else r.ucf + 1 } }
  | unsent (f : Flit) (h : BitVec 64) (b : BitVec 1024) (n : Nat) : FlitEvent (.idle f)
      { when := fun s => arrives f h b n s ∧ 11 ≤ h.toNat / 2 ^ 16 % 16
        gives := fun s t => t = s.modRx f.slot fun r =>
          { r with count := r.count + n, flits := r.flits + 1, ucf := if r.ucf = 0xFFFF then r.ucf else r.ucf + 1 } }
  | rldreq (f : Flit) (h : BitVec 64) (b : BitVec 1024) (n : Nat) (pas : List Nat) (bs : List ByteRead) (u v : State) :
      FlitEvent (.rldreq f)
      { when := fun s => inTurn f h b n 1 s ∧ quiet (due s f h n) (source h)
          ∧ peerPaged (due s f h n) (source h) 1 b 0 Need.load (payNat b 8 1 % 128 + 1) pas u
          ∧ (serving u (source h) 1 b 0 (some 1)).readCells ((serving u (source h) 1 b 0 (some 1)).ordered Actor.peer) pas = (bs, v)
          ∧ bs.length = pas.length ∧ pas.length = payNat b 8 1 % 128 + 1 ∧ (∀ x ∈ bs, x.bad = false) ∧ v.mem.missing = []
          ∧ v.answers = [] ∧ v.pairs = (serving u (source h) 1 b 0 (some 1)).pairs
        gives := fun _ t => replies v t (source h) 2 (bs.map ByteRead.byte) }
  | noTenancy (f : Flit) (h : BitVec 64) (b : BitVec 1024) (n : Nat) : FlitEvent (.rldreq f)
      { when := fun s => inTurn f h b n 1 s ∧ quiet (due s f h n) (source h)
          ∧ ((due s f h n).tens.get (BitVec.ofNat 8 (payNat b 10 1)).toFin).on = false
        gives := fun s t => t = ((serving (due s f h n) (source h) 1 b 0 none).sendErr (source h) 5 0 0).popServing (source h) }
  | rlddata (f : Flit) (h : BitVec 64) (b : BitVec 1024) (n : Nat) (c : CoreId) (k : Cmd) (gd ga : Word) : FlitEvent (.rlddata f)
      { when := fun s => inTurn f h b n 2 s ∧ awaits (due s f h n) (source h) c k ∧ k.op = .rld gd ga ∧ performed (due s f h n) c k
        gives := fun s t =>
          t = ((due s f h n).popAwaited (source h)).deliverSpad c k (rcSpa gd) (payBytes b 0 (rcLen gd)) 2 ∧ ended s t c k 2 }
  | rstreq (f : Flit) (h : BitVec 64) (b : BitVec 1024) (n : Nat) : FlitEvent (.rstreq f)
      { when := fun s => inTurn f h b n 3 s
        gives := fun s t => t = (due s f h n).modPair (source h) fun q => { q with rst := some b } }
  | rstdata (f : Flit) (h : BitVec 64) (b : BitVec 1024) (n : Nat) (r : BitVec 1024) (pas : List Nat) (u : State) :
      FlitEvent (.rstdata f)
      { when := fun s => inTurn f h b n 4 s ∧ ((due s f h n).pair (source h)).rst = some r
          ∧ quiet ((due s f h n).modPair (source h) fun q => { q with rst := none }) (source h)
          ∧ peerPaged ((due s f h n).modPair (source h) fun q => { q with rst := none }) (source h) 3 r b Need.store
              (payNat r 8 1 % 128 + 1) pas u ∧ pas.length = payNat r 8 1 % 128 + 1
        gives := fun _ t => replies ((serving u (source h) 3 r b (some 1)).writePas Actor.peer .plain
          (pas.zip (payBytes b 0 (payNat r 8 1 % 128 + 1)))) t (source h) 6 [] }
  | ramoreq (f : Flit) (h : BitVec 64) (b : BitVec 1024) (n : Nat) (pas : List Nat) (r : AtomicRead) (u v : State) :
      FlitEvent (.ramoreq f)
      { when := fun s => inTurn f h b n 5 s ∧ quiet (due s f h n) (source h)
          ∧ peerPaged (due s f h n) (source h) 5 b 0 Need.amo (2 ^ (payNat b 9 1 % 4)) pas u
          ∧ (serving u (source h) 5 b 0 (some 1)).bankStep Actor.peer none (BitVec.ofNat 8 (payNat b 10 1)) (payNat b 8 1) (payNat b 9 1 % 4)
              (pas.headD 0) (payNat b 16 (2 ^ (payNat b 9 1 % 4))) (payNat b 24 (2 ^ (payNat b 9 1 % 4))) = (r, v)
          ∧ r.bad = false ∧ v.mem.missing = [] ∧ v.answers = [] ∧ v.pairs = (serving u (source h) 5 b 0 (some 1)).pairs
        gives := fun _ t => replies v t (source h) 6 (toBytes 8 r.old) }
  | respStore (f : Flit) (h : BitVec 64) (b : BitVec 1024) (n : Nat) (c : CoreId) (k : Cmd) (gd ga : Word) : FlitEvent (.resp f)
      { when := fun s => inTurn f h b n 6 s ∧ awaits (due s f h n) (source h) c k ∧ k.op = .rst gd ga ∧ performed (due s f h n) c k
        gives := fun s t => t = ((due s f h n).popAwaited (source h)).finish c k 2 0 0 0 ∧ ended s t c k 2
          ∧ (t.core c).spad = (s.core c).spad }
  | respAtomic (f : Flit) (h : BitVec 64) (b : BitVec 1024) (n : Nat) (c : CoreId) (k : Cmd) (gd ga : Word) : FlitEvent (.resp f)
      { when := fun s => inTurn f h b n 6 s ∧ awaits (due s f h n) (source h) c k ∧ k.op = .ramo gd ga ∧ performed (due s f h n) c k
        gives := fun s t =>
          t = ((due s f h n).popAwaited (source h)).deliverSpad c k (rcSpa gd) (payBytes b 0 8) 2 ∧ ended s t c k 2 }
  | err (f : Flit) (h : BitVec 64) (b : BitVec 1024) (n : Nat) (c : CoreId) (k : Cmd) : FlitEvent (.err f)
      { when := fun s => inTurn f h b n 7 s ∧ awaits (due s f h n) (source h) c k ∧ payNat b 0 1 ≠ 8 ∧ performed (due s f h n) c k
        gives := fun s t => t = ((due s f h n).popAwaited (source h)).finish c k (payNat b 0 1) 0 (payNat b 1 1) (payNat b 8 8)
          ∧ ended s t c k (payNat b 0 1) }

/-- CTRL flits (R440, R441, R447, R454), with the plane and tenancy that they name. -/
inductive CtrlEvent : Instr → Event → Prop
  | req (f : Flit) (h : BitVec 64) (b : BitVec 1024) (n pl : Nat) (u : State) : CtrlEvent (.ctrlReq f)
      { when := fun s => inTurn f h b n 8 s ∧ payNat b 0 1 = 1 ∧ planesOf (payNat b 4 4) = [pl]
          ∧ (due s f h n).grantSlot (source h) pl (BitVec.ofNat 8 (payNat b 3 1)) = some u
        gives := fun _ t => t = u }
  | reqPends (f : Flit) (h : BitVec 64) (b : BitVec 1024) (n pl : Nat) : CtrlEvent (.ctrlReq f)
      { when := fun s => inTurn f h b n 8 s ∧ payNat b 0 1 = 1 ∧ planesOf (payNat b 4 4) = [pl]
          ∧ ((∀ w < 8, ((due s f h n).rx.get (Fin.ofNat 256 (8 * pl + w))).st ≠ .free)
            ∨ ∃ w < 8, ((due s f h n).rx.get (Fin.ofNat 256 (8 * pl + w))).st ≠ .free
                ∧ ((due s f h n).rx.get (Fin.ofNat 256 (8 * pl + w))).peer = source h)
        gives := fun s t => t = { due s f h n with pendingLanes := (due s f h n).pendingLanes ++
          [{ peer := source h, plane := pl, ten := BitVec.ofNat 8 (payNat b 3 1), arrival := s.storeClk.toNat }] } }
  | grant (f : Flit) (h : BitVec 64) (b : BitVec 1024) (n : Nat) (i : Fin 256) : CtrlEvent (.ctrlGrant f)
      { when := fun s => inTurn f h b n 8 s ∧ payNat b 0 1 = 2
          ∧ (due s f h n).laneTo (source h) (payNat b 1 1 % 32) = some i ∧ ((due s f h n).tx.get i).st = .reserved
          ∧ ∀ r ∈ (due s f h n).laneRequests, r.peer ≠ source h ∨ payNat b 1 1 % 32 ∉ r.planes
        gives := fun s t => t = { due s f h n with
          tx := (due s f h n).tx.set i.val { (due s f h n).tx.get i with
            st := .tuning, granted := (due s f h n).grants, since := s.storeClk.toNat } i.isLt
          grants := (due s f h n).grants + 1 } }
  | revoke (f : Flit) (h : BitVec 64) (b : BitVec 1024) (n : Nat) (i : Fin 256) : CtrlEvent (.ctrlRevoke f)
      { when := fun s => inTurn f h b n 8 s ∧ payNat b 0 1 = 3
          ∧ (due s f h n).laneTo (source h) (payNat b 1 1 % 32) = some i ∧ ((due s f h n).tx.get i).moor = false
          ∧ ((due s f h n).tx.get i).st = .active
        gives := fun s t => t = (due s f h n).modTx i fun l => { l with st := .draining, retrain := false } }
  | drain (f : Flit) (h : BitVec 64) (b : BitVec 1024) (n : Nat) (i : Fin 256) : CtrlEvent (.ctrlDrain f)
      { when := fun s => inTurn f h b n 8 s ∧ payNat b 0 1 = 4
          ∧ (due s f h n).laneTo (source h) (payNat b 1 1 % 32) = some i ∧ ((due s f h n).tx.get i).st = .active
        gives := fun s t => t = (due s f h n).modTx i fun l => { l with st := .draining, retrain := true } }
  | handbackEarly (f : Flit) (h : BitVec 64) (b : BitVec 1024) (n : Nat) (i : Fin 256) : CtrlEvent (.ctrlHandback f)
      { when := fun s => inTurn f h b n 8 s ∧ payNat b 0 1 = 5
          ∧ (due s f h n).laneTo (source h) (payNat b 1 1 % 32) = some i
          ∧ (((due s f h n).tx.get i).st = .tuning ∨ (((due s f h n).tx.get i).st = .draining ∧ ((due s f h n).tx.get i).retrain = true))
        gives := fun s t => t = (due s f h n).modTx i fun l => { l with back := true } }
  | handback (f : Flit) (h : BitVec 64) (b : BitVec 1024) (n : Nat) (i : Fin 256) : CtrlEvent (.ctrlHandback f)
      { when := fun s => inTurn f h b n 8 s ∧ payNat b 0 1 = 5
          ∧ (due s f h n).laneTo (source h) (payNat b 1 1 % 32) = some i ∧ ((due s f h n).tx.get i).st = .retraining
        gives := fun s t => t = ((due s f h n).modTx i fun l => { l with st := .active, retrain := false, back := false }).flushPair
          ((due s f h n).tx.get i).peer }
  | release (f : Flit) (h : BitVec 64) (b : BitVec 1024) (n : Nat) (i : Fin 256) : CtrlEvent (.ctrlRelease f)
      { when := fun s => inTurn f h b n 8 s ∧ payNat b 0 1 = 6
          ∧ (due s f h n).slotFrom (source h) (payNat b 1 1 % 32) = some i ∧ ((due s f h n).rx.get i).moor = false
          ∧ ((due s f h n).rx.get i).st = .active
        gives := fun s t => t = (due s f h n).modRx i fun r => { r with st := .draining, retrain := false, revoked := false } }
  | withdraw (f : Flit) (h : BitVec 64) (b : BitVec 1024) (n : Nat) : CtrlEvent (.ctrlWithdraw f)
      { when := fun s => inTurn f h b n 8 s ∧ payNat b 0 1 = 7
          ∧ ∀ pl ∈ planesOf (payNat b 4 4), ∀ i, (due s f h n).slotFrom (source h) pl = some i → ((due s f h n).rx.get i).st ≠ .tuning
        gives := fun s t => t = { due s f h n with pendingLanes := (due s f h n).pendingLanes.filter fun e =>
          !(e.peer == source h && e.ten == BitVec.ofNat 8 (payNat b 3 1)
            && (planesOf (payNat b 4 4)).contains e.plane) } }

/-- STORE flits (R459 to R466) and FWD flits (R434). -/
inductive StoreEvent : Instr → Event → Prop
  | reg (f : Flit) (h : BitVec 64) (b : BitVec 1024) (n : Nat) (i : Nat) (r : InstRec) (d : Nat × Nat) : StoreEvent (.storeReg f)
      { when := fun s => inTurn f h b n 9 s ∧ storeOp h b = 1 ∧ (due s f h n).servedInst b = some (i, r, d)
        gives := fun s t => t = (due s f h n).dirReg d (payNat b 16 16) (source h) }
  | dereg (f : Flit) (h : BitVec 64) (b : BitVec 1024) (n : Nat) (i : Nat) (r : InstRec) (d : Nat × Nat) : StoreEvent (.storeDereg f)
      { when := fun s => inTurn f h b n 9 s ∧ storeOp h b = 2 ∧ (due s f h n).servedInst b = some (i, r, d)
        gives := fun s t => t = (due s f h n).dirDereg d (payNat b 16 16) (source h) }
  | query (f : Flit) (h : BitVec 64) (b : BitVec 1024) (n : Nat) (i : Nat) (r : InstRec) (d : Nat × Nat) : StoreEvent (.storeQuery f)
      { when := fun s => inTurn f h b n 9 s ∧ storeOp h b = 3 ∧ (due s f h n).servedInst b = some (i, r, d)
        gives := fun s t => t = (due s f h n).sendFlit (source h) 9
          (storePayload 4 i (payNat b 2 1) r 0 ((due s f h n).dirHolders d (payNat b 16 16)) (payNat b 16 16)) }
  | notServed (f : Flit) (h : BitVec 64) (b : BitVec 1024) (n : Nat) : StoreEvent (.storeQuery f)
      { when := fun s => inTurn f h b n 9 s ∧ storeOp h b = 3 ∧ (due s f h n).servedInst b = none
        gives := fun s t => t = (due s f h n).sendNotpresent (source h) b }
  | holders (f : Flit) (h : BitVec 64) (b : BitVec 1024) (n : Nat) (c : CoreId) (k : Cmd) (i : Nat) (r : InstRec) : StoreEvent (.storeHolders f)
      { when := fun s => inTurn f h b n 9 s ∧ storeOp h b = 4 ∧ awaits (due s f h n) (source h) c k
          ∧ (due s f h n).podInst k = some (i, r)
        gives := fun s t => t = ((due s f h n).popAwaited (source h)).podNext c
          (k.setNote noteHolders (toBytes 8 (payNat b 8 8))) i r }
  | read (f : Flit) (h : BitVec 64) (b : BitVec 1024) (n : Nat) (i : Nat) (r : InstRec) (d : Nat × Nat) (e : Nat) (bs : List Byte)
      (u : State) : StoreEvent (.storeRead f)
      { when := fun s => inTurn f h b n 9 s ∧ storeOp h b = 5 ∧ (due s f h n).servedInst b = some (i, r, d)
          ∧ (due s f h n).findName r (payNat b 16 16) = some e ∧ ((due s f h n).ix r e).state = ixSealed
          ∧ payNat b 4 4 + payNat b 8 4 ≤ r.size
          ∧ (due s f h n).sealedBytes Actor.peer r e (((due s f h n).ix r e).loc + payNat b 4 4) (payNat b 8 4) = (bs, false, u)
          ∧ u.answers = []
        gives := fun _ t => t = u.sendData (source h) bs }
  | data (f : Flit) (h : BitVec 64) (b : BitVec 1024) (n : Nat) (c : CoreId) (k : Cmd) (i : Nat) (r : InstRec) : StoreEvent (.storeData f)
      { when := fun s => inTurn f h b n 9 s ∧ storeOp h b = 6 ∧ awaits (due s f h n) (source h) c k
          ∧ (due s f h n).podInst k = some (i, r) ∧ ((k.note noteData).getD []).length + 128 < (k.podRange r).2
        gives := fun s t => t = (due s f h n).putCmd c
          (k.setNote noteData ((k.note noteData).getD [] ++ payBytes b 0 128)) }
  | fetched (f : Flit) (h : BitVec 64) (b : BitVec 1024) (n : Nat) (c : CoreId) (k : Cmd) (i : Nat) (r : InstRec) (gd ga : Word) : StoreEvent (.storeData f)
      { when := fun s => inTurn f h b n 9 s ∧ storeOp h b = 6 ∧ awaits (due s f h n) (source h) c k ∧ k.op = .pxfetch gd ga
          ∧ (due s f h n).podInst k = some (i, r) ∧ (k.podRange r).2 ≤ ((k.note noteData).getD []).length + 128 ∧ k.note noteBad = none
        gives := fun s t => t = ((due s f h n).popAwaited (source h)).fetched c k (source h)
          ((k.note noteData).getD [] ++ payBytes b 0 128) false }
  | notpresent (f : Flit) (h : BitVec 64) (b : BitVec 1024) (n : Nat) (c : CoreId) (k : Cmd) (i : Nat) (r : InstRec) : StoreEvent (.storeNotpresent f)
      { when := fun s => inTurn f h b n 9 s ∧ storeOp h b = 7 ∧ awaits (due s f h n) (source h) c k
          ∧ (due s f h n).podInst k = some (i, r)
        gives := fun s t => t = ((due s f h n).popAwaited (source h)).podNext c k i r }
  | start (f : Flit) (h : BitVec 64) (b : BitVec 1024) (n : Nat) : StoreEvent (.fwdStart f)
      { when := fun s => inTurn f h b n 10 s ∧ payNat b 0 1 = 1 ∧ (due s f h n).acceptsPage (payNat b 8 8) = true
        gives := fun s t => t = { due s f h n with incoming := (due s f h n).incoming ++
          [{ peer := source h, k := payNat b 6 2, dst := payNat b 8 8, copied := 0 }] } }
  | startRefused (f : Flit) (h : BitVec 64) (b : BitVec 1024) (n : Nat) : StoreEvent (.fwdStart f)
      { when := fun s => inTurn f h b n 10 s ∧ payNat b 0 1 = 1 ∧ (due s f h n).acceptsPage (payNat b 8 8) = false
        gives := fun s t => t = (due s f h n).sendFlit (source h) 10
          (fwdPayload 4 0 0 0 (payNat b 4 1) (payNat b 5 1) (payNat b 6 2) (payNat b 8 8) 0 [] []) }
  | copy (f : Flit) (h : BitVec 64) (b : BitVec 1024) (n : Nat) (g : Incoming) : StoreEvent (.fwdCopy f)
      { when := fun s => inTurn f h b n 10 s ∧ payNat b 0 1 = 2 ∧ payNat b 1 1 % 4 = 0 ∧ g.copied ≠ 1023
          ∧ ((due s f h n).incoming.find? fun j => j.peer == source h && j.k == payNat b 6 2) = some g
        gives := fun s t =>
          let w := (due s f h n).putPas Actor.host .plain
            (((List.range 64).zip (payBytes b 64 64)).map fun x => (payNat b 8 8 + x.1, x.2))
          t = { w with incoming := w.incoming.filter (fun j => j != g) ++ [{ g with copied := g.copied + 1 }] } }
  | accept (f : Flit) (h : BitVec 64) (b : BitVec 1024) (n : Nat) (m : Migration) : StoreEvent (.fwdAccept f)
      { when := fun s => inTurn f h b n 10 s ∧ payNat b 0 1 = 3 ∧ (due s f h n).migration = some m ∧ m.xp = some (source h)
          ∧ m.k % 65536 = payNat b 6 2 ∧ m.copied = false
        gives := fun s t => t = (due s f h n).installStub m }
  | refuse (f : Flit) (h : BitVec 64) (b : BitVec 1024) (n : Nat) (m : Migration) : StoreEvent (.fwdRefuse f)
      { when := fun s => inTurn f h b n 10 s ∧ payNat b 0 1 = 4 ∧ (due s f h n).migration = some m ∧ m.xp = some (source h)
          ∧ m.k % 65536 = payNat b 6 2 ∧ m.copied = false ∧ m.held = []
        gives := fun s t => t = { due s f h n with
          migration := none
          fe := { (due s f h n).fe with migCtl := (due s f h n).fe.migCtl ||| 0x40000000
                                        migDone := (due s f h n).fe.migDone + 1 } } }
  | access (f : Flit) (h : BitVec 64) (b : BitVec 1024) (n : Nat) (bs : List ByteRead) (u : State) : StoreEvent (.fwdAccess f)
      { when := fun s => inTurn f h b n 10 s ∧ payNat b 0 1 = 5 ∧ payNat b 1 1 % 4 = 0 ∧ 1 ≤ payNat b 3 1 ∧ payNat b 3 1 ≤ 64
          ∧ (due s f h n).homeOf none (payNat b 8 8) = .here
          ∧ (due s f h n).readCells ((due s f h n).ordered Actor.host)
              ((List.range (payNat b 3 1)).map fun i => payNat b 8 8 + i) = (bs, u)
          ∧ (∀ x ∈ bs, x.bad = false) ∧ u.answers = []
        gives := fun _ t => t = u.sendFlit (source h) 10 (fwdPayload 6 0 0 (payNat b 3 1) (payNat b 4 1) (payNat b 5 1) (payNat b 6 2)
          (payNat b 8 8) 0 [] (bs.map ByteRead.byte)) }
  | accessWrite (f : Flit) (h : BitVec 64) (b : BitVec 1024) (n : Nat) : StoreEvent (.fwdAccess f)
      { when := fun s => inTurn f h b n 10 s ∧ payNat b 0 1 = 5 ∧ payNat b 1 1 % 4 = 1 ∧ 1 ≤ payNat b 3 1 ∧ payNat b 3 1 ≤ 64
          ∧ payNat b 16 8 = 2 ^ payNat b 3 1 - 1 ∧ (due s f h n).homeOf none (payNat b 8 8) = .here
        gives := fun s t => t = ((due s f h n).writePas Actor.host .plain
            (((List.range (payNat b 3 1)).map fun i => payNat b 8 8 + i).zip (payBytes b 64 (payNat b 3 1)))).sendFlit (source h) 10
          (fwdPayload 6 0 0 0 (payNat b 4 1) (payNat b 5 1) (payNat b 6 2) (payNat b 8 8) 0 [] []) }
  | reply (f : Flit) (h : BitVec 64) (b : BitVec 1024) (n : Nat) (i : Nat) (d : Stub) (a : HeldAccess) (as : List HeldAccess) :
      StoreEvent (.fwdReply f)
      { when := fun s => inTurn f h b n 10 s ∧ payNat b 0 1 = 6 ∧ payNat b 1 1 % 2 = 0
          ∧ ((due s f h n).stubs.findIdx? fun t => t.xp == some (source h) && t.k % 65536 == payNat b 6 2) = some i
          ∧ (due s f h n).stubs[i]? = some d ∧ d.flying = a :: as ∧ a.kind = 0 ∧ a.peer = none
        gives := fun s t =>
          t = ({ due s f h n with stubs := (due s f h n).stubs.modify i fun u => { u with flying := as } } : State).reply a
            (a.bytes.map fun x => (BitVec.ofNat 8 (b.toNat / 256 ^ (64 + (x.1 - a.pa))), false)) }

/-! ### Lanes (R440, R442, R446, R447) -/

/-- Retransmission (R446), starvation (R442), tuning and draining (R440), and the windows of R447. -/
inductive LaneEvent : Instr → Event → Prop
  | retransmit (p : Fin 64) (g : SentFlit) (l : Fin 256) (n : Nat) : LaneEvent (.retransmitTimeout p g.seq)
      { when := fun s => ((s.pair p.val).unacked.find? fun x => x.seq == g.seq) = some g ∧ g.lane = some n
          ∧ g.sent + 4 * timeUnit ≤ s.time ∧ s.nextLane p.val = some l
        gives := fun s t =>
          t.outputs = s.outputs ++ [.flit l.val (BitVec.ofNat 1152 (ofBytes
            (flitBytes (g.header + BitVec.ofNat 64 ((s.pair p.val).rxNext * 2 ^ 32)) g.payload)))]
          ∧ (t.pair p.val).lastLane = some l.val
          ∧ (t.pair p.val).unacked = (s.pair p.val).unacked.map (fun x =>
              if x.seq = g.seq then { x with lane := some l.val, sent := s.time } else x)
          ∧ t.mem = s.mem ∧ t.cores = s.cores ∧ ∀ q : Fin 64, q ≠ p → t.pair q.val = s.pair q.val }
  | starvationNone : LaneEvent .starvationCheck
      { when := fun s => ∀ e ∈ s.pendingLanes, s.storeClk.toNat - e.arrival ≤ s.fe.qlStarve.toNat, gives := fun s t => t = s }
  | starvation (e : PendingLane) (v : Fin 256) : LaneEvent .starvationCheck
      { when := fun s => (∀ r ∈ s.rx.toList, r.revoked = false ∨ r.st ≠ .draining) ∧ s.pendingLanes = [e]
          ∧ s.fe.qlStarve.toNat < s.storeClk.toNat - e.arrival ∧ v.val / 8 = e.plane
          ∧ (s.rx.get v).st = .active ∧ (s.rx.get v).moor = false ∧ (s.rx.get v).peer ≠ e.peer
          ∧ (∀ i : Fin 256, i.val / 8 = e.plane → i ≠ v →
              (s.rx.get i).st = .free ∨ (s.rx.get i).moor = true ∨ (s.rx.get i).peer = e.peer)
          ∧ s.heldBy e.peer + 2 ≤ s.heldBy (s.rx.get v).peer
        gives := fun s t => t = ((({ s with fe := { s.fe with qlRevokes := s.fe.qlRevokes + 1 } } : State).sendCtrl (s.rx.get v).peer 3
          e.plane (v.val % 8) (s.rx.get v).ten 0).modRx v fun r => { r with st := .draining, retrain := false, revoked := true }) }
  | lockRx (i : Fin 256) : LaneEvent (.tuningLock i)
      { when := fun s => (s.rx.get i).st = .tuning
        gives := fun s t => t = s.modRx i fun r => { r with st := .active, count := 0, flits := 0 } }
  | lockTx (i : Fin 256) : LaneEvent (.tuningLock i)
      { when := fun s => (s.rx.get i).st ≠ .tuning ∧ (s.tx.get i).st = .tuning
        gives := fun s t => t = (s.modTx i fun l => { l with st := .active, retrain := false, back := false }).flushPair (s.tx.get i).peer }
  | lateRx (i : Fin 256) : LaneEvent (.tuningTimeout i)
      { when := fun s => (s.rx.get i).st = .tuning ∧ (s.rx.get i).since + 100 ≤ s.storeClk.toNat
        gives := fun s t => t = s.modRx i fun r => { r with st := .retraining } }
  | lateTx (i : Fin 256) : LaneEvent (.tuningTimeout i)
      { when := fun s => (s.rx.get i).st ≠ .tuning ∧ (s.tx.get i).st = .tuning ∧ (s.tx.get i).since + 100 ≤ s.storeClk.toNat
          ∧ (s.tx.get i).back = false
        gives := fun s t => t = s.modTx i fun l => { l with st := .retraining } }
  | window (i : Fin 256) : LaneEvent (.errorWindowEnd i)
      { when := fun s => (s.rx.get i).st ≠ .free ∧ 2 ^ 20 ≤ (s.rx.get i).flits
          ∧ ((s.rx.get i).st ≠ .active ∨ (s.rx.get i).count ≤ s.fe.qlThr.toNat)
        gives := fun s t => t = s.modRx i fun r => { r with csym := BitVec.ofNat 32 r.count, count := 0, flits := 0 } }
  | windowBad (i : Fin 256) : LaneEvent (.errorWindowEnd i)
      { when := fun s => (s.rx.get i).st = .active ∧ 2 ^ 20 ≤ (s.rx.get i).flits ∧ s.fe.qlThr.toNat < (s.rx.get i).count
        gives := fun s t => t = (s.modRx i fun r =>
          { r with csym := BitVec.ofNat 32 r.count, count := 0, flits := 0, st := .draining, retrain := true
                   retrains := r.retrains + 1 }).sendCtrl (s.rx.get i).peer 4 (i.val / 8) (i.val % 8) (s.rx.get i).ten 0 }
  | trained (i : Fin 256) (n : Nat) : LaneEvent (.trainingWindowEnd i n)
      { when := fun s => (s.rx.get i).st = .retraining ∧ n ≤ s.fe.qlThr.toNat / 16
        gives := fun s t => t = (s.modRx i fun r => { r with st := .active, retrain := false, count := 0, flits := 0 }).sendCtrl
          (s.rx.get i).peer 5 (i.val / 8) (i.val % 8) (s.rx.get i).ten 0 }
  | drainedTx (i : Fin 256) : LaneEvent (.laneDrainEnd i)
      { when := fun s => (s.tx.get i).st = .draining ∧ s.accounted i = true ∧ (s.tx.get i).retrain = false
        gives := fun s t => t = s.modTx i fun _ => TxLane.reset }
  | drainedTxRetrain (i : Fin 256) : LaneEvent (.laneDrainEnd i)
      { when := fun s => (s.tx.get i).st = .draining ∧ s.accounted i = true ∧ (s.tx.get i).retrain = true ∧ (s.tx.get i).back = false
        gives := fun s t => t = s.modTx i fun l => { l with st := .retraining } }
  | drainedRxRetrain (i : Fin 256) : LaneEvent (.laneDrainEnd i)
      { when := fun s => (s.tx.get i).st ≠ .draining ∧ (s.rx.get i).st = .draining ∧ (s.rx.get i).retrain = true
        gives := fun s t => t = s.modRx i fun r => { r with st := .retraining, revoked := false } }
  | drainedRx (i : Fin 256) : LaneEvent (.laneDrainEnd i)
      { when := fun s => (s.tx.get i).st ≠ .draining ∧ (s.rx.get i).st = .draining ∧ (s.rx.get i).retrain = false
          ∧ ∀ e ∈ s.pendingLanes, e.plane ≠ i.val / 8
        gives := fun s t => t = s.modRx i fun r => { RxSlot.reset with retrains := r.retrains, ucf := r.ucf, csym := r.csym } }

end Sys2Proof.Rules
end

