-- ==== Sys2Proof/Rules/HostEvents.lean ====
section
/-!
DEFINITION. The events between the host and the device as their rules give them: portals, queues and dispatch, copies and markers,
registers, the host's memory accesses, invalidation, migration, power, reset and management (R97, R117 to R124, R209, R210, R220, R401,
R407 to R417, R421, R427, R429 to R432, R474 to R480).
-/
namespace Sys2Proof.Rules
open Sys2Proof.Machine

/-- An output added. -/
def answers (s : State) (o : Output) : State := { s with outputs := s.outputs ++ [o] }

/-- A queue whose head is `p`. -/
def headed (s : State) (n : Fin 256) (p : Packet) (ps : List Packet) : Prop :=
  (s.queues.get n).cfg.getLsbD 0 = true ∧ (s.queues.get n).packets = p :: ps

/-- The same queue with other packets. -/
def queued (s : State) (n : Fin 256) (ps : List Packet) : State :=
  { s with queues := s.queues.set n.val { s.queues.get n with packets := ps } n.isLt }

/-- FE_STAT.UP is 1 and RELOAD 0. -/
def up (s : State) : Prop := s.fe.feStat.getLsbD 31 = true ∧ s.fe.feStat.getLsbD 30 = false

/-- The same queue after what counts as a dispatch of its head (R118): LEVEL is BASE, and the wait begins anew. -/
def dispatched (s : State) (n : Fin 256) (ps : List Packet) : State :=
  { s with queues := s.queues.set n.val { s.queues.get n with
      packets := ps, waitFrom := s.storeClk.toNat
      cfg := ((s.queues.get n).cfg &&& ~~~0x700#32) ||| BitVec.ofNat 32 ((s.queues.get n).cfg.toNat / 2 % 8 * 256) } n.isLt }

/-- Portals (R410, R411): a write that is no packet, one while the fabric is down, one for a full queue, and one that is taken. -/
inductive PortalEvent : Instr → Event → Prop
  | noPacket (p off : Nat) (data : List Byte) : PortalEvent (.portalDmw p off data)
      { when := fun _ => p < 256 ∧ (data.length ≠ 64 ∨ off % 64 ≠ 0), gives := fun s t => t = answers s (.dmw .unsupported) }
  | down (p off : Nat) (data : List Byte) : PortalEvent (.portalDmw p off data)
      { when := fun s => p < 256 ∧ data.length = 64 ∧ off % 64 = 0 ∧ ¬ up s, gives := fun s t => t = answers s (.dmw .retry) }
  | full (p off : Nat) (data : List Byte) : PortalEvent (.portalDmw p off data)
      { when := fun s => p < 256 ∧ data.length = 64 ∧ off % 64 = 0 ∧ up s ∧ s.packetBad p data = false
          ∧ 64 ≤ (s.queues.get (Fin.ofNat 256 (recNat data 2 1))).packets.length
        gives := fun s t => t = answers s (.dmw .retry) }
  | taken (p off : Nat) (data : List Byte) : PortalEvent (.portalDmw p off data)
      { when := fun s => p < 256 ∧ data.length = 64 ∧ off % 64 = 0 ∧ up s ∧ s.packetBad p data = false
          ∧ (s.queues.get (Fin.ofNat 256 (recNat data 2 1))).packets.length < 64
        gives := fun s t =>
          let n := Fin.ofNat 256 (recNat data 2 1)
          t.outputs = s.outputs ++ [.dmw .success] ∧ t.packetNum = s.packetNum + 1
            ∧ (t.queues.get n).packets = (s.queues.get n).packets ++ [packetOf (s.packetNum + 1) s.mem.writes (BitVec.ofNat 8 p) data]
            ∧ (t.queues.get n).cfg = (s.queues.get n).cfg ∧ (∀ m, m ≠ n → t.queues.get m = s.queues.get m)
            ∧ t.mem = s.mem ∧ t.cores = s.cores ∧ t.launches = s.launches }
  | posted (p : Nat) : PortalEvent (.portalPostedWrite p)
      { when := fun _ => p < 256
        gives := fun s t => t = { s with fe := { s.fe with
          feStat := if s.fe.feStat.toNat % 65536 = 65535 then s.fe.feStat else s.fe.feStat + 1 } } }

/-- What becomes of a LAUNCH at its head (R414), of SERIAL heads, of copies and of markers (R416), and of dispatch (R118 to R124). -/
inductive DispatchEvent : Instr → Event → Prop
  | serial (n : Fin 256) (p : Packet) (ps : List Packet) : DispatchEvent (.serialWaitEnd n)
      { when := fun s => headed s n p ps ∧ p.serial = true ∧ (∀ l ∈ s.launches, l.packet.queue ≠ n) ∧ ∀ c ∈ s.copies, c.packet.queue ≠ n
        gives := fun s t => t = queued s n ({ p with serial := false, past := (s.queues.get n).past } :: ps) }
  | candidate (n : Fin 256) (p : Packet) (ps : List Packet) (c : Candidate) (u : State) : DispatchEvent (.launchAtHead n)
      { when := fun s => headed s n p ps ∧ p.op = 1 ∧ p.record = none ∧ p.serial = false ∧ up s ∧ s.judgeLaunch p = (.ok c, u)
          ∧ loopCount c.looptab ≠ 0 ∧ u.queues = s.queues
        gives := fun _ t => t = queued u n ({ p with record := some c } :: ps) }
  | rejected (n : Fin 256) (p : Packet) (ps : List Packet) (st va : Nat) (u : State) : DispatchEvent (.launchAtHead n)
      { when := fun s => headed s n p ps ∧ p.op = 1 ∧ p.record = none ∧ p.serial = false ∧ up s ∧ s.judgeLaunch p = (.error (st, va), u)
          ∧ u.queues = s.queues ∧ u.storeClk = s.storeClk
        gives := fun _ t => t = (dispatched u n ps).completePacket p st 0 0 (BitVec.ofNat 64 va) [] }
  | copyBegin (n : Fin 256) (p : Packet) (ps : List Packet) (b : List Byte) (u : State) : DispatchEvent (.copyBegin n)
      { when := fun s => headed s n p ps ∧ p.op = 2 ∧ p.serial = false ∧ up s
          ∧ (queued s n ps).readArg p.ten p.arg.toNat 32 = (.ok b, u) ∧ recNat b 24 8 = 0 ∧ recNat b 16 8 ≤ 2 ^ 40
        gives := fun _ t => t = { u with copies := u.copies ++
          [{ id := p.num, packet := p, src := BitVec.ofNat 64 (recNat b 0 8), dst := BitVec.ofNat 64 (recNat b 8 8)
             len := recNat b 16 8 }] } }
  | copyRecord (n : Fin 256) (p : Packet) (ps : List Packet) (b : List Byte) (u : State) : DispatchEvent (.copyBegin n)
      { when := fun s => headed s n p ps ∧ p.op = 2 ∧ p.serial = false ∧ up s
          ∧ (queued s n ps).readArg p.ten p.arg.toNat 32 = (.ok b, u) ∧ (recNat b 24 8 ≠ 0 ∨ 2 ^ 40 < recNat b 16 8)
        gives := fun _ t => t = u.completePacket p 2 0 0 0 [] }
  | copyPlanned (j : CopyJob) (src dst : List (Option Nat)) (fs fd : List PageFault) (u v : State) : DispatchEvent (.copyComplete j.id)
      { when := fun s => (s.copies.find? fun k => k.id == j.id) = some j ∧ j.todo = none
          ∧ s.copyUnits j.packet.ten Need.load (j.len / 65536 + 2) j.src.toNat j.len = (src, fs, u)
          ∧ u.copyUnits j.packet.ten Need.store (j.len / 65536 + 2) j.dst.toNat j.len = (dst, fd, v) ∧ v.copies = s.copies
        gives := fun s t => t = { v with copies := s.copies.map fun k => if k.id = j.id then
          { j with
            todo := some ((List.range j.len).filterMap fun i => do
              let a ← (src[i]?).join
              let b ← (dst[i]?).join
              pure (i, a, b))
            errs := (fs ++ fd).map fun f => (3, f.va) } else k } }
  | copyReads (j : CopyJob) (p : Nat × Nat × Nat) (ps : List (Nat × Nat × Nat)) (bs : List (Byte × Bool)) (u : State) :
      DispatchEvent (.copyComplete j.id)
      { when := fun s => (s.copies.find? fun k => k.id == j.id) = some j ∧ j.todo = some (p :: ps)
          ∧ (∀ q ∈ ps, q.2.1 / 8 = p.2.1 / 8) ∧ s.readAs j.actor ((p :: ps).map fun q => q.2.1) = (bs, u) ∧ (∀ b ∈ bs, b.2 = false)
          ∧ u.copies = s.copies
        gives := fun s t => t = { u with copies := s.copies.map fun k => if k.id = j.id then
          { j with todo := some [], got := j.got ++ ((p :: ps).zip bs).map fun g => (g.1.2.2, g.2.1) } else k } }
  | copyWrites (j : CopyJob) (g : Nat) : DispatchEvent (.copyComplete j.id)
      { when := fun s => (s.copies.find? fun k => k.id == j.id) = some j ∧ j.todo = some [] ∧ j.errs = [] ∧ j.got ≠ []
          ∧ ∀ w ∈ j.got, w.1 / 8 = g ∧ covers j.got (w.1 / 32) = false
        gives := fun s t => ∃ u : State, u.mem = (s.writePas j.actor .plain j.got).mem ∧ u.queues = s.queues
          ∧ u.copies = s.copies.filter (fun k => k.id != j.id) ∧ t = u.completePacket j.packet 0 0 0 0 [j.span] }
  | copyNone (j : CopyJob) : DispatchEvent (.copyComplete j.id)
      { when := fun s => (s.copies.find? fun k => k.id == j.id) = some j ∧ j.todo = some [] ∧ j.errs = [] ∧ j.got = []
        gives := fun s t => t =
          ({ s with copies := s.copies.filter fun k => k.id != j.id } : State).completePacket j.packet 0 0 0 0 [j.span] }
  | copyFails (j : CopyJob) (e : Nat × Nat) : DispatchEvent (.copyComplete j.id)
      { when := fun s => (s.copies.find? fun k => k.id == j.id) = some j ∧ j.todo = some [] ∧ j.errs = [e] ∧ j.got = []
        gives := fun s t => ∃ u : State, u.mem.cells = s.mem.cells ∧ u.copies = s.copies.filter (fun k => k.id != j.id)
          ∧ u.queues = s.queues ∧ t = u.completePacket j.packet e.1 0 0 (BitVec.ofNat 64 e.2) [j.span] }
  | mark (n : Fin 256) (p : Packet) (ps : List Packet) : DispatchEvent (.markComplete n)
      { when := fun s => headed s n p ps ∧ p.op = 3 ∧ up s ∧ (∀ l ∈ s.launches, l.packet.queue ≠ n) ∧ ∀ c ∈ s.copies, c.packet.queue ≠ n
        gives := fun s t => t = (queued s n ps).completePacket p 0 0 0 0 [] }
  | ageing : DispatchEvent .ageingCheck
      { when := fun _ => True
        gives := fun s t => ∃ qs, t = { s with queues := qs } ∧ ∀ n,
          let q := s.queues.get n
          let lv := q.cfg.toNat / 256 % 8
          let rises := q.cfg.getLsbD 0 = true ∧ q.packets ≠ [] ∧ lv ≤ 5 ∧ (s.fe.age.get (Fin.ofNat 6 lv)).toNat ≠ 0
            ∧ (s.fe.age.get (Fin.ofNat 6 lv)).toNat < s.storeClk.toNat - q.waitFrom
          (rises → (qs.get n).cfg.toNat / 256 % 8 = lv + 1 ∧ (qs.get n).waitFrom = s.storeClk.toNat ∧ (qs.get n).packets = q.packets)
            ∧ (¬ rises → qs.get n = q) }
  | dispatch (n : Fin 256) (p : Packet) (ps : List Packet) (c : Candidate) : DispatchEvent .dispatchDecision
      { when := fun s => s.cycle % 16 = 0 ∧ up s ∧ s.launches.length < 16 ∧ s.chosenQueue = some n ∧ headed s n p ps
          ∧ p.record = some c
          ∧ (s.launches = [] ∨ (s.admits (s.launchFrom p c (s.queues.get n).level) = true ∧ ∀ l ∈ s.launches, l.solo = false))
        gives := fun s t => t.launches = s.launches ++
            [let l := s.launchFrom p c (s.queues.get n).level
             { l with solo := !s.admits l }]
          ∧ t.queues = (dispatched s n ps).queues ∧ t.fe = { s.fe with launchSeq := s.fe.launchSeq + 1 }
          ∧ t.mem = s.mem ∧ t.cores = s.cores ∧ t.outputs = s.outputs }
  | refusal (n : Fin 256) (p : Packet) (ps : List Packet) (c : Candidate) : DispatchEvent .dispatchDecision
      { when := fun s => s.cycle % 16 = 0 ∧ up s ∧ s.launches.length < 16 ∧ s.chosenQueue = some n ∧ headed s n p ps
          ∧ p.record = some c ∧ s.launches ≠ []
          ∧ (s.admits (s.launchFrom p c (s.queues.get n).level) = false ∨ ∃ l ∈ s.launches, l.solo = true)
        gives := fun s t => t = { s with fe := { s.fe with admitRefusals := s.fe.admitRefusals + 1 } } }
  | handout (l : Launch) (c : CoreId) : DispatchEvent (.tupleHandout l.id)
      { when := fun s => (s.launches.find? fun k => k.id == l.id) = some l ∧ s.choice l = some c ∧ s.receiver c = some l.id
        gives := fun s t =>
          (t.core c).iter = some { launch := l.id, tuple := l.next, ten := l.packet.ten, tape := l.tape, started := false }
          ∧ (∀ d, d ≠ c → t.core d = s.core d) ∧ (∀ q, t.seq q = s.seq q) ∧ t.mem = s.mem
          ∧ t.launches = s.launches.map fun k => if k.id = l.id then
              { k with next := k.next + 1, lastCore := some c, waitFrom := none, members := k.members ++ [(c, k.next, false)]
                       arrived := k.arrived.filter fun a => a.1 != c } else k }
  | handoutWaits (l : Launch) : DispatchEvent (.tupleHandout l.id)
      { when := fun s => (s.launches.find? fun k => k.id == l.id) = some l ∧ s.choice l = none ∧ l.ending = none ∧ l.next < l.count
          ∧ l.waitFrom = none
        gives := fun s t => t = s.modLaunch l.id fun k => { k with waitFrom := some s.time } }

/-- The refusals of a register write that hold, in the order of R407. -/
def refusedBy (cs : List (Bool × Nat)) (k : Nat) : Prop := firstCode cs = some k

/-- Register writes (R117, R220, R407, R430, R434, R437): what a write that nothing refuses does. -/
inductive RegisterEvent : Instr → Event → Prop
  | qcfg (n : Fin 256) (v : Word) : RegisterEvent (.qcfgWrite n v)
      { when := fun s => v.toNat % 2 ^ 20 = v.toNat ∧ v.toNat / 2 ^ 4 % 2 ^ 4 = 0 ∧ v.toNat / 2 ^ 11 % 2 = 0
          ∧ ¬ (v.toNat / 2 % 8 = 7 ∧ v.toNat / 2 ^ 12 % 2 ^ 8 ≠ 0)
          ∧ ((s.queues.get n).packets = [] ∨ v.toNat / 2 ^ 12 % 2 ^ 8 = (s.queues.get n).cfg.toNat / 2 ^ 12 % 2 ^ 8)
        gives := fun s t => ∃ q, t = { s with queues := s.queues.set n.val q n.isLt } ∧ q.packets = (s.queues.get n).packets
          ∧ q.waitFrom = s.storeClk.toNat
          ∧ q.cfg.toNat = v.toNat % 16 + v.toNat / 2 % 8 * 256 + v.toNat / 2 ^ 12 % 2 ^ 8 * 2 ^ 12 }
  | tencfgOff (n : Fin 256) : RegisterEvent (.tencfgWrite n 0)
      { when := fun s => s.tenancyBusy n = false
        gives := fun s t => t = { s with tens := s.tens.set n.val Tenancy.reset n.isLt } }
  | tencfgBusy (n : Fin 256) (v : Word) : RegisterEvent (.tencfgWrite n v)
      { when := fun s => s.tenancyBusy n = true ∧ s.fe.feErr.getLsbD 31 = false
        gives := fun s t => t = { s with fe := { s.fe with feErr := BitVec.ofNat 32 (2 ^ 31 + 3 * 2 ^ 24 + 0x2000 + 8 * n.val) } } }
  | tencfg (n : Fin 256) (v : Word) (bs : List (Byte × Bool)) (u : State) : RegisterEvent (.tencfgWrite n v)
      { when := fun s => s.tenancyBusy n = false ∧ v ≠ 0 ∧ s.readRecord v.toNat 128 = (some bs, u) ∧ (∀ b ∈ bs, b.2 = false)
          ∧ recNat (bs.map Prod.fst) 29 3 = 0 ∧ recNat (bs.map Prod.fst) 48 16 = 0
          ∧ u.tenancyBad n (tenancyOf v (bs.map Prod.fst)) = false
        gives := fun _ t => t = { u with tens := u.tens.set n.val (tenancyOf v (bs.map Prod.fst)) n.isLt } }
  | siPtrOff (n : Fin 8) : RegisterEvent (.siPtrWrite n 0)
      { when := fun s => s.launches = []
        gives := fun s t => t = { s with
          insts := s.insts.set n.val { Inst.reset with pdptr := (s.insts.get n).pdptr } n.isLt } }
  | siPtrBusy (n : Fin 8) (v : Word) : RegisterEvent (.siPtrWrite n v)
      { when := fun s => s.launches ≠ [] ∧ s.fe.feErr.getLsbD 31 = false
        gives := fun s t => t = { s with fe := { s.fe with feErr := BitVec.ofNat 32 (2 ^ 31 + 3 * 2 ^ 24 + 0x400 + 8 * n.val) } } }
  | pdPtrOff (n : Fin 8) : RegisterEvent (.pdPtrWrite n 0)
      { when := fun s => s.launches = []
        gives := fun s t => t = { s with insts := s.insts.set n.val { s.insts.get n with pdptr := 0 } n.isLt } }
  | pdPtrBusy (n : Fin 8) (v : Word) : RegisterEvent (.pdPtrWrite n v)
      { when := fun s => s.launches ≠ [] ∧ s.fe.feErr.getLsbD 31 = false
        gives := fun s t => t = { s with fe := { s.fe with feErr := BitVec.ofNat 32 (2 ^ 31 + 3 * 2 ^ 24 + 0x480 + 8 * n.val) } } }
  | feErrClear : RegisterEvent (.feErrWrite 0)
      { when := fun _ => True, gives := fun s t => t = { s with fe := { s.fe with feErr := 0 } } }
  | feErrOther (v : Word) : RegisterEvent (.feErrWrite v) { when := fun _ => v ≠ 0, gives := fun s t => t = s }
  | qlPod (v : Word) : RegisterEvent (.qlPodWrite v)
      { when := fun s => s.launches = [] ∧ v.getLsbD s.qlId = true
        gives := fun s t => t = ({ s with fe := { s.fe with qlPod := v } } : State).tuneMoorings }
  | preWait (v : Word) : RegisterEvent (.registerWrite 0x180 v)
      { when := fun _ => v.toNat < 2 ^ 16, gives := fun s t => t = { s with fe := { s.fe with preWait := v.setWidth 16 } } }
  | preWaitWide (v : Word) : RegisterEvent (.registerWrite 0x180 v)
      { when := fun s => 2 ^ 16 ≤ v.toNat ∧ s.fe.feErr.getLsbD 31 = false
        gives := fun s t => t = { s with fe := { s.fe with feErr := 0x81000180 } } }
  | readOnly (v : Word) : RegisterEvent (.registerWrite 0x8 v)
      { when := fun s => s.fe.feErr.getLsbD 31 = false, gives := fun s t => t = { s with fe := { s.fe with feErr := 0x86000008 } } }
  | kept (off : Nat) (v : Word) : RegisterEvent (.registerWrite off v)
      { when := fun s => isPortal off = false ∧ off = 0x8 ∧ s.fe.feErr.getLsbD 31 = true, gives := fun s t => t = s }
  | tlbi (v : Word) (sc : Nat) (i : Instr) : (i = .tlbiPage v ∧ sc = 0 ∨ i = .tlbiTenancy v ∧ sc = 1 ∨ i = .tlbiAll v ∧ sc = 2) →
      RegisterEvent i
      { when := fun s => v.getLsbD 0 = true ∧ v.toNat / 4 % 4 = sc ∧ v &&& ~~~0x80FF000D#64 = 0 ∧ s.fe.tlbiCtl.getLsbD 31 = false
          ∧ (sc = 0 → canonical s.fe.tlbiVa.toNat = true)
        gives := fun s t => t.fe = { s.fe with tlbiCtl := (v &&& 0xFF000C#64).setWidth 32 ||| 0x80000000 } ∧ t.mem = s.mem
          ∧ (∀ q, t.seq q = s.seq q)
          ∧ ∀ c n, ((t.core c).tapes.get n).st = .empty ∨ (t.core c).tapes.get n = (s.core c).tapes.get n }
  | tlbiDone : RegisterEvent .tlbiComplete
      { when := fun s => s.fe.tlbiCtl.getLsbD 31 = true ∧ s.tlbiWaits = false
        gives := fun s t => t.fe = { s.fe with tlbiCtl := s.fe.tlbiCtl &&& 0x7FFFFFFF }
          ∧ t.mem = { s.mem with tlb := s.mem.tlb.filter fun e => !s.tlbiNames e.ten e.va e.size
                                 utlb := s.mem.utlb.filter fun e => !s.tlbiNames e.2.ten e.2.va e.2.size }
          ∧ t.cores = s.cores ∧ (∀ e ∈ t.mem.tlb, s.tlbiNames e.ten e.va e.size = false)
          ∧ ∀ e ∈ t.mem.utlb, s.tlbiNames e.2.ten e.2.va e.2.size = false }
  | migGo (v : Word) : RegisterEvent (.migGo v)
      { when := fun s => v.getLsbD 0 = true ∧ v.getLsbD 21 = false ∧ firstCode (s.migRefusals v) = none
        gives := fun s t => t.migration = some { k := s.migCount + 1, src := s.fe.migSrc.toNat, dst := s.fe.migDst.toNat
                                                 ten := BitVec.ofNat 8 (v.toNat / 256 % 256), xp := none, copied := false, held := [] }
          ∧ t.migCount = s.migCount + 1 ∧ (∀ q, t.seq q = s.seq q) ∧ t.queues = s.queues ∧ t.launches = s.launches }
  | migGoXp (v : Word) : RegisterEvent (.migGoXp v)
      { when := fun s => v.getLsbD 0 = true ∧ v.getLsbD 21 = true ∧ firstCode (s.migRefusals v) = none
        gives := fun s t => t.migration = some { k := s.migCount + 1, src := s.fe.migSrc.toNat, dst := s.fe.migDst.toNat
                                                 ten := BitVec.ofNat 8 (v.toNat / 256 % 256), xp := some (v.toNat / 2 ^ 24 % 64)
                                                 copied := false, held := [] }
          ∧ t.migCount = s.migCount + 1 ∧ (∀ q, t.seq q = s.seq q) ∧ t.queues = s.queues ∧ t.launches = s.launches }

/-- Nothing on its way or held comes before an access of a host port. -/
def portFree (s : State) (pa n : Nat) : Prop :=
  s.pending = [] ∧ s.heldAway = [] ∧ ∀ i < n, s.homeOf none (pa + i) = .here

/-- The state in which a host's read waits for its data. -/
def reading (s : State) (n : Nat) : State :=
  { s with stamp := s.stamp + 1, hostReads := s.hostReads ++ [{ id := s.stamp, len := n, left := 1, got := [] }] }

/-- The host's and the scrubber's accesses (R209, R210, R230, R394, R401, R406) and the read-write hold (R427). An access to device HBM that
stands in one aligned granule is performed at once; of a longer one the pieces are on their way. -/
inductive HostEvent : Instr → Event → Prop
  | read (port pa n : Nat) (bs : List ByteRead) (u : State) : HostEvent (.hostMemRead ⟨port, pa⟩ n)
      { when := fun s => port < 2 ∧ 1 ≤ n ∧ pa % 8 + n ≤ 8 ∧ pa + n ≤ 2 ^ 39 ∧ portFree s pa n ∧ (∀ r ∈ s.hostReads, r.id ≠ s.stamp)
          ∧ (reading s n).readCells ((reading s n).ordered { Actor.host with stamp := s.stamp }) ((List.range n).map fun i => pa + i) = (bs, u)
          ∧ bs.length = n ∧ u.hostReads = (reading s n).hostReads
        gives := fun s t => t = answers { u with hostReads := s.hostReads } (.hostData (bs.map ByteRead.byte) (bs.any ByteRead.bad)) }
  | reads (port pa n : Nat) : HostEvent (.hostMemRead ⟨port, pa⟩ n)
      { when := fun s => port < 2 ∧ 8 < pa % 8 + n ∧ pa + n ≤ 2 ^ 39 ∧ portFree s pa n
        gives := fun s t => t.mem = s.mem ∧ t.cores = s.cores ∧ t.outputs = s.outputs
          ∧ t.hostReads = s.hostReads ++ [{ id := s.stamp, len := n, left := t.pending.length, got := [] }]
          ∧ t.pending.map (fun h => h.bytes.map Prod.fst) =
              (List.range ((pa + n - 1) / 8 + 1 - pa / 8)).map (fun g => ((List.range n).map fun i => pa + i).filter fun a => a / 8 = pa / 8 + g) }
  | readRegister (port off n : Nat) : HostEvent (.hostMemRead ⟨port, regBase + off⟩ n)
      { when := fun _ => port < 2 ∧ off < 0x200000 ∧ (n = 4 ∨ n = 8) ∧ (regBase + off) % n = 0
        gives := fun s t => t = answers s (.register (BitVec.ofNat 64 (s.regRead (off / 8 * 8) / 256 ^ (off % 8) % 256 ^ n))) }
  | write (port pa : Nat) (data : List Byte) : HostEvent (.hostMemWrite ⟨port, pa⟩ ⟨data, false⟩)
      { when := fun s => port < 2 ∧ data ≠ [] ∧ pa % 8 + data.length ≤ 8 ∧ pa + data.length ≤ 2 ^ 39 ∧ portFree s pa data.length
        gives := fun s t => t = s.writePas Actor.host .plain (((List.range data.length).map fun i => pa + i).zip data) }
  | writePoisoned (port pa : Nat) (data : List Byte) : HostEvent (.hostMemWrite ⟨port, pa⟩ ⟨data, true⟩)
      { when := fun s => port < 2 ∧ data ≠ [] ∧ pa % 8 + data.length ≤ 8 ∧ pa + data.length ≤ 2 ^ 39 ∧ portFree s pa data.length
        gives := fun s t =>
          let pas := (List.range data.length).map fun i => pa + i
          t = (s.writePas Actor.host .plain (pas.zip data)).poisonPas Actor.host pas }
  | writes (port pa : Nat) (data : List Byte) (bad : Bool) : HostEvent (.hostMemWrite ⟨port, pa⟩ ⟨data, bad⟩)
      { when := fun s => port < 2 ∧ 8 < pa % 8 + data.length ∧ pa + data.length ≤ 2 ^ 39 ∧ portFree s pa data.length ∧ s.mem.marks = []
        gives := fun s t => t.mem = s.mem ∧ t.cores = s.cores ∧ t.outputs = s.outputs
          ∧ t.pending.map (fun h => (h.bytes.map Prod.fst).zip h.data) =
              (List.range ((pa + data.length - 1) / 8 + 1 - pa / 8)).map fun g =>
                (((List.range data.length).map fun i => pa + i).zip data).filter fun w => w.1 / 8 = pa / 8 + g }
  | writeRegister (port off : Nat) (data : List Byte) (bad : Bool) : HostEvent (.hostMemWrite ⟨port, regBase + off⟩ ⟨data, bad⟩)
      { when := fun _ => port < 2 ∧ off < 0x200000 ∧ off % 8 = 0 ∧ data.length = 8 ∧ (regBase + off) % 8 = 0
        gives := fun s t => t = s.regWrite off (BitVec.ofNat 64 (ofBytes data)) }
  | snoop (pa : Nat) (data : List Byte) (bad : Bool) (bs : List (Byte × Bool)) (u : State) : HostEvent (.hostSnoop pa ⟨data, bad⟩)
      { when := fun s => (∀ i < 256, s.isHostWin (pa / 256 * 256 + i) = true) ∧ pa % 256 + data.length ≤ 256
          ∧ s.readAs Actor.host ((List.range 256).map fun i => pa / 256 * 256 + i) = (bs, u)
        gives := fun _ t =>
          let pas := (List.range data.length).map fun i => pa + i
          let v := (answers u (.snoopData (bs.map Prod.fst))).writePas Actor.host .plain (pas.zip data)
          t = (if bad then v.poisonPas Actor.host pas else v).writeBack pa }
  | scrub (pa : Nat) (v : SectorNow) (u : State) : HostEvent (.scrub pa)
      { when := fun s => s.fe.scrubPeriod ≠ 0 ∧ s.isBacked pa = true ∧ s.checkSector (pa / 32) = (v, u)
        gives := fun _ t => t = (u.rewrite (pa / 32, v)).settlePoison }
  | hold (die : Fin 4) (line : Nat) : HostEvent (.rwHoldExpiry die line)
      { when := fun _ => True
        gives := fun s t => (∀ q, t.seq q = s.seq q) ∧ t.cycle = s.cycle ∧ t.queues = s.queues
          ∧ t.combine.get die = (s.combine.get die).filter (fun e =>
              !(e.pa / 256 == line && decide (e.since + s.fe.rwHold.toNat ≤ s.cycle)))
          ∧ ∀ d, d ≠ die → t.combine.get d = s.combine.get d }

/-- The copy of a page and its stub (R430 to R432). -/
inductive MigrationEvent : Instr → Event → Prop
  | copied (m : Migration) : MigrationEvent .migrationCopyDone
      { when := fun s => s.migration = some m ∧ m.copied = false ∧ m.xp = none
        gives := fun s t =>
          t.stubs = s.stubs ++ [{ k := m.k, src := m.src, dst := m.dst, ten := m.ten, xp := none, held := m.held, flying := []
                                  invalidating := false, invalidated := false }]
          ∧ t.migration = (if m.held = [] then none else some { m with copied := true, held := [] })
          ∧ t.mem = (s.movePage m.src m.dst).mem ∧ t.cores = s.cores }
  | forward (n : Nat) (t0 : Stub) (h : HeldAccess) (hs : List HeldAccess) (p : Nat) : MigrationEvent (.stubForward n)
      { when := fun s => s.stubs[n]? = some t0 ∧ t0.held = h :: hs ∧ t0.xp = some p
        gives := fun s t => t = ((({ s with stubs := s.stubs.modify n fun u => { u with held := hs, flying := u.flying ++ [h] } } : State).sendFlit
          p 10 (h.flit (t0.k % 65536) t0.dst)).settleMigration) }
  | forwardHere (n : Nat) (t0 : Stub) (h : HeldAccess) (hs : List HeldAccess) (bs : List (Byte × Bool)) (u : State) :
      MigrationEvent (.stubForward n)
      { when := fun s => s.stubs[n]? = some t0 ∧ t0.held = h :: hs ∧ t0.xp = none
          ∧ (let w : State := { s with stubs := s.stubs.modify n fun u => { u with held := hs } }
            w.homeOf h.core (h.toPage t0.dst).pa = .here ∧ w.performHeld (h.toPage t0.dst) = (bs, u))
        gives := fun _ t => t = (u.reply (h.toPage t0.dst) bs).settleMigration }
  | forwardHeld (n : Nat) (t0 : Stub) (h : HeldAccess) (hs : List HeldAccess) : MigrationEvent (.stubForward n)
      { when := fun s => s.stubs[n]? = some t0 ∧ t0.held = h :: hs ∧ t0.xp = none
          ∧ ({ s with stubs := s.stubs.modify n fun u => { u with held := hs } } : State).homeOf h.core (h.toPage t0.dst).pa ≠ .here
        gives := fun s t => t = (({ s with stubs := s.stubs.modify n fun u => { u with held := hs } } : State).holdAt
          (h.toPage t0.dst)).settleMigration }
  | retire (n : Nat) (t0 : Stub) : MigrationEvent (.stubRetire n)
      { when := fun s => s.stubs[n]? = some t0 ∧ (∀ u ∈ s.stubs, t0.k ≤ u.k) ∧ t0.held = [] ∧ t0.flying = [] ∧ t0.invalidated = true
          ∧ ∀ m, s.migration = some m → m.k ≠ t0.k
        gives := fun s t => t = { s with stubs := s.stubs.eraseIdx n, fe := { s.fe with migDone := s.fe.migDone + 1 } } }

/-- The core, the registers, and the tables of a machine that has just been reset (R402, R403, R476, R477). -/
def wasReset (t : State) : Prop :=
  (∀ c, (t.core c).iter = none ∧ (t.core c).flights = [] ∧ ∀ q, ((t.core c).seq q).ended = true)
    ∧ t.launches = [] ∧ t.copies = [] ∧ t.session = false ∧ (∀ n, (t.queues.get n).packets = []) ∧ t.migration = none ∧ t.stubs = []

/-- Power and temperature (R474, R475), reset (R402, R476, R477), the fabric (R421) and management (R478 to R480). -/
inductive PlatformEvent : Instr → Event → Prop
  | window (w : Nat) : PlatformEvent (.powerWindow w)
      { when := fun s => s.fe.clkMhz.toNat ≤ 1750 ∧ 875 ≤ s.fe.clkMhz.toNat
        gives := fun s t => t.fe = { s.fe with pkgPwr := BitVec.ofNat 64 w, clkMhz := t.fe.clkMhz } ∧ t.mem = s.mem ∧ t.cores = s.cores
          ∧ 875 ≤ t.fe.clkMhz.toNat ∧ t.fe.clkMhz.toNat ≤ 1750
          ∧ (min s.fe.pwrBudget.toNat 2800 < w → 875 < s.fe.clkMhz.toNat → t.fe.clkMhz.toNat < s.fe.clkMhz.toNat)
          ∧ (w ≤ min s.fe.pwrBudget.toNat 2800 → s.fe.clkMhz.toNat ≤ t.fe.clkMhz.toNat) }
  | throttle (d : Fin 4) : PlatformEvent (.thermalThrottle d)
      { when := fun _ => True
        gives := fun s t => t = { s with hot := s.hot.set d.val true d.isLt
                                         fe := { s.fe with dieTemp := s.fe.dieTemp.set d.val 840 d.isLt } } }
  | release (d : Fin 4) : PlatformEvent (.thermalHoldEnd d)
      { when := fun s => s.hot.get d = true
        gives := fun s t => t.hot = s.hot.set d.val false d.isLt ∧ (t.fe.dieTemp.get d).toNat < 800 ∧ t.mem = s.mem ∧ t.cores = s.cores
          ∧ ∀ e, e ≠ d → t.fe.dieTemp.get e = s.fe.dieTemp.get e }
  | trip : PlatformEvent .thermalTrip
      { when := fun _ => True, gives := fun s t => t = { s with powered := false, launches := [] } }
  | cold (h : BitVec 32) (ten : Word) (load : List (Nat × Byte)) : PlatformEvent (.coldReset h ten load)
      { when := fun s => (s.newFirmware.getD s.firmware).image.verified = true
        gives := fun s t => wasReset t ∧ t.boot = .loading h ten load ∧ t.pilot.running = true ∧ t.fe = FeRegs.reset
          ∧ t.firmware = s.newFirmware.getD s.firmware ∧ t.newFirmware = none ∧ t.cycle = s.cycle ∧ t.outputs = s.outputs }
  | coldHalts (h : BitVec 32) (ten : Word) (load : List (Nat × Byte)) : PlatformEvent (.coldReset h ten load)
      { when := fun s => (s.newFirmware.getD s.firmware).image.verified = false
        gives := fun _ t => wasReset t ∧ t.boot = .halted ∧ t.pilot.running = false ∧ t.fe = FeRegs.reset }
  | resetCold (h : BitVec 32) (ten : Word) (load : List (Nat × Byte)) : PlatformEvent (.resetCold h ten load)
      { when := fun s => s.session = true ∧ (s.newFirmware.getD s.firmware).image.verified = true
        gives := fun s t => wasReset t ∧ t.boot = .loading h ten load ∧ t.pilot.running = true ∧ t.fe = FeRegs.reset
          ∧ t.outputs = s.outputs ++ [.management 0] }
  | resetWarm (h : BitVec 32) (ten : Word) (load : List (Nat × Byte)) : PlatformEvent (.resetWarm h ten load)
      { when := fun s => s.session = true ∧ s.firmware.image.verified = true
        gives := fun s t => wasReset t ∧ t.boot = .loading h ten load ∧ t.pilot.running = true
          ∧ t.outputs = s.outputs ++ [.management 0] ∧ t.storeClk = s.storeClk ∧ t.hot = s.hot
          ∧ t.fe = { FeRegs.reset with
              qlId := s.fe.qlId, qlPod := s.fe.qlPod, qlStarve := s.fe.qlStarve, qlThr := s.fe.qlThr, lanecap := s.fe.lanecap
              poolPorts := s.fe.poolPorts, poolSize := s.fe.poolSize, scrubPeriod := s.fe.scrubPeriod } }
  | resetColdHalts (h : BitVec 32) (ten : Word) (load : List (Nat × Byte)) : PlatformEvent (.resetCold h ten load)
      { when := fun s => s.session = true ∧ (s.newFirmware.getD s.firmware).image.verified = false
        gives := fun s t => wasReset t ∧ t.boot = .halted ∧ t.pilot.running = false ∧ t.fe = FeRegs.reset
          ∧ t.outputs = s.outputs ++ [.management 0] }
  | resetWarmHalts (h : BitVec 32) (ten : Word) (load : List (Nat × Byte)) : PlatformEvent (.resetWarm h ten load)
      { when := fun s => s.session = true ∧ s.firmware.image.verified = false
        gives := fun s t => wasReset t ∧ t.boot = .halted ∧ t.pilot.running = false ∧ t.outputs = s.outputs ++ [.management 0]
          ∧ t.storeClk = s.storeClk }
  | fabric : PlatformEvent .fabricError
      { when := fun s => up s ∧ ∃ l ∈ s.launches, ∀ k ∈ s.launches, k.done < k.next
        gives := fun s t => t.fe = { s.fe with feStat := s.fe.feStat ||| 0x40000000 }
          ∧ t.launches = s.launches.map (fun l => if l.ending = none then { l with ending := some (8, 0, 0) } else l)
          ∧ t.pilot.running = true ∧ t.cores = s.cores ∧ t.mem = s.mem ∧ t.queues = s.queues }
  | session : PlatformEvent .secureSession { when := fun _ => True, gives := fun s t => t = { s with session := true } }
  | measure : PlatformEvent .getMeasurements
      { when := fun _ => True
        gives := fun s t =>
          let rom := sha384 Config.bootRom
          let image := sha384 s.firmware.image.data
          let fabric := sha384 s.firmware.bitstream.data
          let fuses := sha384 Config.fuses
          t = answers s (.measurements rom image fabric fuses (Config.attest rom image fabric fuses)) }
  | regrd (off : Nat) : PlatformEvent (.regrd off)
      { when := fun _ => True, gives := fun s t => t = answers s (.register (BitVec.ofNat 64 (s.regRead off))) }
  | regwr (off : Nat) (v : Word) : PlatformEvent (.regwr off v)
      { when := fun s => s.session = true ∧ s.fe.feErr = 0 ∧ (s.regWrite off v).fe.feErr = 0
        gives := fun s t => t = answers (s.regWrite off v) (.management 0) }
  | keyset (n : Nat) (key : BitVec 256) : PlatformEvent (.keyset n key)
      { when := fun s => s.session = true ∧ 1 ≤ n ∧ n ≤ 255 ∧ s.domainBusy n = false
        gives := fun s t => t = answers { s with keys := (n, key) :: s.keys.filter fun k => k.1 != n } (.management 0) }
  | keyclr (n : Nat) : PlatformEvent (.keyclr n)
      { when := fun s => s.session = true ∧ 1 ≤ n ∧ s.domainBusy n = false
        gives := fun s t => t = answers { s with keys := s.keys.filter fun k => k.1 != n } (.management 0) }
  | fwupd (image : Firmware) : PlatformEvent (.fwupd image)
      { when := fun s => s.session = true ∧ image.image.verified = true
        gives := fun s t => t = answers { s with newFirmware := some image } (.management 0) }
  | fwupdBad (image : Firmware) : PlatformEvent (.fwupd image)
      { when := fun s => s.session = true ∧ image.image.verified = false, gives := fun s t => t = answers s (.management 19) }
  | noSession (i : Instr) (off n : Nat) (v : Word) (key : BitVec 256) (image : Firmware) (h : BitVec 32) (load : List (Nat × Byte)) :
      i ∈ [Instr.regwr off v, .keyset n key, .keyclr n, .fwupd image, .resetCold h v load, .resetWarm h v load] →
      PlatformEvent i { when := fun s => s.session = false, gives := fun s t => t = answers s (.management 16) }

end Sys2Proof.Rules
end

