-- ==== Sys2Proof/Rules/Lists.lean ====
section
/-!
DEFINITION. Work lists, the barrier, token counts and the tape instructions of X as their rules give them (R101 to R111, R345 to R365).
-/
namespace Sys2Proof.Rules
open Sys2Proof.Machine

/-- A result that its operation delivers at a free time. -/
def deliver (cx : Cx) (s : State) (rs : List Result) : State :=
  ({ s with free := s.free + 1 } : State).fly cx s.deliverAt false rs

/-- The tenancy of the core whose turn it is. -/
def ten (s : State) : BitVec 8 := s.tenOf s.turn.core

/-- The list that a register names, and whether its group is granted (R101, R103). -/
def listNo (s : State) (a : Reg) : Nat := (s.mine.rg a).toNat % 1024

/-- The items of the sequencer acknowledged, and a free delivery time taken (R102). -/
def acked (s : State) : State :=
  { s.modSeq s.turn fun v => { v with unacked := [] } with free := s.free + 1 }

/-- The result of QUIES, 0 until the group that it watches is found quiescent (R106). -/
def watching (s : State) (cx : Cx) (g : Nat) : State :=
  s.modCore s.turn.core fun c =>
    { c with flights := c.flights.map fun f => if f.ins = cx.stamp then { f with watch := some g } else f }

/-- WLPUSH, WLPOP, QUIES (R103, R104, R106), TKCNT (R111) and BAR (R109). -/
inductive ListRow : Instr → Effect → Prop
  | push (d a : Reg) (x : Ctl) : ListRow (.wlpush d a x)
      { x := x, acc := [.core], rel := true
        when := fun _ s => s.groupHeld (ten s) (listNo s a / 16) = true ∧ (s.list (listNo s a)).count < s.listCap (ten s)
        gives := fun cx s => s.listPush cx (ten s) (listNo s a)
          [toBytes 8 (s.mine.rg d).toNat ++ toBytes 8 ((s.mine.rg (regNext d)).toNat % 2 ^ 63)] }
  | popNone (d a : Reg) (x : Ctl) : ListRow (.wlpop d a x)
      { x := x, lat := 7, acc := [.core], clear := fun s => (s.mine.rg a).toNat / 1024 % 1024 = 0
        when := fun _ s => (s.mine.rg a).toNat / 1024 % 1024 = 0 ∧ s.groupHeld (ten s) (listNo s a / 16) = true
          ∧ ((acked s).list (listNo s a)).count = 0
        gives := fun cx s => (acked s).fly cx s.deliverAt false
          [.g d 0, .g (regNext d) 0x8000000000000000] }
  | popOne (d a : Reg) (x : Ctl) (bs : List Byte) (u : State) : ListRow (.wlpop d a x)
      { x := x, lat := 7, acc := [.core], clear := fun s => (s.mine.rg a).toNat / 1024 % 1024 = 0
        when := fun cx s => (s.mine.rg a).toNat / 1024 % 1024 = 0 ∧ s.groupHeld (ten s) (listNo s a / 16) = true
          ∧ (acked s).listPop cx (ten s) (listNo s a) 1 = ([bs], u)
        gives := fun cx s => u.fly cx s.deliverAt false
          [.g d (BitVec.ofNat 64 (ofBytes (bs.take 8))), .g (regNext d) (BitVec.ofNat 64 (ofBytes (bs.drop 8)))] }
  | popBatch (d a : Reg) (x : Ctl) (c adr : Nat) (items : List (List Byte)) (u : State) : ListRow (.wlpop d a x)
      { x := x, lat := 7, acc := [.core]
        clear := fun s => s.me.cmdHolds s.turn.sq ((s.mine.rg a).toNat / 2 ^ 20 % 2 ^ 22) (16 * ((s.mine.rg a).toNat / 1024 % 1024)) = false
        when := fun cx s => c = (s.mine.rg a).toNat / 1024 % 1024 ∧ c ≠ 0 ∧ adr = (s.mine.rg a).toNat / 2 ^ 20 % 2 ^ 22
          ∧ adr % 16 = 0 ∧ adr + 16 * c ≤ 2 ^ 22 ∧ s.groupHeld (ten s) (listNo s a / 16) = true
          ∧ (acked s).listPop cx (ten s) (listNo s a) c = (items, u)
        gives := fun cx s =>
          (u.spadStore s.turn.core (cx.actor u) adr items.flatten).fly cx s.deliverAt false
            [.g d (BitVec.ofNat 64 items.length)] }
  | quies (d a : Reg) (x : Ctl) : ListRow (.quies d a x)
      { x := x, lat := 7, acc := [.core], when := fun _ s => s.groupHeld (ten s) ((s.mine.rg a).toNat % 64) = true
        gives := fun cx s => (watching (deliver cx (s.modSeq s.turn fun v => { v with unacked := [] }) [.g d 0]) cx
          ((s.mine.rg a).toNat % 64)).watchQuiet }
  | tkcnt (d : Reg) (x : Ctl) : ListRow (.tkcnt d x)
      { x := x, lat := 1
        gives := fun cx s => s.fly cx 0 false
          [.g d (BitVec.ofNat 64 (((List.finRange 8).map fun i => s.me.tokenCount i * 2 ^ (8 * i.val)).sum))] }
  | bar (x : Ctl) (l : Launch) : ListRow (.bar x)
      { x := x, qs := [.X], acc := [.core], rel := true, clear := fun s => s.me.inTrap = false
        when := fun _ s => s.launchOf s.turn.core = some l ∧ l.multiWave = false
        gives := fun cx s =>
          let t := s.arm (cx.actor s) true true
          let n := (t.core s.turn.core).barCount + 1
          (t.modCore s.turn.core fun c => { c with barCount := n, barWaiting := true }).modLaunch l.id fun m =>
            { m with arrived := m.arrived ++ [(s.turn.core, n)], barKnow := m.barKnow ++ [t.releaseNow (t.releaseOf s.turn)] } }

/-- A recording begun on tape `t` of launch `l` (R346, R348, R350). -/
def recordingBegun (s : State) (t : Fin 16) (l : Launch) (missed : Bool) : State :=
  s.modCore s.turn.core fun k =>
    { (k.modSeqs fun _ v =>
        { v with gcls := Vector.replicate 32 .clean, pcls := Vector.replicate 8 true, lccls := Vector.replicate 3 .clean }) with
      tapes := k.tapes.set t.val { Tape.blank with
        st := .recording, ten := s.tenOf s.turn.core, htgen := k.htgen, ntgen := k.ntgen, ntlocks := k.ntlocks.setWidth 16
        acct := k.acct, cores := l.coreset.length, looptab := l.looptab, kval := k.k.toList, ent := l.ent.drop 1
        ext := l.ext.drop 1 } t.isLt
      tapePhase := .recording, tapeBegun := some s.time, tapeLines := []
      tapemiss := if missed then k.tapemiss + 1 else k.tapemiss }

/-- Whether the tape may be replayed by the iteration, and the number of the first guard that fails, 0 if none does (R362). -/
def usable (s : State) (tp : Tape) : Bool := tp.st == .valid && tp.ten == s.tenOf s.turn.core

/-- The same from the state in which TAPEB issues, the old tape discarded, where guard `g` failed, or none for 0. -/
def begun (s : State) (t : Fin 16) (l : Launch) (g : Nat) : State :=
  recordingBegun (({ s with free := s.free + 1 } : State).emptyTape s.turn.core t 7) t l (decide (g ≠ 0))

/-- Where TAPEB may begin: an iteration with tape `t` of launch `l` that has not begun a tape, while no tape records (R345, R346). -/
def mayBegin (s : State) (t : Fin 16) (l : Launch) : Prop :=
  s.me.iterTape = some t ∧ s.launchOf s.turn.core = some l ∧ s.me.tapeBegun = none ∧ ∀ p ∈ s.me.tapes.toList, p.st ≠ .recording

/-- TAPEB (R346): a tape found poisoned is EMPTY (R399); it replays a tape whose guards hold, or else begins a recording. -/
inductive TapebRow : Instr → Effect → Prop
  | replay (d : Reg) (x : Ctl) (t : Fin 16) (l : Launch) (u : State) : TapebRow (.tapeb d x)
      { x := x, lat := 7, qs := [.X]
        when := fun _ s => mayBegin s t l ∧ u = s.dropBadTape s.turn.core t ∧ usable u (u.me.tapes.get t) = true
          ∧ s.me.failedGuard l (u.me.tapes.get t) = 0
        gives := fun cx s => (({ u with free := u.free + 1 } : State).startReplay s.turn.core (u.me.tapes.get t)).fly cx
          u.deliverAt false [.g d 1] }
  | fresh (d : Reg) (x : Ctl) (t : Fin 16) (l : Launch) (g : Nat) (u : State) : TapebRow (.tapeb d x)
      { x := x, lat := 7, qs := [.X]
        when := fun _ s => mayBegin s t l ∧ u = s.dropBadTape s.turn.core t
          ∧ (usable u (u.me.tapes.get t) = true ∧ g = s.me.failedGuard l (u.me.tapes.get t) ∧ g ≠ 0
              ∨ usable u (u.me.tapes.get t) = false ∧ g = 0)
          ∧ ((begun u t l g).core s.turn.core).tapeUse ≤ tapeMemory
        gives := fun cx _ => (begun u t l g).fly cx u.deliverAt false
          [.g d (BitVec.ofNat 64 (g * 256 + if (u.me.tapes.get t).st = .valid then 0 else 4))] }

/-- No result of an instruction before a TGUARD of KIND 1 is on its way to the pair that it reads (R362). -/
def pairReady (d a : Reg) (s : State) : Prop :=
  (s.mine.rg d).getLsbD 8 = true → ∀ r ∈ [a, regNext a], s.me.gBusy s.turn.sq (!s.exposed) r = false

/-- TAPEE after the other streams of its iteration have ended and drained (R363), TGUARD (R362), TAPEINV (R364) and TAPEQ (R365). -/
inductive TapeRow : Instr → Effect → Prop
  | tapeeReplayed (d : Reg) (x : Ctl) : TapeRow (.tapee d x)
      { x := x, lat := 7, qs := [.X], clear := fun s => s.me.tapeIdle = true
        when := fun _ s => s.me.tapeBegun.isSome = true ∧ s.me.tapeEnded = false ∧ s.me.tapePhase = .replaying
        gives := fun cx s => deliver cx (s.modCore s.turn.core fun k =>
          { k with tapeEnded := true, tapePhase := .finished, replayTape := none }) [.g d 1] }
  | tapeeAborted (d : Reg) (x : Ctl) : TapeRow (.tapee d x)
      { x := x, lat := 7, qs := [.X], clear := fun s => s.me.tapeIdle = true
        when := fun _ s => s.me.tapeBegun.isSome = true ∧ s.me.tapeEnded = false ∧ s.me.tapePhase = .aborted
        gives := fun cx s => deliver cx (s.modCore s.turn.core fun k =>
          { k with tapeEnded := true, tapePhase := .finished, replayTape := none }) [.g d 2] }
  | tapeeAbandoned (d : Reg) (x : Ctl) (n : Nat) : TapeRow (.tapee d x)
      { x := x, lat := 7, qs := [.X], clear := fun s => s.me.tapeIdle = true
        when := fun _ s => s.me.tapeBegun.isSome = true ∧ s.me.tapeEnded = false ∧ s.me.tapePhase = .abandoned n
        gives := fun cx s => deliver cx (s.modCore s.turn.core fun k =>
          { k with tapeEnded := true, tapePhase := .finished, replayTape := none }) [.g d (BitVec.ofNat 64 n)] }
  | tapeeRecorded (d : Reg) (x : Ctl) (t : Fin 16) (n : Nat) (u : State) : TapeRow (.tapee d x)
      { x := x, lat := 7, qs := [.X], clear := fun s => s.me.tapeIdle = true
        when := fun _ s => s.me.tapeBegun.isSome = true ∧ s.me.tapeEnded = false ∧ s.me.tapePhase = .recording
          ∧ s.me.iterTape = some t ∧ ({ s with free := s.free + 1 } : State).finishTape s.turn.core t s.deliverAt = (n, u)
        gives := fun cx s => (u.modCore s.turn.core fun k =>
          { k with tapeEnded := true, tapePhase := .finished, replayTape := none }).fly cx s.deliverAt false
            [.g d (BitVec.ofNat 64 n)] }
  | guardNone (d a : Reg) (x : Ctl) : TapeRow (.tguard d a x)
      { x := x, qs := [.X], clear := pairReady d a
        when := fun _ s => s.mine.rg d &&& ~~~0x11F#64 = 0 ∧ s.me.tapePhase ≠ .recording, gives := fun _ s => s }
  | guardFull (d a : Reg) (x : Ctl) (t : Fin 16) : TapeRow (.tguard d a x)
      { x := x, qs := [.X], clear := pairReady d a
        when := fun _ s => s.mine.rg d &&& ~~~0x11F#64 = 0 ∧ s.me.tapePhase = .recording ∧ s.me.iterTape = some t
          ∧ 16 ≤ (s.me.tapes.get t).guards.length
        gives := fun _ s => s.abandon s.turn.core 6 }
  | guardValue (d a : Reg) (x : Ctl) (t : Fin 16) (new : Tape) : TapeRow (.tguard d a x)
      { x := x, qs := [.X], clear := pairReady d a
        when := fun _ s => s.mine.rg d &&& ~~~0x11F#64 = 0 ∧ s.me.tapePhase = .recording ∧ s.me.iterTape = some t
          ∧ (s.me.tapes.get t).guards.length < 16
          ∧ new = { s.me.tapes.get t with guards := (s.me.tapes.get t).guards ++ [
              if (s.mine.rg d).getLsbD 8 then (s.mine.rg d, s.mine.rg a, s.mine.rg (regNext a))
              else (s.mine.rg d, s.me.pv.get (Fin.ofNat 32 ((s.mine.rg d).toNat % 32)), 0)] }
          ∧ s.me.tapeUse - (s.me.tapes.get t).bytes + new.bytes ≤ tapeMemory
        gives := fun _ s => s.modCore s.turn.core fun k => { k with tapes := k.tapes.set t.val new t.isLt } }
  | tapeinv (a : Reg) (x : Ctl) : TapeRow (.tapeinv a x)
      { x := x, qs := [.X], when := fun _ s => (s.mine.rg a).toNat < 65536
        gives := fun _ s =>
          (List.finRange 16).foldl (fun u t => if (s.mine.rg a).getLsbD t.val then u.emptyTape s.turn.core t 7 else u) s }
  | tapeq (d a : Reg) (x : Ctl) : TapeRow (.tapeq d a x)
      { x := x, lat := 2, qs := [.X], when := fun _ s => (s.mine.rg a).toNat < 2 ^ 18
        gives := fun cx s =>
          let w := (s.mine.rg a).toNat
          let t := s.me.tapes.get (Fin.ofNat 16 (w % 16))
          s.fly cx 0 false [.g d (BitVec.ofNat 64 (
            if t.st = .valid ∧ 8 * (w / 16 % 2 ^ 14) < t.bytes then
              ofBytes (((t.image (w % 16)).drop (8 * (w / 16 % 2 ^ 14))).take 8)
            else 0))] }

end Sys2Proof.Rules
end

