-- ==== Sys2Proof/Rules/Memory.lean ====
section
/-!
DEFINITION. Memory, atomic, fence and node translation instructions as their rules give them (R228, R235 to R259, R425).
-/
namespace Sys2Proof.Rules
open Sys2Proof.Machine

/-- The access of `n` bytes at `ea` of the core whose turn it is translates to `pas` (an address and a memory type a byte), leaving `u`
(R211 to R218). -/
def paged (cx : Cx) (s : State) (need : Need) (ea n : Nat) (pas : List (Nat × Nat)) (u : State) : Prop :=
  s.translateBytes (cx.actor s) s.turn.core (s.tenOf s.turn.core) need ea n = (.ok pas, u)

/-- The physical addresses. -/
def addrs (pas : List (Nat × Nat)) : List Nat := pas.map Prod.fst

/-- The address of LD and ST (R242): the exact sum. -/
def addr (s : State) (a : Reg) (z : Sz) (o : BitVec 3) : Nat := (s.mine.rg a).toNat + o.toNat * 2 ^ z.code

/-- With a free value taken. -/
def spent (u : State) : State := { u with free := u.free + 1 }

/-- With the result of a load, `v` as far as it is known, on its way from `u` to `d`. -/
def onWay (cx : Cx) (u : State) (d : Reg) (v : Nat) : State := (spent u).fly cx u.deliverAt false [.g d (BitVec.ofNat 64 v)]

/-- A scalar load from memory: `sx` is the width from which it is sign-extended, 0 where it is not. Its bytes are read piece by piece. -/
def loadEffect (x : Ctl) (sx : Nat) (acq : Bool) (d a : Reg) (z : Sz) (o : BitVec 3) (pas : List (Nat × Nat)) (u : State) : Effect :=
  { x := x, lat := 7, acc := [.core]
    when := fun cx s => (acq = true → addr s a z o % 2 ^ z.code = 0)
      ∧ paged cx s (scalarNeed Need.load (!acq) (addr s a z o) (2 ^ z.code)) (addr s a z o) (2 ^ z.code) pas u ∧ deviceAt pas = none
    gives := fun cx s =>
      (onWay cx u d 0).loadAccess cx acq (addr s a z o) sx ((addrs pas).zip (List.range (2 ^ z.code))) }

/-- One from a device register, by the system tenancy (R228, R406), once no merged AMO of its sequencer is on its way. -/
def registerLoad (x : Ctl) (sx : Nat) (d a : Reg) (z : Sz) (o : BitVec 3) (pas : List (Nat × Nat)) (u : State) (pa : Nat) : Effect :=
  { x := x, lat := 7, acc := [.core]
    when := fun cx s => paged cx s (scalarNeed Need.load true (addr s a z o) (2 ^ z.code)) (addr s a z o) (2 ^ z.code) pas u
      ∧ deviceAt pas = some pa ∧ cx.s0.amoOut s.turn = false
    gives := fun cx _ =>
      let got := (List.range (2 ^ z.code)).zip (toBytes (2 ^ z.code) ((onWay cx u d 0).feLoad (pa - regBase) (2 ^ z.code)))
      (onWay cx u d (valueOf got sx)).armPubs (cx.actor (onWay cx u d 0)) }

/-- A scalar store to memory. -/
def storeEffect (x : Ctl) (rel : Bool) (d a : Reg) (z : Sz) (o : BitVec 3) (pas : List (Nat × Nat)) (u : State) : Effect :=
  { x := x, acc := [.core], rel := rel
    when := fun cx s => (rel = true → addr s a z o % 2 ^ z.code = 0)
      ∧ paged cx s (scalarNeed Need.store (!rel) (addr s a z o) (2 ^ z.code)) (addr s a z o) (2 ^ z.code) pas u ∧ deviceAt pas = none
    gives := fun cx s =>
      u.storeAccess cx rel (addr s a z o) ((addrs pas).zip (List.range (2 ^ z.code))) (toBytes (2 ^ z.code) (s.mine.rg d).toNat) }

/-- LD, LDS, LD.ACQ, ST and ST.REL (R242 to R244). -/
inductive ScalarAccess : Instr → Effect → Prop
  | ld (d a : Reg) (z : Sz) (h : Hint) (o : BitVec 3) (x : Ctl) (pas : List (Nat × Nat)) (u : State) :
      ScalarAccess (.ld d a z h o x) (loadEffect x 0 false d a z o pas u)
  | lds (d a : Reg) (z : Sz) (h : Hint) (o : BitVec 3) (x : Ctl) (pas : List (Nat × Nat)) (u : State) :
      ScalarAccess (.lds d a z h o x) (loadEffect x (8 * 2 ^ z.code) false d a z o pas u)
  | ldAcq (d a : Reg) (z : Sz) (h : Hint) (o : BitVec 3) (x : Ctl) (pas : List (Nat × Nat)) (u : State) :
      ScalarAccess (.ldAcq d a z h o x) (loadEffect x 0 true d a z o pas u)
  | ldReg (d a : Reg) (z : Sz) (h : Hint) (o : BitVec 3) (x : Ctl) (pas : List (Nat × Nat)) (u : State) (pa : Nat) :
      ScalarAccess (.ld d a z h o x) (registerLoad x 0 d a z o pas u pa)
  | ldsReg (d a : Reg) (z : Sz) (h : Hint) (o : BitVec 3) (x : Ctl) (pas : List (Nat × Nat)) (u : State) (pa : Nat) :
      ScalarAccess (.lds d a z h o x) (registerLoad x (8 * 2 ^ z.code) d a z o pas u pa)
  | st (d a : Reg) (z : Sz) (h : Hint) (o : BitVec 3) (x : Ctl) (pas : List (Nat × Nat)) (u : State) :
      ScalarAccess (.st d a z h o x) (storeEffect x false d a z o pas u)
  | stRel (d a : Reg) (z : Sz) (h : Hint) (o : BitVec 3) (x : Ctl) (pas : List (Nat × Nat)) (u : State) :
      ScalarAccess (.stRel d a z h o x) (storeEffect x true d a z o pas u)
  | stReg (d a : Reg) (z : Sz) (h : Hint) (o : BitVec 3) (x : Ctl) (pas : List (Nat × Nat)) (u : State) (pa : Nat) :
      ScalarAccess (.st d a z h o x)
      { x := x, acc := [.core]
        when := fun cx s => paged cx s (scalarNeed Need.store true (addr s a z o) (2 ^ z.code)) (addr s a z o) (2 ^ z.code) pas u
          ∧ deviceAt pas = some pa ∧ cx.s0.amoOut s.turn = false
        gives := fun cx s =>
          (u.armPubs (cx.actor u)).feStore (pa - regBase) (2 ^ z.code) ((s.mine.rg d).toNat % 256 ^ 2 ^ z.code) }

/-- The address of VLDG and VSTG (R246). -/
def rowAddr (s : State) (a : Reg) (o : BitVec 3) : Nat := (s.mine.rg a).toNat + o.toNat * 512

/-- The selected bytes of the row at `ea` translate to `pas`, an address and a place in the row each. -/
def rowPaged (cx : Cx) (s : State) (need : Need) (ea : Nat) (pas : List (Nat × Nat)) (u : State) : Prop :=
  s.translateRow (cx.actor s) s.turn.core (s.tenOf s.turn.core) need ea (rowPages ea s.me.laneBytes) = (.ok pas, u)

/-- A row load. -/
def rowLoad (x : Ctl) (acq : Bool) (v : VReg) (a : Reg) (o : BitVec 3) (pas : List (Nat × Nat)) (u : State) : Effect :=
  { x := x, lat := 7, qs := [.C], acc := [.core]
    when := fun cx s => rowAddr s a o % 64 = 0 ∧ rowPaged cx s Need.load (rowAddr s a o) pas u
    gives := fun cx s =>
      ((spent u).fly cx u.deliverAt false
        [{ dest := .row (s.me.vrow v), value := 0, en := s.me.laneBytes, flags := 0 }]).loadAccess cx acq (rowAddr s a o) 0 pas }

/-- A row store; the poisoned sectors of its row are recorded and counted (R399). -/
def rowStore (x : Ctl) (rel : Bool) (v : VReg) (a : Reg) (o : BitVec 3) (pas : List (Nat × Nat)) (u : State) : Effect :=
  { x := x, qs := [.C], acc := [.core], rel := rel
    when := fun cx s => rowAddr s a o % 64 = 0 ∧ rowPaged cx s Need.store (rowAddr s a o) pas u
    gives := fun cx s =>
      (u.noteRows s.turn.core [s.me.vrow v]).storeAccess cx rel (rowAddr s a o) pas
        (pas.map fun p => BitVec.ofNat 8 (s.me.rowBytes (s.me.vrow v) / 256 ^ p.2)) }

/-- VLDG, VLDG.ACQ, VSTG and VSTG.REL (R245, R246). -/
inductive GlobalRow : Instr → Effect → Prop
  | vldg (v : VReg) (a : Reg) (h : Hint) (o : BitVec 3) (x : Ctl) (pas : List (Nat × Nat)) (u : State) :
      GlobalRow (.vldg v a h o x) (rowLoad x false v a o pas u)
  | vldgAcq (v : VReg) (a : Reg) (h : Hint) (o : BitVec 3) (x : Ctl) (pas : List (Nat × Nat)) (u : State) :
      GlobalRow (.vldgAcq v a h o x) (rowLoad x true v a o pas u)
  | vstg (v : VReg) (a : Reg) (h : Hint) (o : BitVec 3) (x : Ctl) (pas : List (Nat × Nat)) (u : State) :
      GlobalRow (.vstg v a h o x) (rowStore x false v a o pas u)
  | vstgRel (v : VReg) (a : Reg) (h : Hint) (o : BitVec 3) (x : Ctl) (pas : List (Nat × Nat)) (u : State) :
      GlobalRow (.vstgRel v a h o x) (rowStore x true v a o pas u)

/-- The operation code of an atomic's constructor, its registers, its AR and its width (R247). -/
inductive AtomicOp : Instr → Nat → Reg → Reg → Bool → Sz → Ctl → Prop
  | add (d a : Reg) (r : Bool) (z : Sz) (x : Ctl) : AtomicOp (.amoAdd d a r z x) 0 d a r z x
  | and (d a : Reg) (r : Bool) (z : Sz) (x : Ctl) : AtomicOp (.amoAnd d a r z x) 1 d a r z x
  | or (d a : Reg) (r : Bool) (z : Sz) (x : Ctl) : AtomicOp (.amoOr d a r z x) 2 d a r z x
  | xor (d a : Reg) (r : Bool) (z : Sz) (x : Ctl) : AtomicOp (.amoXor d a r z x) 3 d a r z x
  | min (d a : Reg) (r : Bool) (z : Sz) (x : Ctl) : AtomicOp (.amoMin d a r z x) 4 d a r z x
  | max (d a : Reg) (r : Bool) (z : Sz) (x : Ctl) : AtomicOp (.amoMax d a r z x) 5 d a r z x
  | minu (d a : Reg) (r : Bool) (z : Sz) (x : Ctl) : AtomicOp (.amoMinu d a r z x) 6 d a r z x
  | maxu (d a : Reg) (r : Bool) (z : Sz) (x : Ctl) : AtomicOp (.amoMaxu d a r z x) 7 d a r z x
  | swap (d a : Reg) (r : Bool) (z : Sz) (x : Ctl) : AtomicOp (.amoSwap d a r z x) 8 d a r z x
  | cas (d a : Reg) (r : Bool) (z : Sz) (x : Ctl) : AtomicOp (.amoCas d a r z x) 9 d a r z x
  | fadd (d a : Reg) (r : Bool) (z : Sz) (x : Ctl) : AtomicOp (.amoFadd d a r z x) 10 d a r z x

/-- What an atomic sent to its line's bank leaves: its result comes when it is performed there, wherever its page has gone (R247, R430);
with AR it is a release and an acquire (R244). -/
def atBank (cx : Cx) (u : State) (d : Reg) (ar : Bool) (op sz ea pa x y : Nat) : State :=
  let t := ((spent u).flyAtomic cx u.deliverAt d).awaiting cx 1 0
  t.access
    { cx.access t 2 ea ((List.range (2 ^ sz)).map fun i => (pa + i, i)) (toBytes 8 x ++ toBytes 8 y) with
      op := op, sz := sz, acq := ar, rel := if ar then some (t.releaseOf cx.who) else none }

/-- AMO (R247, R248): at the bank of its line; a combinable one inside an enabled window goes to the combining buffer and lands 0
(R424 to R426). PLNST (R251). -/
inductive AtomicRow : Instr → Effect → Prop
  | bank (i : Instr) (op : Nat) (d a : Reg) (r : Bool) (z : Sz) (x : Ctl) (h : AtomicOp i op d a r z x) (pa mt : Nat)
      (rest : List (Nat × Nat)) (u : State) : AtomicRow i
      { x := x, lat := 7, acc := [.core], rel := r
        when := fun cx s => (s.mine.rg a).toNat % 2 ^ z.code = 0
          ∧ paged cx s Need.amo (s.mine.rg a).toNat (2 ^ z.code) ((pa, mt) :: rest) u ∧ ¬(r = false ∧ op ≤ 7 ∧ u.inWindow pa = true)
        gives := fun cx s =>
          atBank cx u d r (op + if r then 16 else 0) z.code (s.mine.rg a).toNat pa ((s.mine.rg d).toNat % 256 ^ 2 ^ z.code)
            ((s.mine.rg (regNext d)).toNat % 256 ^ 2 ^ z.code) }
  | combined (i : Instr) (op : Nat) (d a : Reg) (z : Sz) (x : Ctl) (h : AtomicOp i op d a false z x) (ho : op ≤ 7) (pa mt : Nat)
      (rest : List (Nat × Nat)) (u : State) : AtomicRow i
      { x := x, lat := 7, acc := [.core]
        when := fun cx s => (s.mine.rg a).toNat % 2 ^ z.code = 0
          ∧ paged cx s Need.amo (s.mine.rg a).toNat (2 ^ z.code) ((pa, mt) :: rest) u ∧ u.inWindow pa = true
        gives := fun cx s =>
          ((u.armPubs (cx.actor u)).combineAmo cx op z.code pa ((s.mine.rg d).toNat % 256 ^ 2 ^ z.code)).flyAtomic cx (u.cycle + 1) d }
  | plnstOr (d a : Reg) (x : Ctl) (pa mt : Nat) (rest : List (Nat × Nat)) (u : State) : AtomicRow (.plnstOr d a x)
      { x := x, lat := 7, acc := [.core], when := fun cx s => paged cx s Need.amo (s.mine.rg a).toNat 1 ((pa, mt) :: rest) u
        gives := fun cx s => atBank cx u d false 32 0 (s.mine.rg a).toNat pa ((s.mine.rg d).toNat % 256) 0 }
  | plnstAnd (d a : Reg) (x : Ctl) (pa mt : Nat) (rest : List (Nat × Nat)) (u : State) : AtomicRow (.plnstAnd d a x)
      { x := x, lat := 7, acc := [.core], when := fun cx s => paged cx s Need.amo (s.mine.rg a).toNat 1 ((pa, mt) :: rest) u
        gives := fun cx s => atBank cx u d false 33 0 (s.mine.rg a).toNat pa ((s.mine.rg d).toNat % 256) 0 }

/-- What a fence for classes `cas` performs as it issues: the merged AMOs of the core are flushed and its sequencer's earlier CORE accesses
performed, where CORE is among them (R234, R427). -/
def fencePerforms (cx : Cx) (s : State) (cas : List PathClass) : State :=
  if PathClass.core ∈ cas then (s.flushCore s.turn.core).settle (cx.actor s) true else s

/-- What it then waits for: its sequencer issues nothing until it is complete (R234). -/
def fenceSetOf (cx : Cx) (s : State) (cas : List PathClass) : List Nat :=
  let t := fencePerforms cx s cas
  (cas.flatMap fun ca => (t.core s.turn.core).fenceSet s.turn.core (t.seq s.turn).know ca).eraseDups

/-- The state in which it waits. -/
def fenceHeld (cx : Cx) (s : State) (cas : List PathClass) : State :=
  (fencePerforms cx s cas).modSeq s.turn fun v => { v with hold := v.hold ++ fenceSetOf cx s cas }

/-- What fences before a PUBL made visible at a narrower scope (R254). -/
def narrower (s : State) (sc : Scope) (m : MadeVis) : Bool :=
  (m.sq == s.turn.sq || s.mine.know.covers { core := s.turn.core, sq := m.sq } m.stamp) && decide (m.scope.code < sc.code)

/-- What CFLUSH and CINV leave: the line's contributions are flushed, it is a CORE access, and the line is written back (R255). -/
def lineBack (cx : Cx) (u : State) (c : CoreId) (pa : Nat) : State := ((u.flushLines c [pa]).armPubs (cx.actor u)).writeBack pa

/-- FENCE, FENCEX, PUBL, CFLUSH, CINV and CPREF (R229, R234, R235, R252 to R256). -/
inductive FenceRow : Instr → Effect → Prop
  | fencex (sc : Scope) (ca cb : PathClass) (x : Ctl) : FenceRow (.fencex sc ca cb x)
      { x := x, gives := fun cx s => (fenceHeld cx s [ca]).fenceEdge s.turn cx.stamp ca cb sc (fenceSetOf cx s [ca]) }
  | fence (sc : Scope) (x : Ctl) : FenceRow (.fence sc x)
      { x := x
        gives := fun cx s =>
          allClasses.foldl (fun u ca => allClasses.foldl (fun u cb =>
            u.fenceEdge s.turn cx.stamp ca cb sc (fenceSetOf cx s allClasses)) u)
              ((fenceHeld cx s allClasses).modSeq s.turn fun v => { v with refetch := true }) }
  | publ (sc : Scope) (x : Ctl) : FenceRow (.publ sc x)
      { x := x
        gives := fun cx s =>
          let t := s.modCore s.turn.core fun c => { c with madeVis := c.madeVis.map fun m => if narrower s sc m then { m with scope := sc } else m }
          { t with mem := { t.mem with pubs :=
            { spans := (s.me.madeVis.filter (narrower s sc)).map MadeVis.span, who := s.turn, stamp := cx.stamp, scope := sc
              armed := false, publ := true } :: t.mem.pubs } } }
  | cflush (a : Reg) (x : Ctl) (pa mt : Nat) (u : State) : FenceRow (.cflush a x)
      { x := x, acc := [.core], when := fun cx s => paged cx s Need.load (s.mine.rg a).toNat 1 [(pa, mt)] u
        gives := fun cx s => lineBack cx u s.turn.core pa }
  | cinv (a : Reg) (x : Ctl) (pa mt : Nat) (u : State) : FenceRow (.cinv a x)
      { x := x, acc := [.core], when := fun cx s => paged cx s Need.load (s.mine.rg a).toNat 1 [(pa, mt)] u
        gives := fun cx s => lineBack cx u s.turn.core pa }
  | cpref (k : Bool) (h : Hint) (a : Reg) (x : Ctl) : FenceRow (.cpref k h a x) { x := x, gives := fun _ s => s }

/-- The entries that NTLD reads, checked; a poisoned one is invalid (R258, R284). -/
def loadedEntries (u : State) (bs : List (Byte × Bool)) : List (BitVec 128) :=
  (List.range 64).map fun i =>
    let e := (bs.drop (16 * i)).take 16
    if e.any Prod.snd then 0 else u.ntChecked (BitVec.ofNat 128 (ofBytes (e.map Prod.fst)))

/-- The segment loaded: its poisoned entries are gone, poison in the image is recorded by its first address, and NTGEN counts (R258, R399,
R400). -/
def segmentLoaded (w : State) (c : CoreId) (ea g : Nat) (bs : List (Byte × Bool)) : State :=
  let v := match bs.findIdx? Prod.snd with
    | some i => w.modCore c fun k => k.derrRecord 1 (ea + i)
    | none => w
  v.modCore c fun k =>
    { k with
      nt := Vector.ofFn fun i => if i.val / 64 = g then (loadedEntries v bs).getD (i.val % 64) 0 else k.nt.get i
      ntBad := k.ntBad.filter fun n => n / 32 != g
      ntgen := k.ntgen + 1 }

/-- NTLD of an unlocked and of a locked segment, NTLOCK and NTUNL (R258, R259). -/
inductive NodeRow : Instr → Effect → Prop
  | ntld (d a b : Reg) (x : Ctl) (pas : List (Nat × Nat)) (u w : State) (bs : List (Byte × Bool)) : NodeRow (.ntld d a b x)
      { x := x, lat := 7, qs := [.X], acc := [.core]
        when := fun cx s => (s.mine.rg a).toNat % 64 = 0 ∧ (s.mine.rg b).toNat < 16
          ∧ paged cx (spent s) Need.load (s.mine.rg a).toNat 1024 pas u
          ∧ (u.core s.turn.core).ntlocks.getLsbD (s.mine.rg b).toNat = false ∧ (u.core s.turn.core).kvNames (s.mine.rg b).toNat = false
          ∧ (let v := u.armPubs (cx.actor u); v.coreRead s.turn.core (v.ordered (cx.actor v)) (addrs pas)) = (bs, w)
        gives := fun cx s =>
          (segmentLoaded w s.turn.core (s.mine.rg a).toNat (s.mine.rg b).toNat bs).fly cx s.deliverAt false [.g d 0] }
  | ntldLocked (d a b : Reg) (x : Ctl) (pas : List (Nat × Nat)) (u : State) : NodeRow (.ntld d a b x)
      { x := x, lat := 7, qs := [.X], acc := [.core]
        when := fun cx s => (s.mine.rg a).toNat % 64 = 0 ∧ (s.mine.rg b).toNat < 16
          ∧ paged cx (spent s) Need.load (s.mine.rg a).toNat 1024 pas u
          ∧ (u.core s.turn.core).ntlocks.getLsbD (s.mine.rg b).toNat = true
        gives := fun cx s => u.fly cx s.deliverAt false [.g d 1] }
  | ntlock (a : Reg) (x : Ctl) : NodeRow (.ntlock a x)
      { x := x, qs := [.X], when := fun _ s => (s.mine.rg a).toNat < 65536
        gives := fun _ s =>
          ((List.range 16).filter (s.mine.rg a).getLsbD).foldl (fun u g => u.lockSegment s.turn.core g) s }
  | ntunl (a : Reg) (x : Ctl) : NodeRow (.ntunl a x)
      { x := x, qs := [.X], when := fun _ s => (s.mine.rg a).toNat < 65536
        gives := fun _ s =>
          ((List.range 16).filter (s.mine.rg a).getLsbD).foldl (fun u g => u.unlockSegment s.turn.core g) s }

end Sys2Proof.Rules
end

