-- ==== Sys2Proof/Rules/Scalar.lean ====
section
/-!
DEFINITION. The scalar instructions whose result depends on registers alone, as their rules give them: LAT minimum and result (R39, R59
to R69).
-/
namespace Sys2Proof.Rules
open Sys2Proof.Machine

/-- `ScalarRow i x short lat f`: instruction `i` has the common fields `x` and the minimum LAT code `lat`, is a 16-bit form or not, and
its only result is `f` of its sequencer's registers. -/
inductive ScalarRow : Instr → Ctl → Bool → Nat → (Seq → Result) → Prop
  | add (d : Reg) (a : Reg) (b : Reg) (x : Ctl) : ScalarRow (.add d a b x) x false 0 fun v => .g d ((v.rg a) + (v.rg b))
  | sub (d : Reg) (a : Reg) (b : Reg) (x : Ctl) : ScalarRow (.sub d a b x) x false 0 fun v => .g d ((v.rg a) - (v.rg b))
  | and (d : Reg) (a : Reg) (b : Reg) (x : Ctl) : ScalarRow (.and d a b x) x false 0 fun v => .g d ((v.rg a) &&& (v.rg b))
  | or (d : Reg) (a : Reg) (b : Reg) (x : Ctl) : ScalarRow (.or d a b x) x false 0 fun v => .g d ((v.rg a) ||| (v.rg b))
  | xor (d : Reg) (a : Reg) (b : Reg) (x : Ctl) : ScalarRow (.xor d a b x) x false 0 fun v => .g d ((v.rg a) ^^^ (v.rg b))
  | andn (d : Reg) (a : Reg) (b : Reg) (x : Ctl) : ScalarRow (.andn d a b x) x false 0 fun v => .g d ((v.rg a) &&& ~~~(v.rg b))
  | sll (d : Reg) (a : Reg) (b : Reg) (x : Ctl) : ScalarRow (.sll d a b x) x false 0 fun v => .g d ((v.rg a) <<< shamt (v.rg b))
  | srl (d : Reg) (a : Reg) (b : Reg) (x : Ctl) : ScalarRow (.srl d a b x) x false 0 fun v => .g d ((v.rg a) >>> shamt (v.rg b))
  | sra (d : Reg) (a : Reg) (b : Reg) (x : Ctl) : ScalarRow (.sra d a b x) x false 0 fun v => .g d ((v.rg a).sshiftRight (shamt (v.rg b)))
  | ror (d : Reg) (a : Reg) (b : Reg) (x : Ctl) : ScalarRow (.ror d a b x) x false 0 fun v => .g d ((v.rg a).rotateRight (shamt (v.rg b)))
  | fshl (d : Reg) (a : Reg) (b : Reg) (x : Ctl) : ScalarRow (.fshl d a b x) x false 1 fun v => .g d (funnelLeft (v.rg d) (v.rg a) (v.rg b))
  | fshr (d : Reg) (a : Reg) (b : Reg) (x : Ctl) : ScalarRow (.fshr d a b x) x false 1 fun v => .g d (funnelRight (v.rg d) (v.rg a) (v.rg b))
  | mul (d : Reg) (a : Reg) (b : Reg) (x : Ctl) : ScalarRow (.mul d a b x) x false 3 fun v => .g d ((v.rg a) * (v.rg b))
  | mulh (d : Reg) (a : Reg) (b : Reg) (x : Ctl) : ScalarRow (.mulh d a b x) x false 3 fun v => .g d (mulHigh (v.rg a) (v.rg b))
  | mulhu (d : Reg) (a : Reg) (b : Reg) (x : Ctl) : ScalarRow (.mulhu d a b x) x false 3 fun v => .g d (mulHighU (v.rg a) (v.rg b))
  | fns (d : Reg) (a : Reg) (b : Reg) (x : Ctl) : ScalarRow (.fns d a b x) x false 1 fun v => .g d (BitVec.ofNat 64 (findSet (v.rg a).toNat (v.rg b).toNat 0 64))
  | div (d : Reg) (a : Reg) (b : Reg) (x : Ctl) : ScalarRow (.div d a b x) x false 6 fun v => .g d (divSigned (v.rg a) (v.rg b))
  | divu (d : Reg) (a : Reg) (b : Reg) (x : Ctl) : ScalarRow (.divu d a b x) x false 6 fun v => .g d (divUnsigned (v.rg a) (v.rg b))
  | rem (d : Reg) (a : Reg) (b : Reg) (x : Ctl) : ScalarRow (.rem d a b x) x false 6 fun v => .g d (remSigned (v.rg a) (v.rg b))
  | remu (d : Reg) (a : Reg) (b : Reg) (x : Ctl) : ScalarRow (.remu d a b x) x false 6 fun v => .g d (remUnsigned (v.rg a) (v.rg b))
  | min (d : Reg) (a : Reg) (b : Reg) (x : Ctl) : ScalarRow (.min d a b x) x false 0 fun v => .g d (if (v.rg a).toInt ≤ (v.rg b).toInt then (v.rg a) else (v.rg b))
  | max (d : Reg) (a : Reg) (b : Reg) (x : Ctl) : ScalarRow (.max d a b x) x false 0 fun v => .g d (if (v.rg a).toInt ≥ (v.rg b).toInt then (v.rg a) else (v.rg b))
  | minu (d : Reg) (a : Reg) (b : Reg) (x : Ctl) : ScalarRow (.minu d a b x) x false 0 fun v => .g d (if (v.rg a).toNat ≤ (v.rg b).toNat then (v.rg a) else (v.rg b))
  | maxu (d : Reg) (a : Reg) (b : Reg) (x : Ctl) : ScalarRow (.maxu d a b x) x false 0 fun v => .g d (if (v.rg a).toNat ≥ (v.rg b).toNat then (v.rg a) else (v.rg b))
  | addi (d : Reg) (a : Reg) (i : BitVec 7) (x : Ctl) : ScalarRow (.addi d a i x) x false 0 fun v => .g d ((v.rg a) + i.signExtend 64)
  | andi (d : Reg) (a : Reg) (i : BitVec 7) (x : Ctl) : ScalarRow (.andi d a i x) x false 0 fun v => .g d ((v.rg a) &&& i.signExtend 64)
  | slli (d : Reg) (a : Reg) (h : BitVec 6) (x : Ctl) : ScalarRow (.slli d a h x) x false 0 fun v => .g d ((v.rg a) <<< h.toNat)
  | srli (d : Reg) (a : Reg) (h : BitVec 6) (x : Ctl) : ScalarRow (.srli d a h x) x false 0 fun v => .g d ((v.rg a) >>> h.toNat)
  | srai (d : Reg) (a : Reg) (h : BitVec 6) (x : Ctl) : ScalarRow (.srai d a h x) x false 0 fun v => .g d ((v.rg a).sshiftRight h.toNat)
  | rori (d : Reg) (a : Reg) (h : BitVec 6) (x : Ctl) : ScalarRow (.rori d a h x) x false 0 fun v => .g d ((v.rg a).rotateRight h.toNat)
  | li (d : Reg) (i : BitVec 12) (x : Ctl) : ScalarRow (.li d i x) x false 0 fun _ => .g d (i.signExtend 64)
  | popc (d : Reg) (a : Reg) (x : Ctl) : ScalarRow (.popc d a x) x false 1 fun v => .g d (BitVec.ofNat 64 (popCount (v.rg a).toNat 64))
  | clz (d : Reg) (a : Reg) (x : Ctl) : ScalarRow (.clz d a x) x false 1 fun v => .g d (BitVec.ofNat 64 (leadingZeros (v.rg a).toNat 64))
  | ctz (d : Reg) (a : Reg) (x : Ctl) : ScalarRow (.ctz d a x) x false 1 fun v => .g d (BitVec.ofNat 64 (trailingZeros (v.rg a).toNat 64))
  | brev (d : Reg) (a : Reg) (x : Ctl) : ScalarRow (.brev d a x) x false 0 fun v => .g d (BitVec.ofNat 64 (reverseBits (v.rg a).toNat 64))
  | bswap (d : Reg) (a : Reg) (x : Ctl) : ScalarRow (.bswap d a x) x false 0 fun v => .g d (BitVec.ofNat 64 (ofBytes (toBytes 8 (v.rg a).toNat).reverse))
  | sextB (d : Reg) (a : Reg) (x : Ctl) : ScalarRow (.sextB d a x) x false 0 fun v => .g d (sextW 8 (v.rg a))
  | sextH (d : Reg) (a : Reg) (x : Ctl) : ScalarRow (.sextH d a x) x false 0 fun v => .g d (sextW 16 (v.rg a))
  | sextW (d : Reg) (a : Reg) (x : Ctl) : ScalarRow (.sextW d a x) x false 0 fun v => .g d (sextW 32 (v.rg a))
  | zextB (d : Reg) (a : Reg) (x : Ctl) : ScalarRow (.zextB d a x) x false 0 fun v => .g d (zextW 8 (v.rg a))
  | zextH (d : Reg) (a : Reg) (x : Ctl) : ScalarRow (.zextH d a x) x false 0 fun v => .g d (zextW 16 (v.rg a))
  | zextW (d : Reg) (a : Reg) (x : Ctl) : ScalarRow (.zextW d a x) x false 0 fun v => .g d (zextW 32 (v.rg a))
  | bfx (d : Reg) (a : Reg) (b : Reg) (x : Ctl) : ScalarRow (.bfx d a b x) x false 1 fun v => .g d (bfExtract (v.rg a) (v.rg b))
  | bfxs (d : Reg) (a : Reg) (b : Reg) (x : Ctl) : ScalarRow (.bfxs d a b x) x false 1 fun v => .g d (bfExtractSigned (v.rg a) (v.rg b))
  | bfi (d : Reg) (a : Reg) (b : Reg) (x : Ctl) : ScalarRow (.bfi d a b x) x false 1 fun v => .g d (bfInsert (v.rg d) (v.rg a) (v.rg b))
  | cmp (p : PReg) (a : Reg) (b : Reg) (c : Cc) (x : Ctl) : ScalarRow (.cmp p a b c x) x false 0 fun v => .p p (ccHolds c (v.rg a) (v.rg b))
  | cmpi (p : PReg) (a : Reg) (i : BitVec 5) (c : Cc) (x : Ctl) : ScalarRow (.cmpi p a i c x) x false 0 fun v => .p p (ccHolds c (v.rg a) (i.signExtend 64))
  | sel (d : Reg) (a : Reg) (p : PReg) (x : Ctl) : ScalarRow (.sel d a p x) x false 0 fun v => .g d (if v.rp p then v.rg a else v.rg d)
  | selN (d : Reg) (a : Reg) (p : PReg) (x : Ctl) : ScalarRow (.selN d a p x) x false 0 fun v => .g d (if !v.rp p then v.rg a else v.rg d)
  | pand (p : PReg) (q : PReg) (r : PReg) (x : Ctl) : ScalarRow (.pand p q r x) x false 0 fun v => .p p (v.rp q && v.rp r)
  | por (p : PReg) (q : PReg) (r : PReg) (x : Ctl) : ScalarRow (.por p q r x) x false 0 fun v => .p p (v.rp q || v.rp r)
  | pxor (p : PReg) (q : PReg) (r : PReg) (x : Ctl) : ScalarRow (.pxor p q r x) x false 0 fun v => .p p (v.rp q != v.rp r)
  | pandn (p : PReg) (q : PReg) (r : PReg) (x : Ctl) : ScalarRow (.pandn p q r x) x false 0 fun v => .p p (v.rp q && !v.rp r)
  | pnot (p : PReg) (q : PReg) (x : Ctl) : ScalarRow (.pnot p q x) x false 0 fun v => .p p (!v.rp q)
  | psetg (p : PReg) (a : Reg) (x : Ctl) : ScalarRow (.psetg p a x) x false 0 fun v => .p p (v.rg a != 0)
  | prd (d : Reg) (x : Ctl) : ScalarRow (.prd d x) x false 0 fun v => .g d (BitVec.ofNat 64 ((List.finRange 8).map fun j => if v.rp j then 2 ^ j.val else 0).sum)
  | cMv (d : Reg) (a : Reg) : ScalarRow (.cMv d a) Ctl.plain true 0 fun v => .g d (v.rg a)
  | cLi (d : Reg) (i : BitVec 6) : ScalarRow (.cLi d i) Ctl.plain true 0 fun _ => .g d (i.signExtend 64)
  | cAddi (d : Reg) (i : BitVec 6) : ScalarRow (.cAddi d i) Ctl.plain true 0 fun v => .g d (v.rg d + i.signExtend 64)
  | cAdd (d : Reg) (a : Reg) : ScalarRow (.cAdd d a) Ctl.plain true 0 fun v => .g d (v.rg d + v.rg a)
  | cSub (d : Reg) (a : Reg) : ScalarRow (.cSub d a) Ctl.plain true 0 fun v => .g d (v.rg d - v.rg a)
  | cAnd (d : Reg) (a : Reg) : ScalarRow (.cAnd d a) Ctl.plain true 0 fun v => .g d (v.rg d &&& v.rg a)
  | cOr (d : Reg) (a : Reg) : ScalarRow (.cOr d a) Ctl.plain true 0 fun v => .g d (v.rg d ||| v.rg a)
  | cXor (d : Reg) (a : Reg) : ScalarRow (.cXor d a) Ctl.plain true 0 fun v => .g d (v.rg d ^^^ v.rg a)
  | cSlli (d : Reg) (h : BitVec 6) : ScalarRow (.cSlli d h) Ctl.plain true 0 fun v => .g d (v.rg d <<< h.toNat)
  | cSrli (d : Reg) (h : BitVec 6) : ScalarRow (.cSrli d h) Ctl.plain true 0 fun v => .g d (v.rg d >>> h.toNat)
  | cSrai (d : Reg) (h : BitVec 6) : ScalarRow (.cSrai d h) Ctl.plain true 0 fun v => .g d ((v.rg d).sshiftRight h.toNat)

/-- How many of the low `n` bits are set. -/
def setBits (v : Word) (n : Nat) : Nat := (List.range n).countP fun i => v.getLsbD i

/-- The field that gb describes (R65): its low bit, and its width cut at bit 63. -/
def fieldLow (b : Word) : Nat := (b.extractLsb' 0 6).toNat
/-- Its width. -/
def fieldWidth (b : Word) : Nat := min (b.extractLsb' 8 7).toNat (64 - fieldLow b)

/-- `BitRule i d x lat P`: the bit operation `i` writes to `d` a value that stands in relation `P` to its sequencer's registers, bit by
bit as the rules say it (R60, R64, R65). -/
inductive BitRule : Instr → Reg → Ctl → Nat → (Seq → Word → Prop) → Prop
  | popc (d a : Reg) (x : Ctl) : BitRule (.popc d a x) d x 1 fun v r => r.toNat = setBits (v.rg a) 64
  | clzNone (d a : Reg) (x : Ctl) : BitRule (.clz d a x) d x 1 fun v r => v.rg a = 0 → r = 64
  | clz (d a : Reg) (x : Ctl) (h : Nat) : BitRule (.clz d a x) d x 1 fun v r =>
      h < 64 → (v.rg a).getLsbD h = true → (∀ j, h < j → (v.rg a).getLsbD j = false) → r.toNat = 63 - h
  | ctzNone (d a : Reg) (x : Ctl) : BitRule (.ctz d a x) d x 1 fun v r => v.rg a = 0 → r = 64
  | ctz (d a : Reg) (x : Ctl) (h : Nat) : BitRule (.ctz d a x) d x 1 fun v r =>
      h < 64 → (v.rg a).getLsbD h = true → (∀ j, j < h → (v.rg a).getLsbD j = false) → r.toNat = h
  | brev (d a : Reg) (x : Ctl) : BitRule (.brev d a x) d x 0 fun v r => ∀ i, i < 64 → r.getLsbD i = (v.rg a).getLsbD (63 - i)
  | bswap (d a : Reg) (x : Ctl) : BitRule (.bswap d a x) d x 0 fun v r =>
      ∀ j, j < 8 → r.extractLsb' (8 * j) 8 = (v.rg a).extractLsb' (8 * (7 - j)) 8
  | sextB (d a : Reg) (x : Ctl) : BitRule (.sextB d a x) d x 0 fun v r => r = ((v.rg a).setWidth 8).signExtend 64
  | sextH (d a : Reg) (x : Ctl) : BitRule (.sextH d a x) d x 0 fun v r => r = ((v.rg a).setWidth 16).signExtend 64
  | sextW (d a : Reg) (x : Ctl) : BitRule (.sextW d a x) d x 0 fun v r => r = ((v.rg a).setWidth 32).signExtend 64
  | zextB (d a : Reg) (x : Ctl) : BitRule (.zextB d a x) d x 0 fun v r => r = ((v.rg a).setWidth 8).setWidth 64
  | zextH (d a : Reg) (x : Ctl) : BitRule (.zextH d a x) d x 0 fun v r => r = ((v.rg a).setWidth 16).setWidth 64
  | zextW (d a : Reg) (x : Ctl) : BitRule (.zextW d a x) d x 0 fun v r => r = ((v.rg a).setWidth 32).setWidth 64
  | fnsNone (d a b : Reg) (x : Ctl) : BitRule (.fns d a b x) d x 1 fun v r => setBits (v.rg a) 64 ≤ (v.rg b).toNat → r = 64
  | fns (d a b : Reg) (x : Ctl) (i : Nat) : BitRule (.fns d a b x) d x 1 fun v r =>
      i < 64 → (v.rg a).getLsbD i = true → setBits (v.rg a) i = (v.rg b).toNat → r.toNat = i
  | fshl (d a b : Reg) (x : Ctl) : BitRule (.fshl d a b x) d x 1 fun v r =>
      r = ((v.rg d ++ v.rg a) <<< ((v.rg b).extractLsb' 0 6).toNat).extractLsb' 64 64
  | fshr (d a b : Reg) (x : Ctl) : BitRule (.fshr d a b x) d x 1 fun v r =>
      r = ((v.rg a ++ v.rg d) >>> ((v.rg b).extractLsb' 0 6).toNat).extractLsb' 0 64
  | bfx (d a b : Reg) (x : Ctl) : BitRule (.bfx d a b x) d x 1 fun v r =>
      ∀ i, i < 64 → r.getLsbD i = (decide (i < fieldWidth (v.rg b)) && (v.rg a).getLsbD (fieldLow (v.rg b) + i))
  | bfxs (d a b : Reg) (x : Ctl) : BitRule (.bfxs d a b x) d x 1 fun v r =>
      ∀ i, i < 64 → r.getLsbD i = (decide (0 < fieldWidth (v.rg b))
        && (v.rg a).getLsbD (fieldLow (v.rg b) + min i (fieldWidth (v.rg b) - 1)))
  | bfi (d a b : Reg) (x : Ctl) : BitRule (.bfi d a b x) d x 1 fun v r =>
      ∀ i, i < 64 → r.getLsbD i = if fieldLow (v.rg b) ≤ i ∧ i < fieldLow (v.rg b) + fieldWidth (v.rg b)
        then (v.rg a).getLsbD (i - fieldLow (v.rg b)) else (v.rg d).getLsbD i

end Sys2Proof.Rules
end

