-- ==== Sys2Proof/Rules/System.lean ====
section
/-!
DEFINITION. The instructions over system registers, traps, events and context images as their rules give them (R11, R12, R42, R77, R78,
R250, R291, R348, R360, R366 to R391, R400).
-/
namespace Sys2Proof.Rules
open Sys2Proof.Machine

/-- MFS of k0 to k3 by L, C or S while a tape records sets the tape's KREAD (R348); any other MFS leaves the tapes. -/
def readMark (s : State) (r : Nat) : State :=
  s.modCore s.turn.core fun c =>
    match c.tapePhase, c.iter with
    | .recording, some { tape := some t, .. } =>
      if 0x48 ≤ r ∧ r ≤ 0x4B ∧ s.turn.sq ≠ .X then { c with tapes := c.tapes.set t.val { c.tapes.get t with kread := true } t.isLt } else c
    | _, _ => c

/-- The ATOMFLAGS of the tenancy of the core whose turn it is without the flags of `v` (R250). -/
def flagsCleared (s : State) (v : BitVec 32) : State :=
  let t := (s.tenOf s.turn.core).toFin
  { s with atomflags := s.atomflags.set t.val (s.atomflags.get t &&& ~~~v) t.isLt }

/-- MFS and MTS (R77, R78). -/
inductive SysregRow : Instr → Effect → Prop
  | mfs (d : Reg) (r : BitVec 12) (x : Ctl) (h : sysAssigned r.toNat = true) : SysregRow (.mfs d r x)
      { x := x, lat := 1
        clear := fun s => (r = 0 → s.me.flagsPending s.turn.sq = false) ∧ (r = 0x108 → s.amoOut s.turn = false)
        gives := fun cx s => (readMark s r.toNat).fly cx 0 false [.g d (BitVec.ofNat 64 ((readMark s r.toNat).sysRead s.turn r.toNat))] }
  | lc (d : Reg) (i : Fin 3) (x : Ctl) : SysregRow (.mts d (BitVec.ofNat 12 (1 + i.val)) x)
      { x := x, gives := fun _ s => s.modSeq s.turn fun v => (v.setLc i.val ((s.mine.rg d).setWidth 32)).setLcclass i.val (v.gclass d) }
  | hand (d : Reg) (i : Fin 8) (x : Ctl) : SysregRow (.mts d (BitVec.ofNat 12 (0x40 + i.val)) x)
      { x := x, clear := fun s => s.turn.sq = .X
        gives := fun _ s => s.modCore s.turn.core fun c => { c with hLate := c.hLate ++ [(i, s.mine.rg d, s.cycle)] } }
  | acct (d : Reg) (x : Ctl) : SysregRow (.mts d 0x4C x)
      { x := x, clear := fun s => s.turn.sq = .C, when := fun _ s => ((s.mine.rg d).setWidth 32).toNat < 8
        gives := fun _ s => s.modCore s.turn.core fun c => { c with acct := (s.mine.rg d).setWidth 32 } }
  | vwb (d : Reg) (x : Ctl) : SysregRow (.mts d 0x4D x)
      { x := x, clear := fun s => s.turn.sq = .C, when := fun _ s => ((s.mine.rg d).setWidth 32).toNat < 128
        gives := fun _ s => s.modCore s.turn.core fun c => { c with vwb := (s.mine.rg d).setWidth 32 } }
  | trapvec (d : Reg) (x : Ctl) : SysregRow (.mts d 0x103 x)
      { x := x, clear := fun s => s.turn.sq = .X, when := fun _ s => (s.mine.rg d).getLsbD 0 = false
        gives := fun _ s => s.modCore s.turn.core fun c => { c with trapvec := s.mine.rg d } }
  | epc (d : Reg) (i : Fin 4) (x : Ctl) : SysregRow (.mts d (BitVec.ofNat 12 (0x110 + i.val)) x)
      { x := x, clear := fun s => s.turn.sq = .X ∧ s.me.inTrap = true, when := fun _ s => (s.mine.rg d).getLsbD 0 = false
        gives := fun _ s => s.modCore s.turn.core fun c => { c with epc := c.epc.set i.val (s.mine.rg d) i.isLt } }
  | fpstat (d : Reg) (x : Ctl) : SysregRow (.mtsFpstat d x)
      { x := x, clear := fun s => s.me.flagsPending s.turn.sq = false, when := fun _ s => ((s.mine.rg d).setWidth 32).toNat < 64
        gives := fun _ s => s.modSeq s.turn fun v => { v with fpstat := (s.mine.rg d).setWidth 32 } }
  | atomflags (d : Reg) (x : Ctl) : SysregRow (.mtsAtomflags d x)
      { x := x, clear := fun s => s.turn.sq = .X ∧ s.amoOut s.turn = false, when := fun _ s => ((s.mine.rg d).setWidth 32).toNat < 32
        gives := fun _ s => flagsCleared s ((s.mine.rg d).setWidth 32) }
  | engerr (d : Reg) (x : Ctl) : SysregRow (.mtsEngerr d x)
      { x := x, when := fun _ s => s.mine.rg d = 0
        gives := fun _ s => s.modCore s.turn.core fun c => { c with engerr := 0, engerrva := 0 } }
  | derr (d : Reg) (x : Ctl) : SysregRow (.mtsDerr d x)
      { x := x, when := fun _ s => s.mine.rg d = 0
        gives := fun _ s => s.modCore s.turn.core fun c => { c with derr := 0, derrva := 0 } }
  | rpstat (d : Reg) (x : Ctl) : SysregRow (.mtsRpstat d x)
      { x := x, clear := fun s => s.turn.sq = .X, when := fun _ s => s.mine.rg d &&& ~~~0x40000000#64 = 0
        gives := fun _ s => s.modCore s.turn.core fun c => { c with rpstat := (c.rpstat &&& ~~~0x40000000#64) ||| s.mine.rg d } }

/-- X's registers as they were saved, and every sequencer that has not ended at its EPC (R370, R387). -/
def returned (s : State) : State :=
  s.modCore s.turn.core fun k =>
    let v := k.xsave
    let k := k.modSeq .X fun q =>
      { q with g := v.g, p := v.p, lc := v.lc, fpstat := v.fpstat, blocks := v.blocks, ended := v.ended }
    let k := k.modSeqs fun q w => if w.ended then w else { w with pc := k.epc.get (Fin.ofNat 4 (sqIndex q)) }
    { k with trapcause := k.trapcause &&& 0x7FFFFFFF, resumeAt := s.cycle + 1 }

/-- TRAP, RTE, SNAPRD and WFE (R370, R384 to R391). -/
inductive TrapRow : Instr → Effect → Prop
  | trap (a : Reg) (x : Ctl) : TrapRow (.trap a x)
      { x := x, clear := fun s => s.me.inTrap = false, when := fun _ s => s.me.stop = none
        gives := fun _ s => s.raise s.turn { cause := .soft, det := 0, va := (s.mine.rg a).toNat } }
  | rte (x : Ctl) : TrapRow (.rte x)
      { x := x, qs := [.X], clear := fun s => s.me.inTrap = true ∧ ∀ f ∈ s.me.flights, f.sq ≠ .X
        when := fun _ s => s.mine.blocks = []
        gives := fun _ s =>
          let t := returned (s.rteReplay s.turn.core)
          if t.me.tapePhase == .replaying then t
          else [Sq.L, .C, .S].foldl (fun t q => t.endTest { core := s.turn.core, sq := q }) t
        flow := fun _ _ => .set }
  | snaprd (d a : Reg) (x : Ctl) : TrapRow (.snaprd d a x)
      { x := x, lat := 1, qs := [.X]
        when := fun _ s => (s.mine.rg a).toNat < 2 ^ 15 ∧ (s.mine.rg a).toNat / 128 % 2 = 0
        gives := fun cx s => s.fly cx 0 false [.g d (
          match s.me.snap[(s.mine.rg a).toNat % 128]? with
          | none => 0
          | some e => if (s.mine.rg a).toNat / 256 % 128 ≤ 72 then e.dword ((s.mine.rg a).toNat / 256 % 128) else 0)] }
  | wfe (d a : Reg) (x : Ctl) : TrapRow (.wfe d a x)
      { x := x, lat := 1, clear := fun s => wfeEvents (s.issuing x false 1) s a ≠ 0
        gives := fun cx s => (s.modSeq s.turn fun v => { v with eventLatch := false }).fly cx 0 false
          [.g d (BitVec.ofNat 64 (wfeEvents cx s a))] }

/-- Poisoned reads of an image are recorded at their addresses (R397, R400). -/
def noted (u : State) (c : CoreId) (vas : List Nat) : State :=
  u.modCore c fun k => vas.foldl (fun k va => k.derrRecord 1 va) k

/-- A status goes into flight (R389). -/
def statusOf (cx : Cx) (u : State) (d : Reg) (st : Nat) : State :=
  ({ u with free := u.free + 1 } : State).fly cx u.deliverAt false [.g d (BitVec.ofNat 64 st)]

/-- The header of the image at ga reads as `head`, leaving `u` with what was poisoned recorded. -/
def headerRead (cx : Cx) (s : State) (a : Reg) (it : Iter) (head : List Byte) (u : State) : Prop :=
  (s.mine.rg a).toNat % 4096 = 0 ∧ s.me.iter = some it
    ∧ ∃ p v, s.readVa (cx.actor s) cx.who.core it.ten (s.mine.rg a).toNat 256 = (.ok (head, p), v) ∧ u = noted v cx.who.core p.toList

/-- The other sections read as `im`, leaving `w`. -/
def sectionsRead (cx : Cx) (s : State) (a : Reg) (it : Iter) (head : List Byte) (u : State) (im : ImageData) (w : State) : Prop :=
  ∃ ps v, u.readImage (cx.actor s) cx.who.core it.ten (s.mine.rg a).toNat head (u.core cx.who.core).vwb = (.ok (im, ps), v)
    ∧ w = noted v cx.who.core ps

/-- The tapes of a core are EMPTY, where the image that it takes has one of its own. -/
def tapesGone (w : State) (c : CoreId) (head : List Byte) : State :=
  if at_ head 6 2 / 2 % 2 = 1 then (List.finRange 16).foldl (fun s t => s.emptyTape c t 7) w else w

/-- CTXSV and CTXRS in an iteration (R371, R388, R389): `it` is the iteration, `u` the state after the header's read, `w` that after the
others; an image that is not of the stopped iteration, or not whole, is refused with its status. -/
inductive ImageRow : Instr → Effect → Prop
  | ctxsv (d a : Reg) (x : Ctl) (it : Iter) (u v : State) : ImageRow (.ctxsv d a x)
      { x := x, qs := [.X], acc := [.core], clear := fun s => s.me.inTrap = true
        when := fun cx s => (s.mine.rg d).toNat < 2 ^ 32 ∧ maskWordOk ((s.mine.rg d).setWidth 32) = true
          ∧ (s.mine.rg a).toNat % 4096 = 0 ∧ s.me.iter = some it
          ∧ s.writeVa (cx.actor s) s.turn.core it.ten
              ((s.me.imageSections s.turn.core it ((s.mine.rg d).setWidth 32) (s.me.seqImages (fun _ => (s.mine.rg d).setWidth 32) true) false).map
                fun p => ((s.mine.rg a).toNat + p.1, p.2)) = (.ok u, v)
        gives := fun _ _ => u }
  | ctxrsHead (d a : Reg) (x : Ctl) (it : Iter) (head : List Byte) (u : State) : ImageRow (.ctxrs d a x)
      { x := x, lat := 7, qs := [.X], acc := [.core], clear := fun s => s.me.inTrap = true
        when := fun cx s => headerRead cx s a it head u ∧ headStatus head cx.who.core it ≠ 0
        gives := fun cx _ => statusOf cx u d (headStatus head cx.who.core it) }
  | ctxrsRefused (d a : Reg) (x : Ctl) (it : Iter) (head : List Byte) (im : ImageData) (u w : State) : ImageRow (.ctxrs d a x)
      { x := x, lat := 7, qs := [.X], acc := [.core], clear := fun s => s.me.inTrap = true
        when := fun cx s => headerRead cx s a it head u ∧ headStatus head cx.who.core it = 0 ∧ sectionsRead cx s a it head u im w
          ∧ imageStatus im cx.who.core it (w.core cx.who.core).ntlocks ≠ 0
        gives := fun cx _ => statusOf cx w d (imageStatus im cx.who.core it (w.core cx.who.core).ntlocks) }
  | ctxrs (d a : Reg) (x : Ctl) (it : Iter) (head : List Byte) (im : ImageData) (u w : State) : ImageRow (.ctxrs d a x)
      { x := x, lat := 7, qs := [.X], acc := [.core], clear := fun s => s.me.inTrap = true
        when := fun cx s => headerRead cx s a it head u ∧ headStatus head cx.who.core it = 0 ∧ sectionsRead cx s a it head u im w
          ∧ imageStatus im cx.who.core it (w.core cx.who.core).ntlocks = 0
        gives := fun cx _ =>
          statusOf cx ((tapesGone w cx.who.core head).modCore cx.who.core fun k =>
            let k : Core := k.restoreCore im
            let v : Seq := restoreSeq { k.sX with g := k.xsave.g, p := k.xsave.p, lc := k.xsave.lc, fpstat := k.xsave.fpstat } (im.seqBytes 0)
            let k : Core := { k with
              xsave := { g := v.g, p := v.p, lc := v.lc, fpstat := v.fpstat, blocks := v.blocks, ended := v.ended }
              epc := Vector.ofFn fun i => evenAt (im.seqBytes i.val) 256
              replayTape := if at_ im.head 6 2 / 2 % 2 = 1 then some (parseTape im.tape) else k.replayTape
              tapePhase := if at_ im.head 6 2 / 2 % 2 = 1 then .replaying
                else if k.tapePhase = .replaying then .finished else k.tapePhase }
            k.modSeqs fun (q : Sq) (v : Seq) => if q = .X then v else restoreSeq v (im.seqBytes (sqIndex q))) d 0 }

end Sys2Proof.Rules
end

