-- ==== Sys2Proof/Rules/Vector.lean ====
section
/-!
DEFINITION. The vector instructions as their rules give them (R105, R154 to R177, R325): the rows and masks that each reads, its results,
and the TYPE codes that it accepts.
-/
namespace Sys2Proof.Rules
open Sys2Proof.Machine

/-- A vector instruction (R158, R160, R161, R399): C alone issues it, when the special-function unit is free if it needs it; it counts
and records the poisoned sectors of the rows `srcs` that it reads, and computes `rs` from the core and the registers as it issues. -/
def vecEffect (x : Ctl) (lat : Nat) (sfu : Bool) (srcs : List VReg) (bad : LaneKind → Bool) (rs : Vx → Seq → List Result) : Effect :=
  { x := x, lat := lat, qs := [.C], clear := fun s => sfu = true → s.me.sfuBusy ≤ s.cycle
    when := fun _ s => bad s.me.lane = false
    gives := fun cx s =>
      ((s.noteRows s.turn.core (srcs.map s.me.vrow)).modCore s.turn.core fun c =>
        { c with sfuBusy := if sfu then s.cycle + 4 else c.sfuBusy }).fly cx 0 false
          (rs { c := s.me, flush := cx.exposed } s.mine) }

/-- One that gives each lane of `d` that m0 selects a value of the same lanes of its sources (R157). -/
def laneEffect (x : Ctl) (lat : Nat) (sfu : Bool) (d : VReg) (srcs : List VReg) (bad : LaneKind → Bool)
    (f : LaneKind → Bool → List Nat → Nat × BitVec 6) : Effect :=
  vecEffect x lat sfu srcs bad fun v _ =>
    let rs := (List.range v.k.n).map fun j =>
      if v.sel.getD j false then f v.k v.flush ((srcs.map v.lanes).map fun l => l.getD j 0) else (0, 0)
    [v.put d v.k.w (rs.map Prod.fst) v.sel (orFlags rs)]

/-- A reduction or scan in groups of lanes (R149, R171, R172): a lane that m0 does not select counts as the identity, and every lane of
`d` is written. -/
def foldEffect (x : Ctl) (lat : Nat) (d a : VReg) (g : BitVec 3) (scan : Bool) (bad : LaneKind → Bool) (fo : LaneKind → Bool → Fold) :
    Effect :=
  vecEffect x lat false [a] (fun k => bad k || decide (groupSize k.n g > k.n)) fun v _ =>
    let o := fo v.k v.flush
    let xs := (List.range v.k.n).map fun j => if v.sel.getD j false then o.leaf ((v.lanes a).getD j 0) else o.unit
    let k := groupSize v.k.n g
    let gs := (List.range (v.k.n / k)).map fun j =>
      if scan then scanFrom o.op o.unit ((xs.drop (j * k)).take k)
      else (List.replicate k ((tree o.op 9 ((xs.drop (j * k)).take k)).1.headD 0), (tree o.op 9 ((xs.drop (j * k)).take k)).2)
    [v.putAll d (packLanes v.k.w (gs.flatMap Prod.fst)) (gs.foldl (fun acc r => acc ||| r.2) 0)]

/-- The instructions that work lane by lane (R162, R163, R166, R167). -/
inductive LaneRow : Instr → Effect → Prop
  | vadd (v a b : VReg) (x : Ctl) : LaneRow (.vadd v a b x)
      (laneEffect x 2 false v [a, b] anyType (byType (fun f fl => two (f.add 0 fl)) (fun _ => two fun p q => p + q)))
  | vsub (v a b : VReg) (x : Ctl) : LaneRow (.vsub v a b x)
      (laneEffect x 2 false v [a, b] anyType (byType (fun f fl => two (f.sub 0 fl)) (fun n => two fun p q => p + (2 ^ n - q))))
  | vmul (v a b : VReg) (x : Ctl) : LaneRow (.vmul v a b x)
      (laneEffect x 3 false v [a, b] anyType (byType (fun f fl => two (f.mul 0 fl)) (fun _ => two fun p q => p * q)))
  | vfma (v a b : VReg) (x : Ctl) : LaneRow (.vfma v a b x)
      (laneEffect x 3 false v [a, b, v] anyType (byType (fun f fl => three (f.fma 0 fl)) (fun _ => three fun p q r => p * q + r)))
  | vmin (v a b : VReg) (x : Ctl) : LaneRow (.vmin v a b x)
      (laneEffect x 2 false v [a, b] anyType (byType (fun f fl => two (f.minMax fl false false)) (fun n => two fun p q => if sextNat n p ≤ sextNat n q then p else q)))
  | vmax (v a b : VReg) (x : Ctl) : LaneRow (.vmax v a b x)
      (laneEffect x 2 false v [a, b] anyType (byType (fun f fl => two (f.minMax fl true false)) (fun n => two fun p q => if sextNat n q ≤ sextNat n p then p else q)))
  | vminn (v a b : VReg) (x : Ctl) : LaneRow (.vminn v a b x)
      (laneEffect x 2 false v [a, b] anyType (byType (fun f fl => two (f.minMax fl false true)) (fun _ => two fun p q => min p q)))
  | vmaxn (v a b : VReg) (x : Ctl) : LaneRow (.vmaxn v a b x)
      (laneEffect x 2 false v [a, b] anyType (byType (fun f fl => two (f.minMax fl true true)) (fun _ => two fun p q => max p q)))
  | vand (v a b : VReg) (x : Ctl) : LaneRow (.vand v a b x)
      (laneEffect x 1 false v [a, b] anyType (bitwise fun _ => two fun p q => p &&& q))
  | vor (v a b : VReg) (x : Ctl) : LaneRow (.vor v a b x)
      (laneEffect x 1 false v [a, b] anyType (bitwise fun _ => two fun p q => p ||| q))
  | vxor (v a b : VReg) (x : Ctl) : LaneRow (.vxor v a b x)
      (laneEffect x 1 false v [a, b] anyType (bitwise fun _ => two fun p q => p ^^^ q))
  | vandn (v a b : VReg) (x : Ctl) : LaneRow (.vandn v a b x)
      (laneEffect x 1 false v [a, b] anyType (bitwise fun n => two fun p q => p &&& (2 ^ n - 1 - q)))
  | vsll (v a b : VReg) (x : Ctl) : LaneRow (.vsll v a b x)
      (laneEffect x 2 false v [a, b] anyType (bitwise fun n => two fun p q => p * 2 ^ (q % n)))
  | vsrl (v a b : VReg) (x : Ctl) : LaneRow (.vsrl v a b x)
      (laneEffect x 2 false v [a, b] anyType (bitwise fun n => two fun p q => p / 2 ^ (q % n)))
  | vsra (v a b : VReg) (x : Ctl) : LaneRow (.vsra v a b x)
      (laneEffect x 2 false v [a, b] anyType (bitwise fun n => two fun p q => wrapInt n (sextNat n p / 2 ^ (q % n))))
  | vfshl (v a b : VReg) (x : Ctl) : LaneRow (.vfshl v a b x)
      (laneEffect x 2 false v [a, b, v] anyType (bitwise fun n => three fun p q r => (r * 2 ^ n + p) * 2 ^ (q % n) / 2 ^ n))
  | vfshr (v a b : VReg) (x : Ctl) : LaneRow (.vfshr v a b x)
      (laneEffect x 2 false v [a, b, v] anyType (bitwise fun n => three fun p q r => (p * 2 ^ n + r) / 2 ^ (q % n)))
  | vabsd (v a b : VReg) (x : Ctl) : LaneRow (.vabsd v a b x)
      (laneEffect x 2 false v [a, b] anyType (byType (fun f fl => two fun p q => ((clearSign f.width (f.sub 0 fl p q).1), (f.sub 0 fl p q).2)) (fun n => two fun p q => (sextNat n p - sextNat n q).natAbs)))
  | vneg (v a : VReg) (x : Ctl) : LaneRow (.vneg v a x)
      (laneEffect x 1 false v [a] anyType (fun k _ => one fun p => (if k.fmt.isSome then p ^^^ 2 ^ (k.bits - 1) else (2 ^ k.bits - p) % 2 ^ k.bits, 0)))
  | vabs (v a : VReg) (x : Ctl) : LaneRow (.vabs v a x)
      (laneEffect x 1 false v [a] anyType (fun k _ => one fun p => (if k.fmt.isSome then clearSign k.bits p else absInt k.bits p, 0)))
  | vmov (v a : VReg) (x : Ctl) : LaneRow (.vmov v a x) (laneEffect x 1 false v [a] anyType (fun _ _ => one fun p => (p, 0)))
  | vpopc (v a : VReg) (x : Ctl) : LaneRow (.vpopc v a x)
      (laneEffect x 2 false v [a] anyType (fun k _ => one fun p => (popCount p k.bits, 0)))
  | vclz (v a : VReg) (x : Ctl) : LaneRow (.vclz v a x)
      (laneEffect x 2 false v [a] anyType (fun k _ => one fun p => (leadingZeros p k.bits, 0)))
  | vctz (v a : VReg) (x : Ctl) : LaneRow (.vctz v a x)
      (laneEffect x 2 false v [a] anyType (fun k _ => one fun p => (trailingZeros p k.bits, 0)))
  | vbrev (v a : VReg) (x : Ctl) : LaneRow (.vbrev v a x)
      (laneEffect x 2 false v [a] anyType (fun k _ => one fun p => (reverseBits p k.bits, 0)))
  | vsqrt (v a : VReg) (x : Ctl) : LaneRow (.vsqrt v a x)
      (laneEffect x 6 true v [a] floatOnly (byType (fun f fl => one (f.special .sqrt fl)) fun _ _ => 0))
  | vrcp (v a : VReg) (x : Ctl) : LaneRow (.vrcp v a x)
      (laneEffect x 6 true v [a] floatOnly (byType (fun f fl => one (f.special .rcp fl)) fun _ _ => 0))
  | vrsqrt (v a : VReg) (x : Ctl) : LaneRow (.vrsqrt v a x)
      (laneEffect x 6 true v [a] smallFloat (byType (fun f fl => one (f.special .rsqrt fl)) fun _ _ => 0))
  | vexp (v a : VReg) (x : Ctl) : LaneRow (.vexp v a x)
      (laneEffect x 6 true v [a] smallFloat (byType (fun f fl => one (f.special .exp fl)) fun _ _ => 0))
  | vexp2 (v a : VReg) (x : Ctl) : LaneRow (.vexp2 v a x)
      (laneEffect x 6 true v [a] smallFloat (byType (fun f fl => one (f.special .exp2 fl)) fun _ _ => 0))
  | vlog (v a : VReg) (x : Ctl) : LaneRow (.vlog v a x)
      (laneEffect x 6 true v [a] smallFloat (byType (fun f fl => one (f.special .log fl)) fun _ _ => 0))
  | vlog2 (v a : VReg) (x : Ctl) : LaneRow (.vlog2 v a x)
      (laneEffect x 6 true v [a] smallFloat (byType (fun f fl => one (f.special .log2 fl)) fun _ _ => 0))
  | vtanh (v a : VReg) (x : Ctl) : LaneRow (.vtanh v a x)
      (laneEffect x 6 true v [a] smallFloat (byType (fun f fl => one (f.special .tanh fl)) fun _ _ => 0))
  | vsigm (v a : VReg) (x : Ctl) : LaneRow (.vsigm v a x)
      (laneEffect x 6 true v [a] smallFloat (byType (fun f fl => one (f.special .sigm fl)) fun _ _ => 0))
  | vsin (v a : VReg) (x : Ctl) : LaneRow (.vsin v a x)
      (laneEffect x 6 true v [a] smallFloat (byType (fun f fl => one (f.special .sin fl)) fun _ _ => 0))
  | vcos (v a : VReg) (x : Ctl) : LaneRow (.vcos v a x)
      (laneEffect x 6 true v [a] smallFloat (byType (fun f fl => one (f.special .cos fl)) fun _ _ => 0))

/-- Of a conversion to `dk` in part `p`, the source lane of destination lane `i` (R168). -/
def convertFrom (sk dk : LaneKind) (p : BitVec 2) (i : Nat) : Option Nat :=
  if sk.w > dk.w then (if p.toNat * sk.n ≤ i ∧ i < p.toNat * sk.n + sk.n then some (i - p.toNat * sk.n) else none)
  else some (p.toNat * dk.n + i)

/-- The lanes of a softmax state after one step, or none where a lane does not change, and its flags. -/
def stateLanes (v : Vx) (f : Nat → Option (List Nat) × BitVec 6) : List (Option (List Nat) × BitVec 6) :=
  (List.range 128).map fun i => if v.sel.getD i false then f i else (none, 0)

/-- The results that write them to the rows from `d` on. -/
def stateResults (v : Vx) (d : VReg) (n : Nat) (rs : List (Option (List Nat) × BitVec 6)) : List Result :=
  (List.range n).map fun j =>
    v.put (vplus d j) 4 (rs.map fun r => match r.1 with | some l => l.getD j 0 | none => 0) (rs.map fun r => r.1.isSome)
      (if j = 0 then rs.foldl (fun acc r => acc ||| r.2) 0 else 0)

/-- The other vector instructions on rows and masks (R162, R164, R165, R168 to R176, R325). -/
inductive VectorRow : Instr → Effect → Prop
  | mand (m n o : MReg) (x : Ctl) : VectorRow (.mand m n o x)
      (vecEffect x 1 false [] anyType fun y _ => [Result.mask m (y.c.mask n &&& y.c.mask o) 0])
  | mor (m n o : MReg) (x : Ctl) : VectorRow (.mor m n o x)
      (vecEffect x 1 false [] anyType fun y _ => [Result.mask m (y.c.mask n ||| y.c.mask o) 0])
  | mxor (m n o : MReg) (x : Ctl) : VectorRow (.mxor m n o x)
      (vecEffect x 1 false [] anyType fun y _ => [Result.mask m (y.c.mask n ^^^ y.c.mask o) 0])
  | mandn (m n o : MReg) (x : Ctl) : VectorRow (.mandn m n o x)
      (vecEffect x 1 false [] anyType fun y _ => [Result.mask m (y.c.mask n &&& ~~~(y.c.mask o)) 0])
  | mnot (m n : MReg) (x : Ctl) : VectorRow (.mnot m n x) (vecEffect x 1 false [] anyType fun y _ => [Result.mask m (~~~(y.c.mask n)) 0])
  | vrsum (v a : VReg) (g : BitVec 3) (x : Ctl) : VectorRow (.vrsum v a g x) (foldEffect x 4 v a g false anyType foldSum)
  | vrmax (v a : VReg) (g : BitVec 3) (x : Ctl) : VectorRow (.vrmax v a g x) (foldEffect x 4 v a g false anyType foldMax)
  | vrmin (v a : VReg) (g : BitVec 3) (x : Ctl) : VectorRow (.vrmin v a g x) (foldEffect x 4 v a g false anyType foldMin)
  | vrmaxu (v a : VReg) (g : BitVec 3) (x : Ctl) : VectorRow (.vrmaxu v a g x)
      (foldEffect x 4 v a g false intOnly (foldBits (fun _ => 0) max))
  | vrminu (v a : VReg) (g : BitVec 3) (x : Ctl) : VectorRow (.vrminu v a g x)
      (foldEffect x 4 v a g false intOnly (foldBits (fun n => 2 ^ n - 1) min))
  | vrmaxa (v a : VReg) (g : BitVec 3) (x : Ctl) : VectorRow (.vrmaxa v a g x) (foldEffect x 4 v a g false anyType foldMaxA)
  | vror (v a : VReg) (g : BitVec 3) (x : Ctl) : VectorRow (.vror v a g x)
      (foldEffect x 4 v a g false anyType (foldBits (fun _ => 0) fun p q => p ||| q))
  | vrand (v a : VReg) (g : BitVec 3) (x : Ctl) : VectorRow (.vrand v a g x)
      (foldEffect x 4 v a g false anyType (foldBits (fun n => 2 ^ n - 1) fun p q => p &&& q))
  | vrxor (v a : VReg) (g : BitVec 3) (x : Ctl) : VectorRow (.vrxor v a g x)
      (foldEffect x 4 v a g false anyType (foldBits (fun _ => 0) fun p q => p ^^^ q))
  | vscan (v a : VReg) (g : BitVec 3) (x : Ctl) : VectorRow (.vscan v a g x) (foldEffect x 5 v a g true anyType foldSum)
  | vscanmax (v a : VReg) (g : BitVec 3) (x : Ctl) : VectorRow (.vscanmax v a g x) (foldEffect x 5 v a g true anyType foldMax)
  | vsel (v a b : VReg) (x : Ctl) : VectorRow (.vsel v a b x) (vecEffect x 1 false [a, b] anyType fun y _ =>
      [{ y.putAll v (packLanes 1 ((List.range 512).map fun j =>
          if (y.c.mask 1).getLsbD j then (lanesOf 1 512 (y.c.rowBytes (y.c.vrow a))).getD j 0
          else (lanesOf 1 512 (y.c.rowBytes (y.c.vrow b))).getD j 0)) 0 with en := laneMask y.k.w y.sel }])
  | vperm (v a b : VReg) (x : Ctl) : VectorRow (.vperm v a b x) (vecEffect x 2 false [a, b] anyType fun y _ =>
      [y.put v y.k.w ((y.lanes b).map fun i => (y.lanes a).getD (i % y.k.n) 0) y.sel 0])
  | vcmp (m : MReg) (a b : VReg) (c : Vcc) (x : Ctl) : VectorRow (.vcmp m a b c x) (vecEffect x 2 false [a, b] (vccBad c) fun y _ =>
      let rs := ((y.lanes a).zip (y.lanes b)).map fun l =>
        match y.k.fmt with
        | some f => f.compare y.flush c l.1 l.2
        | none => (vccInt c y.k.bits l.1 l.2, 0)
      [Result.mask m (laneMask y.k.w (rs.map Prod.fst)) (rs.foldl (fun acc r => acc ||| r.2) 0)])
  | msetl (m : MReg) (a : Reg) (x : Ctl) : VectorRow (.msetl m a x) (vecEffect x 1 false [] anyType fun y v =>
      [Result.mask m (laneMask y.k.w ((List.range y.k.n).map fun i => decide (i < (v.rg a).toNat))) 0])
  | mcnt (n : MReg) (a : Reg) (x : Ctl) : VectorRow (.mcnt n a x) (vecEffect x 1 false [] anyType fun y _ =>
      [Result.g a (BitVec.ofNat 64 ((List.range y.k.n).filter fun i => selects (y.c.mask n) y.k.w i).length)])
  | mffs (n : MReg) (a : Reg) (x : Ctl) : VectorRow (.mffs n a x) (vecEffect x 1 false [] anyType fun y _ =>
      [Result.g a (BitVec.ofNat 64 (((List.range y.k.n).find? fun i => selects (y.c.mask n) y.k.w i).getD y.k.n))])
  | vcvt (v a : VReg) (k : BitVec 3) (r p : BitVec 2) (x : Ctl) : VectorRow (.vcvt v a k r p x)
      (vecEffect x 2 false [a] (fun sk => widthRatio sk (laneKind k.toNat) == 8 || decide (p.toNat ≥ widthRatio sk (laneKind k.toNat))
          || (r != 0 && sk.fmt.isNone && (laneKind k.toNat).fmt.isNone)) fun y _ =>
        let dk := laneKind k.toNat
        let rs := (List.range dk.n).map fun i =>
          match convertFrom y.k dk p i with
          | some j => if y.sel.getD j false then convertLane y.k dk r y.flush ((y.lanes a).getD j 0) else (0, 0)
          | none => (0, 0)
        [y.put v dk.w (rs.map Prod.fst) ((List.range dk.n).map fun i =>
          match convertFrom y.k dk p i with
          | some j => y.sel.getD j false
          | none => false) (orFlags rs)])
  | vcvtef (v a e : VReg) (f : BitVec 2) (x : Ctl) (h : v ≠ e) : VectorRow (.vcvtef v a e f x)
      (vecEffect x 2 false [a] (fun k => k.fmt != some (efPair f).2) fun y _ =>
        let rs := (List.range y.k.n).map fun i =>
          if y.sel.getD i false then efLane (efPair f).1 (efPair f).2 y.flush ((y.lanes a).getD i 0) else (0, 0, 0)
        [y.put v ((efPair f).1.width / 8) (rs.map fun r => r.1) y.sel (rs.foldl (fun acc r => acc ||| r.2.2) 0),
          y.put e y.k.w (rs.map fun r => r.2.1) y.sel 0])
  | vcmpr (v a : VReg) (x : Ctl) : VectorRow (.vcmpr v a x) (vecEffect x 2 false [a] anyType fun y _ =>
      [y.putAll v (packLanes y.k.w (((y.lanes a).zip y.sel).filterMap fun l => if l.2 then some l.1 else none)) 0])
  | vexpd (v a : VReg) (x : Ctl) : VectorRow (.vexpd v a x) (vecEffect x 2 false [a] anyType fun y _ =>
      [y.put v y.k.w (expand y.sel (y.lanes a)) y.sel 0])
  | vbcast (v : VReg) (a : Reg) (x : Ctl) : VectorRow (.vbcast v a x) (vecEffect x 1 false [] anyType fun y w =>
      [y.put v y.k.w (List.replicate y.k.n (w.rg a).toNat) y.sel 0])
  | vextr (d : Reg) (v : VReg) (x : Ctl) : VectorRow (.vextr d v x) (vecEffect x 2 false [v] anyType fun y w =>
      [Result.g d (BitVec.ofNat 64 ((y.lanes v).getD ((w.rg d).toNat % y.k.n) 0))])
  | vfromm (v : VReg) (m : MReg) (x : Ctl) : VectorRow (.vfromm v m x) (vecEffect x 1 false [] anyType fun y _ =>
      [y.putAll v (packLanes 1 ((List.range 512).map fun j => if (y.c.mask m).getLsbD j then 255 else 0)) 0])
  | vtom (m : MReg) (a : VReg) (x : Ctl) : VectorRow (.vtom m a x) (vecEffect x 1 false [a] anyType fun y _ =>
      [Result.mask m (laneMask 1 ((lanesOf 1 512 (y.c.rowBytes (y.c.vrow a))).map fun p => p != 0)) 0])
  | viota (v : VReg) (x : Ctl) : VectorRow (.viota v x) (vecEffect x 1 false [] intOnly fun y _ =>
      [y.put v y.k.w (List.range y.k.n) y.sel 0])
  | vosm (v a b : VReg) (x : Ctl) : VectorRow (.vosm v a b x) (vecEffect x 6 true [v, vplus v 1, a, b] fp32Only fun y _ =>
      stateResults y v 2 (stateLanes y fun i =>
        let r := osmLane y.flush ((y.lanes v).getD i 0) ((y.lanes (vplus v 1)).getD i 0) ((y.lanes a).getD i 0) ((y.lanes b).getD i 0)
        (r.1.map fun l => [l.1, l.2], r.2)))
  | vlse (v a : VReg) (k : BitVec 5) (x : Ctl) (hk : k.toNat ≤ 14) (ho : lseOverlap v.val a.val k.toNat = false) :
      VectorRow (.vlse v a k x)
      (vecEffect x 6 true ((List.range (k.toNat + 2)).map (vplus v) ++ (List.range (k.toNat + 2)).map (vplus a)) fp32Only fun y _ =>
        stateResults y v (k.toNat + 2) (stateLanes y fun i =>
          lseLane y.flush ((List.range (k.toNat + 2)).map fun j => (y.lanes (vplus v j)).getD i 0)
            ((List.range (k.toNat + 2)).map fun j => (y.lanes (vplus a j)).getD i 0)))
  | vconf (m : MReg) (a b : VReg) (x : Ctl) : VectorRow (.vconf m a b x) (vecEffect x 2 false [a, vplus a 1, b] fp32Only fun y _ =>
      let rs := (List.range 128).map fun i =>
        if y.sel.getD i false then
          confLane y.flush ((y.lanes a).getD i 0) ((y.lanes (vplus a 1)).getD i 0) ((y.lanes b).getD i 0)
        else (false, 0)
      [Result.mask m (laneMask 4 (rs.map Prod.fst)) (rs.foldl (fun acc r => acc ||| r.2) 0)])

/-- What a vector instruction reads: the core and the block mode. -/
def vxOf (cx : Cx) (s : State) : Vx := { c := s.me, flush := cx.exposed }

/-- The items of VDEFER (R105): for each lane that m0 selects, the lane of `a`, the low 32 bits of the lane of `b`, and the lane's number,
as 64-bit words. -/
def deferred (y : Vx) (a b : VReg) : List (List Byte) :=
  ((List.range y.k.n).filter fun i => y.sel.getD i false).map fun i =>
    toBytes 8 ((y.lanes a).getD i 0) ++ toBytes 8 ((y.lanes b).getD i 0 % 2 ^ 32 + i * 2 ^ 32)

/-- VLD, VST, VSTU (R177) and VDEFER (R105); a poisoned sector that one of them reads is recorded and counted (R399 to R401). -/
inductive RowAccess : Instr → Effect → Prop
  | vld (v : VReg) (a : Reg) (o : BitVec 5) (x : Ctl) : RowAccess (.vld v a o x)
      { x := x, lat := 3, qs := [.C]
        when := fun _ s => ((s.mine.rg a).toNat + o.toNat * 64) % 64 = 0 ∧ (s.mine.rg a).toNat + o.toNat * 64 + 512 ≤ 2 ^ 22
        gives := fun cx s =>
          let ea := (s.mine.rg a).toNat + o.toNat * 64
          let y := vxOf cx s
          let r := s.spadLoad s.turn.core (cx.actor s) ea 512
          let poisoned := (List.range 512).any fun j => (laneMask y.k.w y.sel).getLsbD j && s.me.spadBad.contains ((ea + j) / 32)
          (if poisoned then r.2.2.modCore s.turn.core fun c => c.derrRecord 2 ea else r.2.2).fly cx 0 false
            [y.put v y.k.w (lanesOf y.k.w y.k.n (ofBytes r.1)) y.sel 0] }
  | vst (v : VReg) (a : Reg) (o : BitVec 5) (x : Ctl) : RowAccess (.vst v a o x)
      { x := x, qs := [.C]
        when := fun _ s => ((s.mine.rg a).toNat + o.toNat * 64) % 64 = 0 ∧ (s.mine.rg a).toNat + o.toNat * 64 + 512 ≤ 2 ^ 22
        gives := fun cx s => (s.noteRows s.turn.core [s.me.vrow v]).spadRow cx ((s.mine.rg a).toNat + o.toNat * 64)
          (s.me.rowBytes (s.me.vrow v)) (laneMask (vxOf cx s).k.w (vxOf cx s).sel) }
  | vstu (v : VReg) (a : Reg) (o : BitVec 5) (x : Ctl) : RowAccess (.vstu v a o x)
      { x := x, qs := [.C]
        when := fun _ s => ∀ j < 512, (s.me.mask 0).getLsbD j = true → (s.mine.rg a).toNat + o.toNat * 64 + j < 2 ^ 22
        gives := fun cx s => (s.noteRows s.turn.core [s.me.vrow v]).spadRow cx ((s.mine.rg a).toNat + o.toNat * 64)
          (s.me.rowBytes (s.me.vrow v)) (s.me.mask 0) }
  | vdeferNone (g : Reg) (a b : VReg) (x : Ctl) : RowAccess (.vdefer g a b x)
      { x := x, qs := [.C], acc := [.core], rel := true, when := fun cx s => deferred (vxOf cx s) a b = []
        gives := fun _ s => s.noteRows s.turn.core [s.me.vrow a, s.me.vrow b] }
  | vdefer (g : Reg) (a b : VReg) (x : Ctl) (u : State) : RowAccess (.vdefer g a b x)
      { x := x, qs := [.C], acc := [.core], rel := true
        when := fun cx s => deferred (vxOf cx s) a b ≠ [] ∧ u = s.noteRows s.turn.core [s.me.vrow a, s.me.vrow b]
          ∧ u.groupHeld (s.tenOf s.turn.core) ((s.mine.rg g).toNat % 1024 / 16) = true
          ∧ (u.list ((s.mine.rg g).toNat % 1024)).count + (deferred (vxOf cx s) a b).length ≤ u.listCap (s.tenOf s.turn.core)
        gives := fun cx s => u.listPush cx (s.tenOf s.turn.core) ((s.mine.rg g).toNat % 1024) (deferred (vxOf cx s) a b) }

end Sys2Proof.Rules
end

