-- ==== Sys2Proof/Certificates/Slice0/Obligations.lean ====
section
/-!
DEFINITION. The statements for the provers. Those named after a table of Sys2Proof/Rules say that every instruction of the table completes
with the effect that its row gives, or that every event of it takes place as its row says.
-/
open Sys2Proof Sys2Proof.Machine

/-- The scalar instructions on registers complete, send exactly the result of their rule into flight, and change nothing else (R39, R59 to R69): see `Rules.ScalarRow` and `State.Lands`. -/
def Obligations.ScalarResults : Prop :=
  ∀ (i : Instr) (x : Ctl) (short : Bool) (lat : Nat) (r : Seq → Result), Rules.ScalarRow i x short lat r →
    ∀ s : State, s.ready x short lat ring = true → ∃ t, exec i s = .next t ∧ s.Lands t x short lat [r s.mine]

/-- The bit operations, bit by bit as their rules word them (R60, R64, R65): see `Rules.BitRule`. -/
def Obligations.BitRules : Prop :=
  ∀ (i : Instr) (d : Reg) (x : Ctl) (lat : Nat) (p : Seq → Word → Prop), Rules.BitRule i d x lat p →
    ∀ s : State, s.ready x false lat ring = true → ∃ t r, exec i s = .next t ∧ s.Lands t x false lat [.g d r] ∧ p s.mine r

/-- R61: the four division instructions with every corner, and the identity for every pair of operands. -/
def Obligations.DivideRemainder : Prop :=
  (∀ (d a b : Reg) (x : Ctl) (s : State), s.ready x false 6 ring = true →
      (∃ t, exec (.div d a b x) s = .next t ∧ s.Lands t x false 6 [.g d (
        if s.mine.rg b = 0 then 0xFFFFFFFFFFFFFFFF
        else if (s.mine.rg a).toInt = -(2 ^ 63) ∧ (s.mine.rg b).toInt = -1 then s.mine.rg a
        else BitVec.ofInt 64 ((s.mine.rg a).toInt.tdiv (s.mine.rg b).toInt))])
      ∧ (∃ t, exec (.divu d a b x) s = .next t ∧ s.Lands t x false 6 [.g d (
        if s.mine.rg b = 0 then 0xFFFFFFFFFFFFFFFF else s.mine.rg a / s.mine.rg b)])
      ∧ (∃ t, exec (.rem d a b x) s = .next t ∧ s.Lands t x false 6 [.g d (
        if s.mine.rg b = 0 then s.mine.rg a
        else if (s.mine.rg a).toInt = -(2 ^ 63) ∧ (s.mine.rg b).toInt = -1 then 0
        else BitVec.ofInt 64 ((s.mine.rg a).toInt.tmod (s.mine.rg b).toInt))])
      ∧ (∃ t, exec (.remu d a b x) s = .next t ∧ s.Lands t x false 6 [.g d (
        if s.mine.rg b = 0 then s.mine.rg a else s.mine.rg a % s.mine.rg b)]))
    ∧ ∀ a b : Word, a = b * divSigned a b + remSigned a b ∧ a = b * divUnsigned a b + remUnsigned a b

/-- Branches, calls, BRK, LCUT and C.NOP (R20 to R23, R39, R70 to R76): see `Rules.ControlRow`. -/
def Obligations.ControlFlow : Prop :=
  ∀ (i : Instr) (f : Effect), Rules.ControlRow i f → f.completes i

/-- BLK (R18, R19, R24): see `Rules.BlockRow`. -/
def Obligations.BlockEntry : Prop :=
  ∀ (i : Instr) (f : Effect), Rules.BlockRow i f → f.completes i

/-- SLD, SLDS and SST (R14, R79): see `Rules.SpadRow`. -/
def Obligations.ScratchpadAccess : Prop :=
  ∀ (i : Instr) (f : Effect), Rules.SpadRow i f → f.completes i

/-- R14: a scalar scratchpad access whose exact effective address is out of range or misaligned takes the SPADDR trap before any effect. -/
def Obligations.ScratchpadTraps : Prop :=
  ∀ (d a : Reg) (z : Sz) (o : BitVec 5) (x : Ctl) (s : State) (i : Instr) (lat : Nat),
    (i = .sld d a z o x ∧ lat = 2 ∨ i = .slds d a z o x ∧ lat = 2 ∨ i = .sst d a z o x ∧ lat = 0) →
    s.ready x false lat ring = true → s.me.inTrap = false → s.me.stop = none →
    s.me.cmdHolds s.turn.sq ((s.mine.rg a).toNat + o.toNat * 2 ^ z.code) (2 ^ z.code) = false →
    ((s.mine.rg a).toNat + o.toNat * 2 ^ z.code ≥ 2 ^ 22 ∨ ((s.mine.rg a).toNat + o.toNat * 2 ^ z.code) % 2 ^ z.code ≠ 0) →
    ∃ t, exec i s = .next t
      ∧ s.Stops s.turn 3 0 (BitVec.ofNat 64 ((s.mine.rg a).toNat + o.toNat * 2 ^ z.code)) t

/-- LDC (R63): see `Rules.ConstRow`. -/
def Obligations.Constants : Prop :=
  ∀ (i : Instr) (f : Effect), Rules.ConstRow i f → f.completes i

/-- MFS and MTS (R11, R12, R77, R78, R250, R291, R342, R360, R373, R400): see `Rules.SysregRow`. -/
def Obligations.SystemRegisters : Prop :=
  ∀ (i : Instr) (f : Effect), Rules.SysregRow i f → f.completes i

/-- TRAP, RTE, SNAPRD and WFE (R370, R371, R386, R387, R390, R391): see `Rules.TrapRow`. -/
def Obligations.TrapInstructions : Prop :=
  ∀ (i : Instr) (f : Effect), Rules.TrapRow i f → f.completes i

/-- CTXSV and CTXRS (R371, R379, R388, R389): see `Rules.ImageRow`. -/
def Obligations.ContextImages : Prop :=
  ∀ (i : Instr) (f : Effect), Rules.ImageRow i f → f.completes i

/-- The vector instructions that work lane by lane (R157, R162 to R167): see `Rules.LaneRow`. -/
def Obligations.VectorLanes : Prop :=
  ∀ (i : Instr) (f : Effect), Rules.LaneRow i f → f.completes i

/-- The other vector instructions on rows and masks (R164, R165, R168 to R176, R325): see `Rules.VectorRow`. -/
def Obligations.VectorRows : Prop :=
  ∀ (i : Instr) (f : Effect), Rules.VectorRow i f → f.completes i

/-- VLD, VST, VSTU and VDEFER (R105, R173, R177): see `Rules.RowAccess`. -/
def Obligations.VectorAccess : Prop :=
  ∀ (i : Instr) (f : Effect), Rules.RowAccess i f → f.completes i

/-- MMA, MGANG, MZERO and MCFG (R127, R186 to R188, R191, R192): see `Rules.MultiplyRow`. -/
def Obligations.MatrixMultiply : Prop :=
  ∀ (i : Instr) (f : Effect), Rules.MultiplyRow i f → f.completes i

/-- MMAS (R189, R190): see `Rules.SparseRow`. -/
def Obligations.SparseMultiply : Prop :=
  ∀ (i : Instr) (f : Effect), Rules.SparseRow i f → f.completes i

/-- MDRAIN (R193, R194): see `Rules.DrainRow`. -/
def Obligations.MatrixDrain : Prop :=
  ∀ (i : Instr) (f : Effect), Rules.DrainRow i f → f.completes i

/-- MSAVE and MLOAD (R195): see `Rules.RowMove`. -/
def Obligations.MatrixRows : Prop :=
  ∀ (i : Instr) (f : Effect), Rules.RowMove i f → f.completes i

/-- WLPUSH, WLPOP, QUIES, TKCNT and BAR (R101 to R111): see `Rules.ListRow`. -/
def Obligations.ListsAndBarrier : Prop :=
  ∀ (i : Instr) (f : Effect), Rules.ListRow i f → f.completes i

/-- TAPEB (R346, R362): see `Rules.TapebRow`. -/
def Obligations.TapeBegin : Prop :=
  ∀ (i : Instr) (f : Effect), Rules.TapebRow i f → f.completes i

/-- TAPEE, TGUARD, TAPEINV and TAPEQ (R350, R351, R361 to R365): see `Rules.TapeRow`. -/
def Obligations.TapeControl : Prop :=
  ∀ (i : Instr) (f : Effect), Rules.TapeRow i f → f.completes i

/-- LD, LDS, LD.ACQ, ST and ST.REL, of memory and of device registers (R228, R242 to R244): see `Rules.ScalarAccess`; and what a load of one granule brings: with no poisoned or unchecked sector, no page that moves, no combined atomic and no earlier access on its way, and only CORE writes before, the bytes at the addresses that the model's translation `State.translateBytes` gives. -/
def Obligations.ScalarMemory : Prop :=
  (∀ (i : Instr) (f : Effect), Rules.ScalarAccess i f → f.completes i)
  ∧ ∀ (d a : Reg) (z : Sz) (h : Hint) (o : BitVec 3) (x : Ctl) (s u : State) (i : Instr) (sx : Nat) (acq : Bool)
      (pas : List (Nat × Nat)) (v : Nat),
    (i = .ld d a z h o x ∧ sx = 0 ∧ acq = false ∨ i = .lds d a z h o x ∧ sx = 8 * 2 ^ z.code ∧ acq = false
      ∨ i = .ldAcq d a z h o x ∧ sx = 0 ∧ acq = true) →
    s.ready x false 7 ring = true → (∀ g ∈ s.me.flights, g.ins < s.stamp) →
    s.mem.wf = true → s.mem.marks = [] → s.stubs = [] → s.migration = none → s.pending = [] → (s.popped x).mine.know.after = [] →
    (∀ die, s.combine.get die = []) → (∀ w ∈ s.mem.hist, w.cls = .core) →
    (acq = true → Rules.addr s a z o % 2 ^ z.code = 0) →
    Rules.paged (s.issuing x false 7) (s.popped x) (scalarNeed Need.load (!acq) (Rules.addr s a z o) (2 ^ z.code)) (Rules.addr s a z o)
      (2 ^ z.code) pas u →
    (∀ p ∈ pas, p.2 ≠ 1) → (∀ p ∈ pas, p.1 / 8 = (Rules.addrs pas).headD 0 / 8) →
    v = ((List.range (2 ^ z.code)).map fun j => (cellsGet s.mem.cells ((Rules.addrs pas).getD j 0)).toNat * 256 ^ j).sum →
    ∃ t f, exec i s = .next t ∧ (t.core s.turn.core).flights = s.me.flights ++ [f]
      ∧ f.sq = s.turn.sq ∧ f.dest = .g d ∧ f.left = 0
      ∧ f.value.setWidth 64 = (if sx = 0 then BitVec.ofNat 64 v else (BitVec.ofNat sx v).signExtend 64)
      ∧ (∀ pa, cellsGet t.mem.cells pa = cellsGet s.mem.cells pa)
      ∧ s.mine.sameRegs (t.seq s.turn) ∧ ∀ w, w ≠ s.turn → t.seq w = s.seq w

/-- What ST and ST.REL do to memory, byte by byte (R225, R237, R242, R244): with no poisoned or unchecked sector, no page that moves, no combined atomic and no earlier access on its way, and only CORE writes before, the stored bytes are those of gd at the addresses that the model's translation `State.translateBytes` gives, and every other byte, every register, and every other sequencer is as before. A store whose bytes lie in one granule of 8 bytes is performed at once; of one that crosses granules the pieces are on their way with exactly those bytes, and no byte has changed yet (log entry 24). -/
def Obligations.StoredBytes : Prop :=
  ∀ (rel : Bool) (d a : Reg) (z : Sz) (h : Hint) (o : BitVec 3) (x : Ctl) (s u : State) (pas : List (Nat × Nat)),
    s.ready x false 0 ring = true → s.mem.wf = true → s.mem.marks = [] → s.stubs = [] → s.migration = none → s.pending = [] → (s.popped x).mine.know.after = [] →
    (∀ die, s.combine.get die = []) → (∀ w ∈ s.mem.hist, w.cls = .core) →
    (rel = true → Rules.addr s a z o % 2 ^ z.code = 0) →
    Rules.paged (s.issuing x false 0) (s.popped x) (scalarNeed Need.store (!rel) (Rules.addr s a z o) (2 ^ z.code)) (Rules.addr s a z o)
      (2 ^ z.code) pas u →
    (∀ p ∈ pas, p.2 ≠ 1) →
    ∃ t, exec (if rel then .stRel d a z h o x else .st d a z h o x) s = .next t
      ∧ s.mine.sameRegs (t.seq s.turn) ∧ (∀ w, w ≠ s.turn → t.seq w = s.seq w)
      ∧ if ∀ p ∈ pas, p.1 / 8 = (Rules.addrs pas).headD 0 / 8 then
          t.pending = []
          ∧ (∀ pa, pa ∉ Rules.addrs pas → cellsGet t.mem.cells pa = cellsGet s.mem.cells pa)
          ∧ (∀ j, j < 2 ^ z.code → (∀ k, j < k → k < 2 ^ z.code → (Rules.addrs pas)[k]? ≠ (Rules.addrs pas)[j]?) →
              cellsGet t.mem.cells ((Rules.addrs pas).getD j 0) = (s.mine.rg d).extractLsb' (8 * j) 8)
        else
          (∀ pa, cellsGet t.mem.cells pa = cellsGet s.mem.cells pa)
          ∧ t.pending.flatMap (fun h => (h.bytes.map Prod.fst).zip h.data)
              = (Rules.addrs pas).zip (toBytes (2 ^ z.code) (s.mine.rg d).toNat)
          ∧ ∀ h ∈ t.pending, h.who = some s.turn ∧ h.kind = 1 ∧ ∀ p ∈ h.bytes, p.1 / 8 = (h.bytes.headD (0, 0)).1 / 8

/-- R215, R366: LD, LDS, LD.ACQ, ST and ST.REL whose translation faults begin the PAGE trap with the walk's detail and address; what stands is the state `u` that the walk left, with the popped tokens back (R33). -/
def Obligations.PageTraps : Prop :=
  ∀ (d a : Reg) (z : Sz) (h : Hint) (o : BitVec 3) (x : Ctl) (s u : State) (i : Instr) (lat : Nat) (need : Need) (al rel : Bool)
      (f : PageFault) (e : Effect),
    (i = .ld d a z h o x ∧ lat = 7 ∧ need = Need.load ∧ al = false ∧ rel = false
      ∨ i = .lds d a z h o x ∧ lat = 7 ∧ need = Need.load ∧ al = false ∧ rel = false
      ∨ i = .ldAcq d a z h o x ∧ lat = 7 ∧ need = Need.load ∧ al = true ∧ rel = false
      ∨ i = .st d a z h o x ∧ lat = 0 ∧ need = Need.store ∧ al = false ∧ rel = false
      ∨ i = .stRel d a z h o x ∧ lat = 0 ∧ need = Need.store ∧ al = true ∧ rel = true) →
    e = { x := x, lat := lat, acc := [.core], rel := rel, gives := fun _ t => t } →
    s.ready x false lat ring = true → (e.settled s).blockedFor (e.cx s) e.spec = false → s.me.inTrap = false → s.me.stop = none →
    (al = true → Rules.addr s a z o % 2 ^ z.code = 0) →
    ((e.start s).popped x).translateBytes ((e.cx s).actor ((e.start s).popped x)) s.turn.core (((e.start s).popped x).tenOf s.turn.core)
      (scalarNeed need (!al) (Rules.addr s a z o) (2 ^ z.code)) (Rules.addr s a z o) (2 ^ z.code) = (.error f, u) →
    ∃ t, exec i s = .next t ∧ (u.unpopped (e.start s) s.turn).Stops s.turn 6 f.det (BitVec.ofNat 64 f.va) t

/-- VLDG, VLDG.ACQ, VSTG and VSTG.REL (R245, R246): see `Rules.GlobalRow`. -/
def Obligations.RowMemory : Prop :=
  ∀ (i : Instr) (f : Effect), Rules.GlobalRow i f → f.completes i

/-- AMO and PLNST in every operation and order (R226, R247 to R251, R425): see `Rules.AtomicRow` and `Rules.AtomicOp`; and the words that an AMO at its bank reads and writes, under the conditions of ScalarMemory. -/
def Obligations.Atomics : Prop :=
  (∀ (i : Instr) (f : Effect), Rules.AtomicRow i f → f.completes i)
  ∧ ∀ (i : Instr) (op : Nat) (d a : Reg) (ar : Bool) (z : Sz) (x : Ctl) (s u : State) (pas : List (Nat × Nat)) (m v : Nat),
    Rules.AtomicOp i op d a ar z x → op ≠ 9 → op ≠ 10 →
    s.ready x false 7 ring = true → (∀ g ∈ s.me.flights, g.ins < s.stamp) →
    s.mem.wf = true → s.mem.marks = [] → s.stubs = [] → s.migration = none → s.pending = [] → (s.popped x).mine.know.after = [] →
    (∀ die, s.combine.get die = []) → (∀ w ∈ s.mem.hist, w.cls = .core) →
    (s.mine.rg a).toNat % 2 ^ z.code = 0 →
    Rules.paged (s.issuing x false 7) (s.popped x) Need.amo (s.mine.rg a).toNat (2 ^ z.code) pas u →
    (∀ p ∈ pas, p.2 ≠ 1) → (∀ n : Fin 8, (s.fe.rwbase.get n).getLsbD 0 = false) →
    (∀ j < 2 ^ z.code, (Rules.addrs pas).getD j 0 = (Rules.addrs pas).headD 0 + j) →
    m = ((List.range (2 ^ z.code)).map fun j => (cellsGet s.mem.cells ((Rules.addrs pas).headD 0 + j)).toNat * 256 ^ j).sum →
    v = amoInt op (2 ^ z.code) m ((s.mine.rg d).toNat % 256 ^ 2 ^ z.code) 0 →
    ∃ t f, exec i s = .next t ∧ (t.core s.turn.core).flights = s.me.flights ++ [f]
      ∧ f.sq = s.turn.sq ∧ f.dest = .g d ∧ f.left = 0 ∧ f.value.setWidth 64 = BitVec.ofNat 64 m
      ∧ (∀ pa, pa ∉ Rules.addrs pas → cellsGet t.mem.cells pa = cellsGet s.mem.cells pa)
      ∧ (∀ j < 2 ^ z.code, cellsGet t.mem.cells ((Rules.addrs pas).headD 0 + j) = BitVec.ofNat 8 (v / 256 ^ j))
      ∧ s.mine.sameRegs (t.seq s.turn) ∧ ∀ w, w ≠ s.turn → t.seq w = s.seq w

/-- FENCE, FENCEX, PUBL, CFLUSH, CINV and CPREF (R234, R235, R252 to R256): see `Rules.FenceRow`. -/
def Obligations.Fences : Prop :=
  ∀ (i : Instr) (f : Effect), Rules.FenceRow i f → f.completes i

/-- NTLD, NTLOCK and NTUNL (R258, R259, R285): see `Rules.NodeRow`. -/
def Obligations.NodeTable : Prop :=
  ∀ (i : Instr) (f : Effect), Rules.NodeRow i f → f.completes i

/-- CPY, CPY2D, GATH and SCAT as they issue (R126, R290, R292 to R296): see `Rules.CopyRow`. -/
def Obligations.CopyCommands : Prop :=
  ∀ (i : Instr) (f : Effect), Rules.CopyRow i f → f.completes i

/-- The thirteen commands of MAJ 0x3D as they issue (R126, R306): see `Rules.BlockCmdRow`. -/
def Obligations.BlockCommands : Prop :=
  ∀ (i : Instr) (f : Effect), Rules.BlockCmdRow i f → f.completes i

/-- KVLD, KVST, RLD, RST and RAMO as they issue (R126, R318, R449, R450): see `Rules.TransferRow`. -/
def Obligations.TransferCommands : Prop :=
  ∀ (i : Instr) (f : Effect), Rules.TransferRow i f → f.completes i

/-- WTANY, WTALL, FFRDY, TAGCLR and BFWAIT (R301, R302, R328): see `Rules.TagRow`. -/
def Obligations.TagWaits : Prop :=
  ∀ (i : Instr) (f : Effect), Rules.TagRow i f → f.completes i

/-- CHARTER, CASTOFF and LANEQ (R453 to R455): see `Rules.CharterRow`. -/
def Obligations.LaneCharters : Prop :=
  ∀ (i : Instr) (f : Effect), Rules.CharterRow i f → f.completes i

/-- Landing, token deadlock, ILLEGAL encodings, trap mode and the snapshot buffer (R27 to R30, R34, R84, R87, R366 to R374): see `Rules.TrapEvent`. -/
def Obligations.CoreEvents : Prop :=
  ∀ (i : Instr) (e : Event), Rules.TrapEvent i e → e.occurs i

/-- The matrix engine's ramp, gangs and last writes, and bank operations (R127, R191, R198, R208): see `Rules.MatrixEvent`. -/
def Obligations.MatrixEvents : Prop :=
  ∀ (i : Instr) (e : Event), Rules.MatrixEvent i e → e.occurs i

/-- Iterations, the barrier's release and pre-emption (R91 to R93, R108, R376 to R381): see `Rules.IterationEvent`. -/
def Obligations.IterationEvents : Prop :=
  ∀ (i : Instr) (e : Event), Rules.IterationEvent i e → e.occurs i

/-- The entries of a tape (R353 to R360): see `Rules.ReplayEvent`. -/
def Obligations.ReplayEvents : Prop :=
  ∀ (i : Instr) (e : Event), Rules.ReplayEvent i e → e.occurs i

/-- The portal (R410 to R412): see `Rules.PortalEvent`. -/
def Obligations.PortalEvents : Prop :=
  ∀ (i : Instr) (e : Event), Rules.PortalEvent i e → e.occurs i

/-- Dispatch: heads of queues, SERIAL, COPY, MARK, ageing, hand-out (R114 to R124, R413 to R417): see `Rules.DispatchEvent`. -/
def Obligations.DispatchEvents : Prop :=
  ∀ (i : Instr) (e : Event), Rules.DispatchEvent i e → e.occurs i

/-- Host writes of device registers, TLBI and page moves (R218, R261, R262, R406 to R409, R429, R430, R437, R458): see `Rules.RegisterEvent`. -/
def Obligations.RegisterEvents : Prop :=
  ∀ (i : Instr) (e : Event), Rules.RegisterEvent i e → e.occurs i

/-- Host accesses, snoops, the scrubber and the read-write hold (R209, R210, R401, R427): see `Rules.HostEvent`. -/
def Obligations.HostEvents : Prop :=
  ∀ (i : Instr) (e : Event), Rules.HostEvent i e → e.occurs i

/-- The copy of a page and its stub (R430 to R432): see `Rules.MigrationEvent`. -/
def Obligations.MigrationEvents : Prop :=
  ∀ (i : Instr) (e : Event), Rules.MigrationEvent i e → e.occurs i

/-- Power, temperature, resets, fabric errors and management (R402, R403, R421, R474 to R480): see `Rules.PlatformEvent`. -/
def Obligations.PlatformEvents : Prop :=
  ∀ (i : Instr) (e : Event), Rules.PlatformEvent i e → e.occurs i

/-- Engine commands as they start and complete, and backfill (R126, R290 to R297, R309 to R331): see `Rules.EngineEvent`; and the completion of the three events in full. -/
def Obligations.EngineEvents : Prop :=
  (∀ (i : Instr) (e : Event), Rules.EngineEvent i e → e.occurs i)
    ∧ (∀ (s : State) (c : CoreId) (k : Cmd) (dd ds : Word) (hd hs : BitVec 256) (gb : Word),
        Rules.acceptable (s.core c) .copy k → k.op = .cpy dd ds hd hs gb → gb.toNat % 2 ^ 32 ≠ 0 → cpyCheck dd ds hd hs gb = none →
        ∃ t, exec (.engineCommandAccept c .copy) s = .next t ∧ s.onlyCore t c ∧ (t.core c).tags = (s.core c).tags
          ∧ (t.core c).cmds = (s.core c).cmds.map fun m => if m.id = k.id then { k with phase := .started s.cycle } else m)
    ∧ (∀ (s : State) (c : CoreId) (e : PathClass) (k : Cmd), Rules.acceptable (s.core c) e k →
        exec (.engineCommandAccept c e) s = .next ((s.modCore c fun m => m.noteAccept e k.sq).acceptCmd c k))
    ∧ (∀ (s : State) (c : CoreId) (k : Cmd) (dd ds : Word) (hd hs : BitVec 256) (gb : Word),
        Rules.running s c k → Rules.performed s c k → k.op = .cpy dd ds hd hs gb →
        (handleOf hd).loc = 1 → (handleOf hs).loc = 1 → (s.core c).spadBad = [] → (s.core c).spadHist = [] →
        cellsWf (s.core c).spad = true →
        ∃ t, exec (.engineCommandComplete c k.id) s = .next t ∧ Rules.ended s t c k 2 ∧ t.mem = s.mem
          ∧ ∀ i < gb.toNat % 2 ^ 32, cellsGet (t.core c).spad ((handleOf hd).place (descRow dd) (descCol dd) + i)
              = cellsGet (s.core c).spad ((handleOf hs).place (descRow ds) (descCol ds) + i))
    ∧ ∀ (s : State) (die : Fin 4) (it : BackfillItem) (its : List BackfillItem) (r : InstRec) (fl : List Byte) (u v : State)
        (rows : List (List Nat)),
        s.backfill.get die = it :: its → (s.inst it.inst).cfg = some r → it.know.after = [] →
        s.frameNow it.actor (it.frame + r.fillAt it.layer) 8 = (fl, false, u) → ofBytes fl / 2 ^ it.slot % 2 = 0 →
        u.weightRows it (handleOf it.handle)
          ((List.range (2 * (r.nh * r.dim))).map fun x => 2 * it.layer * (r.nh * r.dim) + x) = (some rows, v) →
        ∃ w : State, exec (.backfillItem die) s
          = .next ((w.writeFill it.actor r it.frame it.layer (2 ^ it.slot) (ofBytes fl + 2 ^ it.slot)).nextLayer die it r)

/-- Flits of remote accesses (R443 to R452): see `Rules.FlitEvent`. -/
def Obligations.FlitEvents : Prop :=
  ∀ (i : Instr) (e : Event), Rules.FlitEvent i e → e.occurs i

/-- CTRL flits (R440 to R442, R453, R454): see `Rules.CtrlEvent`. -/
def Obligations.ControlFlits : Prop :=
  ∀ (i : Instr) (e : Event), Rules.CtrlEvent i e → e.occurs i

/-- STORE and FWD flits (R434, R459 to R466): see `Rules.StoreEvent`. -/
def Obligations.StoreFlits : Prop :=
  ∀ (i : Instr) (e : Event), Rules.StoreEvent i e → e.occurs i

/-- Retransmission, starvation, tuning, draining and error windows (R440, R442, R446, R447): see `Rules.LaneEvent`. -/
def Obligations.LaneEvents : Prop :=
  ∀ (i : Instr) (e : Event), Rules.LaneEvent i e → e.occurs i

/-- The decoder gives back every well-formed instruction from its encoding, from the fields and from the bytes as they lie in memory (R16, R34, R36 to R44). -/
def Obligations.DecodeEncode : Prop :=
  ∀ (i : Instr) (e : Enc), i.wf = true → encode i = some e → decode e = .ok i ∧ decodeBytes e.toBytes = .ok i

/-- No bit of an encoding is ignored (R34): whatever bytes decode to an instruction begin with exactly that instruction's encoding. -/
def Obligations.EncodeDecode : Prop :=
  ∀ (bs : List Byte) (e : Enc) (i : Instr), encOfBytes bs = .ok e → decode e = .ok i → encode i = some e ∧ i.wf = true

/-- Words written out from the spec's encodings decode to the instructions that they stand for, and reserved ones to none (R36 to R44; worked example of R39). -/
def Obligations.DecodeWords : Prop :=
  decodeBytes [0x03, 0x04, 0xCA, 0x39, 0x02, 0x02, 0x00, 0x00] = .ok (.add 7 7 5 { Ctl.plain with safe := some 0x202 })
    ∧ decodeBytes [0xC9, 0x0A, 0xC8, 0x28] = .ok (.mul 5 3 4 { Ctl.plain with lat := 3, sf := true })
    ∧ decodeBytes [0x01, 0x16, 0x80, 0x10] = .ok (.li 2 0x100 Ctl.plain)
    ∧ decodeBytes [0x01, 0x82, 0x03, 0x02] = .ok (.blk false 2 7)
    ∧ decodeBytes [0x01, 0x22, 0x00, 0x23] = .ok (.cmpi 1 3 0 .eq Ctl.plain)
    ∧ decodeBytes [0x01, 0x28, 0x02, 0x30] = .ok (.bf 1 4 Ctl.plain)
    ∧ decodeBytes [0x41, 0x30, 0x38, 0x10] = .ok (.mfs 2 0x70 { Ctl.plain with lat := 1 })
    ∧ decodeBytes [0x81, 0x34, 0xA0, 0x18] = .ok (.sld 3 2 .w 0 { Ctl.plain with lat := 2 })
    ∧ decodeBytes [0x01, 0x3A, 0x40, 0x01] = .ok (.trap 5 Ctl.plain)
    ∧ decodeBytes [0x01, 0xBA, 0x00, 0x00] = .ok (.rte Ctl.plain)
    ∧ decodeBytes [0x41, 0xBA, 0xC2, 0x52] = .ok (.wfe 10 11 { Ctl.plain with lat := 1 })
    ∧ decodeBytes [0x01, 0x3E, 0x81, 0x21] = .ok (.tguard 4 6 Ctl.plain)
    ∧ decodeBytes [0x81, 0xD7, 0x02, 0x43] = .ok (.vlse 8 12 1 { Ctl.plain with lat := 6 })
    ∧ decodeBytes [0x01, 0xDA, 0x60, 0x3A] = .ok (.vstu 7 9 1 Ctl.plain)
    ∧ decodeBytes [0xC1, 0x5D, 0x86, 0x00] = .ok (.mma 2 3 { Ctl.plain with lat := 7 })
    ∧ decodeBytes [0x01, 0x5E, 0x8E, 0x29] = .ok (.mdrain 5 6 7 Ctl.plain)
    ∧ decodeBytes [0xC1, 0x61, 0xA1, 0x28] = .ok (.ld 5 2 .w .default 2 { Ctl.plain with lat := 7 })
    ∧ decodeBytes [0xC1, 0x6D, 0xD5, 0x30] = .ok (.amoFadd 6 3 false .w { Ctl.plain with lat := 7 })
    ∧ decodeBytes [0x01, 0x70, 0x80, 0x2C] = .ok (.fencex .package .copy .core Ctl.plain)
    ∧ decodeBytes [0x01, 0x74, 0x44, 0x14] = .ok (.cpy 5 2 4 Ctl.plain)
    ∧ decodeBytes [0x41, 0xF8, 0x80, 0x4A] = .ok (.wtall 9 10 { Ctl.plain with lat := 1 })
    ∧ decodeBytes [0x01, 0x7A, 0x82, 0x20] = .ok (.pxseal 4 2 Ctl.plain)
    ∧ decodeBytes [0x01, 0x7C, 0x90, 0x21] = .ok (.kvld 4 6 8 Ctl.plain)
    ∧ decodeBytes [0x01, 0x7E, 0x40, 0x42] = .ok (.rld 8 9 Ctl.plain)
    ∧ decodeBytes [0xC1, 0xFF, 0x81, 0x29] = .ok (.charter 5 6 { Ctl.plain with lat := 7 })
    ∧ decodeBytes [0x28, 0x30] = .ok (.cAddi 6 1)
    ∧ decodeBytes [0x02, 0x00] = .ok (.cNop)
    ∧ (∀ i, decodeBytes [0x00, 0x00] ≠ .ok i)
    ∧ (∀ i, decodeBytes [0x22, 0x00] ≠ .ok i)
    ∧ (∀ i, decodeBytes [0x24, 0x00] ≠ .ok i)
    ∧ (∀ i, decodeBytes [0x01, 0x00, 0x00, 0x00] ≠ .ok i)
    ∧ (∀ i, decodeBytes [0x01, 0x9C, 0x01, 0x00] ≠ .ok i)

/-- One step of a powered package of which no page has moved or is moving to another package, and to which no event has arrived (log entry 3 gives the order of the model's steps): the step that a cycle has still to make; else the sequencer whose turn it is runs the instruction that its bytes decode to, takes ILLEGAL where they decode to none, takes PAGE where they cannot be fetched, and passes its turn where it may not issue; its replay stream issues the next entry. -/
def Obligations.StepRunsDecoded : Prop :=
  ∀ s : State, s.powered = true → s.near = true → (∀ a rest, s.inputs = a :: rest → s.cycle < a.cycle) →
    (∀ d ds, s.agenda = d :: ds → step s = exec d.instr { s with agenda := ds })
    ∧ (s.agenda = [] →
        ((s.core s.turn.core).mayReplay s.cycle s.turn.sq = true →
          step s = passTurn s.turn (exec (.replayEntryIssue s.turn.core s.turn.sq) s))
        ∧ ((s.core s.turn.core).mayReplay s.cycle s.turn.sq = false → (s.core s.turn.core).mayIssue s.cycle s.turn.sq = false →
          step s = .next (s.advance s.turn))
        ∧ ((s.core s.turn.core).mayReplay s.cycle s.turn.sq = false → (s.core s.turn.core).mayIssue s.cycle s.turn.sq = true →
          (∀ bs u i, s.attempt.fetchInstr s.turn = (.ok bs, u) → decodeBytes bs = .ok i → step s = passTurn s.turn (exec i u))
          ∧ (∀ bs u r, s.attempt.fetchInstr s.turn = (.ok bs, u) → decodeBytes bs = .error r →
              step s = passTurn s.turn (exec .illegalEncoding u))
          ∧ ∀ f u, s.attempt.fetchInstr s.turn = (.error f, u) → step s = .next ((u.raise s.turn (Trap.page f)).advance s.turn)))

/-- Power (R474, R475): after a thermal trip the package stops, which is the one fault of the model, until a cold reset arrives. -/
def Obligations.PowerRemoved : Prop :=
  ∀ s t : State, exec .thermalTrip s = .next t →
    step { t with inputs := [] } = .fault .powerRemoved
    ∧ ∀ (n : Nat) (h : BitVec 32) (w : Word) (load : List (Nat × Byte)),
        step { t with inputs := [{ cycle := n, event := .coldReset h w load }] } = exec (.coldReset h w load) { t with inputs := [] }

/-- Every step keeps package memory and every scratchpad in canonical form (the model's own form, log entry 7), from every state in which they are. -/
def Obligations.CanonicalKept : Prop :=
  ∀ s t : State, s.Canonical → step s = .next t → t.Canonical

/-- The machine right after reset is canonical. -/
def Obligations.CanonicalAtReset : Prop :=
  State.reset.Canonical

/-- The Reset values that the spec's register tables give and that are not zero, and the arrays cleared (R113, R116, R377, R406, R424, R439, R442, R447, R473, R474, R476); the values of state without a stated Reset value (log entry 13) are not part of this. -/
def Obligations.ResetValues : Prop :=
  State.reset.fe.age = Vector.replicate 6 200 ∧ State.reset.fe.pwrBudget = 2800 ∧ State.reset.fe.pwrStatic = 600
    ∧ State.reset.fe.pwrDefrate = 10000 ∧ State.reset.fe.dieCap = Vector.replicate 4 700 ∧ State.reset.fe.preWait = 50
    ∧ State.reset.fe.rwHold = 256 ∧ State.reset.fe.qlStarve = 100 ∧ State.reset.fe.qlThr = 4096
    ∧ State.reset.fe.lanecap = Vector.replicate 256 193 ∧ State.reset.fe.clkMhz = 1750 ∧ State.reset.fe.feErr = 0
    ∧ State.reset.fe.feStat = 0 ∧ State.reset.atomflags = Vector.replicate 256 0 ∧ State.reset.keys = [] ∧ State.reset.launches = []
    ∧ (∀ n, (State.reset.tens.get n).on = false) ∧ (∀ n, (State.reset.insts.get n).cfg = none)
    ∧ ∀ c : CoreId, (State.reset.core c).trapcause = 0 ∧ (State.reset.core c).engerr = 0 ∧ (State.reset.core c).derr = 0
      ∧ (State.reset.core c).tags = 0 ∧ ∀ t : Fin 16, ((State.reset.core c).tapes.get t).st = .empty

/-- R481: an issue by a sequencer outside the instruction's set, or with a LAT below the minimum in an exposed block, takes ILLEGAL before any wait, whatever its tokens and operands: for every instruction of the tables of matrix, vector, engine, tape, charter and system instructions, and for LAT also the scalar ones. -/
def Obligations.IllegalBeforeWaits : Prop :=
  (∀ (i : Instr) (f : Effect),
      (Rules.LaneRow i f ∨ Rules.VectorRow i f ∨ Rules.RowAccess i f ∨ Rules.MultiplyRow i f ∨ Rules.SparseRow i f ∨ Rules.DrainRow i f
        ∨ Rules.RowMove i f ∨ Rules.GlobalRow i f ∨ Rules.CopyRow i f ∨ Rules.BlockCmdRow i f ∨ Rules.TransferRow i f
        ∨ Rules.TapebRow i f ∨ Rules.TapeRow i f ∨ Rules.CharterRow i f ∨ Rules.TrapRow i f ∨ Rules.ImageRow i f
        ∨ Rules.NodeRow i f) →
      ∀ s : State, s.me.replayIssue = none → s.me.inTrap = false → s.me.stop = none →
        (s.turn.sq ∉ f.qs ∨ s.exposed = true ∧ f.short = false ∧ f.x.lat.toNat < f.lat) →
        ∃ t, exec i s = .next t ∧ s.Stops s.turn 1 0 0 t)
    ∧ ∀ (i : Instr) (x : Ctl) (lat : Nat) (r : Seq → Result), Rules.ScalarRow i x false lat r →
        ∀ s : State, s.me.replayIssue = none → s.me.inTrap = false → s.me.stop = none → s.exposed = true → x.lat.toNat < lat →
          ∃ t, exec i s = .next t ∧ s.Stops s.turn 1 0 0 t

/-- R83, R84, R481: an instruction whose token conditions do not hold issues nothing; the core's sequencer waits, or takes ILLEGAL for a condition that comes before waits; and each scalar instruction that issues takes one token of each queue it pops. -/
def Obligations.TokenGate : Prop :=
  (∀ (i : Instr) (w : Nat) (m : Option (BitVec 32)) (s : State), encode i = some (.word w m) → s.me.replayIssue = none →
      s.me.tokensReady s.turn.sq (ctlOf w m) = false →
      exec i s = .next (s.waiting s.turn .token) ∨ exec i s = .next (s.raise s.turn Trap.illegal))
    ∧ ∀ (i : Instr) (x : Ctl) (short : Bool) (lat : Nat) (r : Seq → Result), Rules.ScalarRow i x short lat r →
        ∀ s : State, s.ready x short lat ring = true →
          ∃ t, exec i s = .next t ∧ ∀ n : Fin 8, (t.core s.turn.core).tokenCount n
            = s.me.tokenCount n - if (x.wf = true ∧ n = popF s.turn.sq) ∨ (x.wb = true ∧ n = popB s.turn.sq) then 1 else 0

/-- A trap and its return put everything back (R368 to R370, R374, R387): trap-mode entry followed by RTE, as the handler's only instruction, leaves every sequencer that has not ended at its pc with its blocks, counts and registers, no trap mode, and memory as it was. -/
def Obligations.TrapAndReturn : Prop :=
  ∀ (s : State) (c : CoreId) (p : Stop), Rules.settled s (s.core c) p → (s.core c).trapvec ≠ 0 → p.cause ≠ 13 →
    (s.core c).tapePhase ≠ .replaying → (s.core c).replayIssue = none →
    ∃ t u, exec (.trapModeEntry c) s = .next t ∧ (t.core c).inTrap = true ∧ (∀ q, (s.core c).seq q |>.sameRegs ((t.core c).seq q))
      ∧ exec (.rte Ctl.plain) { t with turn := { core := c, sq := .X } } = .next u
      ∧ (u.core c).inTrap = false ∧ u.mem = s.mem
      ∧ (∀ q, ((s.core c).seq q).sameRegs ((u.core c).seq q))
      ∧ (∀ q, ((s.core c).seq q).ended = false → ((u.core c).seq q).ctl = ((s.core c).seq q).ctl)
      ∧ ∀ d, d ≠ c → u.core d = s.core d

/-- R132: a float result that is a NaN is the canonical NaN of its format, in additions, subtractions, products, fused multiply-adds and conversions, in every rounding mode, with subnormals flushed or honoured. -/
def Obligations.CanonicalNan : Prop :=
  ∀ (f g : Fmt), f ∈ [fp64, fp32, fp16, bf16] → g ∈ [fp64, fp32, fp16, bf16] → ∀ (rm : Rm) (fl : Bool) (a b c v : Nat),
    v ∈ [(f.add rm fl a b).1, (f.sub rm fl a b).1, (f.mul rm fl a b).1, (f.fma rm fl a b c).1, (cvtFloat g f rm fl a).1] →
    (f.read false v).1.isNan = true → v = f.nan
end

