-- ==== Sys2Proof/Laws/Access.lean ====
section
/-!
SUPPORT. Reading back what an update of a core, a sequencer or the state wrote.
-/
namespace Sys2Proof.Machine

@[simp] theorem core_setCore (s : State) (c : CoreId) (v : Core) : (s.setCore c v).core c = v := by
  show (s.cores.set c.val v c.isLt)[c.val] = v
  exact Vector.getElem_set_self c.isLt

theorem core_setCore_ne (s : State) {c d : CoreId} (v : Core) (h : d ≠ c) : (s.setCore c v).core d = s.core d := by
  have : c.val ≠ d.val := fun e => h (Fin.ext e.symm)
  show (s.cores.set c.val v c.isLt)[d.val] = s.cores[d.val]
  exact Vector.getElem_set_ne c.isLt d.isLt this

@[simp] theorem core_modCore (s : State) (c : CoreId) (f : Core → Core) : (s.modCore c f).core c = f (s.core c) := by
  simp [State.modCore]

theorem core_modCore_ne (s : State) {c d : CoreId} (f : Core → Core) (h : d ≠ c) : (s.modCore c f).core d = s.core d := by
  simp [State.modCore, core_setCore_ne _ _ h]

@[simp] theorem setSeq_seq (c : Core) (q : Sq) (v : Seq) : (c.setSeq q v).seq q = v := by cases q <;> rfl

theorem setSeq_seq_ne (c : Core) {q r : Sq} (v : Seq) (h : r ≠ q) : (c.setSeq q v).seq r = c.seq r := by
  cases q <;> cases r <;> first | rfl | exact absurd rfl h

@[simp] theorem modSeq_seq (c : Core) (q : Sq) (f : Seq → Seq) : (c.modSeq q f).seq q = f (c.seq q) := by
  simp [Core.modSeq]

@[simp] theorem seq_modSeq (s : State) (w : Who) (f : Seq → Seq) : (s.modSeq w f).seq w = f (s.seq w) := by
  simp [State.modSeq, State.seq]

@[simp] theorem core_modSeq (s : State) (w : Who) (f : Seq → Seq) : (s.modSeq w f).core w.core = (s.core w.core).modSeq w.sq f := by
  simp [State.modSeq]

end Sys2Proof.Machine
end

