-- ==== Sys2Proof/Laws/State.lean ====
section
/-!
SUPPORT. What the named updates of the state leave alone: one lemma for each field and update.
-/
namespace Sys2Proof.Machine

@[simp] theorem setCore_mem (s : State) (c : CoreId) (v : Core) : (s.setCore c v).mem = s.mem := rfl
@[simp] theorem setCore_pending (s : State) (c : CoreId) (v : Core) : (s.setCore c v).pending = s.pending := rfl
@[simp] theorem setCore_hostReads (s : State) (c : CoreId) (v : Core) : (s.setCore c v).hostReads = s.hostReads := rfl
@[simp] theorem setCore_farKept (s : State) (c : CoreId) (v : Core) : (s.setCore c v).farKept = s.farKept := rfl
@[simp] theorem setCore_answers (s : State) (c : CoreId) (v : Core) : (s.setCore c v).answers = s.answers := rfl
@[simp] theorem setCore_physical (s : State) (c : CoreId) (v : Core) : (s.setCore c v).physical = s.physical := rfl
@[simp] theorem setCore_tlbiAt (s : State) (c : CoreId) (v : Core) : (s.setCore c v).tlbiAt = s.tlbiAt := rfl
@[simp] theorem setCore_atomflags (s : State) (c : CoreId) (v : Core) : (s.setCore c v).atomflags = s.atomflags := rfl
@[simp] theorem setCore_storeClk (s : State) (c : CoreId) (v : Core) : (s.setCore c v).storeClk = s.storeClk := rfl
@[simp] theorem setCore_cycle (s : State) (c : CoreId) (v : Core) : (s.setCore c v).cycle = s.cycle := rfl
@[simp] theorem setCore_time (s : State) (c : CoreId) (v : Core) : (s.setCore c v).time = s.time := rfl
@[simp] theorem setCore_lists (s : State) (c : CoreId) (v : Core) : (s.setCore c v).lists = s.lists := rfl
@[simp] theorem setCore_combine (s : State) (c : CoreId) (v : Core) : (s.setCore c v).combine = s.combine := rfl
@[simp] theorem setCore_codeLines (s : State) (c : CoreId) (v : Core) : (s.setCore c v).codeLines = s.codeLines := rfl
@[simp] theorem setCore_insts (s : State) (c : CoreId) (v : Core) : (s.setCore c v).insts = s.insts := rfl
@[simp] theorem setCore_backfill (s : State) (c : CoreId) (v : Core) : (s.setCore c v).backfill = s.backfill := rfl
@[simp] theorem setCore_fe (s : State) (c : CoreId) (v : Core) : (s.setCore c v).fe = s.fe := rfl
@[simp] theorem setCore_queues (s : State) (c : CoreId) (v : Core) : (s.setCore c v).queues = s.queues := rfl
@[simp] theorem setCore_tens (s : State) (c : CoreId) (v : Core) : (s.setCore c v).tens = s.tens := rfl
@[simp] theorem setCore_launches (s : State) (c : CoreId) (v : Core) : (s.setCore c v).launches = s.launches := rfl
@[simp] theorem setCore_copies (s : State) (c : CoreId) (v : Core) : (s.setCore c v).copies = s.copies := rfl
@[simp] theorem setCore_packetNum (s : State) (c : CoreId) (v : Core) : (s.setCore c v).packetNum = s.packetNum := rfl
@[simp] theorem setCore_lastQueue (s : State) (c : CoreId) (v : Core) : (s.setCore c v).lastQueue = s.lastQueue := rfl
@[simp] theorem setCore_rampStarts (s : State) (c : CoreId) (v : Core) : (s.setCore c v).rampStarts = s.rampStarts := rfl
@[simp] theorem setCore_migration (s : State) (c : CoreId) (v : Core) : (s.setCore c v).migration = s.migration := rfl
@[simp] theorem setCore_stubs (s : State) (c : CoreId) (v : Core) : (s.setCore c v).stubs = s.stubs := rfl
@[simp] theorem setCore_migCount (s : State) (c : CoreId) (v : Core) : (s.setCore c v).migCount = s.migCount := rfl
@[simp] theorem setCore_incoming (s : State) (c : CoreId) (v : Core) : (s.setCore c v).incoming = s.incoming := rfl
@[simp] theorem setCore_keys (s : State) (c : CoreId) (v : Core) : (s.setCore c v).keys = s.keys := rfl
@[simp] theorem setCore_tx (s : State) (c : CoreId) (v : Core) : (s.setCore c v).tx = s.tx := rfl
@[simp] theorem setCore_rx (s : State) (c : CoreId) (v : Core) : (s.setCore c v).rx = s.rx := rfl
@[simp] theorem setCore_pairs (s : State) (c : CoreId) (v : Core) : (s.setCore c v).pairs = s.pairs := rfl
@[simp] theorem setCore_pendingLanes (s : State) (c : CoreId) (v : Core) : (s.setCore c v).pendingLanes = s.pendingLanes := rfl
@[simp] theorem setCore_laneRequests (s : State) (c : CoreId) (v : Core) : (s.setCore c v).laneRequests = s.laneRequests := rfl
@[simp] theorem setCore_grants (s : State) (c : CoreId) (v : Core) : (s.setCore c v).grants = s.grants := rfl
@[simp] theorem setCore_boot (s : State) (c : CoreId) (v : Core) : (s.setCore c v).boot = s.boot := rfl
@[simp] theorem setCore_powered (s : State) (c : CoreId) (v : Core) : (s.setCore c v).powered = s.powered := rfl
@[simp] theorem setCore_hot (s : State) (c : CoreId) (v : Core) : (s.setCore c v).hot = s.hot := rfl
@[simp] theorem setCore_session (s : State) (c : CoreId) (v : Core) : (s.setCore c v).session = s.session := rfl
@[simp] theorem setCore_pilot (s : State) (c : CoreId) (v : Core) : (s.setCore c v).pilot = s.pilot := rfl
@[simp] theorem setCore_firmware (s : State) (c : CoreId) (v : Core) : (s.setCore c v).firmware = s.firmware := rfl
@[simp] theorem setCore_newFirmware (s : State) (c : CoreId) (v : Core) : (s.setCore c v).newFirmware = s.newFirmware := rfl
@[simp] theorem setCore_inputs (s : State) (c : CoreId) (v : Core) : (s.setCore c v).inputs = s.inputs := rfl
@[simp] theorem setCore_outputs (s : State) (c : CoreId) (v : Core) : (s.setCore c v).outputs = s.outputs := rfl
@[simp] theorem setCore_free (s : State) (c : CoreId) (v : Core) : (s.setCore c v).free = s.free := rfl
@[simp] theorem setCore_stamp (s : State) (c : CoreId) (v : Core) : (s.setCore c v).stamp = s.stamp := rfl
@[simp] theorem setCore_turn (s : State) (c : CoreId) (v : Core) : (s.setCore c v).turn = s.turn := rfl
@[simp] theorem setCore_agenda (s : State) (c : CoreId) (v : Core) : (s.setCore c v).agenda = s.agenda := rfl

@[simp] theorem modCore_mem (s : State) (c : CoreId) (f : Core → Core) : (s.modCore c f).mem = s.mem := rfl
@[simp] theorem modCore_pending (s : State) (c : CoreId) (f : Core → Core) : (s.modCore c f).pending = s.pending := rfl
@[simp] theorem modCore_hostReads (s : State) (c : CoreId) (f : Core → Core) : (s.modCore c f).hostReads = s.hostReads := rfl
@[simp] theorem modCore_farKept (s : State) (c : CoreId) (f : Core → Core) : (s.modCore c f).farKept = s.farKept := rfl
@[simp] theorem modCore_answers (s : State) (c : CoreId) (f : Core → Core) : (s.modCore c f).answers = s.answers := rfl
@[simp] theorem modCore_physical (s : State) (c : CoreId) (f : Core → Core) : (s.modCore c f).physical = s.physical := rfl
@[simp] theorem modCore_tlbiAt (s : State) (c : CoreId) (f : Core → Core) : (s.modCore c f).tlbiAt = s.tlbiAt := rfl
@[simp] theorem modCore_atomflags (s : State) (c : CoreId) (f : Core → Core) : (s.modCore c f).atomflags = s.atomflags := rfl
@[simp] theorem modCore_storeClk (s : State) (c : CoreId) (f : Core → Core) : (s.modCore c f).storeClk = s.storeClk := rfl
@[simp] theorem modCore_cycle (s : State) (c : CoreId) (f : Core → Core) : (s.modCore c f).cycle = s.cycle := rfl
@[simp] theorem modCore_time (s : State) (c : CoreId) (f : Core → Core) : (s.modCore c f).time = s.time := rfl
@[simp] theorem modCore_lists (s : State) (c : CoreId) (f : Core → Core) : (s.modCore c f).lists = s.lists := rfl
@[simp] theorem modCore_combine (s : State) (c : CoreId) (f : Core → Core) : (s.modCore c f).combine = s.combine := rfl
@[simp] theorem modCore_codeLines (s : State) (c : CoreId) (f : Core → Core) : (s.modCore c f).codeLines = s.codeLines := rfl
@[simp] theorem modCore_insts (s : State) (c : CoreId) (f : Core → Core) : (s.modCore c f).insts = s.insts := rfl
@[simp] theorem modCore_backfill (s : State) (c : CoreId) (f : Core → Core) : (s.modCore c f).backfill = s.backfill := rfl
@[simp] theorem modCore_fe (s : State) (c : CoreId) (f : Core → Core) : (s.modCore c f).fe = s.fe := rfl
@[simp] theorem modCore_queues (s : State) (c : CoreId) (f : Core → Core) : (s.modCore c f).queues = s.queues := rfl
@[simp] theorem modCore_tens (s : State) (c : CoreId) (f : Core → Core) : (s.modCore c f).tens = s.tens := rfl
@[simp] theorem modCore_launches (s : State) (c : CoreId) (f : Core → Core) : (s.modCore c f).launches = s.launches := rfl
@[simp] theorem modCore_copies (s : State) (c : CoreId) (f : Core → Core) : (s.modCore c f).copies = s.copies := rfl
@[simp] theorem modCore_packetNum (s : State) (c : CoreId) (f : Core → Core) : (s.modCore c f).packetNum = s.packetNum := rfl
@[simp] theorem modCore_lastQueue (s : State) (c : CoreId) (f : Core → Core) : (s.modCore c f).lastQueue = s.lastQueue := rfl
@[simp] theorem modCore_rampStarts (s : State) (c : CoreId) (f : Core → Core) : (s.modCore c f).rampStarts = s.rampStarts := rfl
@[simp] theorem modCore_migration (s : State) (c : CoreId) (f : Core → Core) : (s.modCore c f).migration = s.migration := rfl
@[simp] theorem modCore_stubs (s : State) (c : CoreId) (f : Core → Core) : (s.modCore c f).stubs = s.stubs := rfl
@[simp] theorem modCore_migCount (s : State) (c : CoreId) (f : Core → Core) : (s.modCore c f).migCount = s.migCount := rfl
@[simp] theorem modCore_incoming (s : State) (c : CoreId) (f : Core → Core) : (s.modCore c f).incoming = s.incoming := rfl
@[simp] theorem modCore_keys (s : State) (c : CoreId) (f : Core → Core) : (s.modCore c f).keys = s.keys := rfl
@[simp] theorem modCore_tx (s : State) (c : CoreId) (f : Core → Core) : (s.modCore c f).tx = s.tx := rfl
@[simp] theorem modCore_rx (s : State) (c : CoreId) (f : Core → Core) : (s.modCore c f).rx = s.rx := rfl
@[simp] theorem modCore_pairs (s : State) (c : CoreId) (f : Core → Core) : (s.modCore c f).pairs = s.pairs := rfl
@[simp] theorem modCore_pendingLanes (s : State) (c : CoreId) (f : Core → Core) : (s.modCore c f).pendingLanes = s.pendingLanes := rfl
@[simp] theorem modCore_laneRequests (s : State) (c : CoreId) (f : Core → Core) : (s.modCore c f).laneRequests = s.laneRequests := rfl
@[simp] theorem modCore_grants (s : State) (c : CoreId) (f : Core → Core) : (s.modCore c f).grants = s.grants := rfl
@[simp] theorem modCore_boot (s : State) (c : CoreId) (f : Core → Core) : (s.modCore c f).boot = s.boot := rfl
@[simp] theorem modCore_powered (s : State) (c : CoreId) (f : Core → Core) : (s.modCore c f).powered = s.powered := rfl
@[simp] theorem modCore_hot (s : State) (c : CoreId) (f : Core → Core) : (s.modCore c f).hot = s.hot := rfl
@[simp] theorem modCore_session (s : State) (c : CoreId) (f : Core → Core) : (s.modCore c f).session = s.session := rfl
@[simp] theorem modCore_pilot (s : State) (c : CoreId) (f : Core → Core) : (s.modCore c f).pilot = s.pilot := rfl
@[simp] theorem modCore_firmware (s : State) (c : CoreId) (f : Core → Core) : (s.modCore c f).firmware = s.firmware := rfl
@[simp] theorem modCore_newFirmware (s : State) (c : CoreId) (f : Core → Core) : (s.modCore c f).newFirmware = s.newFirmware := rfl
@[simp] theorem modCore_inputs (s : State) (c : CoreId) (f : Core → Core) : (s.modCore c f).inputs = s.inputs := rfl
@[simp] theorem modCore_outputs (s : State) (c : CoreId) (f : Core → Core) : (s.modCore c f).outputs = s.outputs := rfl
@[simp] theorem modCore_free (s : State) (c : CoreId) (f : Core → Core) : (s.modCore c f).free = s.free := rfl
@[simp] theorem modCore_stamp (s : State) (c : CoreId) (f : Core → Core) : (s.modCore c f).stamp = s.stamp := rfl
@[simp] theorem modCore_turn (s : State) (c : CoreId) (f : Core → Core) : (s.modCore c f).turn = s.turn := rfl
@[simp] theorem modCore_agenda (s : State) (c : CoreId) (f : Core → Core) : (s.modCore c f).agenda = s.agenda := rfl

@[simp] theorem modSeq_mem (s : State) (w : Who) (f : Seq → Seq) : (s.modSeq w f).mem = s.mem := rfl
@[simp] theorem modSeq_pending (s : State) (w : Who) (f : Seq → Seq) : (s.modSeq w f).pending = s.pending := rfl
@[simp] theorem modSeq_hostReads (s : State) (w : Who) (f : Seq → Seq) : (s.modSeq w f).hostReads = s.hostReads := rfl
@[simp] theorem modSeq_farKept (s : State) (w : Who) (f : Seq → Seq) : (s.modSeq w f).farKept = s.farKept := rfl
@[simp] theorem modSeq_answers (s : State) (w : Who) (f : Seq → Seq) : (s.modSeq w f).answers = s.answers := rfl
@[simp] theorem modSeq_physical (s : State) (w : Who) (f : Seq → Seq) : (s.modSeq w f).physical = s.physical := rfl
@[simp] theorem modSeq_tlbiAt (s : State) (w : Who) (f : Seq → Seq) : (s.modSeq w f).tlbiAt = s.tlbiAt := rfl
@[simp] theorem modSeq_atomflags (s : State) (w : Who) (f : Seq → Seq) : (s.modSeq w f).atomflags = s.atomflags := rfl
@[simp] theorem modSeq_storeClk (s : State) (w : Who) (f : Seq → Seq) : (s.modSeq w f).storeClk = s.storeClk := rfl
@[simp] theorem modSeq_cycle (s : State) (w : Who) (f : Seq → Seq) : (s.modSeq w f).cycle = s.cycle := rfl
@[simp] theorem modSeq_time (s : State) (w : Who) (f : Seq → Seq) : (s.modSeq w f).time = s.time := rfl
@[simp] theorem modSeq_lists (s : State) (w : Who) (f : Seq → Seq) : (s.modSeq w f).lists = s.lists := rfl
@[simp] theorem modSeq_combine (s : State) (w : Who) (f : Seq → Seq) : (s.modSeq w f).combine = s.combine := rfl
@[simp] theorem modSeq_codeLines (s : State) (w : Who) (f : Seq → Seq) : (s.modSeq w f).codeLines = s.codeLines := rfl
@[simp] theorem modSeq_insts (s : State) (w : Who) (f : Seq → Seq) : (s.modSeq w f).insts = s.insts := rfl
@[simp] theorem modSeq_backfill (s : State) (w : Who) (f : Seq → Seq) : (s.modSeq w f).backfill = s.backfill := rfl
@[simp] theorem modSeq_fe (s : State) (w : Who) (f : Seq → Seq) : (s.modSeq w f).fe = s.fe := rfl
@[simp] theorem modSeq_queues (s : State) (w : Who) (f : Seq → Seq) : (s.modSeq w f).queues = s.queues := rfl
@[simp] theorem modSeq_tens (s : State) (w : Who) (f : Seq → Seq) : (s.modSeq w f).tens = s.tens := rfl
@[simp] theorem modSeq_launches (s : State) (w : Who) (f : Seq → Seq) : (s.modSeq w f).launches = s.launches := rfl
@[simp] theorem modSeq_copies (s : State) (w : Who) (f : Seq → Seq) : (s.modSeq w f).copies = s.copies := rfl
@[simp] theorem modSeq_packetNum (s : State) (w : Who) (f : Seq → Seq) : (s.modSeq w f).packetNum = s.packetNum := rfl
@[simp] theorem modSeq_lastQueue (s : State) (w : Who) (f : Seq → Seq) : (s.modSeq w f).lastQueue = s.lastQueue := rfl
@[simp] theorem modSeq_rampStarts (s : State) (w : Who) (f : Seq → Seq) : (s.modSeq w f).rampStarts = s.rampStarts := rfl
@[simp] theorem modSeq_migration (s : State) (w : Who) (f : Seq → Seq) : (s.modSeq w f).migration = s.migration := rfl
@[simp] theorem modSeq_stubs (s : State) (w : Who) (f : Seq → Seq) : (s.modSeq w f).stubs = s.stubs := rfl
@[simp] theorem modSeq_migCount (s : State) (w : Who) (f : Seq → Seq) : (s.modSeq w f).migCount = s.migCount := rfl
@[simp] theorem modSeq_incoming (s : State) (w : Who) (f : Seq → Seq) : (s.modSeq w f).incoming = s.incoming := rfl
@[simp] theorem modSeq_keys (s : State) (w : Who) (f : Seq → Seq) : (s.modSeq w f).keys = s.keys := rfl
@[simp] theorem modSeq_tx (s : State) (w : Who) (f : Seq → Seq) : (s.modSeq w f).tx = s.tx := rfl
@[simp] theorem modSeq_rx (s : State) (w : Who) (f : Seq → Seq) : (s.modSeq w f).rx = s.rx := rfl
@[simp] theorem modSeq_pairs (s : State) (w : Who) (f : Seq → Seq) : (s.modSeq w f).pairs = s.pairs := rfl
@[simp] theorem modSeq_pendingLanes (s : State) (w : Who) (f : Seq → Seq) : (s.modSeq w f).pendingLanes = s.pendingLanes := rfl
@[simp] theorem modSeq_laneRequests (s : State) (w : Who) (f : Seq → Seq) : (s.modSeq w f).laneRequests = s.laneRequests := rfl
@[simp] theorem modSeq_grants (s : State) (w : Who) (f : Seq → Seq) : (s.modSeq w f).grants = s.grants := rfl
@[simp] theorem modSeq_boot (s : State) (w : Who) (f : Seq → Seq) : (s.modSeq w f).boot = s.boot := rfl
@[simp] theorem modSeq_powered (s : State) (w : Who) (f : Seq → Seq) : (s.modSeq w f).powered = s.powered := rfl
@[simp] theorem modSeq_hot (s : State) (w : Who) (f : Seq → Seq) : (s.modSeq w f).hot = s.hot := rfl
@[simp] theorem modSeq_session (s : State) (w : Who) (f : Seq → Seq) : (s.modSeq w f).session = s.session := rfl
@[simp] theorem modSeq_pilot (s : State) (w : Who) (f : Seq → Seq) : (s.modSeq w f).pilot = s.pilot := rfl
@[simp] theorem modSeq_firmware (s : State) (w : Who) (f : Seq → Seq) : (s.modSeq w f).firmware = s.firmware := rfl
@[simp] theorem modSeq_newFirmware (s : State) (w : Who) (f : Seq → Seq) : (s.modSeq w f).newFirmware = s.newFirmware := rfl
@[simp] theorem modSeq_inputs (s : State) (w : Who) (f : Seq → Seq) : (s.modSeq w f).inputs = s.inputs := rfl
@[simp] theorem modSeq_outputs (s : State) (w : Who) (f : Seq → Seq) : (s.modSeq w f).outputs = s.outputs := rfl
@[simp] theorem modSeq_free (s : State) (w : Who) (f : Seq → Seq) : (s.modSeq w f).free = s.free := rfl
@[simp] theorem modSeq_stamp (s : State) (w : Who) (f : Seq → Seq) : (s.modSeq w f).stamp = s.stamp := rfl
@[simp] theorem modSeq_turn (s : State) (w : Who) (f : Seq → Seq) : (s.modSeq w f).turn = s.turn := rfl
@[simp] theorem modSeq_agenda (s : State) (w : Who) (f : Seq → Seq) : (s.modSeq w f).agenda = s.agenda := rfl

@[simp] theorem mapCores_mem (s : State) (f : CoreId → Core → Core) : (s.mapCores f).mem = s.mem := by simp only [State.mapCores]
@[simp] theorem mapCores_pending (s : State) (f : CoreId → Core → Core) : (s.mapCores f).pending = s.pending := by simp only [State.mapCores]
@[simp] theorem mapCores_hostReads (s : State) (f : CoreId → Core → Core) : (s.mapCores f).hostReads = s.hostReads := by simp only [State.mapCores]
@[simp] theorem mapCores_farKept (s : State) (f : CoreId → Core → Core) : (s.mapCores f).farKept = s.farKept := by simp only [State.mapCores]
@[simp] theorem mapCores_answers (s : State) (f : CoreId → Core → Core) : (s.mapCores f).answers = s.answers := by simp only [State.mapCores]
@[simp] theorem mapCores_physical (s : State) (f : CoreId → Core → Core) : (s.mapCores f).physical = s.physical := by simp only [State.mapCores]
@[simp] theorem mapCores_tlbiAt (s : State) (f : CoreId → Core → Core) : (s.mapCores f).tlbiAt = s.tlbiAt := by simp only [State.mapCores]
@[simp] theorem mapCores_atomflags (s : State) (f : CoreId → Core → Core) : (s.mapCores f).atomflags = s.atomflags := by simp only [State.mapCores]
@[simp] theorem mapCores_storeClk (s : State) (f : CoreId → Core → Core) : (s.mapCores f).storeClk = s.storeClk := by simp only [State.mapCores]
@[simp] theorem mapCores_cycle (s : State) (f : CoreId → Core → Core) : (s.mapCores f).cycle = s.cycle := by simp only [State.mapCores]
@[simp] theorem mapCores_time (s : State) (f : CoreId → Core → Core) : (s.mapCores f).time = s.time := by simp only [State.mapCores]
@[simp] theorem mapCores_lists (s : State) (f : CoreId → Core → Core) : (s.mapCores f).lists = s.lists := by simp only [State.mapCores]
@[simp] theorem mapCores_combine (s : State) (f : CoreId → Core → Core) : (s.mapCores f).combine = s.combine := by simp only [State.mapCores]
@[simp] theorem mapCores_codeLines (s : State) (f : CoreId → Core → Core) : (s.mapCores f).codeLines = s.codeLines := by simp only [State.mapCores]
@[simp] theorem mapCores_insts (s : State) (f : CoreId → Core → Core) : (s.mapCores f).insts = s.insts := by simp only [State.mapCores]
@[simp] theorem mapCores_backfill (s : State) (f : CoreId → Core → Core) : (s.mapCores f).backfill = s.backfill := by simp only [State.mapCores]
@[simp] theorem mapCores_fe (s : State) (f : CoreId → Core → Core) : (s.mapCores f).fe = s.fe := by simp only [State.mapCores]
@[simp] theorem mapCores_queues (s : State) (f : CoreId → Core → Core) : (s.mapCores f).queues = s.queues := by simp only [State.mapCores]
@[simp] theorem mapCores_tens (s : State) (f : CoreId → Core → Core) : (s.mapCores f).tens = s.tens := by simp only [State.mapCores]
@[simp] theorem mapCores_launches (s : State) (f : CoreId → Core → Core) : (s.mapCores f).launches = s.launches := by simp only [State.mapCores]
@[simp] theorem mapCores_copies (s : State) (f : CoreId → Core → Core) : (s.mapCores f).copies = s.copies := by simp only [State.mapCores]
@[simp] theorem mapCores_packetNum (s : State) (f : CoreId → Core → Core) : (s.mapCores f).packetNum = s.packetNum := by simp only [State.mapCores]
@[simp] theorem mapCores_lastQueue (s : State) (f : CoreId → Core → Core) : (s.mapCores f).lastQueue = s.lastQueue := by simp only [State.mapCores]
@[simp] theorem mapCores_rampStarts (s : State) (f : CoreId → Core → Core) : (s.mapCores f).rampStarts = s.rampStarts := by simp only [State.mapCores]
@[simp] theorem mapCores_migration (s : State) (f : CoreId → Core → Core) : (s.mapCores f).migration = s.migration := by simp only [State.mapCores]
@[simp] theorem mapCores_stubs (s : State) (f : CoreId → Core → Core) : (s.mapCores f).stubs = s.stubs := by simp only [State.mapCores]
@[simp] theorem mapCores_migCount (s : State) (f : CoreId → Core → Core) : (s.mapCores f).migCount = s.migCount := by simp only [State.mapCores]
@[simp] theorem mapCores_incoming (s : State) (f : CoreId → Core → Core) : (s.mapCores f).incoming = s.incoming := by simp only [State.mapCores]
@[simp] theorem mapCores_keys (s : State) (f : CoreId → Core → Core) : (s.mapCores f).keys = s.keys := by simp only [State.mapCores]
@[simp] theorem mapCores_tx (s : State) (f : CoreId → Core → Core) : (s.mapCores f).tx = s.tx := by simp only [State.mapCores]
@[simp] theorem mapCores_rx (s : State) (f : CoreId → Core → Core) : (s.mapCores f).rx = s.rx := by simp only [State.mapCores]
@[simp] theorem mapCores_pairs (s : State) (f : CoreId → Core → Core) : (s.mapCores f).pairs = s.pairs := by simp only [State.mapCores]
@[simp] theorem mapCores_pendingLanes (s : State) (f : CoreId → Core → Core) : (s.mapCores f).pendingLanes = s.pendingLanes := by simp only [State.mapCores]
@[simp] theorem mapCores_laneRequests (s : State) (f : CoreId → Core → Core) : (s.mapCores f).laneRequests = s.laneRequests := by simp only [State.mapCores]
@[simp] theorem mapCores_grants (s : State) (f : CoreId → Core → Core) : (s.mapCores f).grants = s.grants := by simp only [State.mapCores]
@[simp] theorem mapCores_boot (s : State) (f : CoreId → Core → Core) : (s.mapCores f).boot = s.boot := by simp only [State.mapCores]
@[simp] theorem mapCores_powered (s : State) (f : CoreId → Core → Core) : (s.mapCores f).powered = s.powered := by simp only [State.mapCores]
@[simp] theorem mapCores_hot (s : State) (f : CoreId → Core → Core) : (s.mapCores f).hot = s.hot := by simp only [State.mapCores]
@[simp] theorem mapCores_session (s : State) (f : CoreId → Core → Core) : (s.mapCores f).session = s.session := by simp only [State.mapCores]
@[simp] theorem mapCores_pilot (s : State) (f : CoreId → Core → Core) : (s.mapCores f).pilot = s.pilot := by simp only [State.mapCores]
@[simp] theorem mapCores_firmware (s : State) (f : CoreId → Core → Core) : (s.mapCores f).firmware = s.firmware := by simp only [State.mapCores]
@[simp] theorem mapCores_newFirmware (s : State) (f : CoreId → Core → Core) : (s.mapCores f).newFirmware = s.newFirmware := by simp only [State.mapCores]
@[simp] theorem mapCores_inputs (s : State) (f : CoreId → Core → Core) : (s.mapCores f).inputs = s.inputs := by simp only [State.mapCores]
@[simp] theorem mapCores_outputs (s : State) (f : CoreId → Core → Core) : (s.mapCores f).outputs = s.outputs := by simp only [State.mapCores]
@[simp] theorem mapCores_free (s : State) (f : CoreId → Core → Core) : (s.mapCores f).free = s.free := by simp only [State.mapCores]
@[simp] theorem mapCores_stamp (s : State) (f : CoreId → Core → Core) : (s.mapCores f).stamp = s.stamp := by simp only [State.mapCores]
@[simp] theorem mapCores_turn (s : State) (f : CoreId → Core → Core) : (s.mapCores f).turn = s.turn := by simp only [State.mapCores]
@[simp] theorem mapCores_agenda (s : State) (f : CoreId → Core → Core) : (s.mapCores f).agenda = s.agenda := by simp only [State.mapCores]

@[simp] theorem emit_cores (s : State) (o : Output) : (s.emit o).cores = s.cores := rfl
@[simp] theorem emit_mem (s : State) (o : Output) : (s.emit o).mem = s.mem := rfl
@[simp] theorem emit_pending (s : State) (o : Output) : (s.emit o).pending = s.pending := rfl
@[simp] theorem emit_hostReads (s : State) (o : Output) : (s.emit o).hostReads = s.hostReads := rfl
@[simp] theorem emit_farKept (s : State) (o : Output) : (s.emit o).farKept = s.farKept := rfl
@[simp] theorem emit_answers (s : State) (o : Output) : (s.emit o).answers = s.answers := rfl
@[simp] theorem emit_physical (s : State) (o : Output) : (s.emit o).physical = s.physical := rfl
@[simp] theorem emit_tlbiAt (s : State) (o : Output) : (s.emit o).tlbiAt = s.tlbiAt := rfl
@[simp] theorem emit_atomflags (s : State) (o : Output) : (s.emit o).atomflags = s.atomflags := rfl
@[simp] theorem emit_storeClk (s : State) (o : Output) : (s.emit o).storeClk = s.storeClk := rfl
@[simp] theorem emit_cycle (s : State) (o : Output) : (s.emit o).cycle = s.cycle := rfl
@[simp] theorem emit_time (s : State) (o : Output) : (s.emit o).time = s.time := rfl
@[simp] theorem emit_lists (s : State) (o : Output) : (s.emit o).lists = s.lists := rfl
@[simp] theorem emit_combine (s : State) (o : Output) : (s.emit o).combine = s.combine := rfl
@[simp] theorem emit_codeLines (s : State) (o : Output) : (s.emit o).codeLines = s.codeLines := rfl
@[simp] theorem emit_insts (s : State) (o : Output) : (s.emit o).insts = s.insts := rfl
@[simp] theorem emit_backfill (s : State) (o : Output) : (s.emit o).backfill = s.backfill := rfl
@[simp] theorem emit_fe (s : State) (o : Output) : (s.emit o).fe = s.fe := rfl
@[simp] theorem emit_queues (s : State) (o : Output) : (s.emit o).queues = s.queues := rfl
@[simp] theorem emit_tens (s : State) (o : Output) : (s.emit o).tens = s.tens := rfl
@[simp] theorem emit_launches (s : State) (o : Output) : (s.emit o).launches = s.launches := rfl
@[simp] theorem emit_copies (s : State) (o : Output) : (s.emit o).copies = s.copies := rfl
@[simp] theorem emit_packetNum (s : State) (o : Output) : (s.emit o).packetNum = s.packetNum := rfl
@[simp] theorem emit_lastQueue (s : State) (o : Output) : (s.emit o).lastQueue = s.lastQueue := rfl
@[simp] theorem emit_rampStarts (s : State) (o : Output) : (s.emit o).rampStarts = s.rampStarts := rfl
@[simp] theorem emit_migration (s : State) (o : Output) : (s.emit o).migration = s.migration := rfl
@[simp] theorem emit_stubs (s : State) (o : Output) : (s.emit o).stubs = s.stubs := rfl
@[simp] theorem emit_migCount (s : State) (o : Output) : (s.emit o).migCount = s.migCount := rfl
@[simp] theorem emit_incoming (s : State) (o : Output) : (s.emit o).incoming = s.incoming := rfl
@[simp] theorem emit_keys (s : State) (o : Output) : (s.emit o).keys = s.keys := rfl
@[simp] theorem emit_tx (s : State) (o : Output) : (s.emit o).tx = s.tx := rfl
@[simp] theorem emit_rx (s : State) (o : Output) : (s.emit o).rx = s.rx := rfl
@[simp] theorem emit_pairs (s : State) (o : Output) : (s.emit o).pairs = s.pairs := rfl
@[simp] theorem emit_pendingLanes (s : State) (o : Output) : (s.emit o).pendingLanes = s.pendingLanes := rfl
@[simp] theorem emit_laneRequests (s : State) (o : Output) : (s.emit o).laneRequests = s.laneRequests := rfl
@[simp] theorem emit_grants (s : State) (o : Output) : (s.emit o).grants = s.grants := rfl
@[simp] theorem emit_boot (s : State) (o : Output) : (s.emit o).boot = s.boot := rfl
@[simp] theorem emit_powered (s : State) (o : Output) : (s.emit o).powered = s.powered := rfl
@[simp] theorem emit_hot (s : State) (o : Output) : (s.emit o).hot = s.hot := rfl
@[simp] theorem emit_session (s : State) (o : Output) : (s.emit o).session = s.session := rfl
@[simp] theorem emit_pilot (s : State) (o : Output) : (s.emit o).pilot = s.pilot := rfl
@[simp] theorem emit_firmware (s : State) (o : Output) : (s.emit o).firmware = s.firmware := rfl
@[simp] theorem emit_newFirmware (s : State) (o : Output) : (s.emit o).newFirmware = s.newFirmware := rfl
@[simp] theorem emit_inputs (s : State) (o : Output) : (s.emit o).inputs = s.inputs := rfl
@[simp] theorem emit_free (s : State) (o : Output) : (s.emit o).free = s.free := rfl
@[simp] theorem emit_stamp (s : State) (o : Output) : (s.emit o).stamp = s.stamp := rfl
@[simp] theorem emit_turn (s : State) (o : Output) : (s.emit o).turn = s.turn := rfl
@[simp] theorem emit_agenda (s : State) (o : Output) : (s.emit o).agenda = s.agenda := rfl

@[simp] theorem later_cores (s : State) (d : Due) : (s.later d).cores = s.cores := rfl
@[simp] theorem later_mem (s : State) (d : Due) : (s.later d).mem = s.mem := rfl
@[simp] theorem later_pending (s : State) (d : Due) : (s.later d).pending = s.pending := rfl
@[simp] theorem later_hostReads (s : State) (d : Due) : (s.later d).hostReads = s.hostReads := rfl
@[simp] theorem later_farKept (s : State) (d : Due) : (s.later d).farKept = s.farKept := rfl
@[simp] theorem later_answers (s : State) (d : Due) : (s.later d).answers = s.answers := rfl
@[simp] theorem later_physical (s : State) (d : Due) : (s.later d).physical = s.physical := rfl
@[simp] theorem later_tlbiAt (s : State) (d : Due) : (s.later d).tlbiAt = s.tlbiAt := rfl
@[simp] theorem later_atomflags (s : State) (d : Due) : (s.later d).atomflags = s.atomflags := rfl
@[simp] theorem later_storeClk (s : State) (d : Due) : (s.later d).storeClk = s.storeClk := rfl
@[simp] theorem later_cycle (s : State) (d : Due) : (s.later d).cycle = s.cycle := rfl
@[simp] theorem later_time (s : State) (d : Due) : (s.later d).time = s.time := rfl
@[simp] theorem later_lists (s : State) (d : Due) : (s.later d).lists = s.lists := rfl
@[simp] theorem later_combine (s : State) (d : Due) : (s.later d).combine = s.combine := rfl
@[simp] theorem later_codeLines (s : State) (d : Due) : (s.later d).codeLines = s.codeLines := rfl
@[simp] theorem later_insts (s : State) (d : Due) : (s.later d).insts = s.insts := rfl
@[simp] theorem later_backfill (s : State) (d : Due) : (s.later d).backfill = s.backfill := rfl
@[simp] theorem later_fe (s : State) (d : Due) : (s.later d).fe = s.fe := rfl
@[simp] theorem later_queues (s : State) (d : Due) : (s.later d).queues = s.queues := rfl
@[simp] theorem later_tens (s : State) (d : Due) : (s.later d).tens = s.tens := rfl
@[simp] theorem later_launches (s : State) (d : Due) : (s.later d).launches = s.launches := rfl
@[simp] theorem later_copies (s : State) (d : Due) : (s.later d).copies = s.copies := rfl
@[simp] theorem later_packetNum (s : State) (d : Due) : (s.later d).packetNum = s.packetNum := rfl
@[simp] theorem later_lastQueue (s : State) (d : Due) : (s.later d).lastQueue = s.lastQueue := rfl
@[simp] theorem later_rampStarts (s : State) (d : Due) : (s.later d).rampStarts = s.rampStarts := rfl
@[simp] theorem later_migration (s : State) (d : Due) : (s.later d).migration = s.migration := rfl
@[simp] theorem later_stubs (s : State) (d : Due) : (s.later d).stubs = s.stubs := rfl
@[simp] theorem later_migCount (s : State) (d : Due) : (s.later d).migCount = s.migCount := rfl
@[simp] theorem later_incoming (s : State) (d : Due) : (s.later d).incoming = s.incoming := rfl
@[simp] theorem later_keys (s : State) (d : Due) : (s.later d).keys = s.keys := rfl
@[simp] theorem later_tx (s : State) (d : Due) : (s.later d).tx = s.tx := rfl
@[simp] theorem later_rx (s : State) (d : Due) : (s.later d).rx = s.rx := rfl
@[simp] theorem later_pairs (s : State) (d : Due) : (s.later d).pairs = s.pairs := rfl
@[simp] theorem later_pendingLanes (s : State) (d : Due) : (s.later d).pendingLanes = s.pendingLanes := rfl
@[simp] theorem later_laneRequests (s : State) (d : Due) : (s.later d).laneRequests = s.laneRequests := rfl
@[simp] theorem later_grants (s : State) (d : Due) : (s.later d).grants = s.grants := rfl
@[simp] theorem later_boot (s : State) (d : Due) : (s.later d).boot = s.boot := rfl
@[simp] theorem later_powered (s : State) (d : Due) : (s.later d).powered = s.powered := rfl
@[simp] theorem later_hot (s : State) (d : Due) : (s.later d).hot = s.hot := rfl
@[simp] theorem later_session (s : State) (d : Due) : (s.later d).session = s.session := rfl
@[simp] theorem later_pilot (s : State) (d : Due) : (s.later d).pilot = s.pilot := rfl
@[simp] theorem later_firmware (s : State) (d : Due) : (s.later d).firmware = s.firmware := rfl
@[simp] theorem later_newFirmware (s : State) (d : Due) : (s.later d).newFirmware = s.newFirmware := rfl
@[simp] theorem later_inputs (s : State) (d : Due) : (s.later d).inputs = s.inputs := rfl
@[simp] theorem later_outputs (s : State) (d : Due) : (s.later d).outputs = s.outputs := rfl
@[simp] theorem later_free (s : State) (d : Due) : (s.later d).free = s.free := rfl
@[simp] theorem later_stamp (s : State) (d : Due) : (s.later d).stamp = s.stamp := rfl
@[simp] theorem later_turn (s : State) (d : Due) : (s.later d).turn = s.turn := rfl

@[simp] theorem modLaunch_cores (s : State) (id : Nat) (f : Launch → Launch) : (s.modLaunch id f).cores = s.cores := rfl
@[simp] theorem modLaunch_mem (s : State) (id : Nat) (f : Launch → Launch) : (s.modLaunch id f).mem = s.mem := rfl
@[simp] theorem modLaunch_pending (s : State) (id : Nat) (f : Launch → Launch) : (s.modLaunch id f).pending = s.pending := rfl
@[simp] theorem modLaunch_hostReads (s : State) (id : Nat) (f : Launch → Launch) : (s.modLaunch id f).hostReads = s.hostReads := rfl
@[simp] theorem modLaunch_farKept (s : State) (id : Nat) (f : Launch → Launch) : (s.modLaunch id f).farKept = s.farKept := rfl
@[simp] theorem modLaunch_answers (s : State) (id : Nat) (f : Launch → Launch) : (s.modLaunch id f).answers = s.answers := rfl
@[simp] theorem modLaunch_physical (s : State) (id : Nat) (f : Launch → Launch) : (s.modLaunch id f).physical = s.physical := rfl
@[simp] theorem modLaunch_tlbiAt (s : State) (id : Nat) (f : Launch → Launch) : (s.modLaunch id f).tlbiAt = s.tlbiAt := rfl
@[simp] theorem modLaunch_atomflags (s : State) (id : Nat) (f : Launch → Launch) : (s.modLaunch id f).atomflags = s.atomflags := rfl
@[simp] theorem modLaunch_storeClk (s : State) (id : Nat) (f : Launch → Launch) : (s.modLaunch id f).storeClk = s.storeClk := rfl
@[simp] theorem modLaunch_cycle (s : State) (id : Nat) (f : Launch → Launch) : (s.modLaunch id f).cycle = s.cycle := rfl
@[simp] theorem modLaunch_time (s : State) (id : Nat) (f : Launch → Launch) : (s.modLaunch id f).time = s.time := rfl
@[simp] theorem modLaunch_lists (s : State) (id : Nat) (f : Launch → Launch) : (s.modLaunch id f).lists = s.lists := rfl
@[simp] theorem modLaunch_combine (s : State) (id : Nat) (f : Launch → Launch) : (s.modLaunch id f).combine = s.combine := rfl
@[simp] theorem modLaunch_codeLines (s : State) (id : Nat) (f : Launch → Launch) : (s.modLaunch id f).codeLines = s.codeLines := rfl
@[simp] theorem modLaunch_insts (s : State) (id : Nat) (f : Launch → Launch) : (s.modLaunch id f).insts = s.insts := rfl
@[simp] theorem modLaunch_backfill (s : State) (id : Nat) (f : Launch → Launch) : (s.modLaunch id f).backfill = s.backfill := rfl
@[simp] theorem modLaunch_fe (s : State) (id : Nat) (f : Launch → Launch) : (s.modLaunch id f).fe = s.fe := rfl
@[simp] theorem modLaunch_queues (s : State) (id : Nat) (f : Launch → Launch) : (s.modLaunch id f).queues = s.queues := rfl
@[simp] theorem modLaunch_tens (s : State) (id : Nat) (f : Launch → Launch) : (s.modLaunch id f).tens = s.tens := rfl
@[simp] theorem modLaunch_copies (s : State) (id : Nat) (f : Launch → Launch) : (s.modLaunch id f).copies = s.copies := rfl
@[simp] theorem modLaunch_packetNum (s : State) (id : Nat) (f : Launch → Launch) : (s.modLaunch id f).packetNum = s.packetNum := rfl
@[simp] theorem modLaunch_lastQueue (s : State) (id : Nat) (f : Launch → Launch) : (s.modLaunch id f).lastQueue = s.lastQueue := rfl
@[simp] theorem modLaunch_rampStarts (s : State) (id : Nat) (f : Launch → Launch) : (s.modLaunch id f).rampStarts = s.rampStarts := rfl
@[simp] theorem modLaunch_migration (s : State) (id : Nat) (f : Launch → Launch) : (s.modLaunch id f).migration = s.migration := rfl
@[simp] theorem modLaunch_stubs (s : State) (id : Nat) (f : Launch → Launch) : (s.modLaunch id f).stubs = s.stubs := rfl
@[simp] theorem modLaunch_migCount (s : State) (id : Nat) (f : Launch → Launch) : (s.modLaunch id f).migCount = s.migCount := rfl
@[simp] theorem modLaunch_incoming (s : State) (id : Nat) (f : Launch → Launch) : (s.modLaunch id f).incoming = s.incoming := rfl
@[simp] theorem modLaunch_keys (s : State) (id : Nat) (f : Launch → Launch) : (s.modLaunch id f).keys = s.keys := rfl
@[simp] theorem modLaunch_tx (s : State) (id : Nat) (f : Launch → Launch) : (s.modLaunch id f).tx = s.tx := rfl
@[simp] theorem modLaunch_rx (s : State) (id : Nat) (f : Launch → Launch) : (s.modLaunch id f).rx = s.rx := rfl
@[simp] theorem modLaunch_pairs (s : State) (id : Nat) (f : Launch → Launch) : (s.modLaunch id f).pairs = s.pairs := rfl
@[simp] theorem modLaunch_pendingLanes (s : State) (id : Nat) (f : Launch → Launch) : (s.modLaunch id f).pendingLanes = s.pendingLanes := rfl
@[simp] theorem modLaunch_laneRequests (s : State) (id : Nat) (f : Launch → Launch) : (s.modLaunch id f).laneRequests = s.laneRequests := rfl
@[simp] theorem modLaunch_grants (s : State) (id : Nat) (f : Launch → Launch) : (s.modLaunch id f).grants = s.grants := rfl
@[simp] theorem modLaunch_boot (s : State) (id : Nat) (f : Launch → Launch) : (s.modLaunch id f).boot = s.boot := rfl
@[simp] theorem modLaunch_powered (s : State) (id : Nat) (f : Launch → Launch) : (s.modLaunch id f).powered = s.powered := rfl
@[simp] theorem modLaunch_hot (s : State) (id : Nat) (f : Launch → Launch) : (s.modLaunch id f).hot = s.hot := rfl
@[simp] theorem modLaunch_session (s : State) (id : Nat) (f : Launch → Launch) : (s.modLaunch id f).session = s.session := rfl
@[simp] theorem modLaunch_pilot (s : State) (id : Nat) (f : Launch → Launch) : (s.modLaunch id f).pilot = s.pilot := rfl
@[simp] theorem modLaunch_firmware (s : State) (id : Nat) (f : Launch → Launch) : (s.modLaunch id f).firmware = s.firmware := rfl
@[simp] theorem modLaunch_newFirmware (s : State) (id : Nat) (f : Launch → Launch) : (s.modLaunch id f).newFirmware = s.newFirmware := rfl
@[simp] theorem modLaunch_inputs (s : State) (id : Nat) (f : Launch → Launch) : (s.modLaunch id f).inputs = s.inputs := rfl
@[simp] theorem modLaunch_outputs (s : State) (id : Nat) (f : Launch → Launch) : (s.modLaunch id f).outputs = s.outputs := rfl
@[simp] theorem modLaunch_free (s : State) (id : Nat) (f : Launch → Launch) : (s.modLaunch id f).free = s.free := rfl
@[simp] theorem modLaunch_stamp (s : State) (id : Nat) (f : Launch → Launch) : (s.modLaunch id f).stamp = s.stamp := rfl
@[simp] theorem modLaunch_turn (s : State) (id : Nat) (f : Launch → Launch) : (s.modLaunch id f).turn = s.turn := rfl
@[simp] theorem modLaunch_agenda (s : State) (id : Nat) (f : Launch → Launch) : (s.modLaunch id f).agenda = s.agenda := rfl

@[simp] theorem setSeq_h (c : Core) (q : Sq) (v : Seq) : (c.setSeq q v).h = c.h := by cases q <;> rfl
@[simp] theorem setSeq_hLate (c : Core) (q : Sq) (v : Seq) : (c.setSeq q v).hLate = c.hLate := by cases q <;> rfl
@[simp] theorem setSeq_k (c : Core) (q : Sq) (v : Seq) : (c.setSeq q v).k = c.k := by cases q <;> rfl
@[simp] theorem setSeq_tokens (c : Core) (q : Sq) (v : Seq) : (c.setSeq q v).tokens = c.tokens := by cases q <;> rfl
@[simp] theorem setSeq_rising (c : Core) (q : Sq) (v : Seq) : (c.setSeq q v).rising = c.rising := by cases q <;> rfl
@[simp] theorem setSeq_flights (c : Core) (q : Sq) (v : Seq) : (c.setSeq q v).flights = c.flights := by cases q <;> rfl
@[simp] theorem setSeq_cmds (c : Core) (q : Sq) (v : Seq) : (c.setSeq q v).cmds = c.cmds := by cases q <;> rfl
@[simp] theorem setSeq_matWrites (c : Core) (q : Sq) (v : Seq) : (c.setSeq q v).matWrites = c.matWrites := by cases q <;> rfl
@[simp] theorem setSeq_pend (c : Core) (q : Sq) (v : Seq) : (c.setSeq q v).pend = c.pend := by cases q <;> rfl
@[simp] theorem setSeq_arb (c : Core) (q : Sq) (v : Seq) : (c.setSeq q v).arb = c.arb := by cases q <;> rfl
@[simp] theorem setSeq_spad (c : Core) (q : Sq) (v : Seq) : (c.setSeq q v).spad = c.spad := by cases q <;> rfl
@[simp] theorem setSeq_spadBad (c : Core) (q : Sq) (v : Seq) : (c.setSeq q v).spadBad = c.spadBad := by cases q <;> rfl
@[simp] theorem setSeq_accBad (c : Core) (q : Sq) (v : Seq) : (c.setSeq q v).accBad = c.accBad := by cases q <;> rfl
@[simp] theorem setSeq_spadHist (c : Core) (q : Sq) (v : Seq) : (c.setSeq q v).spadHist = c.spadHist := by cases q <;> rfl
@[simp] theorem setSeq_acc (c : Core) (q : Sq) (v : Seq) : (c.setSeq q v).acc = c.acc := by cases q <;> rfl
@[simp] theorem setSeq_m (c : Core) (q : Sq) (v : Seq) : (c.setSeq q v).m = c.m := by cases q <;> rfl
@[simp] theorem setSeq_acct (c : Core) (q : Sq) (v : Seq) : (c.setSeq q v).acct = c.acct := by cases q <;> rfl
@[simp] theorem setSeq_vwb (c : Core) (q : Sq) (v : Seq) : (c.setSeq q v).vwb = c.vwb := by cases q <;> rfl
@[simp] theorem setSeq_mcr (c : Core) (q : Sq) (v : Seq) : (c.setSeq q v).mcr = c.mcr := by cases q <;> rfl
@[simp] theorem setSeq_handles (c : Core) (q : Sq) (v : Seq) : (c.setSeq q v).handles = c.handles := by cases q <;> rfl
@[simp] theorem setSeq_handleBad (c : Core) (q : Sq) (v : Seq) : (c.setSeq q v).handleBad = c.handleBad := by cases q <;> rfl
@[simp] theorem setSeq_ntBad (c : Core) (q : Sq) (v : Seq) : (c.setSeq q v).ntBad = c.ntBad := by cases q <;> rfl
@[simp] theorem setSeq_tapeBad (c : Core) (q : Sq) (v : Seq) : (c.setSeq q v).tapeBad = c.tapeBad := by cases q <;> rfl
@[simp] theorem setSeq_htgen (c : Core) (q : Sq) (v : Seq) : (c.setSeq q v).htgen = c.htgen := by cases q <;> rfl
@[simp] theorem setSeq_nt (c : Core) (q : Sq) (v : Seq) : (c.setSeq q v).nt = c.nt := by cases q <;> rfl
@[simp] theorem setSeq_ntgen (c : Core) (q : Sq) (v : Seq) : (c.setSeq q v).ntgen = c.ntgen := by cases q <;> rfl
@[simp] theorem setSeq_ntlocks (c : Core) (q : Sq) (v : Seq) : (c.setSeq q v).ntlocks = c.ntlocks := by cases q <;> rfl
@[simp] theorem setSeq_ntrefs (c : Core) (q : Sq) (v : Seq) : (c.setSeq q v).ntrefs = c.ntrefs := by cases q <;> rfl
@[simp] theorem setSeq_tags (c : Core) (q : Sq) (v : Seq) : (c.setSeq q v).tags = c.tags := by cases q <;> rfl
@[simp] theorem setSeq_tstat (c : Core) (q : Sq) (v : Seq) : (c.setSeq q v).tstat = c.tstat := by cases q <;> rfl
@[simp] theorem setSeq_engerr (c : Core) (q : Sq) (v : Seq) : (c.setSeq q v).engerr = c.engerr := by cases q <;> rfl
@[simp] theorem setSeq_engerrva (c : Core) (q : Sq) (v : Seq) : (c.setSeq q v).engerrva = c.engerrva := by cases q <;> rfl
@[simp] theorem setSeq_engerrAt (c : Core) (q : Sq) (v : Seq) : (c.setSeq q v).engerrAt = c.engerrAt := by cases q <;> rfl
@[simp] theorem setSeq_tagKnow (c : Core) (q : Sq) (v : Seq) : (c.setSeq q v).tagKnow = c.tagKnow := by cases q <;> rfl
@[simp] theorem setSeq_bferr (c : Core) (q : Sq) (v : Seq) : (c.setSeq q v).bferr = c.bferr := by cases q <;> rfl
@[simp] theorem setSeq_derr (c : Core) (q : Sq) (v : Seq) : (c.setSeq q v).derr = c.derr := by cases q <;> rfl
@[simp] theorem setSeq_derrva (c : Core) (q : Sq) (v : Seq) : (c.setSeq q v).derrva = c.derrva := by cases q <;> rfl
@[simp] theorem setSeq_pv (c : Core) (q : Sq) (v : Seq) : (c.setSeq q v).pv = c.pv := by cases q <;> rfl
@[simp] theorem setSeq_tapemiss (c : Core) (q : Sq) (v : Seq) : (c.setSeq q v).tapemiss = c.tapemiss := by cases q <;> rfl
@[simp] theorem setSeq_rpstat (c : Core) (q : Sq) (v : Seq) : (c.setSeq q v).rpstat = c.rpstat := by cases q <;> rfl
@[simp] theorem setSeq_rpnext (c : Core) (q : Sq) (v : Seq) : (c.setSeq q v).rpnext = c.rpnext := by cases q <;> rfl
@[simp] theorem setSeq_tapes (c : Core) (q : Sq) (v : Seq) : (c.setSeq q v).tapes = c.tapes := by cases q <;> rfl
@[simp] theorem setSeq_tapePhase (c : Core) (q : Sq) (v : Seq) : (c.setSeq q v).tapePhase = c.tapePhase := by cases q <;> rfl
@[simp] theorem setSeq_tapeBegun (c : Core) (q : Sq) (v : Seq) : (c.setSeq q v).tapeBegun = c.tapeBegun := by cases q <;> rfl
@[simp] theorem setSeq_tapeEnded (c : Core) (q : Sq) (v : Seq) : (c.setSeq q v).tapeEnded = c.tapeEnded := by cases q <;> rfl
@[simp] theorem setSeq_tapeLines (c : Core) (q : Sq) (v : Seq) : (c.setSeq q v).tapeLines = c.tapeLines := by cases q <;> rfl
@[simp] theorem setSeq_replayTape (c : Core) (q : Sq) (v : Seq) : (c.setSeq q v).replayTape = c.replayTape := by cases q <;> rfl
@[simp] theorem setSeq_replayIssue (c : Core) (q : Sq) (v : Seq) : (c.setSeq q v).replayIssue = c.replayIssue := by cases q <;> rfl
@[simp] theorem setSeq_trapcause (c : Core) (q : Sq) (v : Seq) : (c.setSeq q v).trapcause = c.trapcause := by cases q <;> rfl
@[simp] theorem setSeq_trapva (c : Core) (q : Sq) (v : Seq) : (c.setSeq q v).trapva = c.trapva := by cases q <;> rfl
@[simp] theorem setSeq_trapvec (c : Core) (q : Sq) (v : Seq) : (c.setSeq q v).trapvec = c.trapvec := by cases q <;> rfl
@[simp] theorem setSeq_epc (c : Core) (q : Sq) (v : Seq) : (c.setSeq q v).epc = c.epc := by cases q <;> rfl
@[simp] theorem setSeq_xsave (c : Core) (q : Sq) (v : Seq) : (c.setSeq q v).xsave = c.xsave := by cases q <;> rfl
@[simp] theorem setSeq_snap (c : Core) (q : Sq) (v : Seq) : (c.setSeq q v).snap = c.snap := by cases q <;> rfl
@[simp] theorem setSeq_resumeAt (c : Core) (q : Sq) (v : Seq) : (c.setSeq q v).resumeAt = c.resumeAt := by cases q <;> rfl
@[simp] theorem setSeq_stop (c : Core) (q : Sq) (v : Seq) : (c.setSeq q v).stop = c.stop := by cases q <;> rfl
@[simp] theorem setSeq_replayFault (c : Core) (q : Sq) (v : Seq) : (c.setSeq q v).replayFault = c.replayFault := by cases q <;> rfl
@[simp] theorem setSeq_preempt (c : Core) (q : Sq) (v : Seq) : (c.setSeq q v).preempt = c.preempt := by cases q <;> rfl
@[simp] theorem setSeq_ramp (c : Core) (q : Sq) (v : Seq) : (c.setSeq q v).ramp = c.ramp := by cases q <;> rfl
@[simp] theorem setSeq_matBusy (c : Core) (q : Sq) (v : Seq) : (c.setSeq q v).matBusy = c.matBusy := by cases q <;> rfl
@[simp] theorem setSeq_sfuBusy (c : Core) (q : Sq) (v : Seq) : (c.setSeq q v).sfuBusy = c.sfuBusy := by cases q <;> rfl
@[simp] theorem setSeq_gangCount (c : Core) (q : Sq) (v : Seq) : (c.setSeq q v).gangCount = c.gangCount := by cases q <;> rfl
@[simp] theorem setSeq_gang (c : Core) (q : Sq) (v : Seq) : (c.setSeq q v).gang = c.gang := by cases q <;> rfl
@[simp] theorem setSeq_barCount (c : Core) (q : Sq) (v : Seq) : (c.setSeq q v).barCount = c.barCount := by cases q <;> rfl
@[simp] theorem setSeq_barWaiting (c : Core) (q : Sq) (v : Seq) : (c.setSeq q v).barWaiting = c.barWaiting := by cases q <;> rfl
@[simp] theorem setSeq_iter (c : Core) (q : Sq) (v : Seq) : (c.setSeq q v).iter = c.iter := by cases q <;> rfl
@[simp] theorem setSeq_lastLaunch (c : Core) (q : Sq) (v : Seq) : (c.setSeq q v).lastLaunch = c.lastLaunch := by cases q <;> rfl
@[simp] theorem setSeq_suspended (c : Core) (q : Sq) (v : Seq) : (c.setSeq q v).suspended = c.suspended := by cases q <;> rfl
@[simp] theorem setSeq_madeVis (c : Core) (q : Sq) (v : Seq) : (c.setSeq q v).madeVis = c.madeVis := by cases q <;> rfl
@[simp] theorem modSeqC_h (c : Core) (q : Sq) (f : Seq → Seq) : (c.modSeq q f).h = c.h := by cases q <;> rfl
@[simp] theorem modSeqC_hLate (c : Core) (q : Sq) (f : Seq → Seq) : (c.modSeq q f).hLate = c.hLate := by cases q <;> rfl
@[simp] theorem modSeqC_k (c : Core) (q : Sq) (f : Seq → Seq) : (c.modSeq q f).k = c.k := by cases q <;> rfl
@[simp] theorem modSeqC_tokens (c : Core) (q : Sq) (f : Seq → Seq) : (c.modSeq q f).tokens = c.tokens := by cases q <;> rfl
@[simp] theorem modSeqC_rising (c : Core) (q : Sq) (f : Seq → Seq) : (c.modSeq q f).rising = c.rising := by cases q <;> rfl
@[simp] theorem modSeqC_flights (c : Core) (q : Sq) (f : Seq → Seq) : (c.modSeq q f).flights = c.flights := by cases q <;> rfl
@[simp] theorem modSeqC_cmds (c : Core) (q : Sq) (f : Seq → Seq) : (c.modSeq q f).cmds = c.cmds := by cases q <;> rfl
@[simp] theorem modSeqC_matWrites (c : Core) (q : Sq) (f : Seq → Seq) : (c.modSeq q f).matWrites = c.matWrites := by cases q <;> rfl
@[simp] theorem modSeqC_pend (c : Core) (q : Sq) (f : Seq → Seq) : (c.modSeq q f).pend = c.pend := by cases q <;> rfl
@[simp] theorem modSeqC_arb (c : Core) (q : Sq) (f : Seq → Seq) : (c.modSeq q f).arb = c.arb := by cases q <;> rfl
@[simp] theorem modSeqC_spad (c : Core) (q : Sq) (f : Seq → Seq) : (c.modSeq q f).spad = c.spad := by cases q <;> rfl
@[simp] theorem modSeqC_spadBad (c : Core) (q : Sq) (f : Seq → Seq) : (c.modSeq q f).spadBad = c.spadBad := by cases q <;> rfl
@[simp] theorem modSeqC_accBad (c : Core) (q : Sq) (f : Seq → Seq) : (c.modSeq q f).accBad = c.accBad := by cases q <;> rfl
@[simp] theorem modSeqC_spadHist (c : Core) (q : Sq) (f : Seq → Seq) : (c.modSeq q f).spadHist = c.spadHist := by cases q <;> rfl
@[simp] theorem modSeqC_acc (c : Core) (q : Sq) (f : Seq → Seq) : (c.modSeq q f).acc = c.acc := by cases q <;> rfl
@[simp] theorem modSeqC_m (c : Core) (q : Sq) (f : Seq → Seq) : (c.modSeq q f).m = c.m := by cases q <;> rfl
@[simp] theorem modSeqC_acct (c : Core) (q : Sq) (f : Seq → Seq) : (c.modSeq q f).acct = c.acct := by cases q <;> rfl
@[simp] theorem modSeqC_vwb (c : Core) (q : Sq) (f : Seq → Seq) : (c.modSeq q f).vwb = c.vwb := by cases q <;> rfl
@[simp] theorem modSeqC_mcr (c : Core) (q : Sq) (f : Seq → Seq) : (c.modSeq q f).mcr = c.mcr := by cases q <;> rfl
@[simp] theorem modSeqC_handles (c : Core) (q : Sq) (f : Seq → Seq) : (c.modSeq q f).handles = c.handles := by cases q <;> rfl
@[simp] theorem modSeqC_handleBad (c : Core) (q : Sq) (f : Seq → Seq) : (c.modSeq q f).handleBad = c.handleBad := by cases q <;> rfl
@[simp] theorem modSeqC_ntBad (c : Core) (q : Sq) (f : Seq → Seq) : (c.modSeq q f).ntBad = c.ntBad := by cases q <;> rfl
@[simp] theorem modSeqC_tapeBad (c : Core) (q : Sq) (f : Seq → Seq) : (c.modSeq q f).tapeBad = c.tapeBad := by cases q <;> rfl
@[simp] theorem modSeqC_htgen (c : Core) (q : Sq) (f : Seq → Seq) : (c.modSeq q f).htgen = c.htgen := by cases q <;> rfl
@[simp] theorem modSeqC_nt (c : Core) (q : Sq) (f : Seq → Seq) : (c.modSeq q f).nt = c.nt := by cases q <;> rfl
@[simp] theorem modSeqC_ntgen (c : Core) (q : Sq) (f : Seq → Seq) : (c.modSeq q f).ntgen = c.ntgen := by cases q <;> rfl
@[simp] theorem modSeqC_ntlocks (c : Core) (q : Sq) (f : Seq → Seq) : (c.modSeq q f).ntlocks = c.ntlocks := by cases q <;> rfl
@[simp] theorem modSeqC_ntrefs (c : Core) (q : Sq) (f : Seq → Seq) : (c.modSeq q f).ntrefs = c.ntrefs := by cases q <;> rfl
@[simp] theorem modSeqC_tags (c : Core) (q : Sq) (f : Seq → Seq) : (c.modSeq q f).tags = c.tags := by cases q <;> rfl
@[simp] theorem modSeqC_tstat (c : Core) (q : Sq) (f : Seq → Seq) : (c.modSeq q f).tstat = c.tstat := by cases q <;> rfl
@[simp] theorem modSeqC_engerr (c : Core) (q : Sq) (f : Seq → Seq) : (c.modSeq q f).engerr = c.engerr := by cases q <;> rfl
@[simp] theorem modSeqC_engerrva (c : Core) (q : Sq) (f : Seq → Seq) : (c.modSeq q f).engerrva = c.engerrva := by cases q <;> rfl
@[simp] theorem modSeqC_engerrAt (c : Core) (q : Sq) (f : Seq → Seq) : (c.modSeq q f).engerrAt = c.engerrAt := by cases q <;> rfl
@[simp] theorem modSeqC_tagKnow (c : Core) (q : Sq) (f : Seq → Seq) : (c.modSeq q f).tagKnow = c.tagKnow := by cases q <;> rfl
@[simp] theorem modSeqC_bferr (c : Core) (q : Sq) (f : Seq → Seq) : (c.modSeq q f).bferr = c.bferr := by cases q <;> rfl
@[simp] theorem modSeqC_derr (c : Core) (q : Sq) (f : Seq → Seq) : (c.modSeq q f).derr = c.derr := by cases q <;> rfl
@[simp] theorem modSeqC_derrva (c : Core) (q : Sq) (f : Seq → Seq) : (c.modSeq q f).derrva = c.derrva := by cases q <;> rfl
@[simp] theorem modSeqC_pv (c : Core) (q : Sq) (f : Seq → Seq) : (c.modSeq q f).pv = c.pv := by cases q <;> rfl
@[simp] theorem modSeqC_tapemiss (c : Core) (q : Sq) (f : Seq → Seq) : (c.modSeq q f).tapemiss = c.tapemiss := by cases q <;> rfl
@[simp] theorem modSeqC_rpstat (c : Core) (q : Sq) (f : Seq → Seq) : (c.modSeq q f).rpstat = c.rpstat := by cases q <;> rfl
@[simp] theorem modSeqC_rpnext (c : Core) (q : Sq) (f : Seq → Seq) : (c.modSeq q f).rpnext = c.rpnext := by cases q <;> rfl
@[simp] theorem modSeqC_tapes (c : Core) (q : Sq) (f : Seq → Seq) : (c.modSeq q f).tapes = c.tapes := by cases q <;> rfl
@[simp] theorem modSeqC_tapePhase (c : Core) (q : Sq) (f : Seq → Seq) : (c.modSeq q f).tapePhase = c.tapePhase := by cases q <;> rfl
@[simp] theorem modSeqC_tapeBegun (c : Core) (q : Sq) (f : Seq → Seq) : (c.modSeq q f).tapeBegun = c.tapeBegun := by cases q <;> rfl
@[simp] theorem modSeqC_tapeEnded (c : Core) (q : Sq) (f : Seq → Seq) : (c.modSeq q f).tapeEnded = c.tapeEnded := by cases q <;> rfl
@[simp] theorem modSeqC_tapeLines (c : Core) (q : Sq) (f : Seq → Seq) : (c.modSeq q f).tapeLines = c.tapeLines := by cases q <;> rfl
@[simp] theorem modSeqC_replayTape (c : Core) (q : Sq) (f : Seq → Seq) : (c.modSeq q f).replayTape = c.replayTape := by cases q <;> rfl
@[simp] theorem modSeqC_replayIssue (c : Core) (q : Sq) (f : Seq → Seq) : (c.modSeq q f).replayIssue = c.replayIssue := by cases q <;> rfl
@[simp] theorem modSeqC_trapcause (c : Core) (q : Sq) (f : Seq → Seq) : (c.modSeq q f).trapcause = c.trapcause := by cases q <;> rfl
@[simp] theorem modSeqC_trapva (c : Core) (q : Sq) (f : Seq → Seq) : (c.modSeq q f).trapva = c.trapva := by cases q <;> rfl
@[simp] theorem modSeqC_trapvec (c : Core) (q : Sq) (f : Seq → Seq) : (c.modSeq q f).trapvec = c.trapvec := by cases q <;> rfl
@[simp] theorem modSeqC_epc (c : Core) (q : Sq) (f : Seq → Seq) : (c.modSeq q f).epc = c.epc := by cases q <;> rfl
@[simp] theorem modSeqC_xsave (c : Core) (q : Sq) (f : Seq → Seq) : (c.modSeq q f).xsave = c.xsave := by cases q <;> rfl
@[simp] theorem modSeqC_snap (c : Core) (q : Sq) (f : Seq → Seq) : (c.modSeq q f).snap = c.snap := by cases q <;> rfl
@[simp] theorem modSeqC_resumeAt (c : Core) (q : Sq) (f : Seq → Seq) : (c.modSeq q f).resumeAt = c.resumeAt := by cases q <;> rfl
@[simp] theorem modSeqC_stop (c : Core) (q : Sq) (f : Seq → Seq) : (c.modSeq q f).stop = c.stop := by cases q <;> rfl
@[simp] theorem modSeqC_replayFault (c : Core) (q : Sq) (f : Seq → Seq) : (c.modSeq q f).replayFault = c.replayFault := by cases q <;> rfl
@[simp] theorem modSeqC_preempt (c : Core) (q : Sq) (f : Seq → Seq) : (c.modSeq q f).preempt = c.preempt := by cases q <;> rfl
@[simp] theorem modSeqC_ramp (c : Core) (q : Sq) (f : Seq → Seq) : (c.modSeq q f).ramp = c.ramp := by cases q <;> rfl
@[simp] theorem modSeqC_matBusy (c : Core) (q : Sq) (f : Seq → Seq) : (c.modSeq q f).matBusy = c.matBusy := by cases q <;> rfl
@[simp] theorem modSeqC_sfuBusy (c : Core) (q : Sq) (f : Seq → Seq) : (c.modSeq q f).sfuBusy = c.sfuBusy := by cases q <;> rfl
@[simp] theorem modSeqC_gangCount (c : Core) (q : Sq) (f : Seq → Seq) : (c.modSeq q f).gangCount = c.gangCount := by cases q <;> rfl
@[simp] theorem modSeqC_gang (c : Core) (q : Sq) (f : Seq → Seq) : (c.modSeq q f).gang = c.gang := by cases q <;> rfl
@[simp] theorem modSeqC_barCount (c : Core) (q : Sq) (f : Seq → Seq) : (c.modSeq q f).barCount = c.barCount := by cases q <;> rfl
@[simp] theorem modSeqC_barWaiting (c : Core) (q : Sq) (f : Seq → Seq) : (c.modSeq q f).barWaiting = c.barWaiting := by cases q <;> rfl
@[simp] theorem modSeqC_iter (c : Core) (q : Sq) (f : Seq → Seq) : (c.modSeq q f).iter = c.iter := by cases q <;> rfl
@[simp] theorem modSeqC_lastLaunch (c : Core) (q : Sq) (f : Seq → Seq) : (c.modSeq q f).lastLaunch = c.lastLaunch := by cases q <;> rfl
@[simp] theorem modSeqC_suspended (c : Core) (q : Sq) (f : Seq → Seq) : (c.modSeq q f).suspended = c.suspended := by cases q <;> rfl
@[simp] theorem modSeqC_madeVis (c : Core) (q : Sq) (f : Seq → Seq) : (c.modSeq q f).madeVis = c.madeVis := by cases q <;> rfl

@[simp] theorem setG_p (q : Seq) (r : Reg) (v : Word) : (q.setG r v).p = q.p := by unfold Seq.setG; split <;> rfl
@[simp] theorem setG_lc (q : Seq) (r : Reg) (v : Word) : (q.setG r v).lc = q.lc := by unfold Seq.setG; split <;> rfl
@[simp] theorem setG_pc (q : Seq) (r : Reg) (v : Word) : (q.setG r v).pc = q.pc := by unfold Seq.setG; split <;> rfl
@[simp] theorem setG_fpstat (q : Seq) (r : Reg) (v : Word) : (q.setG r v).fpstat = q.fpstat := by unfold Seq.setG; split <;> rfl
@[simp] theorem setG_blocks (q : Seq) (r : Reg) (v : Word) : (q.setG r v).blocks = q.blocks := by unfold Seq.setG; split <;> rfl
@[simp] theorem setG_entry (q : Seq) (r : Reg) (v : Word) : (q.setG r v).entry = q.entry := by unfold Seq.setG; split <;> rfl
@[simp] theorem setG_extent (q : Seq) (r : Reg) (v : Word) : (q.setG r v).extent = q.extent := by unfold Seq.setG; split <;> rfl
@[simp] theorem setG_ended (q : Seq) (r : Reg) (v : Word) : (q.setG r v).ended = q.ended := by unfold Seq.setG; split <;> rfl
@[simp] theorem setG_eventLatch (q : Seq) (r : Reg) (v : Word) : (q.setG r v).eventLatch = q.eventLatch := by unfold Seq.setG; split <;> rfl
@[simp] theorem setG_since (q : Seq) (r : Reg) (v : Word) : (q.setG r v).since = q.since := by unfold Seq.setG; split <;> rfl
@[simp] theorem setG_wait (q : Seq) (r : Reg) (v : Word) : (q.setG r v).wait = q.wait := by unfold Seq.setG; split <;> rfl
@[simp] theorem setG_lastSafe (q : Seq) (r : Reg) (v : Word) : (q.setG r v).lastSafe = q.lastSafe := by unfold Seq.setG; split <;> rfl
@[simp] theorem setG_maskAt (q : Seq) (r : Reg) (v : Word) : (q.setG r v).maskAt = q.maskAt := by unfold Seq.setG; split <;> rfl
@[simp] theorem setG_discard (q : Seq) (r : Reg) (v : Word) : (q.setG r v).discard = q.discard := by unfold Seq.setG; split <;> rfl
@[simp] theorem setG_refetch (q : Seq) (r : Reg) (v : Word) : (q.setG r v).refetch = q.refetch := by unfold Seq.setG; split <;> rfl
@[simp] theorem setG_know (q : Seq) (r : Reg) (v : Word) : (q.setG r v).know = q.know := by unfold Seq.setG; split <;> rfl
@[simp] theorem setG_hold (q : Seq) (r : Reg) (v : Word) : (q.setG r v).hold = q.hold := by unfold Seq.setG; split <;> rfl
@[simp] theorem setG_tried (q : Seq) (r : Reg) (v : Word) : (q.setG r v).tried = q.tried := by unfold Seq.setG; split <;> rfl
@[simp] theorem setG_unacked (q : Seq) (r : Reg) (v : Word) : (q.setG r v).unacked = q.unacked := by unfold Seq.setG; split <;> rfl
@[simp] theorem setG_gcls (q : Seq) (r : Reg) (v : Word) : (q.setG r v).gcls = q.gcls := by unfold Seq.setG; split <;> rfl
@[simp] theorem setG_pcls (q : Seq) (r : Reg) (v : Word) : (q.setG r v).pcls = q.pcls := by unfold Seq.setG; split <;> rfl
@[simp] theorem setG_lccls (q : Seq) (r : Reg) (v : Word) : (q.setG r v).lccls = q.lccls := by unfold Seq.setG; split <;> rfl

@[simp] theorem setP_g (q : Seq) (r : PReg) (v : Bool) : (q.setP r v).g = q.g := by unfold Seq.setP; split <;> rfl
@[simp] theorem setP_lc (q : Seq) (r : PReg) (v : Bool) : (q.setP r v).lc = q.lc := by unfold Seq.setP; split <;> rfl
@[simp] theorem setP_pc (q : Seq) (r : PReg) (v : Bool) : (q.setP r v).pc = q.pc := by unfold Seq.setP; split <;> rfl
@[simp] theorem setP_fpstat (q : Seq) (r : PReg) (v : Bool) : (q.setP r v).fpstat = q.fpstat := by unfold Seq.setP; split <;> rfl
@[simp] theorem setP_blocks (q : Seq) (r : PReg) (v : Bool) : (q.setP r v).blocks = q.blocks := by unfold Seq.setP; split <;> rfl
@[simp] theorem setP_entry (q : Seq) (r : PReg) (v : Bool) : (q.setP r v).entry = q.entry := by unfold Seq.setP; split <;> rfl
@[simp] theorem setP_extent (q : Seq) (r : PReg) (v : Bool) : (q.setP r v).extent = q.extent := by unfold Seq.setP; split <;> rfl
@[simp] theorem setP_ended (q : Seq) (r : PReg) (v : Bool) : (q.setP r v).ended = q.ended := by unfold Seq.setP; split <;> rfl
@[simp] theorem setP_eventLatch (q : Seq) (r : PReg) (v : Bool) : (q.setP r v).eventLatch = q.eventLatch := by unfold Seq.setP; split <;> rfl
@[simp] theorem setP_since (q : Seq) (r : PReg) (v : Bool) : (q.setP r v).since = q.since := by unfold Seq.setP; split <;> rfl
@[simp] theorem setP_wait (q : Seq) (r : PReg) (v : Bool) : (q.setP r v).wait = q.wait := by unfold Seq.setP; split <;> rfl
@[simp] theorem setP_lastSafe (q : Seq) (r : PReg) (v : Bool) : (q.setP r v).lastSafe = q.lastSafe := by unfold Seq.setP; split <;> rfl
@[simp] theorem setP_maskAt (q : Seq) (r : PReg) (v : Bool) : (q.setP r v).maskAt = q.maskAt := by unfold Seq.setP; split <;> rfl
@[simp] theorem setP_discard (q : Seq) (r : PReg) (v : Bool) : (q.setP r v).discard = q.discard := by unfold Seq.setP; split <;> rfl
@[simp] theorem setP_refetch (q : Seq) (r : PReg) (v : Bool) : (q.setP r v).refetch = q.refetch := by unfold Seq.setP; split <;> rfl
@[simp] theorem setP_know (q : Seq) (r : PReg) (v : Bool) : (q.setP r v).know = q.know := by unfold Seq.setP; split <;> rfl
@[simp] theorem setP_hold (q : Seq) (r : PReg) (v : Bool) : (q.setP r v).hold = q.hold := by unfold Seq.setP; split <;> rfl
@[simp] theorem setP_tried (q : Seq) (r : PReg) (v : Bool) : (q.setP r v).tried = q.tried := by unfold Seq.setP; split <;> rfl
@[simp] theorem setP_unacked (q : Seq) (r : PReg) (v : Bool) : (q.setP r v).unacked = q.unacked := by unfold Seq.setP; split <;> rfl
@[simp] theorem setP_gcls (q : Seq) (r : PReg) (v : Bool) : (q.setP r v).gcls = q.gcls := by unfold Seq.setP; split <;> rfl
@[simp] theorem setP_pcls (q : Seq) (r : PReg) (v : Bool) : (q.setP r v).pcls = q.pcls := by unfold Seq.setP; split <;> rfl
@[simp] theorem setP_lccls (q : Seq) (r : PReg) (v : Bool) : (q.setP r v).lccls = q.lccls := by unfold Seq.setP; split <;> rfl

@[simp] theorem setLc_g (q : Seq) (d : Nat) (v : BitVec 32) : (q.setLc d v).g = q.g := by unfold Seq.setLc; split <;> rfl
@[simp] theorem setLc_p (q : Seq) (d : Nat) (v : BitVec 32) : (q.setLc d v).p = q.p := by unfold Seq.setLc; split <;> rfl
@[simp] theorem setLc_pc (q : Seq) (d : Nat) (v : BitVec 32) : (q.setLc d v).pc = q.pc := by unfold Seq.setLc; split <;> rfl
@[simp] theorem setLc_fpstat (q : Seq) (d : Nat) (v : BitVec 32) : (q.setLc d v).fpstat = q.fpstat := by unfold Seq.setLc; split <;> rfl
@[simp] theorem setLc_blocks (q : Seq) (d : Nat) (v : BitVec 32) : (q.setLc d v).blocks = q.blocks := by unfold Seq.setLc; split <;> rfl
@[simp] theorem setLc_entry (q : Seq) (d : Nat) (v : BitVec 32) : (q.setLc d v).entry = q.entry := by unfold Seq.setLc; split <;> rfl
@[simp] theorem setLc_extent (q : Seq) (d : Nat) (v : BitVec 32) : (q.setLc d v).extent = q.extent := by unfold Seq.setLc; split <;> rfl
@[simp] theorem setLc_ended (q : Seq) (d : Nat) (v : BitVec 32) : (q.setLc d v).ended = q.ended := by unfold Seq.setLc; split <;> rfl
@[simp] theorem setLc_eventLatch (q : Seq) (d : Nat) (v : BitVec 32) : (q.setLc d v).eventLatch = q.eventLatch := by unfold Seq.setLc; split <;> rfl
@[simp] theorem setLc_since (q : Seq) (d : Nat) (v : BitVec 32) : (q.setLc d v).since = q.since := by unfold Seq.setLc; split <;> rfl
@[simp] theorem setLc_wait (q : Seq) (d : Nat) (v : BitVec 32) : (q.setLc d v).wait = q.wait := by unfold Seq.setLc; split <;> rfl
@[simp] theorem setLc_lastSafe (q : Seq) (d : Nat) (v : BitVec 32) : (q.setLc d v).lastSafe = q.lastSafe := by unfold Seq.setLc; split <;> rfl
@[simp] theorem setLc_maskAt (q : Seq) (d : Nat) (v : BitVec 32) : (q.setLc d v).maskAt = q.maskAt := by unfold Seq.setLc; split <;> rfl
@[simp] theorem setLc_discard (q : Seq) (d : Nat) (v : BitVec 32) : (q.setLc d v).discard = q.discard := by unfold Seq.setLc; split <;> rfl
@[simp] theorem setLc_refetch (q : Seq) (d : Nat) (v : BitVec 32) : (q.setLc d v).refetch = q.refetch := by unfold Seq.setLc; split <;> rfl
@[simp] theorem setLc_know (q : Seq) (d : Nat) (v : BitVec 32) : (q.setLc d v).know = q.know := by unfold Seq.setLc; split <;> rfl
@[simp] theorem setLc_hold (q : Seq) (d : Nat) (v : BitVec 32) : (q.setLc d v).hold = q.hold := by unfold Seq.setLc; split <;> rfl
@[simp] theorem setLc_tried (q : Seq) (d : Nat) (v : BitVec 32) : (q.setLc d v).tried = q.tried := by unfold Seq.setLc; split <;> rfl
@[simp] theorem setLc_unacked (q : Seq) (d : Nat) (v : BitVec 32) : (q.setLc d v).unacked = q.unacked := by unfold Seq.setLc; split <;> rfl
@[simp] theorem setLc_gcls (q : Seq) (d : Nat) (v : BitVec 32) : (q.setLc d v).gcls = q.gcls := by unfold Seq.setLc; split <;> rfl
@[simp] theorem setLc_pcls (q : Seq) (d : Nat) (v : BitVec 32) : (q.setLc d v).pcls = q.pcls := by unfold Seq.setLc; split <;> rfl
@[simp] theorem setLc_lccls (q : Seq) (d : Nat) (v : BitVec 32) : (q.setLc d v).lccls = q.lccls := by unfold Seq.setLc; split <;> rfl

end Sys2Proof.Machine
end

