-- ==== Sys2Proof/Laws/Memory.lean ====
section
/-!
SUPPORT. Cells in canonical form: reading after writing, and every operation over memory keeps the form. No operation over memory but
those that make tapes EMPTY changes a core.
-/
namespace Sys2Proof.Machine

/-! ### Cells -/

theorem cellsPut_wfFrom (cs : List Host.Cell) (lo a : Nat) (x : Byte) (h : cellsWfFrom lo cs = true) (ha : lo ≤ a) :
    cellsWfFrom lo (cellsPut cs a x) = true := by
  induction cs generalizing lo with
  | nil =>
    unfold cellsPut
    split
    · rfl
    · simp_all [cellsWfFrom]
  | cons c cs ih =>
    obtain ⟨b, v⟩ := c
    simp only [cellsWfFrom, Bool.and_eq_true, decide_eq_true_eq] at h
    obtain ⟨⟨hb, hv⟩, hc⟩ := h
    unfold cellsPut
    split
    · rename_i hlt
      split
      · simp only [cellsWfFrom, Bool.and_eq_true, decide_eq_true_eq]
        exact ⟨⟨hb, hv⟩, hc⟩
      · rename_i hx
        simp only [cellsWfFrom, Bool.and_eq_true, decide_eq_true_eq, bne_iff_ne, ne_eq]
        exact ⟨⟨ha, hx⟩, ⟨⟨hlt, by simpa using hv⟩, hc⟩⟩
    · split
      · rename_i hab
        split
        · subst hab
          revert hc
          cases cs with
          | nil => intro _; rfl
          | cons d ds =>
            obtain ⟨e, w⟩ := d
            simp only [cellsWfFrom, Bool.and_eq_true, decide_eq_true_eq]
            rintro ⟨⟨h1, h2⟩, h3⟩
            exact ⟨⟨by omega, h2⟩, h3⟩
        · rename_i hx
          simp only [cellsWfFrom, Bool.and_eq_true, decide_eq_true_eq, bne_iff_ne, ne_eq]
          exact ⟨⟨hb, hx⟩, hc⟩
      · simp only [cellsWfFrom, Bool.and_eq_true, decide_eq_true_eq]
        exact ⟨⟨hb, hv⟩, ih (b + 1) hc (by omega)⟩

/-- Writing a byte keeps the canonical form. -/
theorem cellsPut_wf (cs : List Host.Cell) (a : Nat) (x : Byte) (h : cellsWf cs = true) : cellsWf (cellsPut cs a x) = true :=
  cellsPut_wfFrom cs 0 a x h (Nat.zero_le a)

theorem cellsGet_below (cs : List Host.Cell) (lo a : Nat) (h : cellsWfFrom lo cs = true) (ha : a < lo) : cellsGet cs a = 0 := by
  cases cs with
  | nil => rfl
  | cons c cs =>
    obtain ⟨b, v⟩ := c
    simp only [cellsWfFrom, Bool.and_eq_true, decide_eq_true_eq] at h
    have h1 : ¬ a = b := by omega
    have h2 : a < b := by omega
    simp [cellsGet, h1, h2]

theorem cellsGet_put_from (cs : List Host.Cell) (lo a b : Nat) (x : Byte) (h : cellsWfFrom lo cs = true) :
    cellsGet (cellsPut cs a x) b = if b = a then x else cellsGet cs b := by
  induction cs generalizing lo with
  | nil =>
    unfold cellsPut
    by_cases hx : x = 0#8
    · simp [hx, cellsGet]
    · by_cases hb : b = a <;> simp [hx, cellsGet, hb]
  | cons c cs ih =>
    obtain ⟨d, v⟩ := c
    simp only [cellsWfFrom, Bool.and_eq_true, decide_eq_true_eq] at h
    obtain ⟨⟨_, _⟩, hc⟩ := h
    unfold cellsPut
    by_cases hlt : a < d
    · by_cases hx : x = 0#8
      · by_cases hb : b = a
        · subst hb
          have : ¬ b = d := by omega
          simp [hx, cellsGet, this, hlt]
        · simp [hlt, hx, hb]
      · by_cases hb : b = a
        · subst hb; simp [hlt, hx, cellsGet]
        · by_cases hba : b < a
          · have h1 : ¬ b = d := by omega
            have h2 : b < d := by omega
            simp [hlt, hx, cellsGet, hb, hba, h1, h2]
          · simp [hlt, hx, cellsGet, hb, hba]
    · by_cases had : a = d
      · subst had
        by_cases hx : x = 0#8
        · by_cases hb : b = a
          · subst hb
            have := cellsGet_below cs (b + 1) b hc (by omega)
            simp [hx, this]
          · by_cases hba : b < a
            · have := cellsGet_below cs (a + 1) b hc (by omega)
              simp [hx, cellsGet, hb, hba, this]
            · simp [hx, cellsGet, hb, hba]
        · by_cases hb : b = a
          · subst hb; simp [hx, cellsGet]
          · simp [hx, cellsGet, hb]
      · simp only [hlt, had, if_false, cellsGet]
        by_cases hbd : b = d
        · subst hbd
          have : ¬ b = a := fun e => had e.symm
          simp [this]
        · by_cases hbl : b < d
          · have : ¬ b = a := by omega
            simp [hbd, hbl, this]
          · simp only [hbd, hbl, if_false]
            exact ih (d + 1) hc

/-- A read after a write: the value written there, what was there elsewhere. -/
theorem cellsGet_put (cs : List Host.Cell) (a b : Nat) (x : Byte) (h : cellsWf cs = true) :
    cellsGet (cellsPut cs a x) b = if b = a then x else cellsGet cs b := cellsGet_put_from cs 0 a b x h

/-- Many writes keep the canonical form. -/
theorem cellsFold_wf {α : Type} (ws : List α) (ad : α → Nat) (va : α → Byte) (cs : List Host.Cell) (h : cellsWf cs = true) :
    cellsWf (ws.foldl (fun cs w => cellsPut cs (ad w) (va w)) cs) = true := by
  induction ws generalizing cs with
  | nil => exact h
  | cons w ws ih => exact ih _ (cellsPut_wf cs (ad w) (va w) h)

/-! ### What a fold keeps -/

/-- What every step of a fold keeps, the fold keeps. -/
theorem foldl_keeps {α β : Type} (P : β → Prop) (f : β → α → β) (hf : ∀ s x, P s → P (f s x)) (xs : List α) (s : β) (h : P s) :
    P (xs.foldl f s) := by
  induction xs generalizing s with
  | nil => exact h
  | cons x xs ih => exact ih _ (hf s x h)

/-! ### Reading changes no byte -/

/-- The bytes of memory, its sectors' marks apart, and the writes made are the same. -/
structure SameBytes (s t : State) : Prop where
  cells : t.mem.cells = s.mem.cells
  hist : t.mem.hist = s.mem.hist
  writes : t.mem.writes = s.mem.writes

theorem SameBytes.refl (s : State) : SameBytes s s := ⟨rfl, rfl, rfl⟩

theorem SameBytes.trans {a b c : State} (h : SameBytes a b) (k : SameBytes b c) : SameBytes a c :=
  ⟨k.cells.trans h.cells, k.hist.trans h.hist, k.writes.trans h.writes⟩

theorem SameBytes.wf {s t : State} (h : SameBytes s t) (w : s.mem.wf = true) : t.mem.wf = true := by
  simp only [Memory.wf, h.cells] at *; exact w

theorem setMark_bytes (s : State) (k : Nat) (m : Option SectorMark) : SameBytes s (s.setMark k m) := ⟨rfl, rfl, rfl⟩

theorem foundUe_bytes (s : State) (k : Nat) : SameBytes s (s.foundUe k) := ⟨rfl, rfl, rfl⟩

theorem noteFound_bytes (s : State) (k : Nat) : SameBytes s (s.noteFound k) := ⟨rfl, rfl, rfl⟩

/-- Reading a sector through its code leaves the stored bytes (R396: a corrected sector is not rewritten by the read). -/
theorem checkSector_bytes (s : State) (k : Nat) : SameBytes s (s.checkSector k).2 := by
  unfold State.checkSector
  simp only
  split
  · exact SameBytes.refl s
  · split <;> exact ⟨rfl, rfl, rfl⟩
  · split
    · exact SameBytes.refl s
    · split <;> exact ⟨rfl, rfl, rfl⟩

theorem checkSectors_bytes (ks : List Nat) (s : State) : SameBytes s (s.checkSectors ks).2 := by
  induction ks generalizing s with
  | nil => exact SameBytes.refl s
  | cons k ks ih => exact (checkSector_bytes s k).trans (ih _)

theorem readList_bytes (o : WriteRec → Bool) (seen : List (Nat × SectorNow)) (pas : List Nat) (s : State) :
    SameBytes s (s.readList o seen pas).2 := by
  induction pas generalizing s with
  | nil => exact SameBytes.refl s
  | cons a as ih =>
    unfold State.readList
    simp only
    refine SameBytes.trans ?_ (ih _)
    split
    · exact ⟨rfl, rfl, rfl⟩
    · split <;> exact ⟨rfl, rfl, rfl⟩

/-- A read of memory. -/
theorem readCells_bytes (s : State) (o : WriteRec → Bool) (pas : List Nat) : SameBytes s (s.readCells o pas).2 := by
  unfold State.readCells
  exact (checkSectors_bytes _ s).trans (readList_bytes _ _ _ _)

theorem readPas_bytes (s : State) (o : WriteRec → Bool) (pas : List Nat) : SameBytes s (s.readPas o pas).2 := readCells_bytes s o pas

theorem readAs_bytes (s : State) (a : Actor) (pas : List Nat) : SameBytes s (s.readAs a pas).2 := readCells_bytes s _ pas

/-! ### Every operation keeps the form -/

@[simp] theorem setMark_cells (s : State) (k : Nat) (m : Option SectorMark) : (s.setMark k m).mem.cells = s.mem.cells := rfl

theorem putSector_wf (s : State) (k : Nat) (d : List Byte) (h : s.mem.wf = true) : (s.putSector k d).mem.wf = true := by
  simp only [State.putSector, Memory.wf]
  exact cellsFold_wf (List.range 32) (fun i => k * 32 + i) (fun i => d.getD i 0) _ h

theorem setMark_wf (s : State) (k : Nat) (m : Option SectorMark) (h : s.mem.wf = true) : (s.setMark k m).mem.wf = true := h

theorem unmark_wf (s : State) (k : Nat) (h : s.mem.wf = true) : (s.unmark k).2.mem.wf = true := by
  unfold State.unmark
  split
  · exact h
  · exact h
  · split
    · exact h
    · exact setMark_wf _ _ _ (putSector_wf s k _ h)
    · exact h

theorem rewrite_wf (s : State) (v : Nat × SectorNow) (h : s.mem.wf = true) : (s.rewrite v).mem.wf = true := by
  unfold State.rewrite
  split
  · exact setMark_wf _ _ _ (putSector_wf s _ _ h)
  · exact h

theorem choosePlace_mem (s : State) (a : Actor) (k : WriteKind) (pa : Nat) : (s.choosePlace a k pa).2.mem = s.mem := by
  unfold State.choosePlace
  split <;> rfl

theorem putByte_wf (s : State) (a : Actor) (k : WriteKind) (bad whole : Bool) (pa : Nat) (v : Byte) (n : Nat) (h : s.mem.wf = true) :
    (s.putByte a k bad whole pa v n).mem.wf = true := by
  unfold State.putByte
  simp only
  split
  · exact cellsPut_wf _ pa v h
  · split <;> exact h

theorem writeByte_wf (s : State) (a : Actor) (k : WriteKind) (whole : Bool) (pa : Nat) (v : Byte) (h : s.mem.wf = true) :
    (s.writeByte a k whole pa v).mem.wf = true := by
  have h1 : (s.choosePlace a k pa).2.mem.wf = true := by rw [choosePlace_mem]; exact h
  exact putByte_wf _ a k false whole pa v _ h1

theorem writeWhole_wf (s : State) (a : Actor) (k : WriteKind) (sec : Nat) (ws : List (Nat × Byte)) (h : s.mem.wf = true) :
    (s.writeWhole a k sec ws).mem.wf = true := by
  have hp : ∀ (n : Nat) (t : State), t.mem.wf = true →
      (ws.foldl (fun s w => s.putByte a k true true w.1 w.2 n) t).mem.wf = true := fun n t ht =>
    foldl_keeps (fun t : State => t.mem.wf = true) _ (fun t w ht => putByte_wf t _ _ _ _ _ _ _ ht) ws t ht
  unfold State.writeWhole
  simp only
  generalize List.all ws _ = loose
  generalize hu : s.unmark sec = u
  have h1 : u.2.mem.wf = true := hu ▸ unmark_wf s sec h
  split
  · cases loose
    · exact hp 0 _ h1
    · simp only [if_true]
      split
      · exact hp 1 _ h
      · exact hp 0 _ h1
  · exact foldl_keeps (fun t : State => t.mem.wf = true) _ (fun t w ht => writeByte_wf t _ _ _ _ _ ht) ws _ h1

theorem writePart_wf (s : State) (a : Actor) (k : WriteKind) (sec : Nat) (ws : List (Nat × Byte)) (h : s.mem.wf = true) :
    (s.writePart a k sec ws).mem.wf = true := by
  unfold State.writePart
  simp only
  have h1 := (checkSector_bytes s sec).wf h
  split
  · exact h1
  · exact foldl_keeps (fun t : State => t.mem.wf = true) _ (fun t w ht => writeByte_wf t _ _ _ _ _ ht) ws _ (rewrite_wf _ _ h1)

/-- Writing bytes at their homes keeps the form. -/
theorem putPas_wf (s : State) (a : Actor) (k : WriteKind) (ws : List (Nat × Byte)) (h : s.mem.wf = true) :
    (s.putPas a k ws).mem.wf = true := by
  unfold State.putPas
  refine foldl_keeps (fun t : State => t.mem.wf = true) _ (fun t sec ht => ?_) _ s h
  simp only
  split
  · exact writeWhole_wf t _ _ _ _ ht
  · exact writePart_wf t _ _ _ _ ht

theorem foldState_mem {α : Type} (f : State → α → State) (hf : ∀ s x, (f s x).mem = s.mem) (xs : List α) (s : State) :
    (xs.foldl f s).mem = s.mem :=
  foldl_keeps (fun t : State => t.mem = s.mem) f (fun t x ht => (hf t x).trans ht) xs s rfl

theorem emptyTape_mem (s : State) (c : CoreId) (t : Fin 16) (n : Nat) : (s.emptyTape c t n).mem = s.mem := rfl

theorem touchCode_mem (s : State) (pas : List Nat) : (s.touchCode pas).mem = s.mem :=
  foldState_mem (fun (s : State) (l : Nat × CoreId × Fin 16) => s.emptyTape l.2.1 l.2.2 7) (fun s l => emptyTape_mem s l.2.1 l.2.2 7) _ s

theorem stubHold_mem (s : State) (i : Nat) (h : HeldAccess) : (s.stubHold i h).mem = s.mem := rfl

theorem sendAway_mem (s : State) (h : HeldAccess) : (s.sendAway h).mem = s.mem := by
  unfold State.sendAway; split <;> rfl

theorem holdWrites_mem (s : State) (a : Actor) (ws : List (Nat × Byte)) : (s.holdWrites a ws).mem = s.mem :=
  foldState_mem _ (fun _ _ => sendAway_mem _ _) _ s

/-- Writing keeps the form. -/
theorem writePas_wf (s : State) (a : Actor) (k : WriteKind) (ws : List (Nat × Byte)) (h : s.mem.wf = true) :
    (s.writePas a k ws).mem.wf = true := by
  unfold State.writePas
  simp only
  exact putPas_wf _ _ _ _ (by rw [holdWrites_mem, touchCode_mem]; exact h)

/-- Storing sectors poisoned keeps the form. -/
theorem poisonPas_wf (s : State) (a : Actor) (pas : List Nat) (h : s.mem.wf = true) : (s.poisonPas a pas).mem.wf = true := by
  unfold State.poisonPas
  refine foldl_keeps (fun t : State => t.mem.wf = true) _ (fun t sec ht => ?_) _ s h
  simp only
  exact setMark_wf _ _ _ (foldl_keeps (fun t : State => t.mem.wf = true) _ (fun t i ht => putByte_wf t _ _ _ _ _ _ _ ht) _ _
    (unmark_wf t sec ht))

theorem writeBack_wf (s : State) (pa : Nat) (h : s.mem.wf = true) : (s.writeBack pa).mem.wf = true := h

theorem choosePlaces_mem (a : Actor) (k : WriteKind) (pas : List Nat) (acc : List Nat × State) :
    (pas.foldl (fun (acc : List Nat × State) p => (acc.1 ++ [(acc.2.choosePlace a k p).1], (acc.2.choosePlace a k p).2)) acc).2.mem
      = acc.2.mem :=
  foldl_keeps (fun t : List Nat × State => t.2.mem = acc.2.mem) _ (fun t p ht => (choosePlace_mem t.2 a k p).trans ht) pas acc rfl

/-- An operation of a bank keeps the form. -/
theorem atomicStep_wf (s : State) (a : Actor) (r : Option Rel) (pa n : Nat) (f : Nat → Nat) (h : s.mem.wf = true) :
    (s.atomicStep a r pa n f).2.mem.wf = true := by
  unfold State.atomicStep
  simp only
  generalize hp : List.foldl _ (([], (s.checkSector (pa / 32)).2) : List Nat × State) _ = ps
  have h1 : ps.2.mem.wf = true := by
    rw [← hp, choosePlaces_mem]
    exact (checkSector_bytes s _).wf h
  split
  · exact h1
  · refine foldl_keeps (fun t : State => t.mem.wf = true) _ (fun t w ht => putByte_wf t _ _ _ _ _ _ _ ht) _ _ ?_
    rw [touchCode_mem]
    exact rewrite_wf _ _ h1

theorem unpend_mem (s : State) (c : PathClass) (w : Who) (n : Nat) : (s.unpend c w n).mem = s.mem := rfl

/-- A merged AMO on its way keeps the form. -/
theorem flushEntry_wf (s : State) (die : Fin 4) (e : CombineEntry) (h : s.mem.wf = true) : (s.flushEntry die e).mem.wf = true := by
  unfold State.flushEntry
  simp only
  split
  · rw [sendAway_mem]; exact h
  · rw [foldState_mem _ fun s (p : Who × Nat) => unpend_mem s .core p.1 p.2]
    exact atomicStep_wf _ _ _ _ _ _ h

theorem flushWhere_wf (s : State) (die : Fin 4) (p : CombineEntry → Bool) (h : s.mem.wf = true) : (s.flushWhere die p).mem.wf = true :=
  foldl_keeps (fun t : State => t.mem.wf = true) _ (fun t e ht => flushEntry_wf t die e ht) _ s h

/-- Writing a scratchpad keeps its form. -/
theorem spadWrite_wf (c : Core) (a : Actor) (ws : List (Nat × Byte)) (h : cellsWf c.spad = true) :
    cellsWf (c.spadWrite a ws).spad = true := by
  unfold Core.spadWrite
  simp only
  exact foldl_keeps (fun c : Core => cellsWf c.spad = true) _ (fun c w hc => cellsPut_wf _ _ _ hc) _ _ h

/-- Memory after reset has the form. -/
theorem reset_wf : State.reset.mem.wf = true := rfl

end Sys2Proof.Machine
end

