-- ==== Sys2Proof/Laws/Aside.lean ====
section
/-!
SUPPORT. What reading and writing memory, translation, tapes that lose their code, and the flushes of combining buffers leave alone; and what
performing the accesses on their way leaves alone.
-/
namespace Sys2Proof.Machine

/-- A state that differs only in memory, the counters of the register block, what is on its way, moves or is combined, and the states of
tapes. -/
structure Aside (s t : State) : Prop where
  core : ∀ c, ∃ ts tb ph pe, t.core c = { s.core c with tapes := ts, tapeBad := tb, tapePhase := ph, pend := pe }
  stamp : t.stamp = s.stamp
  cycle : t.cycle = s.cycle
  turn : t.turn = s.turn
  launches : t.launches = s.launches
  agenda : t.agenda = s.agenda
  inputs : t.inputs = s.inputs
  outputs : t.outputs = s.outputs
  atomflags : t.atomflags = s.atomflags
  lists : t.lists = s.lists
  queues : t.queues = s.queues
  tens : t.tens = s.tens
  insts : t.insts = s.insts
  keys : t.keys = s.keys
  tx : t.tx = s.tx
  rx : t.rx = s.rx
  pairs : t.pairs = s.pairs

theorem Aside.refl (s : State) : Aside s s :=
  ⟨fun _ => ⟨_, _, _, _, rfl⟩, rfl, rfl, rfl, rfl, rfl, rfl, rfl, rfl, rfl, rfl, rfl, rfl, rfl, rfl, rfl, rfl⟩

theorem Aside.trans {a b c : State} (h : Aside a b) (k : Aside b c) : Aside a c := by
  refine ⟨fun x => ?_, k.stamp.trans h.stamp, k.cycle.trans h.cycle, k.turn.trans h.turn, k.launches.trans h.launches,
    k.agenda.trans h.agenda, k.inputs.trans h.inputs, k.outputs.trans h.outputs, k.atomflags.trans h.atomflags,
    k.lists.trans h.lists, k.queues.trans h.queues, k.tens.trans h.tens, k.insts.trans h.insts, k.keys.trans h.keys,
    k.tx.trans h.tx, k.rx.trans h.rx, k.pairs.trans h.pairs⟩
  obtain ⟨_, _, _, _, e1⟩ := h.core x
  obtain ⟨t2, b2, p2, q2, e2⟩ := k.core x
  exact ⟨t2, b2, p2, q2, by rw [e2, e1]⟩

/-- An update of the fields that `Aside` does not name. -/
theorem Aside.upd (s : State) (m : Memory) (f : FeRegs) (n : Nat) (cb : Vector (List CombineEntry) 4)
    (cl : List (Nat × CoreId × Fin 16)) (st : List Stub) (mg : Option Migration) (pe : List HeldAccess) :
    Aside s { s with mem := m, fe := f, free := n, combine := cb, codeLines := cl, stubs := st, migration := mg, pending := pe } :=
  ⟨fun _ => ⟨_, _, _, _, rfl⟩, rfl, rfl, rfl, rfl, rfl, rfl, rfl, rfl, rfl, rfl, rfl, rfl, rfl, rfl, rfl, rfl⟩

/-- An update of memory, the counters and the free values. -/
theorem Aside.mem (s : State) (m : Memory) (f : FeRegs) (n : Nat) : Aside s { s with mem := m, fe := f, free := n } :=
  Aside.upd s m f n s.combine s.codeLines s.stubs s.migration s.pending

theorem Aside.fold {α : Type} (f : State → α → State) (hf : ∀ s x, Aside s (f s x)) (xs : List α) (s : State) :
    Aside s (xs.foldl f s) :=
  foldl_keeps (fun t => Aside s t) f (fun t x ht => ht.trans (hf t x)) xs s (Aside.refl s)

/-! ### Sectors and bytes -/

theorem putSector_aside (s : State) (k : Nat) (d : List Byte) : Aside s (s.putSector k d) := Aside.mem s _ s.fe s.free

theorem setMark_aside (s : State) (k : Nat) (m : Option SectorMark) : Aside s (s.setMark k m) := Aside.mem s _ s.fe s.free

theorem foundUe_aside (s : State) (k : Nat) : Aside s (s.foundUe k) := Aside.mem s s.mem _ _

theorem foundOnDie_aside (s : State) (k : Nat) : Aside s (s.foundOnDie k) := Aside.mem s s.mem _ _

theorem noteFound_aside (s : State) (k : Nat) : Aside s (s.noteFound k) := Aside.mem s _ s.fe s.free

theorem checkSector_aside (s : State) (k : Nat) : Aside s (s.checkSector k).2 := by
  unfold State.checkSector
  simp only
  split
  · exact Aside.refl s
  · refine Aside.trans ?_ (noteFound_aside _ k)
    split
    · exact foundUe_aside s k
    · exact Aside.mem s s.mem _ s.free
  · split
    · exact Aside.refl s
    · split
      · exact Aside.refl s
      · exact Aside.mem s s.mem _ s.free
      · exact Aside.trans ((setMark_aside s k (some .poison)).trans (Aside.mem _ _ _ _)) (noteFound_aside _ k)
      · exact ((setMark_aside s k (some .poison)).trans (foundUe_aside _ k)).trans (noteFound_aside _ k)

theorem checkSectors_aside (ks : List Nat) (s : State) : Aside s (s.checkSectors ks).2 := by
  induction ks generalizing s with
  | nil => exact Aside.refl s
  | cons k ks ih => exact (checkSector_aside s k).trans (ih _)

theorem unmark_aside (s : State) (k : Nat) : Aside s (s.unmark k).2 := by
  unfold State.unmark
  split
  · exact Aside.refl s
  · exact setMark_aside s k none
  · split
    · exact setMark_aside s k none
    · exact (putSector_aside s k _).trans (setMark_aside _ k none)
    · exact setMark_aside s k none

theorem rewrite_aside (s : State) (v : Nat × SectorNow) : Aside s (s.rewrite v) := by
  unfold State.rewrite
  split
  · exact (putSector_aside s _ _).trans (setMark_aside _ _ none)
  · exact Aside.refl s

theorem readList_aside (o : WriteRec → Bool) (seen : List (Nat × SectorNow)) (pas : List Nat) (s : State) :
    Aside s (s.readList o seen pas).2 := by
  induction pas generalizing s with
  | nil => exact Aside.refl s
  | cons a as ih =>
    unfold State.readList
    simp only
    refine Aside.trans ?_ (ih _)
    split
    · exact Aside.mem s s.mem s.fe _
    · split
      · exact Aside.refl s
      · exact Aside.mem s _ s.fe s.free

/-- A read of memory. -/
theorem readCells_aside (s : State) (o : WriteRec → Bool) (pas : List Nat) : Aside s (s.readCells o pas).2 := by
  unfold State.readCells
  exact (checkSectors_aside _ s).trans (readList_aside _ _ _ _)

theorem readPas_aside (s : State) (o : WriteRec → Bool) (pas : List Nat) : Aside s (s.readPas o pas).2 := readCells_aside s o pas

theorem readAs_aside (s : State) (a : Actor) (pas : List Nat) : Aside s (s.readAs a pas).2 := readCells_aside s _ pas

theorem choosePlace_aside (s : State) (a : Actor) (k : WriteKind) (pa : Nat) : Aside s (s.choosePlace a k pa).2 := by
  unfold State.choosePlace
  split
  · exact Aside.refl s
  · exact Aside.refl s
  · exact Aside.mem s s.mem s.fe _

theorem putByte_aside (s : State) (a : Actor) (k : WriteKind) (bad whole : Bool) (pa : Nat) (v : Byte) (n : Nat) :
    Aside s (s.putByte a k bad whole pa v n) := by
  unfold State.putByte
  simp only
  split
  · exact Aside.mem s _ s.fe s.free
  · split
    · exact Aside.refl s
    · exact Aside.mem s _ s.fe s.free

theorem writeByte_aside (s : State) (a : Actor) (k : WriteKind) (whole : Bool) (pa : Nat) (v : Byte) :
    Aside s (s.writeByte a k whole pa v) :=
  (choosePlace_aside s a k pa).trans (putByte_aside (s.choosePlace a k pa).2 a k false whole pa v _)

theorem writeWhole_aside (s : State) (a : Actor) (k : WriteKind) (sec : Nat) (ws : List (Nat × Byte)) :
    Aside s (s.writeWhole a k sec ws) := by
  have hp : ∀ (n : Nat) (t : State), Aside t (ws.foldl (fun s w => s.putByte a k true true w.1 w.2 n) t) := fun n t =>
    Aside.fold _ (fun t w => putByte_aside t _ _ _ _ _ _ _) ws t
  unfold State.writeWhole
  simp only
  generalize List.all ws _ = loose
  have hu := unmark_aside s sec
  generalize s.unmark sec = u at hu ⊢
  have h0 : ∀ n, Aside s { u.2 with free := n } := fun n => hu.trans (Aside.mem u.2 u.2.mem u.2.fe n)
  split
  · cases loose
    · exact (h0 _).trans (hp 0 _)
    · simp only [if_true]
      split
      · exact (Aside.mem s s.mem s.fe _).trans (hp 1 _)
      · exact (h0 _).trans (hp 0 _)
  · exact hu.trans (Aside.fold _ (fun t w => writeByte_aside t _ _ _ _ _) ws _)

theorem writePart_aside (s : State) (a : Actor) (k : WriteKind) (sec : Nat) (ws : List (Nat × Byte)) :
    Aside s (s.writePart a k sec ws) := by
  unfold State.writePart
  simp only
  have h1 := checkSector_aside s sec
  split
  · exact h1
  · exact (h1.trans (rewrite_aside _ _)).trans (Aside.fold _ (fun t w => writeByte_aside t _ _ _ _ _) ws _)

theorem putPas_aside (s : State) (a : Actor) (k : WriteKind) (ws : List (Nat × Byte)) : Aside s (s.putPas a k ws) := by
  unfold State.putPas
  refine Aside.fold _ (fun t sec => ?_) _ s
  simp only
  split
  · exact writeWhole_aside t _ _ _ _
  · exact writePart_aside t _ _ _ _

/-! ### Cores -/

theorem modCore_aside (s : State) (c : CoreId) (f : Core → Core)
    (hf : ∀ k, ∃ ts tb ph pe, f k = { k with tapes := ts, tapeBad := tb, tapePhase := ph, pend := pe }) : Aside s (s.modCore c f) := by
  refine ⟨fun d => ?_, rfl, rfl, rfl, rfl, rfl, rfl, rfl, rfl, rfl, rfl, rfl, rfl, rfl, rfl, rfl, rfl⟩
  by_cases h : d = c
  · subst h; rw [core_modCore]; exact hf _
  · rw [core_modCore_ne s f h]; exact ⟨_, _, _, _, rfl⟩

theorem emptyTape_aside (s : State) (c : CoreId) (t : Fin 16) (n : Nat) : Aside s (s.emptyTape c t n) := by
  unfold State.emptyTape
  simp only
  have h := modCore_aside s c (fun k =>
    { k with tapes := k.tapes.set t.val Tape.blank t.isLt, tapeBad := k.tapeBad.filter fun b => b.1 != t
             tapePhase := if (k.tapes.get t).st == .recording && k.tapePhase == .recording then .abandoned n else k.tapePhase })
    fun _ => ⟨_, _, _, _, rfl⟩
  generalize hu : s.modCore c _ = u at h ⊢
  exact h.trans (Aside.upd u u.mem u.fe u.free u.combine _ u.stubs u.migration u.pending)

/-- A change of the state of a tape's iteration. -/
theorem phase_aside (s : State) (c : CoreId) (p : TapePhase) : Aside s (s.modCore c fun k => { k with tapePhase := p }) :=
  modCore_aside s c _ fun _ => ⟨_, _, _, _, rfl⟩

theorem unpend_aside (s : State) (q : PathClass) (w : Who) (n : Nat) : Aside s (s.unpend q w n) :=
  modCore_aside s w.core _ fun _ => ⟨_, _, _, _, rfl⟩

theorem touchCode_aside (s : State) (pas : List Nat) : Aside s (s.touchCode pas) :=
  Aside.fold (fun (s : State) (l : Nat × CoreId × Fin 16) => s.emptyTape l.2.1 l.2.2 7)
    (fun s l => emptyTape_aside s l.2.1 l.2.2 7) _ s

/-- An abandoned recording. -/
theorem abandon_aside (s : State) (c : CoreId) (n : Nat) : Aside s (s.abandon c n) := by
  unfold State.abandon
  simp only
  split
  · split
    · exact (emptyTape_aside s c _ n).trans (phase_aside _ c _)
    · exact Aside.refl s
  · exact Aside.refl s

/-! ### Accesses on their way -/

theorem stubHold_aside (s : State) (i : Nat) (h : HeldAccess) : Aside s (s.stubHold i h) := Aside.upd _ _ _ _ _ _ _ _ _

theorem sendAway_aside (s : State) (h : HeldAccess) : Aside s (s.sendAway h) := by
  unfold State.sendAway
  split
  · exact stubHold_aside s _ _
  · exact Aside.upd _ _ _ _ _ _ _ _ _

theorem holdWrites_aside (s : State) (a : Actor) (ws : List (Nat × Byte)) : Aside s (s.holdWrites a ws) :=
  Aside.fold _ (fun _ _ => sendAway_aside _ _) _ s

theorem holdAt_aside (s : State) (h : HeldAccess) : Aside s (s.holdAt h) := by
  unfold State.holdAt
  split
  · exact Aside.upd _ _ _ _ _ _ _ _ _
  · exact stubHold_aside s _ _
  · exact Aside.upd _ _ _ _ _ _ _ _ _

/-- A write of memory. -/
theorem writePas_aside (s : State) (a : Actor) (k : WriteKind) (ws : List (Nat × Byte)) : Aside s (s.writePas a k ws) := by
  unfold State.writePas
  simp only
  exact ((touchCode_aside s _).trans (holdWrites_aside _ _ _)).trans (putPas_aside _ _ _ _)

theorem poisonPas_aside (s : State) (a : Actor) (pas : List Nat) : Aside s (s.poisonPas a pas) := by
  unfold State.poisonPas
  refine Aside.fold _ (fun t sec => ?_) _ s
  simp only
  exact ((unmark_aside t sec).trans (Aside.fold _ (fun t i => putByte_aside t _ _ _ _ _ _ _) _ _)).trans (setMark_aside _ _ _)

theorem atomicStep_aside (s : State) (a : Actor) (r : Option Rel) (pa n : Nat) (f : Nat → Nat) :
    Aside s (s.atomicStep a r pa n f).2 := by
  unfold State.atomicStep
  simp only
  generalize hp : List.foldl _ (([], (s.checkSector (pa / 32)).2) : List Nat × State) _ = ps
  have h1 : Aside s ps.2 := by
    rw [← hp]
    exact foldl_keeps (fun t : List Nat × State => Aside s t.2) _ (fun t p ht => ht.trans (choosePlace_aside t.2 a _ p)) _ _
      (checkSector_aside s _)
  split
  · exact h1
  · exact ((h1.trans (rewrite_aside _ _)).trans (touchCode_aside _ _)).trans
      (Aside.fold _ (fun t w => putByte_aside t _ _ _ _ _ _ _) _ _)

theorem flushEntry_aside (s : State) (die : Fin 4) (e : CombineEntry) : Aside s (s.flushEntry die e) := by
  unfold State.flushEntry
  simp only
  generalize hs : ({ s with combine := _, fe := _ } : State) = s1
  have h1 : Aside s s1 := by rw [← hs]; exact Aside.upd s s.mem _ s.free _ s.codeLines s.stubs s.migration s.pending
  split
  · exact h1.trans (sendAway_aside _ _)
  · exact (h1.trans (atomicStep_aside _ _ _ _ _ _)).trans (Aside.fold _ (fun t p => unpend_aside t _ _ _) _ _)

theorem flushWhere_aside (s : State) (die : Fin 4) (p : CombineEntry → Bool) : Aside s (s.flushWhere die p) :=
  Aside.fold _ (fun s e => flushEntry_aside s die e) _ s

/-- The flushes of a core's contributions. -/
theorem flushCore_aside (s : State) (c : CoreId) : Aside s (s.flushCore c) := flushWhere_aside s _ _

theorem flushLines_aside (s : State) (c : CoreId) (pas : List Nat) : Aside s (s.flushLines c pas) := flushWhere_aside s _ _

theorem coreRead_aside (s : State) (c : CoreId) (o : WriteRec → Bool) (pas : List Nat) : Aside s (s.coreRead c o pas).2 :=
  (flushLines_aside s c pas).trans (readPas_aside _ _ _)

theorem arm_aside (s : State) (a : Actor) (x r : Bool) : Aside s (s.arm a x r) := Aside.mem s _ s.fe s.free

/-! ### Translation and fetch -/

theorem ite_aside {α : Type} {s : State} {p : Prop} [Decidable p] {x y : α × State} (hx : Aside s x.2) (hy : Aside s y.2) :
    Aside s (if p then x else y).2 := by
  by_cases h : p
  · rw [if_pos h]; exact hx
  · rw [if_neg h]; exact hy

theorem readEntry_aside (s : State) (c : CoreId) (o : WriteRec → Bool) (va lvl t : Nat) : Aside s (s.readEntry c o va lvl t).2 := by
  unfold State.readEntry
  have h := coreRead_aside s c o ((List.range 8).map fun i => t + 8 * vaIndex lvl va + i)
  generalize s.coreRead c o _ = r at h ⊢
  exact h

theorem then_aside {s : State} {v : WalkStep × State} {k : State → Nat → Except Nat Leaf × State} (h : Aside s v.2)
    (hk : ∀ u t, Aside u (k u t).2) : Aside s (WalkStep.then v k).2 := by
  unfold WalkStep.then
  split
  · exact h
  · exact h
  · exact h.trans (hk _ _)

theorem walk_aside (c : CoreId) (o : WriteRec → Bool) (va lvl : Nat) : ∀ (t : Nat) (s : State), Aside s (s.walk c o va lvl t).2 := by
  induction lvl with
  | zero =>
    intro t s
    rw [State.walk.eq_1]
    exact then_aside (readEntry_aside s c o va 0 t) fun u _ => Aside.refl u
  | succ lvl ih =>
    intro t s
    rw [State.walk.eq_2]
    exact then_aside (readEntry_aside s c o va (lvl + 1) t) fun u t => ih t u

theorem tlbFill_aside (s : State) (c : CoreId) (e : TlbEntry) : Aside s (s.tlbFill c e) := by
  unfold State.tlbFill
  simp only
  split <;> exact Aside.mem s _ s.fe _

theorem translate_aside (s : State) (a : Actor) (c : CoreId) (ten : BitVec 8) (need : Need) (va : Nat) :
    Aside s (s.translate a c ten need va).2 := by
  unfold State.translate
  dsimp only
  refine ite_aside (Aside.refl s) (ite_aside (Aside.refl s) (ite_aside (Aside.refl s) ?_))
  have h := walk_aside c (s.ordered { a with cls := .core }) va 3 (s.tens.get ten.toFin).root s
  generalize s.walk c _ va 3 _ = r at h ⊢
  obtain ⟨v, u⟩ := r
  dsimp only at h ⊢
  refine ite_aside ?_ ?_
  · have h2 : Aside s { u with free := u.free + 1 } := h.trans (Aside.mem u u.mem u.fe _)
    dsimp only [State.freeNat]
    generalize List.filter _ _ = l
    split <;> exact h2
  · cases v with
    | error d => exact h
    | ok l =>
      dsimp only
      generalize u.leafCheck l ten need va = e
      cases e with
      | error d => exact h
      | ok p => exact h.trans (tlbFill_aside _ _ _)

theorem translateUnits_aside (a : Actor) (c : CoreId) (ten : BitVec 8) (need : Need) (fuel : Nat) :
    ∀ (s : State) (va n : Nat), Aside s (s.translateUnits a c ten need fuel va n).2 := by
  induction fuel with
  | zero => intro s va n; exact Aside.refl s
  | succ fuel ih =>
    intro s va n
    unfold State.translateUnits
    dsimp only
    refine ite_aside (Aside.refl s) ?_
    have h := translate_aside s a c ten need va
    generalize s.translate a c ten need va = r at h ⊢
    obtain ⟨v, u⟩ := r
    cases v with
    | error d => exact h
    | ok p =>
      dsimp only at h ⊢
      have h2 := h.trans (ih u (va + min n (65536 - va % 65536)) (n - min n (65536 - va % 65536)))
      generalize u.translateUnits a c ten need fuel _ _ = r at h2 ⊢
      obtain ⟨v, w⟩ := r
      cases v <;> exact h2

theorem translateBytes_aside (s : State) (a : Actor) (c : CoreId) (ten : BitVec 8) (need : Need) (va n : Nat) :
    Aside s (s.translateBytes a c ten need va n).2 := translateUnits_aside a c ten need _ s va n

theorem fetchBytes_aside (s : State) (w : Who) (va n : Nat) : Aside s (s.fetchBytes w va n).2 := by
  unfold State.fetchBytes
  dsimp only
  refine ite_aside (Aside.refl s) ?_
  have h := translateBytes_aside s { who := some w, cls := .core, stamp := s.stamp, know := (s.seq w).know } w.core (s.tenOf w.core)
    Need.fetch va n
  generalize s.translateBytes _ w.core _ Need.fetch va n = r at h ⊢
  obtain ⟨v, u⟩ := r
  cases v with
  | error d => exact h
  | ok p => exact h.trans (coreRead_aside _ _ _ _)

end Sys2Proof.Machine
end

