-- ==== Sys2Proof/Laws/Settle.lean ====
section
/-!
SUPPORT. What making an access and performing those on their way leaves alone, and that memory keeps its canonical form.
-/
namespace Sys2Proof.Machine

/-! ### The relation -/

theorem State.Settles.refl (s : State) : s.Settles s :=
  ⟨fun _ => ⟨_, rfl⟩, fun _ => ⟨_, _, _, _, _, _, _, _, _, _, _, _, _, rfl⟩, rfl, rfl, rfl, rfl, rfl, rfl, rfl, rfl, rfl, rfl, rfl, rfl,
    rfl, rfl⟩

theorem State.Settles.trans {a b c : State} (h : a.Settles b) (k : b.Settles c) : a.Settles c := by
  refine ⟨fun w => ?_, fun x => ?_, k.stamp.trans h.stamp, k.cycle.trans h.cycle, k.turn.trans h.turn, k.launches.trans h.launches,
    k.agenda.trans h.agenda, k.inputs.trans h.inputs, k.lists.trans h.lists, k.queues.trans h.queues, k.tens.trans h.tens,
    k.insts.trans h.insts, k.keys.trans h.keys, k.tx.trans h.tx, k.rx.trans h.rx, k.pairs.trans h.pairs⟩
  · obtain ⟨_, e1⟩ := h.seqs w
    obtain ⟨n, e2⟩ := k.seqs w
    exact ⟨n, by rw [e2, e1]⟩
  · obtain ⟨_, _, _, _, _, _, _, _, _, _, _, _, _, e1⟩ := h.core x
    obtain ⟨a1, a2, a3, a4, a5, a6, a7, a8, a9, b1, b2, b3, b4, e2⟩ := k.core x
    exact ⟨a1, a2, a3, a4, a5, a6, a7, a8, a9, b1, b2, b3, b4, by rw [e2, e1]⟩

theorem Aside.seq {s t : State} (h : Aside s t) (w : Who) : t.seq w = s.seq w := by
  obtain ⟨_, _, _, _, e⟩ := h.core w.core
  simp only [State.seq, e]
  cases w.sq <;> rfl

theorem Aside.settles {s t : State} (h : Aside s t) : s.Settles t :=
  ⟨fun w => ⟨(s.seq w).know, by rw [h.seq w]⟩, fun c => by
    obtain ⟨ts, tb, ph, pe, e⟩ := h.core c
    exact ⟨_, _, _, pe, _, _, ts, tb, ph, _, _, _, _, e⟩,
    h.stamp, h.cycle, h.turn, h.launches, h.agenda, h.inputs, h.lists, h.queues, h.tens, h.insts, h.keys, h.tx, h.rx, h.pairs⟩

/-- An update of what is on its way, of the answers, and of ATOMFLAGS. -/
theorem settles_upd (s : State) (p : List HeldAccess) (k : List (Asker × Nat × BitVec 8 × Bool))
    (n : List (HeldAccess × List (BitVec 8 × Bool))) (r : List HostRead) (o : List Output) (f : Vector (BitVec 32) 256) :
    s.Settles { s with pending := p, farKept := k, answers := n, hostReads := r, outputs := o, atomflags := f } :=
  ⟨fun _ => ⟨_, rfl⟩, fun _ => ⟨_, _, _, _, _, _, _, _, _, _, _, _, _, rfl⟩, rfl, rfl, rfl, rfl, rfl, rfl, rfl, rfl, rfl, rfl, rfl, rfl,
    rfl, rfl⟩

/-- An update of a core. -/
theorem modCore_settles (s : State) (c : CoreId) (f : Core → Core)
    (hc : ∃ tok ris fl pe de dv a b e g, f (s.core c) =
      { s.core c with tokens := tok, rising := ris, flights := fl, pend := pe, derr := de, derrva := dv, sX := a, sL := b, sC := e, sS := g })
    (hq : ∀ q, ∃ n, (f (s.core c)).seq q = { (s.core c).seq q with know := n }) : s.Settles (s.modCore c f) := by
  refine ⟨fun w => ?_, fun d => ?_, rfl, rfl, rfl, rfl, rfl, rfl, rfl, rfl, rfl, rfl, rfl, rfl, rfl, rfl⟩
  · by_cases h : w.core = c
    · obtain ⟨n, e⟩ := hq w.sq
      refine ⟨n, ?_⟩
      simp only [State.seq, h, core_modCore]
      exact e
    · exact ⟨(s.seq w).know, by simp only [State.seq, core_modCore_ne s f h]⟩
  · by_cases h : d = c
    · subst h
      obtain ⟨a1, a2, a3, a4, a5, a6, b1, b2, b3, b4, e⟩ := hc
      rw [core_modCore, e]
      exact ⟨_, _, _, _, _, _, _, _, _, _, _, _, _, rfl⟩
    · rw [core_modCore_ne s f h]
      exact ⟨_, _, _, _, _, _, _, _, _, _, _, _, _, rfl⟩

theorem foldl_settles {α : Type} (f : State → α → State) (hf : ∀ (s : State) (x : α), s.Settles (f s x)) (xs : List α) (s : State) :
    s.Settles (xs.foldl f s) :=
  foldl_keeps (fun t => s.Settles t) f (fun t x ht => ht.trans (hf t x)) xs s (State.Settles.refl s)

/-! ### What an access does -/

theorem acquire_settles (s : State) (w : Who) (n : Nat) (rs : List Rel) : s.Settles (s.acquire w n rs) := by
  unfold State.acquire
  split
  · exact State.Settles.refl s
  · refine State.Settles.trans (modCore_settles s w.core _ ?_ ?_) (Aside.settles (Aside.mem _ _ _ _))
    · generalize Know.ofReads _ _ = got
      generalize s.core w.core = c
      cases w.sq <;> exact ⟨_, _, _, _, _, _, _, _, _, _, rfl⟩
    · intro q
      generalize Know.ofReads _ _ = got
      generalize s.core w.core = c
      cases w.sq <;> cases q <;> exact ⟨_, rfl⟩

theorem bankStep_settles (s : State) (a : Actor) (r : Option Rel) (ten : BitVec 8) (op sz pa x y : Nat) :
    s.Settles (s.bankStep a r ten op sz pa x y).2 := by
  unfold State.bankStep
  have h := (atomicStep_aside s a r pa (2 ^ sz) fun m => (bankOp op sz m x y).1).settles
  generalize s.atomicStep a r pa (2 ^ sz) _ = v at h ⊢
  obtain ⟨v, u⟩ := v
  dsimp only at h ⊢
  split
  · exact h
  · exact h.trans (settles_upd u u.pending u.farKept u.answers u.hostReads u.outputs _)

theorem performHeld_settles (s : State) (h : HeldAccess) : s.Settles (s.performHeld h).2 := by
  unfold State.performHeld
  dsimp only
  have h0 := (arm_aside s h.actor (h.cls == .core) h.rel.isSome).settles
  generalize s.arm h.actor _ _ = s at h0 ⊢
  refine h0.trans ?_
  have acq : ∀ (rs : List Rel) (u : State),
      u.Settles (match h.who with | some w => if h.acq then u.acquire w h.stamp rs else u | none => u) := by
    intro rs u
    split
    · split
      · exact acquire_settles u _ _ _
      · exact State.Settles.refl u
    · exact State.Settles.refl u
  split
  · exact ((readCells_aside s _ _).settles).trans (acq _ _)
  · split
    · exact (writePas_aside s _ _ _).settles.trans (poisonPas_aside _ _ _).settles
    · exact (writePas_aside s _ _ _).settles
  · exact (bankStep_settles s _ _ _ _ _ _ _ _).trans (acq _ _)

theorem emit_settles (s : State) (o : Output) : s.Settles (s.emit o) :=
  settles_upd s s.pending s.farKept s.answers s.hostReads _ s.atomflags

theorem hostTake_settles (s : State) (id : Nat) (got : List (Nat × Byte × Bool)) : s.Settles (s.hostTake id got) := by
  unfold State.hostTake
  split
  · exact State.Settles.refl s
  · dsimp only
    split
    · exact (settles_upd s s.pending s.farKept s.answers _ s.outputs s.atomflags).trans (emit_settles _ _)
    · exact settles_upd s s.pending s.farKept s.answers _ s.outputs s.atomflags

theorem derrRecord_settles (s : State) (c : CoreId) (src va : Nat) : s.Settles (s.modCore c fun k => k.derrRecord src va) := by
  refine modCore_settles s c _ ?_ fun q => ?_
  · unfold Core.derrRecord
    dsimp only
    split <;> exact ⟨_, _, _, _, _, _, _, _, _, _, rfl⟩
  · unfold Core.derrRecord
    dsimp only
    split <;> cases q <;> exact ⟨_, rfl⟩

theorem replyTo_settles (s : State) (w : Who) (h : HeldAccess) (places : List Nat) (bs : List (Byte × Bool)) :
    s.Settles (s.replyTo w h places bs) := by
  have fin : ∀ u : State, s.Settles u → s.Settles (if (h.cls == .core) = true then
      (u.modCore w.core fun c =>
        { c with flights := c.flights.map fun f =>
            if f.ins == h.stamp && f.sq == w.sq && decide (0 < f.left) then f.take (places.zip (bs.map Prod.fst)) u.cycle else f }).unpend
        .core w h.stamp
      else u) := by
    intro u h1
    split
    · refine h1.trans (State.Settles.trans (modCore_settles u w.core _ ⟨_, _, _, _, _, _, _, _, _, _, rfl⟩ fun q => ?_)
        (unpend_aside _ _ _ _).settles)
      cases q <;> exact ⟨_, rfl⟩
    · exact h1
  unfold State.replyTo
  cases bs.findIdx? Prod.snd with
  | none => exact fin s (State.Settles.refl s)
  | some i => exact fin _ (derrRecord_settles s _ _ _)

theorem reply_settles (s : State) (h : HeldAccess) (bs : List (Byte × Bool)) : s.Settles (s.reply h bs) := by
  unfold State.reply
  dsimp only
  split
  · exact settles_upd s s.pending _ s.answers s.hostReads s.outputs s.atomflags
  · exact settles_upd s s.pending s.farKept _ s.hostReads s.outputs s.atomflags
  · have h1 := foldl_settles (fun (s : State) (p : Who × Nat) => s.unpend .core p.1 p.2) (fun s p => (unpend_aside s _ _ _).settles) h.parts s
    refine h1.trans ?_
    split
    · exact replyTo_settles _ _ _ _ _
    · split
      · exact hostTake_settles _ _ _
      · exact State.Settles.refl _

theorem performNow_settles (s : State) (h : HeldAccess) : s.Settles (s.performNow h) := by
  have h1 : s.Settles { s with pending := s.pending.erase h } :=
    settles_upd s _ s.farKept s.answers s.hostReads s.outputs s.atomflags
  unfold State.performNow
  split
  · exact State.Settles.refl s
  · split
    · exact State.Settles.refl s
    · have h2 := h1.trans (performHeld_settles _ h)
      generalize State.performHeld _ h = r at h2 ⊢
      exact h2.trans (reply_settles _ _ _)
    · exact h1.trans (holdAt_aside _ _).settles

theorem performPend_settles (s : State) (h : HeldAccess) : s.Settles (s.performPend h) :=
  foldl_settles _ (fun s h => performNow_settles s h) _ s

/-- Performing the pieces that come before an access. -/
theorem settle_settles (s : State) (a : Actor) (rel : Bool) : s.Settles (s.settle a rel) :=
  foldl_settles _ (fun s h => performPend_settles s h) _ s

/-- What comes before the accesses of an instruction is performed: nothing else changes. -/
theorem settleFor_settles (s : State) (cx : Cx) (sp : Spec) : s.Settles (s.settleFor cx sp) := by
  unfold State.settleFor
  refine State.Settles.trans ?_ (foldl_settles _ (fun s q => settle_settles s _ _) _ _)
  split
  · exact (flushCore_aside s _).settles
  · exact State.Settles.refl s

theorem sendPiece_settles (s : State) (h : HeldAccess) : s.Settles (s.sendPiece h) := by
  unfold State.sendPiece
  refine State.Settles.trans ?_ (holdAt_aside _ _).settles
  split
  · cases h.who with
    | none => exact State.Settles.refl s
    | some w => exact (modCore_aside s w.core _ fun _ => ⟨_, _, _, _, rfl⟩).settles
  · exact State.Settles.refl s

/-- Making an access. -/
theorem access_settles (s : State) (h : HeldAccess) : s.Settles (s.access h) := by
  unfold State.access
  dsimp only
  generalize hu : (if (h.cls == PathClass.core) = true then _ else s) = u
  have h1 : s.Settles u := by
    rw [← hu]; split
    · cases h.core with
      | none => exact State.Settles.refl s
      | some c => exact (flushLines_aside s c _).settles
    · exact State.Settles.refl s
  refine h1.trans ?_
  split
  · split
    · rename_i p _ _
      have h2 := performHeld_settles u p
      generalize u.performHeld p = r at h2 ⊢
      exact h2.trans (reply_settles _ _ _)
    · exact sendPiece_settles u _
  · exact foldl_settles _ (fun s h => sendPiece_settles s h) _ u

/-! ### The canonical form -/

theorem acquire_wf (s : State) (w : Who) (n : Nat) (rs : List Rel) (h : s.mem.wf = true) : (s.acquire w n rs).mem.wf = true := by
  unfold State.acquire
  split <;> exact h

theorem bankStep_wf (s : State) (a : Actor) (r : Option Rel) (ten : BitVec 8) (op sz pa x y : Nat) (h : s.mem.wf = true) :
    (s.bankStep a r ten op sz pa x y).2.mem.wf = true := by
  unfold State.bankStep
  have h1 := atomicStep_wf s a r pa (2 ^ sz) (fun m => (bankOp op sz m x y).1) h
  generalize s.atomicStep a r pa (2 ^ sz) _ = v at h1 ⊢
  obtain ⟨v, u⟩ := v
  dsimp only at h1 ⊢
  split <;> exact h1

/-- Performing an access keeps the form. -/
theorem performHeld_wf (s : State) (h : HeldAccess) (hw : s.mem.wf = true) : (s.performHeld h).2.mem.wf = true := by
  unfold State.performHeld
  dsimp only
  have h0 : (s.arm h.actor (h.cls == .core) h.rel.isSome).mem.wf = true := hw
  generalize s.arm h.actor _ _ = s at h0 ⊢
  have acq : ∀ (rs : List Rel) (u : State), u.mem.wf = true →
      (match h.who with | some w => if h.acq then u.acquire w h.stamp rs else u | none => u).mem.wf = true := by
    intro rs u hu
    split
    · split
      · exact acquire_wf u _ _ _ hu
      · exact hu
    · exact hu
  split
  · exact acq _ _ ((readCells_bytes s _ _).wf h0)
  · split
    · exact poisonPas_wf _ _ _ (writePas_wf s _ _ _ h0)
    · exact writePas_wf s _ _ _ h0
  · exact acq _ _ (bankStep_wf s _ _ _ _ _ _ _ _ h0)

theorem replyTo_mem (s : State) (w : Who) (h : HeldAccess) (places : List Nat) (bs : List (Byte × Bool)) :
    (s.replyTo w h places bs).mem = s.mem := by
  unfold State.replyTo
  dsimp only
  split <;> split <;> rfl

theorem hostTake_mem (s : State) (id : Nat) (got : List (Nat × Byte × Bool)) : (s.hostTake id got).mem = s.mem := by
  unfold State.hostTake
  split
  · rfl
  · dsimp only; split <;> rfl

theorem reply_mem (s : State) (h : HeldAccess) (bs : List (Byte × Bool)) : (s.reply h bs).mem = s.mem := by
  unfold State.reply
  dsimp only
  split
  · rfl
  · rfl
  · have h1 := foldState_mem (fun (s : State) (p : Who × Nat) => s.unpend .core p.1 p.2) (fun s p => unpend_mem s .core p.1 p.2) h.parts s
    generalize List.foldl _ s h.parts = u at h1 ⊢
    split
    · exact (replyTo_mem _ _ _ _ _).trans h1
    · split
      · exact (hostTake_mem _ _ _).trans h1
      · exact h1

theorem holdAt_mem (s : State) (h : HeldAccess) : (s.holdAt h).mem = s.mem := by
  unfold State.holdAt; split <;> rfl

theorem performNow_wf (s : State) (h : HeldAccess) (hw : s.mem.wf = true) : (s.performNow h).mem.wf = true := by
  unfold State.performNow
  split
  · exact hw
  · split
    · exact hw
    · have h2 := performHeld_wf { s with pending := s.pending.erase h } h hw
      generalize State.performHeld _ h = r at h2 ⊢
      rw [reply_mem]; exact h2
    · rw [holdAt_mem]; exact hw

theorem performPend_wf (s : State) (h : HeldAccess) (hw : s.mem.wf = true) : (s.performPend h).mem.wf = true :=
  foldl_keeps (fun t : State => t.mem.wf = true) _ (fun t h ht => performNow_wf t h ht) _ s hw

theorem settle_wf (s : State) (a : Actor) (rel : Bool) (hw : s.mem.wf = true) : (s.settle a rel).mem.wf = true :=
  foldl_keeps (fun t : State => t.mem.wf = true) _ (fun t h ht => performPend_wf t h ht) _ s hw

theorem sendPiece_mem (s : State) (h : HeldAccess) : (s.sendPiece h).mem = s.mem := by
  unfold State.sendPiece
  rw [holdAt_mem]
  split
  · cases h.who <;> rfl
  · rfl

/-- Making an access keeps the form. -/
theorem access_wf (s : State) (h : HeldAccess) (hw : s.mem.wf = true) : (s.access h).mem.wf = true := by
  unfold State.access
  dsimp only
  generalize hu : (if (h.cls == PathClass.core) = true then _ else s) = u
  have h1 : u.mem.wf = true := by
    rw [← hu]; split
    · cases h.core with
      | none => exact hw
      | some c => exact flushWhere_wf s _ _ hw
    · exact hw
  split
  · split
    · rename_i p _ _
      have h2 := performHeld_wf u p h1
      generalize u.performHeld p = r at h2 ⊢
      rw [reply_mem]; exact h2
    · rw [sendPiece_mem]; exact h1
  · rw [foldState_mem _ fun s h => sendPiece_mem s h]; exact h1

end Sys2Proof.Machine
end

