-- ==== Sys2Proof/Laws/Fetch.lean ====
section
/-!
SUPPORT. What fetching code leaves alone (R24, R229): where no AMO waits in the combining buffer of the core's die, the bytes of memory; and
what the end-of-iteration tests keep of the active blocks (R20).
-/
namespace Sys2Proof.Machine

/-! ### Bytes of memory -/

/-- Nothing but reads of memory has been made where no AMO waits in the combining buffer of a die. -/
def Reads (die : Fin 4) (s t : State) : Prop := s.combine.get die = [] → t.combine = s.combine ∧ SameBytes s t

theorem Reads.refl (die : Fin 4) (s : State) : Reads die s s := fun _ => ⟨rfl, SameBytes.refl s⟩

theorem Reads.trans {die : Fin 4} {a b c : State} (h : Reads die a b) (k : Reads die b c) : Reads die a c := by
  intro e
  obtain ⟨h1, h2⟩ := h e
  obtain ⟨k1, k2⟩ := k (by rw [h1]; exact e)
  exact ⟨k1.trans h1, h2.trans k2⟩

/-- An update that leaves the combining buffers and the bytes. -/
theorem Reads.of {die : Fin 4} {s t : State} (h : t.combine = s.combine) (k : SameBytes s t) : Reads die s t := fun _ => ⟨h, k⟩

theorem flushWhere_reads (s : State) (die : Fin 4) (p : CombineEntry → Bool) : Reads die s (s.flushWhere die p) := by
  intro e
  have : s.flushWhere die p = s := by simp only [State.flushWhere, e, List.filter_nil, List.foldl_nil]
  rw [this]
  exact ⟨rfl, SameBytes.refl s⟩

theorem checkSector_combine (s : State) (k : Nat) : (s.checkSector k).2.combine = s.combine := by
  unfold State.checkSector
  simp only
  split
  · rfl
  · split <;> rfl
  · split
    · rfl
    · split <;> rfl

theorem checkSectors_combine (ks : List Nat) (s : State) : (s.checkSectors ks).2.combine = s.combine := by
  induction ks generalizing s with
  | nil => rfl
  | cons k ks ih => exact (ih _).trans (checkSector_combine s k)

theorem readList_combine (o : WriteRec → Bool) (seen : List (Nat × SectorNow)) (pas : List Nat) (s : State) :
    (s.readList o seen pas).2.combine = s.combine := by
  induction pas generalizing s with
  | nil => rfl
  | cons a as ih =>
    unfold State.readList
    simp only
    refine (ih _).trans ?_
    split
    · rfl
    · split <;> rfl

theorem readPas_reads (die : Fin 4) (s : State) (o : WriteRec → Bool) (pas : List Nat) : Reads die s (s.readPas o pas).2 := by
  refine Reads.of ?_ (readPas_bytes s o pas)
  exact (readList_combine o _ pas _).trans (checkSectors_combine _ s)

theorem coreRead_reads (s : State) (c : CoreId) (o : WriteRec → Bool) (pas : List Nat) : Reads (dieOf c) s (s.coreRead c o pas).2 :=
  (flushWhere_reads s (dieOf c) _).trans (readPas_reads _ _ _ _)

theorem readEntry_reads (s : State) (c : CoreId) (o : WriteRec → Bool) (va lvl t : Nat) :
    Reads (dieOf c) s (s.readEntry c o va lvl t).2 := by
  unfold State.readEntry
  have h := coreRead_reads s c o ((List.range 8).map fun i => t + 8 * vaIndex lvl va + i)
  generalize s.coreRead c o _ = r at h ⊢
  exact h

theorem then_reads {die : Fin 4} {s : State} {v : WalkStep × State} {k : State → Nat → Except Nat Leaf × State} (h : Reads die s v.2)
    (hk : ∀ u t, Reads die u (k u t).2) : Reads die s (WalkStep.then v k).2 := by
  unfold WalkStep.then
  split
  · exact h
  · exact h
  · exact h.trans (hk _ _)

theorem walk_reads (c : CoreId) (o : WriteRec → Bool) (va lvl : Nat) :
    ∀ (t : Nat) (s : State), Reads (dieOf c) s (s.walk c o va lvl t).2 := by
  induction lvl with
  | zero =>
    intro t s
    rw [State.walk.eq_1]
    exact then_reads (readEntry_reads s c o va 0 t) fun u _ => Reads.refl _ u
  | succ lvl ih =>
    intro t s
    rw [State.walk.eq_2]
    exact then_reads (readEntry_reads s c o va (lvl + 1) t) fun u t => ih t u

theorem tlbFill_reads (die : Fin 4) (s : State) (c : CoreId) (e : TlbEntry) : Reads die s (s.tlbFill c e) := by
  unfold State.tlbFill
  simp only
  split <;> exact Reads.of rfl ⟨rfl, rfl, rfl⟩

theorem ite_reads {α : Type} {die : Fin 4} {s : State} {p : Prop} [Decidable p] {x y : α × State} (hx : Reads die s x.2)
    (hy : Reads die s y.2) : Reads die s (if p then x else y).2 := by
  by_cases h : p
  · rw [if_pos h]; exact hx
  · rw [if_neg h]; exact hy

theorem translate_reads (s : State) (a : Actor) (c : CoreId) (ten : BitVec 8) (need : Need) (va : Nat) :
    Reads (dieOf c) s (s.translate a c ten need va).2 := by
  unfold State.translate
  dsimp only
  refine ite_reads (Reads.refl _ s) (ite_reads (Reads.refl _ s) (ite_reads (Reads.refl _ s) ?_))
  have h := walk_reads c (s.ordered { a with cls := .core }) va 3 (s.tens.get ten.toFin).root s
  generalize s.walk c _ va 3 _ = r at h ⊢
  obtain ⟨v, u⟩ := r
  dsimp only at h ⊢
  refine ite_reads ?_ ?_
  · have h2 : Reads (dieOf c) s { u with free := u.free + 1 } := h.trans (Reads.of rfl ⟨rfl, rfl, rfl⟩)
    dsimp only [State.freeNat]
    generalize List.filter _ _ = l
    split <;> exact h2
  · cases v with
    | error d => exact h
    | ok l =>
      dsimp only
      generalize u.leafCheck l ten need va = e
      cases e with
      | error d => exact h
      | ok p => exact h.trans (tlbFill_reads _ _ _ _)

theorem translateUnits_reads (a : Actor) (c : CoreId) (ten : BitVec 8) (need : Need) (fuel : Nat) :
    ∀ (s : State) (va n : Nat), Reads (dieOf c) s (s.translateUnits a c ten need fuel va n).2 := by
  induction fuel with
  | zero => intro s va n; exact Reads.refl _ s
  | succ fuel ih =>
    intro s va n
    unfold State.translateUnits
    dsimp only
    refine ite_reads (Reads.refl _ s) ?_
    have h := translate_reads s a c ten need va
    generalize s.translate a c ten need va = r at h ⊢
    obtain ⟨v, u⟩ := r
    cases v with
    | error d => exact h
    | ok p =>
      dsimp only at h ⊢
      have h2 := h.trans (ih u (va + min n (65536 - va % 65536)) (n - min n (65536 - va % 65536)))
      generalize u.translateUnits a c ten need fuel _ _ = r at h2 ⊢
      obtain ⟨v, w⟩ := r
      cases v <;> exact h2

theorem fetchBytes_reads (s : State) (w : Who) (va n : Nat) : Reads (dieOf w.core) s (s.fetchBytes w va n).2 := by
  unfold State.fetchBytes
  dsimp only
  refine ite_reads (Reads.refl _ s) ?_
  have h := translateUnits_reads { who := some w, cls := .core, stamp := s.stamp, know := (s.seq w).know } w.core (s.tenOf w.core)
    Need.fetch (n / 65536 + 2) s va n
  unfold State.translateBytes
  generalize s.translateUnits _ w.core _ Need.fetch _ va n = r at h ⊢
  obtain ⟨v, u⟩ := r
  cases v with
  | error d => exact h
  | ok p => exact h.trans (coreRead_reads _ _ _ _)

/-! ### The rest of a loop's body -/

theorem fetchRest_reads (w : Who) (buf : List Host.Cell) (vas : List Nat) :
    ∀ s : State, Reads (dieOf w.core) s (s.fetchRest w buf vas) := by
  induction vas with
  | nil => intro s; exact Reads.refl _ s
  | cons va vas ih =>
    intro s
    unfold State.fetchRest
    split
    · exact ih s
    · have h := fetchBytes_reads s w va 2
      generalize s.fetchBytes w va 2 = r at h ⊢
      split
      · refine Reads.trans h (Reads.trans ?_ (ih _))
        exact Reads.of rfl ⟨rfl, rfl, rfl⟩
      · exact h.trans (ih _)

theorem fillLoop_reads (s : State) (w : Who) : Reads (dieOf w.core) s (s.fillLoop w) := by
  unfold State.fillLoop
  dsimp only
  split
  · split
    · exact fetchRest_reads w _ _ s
    · exact Reads.refl _ s
  · exact Reads.refl _ s

theorem fillLoop_noLoop (s : State) (w : Who) (h : (s.seq w).noLoop) : s.fillLoop w = s := by
  unfold State.fillLoop
  dsimp only
  split
  · rename_i b hb
    have h1 := List.mem_of_find?_eq_some hb
    have h2 := List.find?_some hb
    rw [h b h1] at h2
    simp at h2
  · rfl

theorem fillBuffer_ctl (v : Seq) (cs : List Host.Cell) : (v.fillBuffer cs).ctl = v.ctl := by
  simp only [Seq.ctl, Seq.fillBuffer, List.map_map, Control.mk.injEq, true_and, and_true]
  refine List.map_congr_left fun b _ => ?_
  cases hb : b.buf <;> simp [Block.shape, hb]

theorem fetchRest_ctl (w : Who) (buf : List Host.Cell) (vas : List Nat) :
    ∀ s : State, ((s.fetchRest w buf vas).seq w).ctl = (s.seq w).ctl := by
  induction vas with
  | nil => intro s; rfl
  | cons va vas ih =>
    intro s
    unfold State.fetchRest
    split
    · exact ih s
    · have h := (fetchBytes_aside s w va 2).seq w
      generalize s.fetchBytes w va 2 = r at h ⊢
      split
      · rw [ih, seq_modSeq, fillBuffer_ctl, h]
      · rw [ih, h]

theorem fillLoop_ctl (s : State) (w : Who) : ((s.fillLoop w).seq w).ctl = (s.seq w).ctl := by
  unfold State.fillLoop
  dsimp only
  split
  · split
    · exact fetchRest_ctl w _ _ s
    · rfl
  · rfl

/-! ### The end-of-iteration tests -/

/-- They look at the addresses of the blocks alone. -/
theorem cascade_shape (bs : List Block) : ∀ (pc : Word) (lc : Vector (BitVec 32) 3),
    cascade pc (bs.map Block.shape) lc
      = ((cascade pc bs lc).1, (cascade pc bs lc).2.1.map Block.shape, (cascade pc bs lc).2.2.1, (cascade pc bs lc).2.2.2) := by
  induction bs with
  | nil => intro pc lc; rfl
  | cons b bs ih =>
    intro pc lc
    simp only [List.map_cons, cascade, List.length_map]
    have e1 : b.shape.stop = b.stop := rfl
    have e2 : b.shape.start = b.start := rfl
    rw [e1, e2]
    split
    · split
      · split
        · rw [ih]
        · rfl
      · rfl
    · rfl

/-- They end blocks and open none. -/
theorem cascade_mem (bs : List Block) : ∀ (pc : Word) (lc : Vector (BitVec 32) 3), ∀ b ∈ (cascade pc bs lc).2.1, b ∈ bs := by
  induction bs with
  | nil => intro pc lc b hb; exact hb
  | cons c bs ih =>
    intro pc lc b hb
    simp only [cascade] at hb
    split at hb
    · split at hb
      · split at hb
        · exact List.mem_cons_of_mem _ (ih _ _ b hb)
        · exact hb
      · exact List.mem_cons_of_mem _ hb
    · exact hb

end Sys2Proof.Machine
end

