-- ==== Sys2Proof/Laws/Issue.lean ====
section
/-!
SUPPORT. The shared issue: what comes before an instruction's accesses is performed, an instruction that nothing holds has its own meaning's
effect, and what follows it changes only sequencers, pushes, tapes and merged AMOs.
-/
namespace Sys2Proof.Machine

/-! ### Follows -/

theorem Core.sameBut.refl (c : Core) : c.sameBut c := ⟨_, _, _, _, _, _, _, _, _, _, rfl⟩

theorem Core.sameBut.trans {a b c : Core} (h : a.sameBut b) (k : b.sameBut c) : a.sameBut c := by
  obtain ⟨_, _, _, _, _, _, _, _, _, _, rfl⟩ := h
  obtain ⟨_, _, _, _, _, _, _, _, _, _, rfl⟩ := k
  exact ⟨_, _, _, _, _, _, _, _, _, _, rfl⟩

theorem Seq.sameRegs.refl (v : Seq) : v.sameRegs v := ⟨rfl, rfl, rfl, rfl⟩

theorem Seq.sameRegs.trans {a b c : Seq} (h : a.sameRegs b) (k : b.sameRegs c) : a.sameRegs c :=
  ⟨k.1.trans h.1, k.2.1.trans h.2.1, k.2.2.1.trans h.2.2.1, k.2.2.2.trans h.2.2.2⟩

theorem Follows.refl (w : Who) (s : State) : Follows w s s :=
  ⟨fun _ => Core.sameBut.refl _, fun _ _ => rfl, Seq.sameRegs.refl _, rfl, rfl, rfl, rfl, rfl, rfl, rfl, rfl, rfl, rfl, rfl, rfl, rfl,
    rfl, rfl, rfl⟩

theorem Follows.trans {w : Who} {a b c : State} (h : Follows w a b) (k : Follows w b c) : Follows w a c :=
  ⟨fun x => (h.core x).trans (k.core x), fun q hq => (k.seqs q hq).trans (h.seqs q hq), h.regs.trans k.regs, k.stamp.trans h.stamp,
    k.cycle.trans h.cycle, k.turn.trans h.turn, k.launches.trans h.launches, k.agenda.trans h.agenda, k.inputs.trans h.inputs,
    k.outputs.trans h.outputs, k.atomflags.trans h.atomflags, k.lists.trans h.lists, k.queues.trans h.queues,
    k.tens.trans h.tens, k.insts.trans h.insts, k.keys.trans h.keys, k.tx.trans h.tx, k.rx.trans h.rx, k.pairs.trans h.pairs⟩

theorem Aside.follows {s t : State} (h : Aside s t) (w : Who) : Follows w s t := by
  refine ⟨fun c => ?_, fun q _ => h.seq q, ?_, h.stamp, h.cycle, h.turn, h.launches, h.agenda, h.inputs, h.outputs, h.atomflags, h.lists,
    h.queues, h.tens, h.insts, h.keys, h.tx, h.rx, h.pairs⟩
  · obtain ⟨ts, tb, ph, pe, e⟩ := h.core c
    exact ⟨ts, tb, ph, _, _, pe, _, _, _, _, e⟩
  · rw [h.seq w]; exact Seq.sameRegs.refl _

theorem foldl_follows {α : Type} (w : Who) (f : State → α → State) (hf : ∀ s x, Follows w s (f s x)) (xs : List α) (s : State) :
    Follows w s (xs.foldl f s) :=
  foldl_keeps (fun t => Follows w s t) f (fun t x ht => ht.trans (hf t x)) xs s (Follows.refl w s)

/-- An update of the core of `w` that leaves its registers and the other sequencers. -/
theorem modCore_follows (s : State) (w : Who) (f : Core → Core) (h1 : (s.core w.core).sameBut (f (s.core w.core)))
    (h2 : ∀ q, q ≠ w.sq → (f (s.core w.core)).seq q = (s.core w.core).seq q)
    (h3 : (s.seq w).sameRegs ((f (s.core w.core)).seq w.sq)) : Follows w s (s.modCore w.core f) := by
  refine ⟨fun d => ?_, fun q hq => ?_, ?_, rfl, rfl, rfl, rfl, rfl, rfl, rfl, rfl, rfl, rfl, rfl, rfl, rfl, rfl, rfl, rfl⟩
  · by_cases h : d = w.core
    · subst h; rw [core_modCore]; exact h1
    · rw [core_modCore_ne s f h]; exact Core.sameBut.refl _
  · by_cases h : q.core = w.core
    · have hn : q.sq ≠ w.sq := fun e => hq (by cases q; cases w; simp_all)
      simp only [State.seq, h, core_modCore, h2 q.sq hn]
    · simp only [State.seq, core_modCore_ne s f h]
  · simp only [State.seq, core_modCore]; exact h3

theorem setSeq_sameBut (c : Core) (q : Sq) (v : Seq) : c.sameBut (c.setSeq q v) := by
  cases q <;> exact ⟨_, _, _, _, _, _, _, _, _, _, rfl⟩

/-- An update of one sequencer that leaves its registers. -/
theorem modSeq_follows (s : State) (w : Who) (f : Seq → Seq) (h : (s.seq w).sameRegs (f (s.seq w))) :
    Follows w s (s.modSeq w f) := by
  refine modCore_follows s w _ (setSeq_sameBut _ _ _) (fun q e => ?_) ?_
  · rw [Core.modSeq, setSeq_seq_ne _ _ e]
  · rw [modSeq_seq]; exact h

/-! ### Recording and what follows an instruction -/

theorem appendEntry_follows (s : State) (w : Who) (t : Fin 16) (e : TapeEntry) (ps : List PatchRec) :
    Follows w s (s.appendEntry w.core t e ps) := by
  unfold State.appendEntry
  simp only
  split
  · exact (abandon_aside s w.core 5).follows w
  · exact modCore_follows s w _ ⟨_, _, _, _, _, _, _, _, _, _, rfl⟩ (fun q _ => by cases q <;> rfl)
      (by simp only [State.seq]; cases w.sq <;> exact Seq.sameRegs.refl _)

theorem usedLine_follows (s : State) (w : Who) (l : Nat) : Follows w s (s.usedLine w l) := by
  unfold State.usedLine
  dsimp only
  split
  · split
    · exact Follows.refl w s
    · refine Follows.trans (b := s.modCore w.core fun k => { k with tapeLines := k.tapeLines ++ [l] })
        (modCore_follows s w _ ⟨_, _, _, _, _, _, _, _, _, _, rfl⟩ (fun q _ => by cases q <;> rfl)
          (by simp only [State.seq]; cases w.sq <;> exact Seq.sameRegs.refl _)) ?_
      generalize s.modCore w.core _ = u
      split
      · exact (Aside.upd u u.mem u.fe u.free u.combine _ u.stubs u.migration u.pending).follows w
      · exact Follows.refl w u
  · exact Follows.refl w s

theorem record_follows (s : State) (cx : Cx) (sp : Spec) : Follows cx.who s (s.record cx sp) := by
  unfold State.record
  simp only
  split
  · split
    · exact Follows.refl _ s
    · have h1 := foldl_follows cx.who (fun (s : State) l => s.usedLine cx.who l) (fun s l => usedLine_follows s cx.who l)
        ((List.range (cx.next - cx.own).toNat).map fun i => (cx.own.toNat + i) / 256).eraseDups s
      refine h1.trans ?_
      split
      · exact (abandon_aside _ _ _).follows _
      · split
        · exact (abandon_aside _ _ _).follows _
        · split
          · exact appendEntry_follows _ _ _ _ _
          · split
            · exact appendEntry_follows _ _ _ _ _
            · exact Follows.refl _ _
  · exact Follows.refl _ s

theorem setGclass_sameRegs (v : Seq) (r : Reg) (c : RegClass) : v.sameRegs (v.setGclass r c) := by
  unfold Seq.setGclass; split <;> exact ⟨rfl, rfl, rfl, rfl⟩

theorem setPclass_sameRegs (v : Seq) (r : PReg) (c : Bool) : v.sameRegs (v.setPclass r c) := by
  unfold Seq.setPclass; split <;> exact ⟨rfl, rfl, rfl, rfl⟩

theorem foldSeq_sameRegs {α : Type} (f : Seq → α → Seq) (hf : ∀ (v : Seq) (x : α), v.sameRegs (f v x)) (xs : List α) (v : Seq) :
    v.sameRegs (xs.foldl f v) := by
  induction xs generalizing v with
  | nil => exact Seq.sameRegs.refl v
  | cons x xs ih => exact (hf v x).trans (ih _)

theorem classify_follows (s : State) (cx : Cx) (sp : Spec) (old : Seq) : Follows cx.who s (s.classify cx sp old) := by
  unfold State.classify
  simp only
  split
  · refine modSeq_follows s cx.who _ ?_
    refine Seq.sameRegs.trans (foldSeq_sameRegs _ ?_ _ _) (foldSeq_sameRegs _ ?_ _ _)
    · intro v r; exact setGclass_sameRegs v r _
    · intro v p; exact setPclass_sameRegs v p _
  · exact Follows.refl _ s

theorem movePc_follows (s : State) (cx : Cx) (f : Flow) : Follows cx.who s (s.movePc cx f).1 := by
  cases f
  · exact modSeq_follows s cx.who _ ⟨rfl, rfl, rfl, rfl⟩
  · exact modSeq_follows s cx.who _ ⟨rfl, rfl, rfl, rfl⟩
  · exact modSeq_follows s cx.who _ ⟨rfl, rfl, rfl, rfl⟩
  · exact Follows.refl _ s

theorem endTest_follows (s : State) (w : Who) : Follows w s (s.endTest w) := by
  unfold State.endTest
  simp only
  split
  · have h1 : Follows w s (s.modSeq w fun v => { v with ended := true, since := none, wait := .none }) :=
      modSeq_follows s w _ ⟨rfl, rfl, rfl, rfl⟩
    split
    · refine h1.trans ?_
      generalize s.modSeq w _ = s0
      generalize hs1 : s0.modCore w.core _ = s1
      refine Follows.trans (b := s1) ?_ ((abandon_aside _ _ _).follows w)
      rw [← hs1]
      refine modCore_follows s0 w _ ?_ (fun q _ => ?_) ?_
      · split
        · exact ⟨_, _, _, _, _, _, _, _, _, _, rfl⟩
        · exact Core.sameBut.refl _
      · split
        · cases q <;> rfl
        · rfl
      · simp only [State.seq]
        split
        · cases w.sq <;> exact Seq.sameRegs.refl _
        · exact Seq.sameRegs.refl _
    · exact h1
  · exact Follows.refl _ s

theorem completePush_follows (s : State) (w : Who) (f b : Bool) (n : Nat) (g : Core → Know) :
    Follows w s (s.modCore w.core fun k => k.completePush w.sq f b n (g k)) :=
  modCore_follows s w _ ⟨_, _, _, _, _, _, _, _, _, _, rfl⟩ (fun q _ => by cases q <;> rfl)
    (by simp only [State.seq]; cases w.sq <;> exact Seq.sameRegs.refl _)

theorem fetchRest_follows (w : Who) (buf : List Host.Cell) (vas : List Nat) :
    ∀ s : State, Follows w s (s.fetchRest w buf vas) := by
  induction vas with
  | nil => intro s; exact Follows.refl w s
  | cons va vas ih =>
    intro s
    unfold State.fetchRest
    split
    · exact ih s
    · have h := (fetchBytes_aside s w va 2).follows w
      generalize s.fetchBytes w va 2 = r at h ⊢
      split
      · refine Follows.trans h (Follows.trans ?_ (ih _))
        exact modSeq_follows _ w _ ⟨rfl, rfl, rfl, rfl⟩
      · exact Follows.trans h (ih _)

theorem fillLoop_follows (s : State) (w : Who) : Follows w s (s.fillLoop w) := by
  unfold State.fillLoop
  dsimp only
  split
  · split
    · exact fetchRest_follows w _ _ s
    · exact Follows.refl w s
  · exact Follows.refl w s

/-- What follows an instruction issued from code. -/
theorem conclude_follows (s : State) (cx : Cx) (sp : Spec) (f : Flow) (p : Bool) (h : cx.replay = false) :
    Follows cx.who s (s.conclude cx sp f p) := by
  unfold State.conclude
  simp only [h, Bool.false_eq_true, if_false]
  generalize hs1 : (if (sp.x.sf || sp.x.sb) = true then (s.flushCore cx.who.core).arm (cx.actor s) false true else s) = s1
  have h1 : Follows cx.who s s1 := by
    rw [← hs1]; split
    · exact ((flushCore_aside s _).trans (arm_aside _ _ _ _)).follows _
    · exact Follows.refl _ s
  generalize hs2 : (if ((sp.x.sf || sp.x.sb) && !p) = true then _ else s1) = s2
  have h2 : Follows cx.who s1 s2 := by
    rw [← hs2]; split
    · exact completePush_follows s1 cx.who _ _ _ _
    · exact Follows.refl _ s1
  have h3 := classify_follows s2 cx sp (cx.s0.seq cx.who)
  refine ((h1.trans h2).trans h3).trans ?_
  generalize s2.classify cx sp (cx.s0.seq cx.who) = s3
  generalize hs4 : s3.modSeq cx.who _ = s4
  have h4 : Follows cx.who s3 s4 := by
    rw [← hs4]; exact modSeq_follows s3 cx.who _ ⟨rfl, rfl, rfl, rfl⟩
  refine h4.trans (Follows.trans (movePc_follows s4 cx f) ?_)
  refine Follows.trans ?_ (endTest_follows _ _)
  generalize s4.movePc cx f = m
  generalize hl : (if m.2.isEmpty = true then m.1 else m.1.fillLoop cx.who) = s5
  have h5 : Follows cx.who m.1 s5 := by
    rw [← hl]; split
    · exact Follows.refl _ _
    · exact fillLoop_follows _ _
  refine h5.trans ?_
  split
  · exact (abandon_aside _ _ _).follows _
  · exact Follows.refl _ _

/-! ### Issuing -/

theorem calm_g (c : Core) (q : Sq) (all : Bool) (r : Reg) (h : c.calm all = true) : c.gBusy q all r = false := by
  simp only [Core.calm, Bool.and_eq_true, List.all_eq_true] at h
  simp only [Core.gBusy, Bool.or_eq_false_iff, List.any_eq_false]
  refine ⟨fun f hf => ?_, fun e he => ?_⟩
  · have := h.1 f hf; revert this; cases (all || f.waits) <;> simp
  · have := h.2 e he; revert this; cases (all || e.waits) <;> simp

theorem calm_p (c : Core) (q : Sq) (all : Bool) (r : PReg) (h : c.calm all = true) : c.pBusy q all r = false := by
  simp only [Core.calm, Bool.and_eq_true, List.all_eq_true] at h
  simp only [Core.pBusy, Bool.or_eq_false_iff, List.any_eq_false]
  refine ⟨fun f hf => ?_, fun e he => ?_⟩
  · have := h.1 f hf; revert this; cases (all || f.waits) <;> simp
  · have := h.2 e he; revert this; cases (all || e.waits) <;> simp

theorem calm_dest (c : Core) (all : Bool) (d : Dest) (h : c.calm all = true) : c.destBusy all d = false := by
  simp only [Core.calm, Bool.and_eq_true, List.all_eq_true] at h
  simp only [Core.destBusy, Bool.or_eq_false_iff, List.any_eq_false]
  refine ⟨fun f hf => ?_, fun e he => ?_⟩
  · have := h.1 f hf; revert this; cases (all || f.waits) <;> simp
  · have := h.2 e he; revert this; cases (all || e.waits) <;> simp

theorem calm_matrix (c : Core) (all : Bool) (d : Dest) (h : c.calm all = true) :
    (c.flights.any fun f => f.matrix && f.dest == d) = false := by
  simp only [Core.calm, Bool.and_eq_true, List.all_eq_true] at h
  simp only [List.any_eq_false]
  intro f hf
  have := (h.1 f hf).2
  revert this
  cases f.matrix <;> simp

theorem ready_parts {s : State} {x : Ctl} {short : Bool} {min : Nat} {qs : List Sq} (h : s.ready x short min qs = true) :
    s.me.replayIssue = none ∧ qs.contains s.turn.sq = true
      ∧ (s.exposed = true → min ≤ x.lat.toNat ∨ short = true) ∧ s.mine.crosses s.mine.pc (bytesOf x short) = false
      ∧ (s.me.inTrap = true → (x.wf || x.sf || x.wb || x.sb || x.safe.isSome) = false)
      ∧ s.me.tokensReady s.turn.sq x = true ∧ s.me.calm (!s.exposed) = true := by
  simp only [State.ready, Bool.and_eq_true, Option.isNone_iff_eq_none, Bool.not_eq_true'] at h
  obtain ⟨⟨⟨⟨⟨⟨h1, h2⟩, h3⟩, h4⟩, h5⟩, h6⟩, h7⟩ := h
  refine ⟨h1, h2, fun e => ?_, h4, fun e => ?_, h6, h7⟩
  · simpa [e] using h3
  · simpa [e] using h5

/-- The state in which what comes before the instruction's accesses has been performed. -/
def Spec.settled (sp : Spec) (s : State) : State := s.settleFor (s.context sp) sp

/-- What the instruction knows of itself as it issues. -/
def Spec.cx (sp : Spec) (s : State) : Cx := { s.context sp with s0 := sp.settled s }

/-- The state in which it issues. -/
def Spec.start (sp : Spec) (s : State) : State := (sp.onDie (sp.cx s) (sp.settled s)).foldl State.foundOnDie (sp.settled s)

theorem start_settles (sp : Spec) (s : State) : s.Settles (sp.start s) :=
  (settleFor_settles s _ _).trans (foldl_settles _ (fun s k => (foundOnDie_aside s k).settles) _ _)

theorem start_turn (sp : Spec) (s : State) : (sp.start s).turn = s.turn := (start_settles sp s).turn

theorem popped_turn (u : State) (x : Ctl) (w : Who) (h : u.turn = w) :
    u.popped x = { u.modCore w.core (fun c => c.popTokens w.sq x) with stamp := u.stamp + 1 } := by
  subst h; rfl

/-- What an instruction does in the state in which it issues, its tokens taken. -/
def Spec.act (sp : Spec) (body : Cx → State → Act) (cx : Cx) (s p : State) : Out :=
  match body cx p with
  | .trap t => .next (s.raise cx.who t)
  | .fault u t => .next ((u.unpopped s cx.who).raise cx.who t)
  | .stall u => .next (u.waiting cx.who .other)
  | .done s2 f pushed =>
    let s2 := if cx.replay then s2 else s2.record cx sp
    .next (s2.conclude cx sp f pushed)

theorem issueCode_eq (sp : Spec) (body : Cx → State → Act) (s : State) : issueCode sp body s =
    if s.early (s.context sp) sp then .next (s.raise s.turn Trap.illegal)
    else if !(s.core s.turn.core).tokensReady s.turn.sq sp.x then .next (s.waiting s.turn .token)
    else if s.operandBusy (s.context sp) sp || sp.waits (s.context sp) s then .next (s.waiting s.turn .other)
    else if (sp.settled s).blockedFor (sp.cx s) sp then .next ((sp.settled s).waiting s.turn .other)
    else sp.act body (sp.cx s) (sp.start s)
      { (sp.start s).modCore s.turn.core (fun c => c.popTokens s.turn.sq sp.x) with stamp := (sp.start s).stamp + 1 } := rfl

/-- An instruction that is ready, meets no condition of its own that makes it ILLEGAL, and has nothing of its own to wait for, does what
its meaning answers in the state with what comes before it performed and with its tokens taken. -/
theorem issue_body {sp : Spec} {body : Cx → State → Act} {s : State}
    (h : s.ready sp.x sp.short sp.minLat sp.issuers = true) (hi : sp.illegal (s.context sp) s = false)
    (hw : sp.waits (s.context sp) s = false) (hk : (sp.settled s).blockedFor (sp.cx s) sp = false) :
    issue sp body s =
      match body (sp.cx s) ((sp.start s).popped sp.x) with
      | .trap t => .next ((sp.start s).raise s.turn t)
      | .fault u t => .next ((u.unpopped (sp.start s) s.turn).raise s.turn t)
      | .stall u => .next (u.waiting s.turn .other)
      | .done s2 f p => .next ((s2.record (sp.cx s) sp).conclude (sp.cx s) sp f p) := by
  obtain ⟨h1, h2, h3, h4, h5, h6, h7⟩ := ready_parts h
  have hr : (s.context sp).replay = false := by
    simp only [State.me] at h1
    simp [State.context, h1]
  have hx : (s.context sp).exposed = s.exposed := by
    simp only [State.me] at h1
    cases hb : ((s.core s.turn.core).seq s.turn.sq).blocks <;>
      simp only [State.context, h1, State.exposed, State.mine, State.seq, hb]
  have hwho : (s.context sp).who = s.turn := rfl
  have hown : (s.context sp).own = s.mine.pc := rfl
  have hbytes : sp.bytes = bytesOf sp.x sp.short := rfl
  have he : s.early (s.context sp) sp = false := by
    simp only [State.early, hr, hx, hwho, hown, hbytes, hi, h2]
    simp only [State.me, State.mine, State.seq] at h4 h5 ⊢
    rw [h4]
    have h8 : (s.exposed && decide (sp.x.lat.toNat < sp.minLat) && !sp.short) = false := by
      cases hex : s.exposed
      · rfl
      · rcases h3 hex with h8 | h8
        · have : ¬ sp.x.lat.toNat < sp.minLat := by omega
          simp [this]
        · simp [h8]
    have h9 : ((s.core s.turn.core).inTrap && (sp.x.wf || sp.x.sf || sp.x.wb || sp.x.sb || sp.x.safe.isSome)) = false := by
      cases hit : (s.core s.turn.core).inTrap
      · rfl
      · simpa using h5 hit
    simp only [h9, Bool.not_true, Bool.not_false, Bool.true_and, Bool.false_or, Bool.or_false]
    simpa [Bool.and_assoc] using h8
  have hb2 : s.operandBusy (s.context sp) sp = false := by
    simp only [State.operandBusy, hr, hx, hwho, Bool.false_or, Bool.not_false, Bool.true_and, Bool.or_eq_false_iff]
    simp only [State.me] at h7
    refine ⟨⟨⟨?_, ?_⟩, ?_⟩, ?_⟩
    · rw [List.any_eq_false]; intro r _; simp [calm_g _ _ _ r h7]
    · rw [List.any_eq_false]; intro r _; simp [calm_p _ _ _ r h7]
    · rw [List.any_eq_false]; intro d _; simp [calm_dest _ _ d h7]
    · rw [List.any_eq_false]; intro d _; simp [calm_matrix _ _ d h7]
  have hp := popped_turn (sp.start s) sp.x s.turn (start_turn sp s)
  have h6' : (s.core s.turn.core).tokensReady s.turn.sq sp.x = true := h6
  have h1' : (s.core s.turn.core).replayIssue = none := h1
  have e3 : (sp.cx s).replay = false := hr
  have e4 : (sp.cx s).who = s.turn := rfl
  unfold issue
  rw [h1']
  dsimp only
  rw [issueCode_eq, he, h6', hb2, hw, hk, ← hp]
  simp only [Bool.false_eq_true, if_false, Bool.not_true, Bool.or_self]
  unfold Spec.act
  cases body (sp.cx s) ((sp.start s).popped sp.x) <;> simp [e3, e4]

/-- An instruction that is ready, meets no condition of its own that makes it ILLEGAL, and has nothing of its own to wait for, has the
effect of its meaning. -/
theorem issue_done {sp : Spec} {body : Cx → State → Act} {s s2 : State} {f : Flow} {p : Bool}
    (h : s.ready sp.x sp.short sp.minLat sp.issuers = true) (hi : sp.illegal (s.context sp) s = false)
    (hw : sp.waits (s.context sp) s = false) (hk : (sp.settled s).blockedFor (sp.cx s) sp = false)
    (hb : body (sp.cx s) ((sp.start s).popped sp.x) = .done s2 f p) :
    issue sp body s = .next ((s2.record (sp.cx s) sp).conclude (sp.cx s) sp f p) := by
  rw [issue_body h hi hw hk, hb]

theorem cx_replay {sp : Spec} {s : State} (h : s.me.replayIssue = none) : (sp.cx s).replay = false := by
  simp only [State.me] at h
  simp [Spec.cx, State.context, h]

/-- The state after such an instruction follows the one that its meaning gives. -/
theorem issue_follows (sp : Spec) (s s2 : State) (f : Flow) (p : Bool) (h : s.me.replayIssue = none) :
    Follows s.turn s2 ((s2.record (sp.cx s) sp).conclude (sp.cx s) sp f p) :=
  (record_follows s2 (sp.cx s) sp).trans (conclude_follows _ _ _ _ _ (cx_replay h))

/-! ### Control -/

theorem modCore_seq (s : State) (c : CoreId) (f : Core → Core) (h : ∀ k q, (f k).seq q = k.seq q) (w : Who) :
    (s.modCore c f).seq w = s.seq w := by
  by_cases e : w.core = c
  · simp only [State.seq, e, core_modCore, h]
  · simp only [State.seq, core_modCore_ne s f e]

theorem appendEntry_seq (s : State) (c : CoreId) (t : Fin 16) (e : TapeEntry) (ps : List PatchRec) (w : Who) :
    (s.appendEntry c t e ps).seq w = s.seq w := by
  unfold State.appendEntry
  simp only
  split
  · exact (abandon_aside s c 5).seq w
  · exact modCore_seq s c _ (fun k q => by cases q <;> rfl) w

theorem usedLine_seq (s : State) (w v : Who) (l : Nat) : (s.usedLine w l).seq v = s.seq v := by
  unfold State.usedLine
  dsimp only
  split
  · split
    · rfl
    · have h := modCore_seq s w.core (fun k => { k with tapeLines := k.tapeLines ++ [l] }) (fun k q => by cases q <;> rfl) v
      generalize s.modCore w.core _ = u at h ⊢
      split <;> exact h
  · rfl

theorem record_seq (s : State) (cx : Cx) (sp : Spec) (w : Who) : (s.record cx sp).seq w = s.seq w := by
  unfold State.record
  simp only
  split
  · split
    · rfl
    · have h1 := foldl_keeps (fun t : State => t.seq w = s.seq w) (fun (s : State) l => s.usedLine cx.who l)
        (fun t l ht => (usedLine_seq t cx.who w l).trans ht)
        ((List.range (cx.next - cx.own).toNat).map fun i => (cx.own.toNat + i) / 256).eraseDups s rfl
      rw [← h1]
      split
      · exact (abandon_aside _ _ _).seq w
      · split
        · exact (abandon_aside _ _ _).seq w
        · split
          · exact appendEntry_seq _ _ _ _ _ w
          · split
            · exact appendEntry_seq _ _ _ _ _ w
            · rfl
  · rfl

theorem foldSeq_sameCtl {α : Type} (f : Seq → α → Seq) (hf : ∀ (v : Seq) (x : α), (f v x).ctl = v.ctl) (xs : List α) (v : Seq) :
    (xs.foldl f v).ctl = v.ctl := by
  induction xs generalizing v with
  | nil => rfl
  | cons x xs ih => exact (ih _).trans (hf v x)

theorem classify_ctl (s : State) (cx : Cx) (sp : Spec) (old : Seq) :
    ((s.classify cx sp old).seq cx.who).ctl = (s.seq cx.who).ctl := by
  unfold State.classify
  simp only
  split
  · rw [seq_modSeq]
    refine (foldSeq_sameCtl _ ?_ _ _).trans (foldSeq_sameCtl _ ?_ _ _)
    · intro v r; unfold Seq.setPclass; split <;> rfl
    · intro v r; unfold Seq.setGclass; split <;> rfl
  · rfl

theorem endTest_ctl (s : State) (w : Who) : ((s.endTest w).seq w).ctl = (s.seq w).ctl := by
  unfold State.endTest
  simp only
  split
  · split
    · rw [(abandon_aside _ _ _).seq w, modCore_seq _ _ _ (fun k q => by split <;> cases q <;> rfl) w, seq_modSeq]; rfl
    · rw [seq_modSeq]; rfl
  · rfl

theorem movePc_ctl (s : State) (cx : Cx) (f : Flow) : ((s.movePc cx f).1.seq cx.who).ctl = flowControl cx (s.seq cx.who) f := by
  cases f <;> simp [State.movePc, flowControl, Seq.ctl, Control.reach, cascade_shape]

theorem conclude_ctl (s : State) (cx : Cx) (sp : Spec) (f : Flow) (p : Bool) (h : cx.replay = false) :
    ((s.conclude cx sp f p).seq cx.who).ctl = flowControl cx (s.seq cx.who) f := by
  unfold State.conclude
  simp only [h, Bool.false_eq_true, if_false]
  generalize hs1 : (if (sp.x.sf || sp.x.sb) = true then (s.flushCore cx.who.core).arm (cx.actor s) false true else s) = s1
  have h1 : s1.seq cx.who = s.seq cx.who := by
    rw [← hs1]; split
    · exact ((flushCore_aside s _).trans (arm_aside _ _ _ _)).seq _
    · rfl
  generalize hs2 : (if ((sp.x.sf || sp.x.sb) && !p) = true then _ else s1) = s2
  have h2 : s2.seq cx.who = s1.seq cx.who := by
    rw [← hs2]; split
    · exact modCore_seq _ _ _ (fun k q => by cases q <;> rfl) _
    · rfl
  have h3 := classify_ctl s2 cx sp (cx.s0.seq cx.who)
  rw [h2, h1] at h3
  generalize s2.classify cx sp (cx.s0.seq cx.who) = s3 at h3 ⊢
  generalize hs4 : s3.modSeq cx.who _ = s4
  have h4 : (s4.seq cx.who).ctl = (s3.seq cx.who).ctl := by
    rw [← hs4, seq_modSeq]; rfl
  have e := h4.trans h3
  rw [endTest_ctl]
  have h5 : ((s4.movePc cx f).1.seq cx.who).ctl = flowControl cx (s.seq cx.who) f := by
    rw [movePc_ctl]
    cases f <;> simp only [flowControl, e]
  generalize s4.movePc cx f = m at h5 ⊢
  generalize hl : (if m.2.isEmpty = true then m.1 else m.1.fillLoop cx.who) = s5
  have h6 : (s5.seq cx.who).ctl = (m.1.seq cx.who).ctl := by
    rw [← hl]; split
    · rfl
    · exact fillLoop_ctl _ _
  rw [← h5, ← h6]
  split
  · rw [(abandon_aside _ _ _).seq]
  · rfl

/-- Control after an instruction that is ready, from the state that its meaning gives. -/
theorem issue_ctl (sp : Spec) (s s2 : State) (f : Flow) (p : Bool) (h : s.me.replayIssue = none) :
    (((s2.record (sp.cx s) sp).conclude (sp.cx s) sp f p).seq s.turn).ctl = flowControl (sp.cx s) (s2.seq s.turn) f := by
  have hw : (sp.cx s).who = s.turn := rfl
  rw [← hw, conclude_ctl _ _ _ _ _ (cx_replay h), record_seq]

/-- Taking tokens leaves control and registers. -/
theorem popped_seq (s : State) (x : Ctl) :
    ((s.popped x).seq s.turn).ctl = s.mine.ctl ∧ s.mine.sameRegs ((s.popped x).seq s.turn) := by
  have hp : ∀ (c : Core) (q : Sq) (i : Fin 8), ((c.popToken q i).seq q).ctl = (c.seq q).ctl
      ∧ (c.seq q).sameRegs ((c.popToken q i).seq q) := by
    intro c q i
    unfold Core.popToken
    split
    · exact ⟨rfl, Seq.sameRegs.refl _⟩
    · rw [modSeq_seq]; cases q <;> exact ⟨rfl, ⟨rfl, rfl, rfl, rfl⟩⟩
  have e : (s.popped x).seq s.turn = ((s.core s.turn.core).popTokens s.turn.sq x).seq s.turn.sq := by
    have h : ((s.modCore s.turn.core fun c => c.popTokens s.turn.sq x).core s.turn.core) = (s.core s.turn.core).popTokens s.turn.sq x :=
      core_modCore _ _ _
    exact congrArg (fun c : Core => c.seq s.turn.sq) h
  have m : s.mine = (s.core s.turn.core).seq s.turn.sq := rfl
  rw [e, m]
  unfold Core.popTokens
  simp only
  split
  · split
    · exact ⟨(hp _ _ _).1.trans (hp _ _ _).1, (hp _ _ _).2.trans (hp _ _ _).2⟩
    · exact hp _ _ _
  · split
    · exact hp _ _ _
    · exact ⟨rfl, Seq.sameRegs.refl _⟩

/-! ### Memory of an instruction that pushes no token -/

/-- Memory, the registers of the register block and the combining buffers are as they were. -/
def Still (s t : State) : Prop := t.mem = s.mem ∧ t.fe = s.fe ∧ t.combine = s.combine

theorem Still.refl (s : State) : Still s s := ⟨rfl, rfl, rfl⟩

theorem Still.trans {a b c : State} (h : Still a b) (k : Still b c) : Still a c :=
  ⟨k.1.trans h.1, k.2.1.trans h.2.1, k.2.2.trans h.2.2⟩

theorem Still.reads {s t : State} (die : Fin 4) (h : Still s t) : Reads die s t :=
  Reads.of h.2.2 ⟨by rw [h.1], by rw [h.1], by rw [h.1]⟩

theorem abandon_still (s : State) (c : CoreId) (n : Nat) : Still s (s.abandon c n) := by
  unfold State.abandon
  simp only
  split
  · split <;> exact ⟨rfl, rfl, rfl⟩
  · exact Still.refl s

theorem appendEntry_still (s : State) (c : CoreId) (t : Fin 16) (e : TapeEntry) (ps : List PatchRec) :
    Still s (s.appendEntry c t e ps) := by
  unfold State.appendEntry
  simp only
  split
  · exact abandon_still s c 5
  · exact ⟨rfl, rfl, rfl⟩

theorem usedLine_still (s : State) (w : Who) (l : Nat) : Still s (s.usedLine w l) := by
  unfold State.usedLine
  dsimp only
  split
  · split
    · exact Still.refl s
    · split <;> exact ⟨rfl, rfl, rfl⟩
  · exact Still.refl s

theorem record_still (s : State) (cx : Cx) (sp : Spec) : Still s (s.record cx sp) := by
  unfold State.record
  simp only
  split
  · split
    · exact Still.refl s
    · have h1 := foldl_keeps (fun t : State => Still s t) (fun (s : State) l => s.usedLine cx.who l)
        (fun t l ht => ht.trans (usedLine_still t cx.who l))
        ((List.range (cx.next - cx.own).toNat).map fun i => (cx.own.toNat + i) / 256).eraseDups s (Still.refl s)
      refine h1.trans ?_
      split
      · exact abandon_still _ _ _
      · split
        · exact abandon_still _ _ _
        · split
          · exact appendEntry_still _ _ _ _ _
          · split
            · exact appendEntry_still _ _ _ _ _
            · exact Still.refl _
  · exact Still.refl s

theorem endTest_still (s : State) (w : Who) : Still s (s.endTest w) := by
  unfold State.endTest
  simp only
  split
  · split
    · exact Still.trans ⟨rfl, rfl, rfl⟩ (abandon_still _ _ _)
    · exact ⟨rfl, rfl, rfl⟩
  · exact Still.refl s

theorem classify_still (s : State) (cx : Cx) (sp : Spec) (old : Seq) : Still s (s.classify cx sp old) := by
  unfold State.classify
  simp only
  split <;> exact ⟨rfl, rfl, rfl⟩

theorem movePc_still (s : State) (cx : Cx) (f : Flow) : Still s (s.movePc cx f).1 := by
  cases f <;> exact ⟨rfl, rfl, rfl⟩

theorem noLoop_iff (v : Seq) : v.noLoop ↔ ∀ b ∈ v.ctl.blocks, b.buf = none := by
  simp only [Seq.noLoop, Seq.ctl, List.mem_map, forall_exists_index, and_imp, forall_apply_eq_imp_iff₂, Block.shape, Option.map_eq_none_iff]

theorem movePc_noLoop (s : State) (cx : Cx) (f : Flow) (h : (s.seq cx.who).noLoop) : ((s.movePc cx f).1.seq cx.who).noLoop := by
  rw [noLoop_iff] at h ⊢
  rw [movePc_ctl]
  cases f with
  | set => exact h
  | jump t => exact h
  | next => exact fun b hb => h b (cascade_mem _ _ _ b hb)
  | reach t => exact fun b hb => h b (cascade_mem _ _ _ b hb)

theorem conclude_still (s : State) (cx : Cx) (sp : Spec) (f : Flow) (p : Bool) (h : cx.replay = false) (h1 : sp.x.sf = false)
    (h2 : sp.x.sb = false) (h3 : (s.seq cx.who).noLoop) : Still s (s.conclude cx sp f p) := by
  unfold State.conclude
  simp only [h, h1, h2, Bool.false_eq_true, if_false, Bool.or_self, Bool.false_and]
  have a1 := classify_still s cx sp (cx.s0.seq cx.who)
  have c1 := classify_ctl s cx sp (cx.s0.seq cx.who)
  generalize s.classify cx sp (cx.s0.seq cx.who) = s3 at a1 c1 ⊢
  generalize hs4 : s3.modSeq cx.who _ = s4
  have a2 : Still s s4 := by rw [← hs4]; exact a1
  have c2 : (s4.seq cx.who).noLoop := by
    have e : (s4.seq cx.who).ctl = (s.seq cx.who).ctl := by
      rw [← c1, ← hs4, seq_modSeq]; rfl
    rw [noLoop_iff, e, ← noLoop_iff]; exact h3
  have a3 := a2.trans (movePc_still s4 cx f)
  have c3 := movePc_noLoop s4 cx f c2
  generalize s4.movePc cx f = m at a3 c3 ⊢
  rw [fillLoop_noLoop _ _ c3]
  simp only [ite_self]
  refine Still.trans ?_ (endTest_still _ _)
  split
  · exact a3.trans (abandon_still _ _ _)
  · exact a3

theorem conclude_reads (s : State) (cx : Cx) (sp : Spec) (f : Flow) (p : Bool) (h : cx.replay = false) :
    Reads (dieOf cx.who.core) s (s.conclude cx sp f p) := by
  unfold State.conclude
  simp only [h, Bool.false_eq_true, if_false]
  generalize hs1 : (if (sp.x.sf || sp.x.sb) = true then (s.flushCore cx.who.core).arm (cx.actor s) false true else s) = s1
  have h1 : Reads (dieOf cx.who.core) s s1 := by
    rw [← hs1]; split
    · exact (flushWhere_reads s _ _).trans (Reads.of rfl ⟨rfl, rfl, rfl⟩)
    · exact Reads.refl _ s
  generalize hs2 : (if ((sp.x.sf || sp.x.sb) && !p) = true then _ else s1) = s2
  have h2 : Still s1 s2 := by
    rw [← hs2]; split
    · exact ⟨rfl, rfl, rfl⟩
    · exact Still.refl _
  have h3 := classify_still s2 cx sp (cx.s0.seq cx.who)
  generalize s2.classify cx sp (cx.s0.seq cx.who) = s3 at h3 ⊢
  generalize hs4 : s3.modSeq cx.who _ = s4
  have h4 : Still s3 s4 := by rw [← hs4]; exact ⟨rfl, rfl, rfl⟩
  have h5 := movePc_still s4 cx f
  generalize s4.movePc cx f = m at h5 ⊢
  refine h1.trans (Reads.trans ((h2.trans (h3.trans (h4.trans h5))).reads _) ?_)
  generalize hl : (if m.2.isEmpty = true then m.1 else m.1.fillLoop cx.who) = s5
  have h6 : Reads (dieOf cx.who.core) m.1 s5 := by
    rw [← hl]; split
    · exact Reads.refl _ _
    · exact fillLoop_reads _ _
  refine h6.trans (Still.reads _ (Still.trans ?_ (endTest_still _ _)))
  split
  · exact abandon_still _ _ _
  · exact Still.refl _

/-- Memory after an instruction that is ready and pushes no token, from the state that its meaning gives. -/
theorem issue_mem (sp : Spec) (s s2 : State) (f : Flow) (p : Bool) (h : s.me.replayIssue = none) (h1 : sp.x.sf = false)
    (h2 : sp.x.sb = false) (h3 : (s2.seq s.turn).noLoop) :
    ((s2.record (sp.cx s) sp).conclude (sp.cx s) sp f p).mem = s2.mem
      ∧ ((s2.record (sp.cx s) sp).conclude (sp.cx s) sp f p).fe = s2.fe := by
  have hr : ((s2.record (sp.cx s) sp).seq (sp.cx s).who).noLoop := by rw [record_seq]; exact h3
  have h4 := (record_still s2 (sp.cx s) sp).trans (conclude_still _ (sp.cx s) sp f p (cx_replay h) h1 h2 hr)
  exact ⟨h4.1, h4.2.1⟩

/-- The bytes of memory after an instruction that is ready, where no AMO waits in its die's combining buffer. -/
theorem issue_bytes (sp : Spec) (s s2 : State) (f : Flow) (p : Bool) (h : s.me.replayIssue = none)
    (h1 : s2.combine.get (dieOf s.turn.core) = []) :
    ((s2.record (sp.cx s) sp).conclude (sp.cx s) sp f p).mem.cells = s2.mem.cells
      ∧ ((s2.record (sp.cx s) sp).conclude (sp.cx s) sp f p).mem.hist = s2.mem.hist := by
  have h4 := ((record_still s2 (sp.cx s) sp).reads (dieOf s.turn.core)).trans (conclude_reads _ (sp.cx s) sp f p (cx_replay h))
  exact ⟨(h4 h1).2.cells, (h4 h1).2.hist⟩

/-- An instruction that is ready, from its own effect: it completes, and only what accompanies every instruction comes beside it. -/
theorem issue_does {sp : Spec} {body : Cx → State → Act} {s e : State} {f : Flow} {p : Bool}
    (h : s.ready sp.x sp.short sp.minLat sp.issuers = true) (hi : sp.illegal (s.context sp) s = false)
    (hw : sp.waits (s.context sp) s = false) (hk : (sp.settled s).blockedFor (sp.cx s) sp = false)
    (hb : body (sp.cx s) ((sp.start s).popped sp.x) = .done e f p) :
    ∃ t, issue sp body s = .next t ∧ s.Does sp.x e (flowControl (sp.cx s) (e.seq s.turn) f) t :=
  have hn := (ready_parts h).1
  ⟨_, issue_done h hi hw hk hb, issue_follows sp s e f p hn, issue_ctl sp s e f p hn, issue_mem sp s e f p hn, issue_bytes sp s e f p hn⟩

theorem foundOnDie_seq (xs : List Nat) (s : State) (w : Who) : (xs.foldl State.foundOnDie s).seq w = s.seq w :=
  (Aside.fold _ (fun s k => foundOnDie_aside s k) xs s).seq w

/-- What comes before an instruction's accesses leaves the blocks. -/
theorem start_blocks (sp : Spec) (s : State) : ((sp.start s).popped sp.x).mine.blocks = s.mine.blocks := by
  have ht := start_turn sp s
  have h1 : ((sp.start s).seq s.turn).blocks = s.mine.blocks := by
    obtain ⟨k, e⟩ := (start_settles sp s).seqs s.turn
    rw [e]; rfl
  rw [popped_turn _ _ _ ht]
  have h2 : ∀ (c : Core) (q : Sq) (i : Fin 8), ((c.popToken q i).seq q).blocks = (c.seq q).blocks := by
    intro c q i
    unfold Core.popToken
    split
    · rfl
    · rw [modSeq_seq]; cases q <;> rfl
  have h3 : (((sp.start s).core s.turn.core).popTokens s.turn.sq sp.x |>.seq s.turn.sq).blocks = ((sp.start s).seq s.turn).blocks := by
    unfold Core.popTokens State.seq
    simp only
    split
    · split
      · rw [h2, h2]
      · rw [h2]
    · split
      · rw [h2]
      · rfl
  rw [h1] at h3
  rw [← h3]
  have e : ∀ u : State, u.turn = s.turn → u.mine.blocks = ((u.core s.turn.core).seq s.turn.sq).blocks := by
    intro u hu; simp only [State.mine, State.seq, hu]
  refine (e _ (by exact ht)).trans ?_
  exact congrArg (fun c : Core => (c.seq s.turn.sq).blocks) (core_modCore (sp.start s) s.turn.core fun c => c.popTokens s.turn.sq sp.x)

/-- An instruction with the effect that a table says: it suffices that its own meaning gives it once its tokens are taken. -/
theorem completes_of {f : Effect} {i : Instr} (sp : State → Spec) (body : State → Cx → State → Act)
    (he : ∀ s, exec i s = issue (sp s) (body s) s)
    (hx : ∀ s, (sp s).x = f.x ∧ (sp s).short = f.short ∧ (sp s).minLat = f.lat ∧ (sp s).issuers = f.qs ∧ (sp s).acc = f.acc
      ∧ (sp s).rel = f.rel ∧ (sp s).onDie = f.onDie)
    (hi : ∀ s, f.qs.contains s.turn.sq = true → f.clear s → (sp s).illegal (s.context f.spec) s = false
      ∧ (sp s).waits (s.context f.spec) s = false)
    (hb : ∀ (s p : State) (cx : Cx), cx.who = p.turn → cx.x = f.x → p.mine.blocks = s.mine.blocks → f.when cx p →
      ∃ q, body s cx p = .done (f.gives cx p) (f.flow cx p) q) : f.completes i := by
  intro s hr hc hk hw
  obtain ⟨x1, x2, x3, x4, x5, x6, x7⟩ := hx s
  have hcx : s.context (sp s) = s.context f.spec := by
    unfold State.context Spec.bytes
    rw [x1, x2, x3]
    rfl
  have hse : (sp s).settled s = f.settled s := by
    simp only [Spec.settled, Effect.settled, hcx, State.settleFor, x5, x6]
    rfl
  have hc2 : (sp s).cx s = f.cx s := by
    unfold Spec.cx Effect.cx
    rw [hcx, hse]
  have hst : (sp s).start s = f.start s := by
    unfold Spec.start Effect.start
    rw [hc2, hse, x7]
  have hbl : ((f.start s).popped f.x).mine.blocks = s.mine.blocks := by
    have := start_blocks (sp s) s
    rwa [hst, x1] at this
  have ht : (f.start s).turn = s.turn := by rw [← hst]; exact start_turn _ _
  obtain ⟨q, hq⟩ := hb s ((f.start s).popped f.x) (f.cx s) ht.symm rfl hbl hw
  obtain ⟨h1, h2⟩ := hi s (ready_parts hr).2.1 hc
  rw [he]
  have hk2 : ((sp s).settled s).blockedFor ((sp s).cx s) (sp s) = false := by
    rw [hse, hc2]
    revert hk
    simp only [State.blockedFor, Effect.spec, x5, x6, imp_self]
  have := issue_does (sp := sp s) (body := body s) (s := s) (e := f.gives (f.cx s) ((f.start s).popped f.x))
    (f := f.flow (f.cx s) ((f.start s).popped f.x)) (p := q)
    (by rw [x1, x2, x3, x4]; exact hr) (by rw [hcx]; exact h1) (by rw [hcx]; exact h2) hk2 (by rw [x1, hst, hc2]; exact hq)
  rw [hc2, x1] at this
  obtain ⟨t, e1, e2⟩ := this
  exact ⟨t, e1, by rw [← hse]; exact settleFor_settles s _ _, e2⟩

/-! ### Instructions whose results go into flight -/

theorem popToken_own (c : Core) (q : Sq) (i : Fin 8) :
    (∃ tok, ({ c with tokens := tok } : Core).sameBut (c.popToken q i)) ∧ (c.popToken q i).flights = c.flights
      ∧ ∀ r, r ≠ q → (c.popToken q i).seq r = c.seq r := by
  unfold Core.popToken
  split
  · exact ⟨⟨c.tokens, Core.sameBut.refl c⟩, rfl, fun _ _ => rfl⟩
  · refine ⟨⟨_, setSeq_sameBut _ _ _⟩, by cases q <;> rfl, fun r e => ?_⟩
    rw [Core.modSeq, setSeq_seq_ne _ _ e]; cases r <;> rfl

theorem popTokens_own (c : Core) (q : Sq) (x : Ctl) :
    (∃ tok, ({ c with tokens := tok } : Core).sameBut (c.popTokens q x)) ∧ (c.popTokens q x).flights = c.flights
      ∧ ∀ r, r ≠ q → (c.popTokens q x).seq r = c.seq r := by
  have two : ∀ (c : Core) (i j : Fin 8), (∃ tok, ({ c with tokens := tok } : Core).sameBut ((c.popToken q i).popToken q j))
      ∧ ((c.popToken q i).popToken q j).flights = c.flights
      ∧ ∀ r, r ≠ q → ((c.popToken q i).popToken q j).seq r = c.seq r := by
    intro c i j
    obtain ⟨⟨t1, e1⟩, f1, r1⟩ := popToken_own c q i
    obtain ⟨⟨t2, e2⟩, f2, r2⟩ := popToken_own (c.popToken q i) q j
    refine ⟨⟨t2, ?_⟩, f2.trans f1, fun r hr => (r2 r hr).trans (r1 r hr)⟩
    refine Core.sameBut.trans ?_ e2
    obtain ⟨_, _, _, _, _, _, _, _, _, _, e⟩ := e1
    rw [e]
    exact ⟨_, _, _, _, _, _, _, _, _, _, rfl⟩
  unfold Core.popTokens
  simp only
  split
  · split
    · exact two _ _ _
    · exact popToken_own _ _ _
  · split
    · exact popToken_own _ _ _
    · exact ⟨⟨c.tokens, Core.sameBut.refl c⟩, rfl, fun _ _ => rfl⟩

/-- The results of `fly` as they stand in flight. -/
theorem fly_core (s : State) (cx : Cx) (nb : Nat) (m : Bool) (rs : List Result) :
    ∃ fs, (s.fly cx nb m rs).core cx.who.core = { s.core cx.who.core with flights := (s.core cx.who.core).flights ++ fs }
      ∧ fs.map Flight.result = rs ∧ ∀ f ∈ fs, f.sq = cx.who.sq ∧ f.issued = s.cycle ∧ f.bound = latBound cx.minLat
        ∧ f.notBefore = nb ∧ f.matrix = m := by
  unfold State.fly
  simp only
  rw [core_modCore]
  refine ⟨_, rfl, ?_, ?_⟩
  · rw [List.map_map]
    exact List.zipIdx_map_fst 0 rs
  · intro f hf
    rw [List.mem_map] at hf
    obtain ⟨r, _, hr⟩ := hf
    cases hr
    exact ⟨rfl, rfl, rfl, rfl, rfl⟩

/-- An instruction that is ready and whose meaning only sends results into flight. -/
theorem issue_lands {sp : Spec} {body : Cx → State → Act} {s : State} {rs : List Result} {nb : Nat} {m p : Bool}
    (h : s.ready sp.x sp.short sp.minLat sp.issuers = true) (hi : sp.illegal (s.context sp) s = false)
    (hw : sp.waits (s.context sp) s = false) (ha : sp.acc = []) (hr : sp.rel = false) (ho : ∀ cx u, sp.onDie cx u = [])
    (hb : body (s.context sp) (s.popped sp.x) = .done ((s.popped sp.x).fly (s.context sp) nb m rs) .next p) :
    ∃ t, issue sp body s = .next t ∧ s.Lands t sp.x sp.short sp.minLat rs := by
  have p1 : sp.settled s = s := by simp [Spec.settled, State.settleFor, ha, hr]
  have p2 : sp.cx s = s.context sp := by unfold Spec.cx; rw [p1]; rfl
  have p3 : sp.start s = s := by unfold Spec.start; rw [ho, p1]; rfl
  have hk : (sp.settled s).blockedFor (sp.cx s) sp = false := by simp [State.blockedFor, ha]
  obtain ⟨t, ht, hd⟩ := issue_does (body := body) h hi hw hk (by rw [p2, p3]; exact hb)
  refine ⟨t, ht, ?_⟩
  rw [p2] at hd
  obtain ⟨hf, hp, hm, hn⟩ := hd
  have hw : (s.context sp).who = s.turn := rfl
  obtain ⟨fs, e1, e2, e3⟩ := fly_core (s.popped sp.x) (s.context sp) nb m rs
  rw [hw] at e1 e3
  have hpop : (s.popped sp.x).core s.turn.core = s.me.popTokens s.turn.sq sp.x :=
    core_modCore s s.turn.core fun c => c.popTokens s.turn.sq sp.x
  have hpopne : ∀ c, c ≠ s.turn.core → (s.popped sp.x).core c = s.core c := fun c hc =>
    core_modCore_ne s (fun c => c.popTokens s.turn.sq sp.x) hc
  obtain ⟨⟨tok, et⟩, ef, er⟩ := popTokens_own s.me s.turn.sq sp.x
  rw [hpop, ef] at e1
  have hflyne : ∀ c, c ≠ s.turn.core → ((s.popped sp.x).fly (s.context sp) nb m rs).core c = s.core c := by
    intro c hc
    unfold State.fly
    simp only [hw]
    rw [core_modCore_ne _ _ hc, hpopne c hc]
  have hown : ((s.popped sp.x).fly (s.context sp) nb m rs).seq s.turn = (s.popped sp.x).seq s.turn := by
    simp only [State.seq, hpop, e1]
    cases s.turn.sq <;> rfl
  obtain ⟨c1, c2⟩ := popped_seq s sp.x
  refine ⟨hf.stamp.trans rfl, hf.cycle.trans rfl, hf.turn.trans rfl, ?_, ?_, ?_, fun w hw' => (hf.seqs w hw').trans ?_, ?_, ?_, ?_, ?_⟩
  · rw [hp, hown]
    simp only [flowControl, c1]
    rfl
  · obtain ⟨_, _, _, _, _, _, _, _, _, _, e⟩ := hf.core s.turn.core
    refine ⟨fs, ?_, e2, fun f hf => ?_⟩
    · rw [e]; simp only [e1]
    · obtain ⟨a1, a2, a3, _⟩ := e3 f hf
      exact ⟨a1, a2, a3⟩
  · have := hf.regs
    rw [hown] at this
    exact c2.trans this
  · by_cases hc : w.core = s.turn.core
    · have hn : w.sq ≠ s.turn.sq := fun e => hw' (by
        cases hw0 : s.turn; cases w; simp_all)
      have h1 : ((s.popped sp.x).fly (s.context sp) nb m rs).seq w = (s.me.popTokens s.turn.sq sp.x).seq w.sq := by
        simp only [State.seq, hc, e1]; cases w.sq <;> rfl
      rw [h1, er w.sq hn]
      simp only [State.seq, hc, State.me]
    · simp only [State.seq, hflyne w.core hc]
  · intro c hc
    have := hf.core c
    rwa [hflyne c hc] at this
  · refine ⟨tok, s.me.flights ++ fs, Core.sameBut.trans ?_ (hf.core s.turn.core)⟩
    rw [e1]
    obtain ⟨_, _, _, _, _, _, _, _, _, _, e⟩ := et
    rw [e]
    exact ⟨_, _, _, _, _, _, _, _, _, _, rfl⟩
  · intro a b c
    have h1 : (((s.popped sp.x).fly (s.context sp) nb m rs).seq s.turn).noLoop := by
      rw [hown, noLoop_iff, c1, ← noLoop_iff]; exact c
    exact ⟨(hm a b h1).1.trans rfl, (hm a b h1).2.trans rfl⟩
  · intro a
    exact ⟨(hn a).1.trans rfl, (hn a).2.trans rfl⟩

end Sys2Proof.Machine
end

