-- ==== Sys2Proof/Laws/Commands.lean ====
section
/-!
SUPPORT. The shared submission of engine commands: an instruction whose own meaning is `submit` completes with the effect that the
table of commands says.
-/
namespace Sys2Proof.Rules
open Sys2Proof.Machine

/-- An instruction that submits the order `o`. -/
theorem command_of {i : Instr} (sp : Spec) (o : Order) (ok : State → Prop) (tag : Cx → State → BitVec 6)
    (ready : Cx → State → Option Trap) (op : Cx → State → CmdOp) (spad : Cx → State → List (Nat × Nat))
    (he : ∀ s, exec i s = submit sp o.cls tag ready op spad s) (hm : sp.short = false ∧ sp.minLat = 0 ∧ sp.rel = false)
    (h : ∀ (s : State) (cx : Cx), cx.who = s.turn → sp.illegal cx s = false ∧ sp.waits cx s = false ∧ tag cx s = o.tag s
      ∧ (ok s → ready cx s = none) ∧ op cx s = o.op s ∧ spad cx s = o.spad s) :
    (command sp.x sp.issuers o sp.onDie ok).completes i := by
  refine completes_of (fun _ => _) (fun _ => _) he (fun _ => ⟨rfl, hm.1, hm.2.1, rfl, rfl, hm.2.2, rfl⟩) (fun s _ hc => ?_) ?_
  · obtain ⟨e1, e2, e3, _⟩ := h s (s.context (command sp.x sp.issuers o sp.onDie ok).spec) rfl
    refine ⟨e1, ?_⟩
    simp only [e2, e3, Bool.or_false, Bool.or_eq_false_iff, decide_eq_false_iff_not, Nat.not_le]
    exact hc
  · intro s p cx hw hx hb hk
    obtain ⟨_, _, e1, e2, e3, e4⟩ := h p cx hw
    refine ⟨true, ?_⟩
    simp only [e2 hk, e1, e3, e4, command, submitted, hw]
    rfl

end Sys2Proof.Rules
end

