-- ==== Sys2Proof/Laws/PerInstr.lean ====
section
/-!
SUPPORT. The encodings are of the right size (R16, R17): a parcel has 16 bits and bit 0 clear; a word has 32 bits and bit 0 set, and its
bit 1 says that a mask word follows. One lemma for each constructor of `Instr`.
-/
namespace Sys2Proof.Laws.Sized

/-- An encoding has the size that its bits 0 and 1 say. -/
def sized : Enc → Prop
  | .parcel p => p < 65536 ∧ p % 2 = 0
  | .word w m => w < 4294967296 ∧ w % 2 = 1 ∧ w / 2 % 2 = m.isSome.toNat

/-- The encoding of an instruction, where it has one, has the size that its bits say. -/
def Statement (i : Instr) : Prop := ∀ e, encode i = some e → sized e

/-- A word built from a major, an operand field of 17 bits and the common fields. -/
theorem word_sized (maj op : Nat) (x : Ctl) (m : Option (BitVec 32)) (h : maj < 64) (ho : op < 131072)
    (hm : m.isSome = x.safe.isSome) : sized (.word (word32 maj op x) m) := by
  have h1 := x.lat.isLt
  have h2 := Bool.toNat_lt x.sb
  have h3 := Bool.toNat_lt x.wb
  have h4 := Bool.toNat_lt x.sf
  have h5 := Bool.toNat_lt x.wf
  have h6 := Bool.toNat_lt x.safe.isSome
  refine ⟨?_, ?_, ?_⟩
  · simp only [word32]; omega
  · simp only [word32]; omega
  · rw [hm]; simp only [word32]; omega

/-- What holds of an instruction with this encoding. -/
theorem of_eq {i : Instr} {e : Enc} (h : encode i = some e) (hs : sized e) : Statement i := by
  intro e' h'
  rw [h] at h'
  exact Option.some.inj h' ▸ hs

/-- A step without an encoding. -/
theorem of_none {i : Instr} (h : encode i = none) : Statement i := by
  intro e h'
  rw [h] at h'
  exact nomatch h'

theorem sz_code (z : Sz) : z.code < 4 := by cases z <;> decide
theorem hint_code (z : Hint) : z.code < 4 := by cases z <;> decide
theorem scope_code (z : Scope) : z.code < 8 := by cases z <;> decide
theorem path_code (z : PathClass) : z.code < 8 := by cases z <;> decide
theorem cc_code (z : Cc) : z.code < 16 := by cases z <;> decide
theorem vcc_code (z : Vcc) : z.code < 16 := by cases z <;> decide

theorem blk (i : Bool) (r : BitVec 7) (n : BitVec 9) : Statement (.blk i r n) := by
  have h0 := Bool.toNat_lt i
  have h1 := r.isLt
  have h2 := n.isLt
  exact of_eq rfl (word_sized _ _ _ _ (by decide) (by omega) rfl)
theorem add (d : Reg) (a : Reg) (b : Reg) (x : Ctl) : Statement (.add d a b x) := by
  have h0 := d.isLt
  have h1 := a.isLt
  have h2 := b.isLt
  exact of_eq rfl (word_sized _ _ _ _ (by decide) (by omega) rfl)
theorem sub (d : Reg) (a : Reg) (b : Reg) (x : Ctl) : Statement (.sub d a b x) := by
  have h0 := d.isLt
  have h1 := a.isLt
  have h2 := b.isLt
  exact of_eq rfl (word_sized _ _ _ _ (by decide) (by omega) rfl)
theorem and (d : Reg) (a : Reg) (b : Reg) (x : Ctl) : Statement (.and d a b x) := by
  have h0 := d.isLt
  have h1 := a.isLt
  have h2 := b.isLt
  exact of_eq rfl (word_sized _ _ _ _ (by decide) (by omega) rfl)
theorem or (d : Reg) (a : Reg) (b : Reg) (x : Ctl) : Statement (.or d a b x) := by
  have h0 := d.isLt
  have h1 := a.isLt
  have h2 := b.isLt
  exact of_eq rfl (word_sized _ _ _ _ (by decide) (by omega) rfl)
theorem xor (d : Reg) (a : Reg) (b : Reg) (x : Ctl) : Statement (.xor d a b x) := by
  have h0 := d.isLt
  have h1 := a.isLt
  have h2 := b.isLt
  exact of_eq rfl (word_sized _ _ _ _ (by decide) (by omega) rfl)
theorem andn (d : Reg) (a : Reg) (b : Reg) (x : Ctl) : Statement (.andn d a b x) := by
  have h0 := d.isLt
  have h1 := a.isLt
  have h2 := b.isLt
  exact of_eq rfl (word_sized _ _ _ _ (by decide) (by omega) rfl)
theorem sll (d : Reg) (a : Reg) (b : Reg) (x : Ctl) : Statement (.sll d a b x) := by
  have h0 := d.isLt
  have h1 := a.isLt
  have h2 := b.isLt
  exact of_eq rfl (word_sized _ _ _ _ (by decide) (by omega) rfl)
theorem srl (d : Reg) (a : Reg) (b : Reg) (x : Ctl) : Statement (.srl d a b x) := by
  have h0 := d.isLt
  have h1 := a.isLt
  have h2 := b.isLt
  exact of_eq rfl (word_sized _ _ _ _ (by decide) (by omega) rfl)
theorem sra (d : Reg) (a : Reg) (b : Reg) (x : Ctl) : Statement (.sra d a b x) := by
  have h0 := d.isLt
  have h1 := a.isLt
  have h2 := b.isLt
  exact of_eq rfl (word_sized _ _ _ _ (by decide) (by omega) rfl)
theorem ror (d : Reg) (a : Reg) (b : Reg) (x : Ctl) : Statement (.ror d a b x) := by
  have h0 := d.isLt
  have h1 := a.isLt
  have h2 := b.isLt
  exact of_eq rfl (word_sized _ _ _ _ (by decide) (by omega) rfl)
theorem fshl (d : Reg) (a : Reg) (b : Reg) (x : Ctl) : Statement (.fshl d a b x) := by
  have h0 := d.isLt
  have h1 := a.isLt
  have h2 := b.isLt
  exact of_eq rfl (word_sized _ _ _ _ (by decide) (by omega) rfl)
theorem fshr (d : Reg) (a : Reg) (b : Reg) (x : Ctl) : Statement (.fshr d a b x) := by
  have h0 := d.isLt
  have h1 := a.isLt
  have h2 := b.isLt
  exact of_eq rfl (word_sized _ _ _ _ (by decide) (by omega) rfl)
theorem mul (d : Reg) (a : Reg) (b : Reg) (x : Ctl) : Statement (.mul d a b x) := by
  have h0 := d.isLt
  have h1 := a.isLt
  have h2 := b.isLt
  exact of_eq rfl (word_sized _ _ _ _ (by decide) (by omega) rfl)
theorem mulh (d : Reg) (a : Reg) (b : Reg) (x : Ctl) : Statement (.mulh d a b x) := by
  have h0 := d.isLt
  have h1 := a.isLt
  have h2 := b.isLt
  exact of_eq rfl (word_sized _ _ _ _ (by decide) (by omega) rfl)
theorem mulhu (d : Reg) (a : Reg) (b : Reg) (x : Ctl) : Statement (.mulhu d a b x) := by
  have h0 := d.isLt
  have h1 := a.isLt
  have h2 := b.isLt
  exact of_eq rfl (word_sized _ _ _ _ (by decide) (by omega) rfl)
theorem fns (d : Reg) (a : Reg) (b : Reg) (x : Ctl) : Statement (.fns d a b x) := by
  have h0 := d.isLt
  have h1 := a.isLt
  have h2 := b.isLt
  exact of_eq rfl (word_sized _ _ _ _ (by decide) (by omega) rfl)
theorem div (d : Reg) (a : Reg) (b : Reg) (x : Ctl) : Statement (.div d a b x) := by
  have h0 := d.isLt
  have h1 := a.isLt
  have h2 := b.isLt
  exact of_eq rfl (word_sized _ _ _ _ (by decide) (by omega) rfl)
theorem divu (d : Reg) (a : Reg) (b : Reg) (x : Ctl) : Statement (.divu d a b x) := by
  have h0 := d.isLt
  have h1 := a.isLt
  have h2 := b.isLt
  exact of_eq rfl (word_sized _ _ _ _ (by decide) (by omega) rfl)
theorem rem (d : Reg) (a : Reg) (b : Reg) (x : Ctl) : Statement (.rem d a b x) := by
  have h0 := d.isLt
  have h1 := a.isLt
  have h2 := b.isLt
  exact of_eq rfl (word_sized _ _ _ _ (by decide) (by omega) rfl)
theorem remu (d : Reg) (a : Reg) (b : Reg) (x : Ctl) : Statement (.remu d a b x) := by
  have h0 := d.isLt
  have h1 := a.isLt
  have h2 := b.isLt
  exact of_eq rfl (word_sized _ _ _ _ (by decide) (by omega) rfl)
theorem min (d : Reg) (a : Reg) (b : Reg) (x : Ctl) : Statement (.min d a b x) := by
  have h0 := d.isLt
  have h1 := a.isLt
  have h2 := b.isLt
  exact of_eq rfl (word_sized _ _ _ _ (by decide) (by omega) rfl)
theorem max (d : Reg) (a : Reg) (b : Reg) (x : Ctl) : Statement (.max d a b x) := by
  have h0 := d.isLt
  have h1 := a.isLt
  have h2 := b.isLt
  exact of_eq rfl (word_sized _ _ _ _ (by decide) (by omega) rfl)
theorem minu (d : Reg) (a : Reg) (b : Reg) (x : Ctl) : Statement (.minu d a b x) := by
  have h0 := d.isLt
  have h1 := a.isLt
  have h2 := b.isLt
  exact of_eq rfl (word_sized _ _ _ _ (by decide) (by omega) rfl)
theorem maxu (d : Reg) (a : Reg) (b : Reg) (x : Ctl) : Statement (.maxu d a b x) := by
  have h0 := d.isLt
  have h1 := a.isLt
  have h2 := b.isLt
  exact of_eq rfl (word_sized _ _ _ _ (by decide) (by omega) rfl)
theorem addi (d : Reg) (a : Reg) (i : BitVec 7) (x : Ctl) : Statement (.addi d a i x) := by
  have h0 := d.isLt
  have h1 := a.isLt
  have h2 := i.isLt
  exact of_eq rfl (word_sized _ _ _ _ (by decide) (by omega) rfl)
theorem andi (d : Reg) (a : Reg) (i : BitVec 7) (x : Ctl) : Statement (.andi d a i x) := by
  have h0 := d.isLt
  have h1 := a.isLt
  have h2 := i.isLt
  exact of_eq rfl (word_sized _ _ _ _ (by decide) (by omega) rfl)
theorem slli (d : Reg) (a : Reg) (h : BitVec 6) (x : Ctl) : Statement (.slli d a h x) := by
  have h0 := d.isLt
  have h1 := a.isLt
  have h2 := h.isLt
  exact of_eq rfl (word_sized _ _ _ _ (by decide) (by omega) rfl)
theorem srli (d : Reg) (a : Reg) (h : BitVec 6) (x : Ctl) : Statement (.srli d a h x) := by
  have h0 := d.isLt
  have h1 := a.isLt
  have h2 := h.isLt
  exact of_eq rfl (word_sized _ _ _ _ (by decide) (by omega) rfl)
theorem srai (d : Reg) (a : Reg) (h : BitVec 6) (x : Ctl) : Statement (.srai d a h x) := by
  have h0 := d.isLt
  have h1 := a.isLt
  have h2 := h.isLt
  exact of_eq rfl (word_sized _ _ _ _ (by decide) (by omega) rfl)
theorem rori (d : Reg) (a : Reg) (h : BitVec 6) (x : Ctl) : Statement (.rori d a h x) := by
  have h0 := d.isLt
  have h1 := a.isLt
  have h2 := h.isLt
  exact of_eq rfl (word_sized _ _ _ _ (by decide) (by omega) rfl)
theorem li (d : Reg) (i : BitVec 12) (x : Ctl) : Statement (.li d i x) := by
  have h0 := d.isLt
  have h1 := i.isLt
  exact of_eq rfl (word_sized _ _ _ _ (by decide) (by omega) rfl)
theorem ldc (d : Reg) (i : BitVec 12) (x : Ctl) : Statement (.ldc d i x) := by
  have h0 := d.isLt
  have h1 := i.isLt
  exact of_eq rfl (word_sized _ _ _ _ (by decide) (by omega) rfl)
theorem popc (d : Reg) (a : Reg) (x : Ctl) : Statement (.popc d a x) := by
  have h0 := d.isLt
  have h1 := a.isLt
  exact of_eq rfl (word_sized _ _ _ _ (by decide) (by omega) rfl)
theorem clz (d : Reg) (a : Reg) (x : Ctl) : Statement (.clz d a x) := by
  have h0 := d.isLt
  have h1 := a.isLt
  exact of_eq rfl (word_sized _ _ _ _ (by decide) (by omega) rfl)
theorem ctz (d : Reg) (a : Reg) (x : Ctl) : Statement (.ctz d a x) := by
  have h0 := d.isLt
  have h1 := a.isLt
  exact of_eq rfl (word_sized _ _ _ _ (by decide) (by omega) rfl)
theorem brev (d : Reg) (a : Reg) (x : Ctl) : Statement (.brev d a x) := by
  have h0 := d.isLt
  have h1 := a.isLt
  exact of_eq rfl (word_sized _ _ _ _ (by decide) (by omega) rfl)
theorem bswap (d : Reg) (a : Reg) (x : Ctl) : Statement (.bswap d a x) := by
  have h0 := d.isLt
  have h1 := a.isLt
  exact of_eq rfl (word_sized _ _ _ _ (by decide) (by omega) rfl)
theorem sextB (d : Reg) (a : Reg) (x : Ctl) : Statement (.sextB d a x) := by
  have h0 := d.isLt
  have h1 := a.isLt
  exact of_eq rfl (word_sized _ _ _ _ (by decide) (by omega) rfl)
theorem sextH (d : Reg) (a : Reg) (x : Ctl) : Statement (.sextH d a x) := by
  have h0 := d.isLt
  have h1 := a.isLt
  exact of_eq rfl (word_sized _ _ _ _ (by decide) (by omega) rfl)
theorem sextW (d : Reg) (a : Reg) (x : Ctl) : Statement (.sextW d a x) := by
  have h0 := d.isLt
  have h1 := a.isLt
  exact of_eq rfl (word_sized _ _ _ _ (by decide) (by omega) rfl)
theorem zextB (d : Reg) (a : Reg) (x : Ctl) : Statement (.zextB d a x) := by
  have h0 := d.isLt
  have h1 := a.isLt
  exact of_eq rfl (word_sized _ _ _ _ (by decide) (by omega) rfl)
theorem zextH (d : Reg) (a : Reg) (x : Ctl) : Statement (.zextH d a x) := by
  have h0 := d.isLt
  have h1 := a.isLt
  exact of_eq rfl (word_sized _ _ _ _ (by decide) (by omega) rfl)
theorem zextW (d : Reg) (a : Reg) (x : Ctl) : Statement (.zextW d a x) := by
  have h0 := d.isLt
  have h1 := a.isLt
  exact of_eq rfl (word_sized _ _ _ _ (by decide) (by omega) rfl)
theorem bfx (d : Reg) (a : Reg) (b : Reg) (x : Ctl) : Statement (.bfx d a b x) := by
  have h0 := d.isLt
  have h1 := a.isLt
  have h2 := b.isLt
  exact of_eq rfl (word_sized _ _ _ _ (by decide) (by omega) rfl)
theorem bfxs (d : Reg) (a : Reg) (b : Reg) (x : Ctl) : Statement (.bfxs d a b x) := by
  have h0 := d.isLt
  have h1 := a.isLt
  have h2 := b.isLt
  exact of_eq rfl (word_sized _ _ _ _ (by decide) (by omega) rfl)
theorem bfi (d : Reg) (a : Reg) (b : Reg) (x : Ctl) : Statement (.bfi d a b x) := by
  have h0 := d.isLt
  have h1 := a.isLt
  have h2 := b.isLt
  exact of_eq rfl (word_sized _ _ _ _ (by decide) (by omega) rfl)
theorem cmp (p : PReg) (a : Reg) (b : Reg) (c : Cc) (x : Ctl) : Statement (.cmp p a b c x) := by
  have h0 := p.isLt
  have h1 := a.isLt
  have h2 := b.isLt
  have h3 := cc_code c
  exact of_eq rfl (word_sized _ _ _ _ (by decide) (by omega) rfl)
theorem cmpi (p : PReg) (a : Reg) (i : BitVec 5) (c : Cc) (x : Ctl) : Statement (.cmpi p a i c x) := by
  have h0 := p.isLt
  have h1 := a.isLt
  have h2 := i.isLt
  have h3 := cc_code c
  exact of_eq rfl (word_sized _ _ _ _ (by decide) (by omega) rfl)
theorem sel (d : Reg) (a : Reg) (p : PReg) (x : Ctl) : Statement (.sel d a p x) := by
  have h0 := d.isLt
  have h1 := a.isLt
  have h2 := p.isLt
  exact of_eq rfl (word_sized _ _ _ _ (by decide) (by omega) rfl)
theorem selN (d : Reg) (a : Reg) (p : PReg) (x : Ctl) : Statement (.selN d a p x) := by
  have h0 := d.isLt
  have h1 := a.isLt
  have h2 := p.isLt
  exact of_eq rfl (word_sized _ _ _ _ (by decide) (by omega) rfl)
theorem pand (p : PReg) (q : PReg) (r : PReg) (x : Ctl) : Statement (.pand p q r x) := by
  have h0 := p.isLt
  have h1 := q.isLt
  have h2 := r.isLt
  exact of_eq rfl (word_sized _ _ _ _ (by decide) (by omega) rfl)
theorem por (p : PReg) (q : PReg) (r : PReg) (x : Ctl) : Statement (.por p q r x) := by
  have h0 := p.isLt
  have h1 := q.isLt
  have h2 := r.isLt
  exact of_eq rfl (word_sized _ _ _ _ (by decide) (by omega) rfl)
theorem pxor (p : PReg) (q : PReg) (r : PReg) (x : Ctl) : Statement (.pxor p q r x) := by
  have h0 := p.isLt
  have h1 := q.isLt
  have h2 := r.isLt
  exact of_eq rfl (word_sized _ _ _ _ (by decide) (by omega) rfl)
theorem pandn (p : PReg) (q : PReg) (r : PReg) (x : Ctl) : Statement (.pandn p q r x) := by
  have h0 := p.isLt
  have h1 := q.isLt
  have h2 := r.isLt
  exact of_eq rfl (word_sized _ _ _ _ (by decide) (by omega) rfl)
theorem pnot (p : PReg) (q : PReg) (x : Ctl) : Statement (.pnot p q x) := by
  have h0 := p.isLt
  have h1 := q.isLt
  exact of_eq rfl (word_sized _ _ _ _ (by decide) (by omega) rfl)
theorem psetg (p : PReg) (a : Reg) (x : Ctl) : Statement (.psetg p a x) := by
  have h0 := p.isLt
  have h1 := a.isLt
  exact of_eq rfl (word_sized _ _ _ _ (by decide) (by omega) rfl)
theorem prd (d : Reg) (x : Ctl) : Statement (.prd d x) := by
  have h0 := d.isLt
  exact of_eq rfl (word_sized _ _ _ _ (by decide) (by omega) rfl)
theorem bt (p : PReg) (o : BitVec 13) (x : Ctl) : Statement (.bt p o x) := by
  have h0 := p.isLt
  have h1 := o.isLt
  exact of_eq rfl (word_sized _ _ _ _ (by decide) (by omega) rfl)
theorem bf (p : PReg) (o : BitVec 13) (x : Ctl) : Statement (.bf p o x) := by
  have h0 := p.isLt
  have h1 := o.isLt
  exact of_eq rfl (word_sized _ _ _ _ (by decide) (by omega) rfl)
theorem j (o : BitVec 17) (x : Ctl) : Statement (.j o x) := by
  have h0 := o.isLt
  exact of_eq rfl (word_sized _ _ _ _ (by decide) (by omega) rfl)
theorem call (o : BitVec 17) (x : Ctl) : Statement (.call o x) := by
  have h0 := o.isLt
  exact of_eq rfl (word_sized _ _ _ _ (by decide) (by omega) rfl)
theorem jr (a : Reg) (x : Ctl) : Statement (.jr a x) := by
  have h0 := a.isLt
  exact of_eq rfl (word_sized _ _ _ _ (by decide) (by omega) rfl)
theorem callr (d : Reg) (a : Reg) (x : Ctl) : Statement (.callr d a x) := by
  have h0 := d.isLt
  have h1 := a.isLt
  exact of_eq rfl (word_sized _ _ _ _ (by decide) (by omega) rfl)
theorem ret (a : Reg) (x : Ctl) : Statement (.ret a x) := by
  have h0 := a.isLt
  exact of_eq rfl (word_sized _ _ _ _ (by decide) (by omega) rfl)
theorem brk (x : Ctl) : Statement (.brk x) := by
  exact of_eq rfl (word_sized _ _ _ _ (by decide) (by omega) rfl)
theorem lcut (x : Ctl) : Statement (.lcut x) := by
  exact of_eq rfl (word_sized _ _ _ _ (by decide) (by omega) rfl)
theorem mfs (d : Reg) (r : BitVec 12) (x : Ctl) : Statement (.mfs d r x) := by
  have h0 := d.isLt
  have h1 := r.isLt
  exact of_eq rfl (word_sized _ _ _ _ (by decide) (by omega) rfl)
theorem mts (d : Reg) (r : BitVec 12) (x : Ctl) : Statement (.mts d r x) := by
  have h0 := d.isLt
  have h1 := r.isLt
  exact of_eq rfl (word_sized _ _ _ _ (by decide) (by omega) rfl)
theorem mtsFpstat (d : Reg) (x : Ctl) : Statement (.mtsFpstat d x) := by
  have h0 := d.isLt
  exact of_eq rfl (word_sized _ _ _ _ (by decide) (by omega) rfl)
theorem mtsAtomflags (d : Reg) (x : Ctl) : Statement (.mtsAtomflags d x) := by
  have h0 := d.isLt
  exact of_eq rfl (word_sized _ _ _ _ (by decide) (by omega) rfl)
theorem mtsEngerr (d : Reg) (x : Ctl) : Statement (.mtsEngerr d x) := by
  have h0 := d.isLt
  exact of_eq rfl (word_sized _ _ _ _ (by decide) (by omega) rfl)
theorem mtsDerr (d : Reg) (x : Ctl) : Statement (.mtsDerr d x) := by
  have h0 := d.isLt
  exact of_eq rfl (word_sized _ _ _ _ (by decide) (by omega) rfl)
theorem mtsRpstat (d : Reg) (x : Ctl) : Statement (.mtsRpstat d x) := by
  have h0 := d.isLt
  exact of_eq rfl (word_sized _ _ _ _ (by decide) (by omega) rfl)
theorem sld (d : Reg) (a : Reg) (z : Sz) (o : BitVec 5) (x : Ctl) : Statement (.sld d a z o x) := by
  have h0 := d.isLt
  have h1 := a.isLt
  have h2 := sz_code z
  have h3 := o.isLt
  exact of_eq rfl (word_sized _ _ _ _ (by decide) (by omega) rfl)
theorem slds (d : Reg) (a : Reg) (z : Sz) (o : BitVec 5) (x : Ctl) : Statement (.slds d a z o x) := by
  have h0 := d.isLt
  have h1 := a.isLt
  have h2 := sz_code z
  have h3 := o.isLt
  exact of_eq rfl (word_sized _ _ _ _ (by decide) (by omega) rfl)
theorem sst (d : Reg) (a : Reg) (z : Sz) (o : BitVec 5) (x : Ctl) : Statement (.sst d a z o x) := by
  have h0 := d.isLt
  have h1 := a.isLt
  have h2 := sz_code z
  have h3 := o.isLt
  exact of_eq rfl (word_sized _ _ _ _ (by decide) (by omega) rfl)
theorem trap (a : Reg) (x : Ctl) : Statement (.trap a x) := by
  have h0 := a.isLt
  exact of_eq rfl (word_sized _ _ _ _ (by decide) (by omega) rfl)
theorem rte (x : Ctl) : Statement (.rte x) := by
  exact of_eq rfl (word_sized _ _ _ _ (by decide) (by omega) rfl)
theorem ctxsv (d : Reg) (a : Reg) (x : Ctl) : Statement (.ctxsv d a x) := by
  have h0 := d.isLt
  have h1 := a.isLt
  exact of_eq rfl (word_sized _ _ _ _ (by decide) (by omega) rfl)
theorem ctxrs (d : Reg) (a : Reg) (x : Ctl) : Statement (.ctxrs d a x) := by
  have h0 := d.isLt
  have h1 := a.isLt
  exact of_eq rfl (word_sized _ _ _ _ (by decide) (by omega) rfl)
theorem snaprd (d : Reg) (a : Reg) (x : Ctl) : Statement (.snaprd d a x) := by
  have h0 := d.isLt
  have h1 := a.isLt
  exact of_eq rfl (word_sized _ _ _ _ (by decide) (by omega) rfl)
theorem wfe (d : Reg) (a : Reg) (x : Ctl) : Statement (.wfe d a x) := by
  have h0 := d.isLt
  have h1 := a.isLt
  exact of_eq rfl (word_sized _ _ _ _ (by decide) (by omega) rfl)
theorem bar (x : Ctl) : Statement (.bar x) := by
  exact of_eq rfl (word_sized _ _ _ _ (by decide) (by omega) rfl)
theorem barrierRelease (launch : Nat) : Statement (.barrierRelease launch) := of_none rfl
theorem quies (d : Reg) (a : Reg) (x : Ctl) : Statement (.quies d a x) := by
  have h0 := d.isLt
  have h1 := a.isLt
  exact of_eq rfl (word_sized _ _ _ _ (by decide) (by omega) rfl)
theorem tkcnt (d : Reg) (x : Ctl) : Statement (.tkcnt d x) := by
  have h0 := d.isLt
  exact of_eq rfl (word_sized _ _ _ _ (by decide) (by omega) rfl)
theorem wlpush (d : Reg) (a : Reg) (x : Ctl) : Statement (.wlpush d a x) := by
  have h0 := d.isLt
  have h1 := a.isLt
  exact of_eq rfl (word_sized _ _ _ _ (by decide) (by omega) rfl)
theorem wlpop (d : Reg) (a : Reg) (x : Ctl) : Statement (.wlpop d a x) := by
  have h0 := d.isLt
  have h1 := a.isLt
  exact of_eq rfl (word_sized _ _ _ _ (by decide) (by omega) rfl)
theorem tapeb (d : Reg) (x : Ctl) : Statement (.tapeb d x) := by
  have h0 := d.isLt
  exact of_eq rfl (word_sized _ _ _ _ (by decide) (by omega) rfl)
theorem tapee (d : Reg) (x : Ctl) : Statement (.tapee d x) := by
  have h0 := d.isLt
  exact of_eq rfl (word_sized _ _ _ _ (by decide) (by omega) rfl)
theorem tguard (d : Reg) (a : Reg) (x : Ctl) : Statement (.tguard d a x) := by
  have h0 := d.isLt
  have h1 := a.isLt
  exact of_eq rfl (word_sized _ _ _ _ (by decide) (by omega) rfl)
theorem tapeinv (a : Reg) (x : Ctl) : Statement (.tapeinv a x) := by
  have h0 := a.isLt
  exact of_eq rfl (word_sized _ _ _ _ (by decide) (by omega) rfl)
theorem tapeq (d : Reg) (a : Reg) (x : Ctl) : Statement (.tapeq d a x) := by
  have h0 := d.isLt
  have h1 := a.isLt
  exact of_eq rfl (word_sized _ _ _ _ (by decide) (by omega) rfl)
theorem vadd (v : VReg) (a : VReg) (b : VReg) (x : Ctl) : Statement (.vadd v a b x) := by
  have h0 := v.isLt
  have h1 := a.isLt
  have h2 := b.isLt
  exact of_eq rfl (word_sized _ _ _ _ (by decide) (by omega) rfl)
theorem vsub (v : VReg) (a : VReg) (b : VReg) (x : Ctl) : Statement (.vsub v a b x) := by
  have h0 := v.isLt
  have h1 := a.isLt
  have h2 := b.isLt
  exact of_eq rfl (word_sized _ _ _ _ (by decide) (by omega) rfl)
theorem vmul (v : VReg) (a : VReg) (b : VReg) (x : Ctl) : Statement (.vmul v a b x) := by
  have h0 := v.isLt
  have h1 := a.isLt
  have h2 := b.isLt
  exact of_eq rfl (word_sized _ _ _ _ (by decide) (by omega) rfl)
theorem vfma (v : VReg) (a : VReg) (b : VReg) (x : Ctl) : Statement (.vfma v a b x) := by
  have h0 := v.isLt
  have h1 := a.isLt
  have h2 := b.isLt
  exact of_eq rfl (word_sized _ _ _ _ (by decide) (by omega) rfl)
theorem vmin (v : VReg) (a : VReg) (b : VReg) (x : Ctl) : Statement (.vmin v a b x) := by
  have h0 := v.isLt
  have h1 := a.isLt
  have h2 := b.isLt
  exact of_eq rfl (word_sized _ _ _ _ (by decide) (by omega) rfl)
theorem vmax (v : VReg) (a : VReg) (b : VReg) (x : Ctl) : Statement (.vmax v a b x) := by
  have h0 := v.isLt
  have h1 := a.isLt
  have h2 := b.isLt
  exact of_eq rfl (word_sized _ _ _ _ (by decide) (by omega) rfl)
theorem vminn (v : VReg) (a : VReg) (b : VReg) (x : Ctl) : Statement (.vminn v a b x) := by
  have h0 := v.isLt
  have h1 := a.isLt
  have h2 := b.isLt
  exact of_eq rfl (word_sized _ _ _ _ (by decide) (by omega) rfl)
theorem vmaxn (v : VReg) (a : VReg) (b : VReg) (x : Ctl) : Statement (.vmaxn v a b x) := by
  have h0 := v.isLt
  have h1 := a.isLt
  have h2 := b.isLt
  exact of_eq rfl (word_sized _ _ _ _ (by decide) (by omega) rfl)
theorem vand (v : VReg) (a : VReg) (b : VReg) (x : Ctl) : Statement (.vand v a b x) := by
  have h0 := v.isLt
  have h1 := a.isLt
  have h2 := b.isLt
  exact of_eq rfl (word_sized _ _ _ _ (by decide) (by omega) rfl)
theorem vor (v : VReg) (a : VReg) (b : VReg) (x : Ctl) : Statement (.vor v a b x) := by
  have h0 := v.isLt
  have h1 := a.isLt
  have h2 := b.isLt
  exact of_eq rfl (word_sized _ _ _ _ (by decide) (by omega) rfl)
theorem vxor (v : VReg) (a : VReg) (b : VReg) (x : Ctl) : Statement (.vxor v a b x) := by
  have h0 := v.isLt
  have h1 := a.isLt
  have h2 := b.isLt
  exact of_eq rfl (word_sized _ _ _ _ (by decide) (by omega) rfl)
theorem vandn (v : VReg) (a : VReg) (b : VReg) (x : Ctl) : Statement (.vandn v a b x) := by
  have h0 := v.isLt
  have h1 := a.isLt
  have h2 := b.isLt
  exact of_eq rfl (word_sized _ _ _ _ (by decide) (by omega) rfl)
theorem vsll (v : VReg) (a : VReg) (b : VReg) (x : Ctl) : Statement (.vsll v a b x) := by
  have h0 := v.isLt
  have h1 := a.isLt
  have h2 := b.isLt
  exact of_eq rfl (word_sized _ _ _ _ (by decide) (by omega) rfl)
theorem vsrl (v : VReg) (a : VReg) (b : VReg) (x : Ctl) : Statement (.vsrl v a b x) := by
  have h0 := v.isLt
  have h1 := a.isLt
  have h2 := b.isLt
  exact of_eq rfl (word_sized _ _ _ _ (by decide) (by omega) rfl)
theorem vsra (v : VReg) (a : VReg) (b : VReg) (x : Ctl) : Statement (.vsra v a b x) := by
  have h0 := v.isLt
  have h1 := a.isLt
  have h2 := b.isLt
  exact of_eq rfl (word_sized _ _ _ _ (by decide) (by omega) rfl)
theorem vfshl (v : VReg) (a : VReg) (b : VReg) (x : Ctl) : Statement (.vfshl v a b x) := by
  have h0 := v.isLt
  have h1 := a.isLt
  have h2 := b.isLt
  exact of_eq rfl (word_sized _ _ _ _ (by decide) (by omega) rfl)
theorem vfshr (v : VReg) (a : VReg) (b : VReg) (x : Ctl) : Statement (.vfshr v a b x) := by
  have h0 := v.isLt
  have h1 := a.isLt
  have h2 := b.isLt
  exact of_eq rfl (word_sized _ _ _ _ (by decide) (by omega) rfl)
theorem vsel (v : VReg) (a : VReg) (b : VReg) (x : Ctl) : Statement (.vsel v a b x) := by
  have h0 := v.isLt
  have h1 := a.isLt
  have h2 := b.isLt
  exact of_eq rfl (word_sized _ _ _ _ (by decide) (by omega) rfl)
theorem vperm (v : VReg) (a : VReg) (b : VReg) (x : Ctl) : Statement (.vperm v a b x) := by
  have h0 := v.isLt
  have h1 := a.isLt
  have h2 := b.isLt
  exact of_eq rfl (word_sized _ _ _ _ (by decide) (by omega) rfl)
theorem vabsd (v : VReg) (a : VReg) (b : VReg) (x : Ctl) : Statement (.vabsd v a b x) := by
  have h0 := v.isLt
  have h1 := a.isLt
  have h2 := b.isLt
  exact of_eq rfl (word_sized _ _ _ _ (by decide) (by omega) rfl)
theorem vcmp (m : MReg) (a : VReg) (b : VReg) (c : Vcc) (x : Ctl) : Statement (.vcmp m a b c x) := by
  have h0 := m.isLt
  have h1 := a.isLt
  have h2 := b.isLt
  have h3 := vcc_code c
  exact of_eq rfl (word_sized _ _ _ _ (by decide) (by omega) rfl)
theorem vneg (v : VReg) (a : VReg) (x : Ctl) : Statement (.vneg v a x) := by
  have h0 := v.isLt
  have h1 := a.isLt
  exact of_eq rfl (word_sized _ _ _ _ (by decide) (by omega) rfl)
theorem vabs (v : VReg) (a : VReg) (x : Ctl) : Statement (.vabs v a x) := by
  have h0 := v.isLt
  have h1 := a.isLt
  exact of_eq rfl (word_sized _ _ _ _ (by decide) (by omega) rfl)
theorem vmov (v : VReg) (a : VReg) (x : Ctl) : Statement (.vmov v a x) := by
  have h0 := v.isLt
  have h1 := a.isLt
  exact of_eq rfl (word_sized _ _ _ _ (by decide) (by omega) rfl)
theorem vpopc (v : VReg) (a : VReg) (x : Ctl) : Statement (.vpopc v a x) := by
  have h0 := v.isLt
  have h1 := a.isLt
  exact of_eq rfl (word_sized _ _ _ _ (by decide) (by omega) rfl)
theorem vclz (v : VReg) (a : VReg) (x : Ctl) : Statement (.vclz v a x) := by
  have h0 := v.isLt
  have h1 := a.isLt
  exact of_eq rfl (word_sized _ _ _ _ (by decide) (by omega) rfl)
theorem vctz (v : VReg) (a : VReg) (x : Ctl) : Statement (.vctz v a x) := by
  have h0 := v.isLt
  have h1 := a.isLt
  exact of_eq rfl (word_sized _ _ _ _ (by decide) (by omega) rfl)
theorem vbrev (v : VReg) (a : VReg) (x : Ctl) : Statement (.vbrev v a x) := by
  have h0 := v.isLt
  have h1 := a.isLt
  exact of_eq rfl (word_sized _ _ _ _ (by decide) (by omega) rfl)
theorem vsqrt (v : VReg) (a : VReg) (x : Ctl) : Statement (.vsqrt v a x) := by
  have h0 := v.isLt
  have h1 := a.isLt
  exact of_eq rfl (word_sized _ _ _ _ (by decide) (by omega) rfl)
theorem vrcp (v : VReg) (a : VReg) (x : Ctl) : Statement (.vrcp v a x) := by
  have h0 := v.isLt
  have h1 := a.isLt
  exact of_eq rfl (word_sized _ _ _ _ (by decide) (by omega) rfl)
theorem vrsqrt (v : VReg) (a : VReg) (x : Ctl) : Statement (.vrsqrt v a x) := by
  have h0 := v.isLt
  have h1 := a.isLt
  exact of_eq rfl (word_sized _ _ _ _ (by decide) (by omega) rfl)
theorem vexp (v : VReg) (a : VReg) (x : Ctl) : Statement (.vexp v a x) := by
  have h0 := v.isLt
  have h1 := a.isLt
  exact of_eq rfl (word_sized _ _ _ _ (by decide) (by omega) rfl)
theorem vexp2 (v : VReg) (a : VReg) (x : Ctl) : Statement (.vexp2 v a x) := by
  have h0 := v.isLt
  have h1 := a.isLt
  exact of_eq rfl (word_sized _ _ _ _ (by decide) (by omega) rfl)
theorem vlog (v : VReg) (a : VReg) (x : Ctl) : Statement (.vlog v a x) := by
  have h0 := v.isLt
  have h1 := a.isLt
  exact of_eq rfl (word_sized _ _ _ _ (by decide) (by omega) rfl)
theorem vlog2 (v : VReg) (a : VReg) (x : Ctl) : Statement (.vlog2 v a x) := by
  have h0 := v.isLt
  have h1 := a.isLt
  exact of_eq rfl (word_sized _ _ _ _ (by decide) (by omega) rfl)
theorem vtanh (v : VReg) (a : VReg) (x : Ctl) : Statement (.vtanh v a x) := by
  have h0 := v.isLt
  have h1 := a.isLt
  exact of_eq rfl (word_sized _ _ _ _ (by decide) (by omega) rfl)
theorem vsigm (v : VReg) (a : VReg) (x : Ctl) : Statement (.vsigm v a x) := by
  have h0 := v.isLt
  have h1 := a.isLt
  exact of_eq rfl (word_sized _ _ _ _ (by decide) (by omega) rfl)
theorem vsin (v : VReg) (a : VReg) (x : Ctl) : Statement (.vsin v a x) := by
  have h0 := v.isLt
  have h1 := a.isLt
  exact of_eq rfl (word_sized _ _ _ _ (by decide) (by omega) rfl)
theorem vcos (v : VReg) (a : VReg) (x : Ctl) : Statement (.vcos v a x) := by
  have h0 := v.isLt
  have h1 := a.isLt
  exact of_eq rfl (word_sized _ _ _ _ (by decide) (by omega) rfl)
theorem vcvt (v : VReg) (a : VReg) (k : BitVec 3) (r : BitVec 2) (p : BitVec 2) (x : Ctl) : Statement (.vcvt v a k r p x) := by
  have h0 := v.isLt
  have h1 := a.isLt
  have h2 := k.isLt
  have h3 := r.isLt
  have h4 := p.isLt
  exact of_eq rfl (word_sized _ _ _ _ (by decide) (by omega) rfl)
theorem vcvtef (v : VReg) (a : VReg) (e : VReg) (f : BitVec 2) (x : Ctl) : Statement (.vcvtef v a e f x) := by
  have h0 := v.isLt
  have h1 := a.isLt
  have h2 := e.isLt
  have h3 := f.isLt
  exact of_eq rfl (word_sized _ _ _ _ (by decide) (by omega) rfl)
theorem vrsum (v : VReg) (a : VReg) (g : BitVec 3) (x : Ctl) : Statement (.vrsum v a g x) := by
  have h0 := v.isLt
  have h1 := a.isLt
  have h2 := g.isLt
  exact of_eq rfl (word_sized _ _ _ _ (by decide) (by omega) rfl)
theorem vrmax (v : VReg) (a : VReg) (g : BitVec 3) (x : Ctl) : Statement (.vrmax v a g x) := by
  have h0 := v.isLt
  have h1 := a.isLt
  have h2 := g.isLt
  exact of_eq rfl (word_sized _ _ _ _ (by decide) (by omega) rfl)
theorem vrmin (v : VReg) (a : VReg) (g : BitVec 3) (x : Ctl) : Statement (.vrmin v a g x) := by
  have h0 := v.isLt
  have h1 := a.isLt
  have h2 := g.isLt
  exact of_eq rfl (word_sized _ _ _ _ (by decide) (by omega) rfl)
theorem vrmaxu (v : VReg) (a : VReg) (g : BitVec 3) (x : Ctl) : Statement (.vrmaxu v a g x) := by
  have h0 := v.isLt
  have h1 := a.isLt
  have h2 := g.isLt
  exact of_eq rfl (word_sized _ _ _ _ (by decide) (by omega) rfl)
theorem vrminu (v : VReg) (a : VReg) (g : BitVec 3) (x : Ctl) : Statement (.vrminu v a g x) := by
  have h0 := v.isLt
  have h1 := a.isLt
  have h2 := g.isLt
  exact of_eq rfl (word_sized _ _ _ _ (by decide) (by omega) rfl)
theorem vrmaxa (v : VReg) (a : VReg) (g : BitVec 3) (x : Ctl) : Statement (.vrmaxa v a g x) := by
  have h0 := v.isLt
  have h1 := a.isLt
  have h2 := g.isLt
  exact of_eq rfl (word_sized _ _ _ _ (by decide) (by omega) rfl)
theorem vror (v : VReg) (a : VReg) (g : BitVec 3) (x : Ctl) : Statement (.vror v a g x) := by
  have h0 := v.isLt
  have h1 := a.isLt
  have h2 := g.isLt
  exact of_eq rfl (word_sized _ _ _ _ (by decide) (by omega) rfl)
theorem vrand (v : VReg) (a : VReg) (g : BitVec 3) (x : Ctl) : Statement (.vrand v a g x) := by
  have h0 := v.isLt
  have h1 := a.isLt
  have h2 := g.isLt
  exact of_eq rfl (word_sized _ _ _ _ (by decide) (by omega) rfl)
theorem vrxor (v : VReg) (a : VReg) (g : BitVec 3) (x : Ctl) : Statement (.vrxor v a g x) := by
  have h0 := v.isLt
  have h1 := a.isLt
  have h2 := g.isLt
  exact of_eq rfl (word_sized _ _ _ _ (by decide) (by omega) rfl)
theorem vscan (v : VReg) (a : VReg) (g : BitVec 3) (x : Ctl) : Statement (.vscan v a g x) := by
  have h0 := v.isLt
  have h1 := a.isLt
  have h2 := g.isLt
  exact of_eq rfl (word_sized _ _ _ _ (by decide) (by omega) rfl)
theorem vscanmax (v : VReg) (a : VReg) (g : BitVec 3) (x : Ctl) : Statement (.vscanmax v a g x) := by
  have h0 := v.isLt
  have h1 := a.isLt
  have h2 := g.isLt
  exact of_eq rfl (word_sized _ _ _ _ (by decide) (by omega) rfl)
theorem vcmpr (v : VReg) (a : VReg) (x : Ctl) : Statement (.vcmpr v a x) := by
  have h0 := v.isLt
  have h1 := a.isLt
  exact of_eq rfl (word_sized _ _ _ _ (by decide) (by omega) rfl)
theorem vexpd (v : VReg) (a : VReg) (x : Ctl) : Statement (.vexpd v a x) := by
  have h0 := v.isLt
  have h1 := a.isLt
  exact of_eq rfl (word_sized _ _ _ _ (by decide) (by omega) rfl)
theorem vbcast (v : VReg) (a : Reg) (x : Ctl) : Statement (.vbcast v a x) := by
  have h0 := v.isLt
  have h1 := a.isLt
  exact of_eq rfl (word_sized _ _ _ _ (by decide) (by omega) rfl)
theorem vextr (d : Reg) (v : VReg) (x : Ctl) : Statement (.vextr d v x) := by
  have h0 := d.isLt
  have h1 := v.isLt
  exact of_eq rfl (word_sized _ _ _ _ (by decide) (by omega) rfl)
theorem vfromm (v : VReg) (m : MReg) (x : Ctl) : Statement (.vfromm v m x) := by
  have h0 := v.isLt
  have h1 := m.isLt
  exact of_eq rfl (word_sized _ _ _ _ (by decide) (by omega) rfl)
theorem vtom (m : MReg) (a : VReg) (x : Ctl) : Statement (.vtom m a x) := by
  have h0 := m.isLt
  have h1 := a.isLt
  exact of_eq rfl (word_sized _ _ _ _ (by decide) (by omega) rfl)
theorem viota (v : VReg) (x : Ctl) : Statement (.viota v x) := by
  have h0 := v.isLt
  exact of_eq rfl (word_sized _ _ _ _ (by decide) (by omega) rfl)
theorem vosm (v : VReg) (a : VReg) (b : VReg) (x : Ctl) : Statement (.vosm v a b x) := by
  have h0 := v.isLt
  have h1 := a.isLt
  have h2 := b.isLt
  exact of_eq rfl (word_sized _ _ _ _ (by decide) (by omega) rfl)
theorem vlse (v : VReg) (a : VReg) (k : BitVec 5) (x : Ctl) : Statement (.vlse v a k x) := by
  have h0 := v.isLt
  have h1 := a.isLt
  have h2 := k.isLt
  exact of_eq rfl (word_sized _ _ _ _ (by decide) (by omega) rfl)
theorem vdefer (g : Reg) (a : VReg) (b : VReg) (x : Ctl) : Statement (.vdefer g a b x) := by
  have h0 := g.isLt
  have h1 := a.isLt
  have h2 := b.isLt
  exact of_eq rfl (word_sized _ _ _ _ (by decide) (by omega) rfl)
theorem vconf (m : MReg) (a : VReg) (b : VReg) (x : Ctl) : Statement (.vconf m a b x) := by
  have h0 := m.isLt
  have h1 := a.isLt
  have h2 := b.isLt
  exact of_eq rfl (word_sized _ _ _ _ (by decide) (by omega) rfl)
theorem mand (m : MReg) (n : MReg) (o : MReg) (x : Ctl) : Statement (.mand m n o x) := by
  have h0 := m.isLt
  have h1 := n.isLt
  have h2 := o.isLt
  exact of_eq rfl (word_sized _ _ _ _ (by decide) (by omega) rfl)
theorem mor (m : MReg) (n : MReg) (o : MReg) (x : Ctl) : Statement (.mor m n o x) := by
  have h0 := m.isLt
  have h1 := n.isLt
  have h2 := o.isLt
  exact of_eq rfl (word_sized _ _ _ _ (by decide) (by omega) rfl)
theorem mxor (m : MReg) (n : MReg) (o : MReg) (x : Ctl) : Statement (.mxor m n o x) := by
  have h0 := m.isLt
  have h1 := n.isLt
  have h2 := o.isLt
  exact of_eq rfl (word_sized _ _ _ _ (by decide) (by omega) rfl)
theorem mandn (m : MReg) (n : MReg) (o : MReg) (x : Ctl) : Statement (.mandn m n o x) := by
  have h0 := m.isLt
  have h1 := n.isLt
  have h2 := o.isLt
  exact of_eq rfl (word_sized _ _ _ _ (by decide) (by omega) rfl)
theorem mnot (m : MReg) (n : MReg) (x : Ctl) : Statement (.mnot m n x) := by
  have h0 := m.isLt
  have h1 := n.isLt
  exact of_eq rfl (word_sized _ _ _ _ (by decide) (by omega) rfl)
theorem msetl (m : MReg) (a : Reg) (x : Ctl) : Statement (.msetl m a x) := by
  have h0 := m.isLt
  have h1 := a.isLt
  exact of_eq rfl (word_sized _ _ _ _ (by decide) (by omega) rfl)
theorem mcnt (n : MReg) (a : Reg) (x : Ctl) : Statement (.mcnt n a x) := by
  have h0 := n.isLt
  have h1 := a.isLt
  exact of_eq rfl (word_sized _ _ _ _ (by decide) (by omega) rfl)
theorem mffs (n : MReg) (a : Reg) (x : Ctl) : Statement (.mffs n a x) := by
  have h0 := n.isLt
  have h1 := a.isLt
  exact of_eq rfl (word_sized _ _ _ _ (by decide) (by omega) rfl)
theorem vld (v : VReg) (a : Reg) (o : BitVec 5) (x : Ctl) : Statement (.vld v a o x) := by
  have h0 := v.isLt
  have h1 := a.isLt
  have h2 := o.isLt
  exact of_eq rfl (word_sized _ _ _ _ (by decide) (by omega) rfl)
theorem vst (v : VReg) (a : Reg) (o : BitVec 5) (x : Ctl) : Statement (.vst v a o x) := by
  have h0 := v.isLt
  have h1 := a.isLt
  have h2 := o.isLt
  exact of_eq rfl (word_sized _ _ _ _ (by decide) (by omega) rfl)
theorem vstu (v : VReg) (a : Reg) (o : BitVec 5) (x : Ctl) : Statement (.vstu v a o x) := by
  have h0 := v.isLt
  have h1 := a.isLt
  have h2 := o.isLt
  exact of_eq rfl (word_sized _ _ _ _ (by decide) (by omega) rfl)
theorem mma (a : Reg) (b : Reg) (x : Ctl) : Statement (.mma a b x) := by
  have h0 := a.isLt
  have h1 := b.isLt
  exact of_eq rfl (word_sized _ _ _ _ (by decide) (by omega) rfl)
theorem mmas (d : Reg) (a : Reg) (b : Reg) (x : Ctl) : Statement (.mmas d a b x) := by
  have h0 := d.isLt
  have h1 := a.isLt
  have h2 := b.isLt
  exact of_eq rfl (word_sized _ _ _ _ (by decide) (by omega) rfl)
theorem mgang (d : Reg) (a : Reg) (b : Reg) (x : Ctl) : Statement (.mgang d a b x) := by
  have h0 := d.isLt
  have h1 := a.isLt
  have h2 := b.isLt
  exact of_eq rfl (word_sized _ _ _ _ (by decide) (by omega) rfl)
theorem mzero (x : Ctl) : Statement (.mzero x) := by
  exact of_eq rfl (word_sized _ _ _ _ (by decide) (by omega) rfl)
theorem mdrain (d : Reg) (a : Reg) (b : Reg) (x : Ctl) : Statement (.mdrain d a b x) := by
  have h0 := d.isLt
  have h1 := a.isLt
  have h2 := b.isLt
  exact of_eq rfl (word_sized _ _ _ _ (by decide) (by omega) rfl)
theorem mcfg (a : Reg) (x : Ctl) : Statement (.mcfg a x) := by
  have h0 := a.isLt
  exact of_eq rfl (word_sized _ _ _ _ (by decide) (by omega) rfl)
theorem msave (a : Reg) (b : Reg) (x : Ctl) : Statement (.msave a b x) := by
  have h0 := a.isLt
  have h1 := b.isLt
  exact of_eq rfl (word_sized _ _ _ _ (by decide) (by omega) rfl)
theorem mload (a : Reg) (b : Reg) (x : Ctl) : Statement (.mload a b x) := by
  have h0 := a.isLt
  have h1 := b.isLt
  exact of_eq rfl (word_sized _ _ _ _ (by decide) (by omega) rfl)
theorem ld (d : Reg) (a : Reg) (z : Sz) (h : Hint) (o : BitVec 3) (x : Ctl) : Statement (.ld d a z h o x) := by
  have h0 := d.isLt
  have h1 := a.isLt
  have h2 := sz_code z
  have h3 := hint_code h
  have h4 := o.isLt
  exact of_eq rfl (word_sized _ _ _ _ (by decide) (by omega) rfl)
theorem lds (d : Reg) (a : Reg) (z : Sz) (h : Hint) (o : BitVec 3) (x : Ctl) : Statement (.lds d a z h o x) := by
  have h0 := d.isLt
  have h1 := a.isLt
  have h2 := sz_code z
  have h3 := hint_code h
  have h4 := o.isLt
  exact of_eq rfl (word_sized _ _ _ _ (by decide) (by omega) rfl)
theorem ldAcq (d : Reg) (a : Reg) (z : Sz) (h : Hint) (o : BitVec 3) (x : Ctl) : Statement (.ldAcq d a z h o x) := by
  have h0 := d.isLt
  have h1 := a.isLt
  have h2 := sz_code z
  have h3 := hint_code h
  have h4 := o.isLt
  exact of_eq rfl (word_sized _ _ _ _ (by decide) (by omega) rfl)
theorem st (d : Reg) (a : Reg) (z : Sz) (h : Hint) (o : BitVec 3) (x : Ctl) : Statement (.st d a z h o x) := by
  have h0 := d.isLt
  have h1 := a.isLt
  have h2 := sz_code z
  have h3 := hint_code h
  have h4 := o.isLt
  exact of_eq rfl (word_sized _ _ _ _ (by decide) (by omega) rfl)
theorem stRel (d : Reg) (a : Reg) (z : Sz) (h : Hint) (o : BitVec 3) (x : Ctl) : Statement (.stRel d a z h o x) := by
  have h0 := d.isLt
  have h1 := a.isLt
  have h2 := sz_code z
  have h3 := hint_code h
  have h4 := o.isLt
  exact of_eq rfl (word_sized _ _ _ _ (by decide) (by omega) rfl)
theorem vldg (v : VReg) (a : Reg) (h : Hint) (o : BitVec 3) (x : Ctl) : Statement (.vldg v a h o x) := by
  have h0 := v.isLt
  have h1 := a.isLt
  have h2 := hint_code h
  have h3 := o.isLt
  exact of_eq rfl (word_sized _ _ _ _ (by decide) (by omega) rfl)
theorem vldgAcq (v : VReg) (a : Reg) (h : Hint) (o : BitVec 3) (x : Ctl) : Statement (.vldgAcq v a h o x) := by
  have h0 := v.isLt
  have h1 := a.isLt
  have h2 := hint_code h
  have h3 := o.isLt
  exact of_eq rfl (word_sized _ _ _ _ (by decide) (by omega) rfl)
theorem vstg (v : VReg) (a : Reg) (h : Hint) (o : BitVec 3) (x : Ctl) : Statement (.vstg v a h o x) := by
  have h0 := v.isLt
  have h1 := a.isLt
  have h2 := hint_code h
  have h3 := o.isLt
  exact of_eq rfl (word_sized _ _ _ _ (by decide) (by omega) rfl)
theorem vstgRel (v : VReg) (a : Reg) (h : Hint) (o : BitVec 3) (x : Ctl) : Statement (.vstgRel v a h o x) := by
  have h0 := v.isLt
  have h1 := a.isLt
  have h2 := hint_code h
  have h3 := o.isLt
  exact of_eq rfl (word_sized _ _ _ _ (by decide) (by omega) rfl)
theorem amoAdd (d : Reg) (a : Reg) (r : Bool) (z : Sz) (x : Ctl) : Statement (.amoAdd d a r z x) := by
  have h0 := d.isLt
  have h1 := a.isLt
  have h2 := Bool.toNat_lt r
  have h3 := sz_code z
  exact of_eq rfl (word_sized _ _ _ _ (by decide) (by omega) rfl)
theorem amoAnd (d : Reg) (a : Reg) (r : Bool) (z : Sz) (x : Ctl) : Statement (.amoAnd d a r z x) := by
  have h0 := d.isLt
  have h1 := a.isLt
  have h2 := Bool.toNat_lt r
  have h3 := sz_code z
  exact of_eq rfl (word_sized _ _ _ _ (by decide) (by omega) rfl)
theorem amoOr (d : Reg) (a : Reg) (r : Bool) (z : Sz) (x : Ctl) : Statement (.amoOr d a r z x) := by
  have h0 := d.isLt
  have h1 := a.isLt
  have h2 := Bool.toNat_lt r
  have h3 := sz_code z
  exact of_eq rfl (word_sized _ _ _ _ (by decide) (by omega) rfl)
theorem amoXor (d : Reg) (a : Reg) (r : Bool) (z : Sz) (x : Ctl) : Statement (.amoXor d a r z x) := by
  have h0 := d.isLt
  have h1 := a.isLt
  have h2 := Bool.toNat_lt r
  have h3 := sz_code z
  exact of_eq rfl (word_sized _ _ _ _ (by decide) (by omega) rfl)
theorem amoMin (d : Reg) (a : Reg) (r : Bool) (z : Sz) (x : Ctl) : Statement (.amoMin d a r z x) := by
  have h0 := d.isLt
  have h1 := a.isLt
  have h2 := Bool.toNat_lt r
  have h3 := sz_code z
  exact of_eq rfl (word_sized _ _ _ _ (by decide) (by omega) rfl)
theorem amoMax (d : Reg) (a : Reg) (r : Bool) (z : Sz) (x : Ctl) : Statement (.amoMax d a r z x) := by
  have h0 := d.isLt
  have h1 := a.isLt
  have h2 := Bool.toNat_lt r
  have h3 := sz_code z
  exact of_eq rfl (word_sized _ _ _ _ (by decide) (by omega) rfl)
theorem amoMinu (d : Reg) (a : Reg) (r : Bool) (z : Sz) (x : Ctl) : Statement (.amoMinu d a r z x) := by
  have h0 := d.isLt
  have h1 := a.isLt
  have h2 := Bool.toNat_lt r
  have h3 := sz_code z
  exact of_eq rfl (word_sized _ _ _ _ (by decide) (by omega) rfl)
theorem amoMaxu (d : Reg) (a : Reg) (r : Bool) (z : Sz) (x : Ctl) : Statement (.amoMaxu d a r z x) := by
  have h0 := d.isLt
  have h1 := a.isLt
  have h2 := Bool.toNat_lt r
  have h3 := sz_code z
  exact of_eq rfl (word_sized _ _ _ _ (by decide) (by omega) rfl)
theorem amoSwap (d : Reg) (a : Reg) (r : Bool) (z : Sz) (x : Ctl) : Statement (.amoSwap d a r z x) := by
  have h0 := d.isLt
  have h1 := a.isLt
  have h2 := Bool.toNat_lt r
  have h3 := sz_code z
  exact of_eq rfl (word_sized _ _ _ _ (by decide) (by omega) rfl)
theorem amoCas (d : Reg) (a : Reg) (r : Bool) (z : Sz) (x : Ctl) : Statement (.amoCas d a r z x) := by
  have h0 := d.isLt
  have h1 := a.isLt
  have h2 := Bool.toNat_lt r
  have h3 := sz_code z
  exact of_eq rfl (word_sized _ _ _ _ (by decide) (by omega) rfl)
theorem amoFadd (d : Reg) (a : Reg) (r : Bool) (z : Sz) (x : Ctl) : Statement (.amoFadd d a r z x) := by
  have h0 := d.isLt
  have h1 := a.isLt
  have h2 := Bool.toNat_lt r
  have h3 := sz_code z
  exact of_eq rfl (word_sized _ _ _ _ (by decide) (by omega) rfl)
theorem plnstOr (d : Reg) (a : Reg) (x : Ctl) : Statement (.plnstOr d a x) := by
  have h0 := d.isLt
  have h1 := a.isLt
  exact of_eq rfl (word_sized _ _ _ _ (by decide) (by omega) rfl)
theorem plnstAnd (d : Reg) (a : Reg) (x : Ctl) : Statement (.plnstAnd d a x) := by
  have h0 := d.isLt
  have h1 := a.isLt
  exact of_eq rfl (word_sized _ _ _ _ (by decide) (by omega) rfl)
theorem fence (sc : Scope) (x : Ctl) : Statement (.fence sc x) := by
  have h0 := scope_code sc
  exact of_eq rfl (word_sized _ _ _ _ (by decide) (by omega) rfl)
theorem fencex (sc : Scope) (c : PathClass) (e : PathClass) (x : Ctl) : Statement (.fencex sc c e x) := by
  have h0 := scope_code sc
  have h1 := path_code c
  have h2 := path_code e
  exact of_eq rfl (word_sized _ _ _ _ (by decide) (by omega) rfl)
theorem publ (sc : Scope) (x : Ctl) : Statement (.publ sc x) := by
  have h0 := scope_code sc
  exact of_eq rfl (word_sized _ _ _ _ (by decide) (by omega) rfl)
theorem cflush (a : Reg) (x : Ctl) : Statement (.cflush a x) := by
  have h0 := a.isLt
  exact of_eq rfl (word_sized _ _ _ _ (by decide) (by omega) rfl)
theorem cinv (a : Reg) (x : Ctl) : Statement (.cinv a x) := by
  have h0 := a.isLt
  exact of_eq rfl (word_sized _ _ _ _ (by decide) (by omega) rfl)
theorem cpref (k : Bool) (h : Hint) (a : Reg) (x : Ctl) : Statement (.cpref k h a x) := by
  have h0 := Bool.toNat_lt k
  have h1 := hint_code h
  have h2 := a.isLt
  exact of_eq rfl (word_sized _ _ _ _ (by decide) (by omega) rfl)
theorem ntld (d : Reg) (a : Reg) (b : Reg) (x : Ctl) : Statement (.ntld d a b x) := by
  have h0 := d.isLt
  have h1 := a.isLt
  have h2 := b.isLt
  exact of_eq rfl (word_sized _ _ _ _ (by decide) (by omega) rfl)
theorem ntlock (a : Reg) (x : Ctl) : Statement (.ntlock a x) := by
  have h0 := a.isLt
  exact of_eq rfl (word_sized _ _ _ _ (by decide) (by omega) rfl)
theorem ntunl (a : Reg) (x : Ctl) : Statement (.ntunl a x) := by
  have h0 := a.isLt
  exact of_eq rfl (word_sized _ _ _ _ (by decide) (by omega) rfl)
theorem cpy (g : BitVec 6) (a : Reg) (b : Reg) (x : Ctl) : Statement (.cpy g a b x) := by
  have h0 := g.isLt
  have h1 := a.isLt
  have h2 := b.isLt
  exact of_eq rfl (word_sized _ _ _ _ (by decide) (by omega) rfl)
theorem cpy2d (g : BitVec 6) (a : Reg) (b : Reg) (x : Ctl) : Statement (.cpy2d g a b x) := by
  have h0 := g.isLt
  have h1 := a.isLt
  have h2 := b.isLt
  exact of_eq rfl (word_sized _ _ _ _ (by decide) (by omega) rfl)
theorem gath (g : BitVec 6) (a : Reg) (b : Reg) (x : Ctl) : Statement (.gath g a b x) := by
  have h0 := g.isLt
  have h1 := a.isLt
  have h2 := b.isLt
  exact of_eq rfl (word_sized _ _ _ _ (by decide) (by omega) rfl)
theorem scat (g : BitVec 6) (a : Reg) (b : Reg) (x : Ctl) : Statement (.scat g a b x) := by
  have h0 := g.isLt
  have h1 := a.isLt
  have h2 := b.isLt
  exact of_eq rfl (word_sized _ _ _ _ (by decide) (by omega) rfl)
theorem wtany (d : Reg) (a : Reg) (x : Ctl) : Statement (.wtany d a x) := by
  have h0 := d.isLt
  have h1 := a.isLt
  exact of_eq rfl (word_sized _ _ _ _ (by decide) (by omega) rfl)
theorem wtall (d : Reg) (a : Reg) (x : Ctl) : Statement (.wtall d a x) := by
  have h0 := d.isLt
  have h1 := a.isLt
  exact of_eq rfl (word_sized _ _ _ _ (by decide) (by omega) rfl)
theorem ffrdy (d : Reg) (a : Reg) (x : Ctl) : Statement (.ffrdy d a x) := by
  have h0 := d.isLt
  have h1 := a.isLt
  exact of_eq rfl (word_sized _ _ _ _ (by decide) (by omega) rfl)
theorem tagclr (a : Reg) (x : Ctl) : Statement (.tagclr a x) := by
  have h0 := a.isLt
  exact of_eq rfl (word_sized _ _ _ _ (by decide) (by omega) rfl)
theorem pxhash (d : Reg) (a : Reg) (x : Ctl) : Statement (.pxhash d a x) := by
  have h0 := d.isLt
  have h1 := a.isLt
  exact of_eq rfl (word_sized _ _ _ _ (by decide) (by omega) rfl)
theorem pxlook (d : Reg) (a : Reg) (x : Ctl) : Statement (.pxlook d a x) := by
  have h0 := d.isLt
  have h1 := a.isLt
  exact of_eq rfl (word_sized _ _ _ _ (by decide) (by omega) rfl)
theorem pxpin (d : Reg) (a : Reg) (x : Ctl) : Statement (.pxpin d a x) := by
  have h0 := d.isLt
  have h1 := a.isLt
  exact of_eq rfl (word_sized _ _ _ _ (by decide) (by omega) rfl)
theorem pxunpin (d : Reg) (a : Reg) (x : Ctl) : Statement (.pxunpin d a x) := by
  have h0 := d.isLt
  have h1 := a.isLt
  exact of_eq rfl (word_sized _ _ _ _ (by decide) (by omega) rfl)
theorem pxseal (d : Reg) (a : Reg) (x : Ctl) : Statement (.pxseal d a x) := by
  have h0 := d.isLt
  have h1 := a.isLt
  exact of_eq rfl (word_sized _ _ _ _ (by decide) (by omega) rfl)
theorem pxalloc (d : Reg) (a : Reg) (x : Ctl) : Statement (.pxalloc d a x) := by
  have h0 := d.isLt
  have h1 := a.isLt
  exact of_eq rfl (word_sized _ _ _ _ (by decide) (by omega) rfl)
theorem pxlease (d : Reg) (a : Reg) (x : Ctl) : Statement (.pxlease d a x) := by
  have h0 := d.isLt
  have h1 := a.isLt
  exact of_eq rfl (word_sized _ _ _ _ (by decide) (by omega) rfl)
theorem pxprom (d : Reg) (a : Reg) (x : Ctl) : Statement (.pxprom d a x) := by
  have h0 := d.isLt
  have h1 := a.isLt
  exact of_eq rfl (word_sized _ _ _ _ (by decide) (by omega) rfl)
theorem kmerge (d : Reg) (a : Reg) (x : Ctl) : Statement (.kmerge d a x) := by
  have h0 := d.isLt
  have h1 := a.isLt
  exact of_eq rfl (word_sized _ _ _ _ (by decide) (by omega) rfl)
theorem bfill (d : Reg) (a : Reg) (x : Ctl) : Statement (.bfill d a x) := by
  have h0 := d.isLt
  have h1 := a.isLt
  exact of_eq rfl (word_sized _ _ _ _ (by decide) (by omega) rfl)
theorem bfwait (a : Reg) (x : Ctl) : Statement (.bfwait a x) := by
  have h0 := a.isLt
  exact of_eq rfl (word_sized _ _ _ _ (by decide) (by omega) rfl)
theorem plan (d : Reg) (a : Reg) (x : Ctl) : Statement (.plan d a x) := by
  have h0 := d.isLt
  have h1 := a.isLt
  exact of_eq rfl (word_sized _ _ _ _ (by decide) (by omega) rfl)
theorem pxfetch (d : Reg) (a : Reg) (x : Ctl) : Statement (.pxfetch d a x) := by
  have h0 := d.isLt
  have h1 := a.isLt
  exact of_eq rfl (word_sized _ _ _ _ (by decide) (by omega) rfl)
theorem pxrepl (d : Reg) (a : Reg) (x : Ctl) : Statement (.pxrepl d a x) := by
  have h0 := d.isLt
  have h1 := a.isLt
  exact of_eq rfl (word_sized _ _ _ _ (by decide) (by omega) rfl)
theorem kvld (d : Reg) (a : Reg) (b : Reg) (x : Ctl) : Statement (.kvld d a b x) := by
  have h0 := d.isLt
  have h1 := a.isLt
  have h2 := b.isLt
  exact of_eq rfl (word_sized _ _ _ _ (by decide) (by omega) rfl)
theorem kvst (d : Reg) (a : Reg) (b : Reg) (x : Ctl) : Statement (.kvst d a b x) := by
  have h0 := d.isLt
  have h1 := a.isLt
  have h2 := b.isLt
  exact of_eq rfl (word_sized _ _ _ _ (by decide) (by omega) rfl)
theorem rld (d : Reg) (a : Reg) (x : Ctl) : Statement (.rld d a x) := by
  have h0 := d.isLt
  have h1 := a.isLt
  exact of_eq rfl (word_sized _ _ _ _ (by decide) (by omega) rfl)
theorem rst (d : Reg) (a : Reg) (x : Ctl) : Statement (.rst d a x) := by
  have h0 := d.isLt
  have h1 := a.isLt
  exact of_eq rfl (word_sized _ _ _ _ (by decide) (by omega) rfl)
theorem ramo (d : Reg) (a : Reg) (x : Ctl) : Statement (.ramo d a x) := by
  have h0 := d.isLt
  have h1 := a.isLt
  exact of_eq rfl (word_sized _ _ _ _ (by decide) (by omega) rfl)
theorem charter (d : Reg) (a : Reg) (x : Ctl) : Statement (.charter d a x) := by
  have h0 := d.isLt
  have h1 := a.isLt
  exact of_eq rfl (word_sized _ _ _ _ (by decide) (by omega) rfl)
theorem castoff (d : Reg) (a : Reg) (x : Ctl) : Statement (.castoff d a x) := by
  have h0 := d.isLt
  have h1 := a.isLt
  exact of_eq rfl (word_sized _ _ _ _ (by decide) (by omega) rfl)
theorem laneq (d : Reg) (a : Reg) (x : Ctl) : Statement (.laneq d a x) := by
  have h0 := d.isLt
  have h1 := a.isLt
  exact of_eq rfl (word_sized _ _ _ _ (by decide) (by omega) rfl)
theorem cNop : Statement (.cNop) := by
  exact of_eq rfl ⟨by omega, by omega⟩
theorem cMv (d : Reg) (a : Reg) : Statement (.cMv d a) := by
  have h0 := d.isLt
  have h1 := a.isLt
  exact of_eq rfl ⟨by omega, by omega⟩
theorem cLi (d : Reg) (i : BitVec 6) : Statement (.cLi d i) := by
  have h0 := d.isLt
  have h1 := i.isLt
  exact of_eq rfl ⟨by omega, by omega⟩
theorem cAddi (d : Reg) (i : BitVec 6) : Statement (.cAddi d i) := by
  have h0 := d.isLt
  have h1 := i.isLt
  exact of_eq rfl ⟨by omega, by omega⟩
theorem cAdd (d : Reg) (a : Reg) : Statement (.cAdd d a) := by
  have h0 := d.isLt
  have h1 := a.isLt
  exact of_eq rfl ⟨by omega, by omega⟩
theorem cSub (d : Reg) (a : Reg) : Statement (.cSub d a) := by
  have h0 := d.isLt
  have h1 := a.isLt
  exact of_eq rfl ⟨by omega, by omega⟩
theorem cAnd (d : Reg) (a : Reg) : Statement (.cAnd d a) := by
  have h0 := d.isLt
  have h1 := a.isLt
  exact of_eq rfl ⟨by omega, by omega⟩
theorem cOr (d : Reg) (a : Reg) : Statement (.cOr d a) := by
  have h0 := d.isLt
  have h1 := a.isLt
  exact of_eq rfl ⟨by omega, by omega⟩
theorem cXor (d : Reg) (a : Reg) : Statement (.cXor d a) := by
  have h0 := d.isLt
  have h1 := a.isLt
  exact of_eq rfl ⟨by omega, by omega⟩
theorem cSlli (d : Reg) (h : BitVec 6) : Statement (.cSlli d h) := by
  have h0 := d.isLt
  have h1 := h.isLt
  exact of_eq rfl ⟨by omega, by omega⟩
theorem cSrli (d : Reg) (h : BitVec 6) : Statement (.cSrli d h) := by
  have h0 := d.isLt
  have h1 := h.isLt
  exact of_eq rfl ⟨by omega, by omega⟩
theorem cSrai (d : Reg) (h : BitVec 6) : Statement (.cSrai d h) := by
  have h0 := d.isLt
  have h1 := h.isLt
  exact of_eq rfl ⟨by omega, by omega⟩
theorem cBr (o : BitVec 11) : Statement (.cBr o) := by
  have h0 := o.isLt
  exact of_eq rfl ⟨by omega, by omega⟩
theorem cBt (p : PReg) (o : BitVec 8) : Statement (.cBt p o) := by
  have h0 := p.isLt
  have h1 := o.isLt
  exact of_eq rfl ⟨by omega, by omega⟩
theorem cBf (p : PReg) (o : BitVec 8) : Statement (.cBf p o) := by
  have h0 := p.isLt
  have h1 := o.isLt
  exact of_eq rfl ⟨by omega, by omega⟩
theorem resultLanding (c : CoreId) (id : Nat) : Statement (.resultLanding c id) := of_none rfl
theorem tokdead (c : CoreId) : Statement (.tokdead c) := of_none rfl
theorem rampGrant (c : CoreId) : Statement (.rampGrant c) := of_none rfl
theorem rampEnd (c : CoreId) : Statement (.rampEnd c) := of_none rfl
theorem matrixEngineCold (c : CoreId) : Statement (.matrixEngineCold c) := of_none rfl
theorem gangRendezvous (c : CoreId) : Statement (.gangRendezvous c) := of_none rfl
theorem gangtimeExpiry (c : CoreId) : Statement (.gangtimeExpiry c) := of_none rfl
theorem engineCommandAccept (c : CoreId) (e : PathClass) : Statement (.engineCommandAccept c e) := of_none rfl
theorem engineCommandComplete (c : CoreId) (id : Nat) : Statement (.engineCommandComplete c id) := of_none rfl
theorem backfillItem (die : Fin 4) : Statement (.backfillItem die) := of_none rfl
theorem bankAluOp (id : Nat) : Statement (.bankAluOp id) := of_none rfl
theorem rwHoldExpiry (die : Fin 4) (line : Nat) : Statement (.rwHoldExpiry die line) := of_none rfl
theorem replayEntryIssue (c : CoreId) (q : Sq) : Statement (.replayEntryIssue c q) := of_none rfl
theorem trapModeEntry (c : CoreId) : Statement (.trapModeEntry c) := of_none rfl
theorem snapshotLand (c : CoreId) (idx : Nat) : Statement (.snapshotLand c idx) := of_none rfl
theorem preemptRequest (launch : Nat) (c : CoreId) : Statement (.preemptRequest launch c) := of_none rfl
theorem preemptTake (c : CoreId) : Statement (.preemptTake c) := of_none rfl
theorem preemptWithdraw (c : CoreId) : Statement (.preemptWithdraw c) := of_none rfl
theorem iterationResume (c : CoreId) : Statement (.iterationResume c) := of_none rfl
theorem iterationStart (c : CoreId) : Statement (.iterationStart c) := of_none rfl
theorem iterationFinish (c : CoreId) : Statement (.iterationFinish c) := of_none rfl
theorem tupleHandout (launch : Nat) : Statement (.tupleHandout launch) := of_none rfl
theorem ageingCheck : Statement (.ageingCheck) := of_none rfl
theorem dispatchDecision : Statement (.dispatchDecision) := of_none rfl
theorem portalDmw (portal : Nat) (off : Nat) (data : List (BitVec 8)) : Statement (.portalDmw portal off data) := of_none rfl
theorem portalPostedWrite (portal : Nat) : Statement (.portalPostedWrite portal) := of_none rfl
theorem launchAtHead (n : Fin 256) : Statement (.launchAtHead n) := of_none rfl
theorem serialWaitEnd (n : Fin 256) : Statement (.serialWaitEnd n) := of_none rfl
theorem copyBegin (n : Fin 256) : Statement (.copyBegin n) := of_none rfl
theorem copyComplete (id : Nat) : Statement (.copyComplete id) := of_none rfl
theorem markComplete (n : Fin 256) : Statement (.markComplete n) := of_none rfl
theorem hostMemRead (pa : HostPlace) (len : Nat) : Statement (.hostMemRead pa len) := of_none rfl
theorem hostMemWrite (pa : HostPlace) (data : HostData) : Statement (.hostMemWrite pa data) := of_none rfl
theorem hostSnoop (pa : Nat) (data : HostData) : Statement (.hostSnoop pa data) := of_none rfl
theorem qcfgWrite (n : Fin 256) (v : BitVec 64) : Statement (.qcfgWrite n v) := of_none rfl
theorem tencfgWrite (n : Fin 256) (v : BitVec 64) : Statement (.tencfgWrite n v) := of_none rfl
theorem siPtrWrite (n : Fin 8) (v : BitVec 64) : Statement (.siPtrWrite n v) := of_none rfl
theorem pdPtrWrite (n : Fin 8) (v : BitVec 64) : Statement (.pdPtrWrite n v) := of_none rfl
theorem tlbiPage (v : BitVec 64) : Statement (.tlbiPage v) := of_none rfl
theorem tlbiTenancy (v : BitVec 64) : Statement (.tlbiTenancy v) := of_none rfl
theorem tlbiAll (v : BitVec 64) : Statement (.tlbiAll v) := of_none rfl
theorem tlbiComplete : Statement (.tlbiComplete) := of_none rfl
theorem migGo (v : BitVec 64) : Statement (.migGo v) := of_none rfl
theorem migGoXp (v : BitVec 64) : Statement (.migGoXp v) := of_none rfl
theorem migrationCopyDone : Statement (.migrationCopyDone) := of_none rfl
theorem stubForward (idx : Nat) : Statement (.stubForward idx) := of_none rfl
theorem stubRetire (idx : Nat) : Statement (.stubRetire idx) := of_none rfl
theorem feErrWrite (v : BitVec 64) : Statement (.feErrWrite v) := of_none rfl
theorem qlPodWrite (v : BitVec 64) : Statement (.qlPodWrite v) := of_none rfl
theorem registerWrite (off : Nat) (v : BitVec 64) : Statement (.registerWrite off v) := of_none rfl
theorem scrub (pa : Nat) : Statement (.scrub pa) := of_none rfl
theorem powerWindow (watts : Nat) : Statement (.powerWindow watts) := of_none rfl
theorem thermalThrottle (die : Fin 4) : Statement (.thermalThrottle die) := of_none rfl
theorem thermalTrip : Statement (.thermalTrip) := of_none rfl
theorem coldReset (hostwin : BitVec 32) (ten : BitVec 64) (load : List (Nat × BitVec 8)) : Statement (.coldReset hostwin ten load) := of_none rfl
theorem fabricError : Statement (.fabricError) := of_none rfl
theorem regrd (off : Nat) : Statement (.regrd off) := of_none rfl
theorem regwr (off : Nat) (v : BitVec 64) : Statement (.regwr off v) := of_none rfl
theorem keyset (n : Nat) (key : BitVec 256) : Statement (.keyset n key) := of_none rfl
theorem keyclr (n : Nat) : Statement (.keyclr n) := of_none rfl
theorem fwupd (image : Firmware) : Statement (.fwupd image) := of_none rfl
theorem resetCold (hostwin : BitVec 32) (ten : BitVec 64) (load : List (Nat × BitVec 8)) : Statement (.resetCold hostwin ten load) := of_none rfl
theorem resetWarm (hostwin : BitVec 32) (ten : BitVec 64) (load : List (Nat × BitVec 8)) : Statement (.resetWarm hostwin ten load) := of_none rfl
theorem getMeasurements : Statement (.getMeasurements) := of_none rfl
theorem idle (f : Flit) : Statement (.idle f) := of_none rfl
theorem rldreq (f : Flit) : Statement (.rldreq f) := of_none rfl
theorem rlddata (f : Flit) : Statement (.rlddata f) := of_none rfl
theorem rstreq (f : Flit) : Statement (.rstreq f) := of_none rfl
theorem rstdata (f : Flit) : Statement (.rstdata f) := of_none rfl
theorem ramoreq (f : Flit) : Statement (.ramoreq f) := of_none rfl
theorem resp (f : Flit) : Statement (.resp f) := of_none rfl
theorem err (f : Flit) : Statement (.err f) := of_none rfl
theorem ctrlReq (f : Flit) : Statement (.ctrlReq f) := of_none rfl
theorem ctrlGrant (f : Flit) : Statement (.ctrlGrant f) := of_none rfl
theorem ctrlRevoke (f : Flit) : Statement (.ctrlRevoke f) := of_none rfl
theorem ctrlDrain (f : Flit) : Statement (.ctrlDrain f) := of_none rfl
theorem ctrlHandback (f : Flit) : Statement (.ctrlHandback f) := of_none rfl
theorem ctrlRelease (f : Flit) : Statement (.ctrlRelease f) := of_none rfl
theorem ctrlWithdraw (f : Flit) : Statement (.ctrlWithdraw f) := of_none rfl
theorem retransmitTimeout (peer : Fin 64) (seq : Nat) : Statement (.retransmitTimeout peer seq) := of_none rfl
theorem starvationCheck : Statement (.starvationCheck) := of_none rfl
theorem tuningLock (slot : Fin 256) : Statement (.tuningLock slot) := of_none rfl
theorem tuningTimeout (slot : Fin 256) : Statement (.tuningTimeout slot) := of_none rfl
theorem errorWindowEnd (slot : Fin 256) : Statement (.errorWindowEnd slot) := of_none rfl
theorem trainingWindowEnd (slot : Fin 256) (symbols : Nat) : Statement (.trainingWindowEnd slot symbols) := of_none rfl
theorem laneDrainEnd (lane : Fin 256) : Statement (.laneDrainEnd lane) := of_none rfl
theorem storeReg (f : Flit) : Statement (.storeReg f) := of_none rfl
theorem storeDereg (f : Flit) : Statement (.storeDereg f) := of_none rfl
theorem storeQuery (f : Flit) : Statement (.storeQuery f) := of_none rfl
theorem storeHolders (f : Flit) : Statement (.storeHolders f) := of_none rfl
theorem storeRead (f : Flit) : Statement (.storeRead f) := of_none rfl
theorem storeData (f : Flit) : Statement (.storeData f) := of_none rfl
theorem storeNotpresent (f : Flit) : Statement (.storeNotpresent f) := of_none rfl
theorem fwdStart (f : Flit) : Statement (.fwdStart f) := of_none rfl
theorem fwdCopy (f : Flit) : Statement (.fwdCopy f) := of_none rfl
theorem fwdAccept (f : Flit) : Statement (.fwdAccept f) := of_none rfl
theorem fwdRefuse (f : Flit) : Statement (.fwdRefuse f) := of_none rfl
theorem fwdAccess (f : Flit) : Statement (.fwdAccess f) := of_none rfl
theorem fwdReply (f : Flit) : Statement (.fwdReply f) := of_none rfl
theorem illegalEncoding : Statement (.illegalEncoding) := of_none rfl
theorem lastWritePerformed (c : CoreId) (id : Nat) : Statement (.lastWritePerformed c id) := of_none rfl
theorem thermalHoldEnd (die : Fin 4) : Statement (.thermalHoldEnd die) := of_none rfl
theorem secureSession : Statement (.secureSession) := of_none rfl

end Sys2Proof.Laws.Sized
end

