-- ==== Sys2Proof/Laws/Traps.lean ====
section
/-!
SUPPORT. What a trap leaves (R33, R366 to R368, R481), and when an instruction takes one or waits for its tokens.
-/
namespace Sys2Proof.Machine

/-- A trap outside trap mode, where no stop has begun, begins one. -/
theorem raise_stops (s : State) (w : Who) (t : Trap) (h1 : (s.core w.core).replayIssue = none) (h2 : (s.core w.core).inTrap = false)
    (h3 : (s.core w.core).stop = none) : s.Stops w t.cause.code t.det (BitVec.ofNat 64 t.va) (s.raise w t) := by
  have a := Aside.trans (abandon_aside s w.core 8) (flushCore_aside (s.abandon w.core 8) w.core)
  refine ⟨(s.abandon w.core 8).flushCore w.core, a.follows w, fun q => a.seq q, ?_⟩
  unfold State.raise
  simp only [h1, h2, h3, Option.isSome_none, Bool.false_eq_true, if_false, (a.follows w).cycle]

/-- A condition that comes before every wait gives ILLEGAL. -/
theorem issue_early {sp : Spec} {body : Cx → State → Act} {s : State} (h1 : s.me.replayIssue = none)
    (h : s.early (s.context sp) sp = true) : issue sp body s = .next (s.raise s.turn Trap.illegal) := by
  have h2 : (s.core s.turn.core).replayIssue = none := h1
  unfold issue
  rw [h2]
  simp only [issueCode, h, if_true]
  rfl

/-- A sequencer outside the set, or a LAT below the minimum in an exposed block, is such a condition. -/
theorem early_of {sp : Spec} {s : State} (h1 : s.me.replayIssue = none)
    (h : s.turn.sq ∉ sp.issuers ∨ s.exposed = true ∧ sp.short = false ∧ sp.x.lat.toNat < sp.minLat) :
    s.early (s.context sp) sp = true := by
  have h2 : (s.core s.turn.core).replayIssue = none := h1
  unfold State.early
  rcases h with h | ⟨h3, h4, h5⟩
  · simp [State.context, h]
  · simp only [State.exposed, State.mine, State.seq] at h3
    have h6 : (s.context sp).exposed = true := by
      simp only [State.context, h2]
      revert h3
      cases ((s.core s.turn.core).seq s.turn.sq).blocks <;> simp
    have h7 : (s.context sp).replay = false := by simp [State.context, h2]
    simp [h6, h4, h5, h7]

/-- Where the token conditions do not hold, the instruction waits for them, or takes the ILLEGAL trap that comes before waits. -/
theorem issue_tokens {sp : Spec} {body : Cx → State → Act} {s : State} (h1 : s.me.replayIssue = none)
    (h : s.me.tokensReady s.turn.sq sp.x = false) :
    issue sp body s = .next (s.waiting s.turn .token) ∨ issue sp body s = .next (s.raise s.turn Trap.illegal) := by
  by_cases he : s.early (s.context sp) sp = true
  · exact .inr (issue_early h1 he)
  · have h2 : (s.core s.turn.core).replayIssue = none := h1
    have h3 : (s.core (s.context sp).who.core).tokensReady (s.context sp).who.sq sp.x = false := h
    left
    unfold issue
    rw [h2]
    simp only [issueCode, he, h3]
    rfl

/-- A powered package to which no event has arrived does what lies inside it. -/
theorem step_inside {s : State} (hp : s.powered = true) (hi : ∀ a rest, s.inputs = a :: rest → s.cycle < a.cycle) :
    step s = s.inside := by
  unfold step
  split
  · rename_i a rest h
    have := hi a rest h
    rw [if_neg]
    simp [hp]
    omega
  · simp [hp]

end Sys2Proof.Machine
end

