-- ==== Sys2Proof/Tests/Slice0.lean ====
section
/-!
SUPPORT. The own tests: a word decoded for each encoded constructor, ill-formed terms refused, single steps on worked values of the spec,
and for each statement of the certificates states and operands that meet its hypotheses.
-/
set_option Elab.async false
namespace Sys2Proof.Tests
open Sys2Proof Sys2Proof.Machine Sys2Proof.Rules

/-! ### Small states -/

/-- No tokens, LAT 0. -/
def c0 : Ctl := Ctl.plain
/-- LAT 7. -/
def c7 : Ctl := { Ctl.plain with lat := 7 }

/-- Sequencer `q` of core 0 has the turn. -/
def onTurn (q : Sq) (s : State := State.reset) : State := { s with turn := { core := 0, sq := q } }

/-- With registers set. -/
def regs (s : State) (rs : List (Nat × Nat)) : State :=
  s.modSeq s.turn fun v => rs.foldl (fun v r => { v with g := v.g.set (r.1 % 32) (BitVec.ofNat 64 r.2) (Nat.mod_lt _ (by decide)) }) v

/-- Core 0 changed. -/
def core0 (s : State) (f : Core → Core) : State := s.modCore 0 f

/-- A page of tenancy 0 that code and data may use: the virtual addresses from 0x10000 on, in an iteration of a launch. -/
def paged : State :=
  let s := State.reset.withFetchWord 32 0
  { s with mem := { s.mem with cells := cellsPut s.mem.cells (placeTable + 8 * vaIndex 2 placeVa) 0x1F } }

/-- An instruction meets what its row asks. -/
def Met (s : State) (f : Effect) : Prop :=
  (s.ready f.x f.short f.lat f.qs = true ∧ (f.settled s).blockedFor (f.cx s) f.spec = false) ∧ f.clear s
    ∧ f.when (f.cx s) ((f.start s).popped f.x)

/-- What an instruction of spec `sp` knows of itself in `s`. -/
def cxOf (s : State) (sp : Spec) : Cx := { s.context sp with s0 := s.settleFor (s.context sp) sp }

/-- The state in which it takes effect, where it reads no poisoned sector of an on-die array. -/
def startOf (s : State) (sp : Spec) : State := (s.settleFor (s.context sp) sp).popped sp.x

/-- An event meets it. -/
def Comes (s : State) (e : Event) : Prop := e.when s

/-- A pair is its components. -/
theorem pair_of {α β : Type} (r : α × β) (v : α) (h : r.1 = v) : r = (v, r.2) := by
  subst h
  rfl

/-- What an answer holds where it is no fault. -/
def held {ε α σ : Type} (r : Except ε α × σ) (d : α) : α :=
  match r.1 with
  | .ok v => v
  | .error _ => d

/-- Whether it is none. -/
def good {ε α σ : Type} (r : Except ε α × σ) : Bool :=
  match r.1 with
  | .ok _ => true
  | .error _ => false

theorem held_of {ε α σ : Type} (r : Except ε α × σ) (d : α) (h : good r = true) : r = (.ok (held r d), r.2) := by
  obtain ⟨v, s⟩ := r
  cases v with
  | ok v => rfl
  | error e => cases h
/-! ### Decoding: one word for each constructor, its fields placed as R16, R36 to R40 and the table place them -/

theorem test_decode_scalar_0 : ∀ p ∈ ([
  (32, 0xDF5C0201, .blk true 95 184),
  (32, 0xD5FE0439, .add 26 23 31 ⟨0, false, true, true, true, none⟩),
  (32, 0x4544848D, .sub 8 21 2 ⟨2, true, true, false, false, none⟩),
  (64, 0x2D7B9AAE21B045F, .and 28 8 13 ⟨1, true, true, true, false, some 47692202⟩),
  (32, 0x49BD8595, .or 9 6 30 ⟨6, true, false, true, false, none⟩),
  (64, 0x75C33B196807D3, .xor 3 5 20 ⟨7, false, false, true, false, some 7717691⟩),
  (64, 0x30EA692C9FE8697, .andn 25 7 31 ⟨2, true, false, true, false, some 51291794⟩),
  (32, 0xEDAB06D5, .sll 29 22 21 ⟨3, true, false, true, false, none⟩),
  (64, 0x6437539B9FF87A7, .srl 23 7 31 ⟨6, true, false, false, true, some 105084217⟩),
  (32, 0xF1520869, .sra 30 5 9 ⟨1, false, true, false, true, none⟩),
  (32, 0xA4C28949, .ror 20 19 1 ⟨5, false, true, false, false, none⟩),
  (32, 0xDAA10955, .fshl 27 10 16 ⟨5, true, false, true, false, none⟩),
  (32, 0xB9858901, .fshr 23 6 2 ⟨4, false, false, false, false, none⟩),
  (32, 0x671A0A35, .mul 12 28 13 ⟨0, true, false, true, true, none⟩),
  (32, 0x9EC28BC5, .mulh 19 27 1 ⟨7, true, false, false, false, none⟩),
  (32, 0xA7FF0ACD, .mulhu 20 31 31 ⟨3, true, true, false, false, none⟩),
  (32, 0xF6FF8BED, .fns 30 27 31 ⟨7, true, true, false, true, none⟩),
  (32, 0xEC520DCD, .div 29 17 9 ⟨7, true, true, false, false, none⟩),
  (32, 0xCE988D05, .divu 25 26 12 ⟨4, true, false, false, false, none⟩),
  (32, 0x19D70D51, .rem 3 7 11 ⟨5, false, false, true, false, none⟩),
  (32, 0xF5E58C65, .remu 30 23 18 ⟨1, true, false, false, true, none⟩),
  (32, 0x51B40E51, .min 10 6 26 ⟨1, false, false, true, false, none⟩),
  (32, 0x540C8E09, .max 10 16 6 ⟨0, false, true, false, false, none⟩),
  (32, 0x979B0E1D, .minu 18 30 13 ⟨0, true, true, true, false, none⟩),
  (64, 0x18606AF66D38FF7, .maxu 12 27 9 ⟨7, true, false, true, true, some 25560751⟩),
  (32, 0x82F610D1, .addi 16 11 108 ⟨3, false, false, true, false, none⟩),
  (64, 0x457CC5D9FC89F8F, .andi 19 31 17 ⟨6, true, true, false, false, some 72862813⟩),
  (32, 0x170D9311, .slli 2 28 27 ⟨4, false, false, true, false, none⟩),
  (32, 0xA72593FD, .srli 20 28 11 ⟨7, true, true, true, true, none⟩),
  (32, 0x5C09153D, .srai 11 16 18 ⟨4, true, true, true, true, none⟩)] : List (Nat × Nat × Instr)),
    decodeTableWord p.1 p.2.1 = some p.2.2 := by decide +kernel
theorem test_decode_scalar_1 : ∀ p ∈ ([
  (32, 0x292C94BD, .rori 5 4 25 ⟨2, true, true, true, true, none⟩),
  (32, 0x30B717E1, .li 6 366 ⟨7, false, false, false, true, none⟩),
  (32, 0x96F09949, .ldc 18 3553 ⟨5, false, true, false, false, none⟩),
  (32, 0xCB001A25, .popc 25 12 ⟨0, true, false, false, true, none⟩),
  (64, 0x4B39E33BD809B3F, .clz 23 22 ⟨4, true, true, true, true, some 78880307⟩),
  (32, 0xA9811A3D, .ctz 21 6 ⟨0, true, true, true, true, none⟩),
  (64, 0x4B483684AC19B3B, .brev 9 11 ⟨4, false, true, true, true, some 78938984⟩),
  (32, 0x4D421B75, .bswap 9 21 ⟨5, true, false, true, true, none⟩),
  (32, 0xD9829BED, .sextB 27 6 ⟨7, true, true, false, true, none⟩),
  (32, 0x89431A99, .sextH 17 5 ⟨2, false, true, true, false, none⟩),
  (32, 0xF7039BE5, .sextW 30 28 ⟨7, true, false, false, true, none⟩),
  (32, 0xC5841B95, .zextB 24 22 ⟨6, true, false, true, false, none⟩),
  (32, 0xF4C49BA5, .zextH 30 19 ⟨6, true, false, false, true, none⟩),
  (64, 0x72E9DC0CF051B03, .zextW 25 28 ⟨4, false, false, false, false, some 120495552⟩),
  (32, 0xA9901C85, .bfx 21 6 8 ⟨2, true, false, false, false, none⟩),
  (32, 0x41849C8D, .bfxs 8 6 2 ⟨2, true, true, false, false, none⟩),
  (32, 0x340F1C35, .bfi 6 16 7 ⟨0, true, false, true, true, none⟩),
  (32, 0x96A120DD, .cmp 4 22 20 .lt ⟨3, true, true, true, false, none⟩),
  (32, 0x6163A335, .cmpi 3 1 12 .geu ⟨4, true, false, true, true, none⟩),
  (32, 0xBEE82545, .sel 23 27 5 ⟨5, true, false, false, false, none⟩),
  (32, 0x511C2565, .selN 10 4 3 ⟨5, true, false, false, true, none⟩),
  (32, 0xEA0027AD, .pand 7 2 4 ⟨6, true, true, false, true, none⟩),
  (32, 0x5600A7D9, .por 2 5 4 ⟨7, false, true, true, false, none⟩),
  (64, 0x2A04F26A5812633, .pxor 5 1 3 ⟨0, false, false, true, true, some 44060454⟩),
  (32, 0xD601A7B5, .pandn 6 5 4 ⟨6, true, false, true, true, none⟩),
  (32, 0x8C0227F1, .pnot 4 3 ⟨7, false, false, true, true, none⟩),
  (32, 0xE07AA6A1, .psetg 7 30 ⟨2, false, false, false, true, none⟩),
  (32, 0x5002AFE1, .prd 10 ⟨7, false, false, false, true, none⟩),
  (32, 0x6F1FA93D, .bt 3 7743 ⟨4, true, true, true, true, none⟩),
  (32, 0x57A2280D, .bf 2 3908 ⟨0, true, true, false, false, none⟩)] : List (Nat × Nat × Instr)),
    decodeTableWord p.1 p.2.1 = some p.2.2 := by decide +kernel
theorem test_decode_scalar_2 : ∀ p ∈ ([
  (64, 0x3AEDBF3F5F9ABDF, .j 125939 ⟨7, true, true, true, false, some 61791219⟩),
  (32, 0x64742C3D, .call 51432 ⟨0, true, true, true, true, none⟩),
  (32, 0x2402EFD, .jr 9 ⟨3, true, true, true, true, none⟩),
  (32, 0x4400AF11, .callr 8 16 ⟨4, false, false, true, false, none⟩),
  (32, 0x2812F3D, .ret 10 ⟨4, true, true, true, true, none⟩),
  (64, 0x2843A7E0001AFCF, .brk ⟨7, true, true, false, false, some 42220158⟩),
  (32, 0x22F29, .lcut ⟨4, false, true, false, true, none⟩),
  (32, 0xC026B039, .mfs 24 77 ⟨0, false, true, true, true, none⟩),
  (64, 0x74A319DB026B287, .mts 22 77 ⟨2, true, false, false, false, some 122302877⟩),
  (64, 0x737FD04F000325B, .mtsFpstat 30 ⟨1, false, true, true, false, some 121109764⟩),
  (32, 0x988433F1, .mtsAtomflags 19 ⟨7, false, false, true, true, none⟩),
  (32, 0xB028B2E5, .mtsEngerr 22 ⟨3, true, false, false, true, none⟩),
  (32, 0xC82DB265, .mtsDerr 25 ⟨1, true, false, false, true, none⟩),
  (32, 0xB82AB3A5, .mtsRpstat 23 ⟨6, true, false, false, true, none⟩),
  (32, 0x87A2B4BD, .sld 16 30 .w 5 ⟨2, true, true, true, true, none⟩),
  (32, 0xEC2936B5, .slds 29 16 .w 18 ⟨2, true, false, true, true, none⟩),
  (32, 0xD09C38E1, .sst 26 2 .h 24 ⟨3, false, false, false, true, none⟩)] : List (Nat × Nat × Instr)),
    decodeTableWord p.1 p.2.1 = some p.2.2 := by decide +kernel
theorem test_decode_system_0 : ∀ p ∈ ([
  (32, 0x6803A41, .trap 26 ⟨1, false, false, false, false, none⟩),
  (32, 0xBB89, .rte ⟨6, false, true, false, false, none⟩),
  (32, 0xBC013A0D, .ctxsv 23 16 ⟨0, true, true, false, false, none⟩),
  (32, 0x4501BA51, .ctxrs 8 20 ⟨1, false, false, true, false, none⟩),
  (64, 0x2D6EE85BF823BD3, .snaprd 23 30 ⟨7, false, false, true, false, some 47640197⟩),
  (64, 0x15B3F5BD182BA5B, .wfe 26 6 ⟨1, false, true, true, false, some 22757211⟩),
  (64, 0x164C73D00003D8B, .bar ⟨6, false, true, false, false, some 23381821⟩),
  (32, 0x6F40BC81, .quies 13 29 ⟨2, false, false, false, false, none⟩),
  (32, 0x58013DFD, .tkcnt 11 ⟨7, true, true, true, true, none⟩),
  (32, 0xD301BC11, .wlpush 26 12 ⟨0, false, false, true, false, none⟩),
  (64, 0x285265ED4C23D1F, .wlpop 26 19 ⟨4, true, true, true, false, some 42280542⟩),
  (32, 0xD8003F11, .tapeb 27 ⟨4, false, false, true, false, none⟩),
  (32, 0xE000BF79, .tapee 28 ⟨5, false, true, true, true, none⟩),
  (64, 0x333C5436813E2B, .tguard 6 26 ⟨0, false, true, false, true, some 3357780⟩),
  (64, 0x6E6F4860701BE7B, .tapeinv 28 ⟨1, false, true, true, true, some 115799174⟩),
  (32, 0xFAC23E41, .tapeq 31 11 ⟨1, false, false, false, false, none⟩)] : List (Nat × Nat × Instr)),
    decodeTableWord p.1 p.2.1 = some p.2.2 := by decide +kernel
theorem test_decode_vector_0 : ∀ p ∈ ([
  (32, 0x68B840B5, .vadd 13 2 28 ⟨2, true, false, true, true, none⟩),
  (32, 0x4608C07D, .vsub 8 24 4 ⟨1, true, true, true, true, none⟩),
  (32, 0x2DE941AD, .vmul 5 23 20 ⟨6, true, true, false, true, none⟩),
  (32, 0x52FDC171, .vfma 10 11 30 ⟨5, false, false, true, true, none⟩),
  (32, 0xC6D84335, .vmin 24 27 12 ⟨4, true, false, true, true, none⟩),
  (32, 0x6444C2D5, .vmax 12 17 2 ⟨3, true, false, true, false, none⟩),
  (64, 0x6F728CC2085429B, .vminn 4 2 2 ⟨2, false, true, true, false, some 116861132⟩),
  (32, 0xB659C235, .vmaxn 22 25 12 ⟨0, true, false, true, true, none⟩),
  (32, 0xEFA845A9, .vand 29 30 20 ⟨6, false, true, false, true, none⟩),
  (32, 0x21CAC489, .vor 4 7 5 ⟨2, false, true, false, false, none⟩),
  (32, 0x6F3B45D1, .vxor 13 28 29 ⟨7, false, false, true, false, none⟩),
  (32, 0x2277C4A5, .vandn 4 9 27 ⟨2, true, false, false, true, none⟩),
  (32, 0x143A462D, .vsll 2 16 29 ⟨0, true, true, false, true, none⟩),
  (32, 0x62FEC601, .vsrl 12 11 31 ⟨0, false, false, false, false, none⟩),
  (32, 0x873F468D, .vsra 16 28 31 ⟨2, true, true, false, false, none⟩),
  (64, 0x1261D565A9FC6D7, .vfshl 11 10 15 ⟨3, true, false, true, false, some 19275094⟩),
  (32, 0x458649AD, .vfshr 8 22 3 ⟨6, true, true, false, true, none⟩),
  (32, 0x33D8C909, .vsel 6 15 12 ⟨4, false, true, false, false, none⟩),
  (32, 0xBBCD48D5, .vperm 23 15 6 ⟨3, true, false, true, false, none⟩),
  (64, 0xF94F87F8ABC9A3, .vabsd 31 2 21 ⟨6, false, false, false, true, some 16338823⟩),
  (32, 0xF671CA05, .vcmp 7 22 14 .ge ⟨0, true, false, false, false, none⟩),
  (32, 0xDC404D4D, .vneg 27 17 ⟨5, true, true, false, false, none⟩),
  (32, 0x4740CDC9, .vabs 8 29 ⟨7, false, true, false, false, none⟩),
  (32, 0x15814CC5, .vmov 2 22 ⟨3, true, false, false, false, none⟩),
  (32, 0xD081CC21, .vpopc 26 2 ⟨0, false, false, false, true, none⟩),
  (32, 0x7A824C05, .vclz 15 10 ⟨0, true, false, false, false, none⟩),
  (32, 0x3982CD99, .vctz 7 6 ⟨6, false, true, true, false, none⟩),
  (64, 0x3374A761F834D4F, .vbrev 3 30 ⟨5, true, true, false, false, some 53955190⟩),
  (32, 0x1F044CC1, .vsqrt 3 28 ⟨3, false, false, false, false, none⟩),
  (32, 0x6404CDB1, .vrcp 12 16 ⟨6, false, false, true, true, none⟩)] : List (Nat × Nat × Instr)),
    decodeTableWord p.1 p.2.1 = some p.2.2 := by decide +kernel
theorem test_decode_vector_1 : ∀ p ∈ ([
  (32, 0x2E054C25, .vrsqrt 5 24 ⟨0, true, false, false, true, none⟩),
  (64, 0x63B47F9EEC5CCCF, .vexp 29 27 ⟨3, true, true, false, false, some 104548345⟩),
  (32, 0xCE464D31, .vexp2 25 25 ⟨4, false, false, true, true, none⟩),
  (64, 0x19964DE2C86CC7F, .vlog 5 18 ⟨1, true, true, true, true, some 26830046⟩),
  (64, 0x21AFD1C77C74CE3, .vlog2 14 31 ⟨3, false, false, false, true, some 35323164⟩),
  (32, 0xB9C7CD2D, .vtanh 23 7 ⟨4, true, true, false, true, none⟩),
  (32, 0x1B884D71, .vsigm 3 14 ⟨5, false, false, true, true, none⟩),
  (32, 0x9048CD11, .vsin 18 1 ⟨4, false, false, true, false, none⟩),
  (32, 0x79494C05, .vcos 15 5 ⟨0, true, false, false, false, none⟩),
  (64, 0x255B5B9493DCEAB, .vcvt 9 4 7 2 3 ⟨2, false, true, false, true, some 39171513⟩),
  (64, 0x123FCC4C155107, .vcvtef 9 16 10 2 ⟨4, true, false, false, false, some 1195980⟩),
  (32, 0x20815375, .vrsum 4 2 2 ⟨5, true, false, true, true, none⟩),
  (32, 0xFFC6D21D, .vrmax 31 31 5 ⟨0, true, true, true, false, none⟩),
  (64, 0x37C52A32B09536F, .vrmin 5 12 2 ⟨5, true, true, false, true, some 58479267⟩),
  (32, 0x224ED291, .vrmaxu 4 9 5 ⟨2, false, false, true, false, none⟩),
  (32, 0xFB93D38D, .vrminu 31 14 7 ⟨6, true, true, false, false, none⟩),
  (64, 0x1865DD47F9553F7, .vrmaxa 15 30 2 ⟨7, true, false, true, true, some 25583060⟩),
  (32, 0xB79953FD, .vror 22 30 2 ⟨7, true, true, true, true, none⟩),
  (64, 0x4707F215FD387, .vrand 4 5 7 ⟨6, true, false, false, false, some 290943⟩),
  (32, 0xF4E153ED, .vrxor 30 19 2 ⟨7, true, true, false, true, none⟩),
  (32, 0x39E5D2E5, .vscan 7 7 3 ⟨3, true, false, false, true, none⟩),
  (32, 0x666BD2ED, .vscanmax 12 25 7 ⟨3, true, true, false, true, none⟩),
  (32, 0x46C0543D, .vcmpr 8 27 ⟨0, true, true, true, true, none⟩),
  (32, 0x2940D4FD, .vexpd 5 5 ⟨3, true, true, true, true, none⟩),
  (32, 0x2181558D, .vbcast 4 6 ⟨6, true, true, false, false, none⟩),
  (32, 0x5741D4E9, .vextr 10 29 ⟨3, false, true, false, true, none⟩),
  (32, 0x81C25459, .vfromm 16 7 ⟨1, false, true, true, false, none⟩),
  (64, 0x12ECB420902D4B3, .vtom 1 4 ⟨2, false, false, true, true, some 19843906⟩),
  (32, 0x500355BD, .viota 10 ⟨6, true, true, true, true, none⟩),
  (32, 0xBB5E5611, .vosm 23 13 15 ⟨0, false, false, true, false, none⟩)] : List (Nat × Nat × Instr)),
    decodeTableWord p.1 p.2.1 = some p.2.2 := by decide +kernel
theorem test_decode_vector_2 : ∀ p ∈ ([
  (64, 0x1E73E9C21AD61B, .vlse 24 8 13 ⟨0, false, true, true, false, some 1995753⟩),
  (32, 0x1E5957A5, .vdefer 3 25 12 ⟨6, true, false, false, true, none⟩),
  (64, 0x149CDD20A7DD6CB, .vconf 1 9 30 ⟨3, false, true, false, false, some 21614034⟩),
  (32, 0x6F0058FD, .mand 3 3 6 ⟨3, true, true, true, true, none⟩),
  (32, 0x2980D9B1, .mor 1 2 3 ⟨6, false, false, true, true, none⟩),
  (32, 0xD2015899, .mxor 6 4 4 ⟨2, false, true, true, false, none⟩),
  (32, 0xAE01D94D, .mandn 5 3 4 ⟨5, true, true, false, false, none⟩),
  (32, 0xB802595D, .mnot 5 6 ⟨5, true, true, true, false, none⟩),
  (32, 0x402AD921, .msetl 2 10 ⟨4, false, false, false, true, none⟩),
  (32, 0x4775889, .mcnt 1 29 ⟨2, false, true, false, false, none⟩),
  (32, 0x1C1BD8C9, .mffs 7 6 ⟨3, false, true, false, false, none⟩),
  (64, 0x71B54B7AECADBB7, .vld 21 27 21 ⟨6, true, false, true, true, some 119231671⟩),
  (64, 0x44A8C1EA7545B37, .vst 20 29 8 ⟨4, true, false, true, true, some 71994398⟩),
  (32, 0x7062DA65, .vstu 14 1 5 ⟨1, true, false, false, true, none⟩)] : List (Nat × Nat × Instr)),
    decodeTableWord p.1 p.2.1 = some p.2.2 := by decide +kernel
theorem test_decode_matrix_0 : ∀ p ∈ ([
  (64, 0x143135B05265CB7, .mma 20 19 ⟨2, true, false, true, true, some 21173083⟩),
  (32, 0xD5D6DC45, .mmas 26 23 11 ⟨1, true, false, false, false, none⟩),
  (64, 0x75CE16C2EE35C6B, .mgang 5 27 17 ⟨1, false, true, false, true, some 123527532⟩),
  (32, 0x1DD9D, .mzero ⟨6, true, true, true, false, none⟩),
  (64, 0x2219F62A6F45FCF, .mdrain 20 27 26 ⟨7, true, true, false, false, some 35757922⟩),
  (32, 0xC0DF51, .mcfg 3 ⟨5, false, false, true, false, none⟩),
  (32, 0x6495FE9, .msave 25 4 ⟨7, false, true, false, true, none⟩),
  (64, 0x680489068DDE6F, .mload 26 6 ⟨1, true, true, false, true, some 6816905⟩)] : List (Nat × Nat × Instr)),
    decodeTableWord p.1 p.2.1 = some p.2.2 := by decide +kernel
theorem test_decode_memory_0 : ∀ p ∈ ([
  (32, 0x3AE6605D, .ld 7 11 .w .stream 4 ⟨1, true, true, true, false, none⟩),
  (32, 0x93E4E351, .lds 18 15 .w .stream 1 ⟨5, false, false, true, false, none⟩),
  (64, 0x6AA0A36836CE5E7, .ldAcq 16 13 .w .bypass 1 ⟨7, true, false, false, true, some 111807030⟩),
  (32, 0xCE1A66A5, .st 25 24 .h .sticky 4 ⟨2, true, false, false, true, none⟩),
  (32, 0xADDCE935, .stRel 21 23 .h .bypass 1 ⟨4, true, false, true, true, none⟩),
  (32, 0xE0F26A1D, .vldg 28 3 .bypass 4 ⟨0, true, true, true, false, none⟩),
  (64, 0x1094C3F42776A53, .vldgAcq 8 9 .bypass 6 ⟨1, false, false, true, false, some 17386559⟩),
  (64, 0x4513B50839AEB9F, .vstg 16 14 .stream 5 ⟨6, true, true, true, false, some 72432464⟩),
  (32, 0xD0DFEAAD, .vstgRel 26 3 .stream 7 ⟨2, true, true, false, true, none⟩),
  (32, 0xA616C45, .amoAdd 1 9 true .w ⟨1, true, false, false, false, none⟩),
  (32, 0x3EA2EDC9, .amoAnd 7 26 true .h ⟨7, false, true, false, false, none⟩),
  (64, 0x7B48325A7E5EC07, .amoOr 20 31 true .d ⟨0, true, false, false, false, some 129270565⟩),
  (32, 0x9FE6EC35, .amoXor 19 31 true .h ⟨0, true, false, true, true, none⟩),
  (32, 0x76A96C15, .amoMin 14 26 true .w ⟨0, true, false, true, false, none⟩),
  (64, 0x67E1DE22AAB6C6F, .amoMax 5 10 true .w ⟨1, true, true, false, true, some 108928482⟩),
  (32, 0x496D6D01, .amoMinu 9 5 true .w ⟨4, false, false, false, false, none⟩),
  (32, 0x266F6C49, .amoMaxu 4 25 true .w ⟨1, false, true, false, false, none⟩),
  (32, 0x1770ECC1, .amoSwap 2 29 true .h ⟨3, false, false, false, false, none⟩),
  (32, 0xD7F3EDD1, .amoCas 26 31 true .d ⟨7, false, false, true, false, none⟩),
  (64, 0x63D43391FB5EC03, .amoFadd 3 30 true .d ⟨0, false, false, false, false, some 104678201⟩),
  (32, 0x49406F69, .plnstOr 9 5 ⟨5, false, true, false, true, none⟩),
  (64, 0x6A40DFE2A826E67, .plnstAnd 5 10 ⟨1, true, false, false, true, some 111414782⟩),
  (32, 0xC00717D, .fence .package ⟨5, true, true, true, true, none⟩),
  (64, 0x173BC2D315070A3, .fencex .pod .gath .bfill ⟨2, false, false, false, true, some 24362029⟩),
  (32, 0x5000709D, .publ .pod ⟨2, true, true, true, false, none⟩),
  (64, 0x2C1938F600BF003, .cflush 23 ⟨0, false, false, false, false, some 46240655⟩),
  (64, 0x210FC06800470E7, .cinv 8 ⟨3, true, false, false, true, some 34667526⟩),
  (32, 0xB80CF025, .cpref true .sticky 25 ⟨0, true, false, false, true, none⟩),
  (32, 0x25487361, .ntld 4 21 4 ⟨5, false, false, false, true, none⟩),
  (32, 0x780F3B1, .ntlock 30 ⟨6, false, false, true, true, none⟩)] : List (Nat × Nat × Instr)),
    decodeTableWord p.1 p.2.1 = some p.2.2 := by decide +kernel
theorem test_decode_memory_1 : ∀ p ∈ ([
  (64, 0x3049B000181727B, .ntunl 6 ⟨1, false, true, true, true, some 50633472⟩)] : List (Nat × Nat × Instr)),
    decodeTableWord p.1 p.2.1 = some p.2.2 := by decide +kernel
theorem test_decode_engine_0 : ∀ p ∈ ([
  (32, 0xA344752D, .cpy 40 26 4 ⟨4, true, true, false, true, none⟩),
  (64, 0x3315CBC275AF47F, .cpy2d 9 26 26 ⟨1, true, true, true, true, some 53566652⟩),
  (32, 0x7B42764D, .gath 30 26 2 ⟨1, true, true, false, false, none⟩),
  (32, 0x2B5FF761, .scat 10 26 31 ⟨5, false, false, false, true, none⟩),
  (64, 0x145A4048680788F, .wtany 16 26 ⟨2, true, true, false, false, some 21341188⟩),
  (32, 0x4B40F89D, .wtall 9 13 ⟨2, true, true, true, false, none⟩),
  (32, 0x9F4179D5, .ffrdy 19 29 ⟨7, true, false, true, false, none⟩),
  (32, 0x4C1F82D, .tagclr 19 ⟨0, true, true, false, true, none⟩),
  (32, 0xBC07A3D, .pxhash 1 15 ⟨0, true, true, true, true, none⟩),
  (64, 0x7355846A880FA37, .pxlook 21 2 ⟨0, true, false, true, true, some 120936518⟩),
  (32, 0x9A017A49, .pxpin 19 8 ⟨1, false, true, false, false, none⟩),
  (32, 0x98C1FA09, .pxunpin 19 3 ⟨0, false, true, false, false, none⟩),
  (64, 0x482872755427A63, .pxseal 10 21 ⟨1, false, false, false, true, some 75663143⟩),
  (32, 0x7A82FB01, .pxalloc 15 10 ⟨4, false, false, false, false, none⟩),
  (32, 0x5C437BF9, .pxlease 11 17 ⟨7, false, true, true, true, none⟩),
  (32, 0xA9C3FB29, .pxprom 21 7 ⟨4, false, true, false, true, none⟩),
  (32, 0x3BC47A51, .kmerge 7 15 ⟨1, false, false, true, false, none⟩),
  (32, 0x1D44FBB9, .bfill 3 21 ⟨6, false, true, true, true, none⟩),
  (64, 0x65BFA7E05457B97, .bfwait 21 ⟨6, true, false, true, false, some 106691198⟩),
  (32, 0xB445FBED, .plan 22 17 ⟨7, true, true, false, true, none⟩),
  (32, 0x2B867B3D, .pxfetch 5 14 ⟨4, true, true, true, true, none⟩),
  (32, 0xFF46FADD, .pxrepl 31 29 ⟨3, true, true, true, false, none⟩),
  (64, 0x79A6EB74B47D2B, .kvld 14 18 26 ⟨4, false, true, false, true, some 7972587⟩),
  (32, 0x4B98FD3D, .kvst 9 14 12 ⟨4, true, true, true, true, none⟩),
  (32, 0xA8C07E4D, .rld 21 3 ⟨1, true, true, false, false, none⟩),
  (64, 0x64562C92700FF17, .rst 4 28 ⟨4, true, false, true, false, some 105210569⟩),
  (32, 0xAAC17F0D, .ramo 21 11 ⟨4, true, true, false, false, none⟩),
  (64, 0x4C4E9AF5F41FE67, .charter 11 29 ⟨1, true, false, false, true, some 80013743⟩),
  (32, 0xE3827E49, .castoff 28 14 ⟨1, false, true, false, false, none⟩),
  (64, 0x6288AA83082FE77, .laneq 6 2 ⟨1, true, false, true, true, some 103320232⟩)] : List (Nat × Nat × Instr)),
    decodeTableWord p.1 p.2.1 = some p.2.2 := by decide +kernel
theorem test_decode_compressed_0 : ∀ p ∈ ([
  (16, 0x2, .cNop),
  (16, 0x4384, .cMv 8 14),
  (16, 0xFA6, .cLi 1 61),
  (16, 0x9C68, .cAddi 19 35),
  (16, 0x554A, .cAdd 10 21),
  (16, 0x258C, .cSub 4 22),
  (16, 0x8ACE, .cAnd 17 11),
  (16, 0xF310, .cOr 30 12),
  (16, 0xF8D2, .cXor 31 3),
  (16, 0x7B34, .cSlli 15 25),
  (16, 0x2176, .cSrli 4 11),
  (16, 0xCA18, .cSrai 25 16),
  (16, 0x1D9A, .cBr 236),
  (16, 0xB15C, .cBt 5 138),
  (16, 0x22DE, .cBf 1 22)] : List (Nat × Nat × Instr)),
    decodeTableWord p.1 p.2.1 = some p.2.2 := by decide +kernel
/-! ### Witnesses: scalar, control, system -/


/-- A body of `n` active blocks, all with the same parcels. -/
def inBlocks (n : Nat) (s : State) : State := s.modSeq s.turn fun v =>
  { v with pc := 0x1008, blocks := List.replicate n { start := 0x1000, stop := 0x1010, interlocked := true, buf := none } }

/-- Predicate p1 set. -/
def p1 (s : State) : State := s.modSeq s.turn fun v => v.setP 1 true

theorem witness_scalar : State.reset.ready c0 false 0 ring = true ∧ State.reset.ready c0 true 0 ring = true
    ∧ State.reset.ready { c0 with lat := 7 } false 6 ring = true ∧ ScalarRow (.add 1 2 3 c0) c0 false 0 (fun v => .g 1 (v.rg 2 + v.rg 3)) :=
  ⟨by decide +kernel, by decide +kernel, by decide +kernel, .add ..⟩
theorem witness_bt : ∃ f, ControlRow (.bt 1 2 c0) f ∧ Met (p1 State.reset) f :=
  ⟨_, .bt .., by decide +kernel, True.intro, by simp only [branches]; decide +kernel⟩
theorem witness_btNot : ∃ f, ControlRow (.bt 1 2 c0) f ∧ Met State.reset f :=
  ⟨_, .btNot .., by decide +kernel, True.intro, by dsimp only; decide +kernel⟩
theorem witness_bf : ∃ f, ControlRow (.bf 1 4095 c0) f ∧ Met State.reset f :=
  ⟨_, .bf .., by decide +kernel, True.intro, by simp only [branches]; decide +kernel⟩
theorem witness_bfNot : ∃ f, ControlRow (.bf 0 2 c0) f ∧ Met State.reset f :=
  ⟨_, .bfNot .., by decide +kernel, True.intro, by dsimp only; decide +kernel⟩
theorem witness_j : ∃ f, ControlRow (.j 3 c0) f ∧ Met (inBlocks 1 State.reset) f :=
  ⟨_, .j .., by decide +kernel, True.intro, by simp only [branches]; decide +kernel⟩
theorem witness_call : ∃ f, ControlRow (.call 0x10000 c0) f ∧ Met (inBlocks 1 State.reset) f :=
  ⟨_, .call .., by decide +kernel, True.intro, by simp only [branches]; decide +kernel⟩
theorem witness_jr : ∃ f, ControlRow (.jr 3 c0) f ∧ Met (regs State.reset [(3, 0x1000)]) f :=
  ⟨_, .jr .., by decide +kernel, True.intro, by simp only [branchesTo]; decide +kernel⟩
theorem witness_callr : ∃ f, ControlRow (.callr 3 3 c0) f ∧ Met (regs State.reset [(3, 0x1000)]) f :=
  ⟨_, .callr .., by decide +kernel, True.intro, by simp only [branchesTo]; decide +kernel⟩
theorem witness_ret : ∃ f, ControlRow (.ret 31 c0) f ∧ Met (regs State.reset [(31, 0x1000)]) f :=
  ⟨_, .ret .., by decide +kernel, True.intro, by simp only [branchesTo]; decide +kernel⟩
theorem witness_cBr : ∃ f, ControlRow (.cBr 0x400) f ∧ Met State.reset f :=
  ⟨_, .cBr .., by decide +kernel, True.intro, by simp only [branches]; decide +kernel⟩
theorem witness_cBt : ∃ f, ControlRow (.cBt 0 1) f ∧ Met State.reset f :=
  ⟨_, .cBt .., by decide +kernel, True.intro, by simp only [branches]; decide +kernel⟩
theorem witness_cBtNot : ∃ f, ControlRow (.cBt 1 1) f ∧ Met State.reset f :=
  ⟨_, .cBtNot .., by decide +kernel, True.intro, by dsimp only; decide +kernel⟩
theorem witness_cBf : ∃ f, ControlRow (.cBf 1 1) f ∧ Met State.reset f :=
  ⟨_, .cBf .., by decide +kernel, True.intro, by simp only [branches]; decide +kernel⟩
theorem witness_cBfNot : ∃ f, ControlRow (.cBf 0 1) f ∧ Met State.reset f :=
  ⟨_, .cBfNot .., by decide +kernel, True.intro, by dsimp only; decide +kernel⟩
theorem witness_cNop : ∃ f, ControlRow .cNop f ∧ Met State.reset f := ⟨_, .cNop, by decide +kernel, True.intro, True.intro⟩
theorem witness_brk : ∃ f, ControlRow (.brk c0) f ∧ Met (inBlocks 3 State.reset) f :=
  ⟨_, .brk { start := 0x1000, stop := 0x1010, interlocked := true, buf := none }
    (List.replicate 2 { start := 0x1000, stop := 0x1010, interlocked := true, buf := none }) c0,
    by decide +kernel, True.intro, by dsimp only; decide +kernel⟩
theorem witness_lcutOut : ∃ f, ControlRow (.lcut c0) f ∧ Met State.reset f :=
  ⟨_, .lcutOut .., by decide +kernel, True.intro, by dsimp only; decide +kernel⟩
theorem witness_lcut : ∃ f, ControlRow (.lcut c0) f ∧ Met (inBlocks 1 State.reset) f :=
  ⟨_, .lcut { start := 0x1000, stop := 0x1010, interlocked := true, buf := none } [] c0,
    by decide +kernel, True.intro, by dsimp only; decide +kernel⟩
theorem witness_blk_rep : ∃ f, BlockRow (.blk true 127 511) f ∧ Met (inBlocks 2 State.reset) f :=
  ⟨_, .rep true 127 511 (by decide), by decide +kernel, True.intro, by dsimp only; decide +kernel⟩
theorem witness_blk_count : ∃ f, BlockRow (.blk false 0 0) f ∧ Met (State.reset.modSeq State.reset.turn fun v => v.setLc 0 1) f :=
  ⟨_, .count .., by decide +kernel, True.intro, by dsimp only; decide +kernel⟩
theorem witness_blk_skip : ∃ f, BlockRow (.blk false 0 0) f ∧ Met State.reset f :=
  ⟨_, .skip .., by decide +kernel, True.intro, by dsimp only; decide +kernel⟩
theorem witness_sld : ∃ f, SpadRow (.sld 1 2 .b 0 c0) f ∧ Met (regs State.reset [(2, 0x3FFFFF)]) f :=
  ⟨_, .sld .., by decide +kernel, by dsimp only; decide +kernel, by dsimp only; decide +kernel⟩
theorem witness_slds : ∃ f, SpadRow (.slds 1 2 .d 31 c0) f ∧ Met (regs State.reset [(2, 0x3FFF00)]) f :=
  ⟨_, .slds .., by decide +kernel, by dsimp only; decide +kernel, by dsimp only; decide +kernel⟩
theorem witness_sst : ∃ f, SpadRow (.sst 1 2 .w 0 c0) f ∧ Met (regs State.reset [(2, 0x3FFFFC)]) f :=
  ⟨_, .sst .., by decide +kernel, by dsimp only; decide +kernel, by dsimp only; decide +kernel⟩
/-- The other side of the same bound. -/
theorem witness_spaddr : (regs State.reset [(2, 0x400000)]).ready c0 false 2 ring = true
    ∧ (regs State.reset [(2, 0x400000)]).me.cmdHolds .X 0x400000 1 = false ∧ (regs State.reset [(2, 0x400000)]).me.inTrap = false
    ∧ (regs State.reset [(2, 0x400000)]).me.stop = none ∧ ((regs State.reset [(2, 0x400000)]).mine.rg 2).toNat = 0x400000 := by
  decide +kernel

/-- LDC in the iteration of `paged`. -/
def constSpec : Spec := { x := c0, minLat := 7 }
/-- What instruction fetch gives for its constant. -/
def constant : Fetched × State :=
  (startOf paged constSpec).fetchBytes paged.turn (((cxOf paged constSpec).own &&& ~~~7#64) + 8 * (2 : BitVec 12).signExtend 64).toNat 8

theorem constant_eq : constant.1 = .bytes (List.replicate 8 0) false := by decide +kernel
theorem witness_ldc : ∃ f, ConstRow (.ldc 1 2 c0) f ∧ Met paged f :=
  ⟨_, .ldc 1 2 c0 (List.replicate 8 0) constant.2, by decide +kernel, True.intro, pair_of constant _ constant_eq, by decide +kernel,
    by decide +kernel⟩
theorem witness_mfs : ∃ f, SysregRow (.mfs 1 0x70 c0) f ∧ Met State.reset f :=
  ⟨_, .mfs 1 0x70 c0 (by decide +kernel), by decide +kernel, by dsimp only; decide +kernel, True.intro⟩
theorem witness_mts_lc : ∃ f, SysregRow (.mts 1 3 c0) f ∧ Met State.reset f := ⟨_, .lc 1 2 c0, by decide +kernel, True.intro, True.intro⟩
theorem witness_mts_hand : ∃ f, SysregRow (.mts 1 0x47 c0) f ∧ Met State.reset f :=
  ⟨_, .hand 1 7 c0, by decide +kernel, by dsimp only; decide +kernel, True.intro⟩
theorem witness_mts_acct : ∃ f, SysregRow (.mts 1 0x4C c0) f ∧ Met (regs (onTurn .C) [(1, 7)]) f :=
  ⟨_, .acct .., by decide +kernel, by dsimp only; decide +kernel, by dsimp only; decide +kernel⟩
theorem witness_mts_vwb : ∃ f, SysregRow (.mts 1 0x4D c0) f ∧ Met (regs (onTurn .C) [(1, 127)]) f :=
  ⟨_, .vwb .., by decide +kernel, by dsimp only; decide +kernel, by dsimp only; decide +kernel⟩
theorem witness_mts_trapvec : ∃ f, SysregRow (.mts 1 0x103 c0) f ∧ Met (regs State.reset [(1, 0xFFFFFFFFFFFFFFFE)]) f :=
  ⟨_, .trapvec .., by decide +kernel, by dsimp only; decide +kernel, by dsimp only; decide +kernel⟩
/-- A core in trap mode. -/
def trapped : State := core0 State.reset fun c => { c with trapcause := 0x8000000E }
theorem witness_mts_epc : ∃ f, SysregRow (.mts 1 0x113 c0) f ∧ Met trapped f :=
  ⟨_, .epc 1 3 c0, by decide +kernel, by dsimp only; decide +kernel, by dsimp only; decide +kernel⟩
theorem witness_mts_fpstat : ∃ f, SysregRow (.mtsFpstat 1 c0) f ∧ Met (regs State.reset [(1, 63)]) f :=
  ⟨_, .fpstat .., by decide +kernel, by dsimp only; decide +kernel, by dsimp only; decide +kernel⟩
theorem witness_mts_atomflags : ∃ f, SysregRow (.mtsAtomflags 1 c0) f ∧ Met (regs State.reset [(1, 31)]) f :=
  ⟨_, .atomflags .., by decide +kernel, by dsimp only; decide +kernel, by dsimp only; decide +kernel⟩
theorem witness_mts_engerr : ∃ f, SysregRow (.mtsEngerr 1 c0) f ∧ Met State.reset f :=
  ⟨_, .engerr .., by decide +kernel, True.intro, by dsimp only; decide +kernel⟩
theorem witness_mts_derr : ∃ f, SysregRow (.mtsDerr 1 c0) f ∧ Met State.reset f :=
  ⟨_, .derr .., by decide +kernel, True.intro, by dsimp only; decide +kernel⟩
theorem witness_mts_rpstat : ∃ f, SysregRow (.mtsRpstat 1 c0) f ∧ Met (regs State.reset [(1, 0x40000000)]) f :=
  ⟨_, .rpstat .., by decide +kernel, by dsimp only; decide +kernel, by dsimp only; decide +kernel⟩
theorem witness_trap : ∃ f, TrapRow (.trap 1 c0) f ∧ Met State.reset f :=
  ⟨_, .trap .., by decide +kernel, by dsimp only; decide +kernel, by dsimp only; decide +kernel⟩
theorem witness_rte : ∃ f, TrapRow (.rte c0) f ∧ Met trapped f :=
  ⟨_, .rte .., by decide +kernel, by dsimp only; decide +kernel, by dsimp only; decide +kernel⟩
theorem witness_snaprd : ∃ f, TrapRow (.snaprd 1 2 c0) f ∧ Met (regs State.reset [(2, 0x7F7F)]) f :=
  ⟨_, .snaprd .., by decide +kernel, True.intro, by dsimp only; decide +kernel⟩
theorem witness_wfe : ∃ f, TrapRow (.wfe 1 2 c0) f
    ∧ Met ((regs State.reset [(2, 0)]).modSeq State.reset.turn fun v => { v with eventLatch := true }) f :=
  ⟨_, .wfe .., by decide +kernel, by dsimp only; decide +kernel, True.intro⟩
/-! ### Witnesses: context images -/

theorem writeVa_whole (s : State) (a : Actor) (c : CoreId) (ten : BitVec 8) (secs : List (Nat × List Byte))
    (h : good (s.placeSections a c ten secs) = true) : s.writeVa a c ten secs
      = (.ok ((s.placeSections a c ten secs).2.imageWrite a c (held (s.placeSections a c ten secs) [])), (s.placeSections a c ten secs).2) := by
  conv => lhs; unfold State.writeVa
  rw [held_of _ [] h]
  rfl

/-- A core in trap mode in the iteration of `paged`. -/
def handler : State := core0 { paged with turn := { core := 0, sq := .X } } fun c => { c with trapcause := 0x8000000E }

/-- Its iteration. -/
def running : Iter := { launch := 0, tuple := 0, ten := 0, tape := none, started := true }

/-- CTXSV of an image of X, which names nothing, at 0x20000. -/
def saveAt : State := regs handler [(2, 0x20000)]
def saveSpec : Spec := { x := c0, acc := [.core] }
/-- The state in which it takes effect. -/
def saveIn : State := startOf saveAt saveSpec
def sections : List (Nat × List Byte) :=
  (saveIn.me.imageSections saveIn.turn.core running ((saveIn.mine.rg 1).setWidth 32)
    (saveIn.me.seqImages (fun _ => (saveIn.mine.rg 1).setWidth 32) true) false).map fun p => ((saveIn.mine.rg 2).toNat + p.1, p.2)
/-- Their places. -/
def placed : Except PageFault (List (Nat × Byte)) × State :=
  saveIn.placeSections ((cxOf saveAt saveSpec).actor saveIn) saveIn.turn.core running.ten sections
theorem placed_ok : good placed = true := by decide +kernel
theorem witness_ctxsv : ∃ f, ImageRow (.ctxsv 1 2 c0) f ∧ Met saveAt f :=
  ⟨_, .ctxsv 1 2 c0 running (placed.2.imageWrite ((cxOf saveAt saveSpec).actor saveIn) saveIn.turn.core (held placed [])) placed.2,
    by decide +kernel, by dsimp only; decide +kernel, by dsimp only; decide +kernel,
    by dsimp only; decide +kernel, by dsimp only; decide +kernel, by dsimp only; decide +kernel, writeVa_whole _ _ _ _ _ placed_ok⟩

/-- CTXRS of memory of zeros, which is no image. -/
def loadSpec : Spec := { x := c7, minLat := 7, acc := [.core] }
def loadIn : State := startOf saveAt loadSpec
def header : Except PageFault (List Byte × Option Nat) × State :=
  loadIn.readVa ((cxOf saveAt loadSpec).actor loadIn) (cxOf saveAt loadSpec).who.core running.ten (loadIn.mine.rg 2).toNat 256
theorem header_eq : header.1.toOption = some (List.replicate 256 0, none) := by decide +kernel
theorem header_is : header = (.ok (List.replicate 256 0, none), header.2) := by
  refine pair_of _ _ ?_
  have h := header_eq
  revert h
  cases header.1 with
  | ok v => intro h; rw [Option.some.inj h]
  | error e => intro h; cases h
theorem witness_ctxrsHead : ∃ f, ImageRow (.ctxrs 1 2 c7) f ∧ Met saveAt f :=
  ⟨_, .ctxrsHead 1 2 c7 running (List.replicate 256 0) (noted header.2 (cxOf saveAt loadSpec).who.core []),
    by decide +kernel, by dsimp only; decide +kernel,
    ⟨by dsimp only; decide +kernel, by dsimp only; decide +kernel, none, header.2, header_is, rfl⟩, by decide +kernel⟩

/-! ### Witnesses: vector -/

/-- Sequencer C of core 0 has the turn, with lane type `ty`. -/
def vecAt (ty : Nat) : State := core0 (onTurn .C) fun c => { c with acct := BitVec.ofNat 32 ty }

theorem vecAt_is (ty : Fin 8) : (vecAt ty).me.sfuBusy = 0 ∧ fld ((vecAt ty).popped c0).me.acct 2 0 = ty.val
    ∧ ∀ lat < 7, (vecAt ty).ready c0 false lat [.C] = true := by
  revert ty
  decide +kernel

/-- What a vector row asks of such a state comes down to the TYPE. -/
theorem vec_met (ty : Fin 8) (lat : Nat) (hl : lat ≤ 6) (sfu : Bool) (srcs : List VReg) (bad : LaneKind → Bool)
    (rs : Vx → Seq → List Result) (hb : bad (laneKind ty) = false) : Met (vecAt ty) (vecEffect c0 lat sfu srcs bad rs) := by
  refine ⟨⟨(vecAt_is ty).2.2 lat (by omega), rfl⟩, fun _ => by rw [(vecAt_is ty).1]; omega, ?_⟩
  show bad (laneKind (fld ((vecAt ty).popped c0).me.acct 2 0)) = false
  rw [(vecAt_is ty).2.1]
  exact hb

/-- Every row of the tables, with some TYPE. -/
theorem witness_lane (i : Instr) (f : Effect) (h : LaneRow i f) (hx : f.x = c0) : Met (vecAt 0) f := by
  cases h <;> simp only [laneEffect, vecEffect] at hx <;> subst hx <;> exact vec_met 0 _ (by decide) _ _ _ _ rfl

theorem witness_fold : ∃ f, VectorRow (.vscanmax 31 31 5 c0) f ∧ Met (vecAt 5) f := ⟨_, .vscanmax .., vec_met 5 _ (by decide) _ _ _ _ (by decide +kernel)⟩
theorem witness_vrminu : ∃ f, VectorRow (.vrminu 31 0 0 c0) f ∧ Met (vecAt 7) f := ⟨_, .vrminu .., vec_met 7 _ (by decide) _ _ _ _ (by decide +kernel)⟩
theorem witness_viota : ∃ f, VectorRow (.viota 0 c0) f ∧ Met (vecAt 4) f := ⟨_, .viota .., vec_met 4 _ (by decide) _ _ _ _ (by decide +kernel)⟩
theorem witness_vcmp : ∃ f, VectorRow (.vcmp 1 2 3 .un c0) f ∧ Met (vecAt 3) f := ⟨_, .vcmp .., vec_met 3 _ (by decide) _ _ _ _ (by decide +kernel)⟩
theorem witness_vcvt : ∃ f, VectorRow (.vcvt 1 2 7 3 3 c0) f ∧ Met (vecAt 0) f := ⟨_, .vcvt .., vec_met 0 _ (by decide) _ _ _ _ (by decide +kernel)⟩
theorem witness_vcvtef : ∃ f, VectorRow (.vcvtef 1 2 3 0 c0) f ∧ Met (vecAt 0) f := ⟨_, .vcvtef _ _ _ _ _ (by decide), vec_met 0 _ (by decide) _ _ _ _ (by decide +kernel)⟩
theorem witness_vlse : ∃ f, VectorRow (.vlse 0 16 14 c0) f ∧ Met (vecAt 0) f :=
  ⟨_, .vlse _ _ _ _ (by decide) (by decide), vec_met 0 _ (by decide) _ _ _ _ (by decide +kernel)⟩
theorem witness_vosm : ∃ f, VectorRow (.vosm 31 0 31 c0) f ∧ Met (vecAt 0) f := ⟨_, .vosm .., vec_met 0 _ (by decide) _ _ _ _ (by decide +kernel)⟩
theorem witness_mcnt : ∃ f, VectorRow (.mcnt 0 31 c0) f ∧ Met (vecAt 0) f := ⟨_, .mcnt .., vec_met 0 _ (by decide) _ _ _ _ (by decide +kernel)⟩
theorem witness_vld : ∃ f, RowAccess (.vld 1 2 0 c0) f ∧ Met (regs (vecAt 0) [(2, 0x3FFE00)]) f :=
  ⟨_, .vld .., by decide +kernel, True.intro, by dsimp only; decide +kernel⟩
theorem witness_vst : ∃ f, RowAccess (.vst 1 2 31 c0) f ∧ Met (regs (vecAt 0) [(2, 64)]) f :=
  ⟨_, .vst .., by decide +kernel, True.intro, by dsimp only; decide +kernel⟩
theorem witness_vstu : ∃ f, RowAccess (.vstu 1 2 0 c0) f ∧ Met (regs (vecAt 0) [(2, 1)]) f :=
  ⟨_, .vstu .., by decide +kernel, True.intro, by dsimp only; decide +kernel⟩
theorem witness_vdeferNone : ∃ f, RowAccess (.vdefer 1 2 3 c0) f ∧ Met (core0 (vecAt 0) fun c => { c with m := c.m.set 0 0 (by decide) }) f :=
  ⟨_, .vdeferNone .., by decide +kernel, True.intro, by dsimp only; decide +kernel⟩
/-- The iteration of `paged` in a tenancy that holds the last group of lists. -/
def listed : State :=
  let s := { paged with turn := { core := 0, sq := .C } }
  core0 { s with tens := s.tens.set 0 { s.tens.get 0 with listgrp := BitVec.ofNat 64 (2 ^ 63), listbase := 0x40000000, wlcap := 3 } (by decide) }
    fun c => { c with m := c.m.set 0 0xFFFF (by decide) }
def deferSpec : Spec := { x := c0, acc := [.core], rel := true }
def deferIn : State := startOf (regs listed [(1, 0x7FF)]) deferSpec
theorem witness_vdefer : ∃ f, RowAccess (.vdefer 1 2 3 c0) f ∧ Met (regs listed [(1, 0x7FF)]) f :=
  ⟨_, .vdefer 1 2 3 c0 (deferIn.noteRows deferIn.turn.core [deferIn.me.vrow 2, deferIn.me.vrow 3]), by decide +kernel, True.intro,
    by dsimp only; decide +kernel, rfl, by decide +kernel, by decide +kernel⟩
/-! ### Witnesses: lists, barrier, tapes -/

/-- `listed` on sequencer X, with `n` items in list 0x3FF. -/
def stocked (n : Nat) : State :=
  let s := { listed with turn := { core := 0, sq := .X } }
  s.setList 0x3FF { s.list 0x3FF with tail := (s.list 0x3FF).head + n, know := List.replicate n [] }

theorem witness_push : ∃ f, ListRow (.wlpush 4 1 c0) f ∧ Met (regs (stocked 7) [(1, 0xFFFFFFFFFFFFFFFF)]) f :=
  ⟨_, .push .., by decide +kernel, True.intro, by dsimp only; decide +kernel⟩
theorem witness_popNone : ∃ f, ListRow (.wlpop 4 1 c7) f ∧ Met (regs (stocked 0) [(1, 0x3FF)]) f :=
  ⟨_, .popNone .., by decide +kernel, by dsimp only; decide +kernel, by dsimp only; decide +kernel⟩
def popSpec : Spec := { x := c7, minLat := 7, acc := [.core] }
/-- What a pop of `n` items of the list that g1 names gives in `s`. -/
def popFrom (s : State) (n : Nat) : List (List Byte) × State :=
  let t := startOf s popSpec
  (acked t).listPop (cxOf s popSpec) (ten t) (listNo t 1) n
def popped : List (List Byte) × State := popFrom (regs (stocked 8) [(1, 0x3FF)]) 1
theorem popped_eq : popped.1 = [List.replicate 16 0] := by decide +kernel
theorem witness_popOne : ∃ f, ListRow (.wlpop 4 1 c7) f ∧ Met (regs (stocked 8) [(1, 0x3FF)]) f :=
  ⟨_, .popOne 4 1 c7 (List.replicate 16 0) popped.2, by decide +kernel, by dsimp only; decide +kernel,
    by decide +kernel, by decide +kernel, pair_of popped _ popped_eq⟩
def batch : List (List Byte) × State := popFrom (regs (stocked 3) [(1, 0x3FF + 3 * 1024 + 0x3FFFD0 * 2 ^ 20)]) 3
theorem witness_popBatch : ∃ f, ListRow (.wlpop 4 1 c7) f ∧ Met (regs (stocked 3) [(1, 0x3FF + 3 * 1024 + 0x3FFFD0 * 2 ^ 20)]) f :=
  ⟨_, .popBatch 4 1 c7 3 0x3FFFD0 batch.1 batch.2, by decide +kernel, by dsimp only; decide +kernel,
    by decide +kernel, by decide +kernel, by decide +kernel, by decide +kernel, by decide +kernel, by decide +kernel,
    pair_of batch _ rfl⟩
theorem witness_quies : ∃ f, ListRow (.quies 4 1 c7) f ∧ Met (regs (stocked 0) [(1, 0x7F)]) f :=
  ⟨_, .quies .., by decide +kernel, True.intro, by dsimp only; decide +kernel⟩
theorem witness_tkcnt : ∃ f, ListRow (.tkcnt 4 c0) f ∧ Met State.reset f := ⟨_, .tkcnt .., by decide +kernel, True.intro, True.intro⟩
theorem witness_bar : ∃ f, ListRow (.bar c0) f ∧ Met { paged with turn := { core := 0, sq := .X } } f :=
  ⟨_, .bar c0 placeLaunch, by decide +kernel, by dsimp only; decide +kernel, by dsimp only; decide +kernel⟩

/-- X in an iteration with tape 15, which holds `tp`. -/
def taped (tp : Tape) (f : Core → Core := id) : State :=
  core0 { paged with turn := { core := 0, sq := .X } } fun c =>
    f { c with iter := some { launch := 0, tuple := 0, ten := 0, tape := some 15, started := true }, tapes := c.tapes.set 15 tp (by decide) }

/-- A tape that an empty launch recorded. -/
def recorded : Tape := { Tape.blank with st := .valid, cores := 1, ent := [], ext := [] }

/-- TAPEB and TAPEE make no access. -/
def tapeSpec : Spec := { x := c7, minLat := 7 }
/-- A recording that matches the core. -/
def matching (c : Core) : Core :=
  { c with tapes := c.tapes.set 15 { recorded with kval := c.k.toList, htgen := c.htgen, ntgen := c.ntgen
                                                   ntlocks := c.ntlocks.setWidth 16, acct := c.acct } (by decide) }
theorem witness_tapeb_replay : ∃ f, TapebRow (.tapeb 4 c7) f ∧ Met (taped recorded matching) f :=
  ⟨_, .replay 4 c7 15 placeLaunch ((startOf (taped recorded matching) tapeSpec).dropBadTape 0 15), by decide +kernel, True.intro,
    ⟨by decide +kernel, by decide +kernel, by decide +kernel, by decide +kernel⟩, rfl, by decide +kernel, by decide +kernel⟩
theorem witness_tapeb_fresh : ∃ f, TapebRow (.tapeb 4 c7) f ∧ Met (taped Tape.blank) f :=
  ⟨_, .fresh 4 c7 15 placeLaunch 0 ((startOf (taped Tape.blank) tapeSpec).dropBadTape 0 15), by decide +kernel, True.intro,
    ⟨by decide +kernel, by decide +kernel, by decide +kernel, by decide +kernel⟩, rfl, .inr (by decide +kernel), by decide +kernel⟩
/-- Streams L, C and S have ended. -/
def alone (ph : TapePhase) (c : Core) : Core :=
  { c.modSeqs fun q v => { v with ended := q != .X } with tapePhase := ph, tapeBegun := some 0, tapeEnded := false }
theorem witness_tapee_replayed : ∃ f, TapeRow (.tapee 4 c7) f ∧ Met (taped Tape.blank (alone .replaying)) f :=
  ⟨_, .tapeeReplayed .., by decide +kernel, by dsimp only; decide +kernel, by dsimp only; decide +kernel⟩
theorem witness_tapee_aborted : ∃ f, TapeRow (.tapee 4 c7) f ∧ Met (taped Tape.blank (alone .aborted)) f :=
  ⟨_, .tapeeAborted .., by decide +kernel, by dsimp only; decide +kernel, by dsimp only; decide +kernel⟩
theorem witness_tapee_abandoned : ∃ f, TapeRow (.tapee 4 c7) f ∧ Met (taped Tape.blank (alone (.abandoned 6))) f :=
  ⟨_, .tapeeAbandoned 4 c7 6, by decide +kernel, by dsimp only; decide +kernel, by dsimp only; decide +kernel⟩
def ending : Nat × State :=
  let s := startOf (taped { Tape.blank with st := .recording } (alone .recording)) tapeSpec
  ({ s with free := s.free + 1 } : State).finishTape s.turn.core 15 s.deliverAt
theorem witness_tapee_recorded : ∃ f, TapeRow (.tapee 4 c7) f ∧ Met (taped { Tape.blank with st := .recording } (alone .recording)) f :=
  ⟨_, .tapeeRecorded 4 c7 15 ending.1 ending.2, by decide +kernel, by dsimp only; decide +kernel, by decide +kernel, by decide +kernel, by decide +kernel,
    by decide +kernel, pair_of ending _ rfl⟩
theorem witness_tguard_none : ∃ f, TapeRow (.tguard 4 5 c0) f ∧ Met (regs (taped Tape.blank) [(4, 0x11F)]) f :=
  ⟨_, .guardNone .., by decide +kernel, by dsimp only [pairReady]; decide +kernel, by dsimp only; decide +kernel⟩
theorem witness_tguard_full : ∃ f, TapeRow (.tguard 4 5 c0) f
    ∧ Met (taped { Tape.blank with st := .recording, guards := List.replicate 16 (0, 0, 0) } (alone .recording)) f :=
  ⟨_, .guardFull 4 5 c0 15, by decide +kernel, by dsimp only [pairReady]; decide +kernel, by dsimp only; decide +kernel⟩
theorem witness_tguard_value : ∃ f, TapeRow (.tguard 4 5 c0) f
    ∧ Met (taped { Tape.blank with st := .recording, guards := List.replicate 15 (0, 0, 0) } (alone .recording)) f :=
  ⟨_, .guardValue 4 5 c0 15 { Tape.blank with st := .recording, guards := List.replicate 16 (0, 0, 0) }, by decide +kernel,
    by dsimp only [pairReady]; decide +kernel, by dsimp only; decide +kernel⟩
theorem witness_tapeinv : ∃ f, TapeRow (.tapeinv 4 c0) f ∧ Met (regs State.reset [(4, 65535)]) f :=
  ⟨_, .tapeinv .., by decide +kernel, True.intro, by dsimp only; decide +kernel⟩
theorem witness_tapeq : ∃ f, TapeRow (.tapeq 4 5 c0) f ∧ Met (regs State.reset [(5, 0x3FFFF)]) f :=
  ⟨_, .tapeq .., by decide +kernel, True.intro, by dsimp only; decide +kernel⟩
/-! ### Witnesses: memory -/

/-- What the shared issue knows of a CORE access. -/
def memSpec (x : Ctl) (lat : Nat) (rel : Bool := false) : Spec := { x := x, minLat := lat, acc := [.core], rel := rel }

/-- What translating `n` bytes at `ea` answers as an instruction issues. -/
def walked (s : State) (sp : Spec) (need : Nat → Nat → Need) (ea : State → Nat) (n : Nat) : Except PageFault (List (Nat × Nat)) × State :=
  let t := startOf s sp
  t.translateBytes ((cxOf s sp).actor t) t.turn.core (t.tenOf t.turn.core) (need (ea t) n) (ea t) n

/-- The iteration of `paged`, g2 set. -/
def mapped (va : Nat) (q : Sq := .X) : State := regs { paged with turn := { core := 0, sq := q } } [(2, va)]
/-- The same with the page of the device registers mapped instead. -/
def atRegs (va : Nat) : State :=
  let s := mapped va
  { s with mem := { s.mem with cells := ((List.range 8).foldl (fun cs i => cellsPut cs (placeTable + 8 * vaIndex 2 placeVa + i)
      (BitVec.ofNat 8 ((regBase + 0x3F) / 256 ^ i))) s.mem.cells) } }
def w1 := walked (mapped 0x3FFFFFFF) (memSpec c7 7) (scalarNeed Need.load true) (fun t => addr t 2 .b 0) 1
theorem witness_ld : ∃ f, ScalarAccess (.ld 1 2 .b .default 0 c7) f ∧ Met (mapped 0x3FFFFFFF) f :=
  ⟨_, .ld 1 2 .b .default 0 c7 (held w1 []) w1.2, by decide +kernel, True.intro, by decide +kernel,
    by exact held_of w1 [] (by decide +kernel), by decide +kernel⟩
def w2 := walked (mapped 0x1FFD) (memSpec c7 7) (scalarNeed Need.load true) (fun t => addr t 2 .d 7) 8
theorem witness_lds : ∃ f, ScalarAccess (.lds 1 2 .d .default 7 c7) f ∧ Met (mapped 0x1FFD) f :=
  ⟨_, .lds 1 2 .d .default 7 c7 (held w2 []) w2.2, by decide +kernel, True.intro, by decide +kernel,
    by exact held_of w2 [] (by decide +kernel), by decide +kernel⟩
def w3 := walked (mapped 0x2000) (memSpec c7 7) (scalarNeed Need.load false) (fun t => addr t 2 .d 0) 8
theorem witness_ldAcq : ∃ f, ScalarAccess (.ldAcq 1 2 .d .default 0 c7) f ∧ Met (mapped 0x2000) f :=
  ⟨_, .ldAcq 1 2 .d .default 0 c7 (held w3 []) w3.2, by decide +kernel, True.intro, by decide +kernel,
    by exact held_of w3 [] (by decide +kernel), by decide +kernel⟩
def w4 := walked (mapped 0x2FFF) (memSpec c0 0) (scalarNeed Need.store true) (fun t => addr t 2 .w 0) 4
theorem witness_st : ∃ f, ScalarAccess (.st 1 2 .w .default 0 c0) f ∧ Met (mapped 0x2FFF) f :=
  ⟨_, .st 1 2 .w .default 0 c0 (held w4 []) w4.2, by decide +kernel, True.intro, by decide +kernel,
    by exact held_of w4 [] (by decide +kernel), by decide +kernel⟩
def w5 := walked (mapped 0x2FFE) (memSpec c0 0 true) (scalarNeed Need.store false) (fun t => addr t 2 .h 0) 2
theorem witness_stRel : ∃ f, ScalarAccess (.stRel 1 2 .h .default 0 c0) f ∧ Met (mapped 0x2FFE) f :=
  ⟨_, .stRel 1 2 .h .default 0 c0 (held w5 []) w5.2, by decide +kernel, True.intro, by decide +kernel,
    by exact held_of w5 [] (by decide +kernel), by decide +kernel⟩
def w6 := walked (atRegs 0x1ffff8) (memSpec c7 7) (scalarNeed Need.load true) (fun t => addr t 2 .d 0) 8
theorem witness_ldReg : ∃ f, ScalarAccess (.ld 1 2 .d .bypass 0 c7) f ∧ Met (atRegs 0x1ffff8) f :=
  ⟨_, .ldReg 1 2 .d .bypass 0 c7 (held w6 []) w6.2 (regBase + 0x1ffff8), by decide +kernel, True.intro,
    by exact held_of w6 [] (by decide +kernel), by decide +kernel, by decide +kernel⟩
def w7 := walked (atRegs 0x1000) (memSpec c7 7) (scalarNeed Need.load true) (fun t => addr t 2 .w 1) 4
theorem witness_ldsReg : ∃ f, ScalarAccess (.lds 1 2 .w .bypass 1 c7) f ∧ Met (atRegs 0x1000) f :=
  ⟨_, .ldsReg 1 2 .w .bypass 1 c7 (held w7 []) w7.2 (regBase + 0x1004), by decide +kernel, True.intro,
    by exact held_of w7 [] (by decide +kernel), by decide +kernel, by decide +kernel⟩
def w8 := walked (atRegs 0x1000) (memSpec c0 0) (scalarNeed Need.store true) (fun t => addr t 2 .d 0) 8
theorem witness_stReg : ∃ f, ScalarAccess (.st 1 2 .d .bypass 0 c0) f ∧ Met (atRegs 0x1000) f :=
  ⟨_, .stReg 1 2 .d .bypass 0 c0 (held w8 []) w8.2 (regBase + 0x1000), by decide +kernel, True.intro,
    by exact held_of w8 [] (by decide +kernel), by decide +kernel, by decide +kernel⟩

/-- What translating the selected bytes of a row answers. -/
def rowWalked (s : State) (sp : Spec) (need : Need) (ea : Nat) : Except PageFault (List (Nat × Nat)) × State :=
  let t := startOf s sp
  t.translateRow ((cxOf s sp).actor t) t.turn.core (t.tenOf t.turn.core) need ea (rowPages ea t.me.laneBytes)
def w9 := rowWalked (mapped 0x20000 .C) (memSpec c7 7) Need.load 0x20000
theorem witness_vldg : ∃ f, GlobalRow (.vldg 31 2 .default 0 c7) f ∧ Met (mapped 0x20000 .C) f :=
  ⟨_, .vldg 31 2 .default 0 c7 (held w9 []) w9.2, by decide +kernel, True.intro, by decide +kernel, by exact held_of w9 [] (by decide +kernel)⟩
def w10 := rowWalked (mapped 0x2FC0 .C) (memSpec c7 7) Need.load 0x2FC0
theorem witness_vldgAcq : ∃ f, GlobalRow (.vldgAcq 31 2 .default 0 c7) f ∧ Met (mapped 0x2FC0 .C) f :=
  ⟨_, .vldgAcq 31 2 .default 0 c7 (held w10 []) w10.2, by decide +kernel, True.intro, by decide +kernel, by exact held_of w10 [] (by decide +kernel)⟩
def w11 := rowWalked (mapped 0x20000 .C) (memSpec c0 0) Need.store 0x20000
theorem witness_vstg : ∃ f, GlobalRow (.vstg 31 2 .default 0 c0) f ∧ Met (mapped 0x20000 .C) f :=
  ⟨_, .vstg 31 2 .default 0 c0 (held w11 []) w11.2, by decide +kernel, True.intro, by decide +kernel, by exact held_of w11 [] (by decide +kernel)⟩
def w12 := rowWalked (mapped 0x20000 .C) (memSpec c0 0 true) Need.store 0x20000
theorem witness_vstgRel : ∃ f, GlobalRow (.vstgRel 31 2 .default 0 c0) f ∧ Met (mapped 0x20000 .C) f :=
  ⟨_, .vstgRel 31 2 .default 0 c0 (held w12 []) w12.2, by decide +kernel, True.intro, by decide +kernel, by exact held_of w12 [] (by decide +kernel)⟩

/-- A reduction window over the page's first 64 KiB. -/
def windowed (va : Nat) : State :=
  { mapped va with fe := { State.reset.fe with rwbase := State.reset.fe.rwbase.set 0 0x40000001 (by decide)
                                               rwlim := State.reset.fe.rwlim.set 0 0x4000FF00 (by decide) } }
/-- With the first of those pages being copied elsewhere. -/
def moving (va : Nat) : State :=
  { mapped va with
    migration := some { k := 21, src := pageOf (0x40000000 + va), dst := pageOf 0x50000000, ten := 0, xp := none, copied := false, held := [] } }
def w13 := walked (mapped 0x2FF8) (memSpec c7 7 true) (fun _ _ => Need.amo) (fun t => (t.mine.rg 2).toNat) 8
theorem ok13 : good w13 = true ∧ held w13 [] = (0x40000000 + 0x2FF8, 0) :: (held w13 []).tail := by decide +kernel
theorem eq13 : w13 = (.ok ((0x40000000 + 0x2FF8, 0) :: (held w13 []).tail), w13.2) := by
  rw [← ok13.2]
  exact held_of w13 [] ok13.1
theorem witness_bank : ∃ f, AtomicRow (.amoCas 1 2 true .d c7) f ∧ Met (mapped 0x2FF8) f :=
  ⟨_, .bank (.amoCas 1 2 true .d c7) 9 1 2 true .d c7 (.cas ..) (0x40000000 + 0x2FF8) 0 (held w13 []).tail w13.2, by decide +kernel, True.intro, by decide +kernel, by exact eq13, by decide +kernel⟩
def w14 := walked (moving 0x2FFC) (memSpec c7 7) (fun _ _ => Need.amo) (fun t => (t.mine.rg 2).toNat) 4
theorem ok14 : good w14 = true ∧ held w14 [] = (0x40000000 + 0x2FFC, 0) :: (held w14 []).tail := by decide +kernel
theorem eq14 : w14 = (.ok ((0x40000000 + 0x2FFC, 0) :: (held w14 []).tail), w14.2) := by
  rw [← ok14.2]
  exact held_of w14 [] ok14.1
theorem witness_away : ∃ f, AtomicRow (.amoSwap 1 2 false .w c7) f ∧ Met (moving 0x2FFC) f :=
  ⟨_, .bank (.amoSwap 1 2 false .w c7) 8 1 2 false .w c7 (.swap ..) (0x40000000 + 0x2FFC) 0 (held w14 []).tail w14.2, by decide +kernel, True.intro, by decide +kernel, by exact eq14, by decide +kernel⟩
def w15 := walked (windowed 0xFFFC) (memSpec c7 7) (fun _ _ => Need.amo) (fun t => (t.mine.rg 2).toNat) 4
theorem ok15 : good w15 = true ∧ held w15 [] = (0x40000000 + 0xFFFC, 0) :: (held w15 []).tail := by decide +kernel
theorem eq15 : w15 = (.ok ((0x40000000 + 0xFFFC, 0) :: (held w15 []).tail), w15.2) := by
  rw [← ok15.2]
  exact held_of w15 [] ok15.1
theorem witness_combined : ∃ f, AtomicRow (.amoMaxu 1 2 false .w c7) f ∧ Met (windowed 0xFFFC) f :=
  ⟨_, .combined (.amoMaxu 1 2 false .w c7) 7 1 2 .w c7 (.maxu ..) (by decide) (0x40000000 + 0xFFFC) 0 (held w15 []).tail w15.2, by decide +kernel, True.intro, by decide +kernel, by exact eq15, by decide +kernel⟩
def w16 := walked (mapped 0x2FFF) (memSpec c7 7) (fun _ _ => Need.amo) (fun t => (t.mine.rg 2).toNat) 1
theorem ok16 : good w16 = true ∧ held w16 [] = (0x40000000 + 0x2FFF, 0) :: (held w16 []).tail := by decide +kernel
theorem eq16 : w16 = (.ok ((0x40000000 + 0x2FFF, 0) :: (held w16 []).tail), w16.2) := by
  rw [← ok16.2]
  exact held_of w16 [] ok16.1
theorem witness_plnstOr : ∃ f, AtomicRow (.plnstOr 1 2 c7) f ∧ Met (mapped 0x2FFF) f :=
  ⟨_, .plnstOr 1 2 c7 (0x40000000 + 0x2FFF) 0 (held w16 []).tail w16.2, by decide +kernel, True.intro, by exact eq16⟩
def w17 := walked (mapped 0x2FFF) (memSpec c7 7) (fun _ _ => Need.amo) (fun t => (t.mine.rg 2).toNat) 1
theorem ok17 : good w17 = true ∧ held w17 [] = (0x40000000 + 0x2FFF, 0) :: (held w17 []).tail := by decide +kernel
theorem eq17 : w17 = (.ok ((0x40000000 + 0x2FFF, 0) :: (held w17 []).tail), w17.2) := by
  rw [← ok17.2]
  exact held_of w17 [] ok17.1
theorem witness_plnstAnd : ∃ f, AtomicRow (.plnstAnd 1 2 c7) f ∧ Met (mapped 0x2FFF) f :=
  ⟨_, .plnstAnd 1 2 c7 (0x40000000 + 0x2FFF) 0 (held w17 []).tail w17.2, by decide +kernel, True.intro, by exact eq17⟩
/-! ### Witnesses: fences, node table -/

theorem witness_fence : ∃ f, FenceRow (.fence .pod c0) f ∧ Met State.reset f := ⟨_, .fence .., by decide +kernel, True.intro, True.intro⟩
theorem witness_fencex : ∃ f, FenceRow (.fencex .core .core .remote c0) f ∧ Met State.reset f :=
  ⟨_, .fencex .., by decide +kernel, True.intro, True.intro⟩
theorem witness_publ : ∃ f, FenceRow (.publ .die c0) f ∧ Met State.reset f := ⟨_, .publ .., by decide +kernel, True.intro, True.intro⟩
theorem witness_cpref : ∃ f, FenceRow (.cpref true .sticky 2 c0) f ∧ Met State.reset f := ⟨_, .cpref .., by decide +kernel, True.intro, True.intro⟩
def w20 := walked (mapped 0x2FFF) (memSpec c0 0) (fun _ _ => Need.load) (fun t => (t.mine.rg 2).toNat) 1
theorem ok20 : good w20 = true ∧ held w20 [] = [(0x40002FFF, 0)] := by decide +kernel
theorem eq20 : w20 = (.ok [(0x40002FFF, 0)], w20.2) := by
  rw [← ok20.2]
  exact held_of w20 [] ok20.1
theorem witness_cflush : ∃ f, FenceRow (.cflush 2 c0) f ∧ Met (mapped 0x2FFF) f :=
  ⟨_, .cflush 2 c0 0x40002FFF 0 w20.2, by decide +kernel, True.intro, by exact eq20⟩
theorem witness_cinv : ∃ f, FenceRow (.cinv 2 c0) f ∧ Met (mapped 0x2FFF) f :=
  ⟨_, .cinv 2 c0 0x40002FFF 0 w20.2, by decide +kernel, True.intro, by exact eq20⟩

/-- Segment 15 named by g3, at 0x20000; locked or not. -/
def segment15 (locked : Bool) : State :=
  core0 (regs { paged with turn := { core := 0, sq := .X } } [(2, 0x20000), (3, 15)]) fun c => { c with ntlocks := if locked then 0x8000 else 0 }
def w21 (b : Bool) : Except PageFault (List (Nat × Nat)) × State :=
  let t := spent (startOf (segment15 b) (memSpec c7 7))
  t.translateBytes ((cxOf (segment15 b) (memSpec c7 7)).actor t) t.turn.core (t.tenOf t.turn.core) Need.load (t.mine.rg 2).toNat 1024
theorem ok21 (b : Bool) : good (w21 b) = true := by
  revert b
  decide +kernel
theorem witness_ntldLocked : ∃ f, NodeRow (.ntld 1 2 3 c7) f ∧ Met (segment15 true) f :=
  ⟨_, .ntldLocked 1 2 3 c7 (held (w21 true) []) (w21 true).2, by decide +kernel, True.intro, by decide +kernel, by decide +kernel,
    by exact held_of (w21 true) [] (ok21 true), by decide +kernel⟩
def segmentRead : List (Byte × Bool) × State :=
  let v := (w21 false).2.armPubs ((cxOf (segment15 false) (memSpec c7 7)).actor (w21 false).2)
  v.coreRead 0 (v.ordered ((cxOf (segment15 false) (memSpec c7 7)).actor v)) (addrs (held (w21 false) []))
theorem witness_ntld : ∃ f, NodeRow (.ntld 1 2 3 c7) f ∧ Met (segment15 false) f :=
  ⟨_, .ntld 1 2 3 c7 (held (w21 false) []) (w21 false).2 segmentRead.2 segmentRead.1, by decide +kernel, True.intro,
    by decide +kernel, by decide +kernel, by exact held_of (w21 false) [] (ok21 false), by decide +kernel, by decide +kernel,
    by exact pair_of segmentRead _ rfl⟩
theorem witness_ntlock : ∃ f, NodeRow (.ntlock 2 c0) f ∧ Met (regs State.reset [(2, 65535)]) f :=
  ⟨_, .ntlock .., by decide +kernel, True.intro, by dsimp only; decide +kernel⟩
theorem witness_ntunl : ∃ f, NodeRow (.ntunl 2 c0) f ∧ Met (regs State.reset [(2, 65535)]) f :=
  ⟨_, .ntunl .., by decide +kernel, True.intro, by dsimp only; decide +kernel⟩
/-! ### Witnesses: matrix -/

/-- A handle table entry of a dense or compressed tensor. -/
def entry (fmt kp loc addr rows cols pitch soff : Nat) : BitVec 256 :=
  BitVec.ofNat 256 (fmt + kp * 2 ^ 8 + loc * 2 ^ 12 + addr * 2 ^ 64 + rows * 2 ^ 128 + cols * 2 ^ 160 + pitch * 2 ^ 192 + soff * 2 ^ 224)

/-- C of core 0 in the iteration of `paged`, its matrix engine warm: handle 1 is a row of 32 BF16 values at scratchpad address 0, handle 2
a tensor of 128 such rows in the next bank group, handle 3 one of 128 FP32 values at the top of the scratchpad, handle 4 the same in global
memory. -/
def matAt (rs : List (Nat × Nat)) : State :=
  core0 (regs { paged with turn := { core := 0, sq := .C } } rs) fun c =>
    { c with
      ramp := .warm 0, mcr := 0
      handles := (((c.handles.set 1 (entry 4 0 1 0 1 32 64 0) (by decide)).set 2 (entry 4 0 1 0x100000 128 32 64 0) (by decide)).set 3
        (entry 2 0 1 0x3FFE00 1 128 512 0) (by decide)).set 4 (entry 2 0 0 0x20000 1 128 512 0) (by decide) }

theorem witness_mma : ∃ f, MultiplyRow (.mma 1 2 c7) f ∧ Met (matAt [(1, 1), (2, 2)]) f :=
  ⟨_, .mma 1 2 c7 { acct := 0, k := 32, n := 128, acc := some fp32 }, by decide +kernel, by unfold rowsFree; decide +kernel, ⟨0, by decide +kernel⟩,
    rfl, by decide +kernel, by decide +kernel, by decide +kernel, by decide +kernel, by decide +kernel⟩
/-- Core 0's MGANG at its rendezvous, its sources both core 0. -/
def gangAt : State :=
  core0 (matAt []) fun c => { c with gang := some { since := 0, gd := 0, ga := 1, gb := 2, go := .issue 1 2 } }
theorem witness_mgang : ∃ f, MultiplyRow (.mgang 3 1 2 c7) f ∧ Met gangAt f :=
  ⟨_, .mgang 3 1 2 c7 { since := 0, gd := 0, ga := 1, gb := 2, go := .issue 1 2 } 1 2 { acct := 0, k := 32, n := 128, acc := some fp32 },
    by decide +kernel, by unfold rowsFree; decide +kernel, ⟨0, by decide +kernel⟩, by decide +kernel, rfl, rfl⟩
theorem witness_mzero : ∃ f, MultiplyRow (.mzero c7) f ∧ Met (matAt []) f :=
  ⟨_, .mzero c7, by decide +kernel, by unfold rowsFree; decide +kernel, ⟨0, by decide +kernel⟩⟩
theorem witness_mcfg : ∃ f, MultiplyRow (.mcfg 1 c0) f ∧ Met (regs (onTurn .C) [(1, 0x7F7F)]) f :=
  ⟨_, .mcfg .., by decide +kernel, True.intro, by dsimp only; decide +kernel⟩

/-- The last place where MMAS finds its metadata. -/
def sparseAt : State := matAt [(1, 1), (2, 2), (3, 0x3FFB40)]
/-- The state in which a matrix instruction takes effect, its operands' handles read. -/
def matIn (s : State) (sp : Spec) (rs : List Reg) : State :=
  let u := s.settleFor (s.context sp) sp
  ((handlesRead rs (cxOf s sp) u).foldl State.foundOnDie u).popped sp.x
def sparseIn : State := matIn sparseAt { x := c7, minLat := 7 } [1, 2]
def headRead : List Byte × Gather :=
  (gather sparseIn).run sparseIn.turn.core ((cxOf sparseAt { x := c7, minLat := 7 }).actor sparseIn) ((sparseIn.mine.rg 3).toNat, 64)
theorem headRead_is : headRead.1 = List.replicate 64 0 := by decide +kernel

theorem witness_mmas : ∃ f, SparseRow (.mmas 3 1 2 c7) f ∧ Met sparseAt f :=
  ⟨_, .mmas 3 1 2 c7 { acct := 0, k := 32, n := 128, acc := some fp32 } (List.replicate 64 0) headRead.2 0x3FFB40, by decide +kernel,
    by unfold rowsFree; decide +kernel, ⟨0, by decide +kernel⟩, by decide +kernel, rfl, by decide +kernel, by decide +kernel, by decide +kernel,
    by decide +kernel, by decide +kernel, by decide +kernel, by decide +kernel, by exact pair_of headRead _ headRead_is, by decide +kernel,
    by decide +kernel⟩
/-- MDRAIN of one row to the scratchpad, and to global memory with its maximum. -/
def drainAt (d m : Nat) : State := matAt [(1, d), (2, m)]
def drainSpec : Spec := { x := c0, acc := [.mat] }
def drainIn (d m : Nat) : State := matIn (drainAt d m) drainSpec [1]
theorem witness_drainSpad : ∃ f, DrainRow (.mdrain 1 2 3 c0) f ∧ Met (drainAt 3 0) f :=
  ⟨_, .mdrain 1 2 3 c0 [] [] (drainIn 3 0) (drainIn 3 0), by decide +kernel, by unfold rowsFree; decide +kernel,
    by decide +kernel, by decide +kernel, by decide +kernel, by decide +kernel, by exact rfl, by exact rfl⟩
theorem witness_saveSpad : ∃ f, RowMove (.msave 1 2 c0) f ∧ Met (matAt [(1, 0x3F0000), (2, 0x17F7F)]) f :=
  ⟨_, .saveSpad .., by decide +kernel, by unfold rowsFree; decide +kernel, by dsimp only; decide +kernel⟩
theorem witness_loadSpad : ∃ f, RowMove (.mload 1 2 c7) f ∧ Met (matAt [(1, 0x3FFE00), (2, 0x1007F)]) f :=
  ⟨_, .loadSpad .., by decide +kernel, by unfold rowsFree; decide +kernel, by dsimp only; decide +kernel⟩
/-- The runs of MDRAIN and the word of its maximum. -/
def w30 : Except PageFault (List (List (Nat × Nat))) × State :=
  let t := drainIn 4 0x2FFC
  if (operand t 1).loc = 0 then t.translateRuns ((cxOf (drainAt 4 0x2FFC) drainSpec).matActor t) t.turn.core Need.store
    (drainRuns t (operand t 1) (t.mine.rg 1))
  else (.ok [], t)
def w31 : Except PageFault (List (Nat × Nat)) × State :=
  let t := drainIn 4 0x2FFC
  if (t.mine.rg 2).toNat = 0 then (.ok [], w30.2)
  else w30.2.translateBytes ((cxOf (drainAt 4 0x2FFC) drainSpec).matActor t) t.turn.core (w30.2.tenOf t.turn.core) Need.amo
    (t.mine.rg 2).toNat 4
theorem ok30 : good w30 = true ∧ good w31 = true := by decide +kernel
theorem witness_drainMem : ∃ f, DrainRow (.mdrain 1 2 3 c0) f ∧ Met (drainAt 4 0x2FFC) f :=
  ⟨_, .mdrain 1 2 3 c0 (held w30 []) (held w31 []) w30.2 w31.2, by decide +kernel, by unfold rowsFree; decide +kernel,
    by decide +kernel, by decide +kernel, by decide +kernel, by decide +kernel, by exact held_of w30 [] ok30.1,
    by exact held_of w31 [] ok30.2⟩
/-- The translations of MSAVE and MLOAD of one row. -/
def moveAt : State := matAt [(1, 0x2FC0), (2, 0x7F)]
def moveSpec (x : Ctl) (lat : Nat) : Spec := { x := x, minLat := lat, acc := [.mat] }
def moveWalk (sp : Spec) (need : Need) : Except PageFault (List (Nat × Nat)) × State :=
  let t := startOf moveAt sp
  t.translateBytes ((cxOf moveAt sp).matActor t) t.turn.core (t.tenOf t.turn.core) need (t.mine.rg 1).toNat
    (512 * (moveRows (t.mine.rg 2)).length)
def w32 := moveWalk (moveSpec c0 0) Need.store
def w33 := moveWalk (moveSpec c7 7) Need.load
theorem ok32 : good w32 = true ∧ good w33 = true := by decide +kernel
theorem witness_saveMem : ∃ f, RowMove (.msave 1 2 c0) f ∧ Met moveAt f :=
  ⟨_, .saveMem 1 2 c0 (held w32 []) w32.2, by decide +kernel, by unfold rowsFree; decide +kernel, by decide +kernel,
    by decide +kernel, by exact held_of w32 [] ok32.1⟩
theorem witness_loadMem : ∃ f, RowMove (.mload 1 2 c7) f ∧ Met moveAt f :=
  ⟨_, .loadMem 1 2 c7 (held w33 []) w33.2, by decide +kernel, by unfold rowsFree; decide +kernel, by decide +kernel,
    by decide +kernel, by exact held_of w33 [] ok32.2⟩
/-! ### Witnesses: engine commands, tags, charters -/

theorem idle_tags : ∀ q : Sq, ∀ t : BitVec 6, (onTurn q).me.tagPending t = false ∧ (onTurn q).me.unstarted q = 0
    ∧ (onTurn q).turn.sq = q := by
  intro q
  cases q <;> decide +kernel

theorem quiet_turn : ∀ q : Sq, ((onTurn q).settleFor ((onTurn q).context { x := c0, acc := [.core] }) { x := c0, acc := [.core] }).blockedFor
    (cxOf (onTurn q) { x := c0, acc := [.core] }) { x := c0, acc := [.core] } = false := by
  intro q
  cases q <;> decide +kernel

/-- Any command may be submitted to an idle core by a sequencer that may issue it. -/
theorem command_met (q : Sq) (qs : List Sq) (hr : (onTurn q).ready c0 false 0 qs = true) (o : Order) (bad : Cx → State → List Nat) :
    Met (onTurn q) (command c0 qs o bad) := by
  refine ⟨⟨hr, quiet_turn q⟩, ⟨(idle_tags q _).1, ?_⟩, True.intro⟩
  rw [(idle_tags q 0).2.2, (idle_tags q 0).2.1]
  decide

theorem ready_L : (onTurn .L).ready c0 false 0 [.L, .S] = true := by decide +kernel
theorem ready_S : (onTurn .S).ready c0 false 0 [.L, .S] = true := by decide +kernel
theorem ready_X : (onTurn .X).ready c0 false 0 [.X, .L, .S] = true := by decide +kernel

theorem witness_copy (i : Instr) (f : Effect) (h : CopyRow i f) (hx : f.x = c0) : Met (onTurn .L) f := by
  cases h <;> simp only [command] at hx <;> subst hx <;> exact command_met .L _ ready_L _ _
theorem witness_block (i : Instr) (f : Effect) (h : BlockCmdRow i f) (hx : f.x = c0) : Met (onTurn .X) f := by
  cases h <;> simp only [block, command] at hx <;> subst hx <;> exact command_met .X _ ready_X _ _
theorem witness_remote : (∃ f, TransferRow (.rld 1 2 c0) f ∧ Met (onTurn .S) f) ∧ (∃ f, TransferRow (.rst 1 2 c0) f ∧ Met (onTurn .S) f)
    ∧ ∃ f, TransferRow (.ramo 1 2 c0) f ∧ Met (onTurn .S) f :=
  ⟨⟨_, .rld .., command_met .S _ ready_S _ _⟩, ⟨_, .rst .., command_met .S _ ready_S _ _⟩,
    ⟨_, .ramo .., command_met .S _ ready_S _ _⟩⟩
/-- Node 1023 loaded. -/
def nodeAt (e : BitVec 128) : State := core0 (regs (onTurn .L) [(2, 1023)]) fun c => { c with nt := c.nt.set 1023 e (by decide) }
theorem witness_kvld : ∃ f, TransferRow (.kvld 1 2 3 c0) f ∧ Met (nodeAt (1#128 <<< 102)) f :=
  ⟨_, .kvld .., by decide +kernel, by dsimp only [command, kvOrder]; decide +kernel, by dsimp only [command, kvOrder]; decide +kernel⟩
theorem witness_kvst : ∃ f, TransferRow (.kvst 1 2 3 c0) f ∧ Met (nodeAt (1#128 <<< 102 ||| 1#128 <<< 100)) f :=
  ⟨_, .kvst .., by decide +kernel, by dsimp only [command, kvOrder]; decide +kernel, by dsimp only [command, kvOrder]; decide +kernel⟩

/-- Tag 63 DONE, with code `n`. -/
def doneAt (n : BitVec 8) (m : Nat) : State :=
  core0 (regs State.reset [(2, m)]) fun c => { c with tags := 0x8000000000000000, tstat := c.tstat.set 63 n (by decide) }
theorem witness_wtany : ∃ f, TagRow (.wtany 1 2 c0) f ∧ Met (doneAt 2 0x8000000000000001) f :=
  ⟨_, .wtany .., by decide +kernel, by dsimp only; decide +kernel, by dsimp only; unfold noError; decide +kernel⟩
theorem witness_wtall : ∃ f, TagRow (.wtall 1 2 c0) f ∧ Met (doneAt 2 0) f :=
  ⟨_, .wtall .., by decide +kernel, by dsimp only; decide +kernel, by dsimp only; unfold noError; decide +kernel⟩
theorem witness_ffrdyNone : ∃ f, TagRow (.ffrdy 1 2 c0) f ∧ Met (doneAt 2 1) f :=
  ⟨_, .ffrdyNone .., by decide +kernel, True.intro, by dsimp only; decide +kernel⟩
theorem witness_ffrdy : ∃ f, TagRow (.ffrdy 1 2 c0) f ∧ Met (doneAt 8 0x8000000000000001) f :=
  ⟨_, .ffrdy 1 2 c0 63, by decide +kernel, True.intro, by dsimp only; decide +kernel⟩
theorem witness_tagclr : ∃ f, TagRow (.tagclr 2 c0) f ∧ Met (doneAt 8 1) f := ⟨_, .tagclr .., by decide +kernel, True.intro, True.intro⟩
theorem witness_bfwait : ∃ f, TagRow (.bfwait 2 c0) f ∧ Met (regs State.reset [(2, 0x3FFFFFFFFF00)]) f :=
  ⟨_, .bfwait .., by decide +kernel, by dsimp only; decide +kernel, by dsimp only; decide +kernel⟩
/-- A tenancy-0 core that names package 63 in g2, in a pod that has it as a peer. -/
def podAt (w : Nat) : State := { regs State.reset [(2, w)] with fe := { State.reset.fe with qlPod := 0x8000000000000001 } }
theorem witness_charter_noPeer : ∃ f, CharterRow (.charter 1 2 c7) f ∧ Met (podAt 0x100) f :=
  ⟨_, .noPeer .., by decide +kernel, True.intro, by dsimp only; unfold charterFields; decide +kernel⟩
theorem witness_charter_open : ∃ f, CharterRow (.charter 1 2 c7) f
    ∧ Met { podAt 0x1F3F with laneRequests := [{ ten := 0, peer := 63, planes := [0], core := 0, ins := 0 }] } f :=
  ⟨_, .open .., by decide +kernel, True.intro, by dsimp only; unfold charterFields asked; decide +kernel⟩
theorem witness_charter_none : ∃ f, CharterRow (.charter 1 2 c7) f
    ∧ Met { podAt 0x13F with fe := { (podAt 0).fe with lanecap := Vector.replicate 256 0 } } f :=
  ⟨_, .none .., by decide +kernel, True.intro, by dsimp only; unfold charterFields asked; decide +kernel⟩
theorem witness_charter : ∃ f, CharterRow (.charter 1 2 c7) f ∧ Met (podAt 0x1F3F) f :=
  ⟨_, .asks .., by decide +kernel, True.intro, by dsimp only; unfold charterFields asked; decide +kernel⟩
theorem witness_castoff_none : ∃ f, CharterRow (.castoff 1 2 c0) f ∧ Met (podAt 0) f :=
  ⟨_, .castoffNoPeer .., by decide +kernel, True.intro, by dsimp only; unfold charterFields; decide +kernel⟩
theorem witness_castoff : ∃ f, CharterRow (.castoff 1 2 c0) f ∧ Met (podAt 0x3F) f :=
  ⟨_, .castoff .., by decide +kernel, True.intro, by dsimp only; unfold charterFields; decide +kernel⟩
theorem witness_laneq : ∃ f, CharterRow (.laneq 1 2 c0) f ∧ Met (podAt 63) f :=
  ⟨_, .laneq .., by decide +kernel, True.intro, by dsimp only; decide +kernel⟩
/-! ### Witnesses: events of a core -/

/-- Core 0 changed, in cycle `n`. -/
def inCycle (n : Nat) (s : State) (f : Core → Core) : State := { core0 s f with cycle := n }

/-- A result of L for the last general register, alone in flight. -/
def result : Flight :=
  { id := 3, ins := 3, sq := .L, dest := .g 31, value := 0, en := BitVec.allOnes 512, flags := 0, issued := 4, bound := some 6, waits := false
    notBefore := 0, push := none, matrix := false }
theorem witness_landing : ∃ e, TrapEvent (.resultLanding 0 3) e ∧ Comes (inCycle 5 State.reset fun c => { c with flights := [result] }) e :=
  ⟨_, .landing 0 result _, rfl, by decide +kernel, by decide +kernel, by decide +kernel⟩
theorem witness_landingEarlier : ∃ e, TrapEvent (.resultLanding 0 3) e
    ∧ Comes (inCycle 5 State.reset fun c => { c with flights := [result, { result with id := 4, dest := .g 30 }] }) e :=
  ⟨_, .landingEarlier 0 result { result with id := 4, dest := .g 30 } _, rfl, by decide +kernel, by decide +kernel, by decide +kernel,
    by decide +kernel, by decide +kernel⟩
/-- X, and L where it has not ended, wait for tokens that nobody can push any more. -/
def dead (ph : TapePhase) (xEnded : Bool) : State :=
  inCycle 5 paged fun c =>
    { c.modSeqs fun q v => { v with ended := q == .C || q == .S || (q == .X && xEnded), wait := .token, tried := 6, since := some 1 } with tapePhase := ph }
theorem witness_tokdead : ∃ e, TrapEvent (.tokdead 0) e ∧ Comes (dead .free false) e :=
  ⟨_, .tokdead 0 .X, by dsimp only [Comes]; decide +kernel⟩
theorem witness_tokdeadReplay : ∃ e, TrapEvent (.tokdead 0) e ∧ Comes (dead .replaying true) e :=
  ⟨_, .tokdeadReplay 0 .L, by dsimp only [Comes]; decide +kernel⟩
theorem witness_illegal : ∃ e, TrapEvent .illegalEncoding e ∧ Comes State.reset e := ⟨_, .illegal, by dsimp only [Comes]; decide +kernel⟩
/-- S took TRAP in cycle 4. -/
def trapStop : Stop := { sq := .S, cause := 14, det := 0, va := 7, cycle := 4 }
def stopping (vec : Word) : State := inCycle 5 paged fun c => { c with stop := some trapStop, trapvec := vec }
theorem stopping_settled (vec : Word) (h : vec = 0 ∨ vec = 0x1000) : settled (stopping vec) ((stopping vec).core 0) trapStop := by
  rcases h with h | h <;> subst h <;>
    exact ⟨by decide +kernel, by decide +kernel, by decide +kernel, by decide +kernel, by decide +kernel, by decide +kernel⟩
theorem witness_enter : ∃ e, TrapEvent (.trapModeEntry 0) e ∧ Comes (stopping 0x1000) e :=
  ⟨_, .enter 0 trapStop, stopping_settled _ (.inr rfl), by decide +kernel, by decide +kernel⟩
theorem witness_noVector : ∃ e, TrapEvent (.trapModeEntry 0) e ∧ Comes (stopping 0) e :=
  ⟨_, .noVector 0 trapStop { launch := 0, tuple := 0, ten := 0, tape := none, started := true } placeLaunch, stopping_settled _ (.inl rfl),
    by decide +kernel⟩
/-- A predicate in the snapshot buffer, one cycle before it lands. -/
def snapped : SnapEntry :=
  { sq := .C, dest := .p 7, value := 1, en := BitVec.allOnes 512, flags := 0, pushF := true, pushB := true, know := Know.none, waits := false, ins := 0
    off := 12 }
theorem witness_snapshot : ∃ e, TrapEvent (.snapshotLand 0 0) e
    ∧ Comes (inCycle 21 State.reset fun c => { c with snap := [snapped], resumeAt := 10 }) e :=
  ⟨_, .snapshot 0 0 snapped, by dsimp only [Comes]; decide +kernel⟩
theorem witness_snapshotBad : ∃ e, TrapEvent (.snapshotLand 0 0) e
    ∧ Comes (inCycle 21 State.reset fun c => { c with snap := [{ snapped with bad := true }], resumeAt := 10 }) e :=
  ⟨_, .snapshotBad 0 0 { snapped with bad := true }, by dsimp only [Comes]; decide +kernel⟩

theorem witness_warm : ∃ e, MatrixEvent (.rampEnd 0) e ∧ Comes (inCycle 36 State.reset fun c => { c with ramp := .ramping 4 }) e :=
  ⟨_, .warm 0 4, by dsimp only [Comes]; decide +kernel⟩
theorem witness_cold : ∃ e, MatrixEvent (.matrixEngineCold 0) e ∧ Comes (inCycle 261 State.reset fun c => { c with ramp := .warm 4 }) e :=
  ⟨_, .cold 0 4, by dsimp only [Comes]; decide +kernel⟩
/-- Core 0 asked for a ramp. -/
def asking : State := inCycle 36 State.reset fun c => { c with ramp := .requested 4 }
theorem reset_ramp (m : CoreId) : (State.reset.core m).ramp = .cold := by
  show ((Vector.replicate 256 Core.reset)[m.val]).ramp = .cold
  rw [Vector.getElem_replicate]
  rfl
theorem asking_only (m : CoreId) : m = 0 ∨ (asking.core m).ramp = .cold := by
  by_cases h : m = 0
  · exact .inl h
  · right
    show ((State.reset.modCore 0 fun c => { c with ramp := .requested 4 }).core m).ramp = .cold
    rw [core_modCore_ne _ _ h]
    exact reset_ramp m
theorem witness_grant : ∃ e, MatrixEvent (.rampGrant 0) e ∧ Comes asking e := by
  refine ⟨_, .grant 0 4, by decide +kernel, by decide +kernel, fun m v _ h => ?_⟩
  rcases asking_only m with e | e
  · subst e
    have k : (asking.core 0).ramp = .requested 4 := by decide +kernel
    rw [k] at h
    cases h
    exact .inr ⟨rfl, Nat.le_refl _⟩
  · rw [e] at h
    cases h
/-- Core 0's MGANG, of its own core alone or of a column that does not exist. -/
def gangWith (gd : Word) (f : Core → Core := id) : State :=
  inCycle 5 (matAt []) fun c => f { c.modSeq .C (fun v => { v with ended := false }) with gang := some { since := 0, gd := gd, ga := 1, gb := 2, go := .wait } }
theorem witness_noGang : ∃ e, MatrixEvent (.gangRendezvous 0) e ∧ Comes (gangWith 0x1000) e :=
  ⟨_, .noGang 0 { since := 0, gd := 0x1000, ga := 1, gb := 2, go := .wait }, by decide +kernel, by decide +kernel, by decide +kernel,
    .inl (by decide +kernel)⟩
theorem witness_gang : ∃ e, MatrixEvent (.gangRendezvous 0) e ∧ Comes (gangWith 0) e :=
  ⟨_, .gang 0 { since := 0, gd := 0, ga := 1, gb := 2, go := .wait }, by decide +kernel, by decide +kernel, by decide +kernel,
    by decide +kernel, by decide +kernel⟩
theorem witness_gangtime : ∃ e, MatrixEvent (.gangtimeExpiry 0) e ∧ Comes { gangWith 0x40 with cycle := 2 ^ 20 } e :=
  ⟨_, .gangtime 0 { since := 0, gd := 0x40, ga := 1, gb := 2, go := .wait }, by dsimp only [Comes]; decide +kernel⟩
def lastOne : MatWrite := { id := 9, drain := true, flags := 0x3F, push := none, know := Know.none, ten := 0, issued := 4 }
theorem witness_lastWrite : ∃ e, MatrixEvent (.lastWritePerformed 0 9) e
    ∧ Comes (inCycle 5 State.reset fun c => { c with matWrites := [lastOne] }) e :=
  ⟨_, .lastWrite 0 lastOne, by dsimp only [Comes]; decide +kernel⟩
/-- The maximum of an MDRAIN on its way to its bank. -/
def maximum : HeldAccess :=
  { who := some { core := 0, sq := .C }, cls := .mat, stamp := 9, know := Know.none, port := none, bytes := [(0x40002FFC, 0)], va := 0x2FFC
    kind := 2, data := toBytes 8 5 ++ toBytes 8 0, op := 34, sz := 2, ten := 0, acq := false, rel := none, parts := [], far := none
    peer := none }
def bankStep : AtomicRead × State :=
  State.bankStep State.reset maximum.actor none maximum.ten maximum.op maximum.sz maximum.pa (ofBytes (maximum.data.take (2 ^ maximum.sz)))
    (ofBytes ((maximum.data.drop 8).take (2 ^ maximum.sz)))
theorem witness_bankAlu : ∃ e, MatrixEvent (.bankAluOp 9) e ∧ Comes { State.reset with pending := [maximum] } e :=
  ⟨_, .bankAlu maximum { core := 0, sq := .C } bankStep.1 bankStep.2, by decide +kernel, by decide +kernel, by decide +kernel,
    by decide +kernel, by decide +kernel, by decide +kernel, by decide +kernel, by decide +kernel, by decide +kernel, by decide +kernel,
    by exact rfl, by decide +kernel⟩
theorem witness_bankPending : ∃ e, MatrixEvent (.bankAluOp 9) e ∧ Comes { State.reset with pending := [maximum] } e :=
  ⟨_, .bankPending maximum, by dsimp only [Comes]; decide +kernel⟩

/-- An iteration that has not started, and one that has ended. -/
def unstarted : State := inCycle 5 paged fun c => { c with iter := c.iter.map fun i => { i with started := false }, lastLaunch := some 0 }
theorem witness_start : ∃ e, IterationEvent (.iterationStart 0) e ∧ Comes unstarted e :=
  ⟨_, .start 0 { running with started := false } placeLaunch, by dsimp only [Comes]; decide +kernel⟩
def endedAt (l : Launch) : State :=
  { inCycle 5 paged (fun c => c.modSeqs fun _ v => { v with ended := true }) with launches := [l] }
theorem witness_finish : ∃ e, IterationEvent (.iterationFinish 0) e ∧ Comes (endedAt { placeLaunch with count := 2 }) e :=
  ⟨_, .finish 0 running { placeLaunch with count := 2 }, by dsimp only [Comes]; decide +kernel⟩
theorem witness_finishLast : ∃ e, IterationEvent (.iterationFinish 0) e ∧ Comes (endedAt placeLaunch) e :=
  ⟨_, .finishLast 0 running placeLaunch, by dsimp only [Comes]; decide +kernel⟩
theorem witness_barrier : ∃ e, IterationEvent (.barrierRelease 0) e ∧ Comes (endedAt { placeLaunch with arrived := [(0, 1)] }) e :=
  ⟨_, .barrier { placeLaunch with arrived := [(0, 1)] }, by dsimp only [Comes]; decide +kernel⟩
/-- Launch 1, of level 7, has waited for core 0 for PRE_WAIT. -/
def wanting : Launch := { placeLaunch with id := 1, level := 7, next := 0, waitFrom := some 0, members := [] }
def preempting : State := { inCycle 1750 paged id with time := timeUnit, fe := { State.reset.fe with preWait := 1 }, launches := [placeLaunch, wanting] }
theorem witness_request : ∃ e, IterationEvent (.preemptRequest 1 0) e ∧ Comes preempting e :=
  ⟨_, .request 0 wanting, by dsimp only [Comes]; decide +kernel⟩
theorem witness_withdraw : ∃ e, IterationEvent (.preemptWithdraw 0) e
    ∧ Comes (inCycle (2 ^ 20) State.reset fun c => { c with preempt := some { launch := 1, cycle := 0, capture := none } }) e :=
  ⟨_, .withdraw 0 { launch := 1, cycle := 0, capture := none }, by dsimp only [Comes]; decide +kernel⟩

theorem witness_finishWaits : ∃ e, IterationEvent (.iterationFinish 0) e
    ∧ Comes (core0 (endedAt placeLaunch) fun c => { c with pend := [{ cls := .core, sq := .X, id := 9 }] }) e :=
  ⟨_, .finishWaits 0 { launch := 0, tuple := 0, ten := 0, tape := none, started := true }, by decide +kernel, by decide +kernel,
    by decide +kernel⟩
/-- Core 0 has drained for a request, its context slot at `va`. -/
def taking (va : Word) : State :=
  let s := inCycle 9 paged fun c =>
    { c.modSeqs fun q v => { v with ended := q != .X, lastSafe := some 0 } with preempt := some { launch := 1, cycle := 0, capture := some 4 } }
  { s with tens := s.tens.set 0 { s.tens.get 0 with ctxbase := va } (by decide) }
def iterNow : Iter := { launch := 0, tuple := 0, ten := 0, tape := none, started := true }
theorem taking_may (va : Word) (h : va = 0x40000000 ∨ va = 0x20000) : mayTake (taking va) 0 iterNow 4 := by
  rcases h with h | h <;> subst h <;>
    exact ⟨by decide +kernel, by decide +kernel, by decide +kernel, by decide +kernel, by decide +kernel, by decide +kernel⟩
def faulting : Except PageFault (List (Nat × Byte)) × State := imagePlaced (taking 0x40000000) 0 iterNow 4
theorem fails_of {ε α σ : Type} (r : Except ε α × σ) (h : good r = false) : ∃ f, r = (.error f, r.2) := by
  obtain ⟨v, s⟩ := r
  cases v with
  | ok v => cases h
  | error e => exact ⟨e, rfl⟩
theorem witness_takeFault : ∃ e, IterationEvent (.preemptTake 0) e ∧ Comes (taking 0x40000000) e := by
  obtain ⟨f, h⟩ := fails_of faulting (by decide +kernel)
  exact ⟨_, .takeFault 0 iterNow 4 f faulting.2, taking_may _ (.inl rfl), h⟩
def imageOut : Except PageFault (List (Nat × Byte)) × State := imagePlaced (taking 0x20000) 0 iterNow 4
/-- With no sector marked every sector reads as it is stored. -/
theorem checkSectors_clean (s : State) (h : s.mem.marks = []) : ∀ ks, s.checkSectors ks = ([], s)
  | [] => rfl
  | k :: ks => by
    have e : s.checkSector k = (.good, s) := by simp [State.checkSector, h]
    simp [State.checkSectors, e, checkSectors_clean s h ks]
theorem image_good : good imageOut = true ∧ imageOut.2.mem.marks = [] := by decide +kernel
theorem witness_take : ∃ e, IterationEvent (.preemptTake 0) e ∧ Comes (taking 0x20000) e :=
  ⟨_, .take 0 iterNow 4 (held imageOut []) imageOut.2 imageOut.2 _ [], taking_may _ (.inr rfl), held_of imageOut [] image_good.1,
    checkSectors_clean _ image_good.2 _, rfl, rfl⟩
/-- Core 0's suspended iteration may be resumed, its context slot at an address that nothing maps. -/
def kept0 : Suspended :=
  { iter := iterNow, forLaunch := 1, given := true, tapePhase := .free, tapeBegun := none, tapeEnded := false, barCount := 0, gangCount := 0
    arb := [], vwb := 0, ntlocks := 0, ntrefs := [], tokens := Vector.replicate 8 [], seqs := [] }
def resuming : State :=
  let s := inCycle 9 paged fun c => { c with iter := none, suspended := some kept0 }
  { s with tens := s.tens.set 0 { s.tens.get 0 with ctxbase := 0x40000000 } (by decide) }
def lostHead : Except PageFault (List Byte × Option Nat) × State :=
  let w := relocked resuming 0 kept0
  w.readVa { who := none, cls := .core, stamp := w.stamp, know := Know.none } 0 kept0.iter.ten (w.slotOf kept0.iter.ten 0) 256
theorem witness_resumeLost : ∃ e, IterationEvent (.iterationResume 0) e ∧ Comes resuming e := by
  obtain ⟨f, h⟩ := fails_of lostHead (by decide +kernel)
  exact ⟨_, .resumeLost 0 kept0 f lostHead.2 placeLaunch, by decide +kernel, by decide +kernel, by decide +kernel, h, by decide +kernel,
    by decide +kernel⟩

/-- A marker entry that L may replay, and a command entry. -/
def marker : TapeEntry := { w := 0, stream := .L, marker := true, interlocked := true, ops := [] }
def replaying (e : TapeEntry) : State :=
  inCycle 5 paged fun c => { c.modSeq .L (fun v => { v with ended := false }) with tapePhase := .replaying, replayTape := some { Tape.blank with st := .valid, entries := [e] } }
theorem witness_marker : ∃ e, ReplayEvent (.replayEntryIssue 0 .L) e ∧ Comes (replaying marker) e :=
  ⟨_, .marker 0 .L marker { Tape.blank with st := .valid, entries := [marker] }, by dsimp only [Comes]; decide +kernel⟩
theorem witness_poisonedEntry : ∃ e, ReplayEvent (.replayEntryIssue 0 .L) e ∧ Comes (core0 (replaying marker) fun c =>
    { c with iter := some { iterNow with tape := some 3 }, tapeBad := [(3, 0)] }) e :=
  ⟨_, .poisoned 0 .L marker, by dsimp only [Comes]; decide +kernel⟩
/-! ### Witnesses: front end, registers, host, migration, platform -/

/-- The front end up, tenancy 0 on, queue 255 enabled for it with the packets `ps`. -/
def upAt (ps : List Packet) (f : FeRegs → FeRegs := id) : State :=
  { paged with
    fe := f { State.reset.fe with feStat := 0x80000000, feErr := 0 }
    queues := paged.queues.set 255 { cfg := 1, packets := ps, waitFrom := 0, past := [] } (by decide) }
/-- A packet at its head. -/
def pkt (op : Nat) : Packet := { placeLaunch.packet with num := 1, op := op, queue := 255 }
/-- A LAUNCH packet as a portal receives it. -/
def packetBytes : List Byte := [1, 0, 255] ++ List.replicate 61 0

theorem witness_portal_none : ∃ e, PortalEvent (.portalDmw 255 1 packetBytes) e ∧ Comes (upAt []) e :=
  ⟨_, .noPacket .., by dsimp only [Comes]; decide +kernel⟩
theorem witness_portal_down : ∃ e, PortalEvent (.portalDmw 0 0 packetBytes) e ∧ Comes (upAt [] fun r => { r with feStat := 0xC0000000 }) e :=
  ⟨_, .down .., by dsimp only [Comes]; unfold up; decide +kernel⟩
theorem witness_portal_full : ∃ e, PortalEvent (.portalDmw 0 0 packetBytes) e ∧ Comes (upAt (List.replicate 64 (pkt 1))) e :=
  ⟨_, .full .., by dsimp only [Comes]; unfold up; decide +kernel⟩
theorem witness_portal_taken : ∃ e, PortalEvent (.portalDmw 0 0 packetBytes) e ∧ Comes (upAt (List.replicate 63 (pkt 1))) e :=
  ⟨_, .taken .., by dsimp only [Comes]; unfold up; decide +kernel⟩
theorem witness_portal_posted : ∃ e, PortalEvent (.portalPostedWrite 255) e ∧ Comes State.reset e := ⟨_, .posted .., by dsimp only [Comes]; decide⟩

theorem witness_serial : ∃ e, DispatchEvent (.serialWaitEnd 255) e ∧ Comes (upAt [{ pkt 1 with serial := true }]) e :=
  ⟨_, .serial 255 { pkt 1 with serial := true } [], by dsimp only [Comes]; unfold headed; decide +kernel⟩
theorem witness_mark : ∃ e, DispatchEvent (.markComplete 255) e ∧ Comes (upAt [pkt 3]) e :=
  ⟨_, .mark 255 (pkt 3) [], by dsimp only [Comes]; unfold headed up; decide +kernel⟩
/-- What COPY's descriptor, of zeros, reads as. -/
def copyArg (f : FeRegs → FeRegs := id) (p : Packet := { pkt 2 with arg := 0x20000 }) : Except (Nat × Nat) (List Byte) × State :=
  (queued (upAt [p] f) 255 []).readArg p.ten p.arg.toNat 32
theorem copyArg_ok : good (copyArg) = true ∧ recNat (held copyArg []) 24 8 = 0 ∧ recNat (held copyArg []) 16 8 ≤ 2 ^ 40 := by decide +kernel
theorem witness_copyBegin : ∃ e, DispatchEvent (.copyBegin 255) e ∧ Comes (upAt [{ pkt 2 with arg := 0x20000 }]) e :=
  ⟨_, .copyBegin 255 { pkt 2 with arg := 0x20000 } [] (held copyArg []) copyArg.2,
    ⟨by decide +kernel, by decide +kernel⟩, rfl, rfl, ⟨by decide +kernel, by decide +kernel⟩, held_of copyArg [] copyArg_ok.1, copyArg_ok.2⟩
/-- A copy that has begun. -/
def job (n : Nat) : CopyJob := { id := 7, packet := pkt 2, src := 0x20000, dst := 0x30000, len := n, todo := some [] }
theorem witness_copyNone : ∃ e, DispatchEvent (.copyComplete 7) e ∧ Comes { upAt [] with copies := [job 0] } e :=
  ⟨_, .copyNone (job 0), by dsimp only [Comes]; decide +kernel⟩
/-- One with bytes still to write, and one that has met a fault. -/
theorem witness_copyWrites : ∃ e, DispatchEvent (.copyComplete 7) e
    ∧ Comes { upAt [] with copies := [{ job 2 with got := [(0x40000006, 1), (0x40000007, 2)] }] } e :=
  ⟨_, .copyWrites { job 2 with got := [(0x40000006, 1), (0x40000007, 2)] } 0x8000000, by dsimp only [Comes]; decide +kernel⟩
theorem witness_copyFails : ∃ e, DispatchEvent (.copyComplete 7) e ∧ Comes { upAt [] with copies := [{ job 2 with errs := [(3, 0x30000)] }] } e :=
  ⟨_, .copyFails { job 2 with errs := [(3, 0x30000)] } (3, 0x30000), by dsimp only [Comes]; decide +kernel⟩
/-- One that has not been planned, of no byte, and one whose last granule is to be read. -/
def planning : CopyJob := { job 0 with todo := none }
def planned : (List (Option Nat) × List PageFault × State) × List (Option Nat) × List PageFault × State :=
  let s := { upAt [] with copies := [planning] }
  let a := s.copyUnits planning.packet.ten Need.load (planning.len / 65536 + 2) planning.src.toNat planning.len
  (a, a.2.2.copyUnits planning.packet.ten Need.store (planning.len / 65536 + 2) planning.dst.toNat planning.len)
theorem witness_copyPlanned : ∃ e, DispatchEvent (.copyComplete 7) e ∧ Comes { upAt [] with copies := [planning] } e :=
  ⟨_, .copyPlanned planning planned.1.1 planned.2.1 planned.1.2.1 planned.2.2.1 planned.1.2.2 planned.2.2.2, by decide +kernel,
    by decide +kernel, by exact rfl, by exact rfl, by decide +kernel⟩
def partCopied : CopyJob := { job 2 with todo := some [(0, 0x40000006, 0x50000000), (1, 0x40000007, 0x50000001)] }
def partRead : List (Byte × Bool) × State :=
  State.readAs { upAt [] with copies := [partCopied] } partCopied.actor [0x40000006, 0x40000007]
theorem witness_copyReads : ∃ e, DispatchEvent (.copyComplete 7) e ∧ Comes { upAt [] with copies := [partCopied] } e :=
  ⟨_, .copyReads partCopied (0, 0x40000006, 0x50000000) [(1, 0x40000007, 0x50000001)] partRead.1 partRead.2, by decide +kernel,
    by decide +kernel, by decide +kernel, by exact pair_of partRead _ rfl, by decide +kernel, by decide +kernel⟩
/-- A LAUNCH whose record stands at an address that is not canonical. -/
def badLaunch : Packet := { pkt 1 with arg := 0x1000000000000000 }
def judged : Except (Nat × Nat) Candidate × State := (upAt [badLaunch]).judgeLaunch badLaunch
/-- An answer that is a fault. -/
theorem failed_of {α σ : Type} (r : Except (Nat × Nat) α × σ) (h : good r = false) : ∃ a b, r = (.error (a, b), r.2) := by
  obtain ⟨v, s⟩ := r
  cases v with
  | ok v => cases h
  | error e => exact ⟨e.1, e.2, rfl⟩
theorem judged_bad : good judged = false := by decide +kernel
theorem judged_rest : judged.2.queues = (upAt [badLaunch]).queues ∧ judged.2.storeClk = (upAt [badLaunch]).storeClk := ⟨rfl, rfl⟩
theorem witness_rejected : ∃ e, DispatchEvent (.launchAtHead 255) e ∧ Comes (upAt [badLaunch]) e := by
  obtain ⟨a, b, h⟩ := failed_of judged judged_bad
  exact ⟨_, .rejected 255 badLaunch [] a b judged.2, ⟨rfl, rfl⟩, rfl, rfl, rfl, ⟨rfl, rfl⟩, h, judged_rest.1, judged_rest.2⟩
theorem witness_ageing : ∃ e, DispatchEvent .ageingCheck e ∧ Comes State.reset e := ⟨_, .ageing, True.intro⟩
theorem witness_handout : ∃ e, DispatchEvent (.tupleHandout 0) e
    ∧ Comes { core0 paged (fun c => { c with iter := none }) with launches := [{ placeLaunch with next := 0 }] } e :=
  ⟨_, .handout { placeLaunch with next := 0 } 0, by dsimp only [Comes]; decide +kernel⟩
theorem witness_handoutWaits : ∃ e, DispatchEvent (.tupleHandout 0) e ∧ Comes { paged with launches := [{ placeLaunch with next := 0 }] } e :=
  ⟨_, .handoutWaits { placeLaunch with next := 0 }, by dsimp only [Comes]; decide +kernel⟩
/-- A LAUNCH that may be dispatched. -/
def ready : State :=
  { upAt [{ pkt 1 with record := some { bytes := List.replicate 128 0, looptab := List.replicate 64 0, pvec := [], rate := { num := 0, den := 1 } } }] with launches := [] }
theorem witness_dispatch : ∃ e, DispatchEvent .dispatchDecision e ∧ Comes ready e :=
  ⟨_, .dispatch 255 { pkt 1 with record := some { bytes := List.replicate 128 0, looptab := List.replicate 64 0, pvec := [], rate := { num := 0, den := 1 } } } []
      { bytes := List.replicate 128 0, looptab := List.replicate 64 0, pvec := [], rate := { num := 0, den := 1 } },
    by decide +kernel, ⟨by decide +kernel, by decide +kernel⟩, by decide +kernel, by decide +kernel, ⟨by decide +kernel, by decide +kernel⟩,
    rfl, .inl rfl⟩

theorem witness_qcfg : ∃ e, RegisterEvent (.qcfgWrite 255 0xFF00D) e ∧ Comes (upAt []) e :=
  ⟨_, .qcfg .., by dsimp only [Comes]; decide +kernel⟩
theorem witness_tencfgOff : ∃ e, RegisterEvent (.tencfgWrite 255 0) e ∧ Comes (upAt []) e := ⟨_, .tencfgOff .., by dsimp only [Comes]; decide +kernel⟩
theorem witness_tencfgBusy : ∃ e, RegisterEvent (.tencfgWrite 0 1) e ∧ Comes (upAt []) e := ⟨_, .tencfgBusy .., by dsimp only [Comes]; decide +kernel⟩
theorem witness_siPtr : (∃ e, RegisterEvent (.siPtrWrite 7 0) e ∧ Comes State.reset e) ∧ ∃ e, RegisterEvent (.siPtrWrite 7 0) e ∧ Comes (upAt []) e :=
  ⟨⟨_, .siPtrOff .., by dsimp only [Comes]; decide +kernel⟩, _, .siPtrBusy .., by dsimp only [Comes]; decide +kernel⟩
theorem witness_pdPtr : (∃ e, RegisterEvent (.pdPtrWrite 7 0) e ∧ Comes State.reset e) ∧ ∃ e, RegisterEvent (.pdPtrWrite 7 0) e ∧ Comes (upAt []) e :=
  ⟨⟨_, .pdPtrOff .., by dsimp only [Comes]; decide +kernel⟩, _, .pdPtrBusy .., by dsimp only [Comes]; decide +kernel⟩
theorem witness_feErr : (∃ e, RegisterEvent (.feErrWrite 0) e ∧ Comes State.reset e) ∧ ∃ e, RegisterEvent (.feErrWrite 1) e ∧ Comes State.reset e :=
  ⟨⟨_, .feErrClear, True.intro⟩, _, .feErrOther 1, by dsimp only [Comes]; decide +kernel⟩
theorem witness_qlPod : ∃ e, RegisterEvent (.qlPodWrite 3) e ∧ Comes State.reset e := ⟨_, .qlPod .., by dsimp only [Comes]; decide +kernel⟩
theorem witness_preWait : (∃ e, RegisterEvent (.registerWrite 0x180 65535) e ∧ Comes State.reset e)
    ∧ ∃ e, RegisterEvent (.registerWrite 0x180 65536) e ∧ Comes State.reset e :=
  ⟨⟨_, .preWait .., by dsimp only [Comes]; decide +kernel⟩, _, .preWaitWide .., by dsimp only [Comes]; decide +kernel⟩
theorem witness_readOnly : (∃ e, RegisterEvent (.registerWrite 0x8 1) e ∧ Comes State.reset e)
    ∧ ∃ e, RegisterEvent (.registerWrite 0x8 1) e ∧ Comes (upAt [] fun r => { r with feErr := 0x82000000 }) e :=
  ⟨⟨_, .readOnly .., by dsimp only [Comes]; decide +kernel⟩, _, .kept .., by dsimp only [Comes]; decide +kernel⟩
theorem witness_tlbi : (∃ e, RegisterEvent (.tlbiPage 1) e ∧ Comes State.reset e) ∧ (∃ e, RegisterEvent (.tlbiTenancy 0xFF0005) e ∧ Comes State.reset e)
    ∧ ∃ e, RegisterEvent (.tlbiAll 9) e ∧ Comes State.reset e :=
  ⟨⟨_, .tlbi 1 0 _ (.inl ⟨rfl, rfl⟩), by dsimp only [Comes]; decide +kernel⟩,
    ⟨_, .tlbi 0xFF0005 1 _ (.inr (.inl ⟨rfl, rfl⟩)), by dsimp only [Comes]; decide +kernel⟩,
    _, .tlbi 9 2 _ (.inr (.inr ⟨rfl, rfl⟩)), by dsimp only [Comes]; decide +kernel⟩
theorem witness_tlbiDone : ∃ e, RegisterEvent .tlbiComplete e ∧ Comes (upAt [] fun r => { r with tlbiCtl := 0x80000008 }) e :=
  ⟨_, .tlbiDone, by dsimp only [Comes]; decide +kernel⟩
/-- Pages to be moved. -/
def moves : State := upAt [] fun r => { r with migSrc := 0x50000000, migDst := 0x60000000, qlPod := 0x8000000000000001 }
theorem witness_migGo : (∃ e, RegisterEvent (.migGo 1) e ∧ Comes moves e) ∧ ∃ e, RegisterEvent (.migGoXp 0x3F200001) e ∧ Comes moves e :=
  ⟨⟨_, .migGo .., by dsimp only [Comes]; decide +kernel⟩, _, .migGoXp .., by dsimp only [Comes]; decide +kernel⟩

/-- A read of the last byte of package memory by the host's last port. -/
def hostRead : List ByteRead × State :=
  (reading State.reset 1).readCells ((reading State.reset 1).ordered { Actor.host with stamp := State.reset.stamp })
    ((List.range 1).map fun i => 2 ^ 39 - 1 + i)
theorem witness_hostRead : ∃ e, HostEvent (.hostMemRead ⟨1, 2 ^ 39 - 1⟩ 1) e ∧ Comes State.reset e :=
  ⟨_, .read 1 (2 ^ 39 - 1) 1 hostRead.1 hostRead.2, by decide, by decide, by decide, by decide, ⟨by decide +kernel, by decide +kernel, by decide +kernel⟩,
    by decide +kernel, by exact pair_of hostRead _ rfl, by decide +kernel, by decide +kernel⟩
theorem witness_hostReads : ∃ e, HostEvent (.hostMemRead ⟨1, 2 ^ 39 - 9⟩ 9) e ∧ Comes State.reset e :=
  ⟨_, .reads .., by decide, by decide, by decide, by decide +kernel, by decide +kernel, by decide +kernel⟩
theorem witness_hostWrite : (∃ e, HostEvent (.hostMemWrite ⟨0, 2 ^ 39 - 1⟩ ⟨[7], false⟩) e ∧ Comes State.reset e)
    ∧ (∃ e, HostEvent (.hostMemWrite ⟨0, 2 ^ 39 - 1⟩ ⟨[7], true⟩) e ∧ Comes State.reset e)
    ∧ ∃ e, HostEvent (.hostMemWrite ⟨0, 2 ^ 39 - 9⟩ ⟨[7, 8], true⟩) e ∧ Comes State.reset e :=
  ⟨⟨_, .write .., by decide, by decide, by decide, by decide, by decide +kernel, by decide +kernel, by decide +kernel⟩,
    ⟨_, .writePoisoned .., by decide, by decide, by decide, by decide, by decide +kernel, by decide +kernel, by decide +kernel⟩,
    _, .writes .., by decide, by decide, by decide, ⟨by decide +kernel, by decide +kernel, by decide +kernel⟩, by decide +kernel⟩
theorem witness_hostRegister : (∃ e, HostEvent (.hostMemRead ⟨0, regBase + 0x1ffffc⟩ 4) e ∧ Comes State.reset e)
    ∧ ∃ e, HostEvent (.hostMemWrite ⟨1, regBase + 0x180⟩ ⟨List.replicate 8 0, false⟩) e ∧ Comes State.reset e :=
  ⟨⟨_, .readRegister .., by dsimp only [Comes]; decide +kernel⟩, _, .writeRegister .., by dsimp only [Comes]; decide +kernel⟩
/-- The host's window on. -/
def window : State := upAt [] fun r => { r with hostwinSize := 1 }
def snooped : List (Byte × Bool) × State := window.readAs Actor.host ((List.range 256).map fun i => (hostBase + 255) / 256 * 256 + i)
theorem witness_snoop : ∃ e, HostEvent (.hostSnoop (hostBase + 255) ⟨[7], true⟩) e ∧ Comes window e :=
  ⟨_, .snoop (hostBase + 255) [7] true snooped.1 snooped.2, by decide +kernel, by decide +kernel, pair_of snooped _ rfl⟩
def scrubAt : State := upAt [] fun r => { r with scrubPeriod := 1 }
theorem witness_scrub : ∃ e, HostEvent (.scrub 0) e ∧ Comes scrubAt e :=
  ⟨_, .scrub 0 (scrubAt.checkSector (0 / 32)).1 (scrubAt.checkSector (0 / 32)).2, by decide +kernel, by decide +kernel, rfl⟩
theorem witness_hold : ∃ e, HostEvent (.rwHoldExpiry 3 0) e ∧ Comes State.reset e := ⟨_, .hold .., True.intro⟩

/-- A page being moved, and its stub. -/
def moving0 : Migration := { k := 21, src := 0x50000000, dst := 0x60000000, ten := 0, xp := none, copied := false, held := [] }
theorem witness_copied : ∃ e, MigrationEvent .migrationCopyDone e ∧ Comes { State.reset with migration := some moving0 } e :=
  ⟨_, .copied moving0, by dsimp only [Comes]; decide +kernel⟩
/-- An access that a stub holds. -/
def waitingRead : HeldAccess :=
  { who := some { core := 0, sq := .X }, cls := .core, stamp := 1, know := Know.none, port := none, bytes := [(0x50000007, 0)], va := 0
    kind := 0, data := [], op := 0, sz := 0, ten := 0, acq := false, rel := none, parts := [], far := none, peer := none }
def stubAt (xp : Option Nat) (hs : List HeldAccess) (inv : Bool) : Stub :=
  { k := 21, src := 0x50000000, dst := 0x60000000, ten := 0, xp := xp, held := hs, flying := [], invalidating := false, invalidated := inv }
theorem witness_forward : ∃ e, MigrationEvent (.stubForward 0) e ∧ Comes { State.reset with stubs := [stubAt (some 63) [waitingRead] false] } e :=
  ⟨_, .forward 0 (stubAt (some 63) [waitingRead] false) waitingRead [] 63, by dsimp only [Comes]; decide +kernel⟩
/-- Without its head. -/
def forwarding : State :=
  { State.reset with stubs := [stubAt none [waitingRead] false].modify 0 fun u => { u with held := [] } }
def forwarded : List (Byte × Bool) × State := forwarding.performHeld (waitingRead.toPage 0x60000000)
theorem witness_forwardHere : ∃ e, MigrationEvent (.stubForward 0) e ∧ Comes { State.reset with stubs := [stubAt none [waitingRead] false] } e :=
  ⟨_, .forwardHere 0 (stubAt none [waitingRead] false) waitingRead [] forwarded.1 forwarded.2, by decide +kernel, rfl, rfl, by decide +kernel,
    by exact pair_of forwarded _ rfl⟩
theorem witness_retire : ∃ e, MigrationEvent (.stubRetire 0) e ∧ Comes { State.reset with stubs := [stubAt none [] true] } e :=
  ⟨_, .retire 0 (stubAt none [] true), by decide +kernel, by decide +kernel, rfl, rfl, rfl, fun m h => by cases h⟩

theorem witness_window : ∃ e, PlatformEvent (.powerWindow 2801) e ∧ Comes (upAt [] fun r => { r with clkMhz := 1750 }) e :=
  ⟨_, .window 2801, by dsimp only [Comes]; decide +kernel⟩
theorem witness_throttle : ∃ e, PlatformEvent (.thermalThrottle 3) e ∧ Comes State.reset e := ⟨_, .throttle 3, True.intro⟩
theorem witness_thermalHold : ∃ e, PlatformEvent (.thermalHoldEnd 3) e ∧ Comes { State.reset with hot := Vector.replicate 4 true } e :=
  ⟨_, .release 3, by dsimp only [Comes]; decide +kernel⟩
/-- Whatever a signature check answers, COLD_RESET does one thing or the other. -/
theorem witness_coldReset : ∃ e, PlatformEvent (.coldReset 0 0 []) e ∧ Comes State.reset e := by
  cases h : (State.reset.newFirmware.getD State.reset.firmware).image.verified with
  | true => exact ⟨_, .cold 0 0 [], h⟩
  | false => exact ⟨_, .coldHalts 0 0 [], h⟩
/-- In a session. -/
def sessionAt : State := { State.reset with session := true }
/-- FWUPD takes an image or answers that it is bad. -/
theorem witness_fwupd (image : Firmware) : ∃ e, PlatformEvent (.fwupd image) e ∧ Comes sessionAt e := by
  cases h : image.image.verified with
  | true => exact ⟨_, .fwupd image, rfl, h⟩
  | false => exact ⟨_, .fwupdBad image, rfl, h⟩
theorem witness_resetCold : ∃ e, PlatformEvent (.resetCold 0 0 []) e ∧ Comes sessionAt e := by
  cases h : (sessionAt.newFirmware.getD sessionAt.firmware).image.verified with
  | true => exact ⟨_, .resetCold 0 0 [], rfl, h⟩
  | false => exact ⟨_, .resetColdHalts 0 0 [], rfl, h⟩
theorem witness_resetWarm : ∃ e, PlatformEvent (.resetWarm 0 0 []) e ∧ Comes sessionAt e := by
  cases h : sessionAt.firmware.image.verified with
  | true => exact ⟨_, .resetWarm 0 0 [], rfl, h⟩
  | false => exact ⟨_, .resetWarmHalts 0 0 [], rfl, h⟩
theorem witness_fabric : ∃ e, PlatformEvent .fabricError e ∧ Comes { upAt [] with launches := [placeLaunch] } e :=
  ⟨_, .fabric, ⟨by decide +kernel, by decide +kernel⟩, placeLaunch, by decide +kernel, by decide +kernel⟩
theorem witness_management : (∃ e, PlatformEvent .secureSession e ∧ Comes State.reset e) ∧ (∃ e, PlatformEvent .getMeasurements e ∧ Comes State.reset e)
    ∧ (∃ e, PlatformEvent (.regrd 8) e ∧ Comes State.reset e) ∧ (∃ e, PlatformEvent .thermalTrip e ∧ Comes State.reset e) :=
  ⟨⟨_, .session, True.intro⟩, ⟨_, .measure, True.intro⟩, ⟨_, .regrd 8, True.intro⟩, ⟨_, .trip, True.intro⟩⟩
theorem witness_keys : (∃ e, PlatformEvent (.keyset 255 1) e ∧ Comes sessionAt e) ∧ (∃ e, PlatformEvent (.keyclr 1) e ∧ Comes sessionAt e)
    ∧ ∃ e, PlatformEvent (.regwr 0x180 65535) e ∧ Comes sessionAt e :=
  ⟨⟨_, .keyset .., by dsimp only [Comes]; decide +kernel⟩, ⟨_, .keyclr .., by dsimp only [Comes]; decide +kernel⟩,
    ⟨_, .regwr .., by dsimp only [Comes]; decide +kernel⟩⟩
theorem witness_noSession (image : Firmware) : ∃ e, PlatformEvent (.fwupd image) e ∧ Comes State.reset e :=
  ⟨_, .noSession (.fwupd image) 0 0 0 0 image 0 [] (by simp), rfl⟩
/-! ### Witnesses: engines and the fabric -/

/-- A command of L with tag 63. -/
def cmdOf (cls : PathClass) (op : CmdOp) (ph : CmdPhase) : Cmd :=
  { id := 9, sq := .L, cls := cls, op := op, tag := 63, phase := ph, push := none, know := Know.none, ten := 0, launch := 0, data := [], fixed := none
    replies := [], sent := 0, spad := [] }
/-- Core 0 with it. -/
def withCmd (k : Cmd) : State := core0 (regs State.reset []) fun c => { c with cmds := [k] }
/-- CPY of `n` bytes between the tensors of the matrix witnesses. -/
def copyOp (n : Nat) : CmdOp := .cpy 0 0 (entry 2 0 1 0x3FFE00 1 128 512 0) (entry 2 0 1 0 1 128 512 0) (BitVec.ofNat 64 n)
theorem acceptable_of (cls : PathClass) (op : CmdOp) (s : State) (h : (s.core 0).cmds = [cmdOf cls op .queued]) (ha : (s.core 0).arb = []) :
    acceptable (s.core 0) cls (cmdOf cls op .queued) := by
  refine ⟨[], [.S, .X], ?_, ?_, rfl, ?_, fun r hr => by cases hr⟩
  · simp [Core.arbOrder, ha, cmdOf]
  · rw [h]
    rfl
  · rintro ⟨p, hp, -⟩
    cases hp
def tensorD : BitVec 256 := entry 2 0 1 0x3FFE00 1 128 512 0
def tensorS : BitVec 256 := entry 2 0 1 0 1 128 512 0
theorem performed_one (k : Cmd) (h : k.sq = .L ∧ k.id = 9) : performed (withCmd k) 0 k := by
  unfold performed
  rw [h.1, h.2]
  rfl
theorem witness_empty : ∃ e, EngineEvent (.engineCommandAccept 0 .copy) e ∧ Comes (withCmd (cmdOf .copy (copyOp 0) .queued)) e :=
  ⟨_, .empty 0 (cmdOf .copy (copyOp 0) .queued) 0 0 tensorD tensorS 0, acceptable_of .copy _ _ rfl rfl, performed_one _ ⟨rfl, rfl⟩, rfl, rfl⟩
theorem witness_checked : ∃ e, EngineEvent (.engineCommandAccept 0 .copy) e ∧ Comes (withCmd (cmdOf .copy (copyOp 513) .queued)) e :=
  ⟨_, .checked 0 (cmdOf .copy (copyOp 513) .queued) 0 0 tensorD tensorS 513 6, acceptable_of .copy _ _ rfl rfl, performed_one _ ⟨rfl, rfl⟩,
    rfl, by decide +kernel, by decide +kernel⟩
theorem witness_starts : ∃ e, EngineEvent (.engineCommandAccept 0 .copy) e ∧ Comes (withCmd (cmdOf .copy (copyOp 512) .queued)) e :=
  ⟨_, .starts 0 (cmdOf .copy (copyOp 512) .queued) 0 0 tensorD tensorS 512, acceptable_of .copy _ _ rfl rfl, rfl, by decide +kernel,
    by decide +kernel⟩
theorem witness_accepts : ∃ e, EngineEvent (.engineCommandAccept 0 .kvx) e ∧ Comes (withCmd (cmdOf .kvx (.pxhash 0 0) .queued)) e :=
  ⟨_, .accepts 0 .kvx (cmdOf .kvx (.pxhash 0 0) .queued), acceptable_of .kvx _ _ rfl rfl⟩
theorem witness_ending : ∃ e, EngineEvent (.engineCommandComplete 0 9) e ∧ Comes (withCmd (cmdOf .copy (copyOp 512) (.ending 6 0 0 0))) e :=
  ⟨_, .ending 0 (cmdOf .copy (copyOp 512) (.ending 6 0 0 0)) 6 0 0 0, by decide +kernel, rfl, performed_one _ ⟨rfl, rfl⟩⟩
theorem witness_cpyDone : ∃ e, EngineEvent (.engineCommandComplete 0 9) e ∧ Comes (withCmd (cmdOf .copy (copyOp 512) (.started 4))) e :=
  ⟨_, .copied 0 (cmdOf .copy (copyOp 512) (.started 4)) 0 0 tensorD tensorS 512, ⟨by decide +kernel, 4, rfl⟩, performed_one _ ⟨rfl, rfl⟩, rfl,
    by decide +kernel, by decide +kernel, by decide +kernel, by decide +kernel, by decide +kernel⟩
theorem witness_storeDone : ∃ e, EngineEvent (.engineCommandComplete 0 9) e ∧ Comes (withCmd (cmdOf .kvx (.kvld 0 0 0 0) (.started 4))) e :=
  ⟨_, .storeDone 0 (cmdOf .kvx (.kvld 0 0 0 0) (.started 4)) 0 0 0 0, ⟨by decide +kernel, 4, rfl⟩, rfl⟩

/-- Receive slot 255 and laser 255 carry lanes of package 63, in the states given. -/
def linked63 (rxSt txSt : LaneState) : State :=
  { State.reset with
    rx := State.reset.rx.set 255 { RxSlot.reset with st := rxSt, peer := 63 } (by decide)
    tx := State.reset.tx.set 255 { TxLane.reset with st := txSt, peer := 63 } (by decide)
    tens := State.reset.tens.set 0 { Tenancy.reset with on := true, root := placeRoot } (by decide)
    mem := paged.mem, fe := { State.reset.fe with qlPod := 0x8000000000000001 } }
/-- A flit of `type` from it, its payload given as bytes. -/
def headOf (type : Nat) : BitVec 64 := BitVec.ofNat 64 (63 * 2 ^ 26 + type * 2 ^ 16)
def bodyOf (bs : List Nat) : BitVec 1024 := BitVec.ofNat 1024 (ofBytes (bs.map fun b => BitVec.ofNat 8 b))
def flitOf (type : Nat) (bs : List Nat) : Flit := { slot := 255, wire := BitVec.ofNat 1152 (ofBytes (flitBytes (headOf type) (bodyOf bs))) }
def linkUp : State := linked63 .active .active
theorem witness_idle : ∃ e, FlitEvent (.idle (flitOf 0 [])) e ∧ Comes linkUp e :=
  ⟨_, .idle _ (headOf 0) (bodyOf []) 0, by dsimp only [Comes]; unfold arrives; decide +kernel⟩
/-- Four of its symbols received wrong, and five. -/
def wrong (n : Nat) : Flit := { flitOf 0 [] with wire := (flitOf 0 []).wire ^^^ BitVec.ofNat 1152 (2 ^ (8 * n) - 1) }
theorem witness_idleCorrected : ∃ e, FlitEvent (.idle (wrong 4)) e ∧ Comes linkUp e :=
  ⟨_, .idle _ (headOf 0) (bodyOf []) 4, by dsimp only [Comes]; unfold arrives; decide +kernel⟩
theorem witness_beyond : ∃ e, FlitEvent (.idle (wrong 5)) e ∧ Comes linkUp e := ⟨_, .beyond _, by dsimp only [Comes]; decide +kernel⟩
theorem witness_unsent : ∃ e, FlitEvent (.idle (flitOf 11 [])) e ∧ Comes linkUp e :=
  ⟨_, .unsent _ (headOf 11) (bodyOf []) 0, by dsimp only [Comes]; unfold arrives; decide +kernel⟩
/-- A load request of one byte at 0x20000 in tenancy 0, and what it reads. -/
def ask : List Nat := [0, 0, 2, 0, 0, 0, 0, 0, 0]
def askIn : State := due linkUp (flitOf 1 ask) (headOf 1) 0
def peerWalk : Except PageFault (List (Nat × Nat)) × State :=
  (serving askIn (source (headOf 1)) 1 (bodyOf ask) 0 none).translateBytes Actor.peer 0 (BitVec.ofNat 8 (payNat (bodyOf ask) 10 1)) Need.load
    (payNat (bodyOf ask) 0 8) (payNat (bodyOf ask) 8 1 % 128 + 1)
def peerPas : List Nat := (held peerWalk []).map Prod.fst
def peerRead : List ByteRead × State :=
  let u := serving peerWalk.2 (source (headOf 1)) 1 (bodyOf ask) 0 (some 1)
  u.readCells (u.ordered Actor.peer) peerPas
theorem peerWalk_ok : good peerWalk = true := by decide +kernel
theorem witness_rldreq : ∃ e, FlitEvent (.rldreq (flitOf 1 ask)) e ∧ Comes linkUp e :=
  ⟨_, .rldreq (flitOf 1 ask) (headOf 1) (bodyOf ask) 0 peerPas peerRead.1 peerWalk.2 peerRead.2, by unfold inTurn arrives; decide +kernel,
    by unfold quiet; decide +kernel,
    ⟨by decide +kernel, ⟨held peerWalk [], rfl, by exact held_of peerWalk [] peerWalk_ok⟩, by decide +kernel, by decide +kernel,
      by decide +kernel, by decide +kernel, by decide +kernel, by decide +kernel, by decide +kernel, by decide +kernel⟩,
    by exact pair_of peerRead _ rfl, by decide +kernel, by decide +kernel, by decide +kernel, by decide +kernel, by decide +kernel,
    by decide +kernel⟩
theorem witness_noTenancy : ∃ e, FlitEvent (.rldreq (flitOf 1 [0, 0, 0, 0, 0, 0, 0, 0, 0, 0, 255])) e ∧ Comes linkUp e :=
  ⟨_, .noTenancy _ (headOf 1) (bodyOf [0, 0, 0, 0, 0, 0, 0, 0, 0, 0, 255]) 0, by unfold inTurn arrives; decide +kernel,
    by unfold quiet; decide +kernel, by decide +kernel⟩
/-- Core 0 waits for package 63. -/
def awaiting (cls : PathClass) (op : CmdOp) : State :=
  { core0 linkUp (fun c => { c with cmds := [cmdOf cls op (.started 4)] }) with
    pairs := State.reset.pairs.set 63 { Pair.reset with awaited := [(0, 9)] } (by decide) }
theorem witness_rlddata : ∃ e, FlitEvent (.rlddata (flitOf 2 [])) e ∧ Comes (awaiting .remote (.rld 0 0)) e :=
  ⟨_, .rlddata _ (headOf 2) (bodyOf []) 0 0 (cmdOf .remote (.rld 0 0) (.started 4)) 0 0, by unfold inTurn arrives; decide +kernel,
    ⟨[], by decide +kernel, by decide +kernel⟩, rfl, by unfold performed; decide +kernel⟩
theorem witness_rstreq : ∃ e, FlitEvent (.rstreq (flitOf 3 [])) e ∧ Comes linkUp e := ⟨_, .rstreq _ (headOf 3) (bodyOf []) 0, by dsimp only [Comes]; unfold inTurn arrives; decide +kernel⟩
/-- The store's data, its request waiting; and an atomic. -/
def storeFlit : Flit := flitOf 4 [7]
def toldStore : State :=
  { linkUp with pairs := State.reset.pairs.set 63 { Pair.reset with rst := some (bodyOf ask) } (by decide) }
def storeIn : State := (due toldStore storeFlit (headOf 4) 0).modPair (source (headOf 4)) fun q => { q with rst := none }
def storeWalk : Except PageFault (List (Nat × Nat)) × State :=
  (serving storeIn (source (headOf 4)) 3 (bodyOf ask) (bodyOf [7]) none).translateBytes Actor.peer 0 (BitVec.ofNat 8 (payNat (bodyOf ask) 10 1))
    Need.store (payNat (bodyOf ask) 0 8) (payNat (bodyOf ask) 8 1 % 128 + 1)
theorem storeWalk_ok : good storeWalk = true := by decide +kernel
theorem witness_rstdata : ∃ e, FlitEvent (.rstdata storeFlit) e ∧ Comes toldStore e :=
  ⟨_, .rstdata storeFlit (headOf 4) (bodyOf [7]) 0 (bodyOf ask) ((held storeWalk []).map Prod.fst) storeWalk.2,
    by unfold inTurn arrives; decide +kernel, by decide +kernel, by unfold quiet; decide +kernel,
    ⟨by decide +kernel, ⟨held storeWalk [], rfl, by exact held_of storeWalk [] storeWalk_ok⟩, by decide +kernel, by decide +kernel,
      by decide +kernel, by decide +kernel, by decide +kernel, by decide +kernel, by decide +kernel, by decide +kernel⟩, by decide +kernel⟩
def amoIn : State := due linkUp (flitOf 5 ask) (headOf 5) 0
def amoWalk : Except PageFault (List (Nat × Nat)) × State :=
  (serving amoIn (source (headOf 5)) 5 (bodyOf ask) 0 none).translateBytes Actor.peer 0 (BitVec.ofNat 8 (payNat (bodyOf ask) 10 1))
    Need.amo (payNat (bodyOf ask) 0 8) (2 ^ (payNat (bodyOf ask) 9 1 % 4))
def amoRead : AtomicRead × State :=
  (serving amoWalk.2 (source (headOf 5)) 5 (bodyOf ask) 0 (some 1)).bankStep Actor.peer none (BitVec.ofNat 8 (payNat (bodyOf ask) 10 1))
    (payNat (bodyOf ask) 8 1) (payNat (bodyOf ask) 9 1 % 4) (((held amoWalk []).map Prod.fst).headD 0)
    (payNat (bodyOf ask) 16 (2 ^ (payNat (bodyOf ask) 9 1 % 4))) (payNat (bodyOf ask) 24 (2 ^ (payNat (bodyOf ask) 9 1 % 4)))
theorem amoWalk_ok : good amoWalk = true := by decide +kernel
theorem witness_ramoreq : ∃ e, FlitEvent (.ramoreq (flitOf 5 ask)) e ∧ Comes linkUp e :=
  ⟨_, .ramoreq (flitOf 5 ask) (headOf 5) (bodyOf ask) 0 ((held amoWalk []).map Prod.fst) amoRead.1 amoWalk.2 amoRead.2,
    by unfold inTurn arrives; decide +kernel, by unfold quiet; decide +kernel,
    ⟨by decide +kernel, ⟨held amoWalk [], rfl, by exact held_of amoWalk [] amoWalk_ok⟩, by decide +kernel, by decide +kernel,
      by decide +kernel, by decide +kernel, by decide +kernel, by decide +kernel, by decide +kernel, by decide +kernel⟩,
    by exact pair_of amoRead _ rfl, by decide +kernel, by decide +kernel, by decide +kernel, by decide +kernel⟩
theorem witness_respStore : ∃ e, FlitEvent (.resp (flitOf 6 [])) e ∧ Comes (awaiting .remote (.rst 0 0)) e :=
  ⟨_, .respStore _ (headOf 6) (bodyOf []) 0 0 (cmdOf .remote (.rst 0 0) (.started 4)) 0 0, by unfold inTurn arrives; decide +kernel,
    ⟨[], by decide +kernel, by decide +kernel⟩, rfl, by unfold performed; decide +kernel⟩
theorem witness_respAtomic : ∃ e, FlitEvent (.resp (flitOf 6 [])) e ∧ Comes (awaiting .remote (.ramo 0 0)) e :=
  ⟨_, .respAtomic _ (headOf 6) (bodyOf []) 0 0 (cmdOf .remote (.ramo 0 0) (.started 4)) 0 0, by unfold inTurn arrives; decide +kernel,
    ⟨[], by decide +kernel, by decide +kernel⟩, rfl, by unfold performed; decide +kernel⟩
theorem witness_err : ∃ e, FlitEvent (.err (flitOf 7 [4])) e ∧ Comes (awaiting .remote (.ramo 0 0)) e :=
  ⟨_, .err _ (headOf 7) (bodyOf [4]) 0 0 (cmdOf .remote (.ramo 0 0) (.started 4)), by unfold inTurn arrives; decide +kernel,
    ⟨[], by decide +kernel, by decide +kernel⟩, by decide +kernel, by unfold performed; decide +kernel⟩

theorem witness_reqPends : ∃ e, CtrlEvent (.ctrlReq (flitOf 8 [1, 0, 0, 0, 0, 0, 0, 128])) e
    ∧ Comes { linkUp with rx := Vector.replicate 256 { RxSlot.reset with st := .active, peer := 63 } } e :=
  ⟨_, .reqPends _ (headOf 8) (bodyOf [1, 0, 0, 0, 0, 0, 0, 128]) 0 31, by dsimp only [Comes]; unfold inTurn arrives; decide +kernel⟩
/-- Slot 0 carries the lane instead. -/
def slot0 : State :=
  { linkUp with rx := (linkUp.rx.set 255 RxSlot.reset (by decide)).set 0 { RxSlot.reset with st := .active, peer := 63 } (by decide) }
def wanted : List Nat := [1, 0, 0, 0, 0, 0, 0, 128]
def wantFlit : Flit := { flitOf 8 wanted with slot := 0 }
def granted : Option State := (due slot0 wantFlit (headOf 8) 0).grantSlot (source (headOf 8)) 31 (BitVec.ofNat 8 (payNat (bodyOf wanted) 3 1))
theorem granted_some : granted.isSome = true := by decide +kernel
theorem witness_req : ∃ e, CtrlEvent (.ctrlReq wantFlit) e ∧ Comes slot0 e := by
  obtain ⟨u, h⟩ := Option.isSome_iff_exists.1 granted_some
  exact ⟨_, .req wantFlit (headOf 8) (bodyOf wanted) 0 31 u, by unfold inTurn arrives; decide +kernel, by decide +kernel, by decide +kernel,
    h⟩
theorem witness_ctrlGrant : ∃ e, CtrlEvent (.ctrlGrant (flitOf 8 [2, 31])) e ∧ Comes (linked63 .active .reserved) e :=
  ⟨_, .grant _ (headOf 8) (bodyOf [2, 31]) 0 255, by dsimp only [Comes]; unfold inTurn arrives; decide +kernel⟩
theorem witness_revoke : ∃ e, CtrlEvent (.ctrlRevoke (flitOf 8 [3, 31])) e ∧ Comes linkUp e :=
  ⟨_, .revoke _ (headOf 8) (bodyOf [3, 31]) 0 255, by dsimp only [Comes]; unfold inTurn arrives; decide +kernel⟩
theorem witness_drain : ∃ e, CtrlEvent (.ctrlDrain (flitOf 8 [4, 31])) e ∧ Comes linkUp e :=
  ⟨_, .drain _ (headOf 8) (bodyOf [4, 31]) 0 255, by dsimp only [Comes]; unfold inTurn arrives; decide +kernel⟩
theorem witness_handback : ∃ e, CtrlEvent (.ctrlHandback (flitOf 8 [5, 31])) e ∧ Comes (linked63 .active .retraining) e :=
  ⟨_, .handback _ (headOf 8) (bodyOf [5, 31]) 0 255, by dsimp only [Comes]; unfold inTurn arrives; decide +kernel⟩
theorem witness_handbackEarly : ∃ e, CtrlEvent (.ctrlHandback (flitOf 8 [5, 31])) e ∧ Comes (linked63 .active .tuning) e :=
  ⟨_, .handbackEarly _ (headOf 8) (bodyOf [5, 31]) 0 255, by dsimp only [Comes]; unfold inTurn arrives; decide +kernel⟩
theorem witness_release : ∃ e, CtrlEvent (.ctrlRelease (flitOf 8 [6, 31])) e ∧ Comes linkUp e :=
  ⟨_, .release _ (headOf 8) (bodyOf [6, 31]) 0 255, by dsimp only [Comes]; unfold inTurn arrives; decide +kernel⟩
theorem witness_withdrawLane : ∃ e, CtrlEvent (.ctrlWithdraw (flitOf 8 [7, 0, 0, 0, 0, 0, 0, 128])) e ∧ Comes linkUp e := by
  refine ⟨_, .withdraw _ (headOf 8) (bodyOf [7, 0, 0, 0, 0, 0, 0, 128]) 0, by unfold inTurn arrives; decide +kernel, by decide +kernel, ?_⟩
  decide +kernel

theorem witness_notServed : ∃ e, StoreEvent (.storeQuery (flitOf 9 [3, 255])) e ∧ Comes linkUp e :=
  ⟨_, .notServed _ (headOf 9) (bodyOf [3, 255]) 0, by dsimp only [Comes]; unfold inTurn arrives; decide +kernel⟩
theorem witness_fwdStart : ∃ e, StoreEvent (.fwdStart (flitOf 10 [1, 0, 0, 0, 0, 0, 0, 0, 0, 0, 0, 96])) e
    ∧ Comes { linkUp with fe := { linkUp.fe with migInbase := 0x60000001, migInlim := 0x60000000 } } e :=
  ⟨_, .start _ (headOf 10) (bodyOf [1, 0, 0, 0, 0, 0, 0, 0, 0, 0, 0, 96]) 0, by dsimp only [Comes]; unfold inTurn arrives; decide +kernel⟩
theorem witness_startRefused : ∃ e, StoreEvent (.fwdStart (flitOf 10 [1])) e ∧ Comes linkUp e :=
  ⟨_, .startRefused _ (headOf 10) (bodyOf [1]) 0, by dsimp only [Comes]; unfold inTurn arrives; decide +kernel⟩
/-- A read and a write of one byte at 0x40000007. -/
def readOne : List Nat := [5, 0, 0, 1, 0, 0, 0, 0, 7, 0, 0, 64]
def writeOne : List Nat := [5, 1, 0, 1, 0, 0, 0, 0, 7, 0, 0, 64, 0, 0, 0, 0, 1]
def forwardRead : List ByteRead × State :=
  let u := due linkUp (flitOf 10 readOne) (headOf 10) 0
  u.readCells (u.ordered Actor.host) ((List.range (payNat (bodyOf readOne) 3 1)).map fun i => payNat (bodyOf readOne) 8 8 + i)
theorem witness_fwdAccess : (∃ e, StoreEvent (.fwdAccess (flitOf 10 readOne)) e ∧ Comes linkUp e)
    ∧ ∃ e, StoreEvent (.fwdAccess (flitOf 10 writeOne)) e ∧ Comes linkUp e :=
  ⟨⟨_, .access _ (headOf 10) (bodyOf readOne) 0 forwardRead.1 forwardRead.2, by unfold inTurn arrives; decide +kernel, by decide +kernel,
      by decide +kernel, by decide +kernel, by decide +kernel, by decide +kernel, by exact pair_of forwardRead _ rfl, by decide +kernel,
      by decide +kernel⟩,
    _, .accessWrite _ (headOf 10) (bodyOf writeOne) 0, by dsimp only [Comes]; unfold inTurn arrives; decide +kernel⟩
theorem witness_fwdCopy : ∃ e, StoreEvent (.fwdCopy (flitOf 10 [2, 0, 0, 0, 0, 0, 21])) e
    ∧ Comes { linkUp with incoming := [{ peer := 63, k := 21, dst := 0x60000000, copied := 1022 }] } e :=
  ⟨_, .copy _ (headOf 10) (bodyOf [2, 0, 0, 0, 0, 0, 21]) 0 { peer := 63, k := 21, dst := 0x60000000, copied := 1022 }, by dsimp only [Comes]; unfold inTurn arrives; decide +kernel⟩
theorem witness_fwdAccept : ∃ e, StoreEvent (.fwdAccept (flitOf 10 [3, 0, 0, 0, 0, 0, 21])) e
    ∧ Comes { linkUp with migration := some { k := 21, src := 0x50000000, dst := 0x60000000, ten := 0, xp := some 63, copied := false, held := [] } } e :=
  ⟨_, .accept _ (headOf 10) (bodyOf [3, 0, 0, 0, 0, 0, 21]) 0 { k := 21, src := 0x50000000, dst := 0x60000000, ten := 0, xp := some 63, copied := false, held := [] },
    by dsimp only [Comes]; unfold inTurn arrives; decide +kernel⟩
theorem witness_fwdRefuse : ∃ e, StoreEvent (.fwdRefuse (flitOf 10 [4, 0, 0, 0, 0, 0, 21])) e
    ∧ Comes { linkUp with migration := some { k := 21, src := 0x50000000, dst := 0x60000000, ten := 0, xp := some 63, copied := false, held := [] } } e :=
  ⟨_, .refuse _ (headOf 10) (bodyOf [4, 0, 0, 0, 0, 0, 21]) 0 { k := 21, src := 0x50000000, dst := 0x60000000, ten := 0, xp := some 63, copied := false, held := [] },
    by dsimp only [Comes]; unfold inTurn arrives; decide +kernel⟩

/-- A flit that package 63 has not acknowledged. -/
def sentOne : SentFlit := { seq := 65535, header := 0, payload := 0, lane := some 255, sent := 0 }
theorem witness_retransmit : ∃ e, LaneEvent (.retransmitTimeout 63 65535) e
    ∧ Comes { linkUp with time := 4 * timeUnit, pairs := State.reset.pairs.set 63 { Pair.reset with unacked := [sentOne] } (by decide) } e :=
  ⟨_, .retransmit 63 sentOne 255 255, by dsimp only [Comes]; decide +kernel⟩
theorem witness_starvationNone : ∃ e, LaneEvent .starvationCheck e ∧ Comes linkUp e := ⟨_, .starvationNone, by dsimp only [Comes]; decide +kernel⟩
theorem witness_lockRx : ∃ e, LaneEvent (.tuningLock 255) e ∧ Comes (linked63 .tuning .tuning) e := ⟨_, .lockRx _, by dsimp only [Comes]; decide +kernel⟩
theorem witness_lockTx : ∃ e, LaneEvent (.tuningLock 255) e ∧ Comes (linked63 .active .tuning) e := ⟨_, .lockTx _, by dsimp only [Comes]; decide +kernel⟩
theorem witness_lateRx : ∃ e, LaneEvent (.tuningTimeout 255) e ∧ Comes { linked63 .tuning .tuning with storeClk := 100 } e :=
  ⟨_, .lateRx _, by dsimp only [Comes]; decide +kernel⟩
theorem witness_lateTx : ∃ e, LaneEvent (.tuningTimeout 255) e ∧ Comes { linked63 .free .tuning with storeClk := 100 } e :=
  ⟨_, .lateTx _, by dsimp only [Comes]; decide +kernel⟩
/-- A window of 2^20 flits with `n` corrected symbols. -/
def windowAt (n : Nat) : State :=
  { linkUp with rx := State.reset.rx.set 255 { RxSlot.reset with st := .active, peer := 63, flits := 2 ^ 20, count := n } (by decide) }
theorem witness_errorWindow : (∃ e, LaneEvent (.errorWindowEnd 255) e ∧ Comes (windowAt 4096) e)
    ∧ ∃ e, LaneEvent (.errorWindowEnd 255) e ∧ Comes (windowAt 4097) e :=
  ⟨⟨_, .window _, by dsimp only [Comes]; decide +kernel⟩, _, .windowBad _, by dsimp only [Comes]; decide +kernel⟩
theorem witness_trained : ∃ e, LaneEvent (.trainingWindowEnd 255 256) e ∧ Comes (linked63 .retraining .active) e :=
  ⟨_, .trained _ 256, by dsimp only [Comes]; decide +kernel⟩
theorem witness_drained : (∃ e, LaneEvent (.laneDrainEnd 255) e ∧ Comes (linked63 .active .draining) e)
    ∧ ∃ e, LaneEvent (.laneDrainEnd 255) e ∧ Comes (linked63 .draining .active) e :=
  ⟨⟨_, .drainedTx _, by dsimp only [Comes]; decide +kernel⟩, _, .drainedRx _, by dsimp only [Comes]; decide +kernel⟩
/-! ### Witnesses: the other statements -/

/-- BitRules and DivideRemainder: reset issues with the minimum latencies, interlocked. -/
theorem witness_bits : (∃ p, BitRule (.popc 1 2 c0) 1 c0 1 p ∧ State.reset.ready c0 false 1 ring = true)
    ∧ State.reset.ready { c0 with lat := 6 } false 6 ring = true :=
  ⟨⟨_, .popc .., by decide +kernel⟩, by decide +kernel⟩

/-- What translating answers in a state in which nothing is on its way. -/
def walkedNow (s : State) (x : Ctl) (lat : Nat) (need : Need) (ea n : Nat) : Except PageFault (List (Nat × Nat)) × State :=
  (s.popped x).translateBytes ((s.issuing x false lat).actor (s.popped x)) (s.popped x).turn.core ((s.popped x).tenOf (s.popped x).turn.core)
    need ea n
/-- Nothing is on its way, and no byte has been written but by CORE accesses. -/
def still (s : State) : Prop :=
  s.mem.wf = true ∧ s.mem.marks = [] ∧ s.stubs = [] ∧ s.migration = none ∧ s.pending = [] ∧ (s.popped c7).mine.know.after = []
    ∧ (s.popped c0).mine.know.after = [] ∧ (∀ die, s.combine.get die = []) ∧ s.mem.hist = [] ∧ s.me.flights = []

/-- StoredBytes: ST of eight bytes across a page of 64 KiB, in the page of `mapped`; and in its last granule. -/
def w40 (va : Nat) := walkedNow (mapped va) c0 0 (scalarNeed Need.store true va 8) va 8
theorem witness_stored : ∀ va ∈ [0x2FFFC, 0x2FFF8], (mapped va).ready c0 false 0 ring = true ∧ still (mapped va)
    ∧ good (w40 va) = true ∧ (∀ p ∈ held (w40 va) [], p.2 ≠ 1) ∧ Rules.addr ((mapped va).popped c0) 2 .d 0 = va
    ∧ ((∀ p ∈ held (w40 va) [], p.1 / 8 = (Rules.addrs (held (w40 va) [])).headD 0 / 8) ↔ va = 0x2FFF8) := by
  unfold still
  decide +kernel

/-- ScalarMemory's values: LD of the same granule. -/
def w42 := walkedNow (mapped 0x2FFF8) c7 7 (scalarNeed Need.load true 0x2FFF8 8) 0x2FFF8 8
theorem witness_loaded : (mapped 0x2FFF8).ready c7 false 7 ring = true ∧ still (mapped 0x2FFF8) ∧ good w42 = true
    ∧ (∀ p ∈ held w42 [], p.2 ≠ 1) ∧ (∀ p ∈ held w42 [], p.1 / 8 = (Rules.addrs (held w42 [])).headD 0 / 8)
    ∧ Rules.addr ((mapped 0x2FFF8).popped c7) 2 .d 0 = 0x2FFF8 := by
  unfold still
  decide +kernel

/-- Atomics' values: AMO.MAXU of four bytes. -/
def w43 := walkedNow (mapped 0x2FFFC) c7 7 Need.amo 0x2FFFC 4
theorem witness_amoWords : (mapped 0x2FFFC).ready c7 false 7 ring = true ∧ still (mapped 0x2FFFC) ∧ good w43 = true
    ∧ (∀ p ∈ held w43 [], p.2 ≠ 1) ∧ (∀ n : Fin 8, ((mapped 0x2FFFC).fe.rwbase.get n).getLsbD 0 = false)
    ∧ (∀ j < 4, (Rules.addrs (held w43 [])).getD j 0 = (Rules.addrs (held w43 [])).headD 0 + j)
    ∧ ((mapped 0x2FFFC).mine.rg 2).toNat = 0x2FFFC := by
  unfold still
  decide +kernel

/-- PageTraps: an address that is not canonical, and one that no page maps. -/
def pageEffect : Effect := { x := c7, lat := 7, acc := [.core], gives := fun _ t => t }
def w41 (va : Nat) : Except PageFault (List (Nat × Nat)) × State := walked (mapped va) (memSpec c7 7) (scalarNeed Need.load true) (fun _ => va) 8
theorem witness_pageTraps : (∀ va ∈ [2 ^ 60, 0x4000000000], (mapped va).ready c7 false 7 ring = true ∧ (mapped va).me.inTrap = false
    ∧ (pageEffect.settled (mapped va)).blockedFor (pageEffect.cx (mapped va)) pageEffect.spec = false
    ∧ (mapped va).me.stop = none ∧ good (w41 va) = false) := by decide +kernel

/-- EngineEvents: an item of a backfill queue whose layer has not been filled. -/
def smallInst : InstRec :=
  { bt := 16, dom := 0, nl := 2, nh := 1, d := 0, ixlog := 10, model := 0, ixbase := 0, t1base := 0x40000000, t1fr := 1, privmax := 0
    t2base := 0, t2fr := 0, t0base := 0, t0fr := 0, theta := 0 }
def itemAt : BackfillItem :=
  { who := { core := 0, sq := .L }, stamp := 1, know := Know.none, ten := 0, inst := 7, frame := 0x40000000, slot := 15, layer := 0
    handle := entry 4 0 0 0x20000 1024 1 2 0, hidden := [0x3F80] }
def backfilling : State :=
  { paged with
    insts := paged.insts.set 7 { Inst.reset with cfg := some smallInst } (by decide)
    backfill := paged.backfill.set 3 [itemAt] (by decide) }
def fillWord : List Byte × Bool × State := backfilling.frameNow itemAt.actor (itemAt.frame + smallInst.fillAt itemAt.layer) 8
def weights : Option (List (List Nat)) × State :=
  fillWord.2.2.weightRows itemAt (handleOf itemAt.handle)
    ((List.range (2 * (smallInst.nh * smallInst.dim))).map fun x => 2 * itemAt.layer * (smallInst.nh * smallInst.dim) + x)
theorem triple_of {α β γ : Type} (r : α × β × γ) (v : β) (h : r.2.1 = v) : r = (r.1, v, r.2.2) := by
  subst h
  rfl
theorem weights_ok : weights.1.isSome = true := by decide +kernel
theorem witness_layer : ∃ e, EngineEvent (.backfillItem 3) e ∧ Comes backfilling e := by
  obtain ⟨rows, h⟩ := Option.isSome_iff_exists.1 weights_ok
  exact ⟨_, .layer 3 itemAt [] smallInst fillWord.1 fillWord.2.2 weights.2 rows, by decide +kernel, by decide +kernel, by decide +kernel,
    by exact triple_of fillWord _ (by decide +kernel), by decide +kernel, by exact pair_of weights _ h⟩

/-- StepRunsDecoded: X of core 0 with C.NOP, a reserved word, or nothing mapped at its pc. -/
def steps (w : Nat) : State := State.reset.withFetchWord 32 w
def fetched (w : Nat) : Except PageFault (List Byte) × State := (steps w).attempt.fetchInstr (steps w).turn
theorem fetched_nop : good (fetched 2) = true ∧ (held (fetched 2) []).take 2 = [2, 0] := by decide +kernel
theorem fetched_reserved : good (fetched 0) = true ∧ (held (fetched 0) []).take 2 = [0, 0] := by decide +kernel
theorem fetched_none : good (({ steps 0 with tens := State.reset.tens } : State).attempt.fetchInstr (steps 0).turn) = false := by decide +kernel
theorem witness_step : (steps 2).powered = true ∧ (steps 2).near = true ∧ (steps 2).inputs = [] ∧ (steps 2).agenda = []
    ∧ ((steps 2).core (steps 2).turn.core).mayReplay (steps 2).cycle (steps 2).turn.sq = false
    ∧ ((steps 2).core (steps 2).turn.core).mayIssue (steps 2).cycle (steps 2).turn.sq = true
    ∧ (State.reset.core State.reset.turn.core).mayIssue State.reset.cycle State.reset.turn.sq = false := by decide +kernel
theorem fetched_nop_decodes : decodeBytes [2, 0] = .ok .cNop := rfl
/-- CanonicalKept, PowerRemoved: that step answers, and the trip answers. -/
theorem reset_steps : (State.reset.core State.reset.turn.core).mayReplay State.reset.cycle State.reset.turn.sq = false := by decide +kernel
theorem witness_power : ∃ t, exec .thermalTrip State.reset = .next t := ⟨_, rfl⟩
theorem witness_kept : State.reset.Canonical ∧ ∃ t, step { State.reset with inputs := [{ cycle := 0, event := .thermalTrip }] } = .next t :=
  ⟨⟨rfl, fun c => by revert c; decide +kernel⟩, _, rfl⟩

/-- IllegalBeforeWaits: C may not issue CPY; and MUL with LAT 2 in an exposed block. -/
def exposedAt : State := regs (State.reset.modSeq State.reset.turn fun v =>
  { v with pc := 0x1008, blocks := [{ start := 0x1000, stop := 0x1010, interlocked := false, buf := none }] }) []
theorem witness_early : (∃ f, CopyRow (.cpy 0 1 3 c0) f ∧ (onTurn .C).turn.sq ∉ f.qs)
    ∧ (onTurn .C).me.replayIssue = none ∧ (onTurn .C).me.inTrap = false ∧ (onTurn .C).me.stop = none
    ∧ (∃ r, ScalarRow (.mul 1 2 3 { c0 with lat := 2 }) { c0 with lat := 2 } false 3 r) ∧ exposedAt.exposed = true ∧ (2#3).toNat < 3
    ∧ exposedAt.me.replayIssue = none ∧ exposedAt.me.inTrap = false ∧ exposedAt.me.stop = none :=
  ⟨⟨_, .cpy .., by dsimp only [command]; decide +kernel⟩, by decide +kernel, by decide +kernel, by decide +kernel, ⟨_, .mul ..⟩,
    by decide +kernel, by decide +kernel, by decide +kernel, by decide +kernel, by decide +kernel⟩

/-- TokenGate: ADD that waits on an empty queue, and one that finds its token. -/
def waitF : Ctl := { c0 with wf := true }
def tokened : State := core0 State.reset fun c => { c with tokens := c.tokens.set (popF .X).val [Know.none] (popF .X).isLt }
theorem witness_token : (match encode (.add 1 2 3 waitF) with | some (.word w m) => ctlOf w m == waitF | _ => false) = true
    ∧ State.reset.me.replayIssue = none ∧ State.reset.me.tokensReady State.reset.turn.sq waitF = false
    ∧ tokened.ready waitF false 0 ring = true :=
  ⟨by decide +kernel, by decide +kernel, by decide +kernel, by decide +kernel⟩

/-- TrapAndReturn: `stopping` of the core events. -/
theorem witness_return : settled (stopping 0x1000) ((stopping 0x1000).core 0) trapStop ∧ ((stopping 0x1000).core 0).trapvec ≠ 0
    ∧ trapStop.cause ≠ 13 ∧ ((stopping 0x1000).core 0).tapePhase ≠ .replaying ∧ ((stopping 0x1000).core 0).replayIssue = none :=
  ⟨stopping_settled _ (.inr rfl), by decide +kernel, by decide +kernel, by decide +kernel, by decide +kernel⟩

/-- CanonicalNan: infinity less infinity. -/
theorem witness_nan : fp16 ∈ [fp64, fp32, fp16, bf16] ∧ (fp16.read false (fp16.sub 0 false 0x7C00 0x7C00).1).1.isNan = true := by decide +kernel

/-- DecodeEncode and EncodeDecode: the largest operands of SLD; the bytes of C.ADDI. -/
theorem witness_encode : (Instr.sld 31 31 .d 31 c0).wf = true ∧ (∃ e, encode (.sld 31 31 .d 31 c0) = some e)
    ∧ (∃ e, encOfBytes [0x28, 0x30] = .ok e ∧ decode e = .ok (.cAddi 6 1)) :=
  ⟨by decide, ⟨_, rfl⟩, ⟨_, rfl, rfl⟩⟩
/-! ### Well-formedness: an ill-formed term for each check -/

theorem test_wf_mask_reserved : (Instr.add 1 2 3 { Ctl.plain with safe := some 0x8000000 }).wf = false := by decide +kernel
theorem test_wf_mask_sx : (Instr.add 1 2 3 { Ctl.plain with safe := some 0x1C00000 }).wf = false ∧ maskWordOk 0x1A00000 = true := by decide +kernel
theorem test_wf_pair : (Instr.wlpush 0 1 Ctl.plain).wf = false ∧ (Instr.wlpop 31 1 Ctl.plain).wf = false ∧ (Instr.wlpop 30 1 Ctl.plain).wf = true
    ∧ (Instr.tguard 1 0 Ctl.plain).wf = false ∧ (Instr.amoCas 3 1 false .d Ctl.plain).wf = false := by decide +kernel
theorem test_wf_pair_engine : (Instr.cpy 0 5 1 Ctl.plain).wf = false ∧ (Instr.cpy2d 0 2 3 Ctl.plain).wf = false ∧ (Instr.cpy2d 0 3 2 Ctl.plain).wf = false
    ∧ (Instr.gath 0 1 2 Ctl.plain).wf = false ∧ (Instr.scat 0 1 2 Ctl.plain).wf = false := by decide +kernel
theorem test_wf_mts : (Instr.mts 1 0x000 Ctl.plain).wf = false ∧ (Instr.mts 1 0x108 Ctl.plain).wf = false
    ∧ (Instr.mts 1 0x051 Ctl.plain).wf = false ∧ (Instr.mts 1 0x05B Ctl.plain).wf = false ∧ (Instr.mts 1 0x055 Ctl.plain).wf = false := by
  decide +kernel
theorem test_wf_vcvtef : (Instr.vcvtef 4 1 4 0 Ctl.plain).wf = false ∧ (Instr.vcvtef 4 1 5 3 Ctl.plain).wf = false := by decide +kernel
theorem test_wf_vlse : (Instr.vlse 0 16 15 Ctl.plain).wf = false ∧ (Instr.vlse 0 15 14 Ctl.plain).wf = false ∧ (Instr.vlse 20 4 14 Ctl.plain).wf = true := by
  decide +kernel
theorem test_wf_fadd : (Instr.amoFadd 1 2 false .b Ctl.plain).wf = false := by decide +kernel

/-! ### Single steps, with the spec's worked values -/

/-- The value that the instruction's only result carries. -/
def gives (i : Instr) (s : State) : List (Dest × Nat) :=
  match exec i s with
  | .next t => t.me.flights.map fun f => (f.dest, f.value.toNat)
  | _ => []
/-- ga of the worked examples of R64 and R65 in g2, g3 given. -/
def worked (b : Nat) : State := regs State.reset [(2, 0xF0F01234), (3, b)]

theorem test_popc : gives (.popc 1 2 c0) (worked 0) = [(.g 1, 13)] := by decide +kernel
theorem test_clz : gives (.clz 1 2 c0) (worked 0) = [(.g 1, 32)] := by decide +kernel
theorem test_ctz : gives (.ctz 1 2 c0) (worked 0) = [(.g 1, 2)] := by decide +kernel
theorem test_fns : gives (.fns 1 2 3 c0) (worked 1) = [(.g 1, 4)] := by decide +kernel
theorem test_fns_next : gives (.fns 1 2 3 c0) (worked 3) = [(.g 1, 9)] := by decide +kernel
theorem test_bfx : gives (.bfx 1 2 3 c0) (worked 0x0C08) = [(.g 1, 0x12)] := by decide +kernel
theorem test_bfxs : gives (.bfxs 1 2 3 c0) (worked 0x0818) = [(.g 1, 0xFFFFFFFFFFFFFFF0)] := by decide +kernel
theorem test_add_wraps : gives (.add 1 2 3 c0) (regs State.reset [(2, 2 ^ 64 - 1), (3, 2)]) = [(.g 1, 1)] := by decide +kernel
theorem test_div_zero : gives (.div 1 2 3 c0) (worked 0) = [(.g 1, 2 ^ 64 - 1)] := by decide +kernel
theorem test_rem_overflow : gives (.rem 1 2 3 c0) (regs State.reset [(2, 2 ^ 63), (3, 2 ^ 64 - 1)]) = [(.g 1, 0)] := by decide +kernel
theorem test_mulh_sign : gives (.mulh 1 2 3 c0) (regs State.reset [(2, 2 ^ 64 - 1), (3, 2)]) = [(.g 1, 2 ^ 64 - 1)] := by decide +kernel
theorem test_sra_sign : gives (.sra 1 2 3 c0) (regs State.reset [(2, 2 ^ 63), (3, 65)]) = [(.g 1, 2 ^ 63 + 2 ^ 62)] := by decide +kernel
/-- TRAP stops its core with SOFT and the value of ga (R386). -/
theorem test_trap : (match exec (.trap 2 c0) (worked 0) with
    | .next t => t.me.stop.map fun p => (p.sq, p.cause.toNat, p.det.toNat, p.va.toNat)
    | _ => none) = some (.X, 14, 0, 0xF0F01234) := by decide +kernel
/-- A load past the scratchpad takes SPADDR (R14). -/
theorem test_sld_past : (match exec (.sld 1 2 .d 1 c0) (regs State.reset [(2, 0x3FFFF8)]) with
    | .next t => t.me.stop.map fun p => (p.cause.toNat, p.va.toNat)
    | _ => none) = some (3, 0x400000) := by decide +kernel
/-- A word stored to the scratchpad reads back sign-extended (R79). -/
theorem test_sst_slds : (match exec (.sst 2 3 .w 0 c0) (worked 0x3FFFFC) with
    | .next t => gives (.slds 4 3 .w 0 c0) { t with turn := t.turn }
    | _ => []) = [(.g 4, 0xFFFFFFFFF0F01234)] := by decide +kernel
/-- The step after a placed word runs its instruction: C.NOP moves X's pc by two bytes. -/
theorem test_step_nop : (match step (steps 2) with
    | .next t => (t.core 0).sX.pc.toNat
    | _ => 0) = 0x10002 := by decide +kernel

end Sys2Proof.Tests
end

section
/-!
PROOFS. Every step keeps package memory and the scratchpads in canonical form (O54).

The form is that of `State.Canonical`: rising addresses and no zero byte. A few places of the model write bytes, all through `cellsPut`, and
the rest of it passes the state on; so the development is one lemma for each function that gives a state, named after it, and the lemma
of a function rests on those of the functions that it calls. What it needs of records and cores comes first.

The predicate takes the set `D` of the cores whose scratchpads are meant. The pilot core is the reason: while it issues, it stands in the
place of core 0 with a scratchpad of which nothing is known, and core 0 comes back when it is done (`pilotTurn_canon`).
-/
set_option Elab.async false
namespace Sys2Proof.Machine
open Sys2Proof

/-- Package memory, and the scratchpads of the cores in `D`, are in canonical form. -/
def State.CanonOn (D : CoreId → Prop) (s : State) : Prop :=
  s.mem.wf = true ∧ ∀ c, D c → cellsWf (s.core c).spad = true

/-- The states that an instruction's meaning may leave are canonical on `D`. -/
def Act.CanonOn (D : CoreId → Prop) : Act → Prop
  | .done s _ _ => s.CanonOn D
  | .stall s => s.CanonOn D
  | .trap _ => True
  | .fault s _ => s.CanonOn D

/-- The state that a step leads to, if it leads to one, is canonical on `D`. -/
def OutCanon (D : CoreId → Prop) : Out → Prop
  | .next s => s.CanonOn D
  | _ => True

/-! ### What leaves a core's scratchpad alone -/

@[simp] theorem modSeqs_spad (c : Core) (f : Sq → Seq → Seq) : (c.modSeqs f).spad = c.spad := rfl

@[simp] theorem derrRecord_spad (c : Core) (src va : Nat) : (c.derrRecord src va).spad = c.spad := by
  unfold Core.derrRecord; dsimp only; split <;> rfl

@[simp] theorem popToken_spad (c : Core) (q : Sq) (i : Fin 8) : (c.popToken q i).spad = c.spad := by
  unfold Core.popToken; split <;> simp

@[simp] theorem popTokens_spad (c : Core) (q : Sq) (x : Ctl) : (c.popTokens q x).spad = c.spad := by
  unfold Core.popTokens; dsimp only; split <;> split <;> simp

@[simp] theorem completePush_spad (c : Core) (q : Sq) (f b : Bool) (n : Nat) (k : Know) : (c.completePush q f b n k).spad = c.spad := rfl

@[simp] theorem setRpNext_spad (c : Core) (q : Sq) (n : Nat) : (c.setRpNext q n).spad = c.spad := rfl

@[simp] theorem latchEngerr_spad (c : Core) (n : Nat) (t : BitVec 6) (code det : Nat) (va : Word) :
    (c.latchEngerr n t code det va).spad = c.spad := by
  unfold Core.latchEngerr; dsimp only; split <;> rfl

@[simp] theorem latchEvents_spad (c : Core) : c.latchEvents.spad = c.spad := rfl

@[simp] theorem completeCmd_spad (c : Core) (me : CoreId) (n : Nat) (k : Cmd) (code flags det : Nat) (va : Word) :
    (c.completeCmd me n k code flags det va).spad = c.spad := by
  unfold Core.completeCmd; dsimp only; split <;> simp

@[simp] theorem setRow_spad (c : Core) (n : Fin 128) (v : Row) (en : Mask) : (c.setRow n v en).spad = c.spad := by
  unfold Core.setRow; split <;> rfl

@[simp] theorem writeDest_spad (c : Core) (q : Sq) (d : Dest) (v : Row) (en : Mask) : (c.writeDest q d v en).spad = c.spad := by
  unfold Core.writeDest; split <;> simp

@[simp] theorem raiseFlags_spad (c : Core) (q : Sq) (f : BitVec 6) : (c.raiseFlags q f).spad = c.spad := by
  unfold Core.raiseFlags; split <;> simp

@[simp] theorem landFlight_spad (c : Core) (n : Nat) (f : Flight) : (c.landFlight n f).spad = c.spad := by
  unfold Core.landFlight
  generalize hk : (if c.inTrap then c else _) = k
  have e : k.spad = c.spad := by rw [← hk]; split <;> rfl
  dsimp only
  split
  · simp [e]
  · split <;> simp [e]

@[simp] theorem landSnap_spad (c : Core) (n i : Nat) (e : SnapEntry) : (c.landSnap n i e).spad = c.spad := by
  simp [Core.landSnap]

@[simp] theorem observeTags_spad (c : Core) (q : Sq) (ts : List Nat) : (c.observeTags q ts).spad = c.spad :=
  foldl_keeps (fun k : Core => k.spad = c.spad) _ (fun _ _ h => (modSeqC_spad _ _ _).trans h) ts c rfl

@[simp] theorem noteAccept_spad (c : Core) (e : PathClass) (q : Sq) : (c.noteAccept e q).spad = c.spad := rfl

@[simp] theorem clearIteration_spad (c : Core) : c.clearIteration.spad = c.spad := rfl

theorem foldl_spad {α : Type} {f : Core → α → Core} (hf : ∀ c x, (f c x).spad = c.spad) (xs : List α) (c : Core) :
    (xs.foldl f c).spad = c.spad := foldl_keeps (fun k => k.spad = c.spad) f (fun k x h => (hf k x).trans h) xs c rfl

/-- A list of cells above an address is one above any lower address. -/
theorem cellsWfFrom_mono {lo hi : Nat} {cs : List Host.Cell} (l : lo ≤ hi) (h : cellsWfFrom hi cs = true) : cellsWfFrom lo cs = true := by
  cases cs with
  | nil => rfl
  | cons x cs =>
    simp only [cellsWfFrom, Bool.and_eq_true, decide_eq_true_eq] at h ⊢
    exact ⟨⟨l.trans h.1.1, h.1.2⟩, h.2⟩

theorem cellsWfFrom_filter (p : Host.Cell → Bool) {lo : Nat} {cs : List Host.Cell} (h : cellsWfFrom lo cs = true) :
    cellsWfFrom lo (cs.filter p) = true := by
  induction cs generalizing lo with
  | nil => rfl
  | cons x cs ih =>
    simp only [cellsWfFrom, Bool.and_eq_true, decide_eq_true_eq] at h
    obtain ⟨⟨hlo, hv⟩, hcs⟩ := h
    rw [List.filter_cons]
    split
    · simp only [cellsWfFrom, Bool.and_eq_true, decide_eq_true_eq]
      exact ⟨⟨hlo, hv⟩, ih hcs⟩
    · exact cellsWfFrom_mono (Nat.le_succ_of_le hlo) (ih hcs)

/-- Restoring a context image writes the scratchpad byte by byte. -/
theorem restoreCore_wf (c : Core) (im : ImageData) (h : cellsWf c.spad = true) : cellsWf (c.restoreCore im).spad = true :=
  cellsFold_wf _ _ _ _ (foldl_keeps (fun k : Core => cellsWf k.spad = true) _ (fun k r hk => by rw [setRow_spad]; exact hk) im.rows _ h)

theorem restored_wf (c : Core) (im : ImageData) (h : cellsWf c.spad = true) : cellsWf (c.restored im).spad = true :=
  restoreCore_wf c im h

section
variable {D : CoreId → Prop} {s : State}

theorem ite_canon {p : Prop} {_ : Decidable p} {s t : State} (hs : s.CanonOn D) (ht : t.CanonOn D) : (if p then s else t).CanonOn D := by
  split <;> assumption

theorem ite_act {p : Prop} {_ : Decidable p} {s t : Act} (hs : s.CanonOn D) (ht : t.CanonOn D) : (if p then s else t).CanonOn D := by
  split <;> assumption

theorem ite_out {p : Prop} {_ : Decidable p} {s t : Out} (hs : OutCanon D s) (ht : OutCanon D t) : OutCanon D (if p then s else t) := by
  split <;> assumption

theorem done_canon {f : Flow} {b : Bool} (h : s.CanonOn D) : (Act.done s f b).CanonOn D := h

theorem stall_canon (h : s.CanonOn D) : (Act.stall s).CanonOn D := h

theorem fault_canon {t : Trap} (h : s.CanonOn D) : (Act.fault s t).CanonOn D := h

theorem trap_canon {t : Trap} : (Act.trap t).CanonOn D := trivial

theorem next_canon (h : s.CanonOn D) : OutCanon D (.next s) := h

/-- An update that leaves the bytes of memory and the cores. -/
theorem upd_canon {t : State} (h : s.CanonOn D) (hm : t.mem.cells = s.mem.cells := by rfl) (hc : t.cores = s.cores := by rfl) :
    t.CanonOn D := by
  refine ⟨?_, fun c hd => ?_⟩
  · unfold Memory.wf; rw [hm]; exact h.1
  · unfold State.core; rw [hc]; exact h.2 c hd

theorem mk_canon {α : Type} {a : α} {t : State} (h : t.CanonOn D) : (a, t).2.CanonOn D := h

theorem mk_canon₃ {α β : Type} {a : α} {b : β} {t : State} (h : t.CanonOn D) : (a, b, t).2.2.CanonOn D := h

theorem mk_canon₄ {α β γ : Type} {a : α} {b : β} {c : γ} {t : State} (h : t.CanonOn D) : (a, b, c, t).2.2.2.CanonOn D := h

theorem ite_canon₂ {α : Type} {p : Prop} {_ : Decidable p} {v w : α × State} (hv : v.2.CanonOn D) (hw : w.2.CanonOn D) :
    (if p then v else w).2.CanonOn D := by
  split <;> assumption

theorem ite_canon₃ {α β : Type} {p : Prop} {_ : Decidable p} {v w : α × β × State} (hv : v.2.2.CanonOn D) (hw : w.2.2.CanonOn D) :
    (if p then v else w).2.2.CanonOn D := by
  split <;> assumption

theorem canon_of {α : Type} {v : α × State} {a : α} {t : State} (e : v = (a, t)) (h : v.2.CanonOn D) : t.CanonOn D := by
  subst e; exact h

theorem canon_of₃ {α β : Type} {v : α × β × State} {a : α} {b : β} {t : State} (e : v = (a, b, t)) (h : v.2.2.CanonOn D) :
    t.CanonOn D := by
  subst e; exact h

theorem canon_of₄ {α β γ : Type} {v : α × β × γ × State} {a : α} {b : β} {c : γ} {t : State} (e : v = (a, b, c, t))
    (h : v.2.2.2.CanonOn D) :
    t.CanonOn D := by
  subst e; exact h

theorem canon_of_done {v : Act} {f : Flow} {b : Bool} (e : v = .done s f b) (h : v.CanonOn D) : s.CanonOn D := by
  subst e; exact h

theorem canon_of_stall {v : Act} (e : v = .stall s) (h : v.CanonOn D) : s.CanonOn D := by
  subst e; exact h

theorem canon_of_fault {v : Act} {t : Trap} (e : v = .fault s t) (h : v.CanonOn D) : s.CanonOn D := by
  subst e; exact h

theorem canon_of_next {v : Out} (e : v = .next s) (h : OutCanon D v) : s.CanonOn D := by
  subst e; exact h

theorem elim_canon {α : Type} {o : Option α} {f : α → State} (h : s.CanonOn D) (hf : ∀ x, (f x).CanonOn D) :
    (o.elim s f).CanonOn D := by
  cases o
  · exact h
  · exact hf _

theorem foldl_canon {α : Type} {f : State → α → State} {xs : List α} (hf : ∀ s x, s.CanonOn D → (f s x).CanonOn D)
    (h : s.CanonOn D) : (xs.foldl f s).CanonOn D := foldl_keeps (fun t => t.CanonOn D) f hf xs s h

theorem foldl_snd_canon {α β : Type} {f : β × State → α → β × State} {v : β × State} {xs : List α}
    (hf : ∀ v x, v.2.CanonOn D → (f v x).2.CanonOn D) (h : v.2.CanonOn D) : (xs.foldl f v).2.CanonOn D :=
  foldl_keeps (fun t : β × State => t.2.CanonOn D) f hf xs v h

theorem foldl_snd_canon₃ {α β γ : Type} {f : β × γ × State → α → β × γ × State} {v : β × γ × State} {xs : List α}
    (hf : ∀ v x, v.2.2.CanonOn D → (f v x).2.2.CanonOn D) (h : v.2.2.CanonOn D) : (xs.foldl f v).2.2.CanonOn D :=
  foldl_keeps (fun t : β × γ × State => t.2.2.CanonOn D) f hf xs v h

/-- A new memory in canonical form, the cores left alone. -/
theorem setMem_canon {t : State} (h : s.CanonOn D) (hm : t.mem.wf = true) (hc : t.cores = s.cores := by rfl) :
    t.CanonOn D := by
  refine ⟨hm, fun c hd => ?_⟩
  unfold State.core; rw [hc]; exact h.2 c hd

theorem setCore_canon {c : CoreId} {v : Core} (h : s.CanonOn D) (hv : D c → cellsWf v.spad = true) : (s.setCore c v).CanonOn D := by
  refine ⟨h.1, fun d hd => ?_⟩
  by_cases e : d = c
  · subst e; rw [core_setCore]; exact hv hd
  · rw [core_setCore_ne s v e]; exact h.2 d hd

theorem modCore_wf {c : CoreId} {f : Core → Core} (h : s.CanonOn D)
    (hf : ∀ k, cellsWf k.spad = true → cellsWf (f k).spad = true) : (s.modCore c f).CanonOn D := by
  unfold State.modCore
  exact setCore_canon h fun hc => hf _ (h.2 c hc)

theorem modCore_canon {c : CoreId} {f : Core → Core} (h : s.CanonOn D) (hf : ∀ k, (f k).spad = k.spad := by intro; rfl) :
    (s.modCore c f).CanonOn D :=
  modCore_wf h fun k hk => by rw [hf]; exact hk

theorem modSeq_canon {w : Who} {f : Seq → Seq} (h : s.CanonOn D) : (s.modSeq w f).CanonOn D :=
  modCore_canon h fun _ => modSeqC_spad _ _ _

theorem core_mapCores (s : State) (f : CoreId → Core → Core) (c : CoreId) : (s.mapCores f).core c = f c (s.core c) := by
  show (Vector.ofFn fun i => f i (s.core i))[c.val] = _
  exact Vector.getElem_ofFn c.isLt

theorem mapCores_wf {f : CoreId → Core → Core} (h : s.CanonOn D)
    (hf : ∀ c k, cellsWf k.spad = true → cellsWf (f c k).spad = true) : (s.mapCores f).CanonOn D := by
  refine ⟨by rw [mapCores_mem]; exact h.1, fun c hc => ?_⟩
  rw [core_mapCores]
  exact hf c _ (h.2 c hc)

theorem mapCores_canon {f : CoreId → Core → Core} (h : s.CanonOn D) (hf : ∀ c k, (f c k).spad = k.spad := by intros; rfl) :
    (s.mapCores f).CanonOn D :=
  mapCores_wf h fun c k hk => by rw [hf]; exact hk

/-- What only reads and writes memory and keeps its form. -/
theorem Aside.canon {t : State} (k : Aside s t) (h : s.CanonOn D) (w : t.mem.wf = true) : t.CanonOn D := by
  refine ⟨w, fun c hc => ?_⟩
  obtain ⟨_, _, _, _, e⟩ := k.core c
  rw [e]; exact h.2 c hc

theorem State.Settles.canon {t : State} (k : s.Settles t) (h : s.CanonOn D) (w : t.mem.wf = true) : t.CanonOn D := by
  refine ⟨w, fun c hc => ?_⟩
  obtain ⟨_, _, _, _, _, _, _, _, _, _, _, _, _, e⟩ := k.core c
  rw [e]; exact h.2 c hc

end

section
variable {D : CoreId → Prop} {s : State}

/-! ### Reset state -/

/-- After reset memory and every scratchpad are empty. -/
theorem reset_canon : State.reset.CanonOn D := by
  refine ⟨rfl, fun c _ => ?_⟩
  have e : State.reset.core c = Core.reset := Vector.getElem_replicate c.isLt
  rw [e]; rfl

/-! ### Reads and writes of bytes (Access) -/

theorem freeBit_canon (h : s.CanonOn D) : s.freeBit.2.CanonOn D :=
  upd_canon h

theorem freeNat_canon (h : s.CanonOn D) : s.freeNat.2.CanonOn D :=
  upd_canon h

theorem modLaunch_canon {id : Nat} {f : Launch → Launch} (h : s.CanonOn D) : (s.modLaunch id f).CanonOn D :=
  upd_canon h

theorem emit_canon {o : Output} (h : s.CanonOn D) : (s.emit o).CanonOn D :=
  upd_canon h

/-! ### Memory: writes, poison, tapes, and the AMOs that memory performs -/

theorem stubHold_canon {i : Nat} {h' : HeldAccess} (h : s.CanonOn D) : (s.stubHold i h').CanonOn D :=
  upd_canon h

theorem sendAway_canon {h' : HeldAccess} (h : s.CanonOn D) : (s.sendAway h').CanonOn D := by
  unfold State.sendAway
  split
  · exact stubHold_canon h
  · exact upd_canon h

theorem emptyTape_canon {c : CoreId} {t : Fin 16} {status : Nat} (h : s.CanonOn D) : (s.emptyTape c t status).CanonOn D := by
  unfold State.emptyTape
  extract_lets s1
  have h1 : s1.CanonOn D := modCore_canon h
  exact upd_canon h1

theorem touchCode_canon {pas : List Nat} (h : s.CanonOn D) : (s.touchCode pas).CanonOn D :=
  foldl_canon (fun _ _ h1 => emptyTape_canon h1) h

theorem setMark_canon {sec : Nat} {m : Option SectorMark} (h : s.CanonOn D) : (s.setMark sec m).CanonOn D :=
  upd_canon h

theorem countUe_canon {sec place : Nat} (h : s.CanonOn D) : (s.countUe sec place).CanonOn D :=
  upd_canon h

theorem foundOnDie_canon {idx : Nat} (h : s.CanonOn D) : (s.foundOnDie idx).CanonOn D :=
  countUe_canon h

theorem checkSector_canon {sec : Nat} (h : s.CanonOn D) : (s.checkSector sec).2.CanonOn D :=
  (checkSector_aside s sec).canon h ((checkSector_bytes s sec).wf h.1)

theorem checkSectors_canon {ks : List Nat} (h : s.CanonOn D) : (s.checkSectors ks).2.CanonOn D :=
  (checkSectors_aside ks s).canon h ((checkSectors_bytes ks s).wf h.1)

theorem rewrite_canon {v : Nat × SectorNow} (h : s.CanonOn D) : (s.rewrite v).CanonOn D :=
  (rewrite_aside s v).canon h (rewrite_wf s v h.1)

theorem readCells_canon {ord : WriteRec → Bool} {pas : List Nat} (h : s.CanonOn D) : (s.readCells ord pas).2.CanonOn D :=
  (readCells_aside s ord pas).canon h ((readCells_bytes s ord pas).wf h.1)

theorem readPas_canon {ord : WriteRec → Bool} {pas : List Nat} (h : s.CanonOn D) : (s.readPas ord pas).2.CanonOn D :=
  (readPas_aside s ord pas).canon h ((readPas_bytes s ord pas).wf h.1)

theorem readAs_canon {a : Actor} {pas : List Nat} (h : s.CanonOn D) : (s.readAs a pas).2.CanonOn D :=
  (readAs_aside s a pas).canon h ((readAs_bytes s a pas).wf h.1)

theorem putPas_canon {a : Actor} {k : WriteKind} {ws : List (Nat × Byte)} (h : s.CanonOn D) : (s.putPas a k ws).CanonOn D :=
  (putPas_aside s a k ws).canon h (putPas_wf s a k ws h.1)

theorem writePas_canon {a : Actor} {k : WriteKind} {ws : List (Nat × Byte)} (h : s.CanonOn D) : (s.writePas a k ws).CanonOn D :=
  (writePas_aside s a k ws).canon h (writePas_wf s a k ws h.1)

theorem poisonPas_canon {a : Actor} {pas : List Nat} (h : s.CanonOn D) : (s.poisonPas a pas).CanonOn D :=
  (poisonPas_aside s a pas).canon h (poisonPas_wf s a pas h.1)

theorem writeBack_canon {pa : Nat} (h : s.CanonOn D) : (s.writeBack pa).CanonOn D :=
  upd_canon h

theorem flushEntry_canon {die : Fin 4} {e : CombineEntry} (h : s.CanonOn D) : (s.flushEntry die e).CanonOn D :=
  (flushEntry_aside s die e).canon h (flushEntry_wf s die e h.1)

theorem flushWhere_canon {die : Fin 4} {p : CombineEntry → Bool} (h : s.CanonOn D) : (s.flushWhere die p).CanonOn D :=
  (flushWhere_aside s die p).canon h (flushWhere_wf s die p h.1)

theorem flushCore_canon {c : CoreId} (h : s.CanonOn D) : (s.flushCore c).CanonOn D :=
  flushWhere_canon h

theorem flushLines_canon {c : CoreId} {pas : List Nat} (h : s.CanonOn D) : (s.flushLines c pas).CanonOn D :=
  flushWhere_canon h

theorem coreRead_canon {c : CoreId} {ord : WriteRec → Bool} {pas : List Nat} (h : s.CanonOn D) : (s.coreRead c ord pas).2.CanonOn D :=
  readPas_canon (flushLines_canon h)

theorem readEntry_canon {c : CoreId} {ord : WriteRec → Bool} {va lvl t : Nat} (h : s.CanonOn D) :
    (s.readEntry c ord va lvl t).2.CanonOn D := by
  unfold State.readEntry
  dsimp -zeta only
  exact coreRead_canon h

theorem then_canon {v : WalkStep × State} {k : State → Nat → Except Nat Leaf × State} (h : v.2.CanonOn D)
    (hf : ∀ (t : State) (n : Nat), t.CanonOn D → (k t n).2.CanonOn D) : (WalkStep.then v k).2.CanonOn D := by
  unfold WalkStep.then
  split
  · exact h
  · exact h
  · exact hf _ _ h

theorem walk_canon :
    ∀ {s : State} {c : CoreId} {ord : WriteRec → Bool} {va n m : Nat}, s.CanonOn D → (s.walk c ord va n m).2.CanonOn D
  | _, _, _, _, 0, _, h => by
    unfold State.walk
    exact then_canon (readEntry_canon h) (fun _ _ h1 => h1)
  | _, _, _, _, _ + 1, _, h => by
    unfold State.walk
    exact then_canon (readEntry_canon h) (fun _ _ h1 => walk_canon h1)

theorem tlbFill_canon {c : CoreId} {e : TlbEntry} (h : s.CanonOn D) : (s.tlbFill c e).CanonOn D :=
  upd_canon (ite_canon₂ h (freeNat_canon h))

theorem translate_canon {a : Actor} {c : CoreId} {ten : BitVec 8} {need : Need} {va : Nat} (h : s.CanonOn D) :
    (s.translate a c ten need va).2.CanonOn D := by
  unfold State.translate
  dsimp -zeta only
  extract_lets
  refine ite_canon₂ h (ite_canon₂ h (ite_canon₂ h (ite_canon₂ ?_ ?_)))
  · split
    · exact mk_canon (freeNat_canon (walk_canon h))
    · exact mk_canon (freeNat_canon (walk_canon h))
  · split
    · exact mk_canon (walk_canon h)
    · split
      · exact mk_canon (walk_canon h)
      · exact mk_canon (tlbFill_canon (walk_canon h))

theorem translateUnits_canon :
    ∀ {s : State} {a : Actor} {c : CoreId} {ten : BitVec 8} {need : Need} {n m l : Nat}, s.CanonOn D →
      (s.translateUnits a c ten need n m l).2.CanonOn D
  | _, _, _, _, _, 0, _, _, h => h
  | _, _, _, _, _, _ + 1, _, _, h => by
    unfold State.translateUnits
    extract_lets
    refine ite_canon₂ h ?_
    split
    · exact mk_canon (canon_of ‹_› (translate_canon h))
    · split
      · exact mk_canon (canon_of ‹_› (translateUnits_canon (canon_of ‹_› (translate_canon h))))
      · exact mk_canon (canon_of ‹_› (translateUnits_canon (canon_of ‹_› (translate_canon h))))

theorem translateBytes_canon {a : Actor} {c : CoreId} {ten : BitVec 8} {need : Need} {va n : Nat} (h : s.CanonOn D) :
    (s.translateBytes a c ten need va n).2.CanonOn D :=
  translateUnits_canon h

theorem foundSpad_canon {c : CoreId} {secs : List Nat} (h : s.CanonOn D) : (s.foundSpad c secs).CanonOn D :=
  foldl_canon (fun _ _ h => upd_canon h) h

theorem spadLoad_canon {c : CoreId} {a : Actor} {adr n : Nat} (h : s.CanonOn D) : (s.spadLoad c a adr n).2.2.CanonOn D :=
  foundSpad_canon (upd_canon h)

theorem spadStore_canon {c : CoreId} {a : Actor} {adr : Nat} {bs : List Byte} (h : s.CanonOn D) : (s.spadStore c a adr bs).CanonOn D :=
  modCore_wf h (fun _ hk => spadWrite_wf _ _ _ hk)

/-! ### Pages elsewhere, and accesses performed later (Homes) -/

theorem arm_canon {a : Actor} {access release : Bool} (h : s.CanonOn D) : (s.arm a access release).CanonOn D :=
  upd_canon h

theorem armPubs_canon {a : Actor} (h : s.CanonOn D) : (s.armPubs a).CanonOn D :=
  arm_canon h

theorem acquire_canon {w : Who} {n : Nat} {rs : List Rel} (h : s.CanonOn D) : (s.acquire w n rs).CanonOn D :=
  (acquire_settles s w n rs).canon h (acquire_wf s w n rs h.1)

theorem holdAt_canon {a : HeldAccess} (h : s.CanonOn D) : (s.holdAt a).CanonOn D :=
  (holdAt_aside s a).canon h (by rw [holdAt_mem]; exact h.1)

theorem performHeld_canon {a : HeldAccess} (h : s.CanonOn D) : (s.performHeld a).2.CanonOn D :=
  (performHeld_settles s a).canon h (performHeld_wf s a h.1)

theorem reply_canon {a : HeldAccess} {bs : List (Byte × Bool)} (h : s.CanonOn D) : (s.reply a bs).CanonOn D :=
  (reply_settles s a bs).canon h (by rw [reply_mem]; exact h.1)

theorem performPend_canon {a : HeldAccess} (h : s.CanonOn D) : (s.performPend a).CanonOn D :=
  (performPend_settles s a).canon h (performPend_wf s a h.1)

theorem access_canon {a : HeldAccess} (h : s.CanonOn D) : (s.access a).CanonOn D :=
  (access_settles s a).canon h (access_wf s a h.1)

theorem settle_canon {a : Actor} {rel : Bool} (h : s.CanonOn D) : (s.settle a rel).CanonOn D :=
  (settle_settles s a rel).canon h (settle_wf s a rel h.1)

theorem askFar_canon {k : Asker} {missing : List Nat} (h : s.CanonOn D) : (s.askFar k missing).CanonOn D :=
  foldl_canon (fun _ _ h1 => sendAway_canon h1) h

/-- Where a step keeps the form, so does making it with the bytes that have come for it (R434). -/
theorem withFar_ok_canon {k : Asker} {step : State → State} {t : State} (e : s.withFar k step = .ok t)
    (hf : ∀ s, s.CanonOn D → (step s).CanonOn D) (h : s.CanonOn D) : t.CanonOn D := by
  unfold State.withFar at e
  extract_lets _ _ u at e
  have hu : u.CanonOn D := hf _ (upd_canon h)
  clear_value u
  split at e
  · contradiction
  · split at e
    · exact Except.ok.inj e ▸ upd_canon hu
    · contradiction

/-- The state in which a step waits for such bytes keeps it too. -/
theorem withFar_canon {k : Asker} {step : State → State} {t : State} (e : s.withFar k step = .error t) (h : s.CanonOn D) :
    t.CanonOn D := by
  unfold State.withFar at e
  extract_lets _ _ u at e
  clear_value u
  split at e
  · exact Except.error.inj e ▸ h
  · split at e
    · contradiction
    · exact Except.error.inj e ▸ askFar_canon h

/-! ### The issue of an instruction, and traps (Ops) -/

theorem fly_canon {cx : Cx} {notBefore : Nat} {matrix : Bool} {rs : List Result} (h : s.CanonOn D) :
    (s.fly cx notBefore matrix rs).CanonOn D :=
  modCore_canon h

theorem awaiting_canon {cx : Cx} {n sx : Nat} (h : s.CanonOn D) : (s.awaiting cx n sx).CanonOn D :=
  modCore_canon h

theorem abandon_canon {c : CoreId} {status : Nat} (h : s.CanonOn D) : (s.abandon c status).CanonOn D := by
  unfold State.abandon
  extract_lets
  refine ite_canon ?_ h
  split
  · extract_lets s1
    have h1 : s1.CanonOn D := emptyTape_canon h
    exact modCore_canon h1
  · exact h

theorem endIteration_canon {c : CoreId} {status : Nat} {cause : BitVec 32} {va : Word} (h : s.CanonOn D) :
    (s.endIteration c status cause va).CanonOn D := by
  unfold State.endIteration
  extract_lets s1 s2
  have h1 : s1.CanonOn D := abandon_canon h
  have h2 : s2.CanonOn D := modCore_canon h1 (fun _ => by simp)
  split
  · exact h2
  · exact modLaunch_canon h2

theorem replayFaultOf_canon {w : Who} {t : Trap} (h : s.CanonOn D) : (s.replayFaultOf w t).CanonOn D :=
  modCore_canon h (fun _ => by split <;> rfl)

theorem raise_canon {w : Who} {t : Trap} (h : s.CanonOn D) : (s.raise w t).CanonOn D := by
  unfold State.raise
  extract_lets _ s1 s2
  have h1 : s1.CanonOn D := abandon_canon h
  have h2 : s2.CanonOn D := flushCore_canon h1
  exact ite_canon (replayFaultOf_canon h) (ite_canon (endIteration_canon h) (ite_canon h (modCore_canon h2)))

theorem endTest_canon {w : Who} (h : s.CanonOn D) : (s.endTest w).CanonOn D := by
  unfold State.endTest
  extract_lets _ _ s1 s2
  have h1 : s1.CanonOn D := modSeq_canon h
  have h2 : s2.CanonOn D := modCore_canon h1 (fun _ => by split <;> rfl)
  exact ite_canon (ite_canon (abandon_canon h2) h1) h

theorem movePc_canon {cx : Cx} {f : Flow} (h : s.CanonOn D) : (s.movePc cx f).1.CanonOn D := by
  unfold State.movePc
  dsimp -zeta only
  split
  · exact h
  · dsimp only
    exact modSeq_canon h
  · extract_lets
    dsimp only
    exact modSeq_canon h
  · extract_lets
    dsimp only
    exact modSeq_canon h

theorem fetchBytes_canon {w : Who} {va n : Nat} (h : s.CanonOn D) : (s.fetchBytes w va n).2.CanonOn D := by
  unfold State.fetchBytes
  dsimp -zeta only
  extract_lets
  refine ite_canon₂ h ?_
  split
  · exact mk_canon (canon_of ‹_› (translateBytes_canon h))
  · exact mk_canon (coreRead_canon (canon_of ‹_› (translateBytes_canon h)))

theorem codeBytes_canon {w : Who} {va n : Nat} (h : s.CanonOn D) : (s.codeBytes w va n).2.CanonOn D := by
  unfold State.codeBytes
  extract_lets
  refine ite_canon₂ h ?_
  split
  · exact canon_of ‹_› (fetchBytes_canon h)
  have h1 := canon_of ‹_› (fetchBytes_canon h)
  extract_lets t
  have h2 : t.CanonOn D := ite_canon (modCore_canon h1 fun _ => derrRecord_spad _ _ _) h1
  exact mk_canon (ite_canon (modSeq_canon h2) h2)

theorem fetchRest_canon :
    ∀ {s : State} {w : Who} {buf : List Host.Cell} {xs : List Nat}, s.CanonOn D → (s.fetchRest w buf xs).CanonOn D
  | _, _, _, [], h => h
  | _, _, _, _ :: _, h => by
    unfold State.fetchRest
    refine ite_canon (fetchRest_canon h) ?_
    split
    · exact fetchRest_canon (modSeq_canon (canon_of ‹_› (fetchBytes_canon h)))
    · exact fetchRest_canon (canon_of ‹_› (fetchBytes_canon h))

theorem fillLoop_canon {w : Who} (h : s.CanonOn D) : (s.fillLoop w).CanonOn D := by
  unfold State.fillLoop
  extract_lets
  split
  · exact ite_canon (fetchRest_canon h) h
  · exact h

theorem appendEntry_canon {c : CoreId} {t : Fin 16} {e : TapeEntry} {ps : List PatchRec} (h : s.CanonOn D) :
    (s.appendEntry c t e ps).CanonOn D :=
  ite_canon (abandon_canon h) (modCore_canon h)

theorem usedLine_canon {w : Who} {line : Nat} (h : s.CanonOn D) : (s.usedLine w line).CanonOn D := by
  unfold State.usedLine
  extract_lets _ _ home s1
  have h1 : s1.CanonOn D := modCore_canon h
  clear_value home
  split
  · refine ite_canon h ?_
    split
    · exact upd_canon h1
    · exact h1
  · exact h

theorem record_canon {cx : Cx} {sp : Spec} (h : s.CanonOn D) : (s.record cx sp).CanonOn D := by
  unfold State.record
  extract_lets _ _ _ s1
  have h1 : s1.CanonOn D := foldl_canon (fun _ _ h1 => usedLine_canon h1) h
  split
  · exact ite_canon h (ite_canon (abandon_canon h1)
      (ite_canon (abandon_canon h1) (ite_canon (appendEntry_canon h1) (ite_canon (appendEntry_canon h1) h1))))
  · exact h

theorem classify_canon {cx : Cx} {sp : Spec} {old : Seq} (h : s.CanonOn D) : (s.classify cx sp old).CanonOn D :=
  ite_canon (modSeq_canon h) h

theorem waiting_canon {w : Who} {k : Wait} (h : s.CanonOn D) : (s.waiting w k).CanonOn D :=
  modSeq_canon h

theorem advanceReplay_canon {cx : Cx} {sp : Spec} (h : s.CanonOn D) : (s.advanceReplay cx sp).CanonOn D :=
  modCore_canon h (fun _ => by split <;> simp)

theorem loadOperands_canon {sp : Spec} (h : s.CanonOn D) : (s.loadOperands sp).CanonOn D := by
  unfold State.loadOperands
  extract_lets
  split
  · exact ite_canon h (modSeq_canon h)
  · exact h

theorem conclude_canon {cx : Cx} {sp : Spec} {f : Flow} {pushed : Bool} (h : s.CanonOn D) : (s.conclude cx sp f pushed).CanonOn D := by
  unfold State.conclude
  dsimp -zeta only
  extract_lets _ _ s1 s2 s3 s4 s5 s6
  have h1 : s1.CanonOn D := ite_canon (arm_canon (flushCore_canon h)) h
  have h2 : s2.CanonOn D := ite_canon (modCore_canon h1 (fun _ => by simp)) h1
  have h3 : s3.CanonOn D := classify_canon h2
  have h4 : s4.CanonOn D := modSeq_canon h3
  have h5 : s5.CanonOn D := ite_canon (movePc_canon h4) (fillLoop_canon (movePc_canon h4))
  have h6 : s6.CanonOn D := ite_canon (abandon_canon h5) h5
  exact ite_canon (advanceReplay_canon h2) (endTest_canon h6)

theorem settleFor_canon {cx : Cx} {sp : Spec} (h : s.CanonOn D) : (s.settleFor cx sp).CanonOn D :=
  foldl_canon (fun _ _ h1 => settle_canon h1) (ite_canon (flushCore_canon h) h)

theorem unpopped_canon {t : State} {w : Who} (h : t.CanonOn D) : (t.unpopped s w).CanonOn D := by
  unfold State.unpopped
  extract_lets s1
  have h2 : s1.CanonOn D := modCore_canon h (fun _ => by simp)
  exact upd_canon h2

theorem issueCode_canon {sp : Spec} {body : Cx → State → Act}
    (hf : ∀ cx s, cx.s0.CanonOn D → s.CanonOn D → (body cx s).CanonOn D) (h : s.CanonOn D) : OutCanon D (issueCode sp body s) := by
  unfold issueCode
  extract_lets cx k s1 cx1 s2 s3 s4
  have h1 : s1.CanonOn D := settleFor_canon h
  have h2 : s2.CanonOn D := foldl_canon (fun _ _ h => foundOnDie_canon h) h1
  have h3 : s3.CanonOn D := modCore_canon h2 fun _ => by simp
  have h4 : s4.CanonOn D := upd_canon h3
  have hb : (body cx1 s4).CanonOn D := hf _ _ h1 h4
  refine ite_out (next_canon (raise_canon h)) (ite_out (next_canon (waiting_canon h)) (ite_out (next_canon (waiting_canon h))
    (ite_out (next_canon (waiting_canon h1)) ?_)))
  split
  · exact next_canon (raise_canon h2)
  · exact next_canon (raise_canon (unpopped_canon (canon_of_fault ‹_› hb)))
  · exact next_canon (waiting_canon (canon_of_stall ‹_› hb))
  · rename_i u f pushed e
    have hu : u.CanonOn D := canon_of_done e hb
    extract_lets u1
    have hu1 : u1.CanonOn D := ite_canon hu (record_canon hu)
    exact next_canon (conclude_canon hu1)

theorem issue_canon {sp : Spec} {body : Cx → State → Act}
    (hf : ∀ (cx : Cx) (t : State), cx.s0.CanonOn D → t.CanonOn D → (body cx t).CanonOn D) (h : s.CanonOn D) :
    OutCanon D (issue sp body s) := by
  unfold issue
  split
  · exact issueCode_canon (fun _ _ h1 h2 => hf _ _ h1 h2) h
  · split
    · exact next_canon (modSeq_canon (canon_of_next ‹_› (issueCode_canon (fun _ _ h1 h2 => hf _ _ h1 h2) (loadOperands_canon h))))
    · exact trivial
    · exact trivial

theorem land_canon {cx : Cx} {rs : List Result} (h : s.CanonOn D) : (Act.land cx s rs).CanonOn D :=
  done_canon (fly_canon h)

/-! ### Arming publications (Order) -/

theorem fenceEdge_canon {w : Who} {stamp : Nat} {ca cb : PathClass} {sc : Scope} {ids : List Nat} (h : s.CanonOn D) :
    (s.fenceEdge w stamp ca cb sc ids).CanonOn D := by
  unfold State.fenceEdge
  extract_lets _ _ _ _ s1 _ s2
  have h1 : s1.CanonOn D := modSeq_canon h
  have h2 : s2.CanonOn D := modCore_canon h1
  exact ite_canon (upd_canon h2) h2

/-! ### Quayline: flits, lanes and what peers ask (Quayline) -/

theorem modPair_canon {p : Nat} {f : Pair → Pair} (h : s.CanonOn D) : (s.modPair p f).CanonOn D :=
  upd_canon h

theorem modTx_canon {i : Fin 256} {f : TxLane → TxLane} (h : s.CanonOn D) : (s.modTx i f).CanonOn D :=
  upd_canon h

theorem modRx_canon {i : Fin 256} {f : RxSlot → RxSlot} (h : s.CanonOn D) : (s.modRx i f).CanonOn D :=
  upd_canon h

theorem transmit_canon {p : Nat} {l : Fin 256} {header : BitVec 64} {payload : BitVec 1024} (h : s.CanonOn D) :
    (s.transmit p l header payload).CanonOn D :=
  emit_canon (modTx_canon h)

theorem assignFlit_canon {p : Nat} {f : SentFlit} {l : Fin 256} (h : s.CanonOn D) : (s.assignFlit p f l).CanonOn D :=
  transmit_canon (modPair_canon h)

theorem sendIdle_canon (h : s.CanonOn D) : s.sendIdle.CanonOn D :=
  foldl_canon (fun _ _ h1 => transmit_canon h1) h

theorem pump_canon :
    ∀ {s : State} {p n : Nat}, s.CanonOn D → (s.pump p n).CanonOn D
  | _, _, 0, h => h
  | _, _, _ + 1, h => by
    unfold State.pump
    extract_lets
    split
    · split
      · exact h
      · exact pump_canon (assignFlit_canon h)
    · split
      · exact h
      · exact ite_canon h (pump_canon (modPair_canon h))

theorem flushPair_canon {p : Nat} (h : s.CanonOn D) : (s.flushPair p).CanonOn D :=
  pump_canon h

theorem sendFlit_canon {p type : Nat} {bs : List Byte} (h : s.CanonOn D) : (s.sendFlit p type bs).CanonOn D :=
  flushPair_canon (modPair_canon h)

theorem ackFlits_canon {p ack : Nat} (h : s.CanonOn D) : (s.ackFlits p ack).CanonOn D :=
  flushPair_canon (modPair_canon h)

theorem execRetransmitTimeout_canon {peer : Fin 64} {seq : Nat} (h : s.CanonOn D) : OutCanon D (execRetransmitTimeout peer seq s) := by
  unfold execRetransmitTimeout
  split
  · exact next_canon h
  · refine ite_out (next_canon h) ?_
    split
    · exact next_canon h
    · exact next_canon (assignFlit_canon h)

theorem sendCtrl_canon {p op plane slot : Nat} {ten : BitVec 8} {map : Nat} (h : s.CanonOn D) :
    (s.sendCtrl p op plane slot ten map).CanonOn D :=
  sendFlit_canon h

theorem freeTx_canon {i : Fin 256} (h : s.CanonOn D) : (s.freeTx i).CanonOn D :=
  modTx_canon h

theorem activateTx_canon {i : Fin 256} (h : s.CanonOn D) : (s.activateTx i).CanonOn D :=
  flushPair_canon (modTx_canon h)

theorem dropTx_canon {i : Fin 256} (h : s.CanonOn D) : (s.dropTx i).CanonOn D := by
  unfold State.dropTx
  split
  · exact modTx_canon h
  · exact modTx_canon h
  · exact freeTx_canon h
  · exact freeTx_canon h
  · exact h

theorem grantSlot_canon {p plane : Nat} {ten : BitVec 8} {t : State} (e : s.grantSlot p plane ten = some t) (h : s.CanonOn D) :
    t.CanonOn D := by
  unfold State.grantSlot at e
  split at e
  · cases e
  · split at e
    · cases e
    · cases e
      exact sendCtrl_canon (modRx_canon h)

theorem freeRx_canon {i : Fin 256} (h : s.CanonOn D) : (s.freeRx i).CanonOn D := by
  unfold State.freeRx
  extract_lets s1
  have h1 : s1.CanonOn D := modRx_canon h
  split
  · exact h1
  · split
    · exact h1
    · exact upd_canon (grantSlot_canon ‹_› h1)

theorem dropRx_canon {i : Fin 256} {revoked : Bool} (h : s.CanonOn D) : (s.dropRx i revoked).CanonOn D := by
  unfold State.dropRx
  split
  · exact modRx_canon h
  · exact modRx_canon h
  · exact freeRx_canon h
  · exact freeRx_canon h
  · exact h

theorem tuneMoorings_canon (h : s.CanonOn D) : s.tuneMoorings.CanonOn D := by
  unfold State.tuneMoorings
  exact upd_canon h

/-! ### Store instances and frames (Store) -/

theorem modInst_canon {i : Nat} {f : Inst → Inst} (h : s.CanonOn D) : (s.modInst i f).CanonOn D :=
  upd_canon h

theorem countInst_canon {i k n : Nat} (h : s.CanonOn D) : (s.countInst i k n).CanonOn D :=
  modInst_canon h

theorem signed_canon {t : State} {a : Actor} (h : t.CanonOn D) : (s.signed t a).CanonOn D :=
  upd_canon h

theorem pokeWith_canon {rel : Option Rel} {pa : Nat} {bs : List Byte} (h : s.CanonOn D) : (s.pokeWith rel pa bs).CanonOn D :=
  writePas_canon h

theorem poke_canon {pa : Nat} {bs : List Byte} (h : s.CanonOn D) : (s.poke pa bs).CanonOn D :=
  pokeWith_canon h

theorem frameAs_canon {a : Actor} {sp : List Span} {pa n : Nat} (h : s.CanonOn D) : (s.frameAs a sp pa n).2.2.CanonOn D :=
  readPas_canon h

theorem frameNow_canon {a : Actor} {pa n : Nat} (h : s.CanonOn D) : (s.frameNow a pa n).2.2.CanonOn D :=
  frameAs_canon h

theorem pokeAs_canon {a : Actor} {pa : Nat} {bs : List Byte} (h : s.CanonOn D) : (s.pokeAs a pa bs).CanonOn D :=
  writePas_canon h

theorem writeFill_canon {a : Actor} {c : InstRec} {pa l set fill : Nat} (h : s.CanonOn D) : (s.writeFill a c pa l set fill).CanonOn D :=
  writePas_canon h

theorem fillByte_canon {a : Actor} {c : InstRec} {pa l slot : Nat} (h : s.CanonOn D) : (s.fillByte a c pa l slot).2.2.2.CanonOn D := by
  unfold State.fillByte
  dsimp -zeta only
  split
  · exact mk_canon₄ (readCells_canon h)
  · exact mk_canon₄ (readCells_canon h)

theorem copyFrame_canon {sp : List Span} {src dst n : Nat} (h : s.CanonOn D) : (s.copyFrame sp src dst n).CanonOn D :=
  poisonPas_canon (poke_canon (readPas_canon h))

theorem putIxWith_canon {rel : Option Rel} {c : InstRec} {n : Nat} {e : IxEntry} (h : s.CanonOn D) : (s.putIxWith rel c n e).CanonOn D :=
  pokeWith_canon h

theorem putIx_canon {c : InstRec} {n : Nat} {e : IxEntry} (h : s.CanonOn D) : (s.putIx c n e).CanonOn D :=
  putIxWith_canon h

theorem sealedBytes_canon {a : Actor} {c : InstRec} {n pa len : Nat} (h : s.CanonOn D) : (s.sealedBytes a c n pa len).2.2.CanonOn D :=
  frameAs_canon h

theorem modIx_canon {c : InstRec} {n : Nat} {f : IxEntry → IxEntry} (h : s.CanonOn D) : (s.modIx c n f).CanonOn D :=
  putIx_canon h

theorem dirReg_canon {t : Nat × Nat} {name pkg : Nat} (h : s.CanonOn D) : (s.dirReg t name pkg).CanonOn D := by
  unfold State.dirReg
  split
  · exact poke_canon h
  · split
    · exact poke_canon h
    · exact upd_canon h

theorem dirDereg_canon {t : Nat × Nat} {name pkg : Nat} (h : s.CanonOn D) : (s.dirDereg t name pkg).CanonOn D := by
  unfold State.dirDereg
  split
  · exact h
  · exact ite_canon (poke_canon h) (poke_canon h)

theorem podNotice_canon {i : Nat} {c : InstRec} {op name : Nat} (h : s.CanonOn D) : (s.podNotice i c op name).CanonOn D := by
  unfold State.podNotice
  split
  · exact h
  · exact ite_canon (ite_canon (dirReg_canon h) (dirDereg_canon h)) (sendFlit_canon h)

theorem takeFrame_canon {i tier n : Nat} (h : s.CanonOn D) : (s.takeFrame i tier n).CanonOn D :=
  modInst_canon h

theorem dropFrame_canon {i tier n : Nat} (h : s.CanonOn D) : (s.dropFrame i tier n).CanonOn D :=
  modInst_canon h

theorem dropFrameAt_canon {i : Nat} {c : InstRec} {tier pa : Nat} (h : s.CanonOn D) : (s.dropFrameAt i c tier pa).CanonOn D := by
  unfold State.dropFrameAt
  split
  · exact dropFrame_canon h
  · exact h

theorem dropT0_canon {i : Nat} {c : InstRec} {e : IxEntry} (h : s.CanonOn D) : (s.dropT0 i c e).CanonOn D :=
  ite_canon (modInst_canon h) h

theorem freeOld_canon {i n : Nat} (h : s.CanonOn D) : (s.freeOld i n).CanonOn D :=
  modInst_canon (foldl_canon (fun _ _ h1 => ite_canon h1 (dropFrame_canon h1)) h)

theorem reap_canon :
    ∀ {s : State} {i : Nat} {c : InstRec} {n m : Nat}, s.CanonOn D → (s.reap i c n m).CanonOn D
  | _, _, _, 0, _, h => h
  | _, _, _, _ + 1, _, h => by
    unfold State.reap
    extract_lets _ s1 s2 s3 s4 s5 s6
    have h1 : s1.CanonOn D := freeOld_canon h
    have h2 : s2.CanonOn D := dropT0_canon h1
    have h3 : s3.CanonOn D := dropFrameAt_canon h2
    have h4 : s4.CanonOn D := poke_canon h3
    have h5 : s5.CanonOn D := putIx_canon h4
    have h6 : s6.CanonOn D := podNotice_canon h5
    exact ite_canon (ite_canon h6 (reap_canon (modIx_canon h6))) h

theorem unref_canon {i : Nat} {c : InstRec} {n : Nat} (h : s.CanonOn D) : (s.unref i c n).CanonOn D :=
  reap_canon (ite_canon (freeOld_canon (putIx_canon h)) (putIx_canon h))

theorem markEvicting_canon {i : Nat} {c : InstRec} {n : Nat} (h : s.CanonOn D) : (s.markEvicting i c n).CanonOn D :=
  countInst_canon (poke_canon (putIx_canon h))

theorem evict_canon {i : Nat} {c : InstRec} {n : Nat} (h : s.CanonOn D) : (s.evict i c n).CanonOn D :=
  reap_canon (markEvicting_canon h)

theorem dropNode_canon {i : Nat} {c : InstRec} {n : Nat} (h : s.CanonOn D) : (s.dropNode i c n).CanonOn D :=
  foldl_canon (fun _ _ h1 => reap_canon h1) (foldl_canon (fun _ _ h1 => markEvicting_canon h1) h)

theorem dropFound_canon {i : Nat} {at_ : InstRec → Nat → IxEntry → Bool} (h : s.CanonOn D) : (s.dropFound i at_).CanonOn D := by
  unfold State.dropFound
  split
  · exact h
  · split
    · exact dropNode_canon h
    · exact h

theorem foundPoison_canon {sec : Nat} (h : s.CanonOn D) : (s.foundPoison sec).CanonOn D :=
  foldl_canon (fun _ _ h1 => dropFound_canon h1) h

theorem foundT0_canon {core : CoreId} {sec : Nat} (h : s.CanonOn D) : (s.foundT0 core sec).CanonOn D :=
  foldl_canon (fun _ _ h1 => dropFound_canon h1) h

theorem settlePoison_canon (h : s.CanonOn D) : s.settlePoison.CanonOn D :=
  foldl_canon (fun _ _ h1 => foundT0_canon h1) (foldl_canon (fun _ _ h1 => foundPoison_canon h1) (upd_canon h))

theorem roomT2_canon :
    ∀ {s : State} {i : Nat} {c : InstRec} {n : Nat}, s.CanonOn D → (s.roomT2 i c n).2.CanonOn D
  | _, _, _, 0, h => h
  | _, _, _, _ + 1, h => by
    unfold State.roomT2
    refine ite_canon₂ h ?_
    split
    · exact h
    · exact roomT2_canon (evict_canon h)

theorem moveNode_canon {i : Nat} {c : InstRec} {n tier fr : Nat} (h : s.CanonOn D) : (s.moveNode i c n tier fr).CanonOn D := by
  unfold State.moveNode
  extract_lets _ _ _ s1 s2 _ s3
  have h1 : s1.CanonOn D := takeFrame_canon h
  have h2 : s2.CanonOn D := copyFrame_canon h1
  have h3 : s3.CanonOn D := putIxWith_canon h2
  split
  · exact h3
  · exact ite_canon (dropFrame_canon h3) (modInst_canon h3)

theorem evictT1_canon {i : Nat} {c : InstRec} (h : s.CanonOn D) : (s.evictT1 i c).2.CanonOn D := by
  unfold State.evictT1
  dsimp -zeta only
  refine ite_canon₂ ?_ ?_
  · split
    · exact h
    · exact mk_canon (evict_canon h)
  · split
    · exact h
    · refine ite_canon₂ (mk_canon (dropNode_canon (sealedBytes_canon h))) ?_
      split
      · exact mk_canon (countInst_canon (moveNode_canon (roomT2_canon (sealedBytes_canon h))))
      · exact mk_canon (roomT2_canon (sealedBytes_canon h))

theorem roomT1_canon :
    ∀ {s : State} {i : Nat} {c : InstRec} {frame : Bool} {n : Nat}, s.CanonOn D → (s.roomT1 i c frame n).2.CanonOn D
  | _, _, _, _, 0, h => h
  | _, _, _, _, _ + 1, h => by
    unfold State.roomT1
    refine ite_canon₂ h ?_
    split
    · exact mk_canon (canon_of ‹_› (evictT1_canon h))
    · exact roomT1_canon (canon_of ‹_› (evictT1_canon h))

theorem roomT0_canon {i : Nat} {c : InstRec} {core : Nat} (h : s.CanonOn D) : (s.roomT0 i c core).2.CanonOn D := by
  unfold State.roomT0
  split
  · exact h
  · split
    · exact h
    · extract_lets _ s1 s2
      have h1 : s1.CanonOn D := dropT0_canon h
      have h2 : s2.CanonOn D := countInst_canon (putIx_canon h1)
      exact h2

theorem lockSegment_canon {core : CoreId} {g : Nat} (h : s.CanonOn D) : (s.lockSegment core g).CanonOn D := by
  unfold State.lockSegment
  dsimp only
  refine ite_canon h (modCore_canon (foldl_canon (fun _ _ h1 => ite_canon h1 (ite_canon ?_ (modCore_canon h1))) h))
  split
  · exact h1
  · exact modCore_canon (modIx_canon h1)

theorem unlockSegment_canon {core : CoreId} {g : Nat} (h : s.CanonOn D) : (s.unlockSegment core g).CanonOn D := by
  unfold State.unlockSegment
  extract_lets _ s1
  have h1 : s1.CanonOn D := by
    dsimp only [s1]
    refine foldl_canon (fun _ _ h1 => ?_) h
    split
    · exact h1
    · exact unref_canon h1
  exact modCore_canon h1

theorem unlockAll_canon {core : CoreId} (h : s.CanonOn D) : (s.unlockAll core).CanonOn D :=
  foldl_canon (fun _ _ h1 => unlockSegment_canon h1) h

theorem freePrivate_canon {i : Nat} {c : InstRec} {pa : Nat} (h : s.CanonOn D) : (s.freePrivate i c pa).CanonOn D := by
  unfold State.freePrivate
  split
  · exact h
  · extract_lets s1
    have h1 : s1.CanonOn D := dropFrame_canon (poke_canon h)
    exact modInst_canon h1

theorem addPending_canon {i pa : Nat} (h : s.CanonOn D) : (s.addPending i pa).CanonOn D :=
  modInst_canon h

theorem subPending_canon {i pa : Nat} (h : s.CanonOn D) : (s.subPending i pa).CanonOn D :=
  modInst_canon h

/-! ### Token lists (Lists) -/

theorem setList_canon {n : Nat} {l : WorkList} (h : s.CanonOn D) : (s.setList n l).CanonOn D :=
  upd_canon h

theorem listPush_canon {cx : Cx} {ten : BitVec 8} {n : Nat} {items : List (List Byte)} (h : s.CanonOn D) :
    (s.listPush cx ten n items).CanonOn D :=
  setList_canon (foldl_canon (fun _ _ h1 => writePas_canon h1) (arm_canon h))

theorem listPop_canon :
    ∀ {s : State} {cx : Cx} {ten : BitVec 8} {n m : Nat}, s.CanonOn D → (s.listPop cx ten n m).2.CanonOn D
  | _, _, _, _, 0, h => h
  | _, _, _, _, _ + 1, h => by
    unfold State.listPop
    dsimp -zeta only
    extract_lets _ _ s1 _ s2 s3 s4 s5
    have h1 : s1.CanonOn D := armPubs_canon h
    have h2 : s2.CanonOn D := ite_canon (modCore_canon (coreRead_canon h1) (fun _ => by simp)) (coreRead_canon h1)
    have h3 : s3.CanonOn D := setList_canon h2
    have h4 : s4.CanonOn D := acquire_canon h3
    have h5 : s5.CanonOn D := modSeq_canon h4
    exact ite_canon₂ h (mk_canon (listPop_canon h5))

theorem acknowledge_canon {w : Who} (h : s.CanonOn D) : (s.acknowledge w).CanonOn D :=
  modSeq_canon h

theorem watchQuiet_canon (h : s.CanonOn D) : s.watchQuiet.CanonOn D :=
  ite_canon (mapCores_canon h) h

theorem execWlpop_canon {d a : Reg} {x : Ctl} (h : s.CanonOn D) : OutCanon D (execWlpop d a x s) := by
  unfold execWlpop
  dsimp -zeta only
  refine issue_canon (fun _ _ _ h2 => ?_) h
  extract_lets _ _ _ _ _ _ s1 _ s2
  have h3 : s1.CanonOn D := acknowledge_canon h2
  have h4 : s2.CanonOn D := spadStore_canon (listPop_canon (freeNat_canon h3))
  refine ite_act trap_canon (ite_act trap_canon (ite_act ?_ (done_canon (fly_canon h4))))
  split
  · exact done_canon (fly_canon (canon_of ‹_› (listPop_canon (freeNat_canon h3))))
  · exact done_canon (fly_canon (canon_of ‹_› (listPop_canon (freeNat_canon h3))))

theorem execQuies_canon {d a : Reg} {x : Ctl} (h : s.CanonOn D) : OutCanon D (execQuies d a x s) := by
  unfold execQuies
  dsimp -zeta only
  refine issue_canon (fun _ _ _ h2 => ?_) h
  extract_lets _ s1 s2
  have h3 : s1.CanonOn D := acknowledge_canon h2
  have h4 : s2.CanonOn D := fly_canon (freeNat_canon h3)
  exact ite_act trap_canon (done_canon (watchQuiet_canon (modCore_canon h4)))

theorem execBar_canon {x : Ctl} (h : s.CanonOn D) : OutCanon D (execBar x s) := by
  unfold execBar
  refine issue_canon (fun _ _ _ h2 => ?_) h
  split
  · exact trap_canon
  · extract_lets s1 _ _ s2
    have h3 : s1.CanonOn D := arm_canon h2
    have h4 : s2.CanonOn D := modCore_canon h3
    exact ite_act trap_canon (done_canon (modLaunch_canon h4))

theorem execBarrierRelease_canon {launch : Nat} (h : s.CanonOn D) : OutCanon D (execBarrierRelease launch s) := by
  unfold execBarrierRelease
  split
  · exact next_canon h
  · extract_lets _ _ _ s1
    have h1 : s1.CanonOn D := modLaunch_canon h
    refine next_canon (foldl_canon (fun _ _ h2 => ?_) h1)
    extract_lets _ s2
    have h3 : s2.CanonOn D := modCore_canon h2
    exact endTest_canon (acquire_canon h3)

/-! ### Tokens, barriers and results (System) -/

theorem execResultLanding_canon {c : CoreId} {id : Nat} (h : s.CanonOn D) : OutCanon D (execResultLanding c id s) := by
  unfold execResultLanding
  extract_lets s1
  have h1 : s1.CanonOn D := watchQuiet_canon h
  split
  · exact next_canon h1
  · exact ite_out (next_canon (modCore_canon h1 (fun _ => by simp))) (next_canon h1)

theorem execTokdead_canon {c : CoreId} (h : s.CanonOn D) : OutCanon D (execTokdead c s) := by
  unfold execTokdead
  extract_lets
  refine ite_out ?_ (next_canon h)
  split
  · exact next_canon h
  · exact ite_out (next_canon (replayFaultOf_canon h)) (next_canon (raise_canon h))

theorem capture_canon {c : CoreId} {t : Nat} (h : s.CanonOn D) : (s.capture c t).CanonOn D := by
  unfold State.capture
  extract_lets
  split
  extract_lets t
  have h1 : t.CanonOn D := setCore_canon h fun hc => h.2 c hc
  clear_value t
  exact upd_canon h1

theorem execTrapModeEntry_canon {c : CoreId} (h : s.CanonOn D) : OutCanon D (execTrapModeEntry c s) := by
  unfold execTrapModeEntry
  extract_lets _ stop s1
  have h1 : s1.CanonOn D := ite_canon (flushCore_canon (abandon_canon h)) h
  clear_value stop
  split
  · exact next_canon h
  · extract_lets s2 _ _ _ s3 s4
    have h2 : s2.CanonOn D := modCore_canon h1
    have h3 : s3.CanonOn D := modCore_canon h2
    have h4 : s4.CanonOn D := capture_canon h2
    exact ite_out (next_canon h2) (ite_out (next_canon (endIteration_canon h3)) (next_canon (modCore_canon h4 (fun _ => by simp))))

theorem execSnapshotLand_canon {c : CoreId} {idx : Nat} (h : s.CanonOn D) : OutCanon D (execSnapshotLand c idx s) := by
  unfold execSnapshotLand
  extract_lets
  split
  · exact next_canon h
  · exact ite_out (next_canon h) (ite_out (next_canon (modCore_canon (foundOnDie_canon h) (fun _ => by simp)))
      (next_canon (modCore_canon h (fun _ => by simp))))

theorem rteReplay_canon {c : CoreId} (h : s.CanonOn D) : (s.rteReplay c).CanonOn D := by
  unfold State.rteReplay
  extract_lets _ s1
  have h1 : s1.CanonOn D := by
    dsimp only [s1]
    split
    · exact emptyTape_canon h
    · exact h
  exact ite_canon (ite_canon (modCore_canon h1 (fun _ => by simp)) (modCore_canon h)) h

theorem execRte_canon {x : Ctl} (h : s.CanonOn D) : OutCanon D (execRte x s) := by
  unfold execRte
  refine issue_canon (fun _ _ _ h2 => ?_) h
  extract_lets _ s1 s2 s3
  have h3 : s1.CanonOn D := rteReplay_canon h2
  have h4 : s2.CanonOn D := modCore_canon h3 (fun _ => by simp)
  have h5 : s3.CanonOn D := ite_canon h4 (foldl_canon (fun _ _ h5 => endTest_canon h5) h4)
  exact ite_act trap_canon (done_canon h5)

/-! ### Tapes (Tape) -/

theorem startReplay_canon {c : CoreId} {t : Tape} (h : s.CanonOn D) : (s.startReplay c t).CanonOn D :=
  modCore_canon h (fun _ => by simp)

theorem dropBadTape_canon {c : CoreId} {t : Fin 16} (h : s.CanonOn D) : (s.dropBadTape c t).CanonOn D :=
  ite_canon (emptyTape_canon (foundOnDie_canon (freeNat_canon h))) h

theorem execTapeb_canon {d : Reg} {x : Ctl} (h : s.CanonOn D) : OutCanon D (execTapeb d x s) := by
  unfold execTapeb
  dsimp -zeta only
  refine issue_canon (fun _ _ _ h2 => ?_) h
  extract_lets
  split
  · extract_lets s1 _ _ _ _ s2 _ s3 s4
    have h3 : s1.CanonOn D := dropBadTape_canon h2
    have h4 : s2.CanonOn D := emptyTape_canon (freeNat_canon h3)
    have h5 : s3.CanonOn D := modCore_canon h4 (fun _ => by simp)
    have h6 : s4.CanonOn D := ite_canon (abandon_canon h5) h5
    exact ite_act trap_canon (ite_act (done_canon (fly_canon (startReplay_canon (freeNat_canon h3)))) (done_canon (fly_canon h6)))
  · exact trap_canon

theorem finishTape_canon {c : CoreId} {t : Fin 16} {done : Nat} (h : s.CanonOn D) : (s.finishTape c t done).2.CanonOn D := by
  unfold State.finishTape
  extract_lets _ _ _ _ _ _ _ t
  have h1 : t.CanonOn D := modCore_canon h
  refine ite_canon₂ (abandon_canon h) (mk_canon (foldl_canon (fun _ _ h2 => ?_) h1))
  split
  · have h3 := canon_of ‹_› (translate_canon h2)
    exact elim_canon h3 fun _ => upd_canon h3
  · exact canon_of ‹_› (translate_canon h2)

theorem execTapee_canon {d : Reg} {x : Ctl} (h : s.CanonOn D) : OutCanon D (execTapee d x s) := by
  unfold execTapee
  dsimp -zeta only
  refine issue_canon (fun _ _ _ h2 => ?_) h
  extract_lets _ _ _ s1
  have h3 : s1.CanonOn D := by
    dsimp only [s1]
    refine modCore_canon ?_
    split
    · exact finishTape_canon (freeNat_canon h2)
    · exact mk_canon (freeNat_canon h2)
    · exact mk_canon (freeNat_canon h2)
    · exact mk_canon (freeNat_canon h2)
    · exact mk_canon (freeNat_canon h2)
  exact ite_act trap_canon (done_canon (fly_canon h3))

theorem execTguard_canon {d a : Reg} {x : Ctl} (h : s.CanonOn D) : OutCanon D (execTguard d a x s) := by
  unfold execTguard
  refine issue_canon (fun _ _ _ h2 => ?_) h
  extract_lets
  refine ite_act trap_canon ?_
  split
  · exact ite_act (done_canon (abandon_canon h2)) (ite_act (done_canon (abandon_canon h2)) (done_canon (modCore_canon h2)))
  · exact done_canon h2

theorem execTapeinv_canon {a : Reg} {x : Ctl} (h : s.CanonOn D) : OutCanon D (execTapeinv a x s) := by
  unfold execTapeinv
  refine issue_canon (fun _ _ _ h2 => ?_) h
  exact ite_act trap_canon (done_canon (foldl_canon (fun _ _ h3 => ite_canon (emptyTape_canon h3) h3) h2))

/-! ### Context images and preemption (Context) -/

theorem placeSections_canon {a : Actor} {c : CoreId} {ten : BitVec 8} {secs : List (Nat × List Byte)} (h : s.CanonOn D) :
    (s.placeSections a c ten secs).2.CanonOn D := by
  unfold State.placeSections
  dsimp only
  refine foldl_snd_canon (fun _ _ h1 => ?_) h
  split
  · exact h1
  · split
    · exact mk_canon (canon_of ‹_› (translateBytes_canon h1))
    · exact mk_canon (canon_of ‹_› (translateBytes_canon h1))

theorem imageWrite_canon {a : Actor} {c : CoreId} {ws : List (Nat × Byte)} (h : s.CanonOn D) : (s.imageWrite a c ws).CanonOn D :=
  writePas_canon (armPubs_canon (flushLines_canon h))

theorem writeVa_canon {a : Actor} {c : CoreId} {ten : BitVec 8} {secs : List (Nat × List Byte)} (h : s.CanonOn D) :
    (s.writeVa a c ten secs).2.CanonOn D := by
  unfold State.writeVa
  split
  · exact mk_canon (canon_of ‹_› (placeSections_canon h))
  · exact mk_canon (canon_of ‹_› (placeSections_canon h))

theorem writeVa_ok_canon {a : Actor} {c : CoreId} {ten : BitVec 8} {secs : List (Nat × List Byte)} {t u : State}
    (e : s.writeVa a c ten secs = (.ok t, u)) (h : s.CanonOn D) : t.CanonOn D := by
  unfold State.writeVa at e
  split at e
  · cases e
  · cases e
    exact imageWrite_canon (canon_of ‹_› (placeSections_canon h))

theorem readVa_canon {a : Actor} {c : CoreId} {ten : BitVec 8} {va n : Nat} (h : s.CanonOn D) : (s.readVa a c ten va n).2.CanonOn D := by
  unfold State.readVa
  dsimp -zeta only
  split
  · exact mk_canon (canon_of ‹_› (translateBytes_canon h))
  · extract_lets s1
    have h1 : s1.CanonOn D := armPubs_canon (canon_of ‹_› (translateBytes_canon h))
    exact mk_canon (coreRead_canon h1)

theorem execCtxsv_canon {d a : Reg} {x : Ctl} (h : s.CanonOn D) : OutCanon D (execCtxsv d a x s) := by
  unfold execCtxsv
  refine issue_canon (fun cx t _ h1 => ?_) h
  extract_lets
  refine ite_act trap_canon ?_
  split
  · exact done_canon h1
  extract_lets
  split
  · exact fault_canon (canon_of ‹_› (writeVa_canon h1))
  · exact done_canon (writeVa_ok_canon ‹_› h1)

theorem readImage_canon {a : Actor} {c : CoreId} {ten : BitVec 8} {ga : Nat} {head : List Byte} {vwb : BitVec 32} (h : s.CanonOn D) :
    (s.readImage a c ten ga head vwb).2.CanonOn D := by
  unfold State.readImage
  extract_lets _ step
  have hs : ∀ v x, v.2.CanonOn D → (step v x).2.CanonOn D := by
    rintro ⟨_ | ⟨got, bad⟩, t⟩ x ht
    · exact ht
    · dsimp only [step]
      split
      · exact canon_of ‹_› (readVa_canon ht)
      · exact canon_of ‹_› (readVa_canon ht)
  clear_value step
  split
  · exact canon_of ‹_› (foldl_snd_canon hs h)
  have h1 := canon_of ‹_› (foldl_snd_canon hs h)
  extract_lets
  split
  · exact canon_of ‹_› (foldl_snd_canon hs h1)
  · exact canon_of ‹_› (foldl_snd_canon hs h1)

theorem status_canon {cx : Cx} {d : Reg} {st : Nat} (h : s.CanonOn D) : (Act.status cx s d st).CanonOn D :=
  done_canon (fly_canon (freeNat_canon h))

theorem execCtxrs_canon {d a : Reg} {x : Ctl} (h : s.CanonOn D) : OutCanon D (execCtxrs d a x s) := by
  unfold execCtxrs
  refine issue_canon (fun cx t _ h1 => ?_) h
  extract_lets c ga act note
  have hn : ∀ (t : State) (vas : List Nat), t.CanonOn D → (note t vas).CanonOn D := fun _ _ ht =>
    modCore_canon ht (foldl_spad (fun _ _ => derrRecord_spad _ _ _) _)
  refine ite_act trap_canon ?_
  split
  · exact done_canon h1
  split
  · exact fault_canon (canon_of ‹_› (readVa_canon h1))
  extract_lets t1
  have h2 : t1.CanonOn D := hn _ _ (canon_of ‹_› (readVa_canon h1))
  refine ite_act (status_canon h2) ?_
  split
  · exact fault_canon (canon_of ‹_› (readImage_canon h2))
  extract_lets t2 _ t3
  have h3 : t2.CanonOn D := hn _ _ (canon_of ‹_› (readImage_canon h2))
  refine ite_act (status_canon h3) ?_
  have h4 : t3.CanonOn D := ite_canon (foldl_canon (fun _ _ h4 => emptyTape_canon h4) h3) h3
  exact status_canon (modCore_wf h4 fun _ hk => restored_wf _ _ hk)

theorem execPreemptTake_canon {c : CoreId} (h : s.CanonOn D) : OutCanon D (execPreemptTake c s) := by
  unfold execPreemptTake
  extract_lets _ s1 keep withdraw
  have h1 : s1.CanonOn D := flushCore_canon h
  have hk : ∀ t : State, t.CanonOn D → (keep t).CanonOn D := fun _ h2 => modCore_canon h2
  have hw : ∀ t : State, t.CanonOn D → OutCanon D (withdraw t) := fun _ h2 => next_canon (upd_canon (hk _ h2))
  split
  · exact next_canon h
  split
  · exact next_canon h
  extract_lets s2
  have h2 : s2.CanonOn D := capture_canon h1
  refine ite_out (next_canon h) ?_
  split
  · exact hw _ (canon_of ‹_› (placeSections_canon h2))
  have h2 := canon_of ‹_› (placeSections_canon h2)
  split
  have h3 := canon_of ‹_› (checkSectors_canon h2)
  refine ite_out (hw _ h3) ?_
  extract_lets s3 _ s4 s5
  have h4 : s3.CanonOn D := abandon_canon (imageWrite_canon h3)
  clear_value s3
  have h5 : s4.CanonOn D := upd_canon h4
  exact next_canon (modCore_canon (modLaunch_canon h5) fun _ => by simp)

theorem execPreemptWithdraw_canon {c : CoreId} (h : s.CanonOn D) : OutCanon D (execPreemptWithdraw c s) := by
  unfold execPreemptWithdraw
  split
  · exact next_canon h
  · extract_lets s1 s2
    have h1 : s1.CanonOn D := by
      dsimp only [s1]
      split
      · exact h
      · exact modCore_canon (capture_canon h)
    have h2 : s2.CanonOn D := modCore_canon h1
    exact ite_out (next_canon h) (next_canon (upd_canon h2))

theorem execIterationResume_canon {c : CoreId} (h : s.CanonOn D) : OutCanon D (execIterationResume c s) := by
  unfold execIterationResume
  extract_lets
  split
  · exact next_canon h
  refine ite_out (next_canon h) ?_
  extract_lets _ _ s1 _ _ _ lost
  have h1 : s1.CanonOn D := modCore_canon (unlockAll_canon h)
  have hl : ∀ t : State, t.CanonOn D → OutCanon D (lost t) := fun _ ht => next_canon (endIteration_canon (modCore_canon ht))
  split
  · exact hl _ (canon_of ‹_› (readVa_canon h1))
  have h2 := canon_of ‹_› (readVa_canon h1)
  split
  · exact hl _ (canon_of ‹_› (readImage_canon h2))
  have h3 := canon_of ‹_› (readImage_canon h2)
  refine ite_out (hl _ h3) (next_canon (modCore_wf h3 fun k _ => ?_))
  extract_lets _ _ k1 k2 _ k3
  have h4 : cellsWf k2.spad = true := restoreCore_wf _ _ rfl
  rw [modSeqs_spad]
  exact h4

/-! ### Branches and blocks (Control) -/

theorem branch_canon {cx : Cx} {t : Word} {stays : Bool} {rs : List Result} (h : s.CanonOn D) : (Act.branch cx s t stays rs).CanonOn D :=
  ite_act (done_canon (fly_canon h)) trap_canon

theorem branchReg_canon {cx : Cx} {t : Word} {stays : Bool} {rs : List Result} (h : s.CanonOn D) :
    (Act.branchReg cx s t stays rs).CanonOn D :=
  ite_act trap_canon (branch_canon h)

theorem condBranch_canon {i : Instr} {x : Ctl} {p : PReg} {n : Bool} {own2 : Word → Word} (h : s.CanonOn D) :
    OutCanon D (condBranch i x p n own2 s) :=
  issue_canon (fun _ _ _ h1 => ite_act (branch_canon h1) (done_canon h1)) h

theorem condBranch16_canon {p : PReg} {n : Bool} {o : BitVec 8} (h : s.CanonOn D) : OutCanon D (condBranch16 p n o s) :=
  issue_canon (fun _ _ _ h1 => ite_act (branch_canon h1) (done_canon h1)) h

theorem execBlk_canon {i : Bool} {r : BitVec 7} {n : BitVec 9} (h : s.CanonOn D) : OutCanon D (execBlk i r n s) := by
  unfold execBlk
  extract_lets
  refine issue_canon (fun _ _ _ h2 => ?_) h
  exact ite_act trap_canon (ite_act (done_canon (modSeq_canon h2)) (done_canon (modSeq_canon h2)))

theorem endInnermost_canon {w : Who} {t : State} {a : Word} (e : endInnermost s w = some (t, a)) (h : s.CanonOn D) : t.CanonOn D := by
  unfold endInnermost at e
  split at e
  · cases e
  · cases e
    exact modSeq_canon h

theorem execBrk_canon {x : Ctl} (h : s.CanonOn D) : OutCanon D (execBrk x s) := by
  unfold execBrk
  refine issue_canon (fun _ _ _ h2 => ?_) h
  split
  · exact trap_canon
  · exact done_canon (endInnermost_canon ‹_› h2)

theorem execLcut_canon {x : Ctl} (h : s.CanonOn D) : OutCanon D (execLcut x s) := by
  unfold execLcut
  refine issue_canon (fun cx t _ h1 => ?_) h
  extract_lets cut t1
  have h2 : t1.CanonOn D := modCore_canon h1 (foldl_spad (fun _ _ => completeCmd_spad _ _ _ _ _ _ _ _) _)
  split
  · exact done_canon h2
  · exact done_canon (endInnermost_canon ‹_› h2)

theorem spadScalarLoad_canon {i : Instr} {x : Ctl} {sgn : Bool} {d a : Reg} {z : Sz} {o : BitVec 5} (h : s.CanonOn D) :
    OutCanon D (spadScalarLoad i x sgn d a z o s) := by
  unfold spadScalarLoad
  dsimp -zeta only
  refine issue_canon (fun _ _ _ h2 => ?_) h
  extract_lets _ _ s1
  have h3 : s1.CanonOn D := ite_canon (modCore_canon (spadLoad_canon h2) (fun _ => by simp)) (spadLoad_canon h2)
  exact ite_act trap_canon (land_canon h3)

/-! ### Register writes that move or invalidate pages (Migration) -/

theorem latchFe_canon {code off : Nat} (h : s.CanonOn D) : (s.latchFe code off).CanonOn D :=
  ite_canon h (upd_canon h)

theorem guardWrite_canon {off : Nat} {cs : List (Bool × Nat)} {f : State → State} (h : s.CanonOn D)
    (hf : ∀ t : State, t.CanonOn D → (f t).CanonOn D) : (s.guardWrite off cs f).CanonOn D := by
  unfold State.guardWrite
  split
  · exact latchFe_canon h
  · exact hf _ h

theorem tlbiTapes_canon {scope ten va : Nat} (h : s.CanonOn D) : (s.tlbiTapes scope ten va).CanonOn D :=
  foldl_canon (fun _ _ h1 => foldl_canon (fun _ _ h2 => ite_canon (emptyTape_canon h2) h2) h1) h

theorem setStubs_canon {xs : List Stub} (h : s.CanonOn D) : ({ s with stubs := xs } : State).CanonOn D := upd_canon h

theorem writeTlbi_canon {v : BitVec 64} (h : s.CanonOn D) : (s.writeTlbi v).CanonOn D := by
  unfold State.writeTlbi
  extract_lets
  refine guardWrite_canon h (fun _ h1 => ?_)
  extract_lets _ s1 s2
  have h2 : s1.CanonOn D := upd_canon h1
  have h3 : s2.CanonOn D := tlbiTapes_canon h2
  exact ite_canon (setStubs_canon h3) h2

theorem movePage_canon {src dst : Nat} (h : s.CanonOn D) : (s.movePage src dst).CanonOn D := by
  unfold State.movePage
  split
  have h1 := canon_of ‹_› (checkSectors_canon h)
  refine setMem_canon h1 ?_
  generalize 65536 = n
  exact cellsFold_wf (List.range n) (fun i => dst + i) _ _ h1.1

theorem sendPage_canon {pkg k ten src dst : Nat} (h : s.CanonOn D) : (s.sendPage pkg k ten src dst).CanonOn D := by
  unfold State.sendPage
  dsimp -zeta only
  extract_lets _ _ s1
  have h1 : s1.CanonOn D := sendFlit_canon (checkSectors_canon h)
  refine foldl_canon (fun _ _ h2 => ?_) h1
  exact sendFlit_canon h2

theorem writeMig_canon {v : BitVec 64} (h : s.CanonOn D) : (s.writeMig v).CanonOn D := by
  unfold State.writeMig
  refine guardWrite_canon h (fun _ h1 => ?_)
  extract_lets _ s1 _ _ s2 s3 _ xp _ _ s4
  have h2 : s1.CanonOn D := upd_canon h1
  have h3 : s2.CanonOn D := foldl_canon (fun _ _ h3 => flushWhere_canon h3) h2
  have h4 : s3.CanonOn D := touchCode_canon h3
  clear_value s1 s3 xp
  have h5 : s4.CanonOn D := upd_canon h4
  refine ite_canon h2 ?_
  split
  · exact h5
  · exact sendPage_canon h5

theorem installStub_canon {m : Migration} (h : s.CanonOn D) : (s.installStub m).CanonOn D :=
  upd_canon h

theorem execMigrationCopyDone_canon (h : s.CanonOn D) : OutCanon D (execMigrationCopyDone s) := by
  unfold execMigrationCopyDone
  split
  · exact next_canon h
  · exact ite_out (next_canon h) (next_canon (installStub_canon (movePage_canon h)))

theorem settleMigration_canon (h : s.CanonOn D) : s.settleMigration.CanonOn D := by
  unfold State.settleMigration
  split
  · exact h
  · exact ite_canon (upd_canon h) h

theorem arrive_canon {h' : HeldAccess} (h : s.CanonOn D) : (s.arrive h').CanonOn D :=
  ite_canon (reply_canon (performHeld_canon h)) (holdAt_canon h)

theorem execStubForward_canon {idx : Nat} (h : s.CanonOn D) : OutCanon D (execStubForward idx s) := by
  unfold execStubForward
  split
  · exact next_canon h
  · split
    · exact next_canon h
    · extract_lets s1 s2
      have h1 : s1.CanonOn D := upd_canon h
      have h2 : s2.CanonOn D := upd_canon h1
      split
      · exact next_canon (settleMigration_canon (sendFlit_canon h2))
      · exact next_canon (settleMigration_canon (arrive_canon h1))

theorem execStubRetire_canon {idx : Nat} (h : s.CanonOn D) : OutCanon D (execStubRetire idx s) := by
  unfold execStubRetire
  split
  · exact next_canon h
  · exact ite_out (next_canon h) (next_canon (upd_canon h))

theorem answerFwd_canon {p op b1 n core ten k pa : Nat} {opnd data : List Byte} (h : s.CanonOn D) :
    (s.answerFwd p op b1 n core ten k pa opnd data).CanonOn D :=
  sendFlit_canon h

theorem sendReply_canon {h' : HeldAccess} {p core k pa : Nat} {bs : List (Byte × Bool)} (h : s.CanonOn D) :
    (s.sendReply h' p core k pa bs).CanonOn D := by
  unfold State.sendReply
  extract_lets
  split
  · exact answerFwd_canon h
  · exact answerFwd_canon h
  · exact answerFwd_canon h

theorem takeStart_canon {p : Nat} {b : BitVec 1024} (h : s.CanonOn D) : (s.takeStart p b).CanonOn D :=
  ite_canon (upd_canon h) (answerFwd_canon h)

theorem takeCopy_canon {p : Nat} {b : BitVec 1024} (h : s.CanonOn D) : (s.takeCopy p b).CanonOn D := by
  unfold State.takeCopy
  extract_lets _ _ s1 _ s2
  have h1 : s1.CanonOn D := putPas_canon h
  have h2 : s2.CanonOn D := poisonPas_canon h1
  split
  · exact h
  · exact ite_canon (answerFwd_canon (upd_canon h2)) (upd_canon h2)

theorem takeAccept_canon {p k : Nat} (h : s.CanonOn D) : (s.takeAccept p k).CanonOn D := by
  unfold State.takeAccept
  split
  · exact ite_canon (installStub_canon h) h
  · exact h

theorem takeRefuse_canon {p k : Nat} (h : s.CanonOn D) : (s.takeRefuse p k).CanonOn D := by
  unfold State.takeRefuse
  split
  · extract_lets _ s1
    have h1 : s1.CanonOn D := upd_canon h
    exact ite_canon (foldl_canon (fun _ _ h2 => arrive_canon h2) h1) h
  · exact h

theorem takeReply_canon {p : Nat} {b : BitVec 1024} (h : s.CanonOn D) : (s.takeReply p b).CanonOn D := by
  unfold State.takeReply
  split
  · exact h
  · split
    · extract_lets s1
      have h1 : s1.CanonOn D := upd_canon h
      exact reply_canon h1
    · exact h

theorem serveFwd_canon {p : Nat} {b : BitVec 1024} (h : s.CanonOn D) : (s.serveFwd p b).CanonOn D := by
  unfold State.serveFwd
  split
  · exact takeStart_canon h
  · exact takeCopy_canon h
  · exact takeAccept_canon h
  · exact takeRefuse_canon h
  · exact arrive_canon h
  · exact takeReply_canon h
  · exact h

/-! ### Scalar instructions (Scalar) -/

theorem alu2_canon {i : Instr} {x : Ctl} {lat : Nat} {cls : ClassUse} {d a b : Reg} {f : Word → Word → Word} (h : s.CanonOn D) :
    OutCanon D (alu2 i x lat cls d a b f s) :=
  issue_canon (fun _ _ _ h1 => land_canon h1) h

theorem alu3_canon {i : Instr} {x : Ctl} {lat : Nat} {d a b : Reg} {f : Word → Word → Word → Word} (h : s.CanonOn D) :
    OutCanon D (alu3 i x lat d a b f s) :=
  issue_canon (fun _ _ _ h1 => land_canon h1) h

theorem alu1_canon {i : Instr} {x : Ctl} {lat : Nat} {cls : ClassUse} {d a : Reg} {f : Word → Word} (h : s.CanonOn D) :
    OutCanon D (alu1 i x lat cls d a f s) :=
  issue_canon (fun _ _ _ h1 => land_canon h1) h

theorem short_canon {srcs : List Reg} {cls : ClassUse} {d : Reg} {f : Seq → Word} (h : s.CanonOn D) : OutCanon D (short srcs cls d f s) :=
  issue_canon (fun _ _ _ h1 => land_canon h1) h

theorem toPred_canon {i : Instr} {x : Ctl} {d : PReg} {gs : List Reg} {ps : List PReg} {f : Seq → Bool} (h : s.CanonOn D) :
    OutCanon D (toPred i x d gs ps f s) :=
  issue_canon (fun _ _ _ h1 => land_canon h1) h

theorem execLdc_canon {d : Reg} {i : BitVec 12} {x : Ctl} (h : s.CanonOn D) : OutCanon D (execLdc d i x s) := by
  unfold execLdc
  dsimp -zeta only
  refine issue_canon (fun _ _ _ h2 => ?_) h
  extract_lets
  split
  · exact fault_canon (canon_of ‹_› (codeBytes_canon h2))
  · extract_lets s1
    have h3 : s1.CanonOn D := usedLine_canon (canon_of ‹_› (codeBytes_canon h2))
    exact done_canon (fly_canon (freeNat_canon h3))

/-! ### Vector instructions (Vector) -/

theorem noteRows_canon {c : CoreId} {rows : List (Fin 128)} (h : s.CanonOn D) : (s.noteRows c rows).CanonOn D := by
  unfold State.noteRows
  split
  · exact h
  · exact modCore_canon (foldl_canon (fun _ _ h1 => foundOnDie_canon h1) h) (fun _ => by simp)

theorem vecIssue_canon {sp : Spec} {sfu : Bool} {srcs : List VReg} {ms : List MReg} {bad : LaneKind → Bool} {f : Vx → Seq → List Result}
    (h : s.CanonOn D) : OutCanon D (vecIssue sp sfu srcs ms bad f s) :=
  issue_canon (fun _ _ _ h1 => ite_act trap_canon (land_canon (modCore_canon (noteRows_canon h1)))) h

theorem laneWise_canon {i : Instr} {x : Ctl} {lat : Nat} {sfu : Bool} {d : VReg} {srcs : List VReg} {bad : LaneKind → Bool}
    {f : LaneKind → Bool → List Nat → Nat × BitVec 6} (h : s.CanonOn D) : OutCanon D (laneWise i x lat sfu d srcs bad f s) :=
  vecIssue_canon h

theorem maskOp_canon {i : Instr} {x : Ctl} {m : MReg} {srcs : List MReg} {f : Core → Mask} (h : s.CanonOn D) :
    OutCanon D (maskOp i x m srcs f s) :=
  vecIssue_canon h

theorem specialOp_canon {i : Instr} {x : Ctl} {fn : SpecialFn} {v a : VReg} {bad : LaneKind → Bool} (h : s.CanonOn D) :
    OutCanon D (specialOp i x fn v a bad s) :=
  laneWise_canon h

theorem execVcvt_canon {v a : VReg} {k : BitVec 3} {r p : BitVec 2} {x : Ctl} (h : s.CanonOn D) :
    OutCanon D (execVcvt v a k r p x s) := by
  unfold execVcvt
  exact vecIssue_canon h

theorem execVcvtef_canon {v a e : VReg} {f : BitVec 2} {x : Ctl} (h : s.CanonOn D) : OutCanon D (execVcvtef v a e f x s) := by
  unfold execVcvtef
  dsimp -zeta only
  exact vecIssue_canon h

theorem reduceOp_canon {i : Instr} {x : Ctl} {lat : Nat} {v a : VReg} {g : BitVec 3} {scan : Bool} {bad : LaneKind → Bool}
    {fo : LaneKind → Bool → Fold} (h : s.CanonOn D) : OutCanon D (reduceOp i x lat v a g scan bad fo s) :=
  vecIssue_canon h

theorem execVlse_canon {v a : VReg} {k : BitVec 5} {x : Ctl} (h : s.CanonOn D) : OutCanon D (execVlse v a k x s) := by
  unfold execVlse
  exact vecIssue_canon h

theorem execVld_canon {v : VReg} {a : Reg} {o : BitVec 5} {x : Ctl} (h : s.CanonOn D) : OutCanon D (execVld v a o x s) := by
  unfold execVld
  refine issue_canon (fun _ _ _ h2 => ?_) h
  extract_lets
  refine ite_act trap_canon ?_
  extract_lets
  split
  have h3 := canon_of₃ ‹_› (spadLoad_canon h2)
  extract_lets
  exact land_canon (ite_canon (modCore_canon h3 fun _ => derrRecord_spad _ _ _) h3)

theorem spadRow_canon {cx : Cx} {ea row : Nat} {en : Mask} (h : s.CanonOn D) : (s.spadRow cx ea row en).CanonOn D :=
  modCore_wf h (fun _ hk => spadWrite_wf _ _ _ hk)

theorem execVstu_canon {v : VReg} {a : Reg} {o : BitVec 5} {x : Ctl} (h : s.CanonOn D) : OutCanon D (execVstu v a o x s) := by
  unfold execVstu
  refine issue_canon (fun _ _ _ h2 => ?_) h
  extract_lets
  generalize (List.range 512).any _ = bad
  exact ite_act trap_canon (done_canon (spadRow_canon (noteRows_canon h2)))

theorem execVdefer_canon {g : Reg} {a b : VReg} {x : Ctl} (h : s.CanonOn D) : OutCanon D (execVdefer g a b x s) := by
  unfold execVdefer
  refine issue_canon (fun _ _ _ h2 => ?_) h
  extract_lets _ _ _ _ _ _ _ s1
  have h3 : s1.CanonOn D := noteRows_canon h2
  exact ite_act (done_canon h3) (ite_act trap_canon (ite_act trap_canon (done_canon (listPush_canon h3))))

/-! ### Engine commands: copies, gathers, scatters (Engines) -/

theorem submit_canon {sp : Spec} {cls : PathClass} {tag : Cx → State → BitVec 6} {ready : Cx → State → Option Trap}
    {op : Cx → State → CmdOp} {spad : Cx → State → List (Nat × Nat)} (h : s.CanonOn D) :
    OutCanon D (submit sp cls tag ready op spad s) := by
  unfold submit
  refine issue_canon (fun _ _ _ h2 => ?_) h
  split
  · exact trap_canon
  · exact done_canon (modCore_canon h2)

theorem putCmd_canon {c : CoreId} {k : Cmd} (h : s.CanonOn D) : (s.putCmd c k).CanonOn D :=
  modCore_canon h

theorem finish_canon {c : CoreId} {k : Cmd} {code flags det va : Nat} (h : s.CanonOn D) : (s.finish c k code flags det va).CanonOn D :=
  ite_canon (putCmd_canon h) (modCore_canon h (fun _ => by simp))

theorem engUnits_canon :
    ∀ {s : State} {k : Cmd} {c : CoreId} {need : Need} {n m l : Nat}, s.CanonOn D → (s.engUnits k c need n m l).2.2.CanonOn D
  | _, _, _, _, 0, _, _, h => h
  | _, _, _, _, _ + 1, _, _, h => by
    unfold State.engUnits
    dsimp -zeta only
    extract_lets
    refine ite_canon₃ h ?_
    split
    · exact mk_canon₃ (engUnits_canon (translate_canon h))
    · exact mk_canon₃ (engUnits_canon (translate_canon h))

theorem engTranslate_canon {k : Cmd} {c : CoreId} {need : Need} {va n : Nat} (h : s.CanonOn D) :
    (s.engTranslate k c need va n).2.2.CanonOn D :=
  engUnits_canon h

theorem engRead_canon {k : Cmd} {c : CoreId} {spad : Bool} {addr n : Nat} (h : s.CanonOn D) :
    (s.engRead k c spad addr n).2.CanonOn D := by
  unfold State.engRead
  dsimp -zeta only
  exact ite_canon₂ (mk_canon (spadLoad_canon h)) (mk_canon (readAs_canon (engTranslate_canon h)))

theorem engWriteSpad_canon {k : Cmd} {c : CoreId} {ws : List EngWrite} (h : s.CanonOn D) : (s.engWriteSpad k c ws).CanonOn D :=
  modCore_wf h (fun _ hk => spadWrite_wf _ _ _ hk)

theorem engWritePas_canon {k : Cmd} {c : CoreId} {ws : List EngWrite} (h : s.CanonOn D) : (s.engWritePas k c ws).CanonOn D :=
  poisonPas_canon (writePas_canon h)

theorem someOf_canon {ws : List EngWrite} (h : s.CanonOn D) : (s.someOf ws).2.CanonOn D := by
  induction ws generalizing s with
  | nil => exact h
  | cons w ws ih => exact ih (freeBit_canon h)

theorem pickFault_canon {fs : List PageFault} (h : s.CanonOn D) : (s.pickFault fs).2.CanonOn D :=
  freeNat_canon h

theorem engCopy_canon {k : Cmd} {c : CoreId} {spad : Bool} {src : EngRead} {runs : List (Nat × Nat)} {badAt : Nat}
    {flags : BitVec 6} (h : s.CanonOn D) : (s.engCopy k c spad src runs badAt flags).CanonOn D := by
  unfold State.engCopy
  extract_lets
  split
  rename_i e
  have h1 := canon_of₃ e (ite_canon₃ (mk_canon₃ h) (foldl_snd_canon₃ (fun _ _ h1 => engTranslate_canon h1) (mk_canon₃ h)))
  extract_lets
  split
  have h2 := canon_of ‹_› (ite_canon₂ (mk_canon h1) (someOf_canon h1))
  extract_lets t
  have h3 : t.CanonOn D := ite_canon (engWriteSpad_canon h2) (engWritePas_canon h2)
  clear_value t
  split
  · split
    have h4 := canon_of ‹_› (pickFault_canon h3)
    exact finish_canon h4
  · exact ite_canon (finish_canon h3) (finish_canon h3)

theorem runCpy_canon {c : CoreId} {k : Cmd} {dd ds : Word} {hd hs : BitVec 256} {gb : Word} (h : s.CanonOn D) :
    (s.runCpy c k dd ds hd hs gb).CanonOn D := by
  unfold State.runCpy
  dsimp -zeta only
  exact engCopy_canon (engRead_canon h)

theorem runCpy2d_canon {c : CoreId} {k : Cmd} {dd ds : Word} {hd hs : BitVec 256} {gb : Word} (h : s.CanonOn D) :
    (s.runCpy2d c k dd ds hd hs gb).CanonOn D := by
  unfold State.runCpy2d
  dsimp -zeta only
  exact engCopy_canon (foldl_snd_canon (fun _ _ h1 => mk_canon (engRead_canon h1)) h)

theorem finishGath_canon {c : CoreId} {k : Cmd} {g : GathNote} (h : s.CanonOn D) : (s.finishGath c k g).CanonOn D := by
  unfold State.finishGath
  split
  · exact finish_canon h
  · exact finish_canon h
  · exact finish_canon h
  · exact finish_canon h

theorem gathRead_canon {c : CoreId} {k : Cmd} {h' : Handle} {len row src : Nat} {g : GathNote} (h : s.CanonOn D) :
    (s.gathRead c k h' len row src g).2.2.CanonOn D := by
  unfold State.gathRead
  dsimp -zeta only
  refine ite_canon₃ h ?_
  split
  · exact mk_canon₃ (engRead_canon h)
  · exact mk_canon₃ (engRead_canon h)

theorem gathItem_canon {c : CoreId} {k : Cmd} {dd ds : Word} {d h' : Handle} {len i x : Nat} {g : GathNote} (h : s.CanonOn D) :
    (s.gathItem c k dd ds d h' len i x g).2.CanonOn D := by
  unfold State.gathItem
  dsimp -zeta only
  extract_lets
  refine ite_canon₂ (mk_canon (engWriteSpad_canon (gathRead_canon h))) ?_
  split
  · exact mk_canon (engWritePas_canon (engTranslate_canon (gathRead_canon h)))
  · exact mk_canon (engWritePas_canon (engTranslate_canon (gathRead_canon h)))

theorem scatItem_canon {c : CoreId} {k : Cmd} {dd ds : Word} {d h' : Handle} {len i x : Nat} {g : GathNote} (h : s.CanonOn D) :
    (s.scatItem c k dd ds d h' len i x g).2.CanonOn D := by
  unfold State.scatItem
  dsimp -zeta only
  extract_lets
  refine ite_canon₂ h ?_
  split
  · exact mk_canon (engRead_canon h)
  · refine ite_canon₂ (mk_canon (engWriteSpad_canon (engRead_canon h))) ?_
    split
    · exact mk_canon (engTranslate_canon (engRead_canon h))
    · exact mk_canon (engWritePas_canon (engTranslate_canon (engRead_canon h)))

theorem runGath_canon {c : CoreId} {k : Cmd} {scat : Bool} {dd ds : Word} {hd hs : BitVec 256} {gb : Word} (h : s.CanonOn D) :
    (s.runGath c k scat dd ds hd hs gb).CanonOn D := by
  unfold State.runGath
  dsimp -zeta only
  extract_lets
  refine finishGath_canon (foldl_snd_canon (fun _ _ h1 => ?_) h)
  extract_lets _ _ s1
  have h2 : s1.2.CanonOn D := ite_canon₂ h1 h1
  exact ite_canon₂ (scatItem_canon h2) (gathItem_canon h2)

theorem acceptCopy_canon {c : CoreId} {k : Cmd} (h : s.CanonOn D) : (s.acceptCopy c k).CanonOn D := by
  unfold State.acceptCopy
  dsimp only
  split
  · refine ite_canon (finish_canon h) ?_
    split
    · exact finish_canon h
    · exact putCmd_canon h
  · refine ite_canon (finish_canon h) ?_
    split
    · exact finish_canon h
    · exact putCmd_canon h
  · refine ite_canon (finish_canon h) ?_
    split
    · exact finish_canon h
    · exact putCmd_canon (spadLoad_canon h)
  · refine ite_canon (finish_canon h) ?_
    split
    · exact finish_canon h
    · exact putCmd_canon (spadLoad_canon h)
  · exact h

theorem completeCopy_canon {c : CoreId} {k : Cmd} (h : s.CanonOn D) : (s.completeCopy c k).CanonOn D := by
  unfold State.completeCopy
  split
  · exact runCpy_canon h
  · exact runCpy2d_canon h
  · exact runGath_canon h
  · exact runGath_canon h
  · exact h

theorem copyCmd_canon {i : Instr} {x : Ctl} {g : BitVec 6} {cls : PathClass} {a b : Reg} {pair : Bool}
    {op : Word → Word → BitVec 256 → BitVec 256 → Word → Word → CmdOp}
    {spad : Word → Word → BitVec 256 → BitVec 256 → Word → List (Nat × Nat)} (h : s.CanonOn D) :
    OutCanon D (copyCmd i x g cls a b pair op spad s) :=
  submit_canon h

theorem waitTags_canon {d a : Reg} {cx : Cx} (h : s.CanonOn D) : (waitTags d a cx s).CanonOn D :=
  ite_act trap_canon (land_canon (modCore_canon h (fun _ => by simp)))

theorem execFfrdy_canon {d a : Reg} {x : Ctl} (h : s.CanonOn D) : OutCanon D (execFfrdy d a x s) := by
  unfold execFfrdy
  refine issue_canon (fun _ _ _ h2 => ?_) h
  extract_lets
  split
  · exact land_canon (modCore_canon h2 (fun _ => by simp))
  · exact land_canon h2

/-! ### Front end registers (FrontEnd) -/

theorem setFe_canon {f : FeRegs → FeRegs} (h : s.CanonOn D) : (s.setFe f).CanonOn D :=
  upd_canon h

theorem plainWrite_canon {off w : Nat} {v : Word} {f : FeRegs → FeRegs} (h : s.CanonOn D) : (s.plainWrite off w v f).CanonOn D :=
  guardWrite_canon h (fun _ h1 => setFe_canon h1)

theorem writeWindow_canon {off : Nat} {rsv : Bool} {b l : Vector (BitVec 64) 8} (h : s.CanonOn D) :
    (s.writeWindow off rsv b l).CanonOn D :=
  guardWrite_canon h (fun _ h1 => setFe_canon h1)

theorem writeInWindow_canon {off : Nat} {rsv : Bool} {b l : BitVec 64} (h : s.CanonOn D) : (s.writeInWindow off rsv b l).CanonOn D :=
  guardWrite_canon h (fun _ h1 => setFe_canon h1)

theorem writePod_canon {off : Nat} {cs : List (Bool × Nat)} {f : FeRegs → FeRegs} (h : s.CanonOn D) : (s.writePod off cs f).CanonOn D :=
  guardWrite_canon h (fun _ h1 => tuneMoorings_canon (setFe_canon h1))

theorem writeQcfg_canon {n : Fin 256} {v : Word} (h : s.CanonOn D) : (s.writeQcfg n v).CanonOn D :=
  guardWrite_canon h (fun _ h1 => upd_canon h1)

theorem readRecord_canon {pa n : Nat} (h : s.CanonOn D) : (s.readRecord pa n).2.CanonOn D :=
  ite_canon₂ (mk_canon (readAs_canon h)) h

theorem writeTencfg_canon {n : Fin 256} {v : Word} (h : s.CanonOn D) : (s.writeTencfg n v).CanonOn D := by
  unfold State.writeTencfg
  extract_lets
  refine ite_canon (latchFe_canon h) (ite_canon (upd_canon h) ?_)
  split
  · exact latchFe_canon (canon_of ‹_› (readRecord_canon h))
  · exact guardWrite_canon (canon_of ‹_› (readRecord_canon h)) (fun _ h1 => upd_canon h1)

theorem clearIndex_canon {c : InstRec} (h : s.CanonOn D) : (s.clearIndex c).CanonOn D :=
  foldl_canon (fun _ _ h1 => putIx_canon h1) h

theorem writeSiPtr_canon {n : Fin 8} {v : Word} (h : s.CanonOn D) : (s.writeSiPtr n v).CanonOn D := by
  unfold State.writeSiPtr
  extract_lets _ _ put
  have h1 : ∀ (s : State) (i : Inst), s.CanonOn D → (put s i).CanonOn D := fun _ _ h1 => upd_canon h1
  refine ite_canon (latchFe_canon h) (ite_canon (h1 _ _ h) ?_)
  split
  · exact latchFe_canon (canon_of ‹_› (readRecord_canon h))
  · exact guardWrite_canon (canon_of ‹_› (readRecord_canon h)) (fun _ h2 => clearIndex_canon (h1 _ _ h2))

theorem writePdPtr_canon {n : Fin 8} {v : Word} (h : s.CanonOn D) : (s.writePdPtr n v).CanonOn D := by
  unfold State.writePdPtr
  extract_lets _ _ put
  have h1 : ∀ (s : State), s.CanonOn D → (put s).CanonOn D := fun _ h1 => by
    dsimp only [put]
    exact upd_canon h1
  exact guardWrite_canon h (fun _ h2 => ite_canon (h1 _ h2) (foldl_canon (fun _ _ h3 => poke_canon h3) (h1 _ h2)))

theorem writeFeErr_canon {v : Word} (h : s.CanonOn D) : (s.writeFeErr v).CanonOn D :=
  ite_canon (setFe_canon h) h

theorem writeQlPod_canon {v : Word} (h : s.CanonOn D) : (s.writeQlPod v).CanonOn D :=
  writePod_canon h

theorem portalDrop_canon (h : s.CanonOn D) : s.portalDrop.CanonOn D :=
  setFe_canon h

theorem writeScalar_canon {off : Nat} {v : Word} {t : State} (e : s.writeScalar off v = some t) (h : s.CanonOn D) : t.CanonOn D := by
  unfold State.writeScalar at e
  split at e <;> cases e
  · exact writeFeErr_canon h
  · exact plainWrite_canon h
  · exact plainWrite_canon h
  · exact plainWrite_canon h
  · exact plainWrite_canon h
  · exact guardWrite_canon h fun _ h1 => setFe_canon h1
  · exact guardWrite_canon h fun _ h1 => setFe_canon h1
  · exact guardWrite_canon h fun _ h1 => setFe_canon h1
  · exact setFe_canon h
  · exact writeTlbi_canon h
  · exact plainWrite_canon h
  · exact guardWrite_canon h fun _ h1 => setFe_canon h1
  · exact setFe_canon h
  · exact setFe_canon h
  · exact writeMig_canon h
  · exact writeInWindow_canon h
  · exact writeInWindow_canon h
  · exact writePod_canon h
  · exact writeQlPod_canon h
  · exact guardWrite_canon h fun _ h1 => setFe_canon h1
  · exact guardWrite_canon h fun _ h1 => setFe_canon h1

theorem writeArrays_canon {v : Word} {r : Nat × Nat × Nat × (Nat → State)} (hr : r ∈ s.writeArrays v) (h : s.CanonOn D) (i : Nat) :
    (r.2.2.2 i).CanonOn D := by
  simp only [State.writeArrays, List.mem_cons, List.not_mem_nil, or_false] at hr
  rcases hr with rfl | rfl | rfl | rfl | rfl | rfl | rfl | rfl | rfl
  · exact plainWrite_canon h
  · exact plainWrite_canon h
  · exact writeWindow_canon h
  · exact writeWindow_canon h
  · exact writeSiPtr_canon h
  · exact writePdPtr_canon h
  · exact writeQcfg_canon h
  · exact writeTencfg_canon h
  · exact guardWrite_canon h fun _ h1 => setFe_canon h1

theorem regWrite_canon {off : Nat} {v : Word} (h : s.CanonOn D) : (s.regWrite off v).CanonOn D := by
  unfold State.regWrite
  refine ite_canon (portalDrop_canon h) ?_
  split
  · exact writeScalar_canon ‹_› h
  · cases e : (s.writeArrays v).findSome? fun r => (regIndex off r.1 r.2.1 r.2.2.1).map r.2.2.2 with
    | none => exact latchFe_canon h
    | some t =>
      obtain ⟨r, hr, hi⟩ := List.exists_of_findSome?_eq_some e
      obtain ⟨i, -, rfl⟩ := Option.map_eq_some_iff.mp hi
      exact writeArrays_canon hr h i

theorem feStore_canon {off n v : Nat} (h : s.CanonOn D) : (s.feStore off n v).CanonOn D :=
  ite_canon (regWrite_canon h) (regWrite_canon h)

/-! ### Store commands (StoreCmds) -/

theorem readArrays_canon {c : CoreId} {a : Actor} {xs : List SpadArray} (h : s.CanonOn D) : (s.readArrays c a xs).2.2.CanonOn D := by
  induction xs generalizing s with
  | nil => exact h
  | cons x xs ih => exact ih (spadLoad_canon h)

theorem acceptBlock_canon {c : CoreId} {k : Cmd} (h : s.CanonOn D) : (s.acceptBlock c k).CanonOn D := by
  unfold State.acceptBlock
  split
  · exact h
  extract_lets
  split
  · exact finish_canon h
  refine ite_canon (finish_canon h) (ite_canon (finish_canon h) ?_)
  split
  have h1 := canon_of₃ ‹_› (spadLoad_canon h)
  extract_lets t _ _ g
  have h2 : t.CanonOn D := foldl_canon (fun _ _ ht => foundOnDie_canon ht) h1
  clear_value g
  refine ite_canon (finish_canon h2) (ite_canon (finish_canon h2) (ite_canon (finish_canon h2) (ite_canon (finish_canon h2) ?_)))
  split
  rename_i e
  have h3 := canon_of₃ e (by
    split
    · exact mk_canon₃ h2
    · exact engTranslate_canon h2)
  split
  · exact finish_canon h3
  split
  have h4 := canon_of₃ ‹_› (readArrays_canon h3)
  refine ite_canon (finish_canon h4) ?_
  split
  rename_i e
  exact putCmd_canon (canon_of e (by
    split
    · exact ite_canon₂ (readAs_canon h4) (mk_canon h4)
    · exact mk_canon h4))

theorem putResult_canon {c : CoreId} {k : Cmd} {res rval : Nat} (h : s.CanonOn D) : (s.putResult c k res rval).CanonOn D := by
  unfold State.putResult
  split
  · exact h
  · exact engWriteSpad_canon h

theorem answer_canon {c : CoreId} {k : Cmd} {res rval : Nat} (h : s.CanonOn D) : (s.answer c k res rval).CanonOn D :=
  finish_canon (putResult_canon h)

theorem answerPoison_canon {c : CoreId} {k : Cmd} (h : s.CanonOn D) : (s.answerPoison c k).CanonOn D :=
  finish_canon h

theorem answerFull_canon {c : CoreId} {k : Cmd} {i res : Nat} (h : s.CanonOn D) : (s.answerFull c k i res).CanonOn D :=
  answer_canon (countInst_canon h)

theorem engStore_canon {k : Cmd} {c : CoreId} {va : Nat} {bs : List Byte} (h : s.CanonOn D) : (s.engStore k c va bs).CanonOn D := by
  unfold State.engStore
  dsimp -zeta only
  exact engWritePas_canon (engTranslate_canon h)

theorem runPxhash_canon {c : CoreId} {k : Cmd} {r : InstRec} (h : s.CanonOn D) : (s.runPxhash c k r).CanonOn D :=
  answer_canon (engWriteSpad_canon h)

theorem verify_canon {a : Actor} {i : Nat} {r : InstRec} {pin : Bool} {bs : List (Nat × List Nat)} {prev : Option Nat}
    (h : s.CanonOn D) : (s.verify a i r pin bs prev).2.CanonOn D := by
  induction bs generalizing s prev with
  | nil => exact h
  | cons b bs ih =>
    unfold State.verify
    split
    · exact h
    extract_lets
    refine ite_canon₂ h ?_
    split
    have h1 := canon_of₃ ‹_› (sealedBytes_canon h)
    refine ite_canon₂ h1 (ite_canon₂ (countInst_canon h1) (ite_canon₂ h1 ?_))
    extract_lets t
    have h2 : t.CanonOn D := putIx_canon h1
    exact mk_canon (ih h2)

theorem runPxlook_canon {c : CoreId} {k : Cmd} {i : Nat} {r : InstRec} (h : s.CanonOn D) : (s.runPxlook c k i r).CanonOn D := by
  unfold State.runPxlook
  extract_lets
  split
  have h1 := canon_of ‹_› (verify_canon h)
  extract_lets _ _ t
  have h2 : t.CanonOn D := countInst_canon (countInst_canon h1)
  split
  have h3 := canon_of ‹_› (ite_canon₂ (freeBit_canon h2) (mk_canon h2))
  extract_lets u
  have h4 : u.CanonOn D := ite_canon (engStore_canon h3) h3
  exact ite_canon (answerPoison_canon (ite_canon (putResult_canon h4) h4)) (answer_canon h4)

theorem runPxpin_canon {c : CoreId} {k : Cmd} {r : InstRec} (h : s.CanonOn D) : (s.runPxpin c k r).CanonOn D := by
  unfold State.runPxpin
  extract_lets
  split
  · exact answer_canon h
  · exact ite_canon (answer_canon h) (answer_canon (putIx_canon h))

theorem runPxunpin_canon {c : CoreId} {k : Cmd} {i : Nat} {r : InstRec} (h : s.CanonOn D) : (s.runPxunpin c k i r).CanonOn D := by
  unfold State.runPxunpin
  extract_lets
  refine ite_canon (ite_canon (answer_canon h) (ite_canon h (answer_canon (freePrivate_canon h)))) ?_
  split
  · exact answer_canon h
  · exact ite_canon (answer_canon h) (ite_canon (answer_canon h) (answer_canon (unref_canon h)))

theorem runPxlease_canon {c : CoreId} {k : Cmd} {r : InstRec} (h : s.CanonOn D) : (s.runPxlease c k r).CanonOn D := by
  unfold State.runPxlease
  extract_lets
  split
  · exact answer_canon h
  · exact answer_canon (putIx_canon h)

theorem answerMove_canon {c : CoreId} {k : Cmd} {i addr : Nat} (h : s.CanonOn D) : (s.answerMove c k i addr).CanonOn D :=
  ite_canon (answer_canon (countInst_canon h)) (answer_canon h)

theorem runPxprom_canon {c : CoreId} {k : Cmd} {i : Nat} {r : InstRec} (h : s.CanonOn D) : (s.runPxprom c k i r).CanonOn D := by
  unfold State.runPxprom
  extract_lets
  split
  · exact answer_canon h
  refine ite_canon (ite_canon (answer_canon h) ?_) (ite_canon (answer_canon h) (ite_canon (answer_canon h) ?_))
  · split
    have h1 := canon_of₃ ‹_› (sealedBytes_canon h)
    refine ite_canon (answerPoison_canon h1) ?_
    split
    have h2 := canon_of ‹_› (roomT1_canon h1)
    split
    · exact answerMove_canon (moveNode_canon h2)
    · exact answer_canon h2
    · exact answerFull_canon h2
  · split
    have h1 := canon_of₃ ‹_› (sealedBytes_canon h)
    refine ite_canon (answerPoison_canon h1) ?_
    split
    · exact answerFull_canon (canon_of ‹_› (roomT0_canon h1))
    have h2 := canon_of ‹_› (roomT0_canon h1)
    exact answerMove_canon (modIx_canon (modInst_canon (engWriteSpad_canon h2)))

theorem runPxalloc_canon {c : CoreId} {k : Cmd} {i : Nat} {r : InstRec} (h : s.CanonOn D) : (s.runPxalloc c k i r).CanonOn D := by
  unfold State.runPxalloc
  split
  · extract_lets s1
    have h1 : s1.CanonOn D := modInst_canon (takeFrame_canon h)
    exact ite_canon (answer_canon (poke_canon h1)) (answerFull_canon h)
  · exact answerFull_canon h

theorem sealTests_canon {a : Actor} {i : Nat} {r : InstRec} {z : Sealing} (h : s.CanonOn D) : (s.sealTests a i r z).2.CanonOn D := by
  unfold State.sealTests
  split
  · split
    have h1 := canon_of₃ ‹_› (sealedBytes_canon h)
    exact ite_canon₂ h1 (ite_canon₂ h1 (countInst_canon h1))
  extract_lets parent
  clear_value parent
  split
  · exact h
  split
  · exact countInst_canon h
  · exact h

theorem insertNode_canon {a : Actor} {i : Nat} {r : InstRec} {z : Sealing} {parent n : Nat} (h : s.CanonOn D) :
    (s.insertNode a i r z parent n).CanonOn D := by
  unfold State.insertNode
  dsimp -zeta only
  extract_lets s1 _ _ s2 s3
  have h1 : s1.CanonOn D := pokeAs_canon (pokeAs_canon (freeNat_canon (freeNat_canon h)))
  have h2 : s2.CanonOn D := putIxWith_canon h1
  have h3 : s3.CanonOn D := ite_canon h2 (modIx_canon h2)
  exact podNotice_canon (countInst_canon h3)

theorem sealNode_canon {a : Actor} {i : Nat} {r : InstRec} {z : Sealing} {place : Bool} (h : s.CanonOn D) :
    (s.sealNode a i r z place).2.CanonOn D := by
  unfold State.sealNode
  split
  · have h1 := canon_of ‹_› (sealTests_canon h)
    split
    have h2 := canon_of ‹_› (ite_canon₂ (roomT1_canon h1) (mk_canon h1))
    refine ite_canon₂ (countInst_canon h2) ?_
    split
    · exact insertNode_canon (canon_of ‹_› (sealTests_canon h2))
    · exact sealTests_canon h2
  · exact sealTests_canon h

theorem runPxseal_canon {c : CoreId} {k : Cmd} {i : Nat} {r : InstRec} (h : s.CanonOn D) : (s.runPxseal c k i r).CanonOn D := by
  unfold State.runPxseal
  extract_lets _
  refine ite_canon (answer_canon h) (ite_canon h ?_)
  split
  have h0 := canon_of₃ ‹_› (frameAs_canon h)
  split
  have h1 := canon_of₃ ‹_› (frameNow_canon h0)
  split
  · exact answerPoison_canon h1
  split
  · exact answer_canon h1
  split
  · exact answer_canon h1
  extract_lets
  split
  · have h2 := canon_of ‹_› (sealNode_canon h1)
    refine answer_canon ?_
    split
    · exact modInst_canon h2
    · exact h2
  · have h2 := canon_of ‹_› (sealNode_canon h1)
    exact answer_canon (ite_canon (poke_canon h2) h2)
  · exact answerPoison_canon (canon_of ‹_› (sealNode_canon h1))

theorem mergeSlots_canon {a : Actor} {r : InstRec} {pa l : Nat} {ts : List Nat} (h : s.CanonOn D) :
    (s.mergeSlots a r pa l ts).2.2.CanonOn D := by
  induction ts generalizing s with
  | nil => exact h
  | cons t ts ih =>
    unfold State.mergeSlots
    split
    have h1 := canon_of₃ ‹_› (frameNow_canon h)
    extract_lets
    split
    rename_i e
    have h2 := canon_of₃ e (foldl_snd_canon₃ (fun _ _ h2 => frameNow_canon h2) h1)
    split
    exact canon_of₃ ‹_› (ih h2)

theorem putMerged_canon {a : Actor} {r : InstRec} {pa l : Nat} {m : MergeLayer} {t : Nat} (h : s.CanonOn D) :
    (s.putMerged a r pa l m t).CanonOn D :=
  ite_canon (pokeAs_canon h) (foldl_canon (fun _ _ h1 => pokeAs_canon h1) (pokeAs_canon h))

theorem runKmerge_canon {c : CoreId} {k : Cmd} {i : Nat} {r : InstRec} (h : s.CanonOn D) : (s.runKmerge c k i r).CanonOn D := by
  unfold State.runKmerge
  extract_lets _ _
  refine ite_canon (answer_canon h) (ite_canon h ?_)
  extract_lets
  split
  split
  extract_lets
  split
  have h1 := canon_of₃ ‹_› (mergeSlots_canon (canon_of₃ ‹_› (frameNow_canon (canon_of₃ ‹_› (frameNow_canon h)))))
  extract_lets
  refine ite_canon (answerPoison_canon h1) (ite_canon (answer_canon h1) (ite_canon (answerPoison_canon h1)
    (ite_canon (answer_canon h1) (answer_canon (pokeAs_canon (writeFill_canon (foldl_canon (fun _ _ h2 => putMerged_canon h2) h1)))))))

theorem runPlan_canon {c : CoreId} {k : Cmd} {r : InstRec} (h : s.CanonOn D) : (s.runPlan c k r).CanonOn D := by
  unfold State.runPlan
  extract_lets
  refine ite_canon (answer_canon h) ?_
  split
  · exact answer_canon h
  · exact answer_canon (engStore_canon h)

theorem isFilling_canon {a : Actor} {i : Nat} {r : InstRec} {pa : Nat} {ten : BitVec 8} (h : s.CanonOn D) :
    (s.isFilling a i r pa ten).2.2.CanonOn D := by
  unfold State.isFilling
  split
  · split
    exact canon_of₃ ‹_› (frameNow_canon h)
  · exact h

theorem runBfill_canon {c : CoreId} {k : Cmd} {i : Nat} {r : InstRec} (h : s.CanonOn D) : (s.runBfill c k i r).CanonOn D := by
  unfold State.runBfill
  extract_lets
  split
  · exact answerPoison_canon (canon_of₃ ‹_› (isFilling_canon h))
  · exact answer_canon (canon_of₃ ‹_› (isFilling_canon h))
  have h1 := canon_of₃ ‹_› (isFilling_canon h)
  extract_lets _ _ t
  have h2 : t.CanonOn D := upd_canon h1
  exact ite_canon (answerPoison_canon h1) (ite_canon h1 (answer_canon (addPending_canon h2)))

theorem weightRows_canon {it : BackfillItem} {x : Handle} {is : List Nat} (h : s.CanonOn D) : (s.weightRows it x is).2.CanonOn D := by
  induction is generalizing s with
  | nil => exact h
  | cons i is ih =>
    unfold State.weightRows
    extract_lets
    split
    · exact canon_of ‹_› (translateBytes_canon h)
    have h1 := canon_of ‹_› (translateBytes_canon h)
    split
    have h2 := canon_of ‹_› (readAs_canon h1)
    refine ite_canon₂ h2 ?_
    split
    · exact canon_of ‹_› (ih h2)
    · exact canon_of ‹_› (ih h2)

theorem endItem_canon {die : Fin 4} {it : BackfillItem} (h : s.CanonOn D) : (s.endItem die it).CanonOn D :=
  subPending_canon (upd_canon h)

theorem nextLayer_canon {die : Fin 4} {it : BackfillItem} {r : InstRec} (h : s.CanonOn D) : (s.nextLayer die it r).CanonOn D :=
  ite_canon (endItem_canon h) (upd_canon h)

theorem execBackfillItem_canon {die : Fin 4} (h : s.CanonOn D) : OutCanon D (execBackfillItem die s) := by
  unfold execBackfillItem
  split
  · exact next_canon h
  split
  · exact next_canon (endItem_canon h)
  extract_lets _ early _
  have he : ∀ t : State, t.CanonOn D → (early t).CanonOn D := fun _ h1 => endItem_canon (modCore_canon h1)
  split
  have h1 := canon_of₃ ‹_› (frameNow_canon h)
  refine ite_out (next_canon h) (ite_out (next_canon (he _ h1)) (ite_out (next_canon (nextLayer_canon h1)) ?_))
  extract_lets
  split
  · exact next_canon (he _ (canon_of ‹_› (weightRows_canon h1)))
  · have h2 := canon_of ‹_› (weightRows_canon h1)
    exact next_canon (nextLayer_canon (writeFill_canon (writePas_canon h2)))

theorem acceptKv_canon {c : CoreId} {k : Cmd} {st : Bool} {gd ga gb : Word} {e : BitVec 128} (h : s.CanonOn D) :
    (s.acceptKv c k st gd ga gb e).CanonOn D := by
  unfold State.acceptKv
  extract_lets
  refine ite_canon (finish_canon h) ?_
  split
  · exact finish_canon h
  · exact ite_canon (finish_canon h) (ite_canon (finish_canon h) (ite_canon (finish_canon h) (putCmd_canon h)))

theorem nodeBytes_canon {c : CoreId} {a : Actor} {t0 : Bool} {adr n : Nat} (h : s.CanonOn D) : (s.nodeBytes c a t0 adr n).2.2.CanonOn D :=
  ite_canon₃ (spadLoad_canon h) (frameAs_canon h)

theorem fillBit_canon {c : CoreId} {a : Actor} {t0 : Bool} {adr : Nat} {r : InstRec} {l slot : Nat} (h : s.CanonOn D) :
    (s.fillBit c a t0 adr r l slot).2.2.2.CanonOn D := by
  unfold State.fillBit
  dsimp -zeta only
  split
  · exact mk_canon₄ (spadLoad_canon h)
  · exact mk_canon₄ (fillByte_canon h)

theorem kvSlot_canon {c : CoreId} {k : Cmd} {e : BitVec 128} {r : InstRec} {x : KvAt} {slot : Nat} (h : s.CanonOn D) :
    (s.kvSlot c k e r x slot).2.CanonOn D := by
  unfold State.kvSlot
  extract_lets
  split
  have h1 := canon_of₄ ‹_› (fillBit_canon h)
  refine ite_canon₂ h1 (ite_canon₂ h1 ?_)
  extract_lets
  split
  have h2 := canon_of₃ ‹_› (nodeBytes_canon h1)
  split
  have h3 := canon_of₃ ‹_› (nodeBytes_canon h2)
  split
  have h4 := canon_of₃ ‹_› (nodeBytes_canon h3)
  exact ite_canon₂ h4 h4

theorem runKvld_canon {c : CoreId} {k : Cmd} {gd ga gb : Word} {e : BitVec 128} (h : s.CanonOn D) :
    (s.runKvld c k gd ga gb e).CanonOn D := by
  unfold State.runKvld
  dsimp -zeta only
  split
  · exact finish_canon h
  · extract_lets _ _ _ s1
    have h1 : s1.CanonOn D := engWriteSpad_canon (kvSlot_canon h)
    exact ite_canon (putCmd_canon (kvSlot_canon h)) (finish_canon h1)

theorem runKvst_canon {c : CoreId} {k : Cmd} {gd ga gb : Word} {e : BitVec 128} (h : s.CanonOn D) :
    (s.runKvst c k gd ga gb e).CanonOn D := by
  unfold State.runKvst
  split
  · exact finish_canon h
  extract_lets
  split
  have h1 := canon_of₃ ‹_› (frameNow_canon h)
  refine ite_canon (answerPoison_canon h1) (ite_canon (finish_canon h1) ?_)
  split
  have h2 := canon_of₃ ‹_› (ite_canon₃ (frameNow_canon h1) h1)
  split
  have h3 := canon_of₃ ‹_› (ite_canon₃ (frameNow_canon h2) h2)
  refine ite_canon (answerPoison_canon h3) ?_
  split
  have h4 := canon_of₃ ‹_› (spadLoad_canon h3)
  exact finish_canon (ite_canon (writeFill_canon (writePas_canon h4)) (writePas_canon h4))

theorem blockCmd_canon {i : Instr} {x : Ctl} {cls : PathClass} {d a : Reg} {op : Word → Word → CmdOp} (h : s.CanonOn D) :
    OutCanon D (blockCmd i x cls d a op s) :=
  submit_canon h

theorem kvCmd_canon {i : Instr} {x : Ctl} {st : Bool} {d a b : Reg} {op : Word → Word → Word → BitVec 128 → CmdOp} (h : s.CanonOn D) :
    OutCanon D (kvCmd i x st d a b op s) :=
  submit_canon h

theorem acceptStore_canon {c : CoreId} {k : Cmd} (h : s.CanonOn D) : (s.acceptStore c k).CanonOn D := by
  unfold State.acceptStore
  split
  · exact acceptKv_canon h
  · exact acceptKv_canon h
  · exact acceptBlock_canon h

theorem storeEffect_canon {c : CoreId} {k : Cmd} (h : s.CanonOn D) : (s.storeEffect c k).CanonOn D := by
  unfold State.storeEffect
  split
  · exact runKvld_canon h
  · exact runKvst_canon h
  · split
    · exact h
    · extract_lets
      split
      · exact finish_canon h
      · split
        · exact runPxhash_canon h
        · exact runPxlook_canon h
        · exact runPxpin_canon h
        · exact runPxunpin_canon h
        · exact runPxseal_canon h
        · exact runPxalloc_canon h
        · exact runPxlease_canon h
        · exact runPxprom_canon h
        · exact runKmerge_canon h
        · exact runBfill_canon h
        · exact runPlan_canon h
        · exact h

theorem completeStore_canon {c : CoreId} {k : Cmd} (h : s.CanonOn D) : (s.completeStore c k).CanonOn D :=
  signed_canon (storeEffect_canon h)

/-! ### Remote requests and their service (Remote) -/

theorem await_canon {p : Nat} {c : CoreId} {k : Cmd} (h : s.CanonOn D) : (s.await p c k).CanonOn D :=
  modPair_canon h

theorem acceptRemote_canon {c : CoreId} {k : Cmd} {kind : Nat} {gd ga : Word} (h : s.CanonOn D) :
    (s.acceptRemote c k kind gd ga).CanonOn D := by
  unfold State.acceptRemote
  dsimp -zeta only
  extract_lets _ _ s1
  have h1 : s1.CanonOn D := await_canon (putCmd_canon (spadLoad_canon h))
  split
  · exact finish_canon h
  · refine ite_canon (finish_canon (spadLoad_canon h)) ?_
    split
    · exact sendFlit_canon h1
    · exact sendFlit_canon (sendFlit_canon h1)
    · exact sendFlit_canon h1

theorem remoteCmd_canon {i : Instr} {x : Ctl} {d a : Reg} {op : Word → Word → CmdOp} {n : Word → Nat} (h : s.CanonOn D) :
    OutCanon D (remoteCmd i x d a op n s) :=
  submit_canon h

theorem sendErr_canon {p code det va : Nat} (h : s.CanonOn D) : (s.sendErr p code det va).CanonOn D :=
  sendFlit_canon h

theorem peerTranslate_canon {p : Nat} {ten : BitVec 8} {need : Need} {va n : Nat} (h : s.CanonOn D) :
    (s.peerTranslate p ten need va n).2.CanonOn D := by
  unfold State.peerTranslate
  refine ite_canon₂ (mk_canon (sendErr_canon h)) ?_
  split
  · exact mk_canon (sendErr_canon (canon_of ‹_› (translateBytes_canon h)))
  · exact mk_canon (canon_of ‹_› (translateBytes_canon h))

theorem modServing_canon {p : Nat} {f : PeerReq → PeerReq} (h : s.CanonOn D) : (s.modServing p f).CanonOn D :=
  modPair_canon h

theorem popServing_canon {p : Nat} (h : s.CanonOn D) : (s.popServing p).CanonOn D :=
  modPair_canon h

theorem makeService_canon {p : Nat} {q : PeerReq} (h : s.CanonOn D) : (s.makeService p q).CanonOn D := by
  unfold State.makeService
  dsimp -zeta only
  split
  · exact popServing_canon (canon_of ‹_› (peerTranslate_canon h))
  · exact access_canon (modServing_canon (canon_of ‹_› (peerTranslate_canon h)))

theorem serveNext_canon {p : Nat} (h : s.CanonOn D) : (s.serveNext p).CanonOn D := by
  unfold State.serveNext
  split
  · exact h
  · refine ite_canon h ?_
    split
    · exact withFar_ok_canon ‹_› (fun _ h1 => makeService_canon h1) h
    · exact withFar_canon ‹_› h

theorem answerRequest_canon {p : Nat} {q : PeerReq} (h : s.CanonOn D) : (s.answerRequest p q).CanonOn D :=
  ite_canon (sendFlit_canon h) (ite_canon (sendErr_canon h) (sendFlit_canon h))

theorem takeService_canon {h' : HeldAccess} {p : Nat} {bs : List (Byte × Bool)} (h : s.CanonOn D) :
    (s.takeService h' p bs).CanonOn D := by
  unfold State.takeService
  extract_lets _ s1
  have h1 : s1.CanonOn D := modServing_canon h
  split
  · exact ite_canon (serveNext_canon (answerRequest_canon (popServing_canon h1))) h1
  · exact h1

theorem sendAnswers_canon :
    ∀ {n : Nat} {t : State}, t.CanonOn D → (State.sendAnswers n t).CanonOn D
  | 0, _, h => h
  | _ + 1, _, h => by
    unfold State.sendAnswers
    split
    · exact h
    · extract_lets s1
      have h1 : s1.CanonOn D := upd_canon h
      split
      · exact sendAnswers_canon (sendReply_canon h1)
      · exact sendAnswers_canon (takeService_canon h1)
      · exact sendAnswers_canon h1

theorem takeRequest_canon {p type : Nat} {b data : BitVec 1024} (h : s.CanonOn D) : (s.takeRequest p type b data).CanonOn D :=
  serveNext_canon (modPair_canon h)

theorem podFail_canon {c : CoreId} {k : Cmd} {i res rval : Nat} (h : s.CanonOn D) : (s.podFail c k i res rval).CanonOn D := by
  unfold State.podFail
  extract_lets s1
  have h1 : s1.CanonOn D := by
    dsimp only [s1]
    split
    · exact dropFrame_canon h
    · exact h
  exact answer_canon h1

theorem podNext_canon {c : CoreId} {k : Cmd} {i : Nat} {r : InstRec} (h : s.CanonOn D) : (s.podNext c k i r).CanonOn D := by
  unfold State.podNext
  dsimp -zeta only
  extract_lets
  split
  · exact podFail_canon h
  · exact sendFlit_canon (await_canon (putCmd_canon h))

theorem podQuery_canon {c : CoreId} {k : Cmd} {i : Nat} {r : InstRec} (h : s.CanonOn D) : (s.podQuery c k i r).CanonOn D := by
  unfold State.podQuery
  extract_lets
  refine ite_canon ?_ (sendFlit_canon (await_canon (putCmd_canon h)))
  split
  · exact podFail_canon h
  · exact podNext_canon h

theorem acceptPod_canon {c : CoreId} {k : Cmd} (h : s.CanonOn D) : (s.acceptPod c k).CanonOn D := by
  unfold State.acceptPod
  dsimp -zeta only
  extract_lets s1
  have h1 : s1.CanonOn D := acceptBlock_canon h
  split
  · extract_lets
    split
    · exact h1
    · split
      · split
        · exact answer_canon h1
        · split
          · exact podQuery_canon (takeFrame_canon (roomT1_canon h1))
          · exact answerFull_canon (roomT1_canon h1)
      · exact podQuery_canon h1
  · exact h1

theorem fetched_canon {c : CoreId} {k : Cmd} {p : Nat} {bs : List Byte} {bad : Bool} (h : s.CanonOn D) :
    (s.fetched c k p bs bad).CanonOn D := by
  unfold State.fetched
  extract_lets _ s1
  have h1 : s1.CanonOn D := ite_canon (engWriteSpad_canon h) (engStore_canon h)
  exact ite_canon (answerPoison_canon h1) (answer_canon h1)

theorem replicated_canon {c : CoreId} {k : Cmd} {i : Nat} {r : InstRec} {bs : List Byte} {bad : Bool} (h : s.CanonOn D) :
    (s.replicated c k i r bs bad).CanonOn D := by
  unfold State.replicated
  extract_lets _ _ s1
  have h1 : s1.CanonOn D := pokeAs_canon h
  refine ite_canon (answerPoison_canon (dropFrame_canon h1)) (ite_canon (podFail_canon (countInst_canon h1)) ?_)
  split
  · exact answer_canon (canon_of ‹_› (sealNode_canon h1))
  · exact podFail_canon (canon_of ‹_› (sealNode_canon h1))
  · exact answerPoison_canon (dropFrame_canon (canon_of ‹_› (sealNode_canon h1)))

theorem popAwaited_canon {p : Nat} (h : s.CanonOn D) : (s.popAwaited p).CanonOn D :=
  modPair_canon h

theorem deliverSpad_canon {c : CoreId} {k : Cmd} {spa : Nat} {bs : List Byte} {code : Nat} (h : s.CanonOn D) :
    (s.deliverSpad c k spa bs code).CanonOn D :=
  finish_canon (engWriteSpad_canon h)

theorem takeResponse_canon {p : Nat} {data : Bool} {b : BitVec 1024} (h : s.CanonOn D) : (s.takeResponse p data b).CanonOn D := by
  unfold State.takeResponse
  split
  · exact popAwaited_canon h
  · split
    · exact deliverSpad_canon (popAwaited_canon h)
    · exact finish_canon (popAwaited_canon h)
    · exact deliverSpad_canon (popAwaited_canon h)
    · exact h

theorem takeErr_canon {p : Nat} {b : BitVec 1024} (h : s.CanonOn D) : (s.takeErr p b).CanonOn D := by
  unfold State.takeErr
  extract_lets
  split
  · exact popAwaited_canon h
  · refine ite_canon ?_ (finish_canon (popAwaited_canon h))
    split
    · exact deliverSpad_canon (popAwaited_canon h)
    · exact deliverSpad_canon (popAwaited_canon h)
    · exact putCmd_canon h
    · exact putCmd_canon h
    · exact finish_canon (popAwaited_canon h)

theorem takeHolders_canon {p : Nat} {b : BitVec 1024} (h : s.CanonOn D) : (s.takeHolders p b).CanonOn D := by
  unfold State.takeHolders
  split
  · exact popAwaited_canon h
  · split
    · exact podNext_canon (popAwaited_canon h)
    · exact h

theorem takeNotpresent_canon {p : Nat} (h : s.CanonOn D) : (s.takeNotpresent p).CanonOn D := by
  unfold State.takeNotpresent
  split
  · exact popAwaited_canon h
  · split
    · exact podNext_canon (popAwaited_canon h)
    · exact h

theorem takeData_canon {p : Nat} {b : BitVec 1024} (h : s.CanonOn D) : (s.takeData p b).CanonOn D := by
  unfold State.takeData
  split
  · exact popAwaited_canon h
  · split
    · exact h
    · extract_lets _ s1
      have h1 : s1.CanonOn D := popAwaited_canon h
      refine ite_canon (putCmd_canon h) ?_
      split
      · exact fetched_canon h1
      · exact replicated_canon h1

theorem sendNotpresent_canon {p : Nat} {b : BitVec 1024} (h : s.CanonOn D) : (s.sendNotpresent p b).CanonOn D :=
  sendFlit_canon h

theorem sendData_canon {p : Nat} {bs : List Byte} (h : s.CanonOn D) : (s.sendData p bs).CanonOn D :=
  foldl_canon (fun _ _ h1 => sendFlit_canon h1) h

theorem serveRead_canon {p : Nat} {b : BitVec 1024} (h : s.CanonOn D) : (s.serveRead p b).CanonOn D := by
  unfold State.serveRead
  dsimp -zeta only
  split
  · exact sendNotpresent_canon h
  · extract_lets
    split
    · exact sendNotpresent_canon (podNotice_canon h)
    · extract_lets s1
      have h1 : s1.CanonOn D := ite_canon (sendErr_canon (sealedBytes_canon h)) (sealedBytes_canon h)
      exact sendData_canon h1

theorem serveStore_canon {p op : Nat} {b : BitVec 1024} (h : s.CanonOn D) : (s.serveStore p op b).CanonOn D := by
  unfold State.serveStore
  split
  · split
    · exact dirReg_canon h
    · exact h
  · split
    · exact dirDereg_canon h
    · exact h
  · split
    · exact sendFlit_canon h
    · exact sendNotpresent_canon h
  · exact takeHolders_canon h
  · exact serveRead_canon h
  · exact takeData_canon h
  · exact takeNotpresent_canon h
  · exact h

theorem acceptCmd_canon {c : CoreId} {k : Cmd} (h : s.CanonOn D) : (s.acceptCmd c k).CanonOn D := by
  unfold State.acceptCmd
  split
  · exact acceptCopy_canon h
  · exact acceptCopy_canon h
  · exact acceptCopy_canon h
  · exact acceptCopy_canon h
  · exact acceptRemote_canon h
  · exact acceptRemote_canon h
  · exact acceptRemote_canon h
  · exact acceptPod_canon h
  · exact acceptPod_canon h
  · exact acceptStore_canon h

theorem execEngineCommandAccept_canon {c : CoreId} {e : PathClass} (h : s.CanonOn D) : OutCanon D (execEngineCommandAccept c e s) := by
  unfold execEngineCommandAccept
  split
  · exact next_canon h
  · exact next_canon (acceptCmd_canon (modCore_canon h (fun _ => by simp)))

theorem execEngineCommandComplete_canon {c : CoreId} {id : Nat} (h : s.CanonOn D) : OutCanon D (execEngineCommandComplete c id s) := by
  unfold execEngineCommandComplete
  split
  · exact next_canon h
  · split
    · exact next_canon h
    · exact next_canon (finish_canon h)
    · split
      · exact next_canon (completeCopy_canon h)
      · exact next_canon (completeCopy_canon h)
      · exact next_canon (completeCopy_canon h)
      · exact next_canon (completeCopy_canon h)
      · exact next_canon h
      · exact next_canon h
      · exact next_canon h
      · exact next_canon h
      · exact next_canon h
      · exact next_canon (completeStore_canon h)

/-! ### Lanes (Lanes) -/

theorem takeReq_canon {p : Nat} {ten : BitVec 8} {planes : List Nat} (h : s.CanonOn D) : (s.takeReq p ten planes).CanonOn D := by
  unfold State.takeReq
  refine foldl_canon (fun _ _ h1 => ?_) h
  split
  · exact grantSlot_canon ‹_› h1
  · exact upd_canon h1

theorem countGrant_canon {r : LaneRequest} (h : s.CanonOn D) : (s.countGrant r).CanonOn D :=
  modCore_canon h

theorem takeGrant_canon {p plane : Nat} (h : s.CanonOn D) : (s.takeGrant p plane).CanonOn D := by
  unfold State.takeGrant
  split
  · exact h
  · extract_lets s1 s2
    have h1 : s1.CanonOn D := modTx_canon h
    have h2 : s2.CanonOn D := upd_canon h1
    refine ite_canon h ?_
    split
    · exact h2
    · exact countGrant_canon (upd_canon h2)

theorem takeRevoke_canon {p plane : Nat} (h : s.CanonOn D) : (s.takeRevoke p plane).CanonOn D := by
  unfold State.takeRevoke
  split
  · exact h
  · exact ite_canon h (dropTx_canon h)

theorem takeDrain_canon {p plane : Nat} (h : s.CanonOn D) : (s.takeDrain p plane).CanonOn D := by
  unfold State.takeDrain
  split
  · exact h
  · exact ite_canon (modTx_canon h) h

theorem takeHandback_canon {p plane : Nat} (h : s.CanonOn D) : (s.takeHandback p plane).CanonOn D := by
  unfold State.takeHandback
  split
  · exact h
  · split
    · exact activateTx_canon h
    · exact modTx_canon h
    · exact ite_canon (modTx_canon h) h
    · exact h

theorem takeRelease_canon {p plane : Nat} (h : s.CanonOn D) : (s.takeRelease p plane).CanonOn D := by
  unfold State.takeRelease
  split
  · exact h
  · exact ite_canon h (dropRx_canon h)

theorem takeWithdraw_canon {p : Nat} {ten : BitVec 8} {planes : List Nat} (h : s.CanonOn D) :
    (s.takeWithdraw p ten planes).CanonOn D := by
  unfold State.takeWithdraw
  extract_lets s1
  have h1 : s1.CanonOn D := upd_canon h
  refine foldl_canon (fun _ _ h2 => ?_) h1
  split
  · exact ite_canon (dropRx_canon h2) h2
  · exact h2

theorem takeCtrl_canon {p : Nat} {b : BitVec 1024} (h : s.CanonOn D) : (s.takeCtrl p b).CanonOn D := by
  unfold State.takeCtrl
  extract_lets
  split
  · exact takeReq_canon h
  · exact takeGrant_canon h
  · exact takeRevoke_canon h
  · exact takeDrain_canon h
  · exact takeHandback_canon h
  · exact takeRelease_canon h
  · exact takeWithdraw_canon h
  · exact h

theorem deliver_canon {p : Nat} {h' : BitVec 64} {b : BitVec 1024} (h : s.CanonOn D) : (s.deliver p h' b).CanonOn D := by
  unfold State.deliver
  split
  · exact takeRequest_canon h
  · exact takeResponse_canon h
  · exact modPair_canon h
  · split
    · exact h
    · exact takeRequest_canon (modPair_canon h)
  · exact takeRequest_canon h
  · exact takeResponse_canon h
  · exact takeErr_canon h
  · exact takeCtrl_canon h
  · exact serveStore_canon h
  · exact serveFwd_canon h
  · exact h

theorem deliverAll_canon :
    ∀ {s : State} {p n : Nat}, s.CanonOn D → (s.deliverAll p n).CanonOn D
  | _, _, 0, h => h
  | _, _, _ + 1, h => by
    unfold State.deliverAll
    extract_lets _ s1
    have h1 : s1.CanonOn D := modPair_canon h
    split
    · exact h
    · exact deliverAll_canon (sendAnswers_canon (deliver_canon h1))

theorem takeFlit_canon {p : Nat} {h' : BitVec 64} {b : BitVec 1024} (h : s.CanonOn D) : (s.takeFlit p h' b).CanonOn D :=
  ite_canon h (deliverAll_canon (modPair_canon h))

theorem receive_canon {f : Flit} (h : s.CanonOn D) : (s.receive f).CanonOn D := by
  unfold State.receive
  extract_lets _ got s1
  have h1 : s1.CanonOn D := modRx_canon h
  clear_value got
  refine ite_canon h ?_
  split
  · exact h1
  · extract_lets _ s2
    have h2 : s2.CanonOn D := ackFlits_canon h1
    exact ite_canon h1 (ite_canon h2 (takeFlit_canon h2))

theorem receiveAs_canon {ok : BitVec 64 → BitVec 1024 → Bool} {f : Flit} (h : s.CanonOn D) : OutCanon D (receiveAs ok f s) :=
  ite_out (next_canon (receive_canon h)) (next_canon h)

theorem execTuningTimeout_canon {i : Fin 256} (h : s.CanonOn D) : OutCanon D (execTuningTimeout i s) := by
  unfold execTuningTimeout
  exact ite_out (next_canon (modRx_canon h)) (ite_out (next_canon (ite_canon (activateTx_canon h) (modTx_canon h))) (next_canon h))

theorem execErrorWindowEnd_canon {i : Fin 256} (h : s.CanonOn D) : OutCanon D (execErrorWindowEnd i s) := by
  unfold execErrorWindowEnd
  extract_lets _ s1 s2
  have h1 : s1.CanonOn D := modRx_canon h
  have h2 : s2.CanonOn D := modRx_canon h1
  exact ite_out (next_canon h) (ite_out (next_canon (sendCtrl_canon h2)) (next_canon h1))

theorem execLaneDrainEnd_canon {i : Fin 256} (h : s.CanonOn D) : OutCanon D (execLaneDrainEnd i s) := by
  unfold execLaneDrainEnd
  exact ite_out (ite_out (next_canon (freeTx_canon h)) (ite_out (next_canon (activateTx_canon h)) (next_canon (modTx_canon h))))
    (ite_out (ite_out (next_canon (modRx_canon h)) (next_canon (freeRx_canon h))) (next_canon h))

theorem execStarvationCheck_canon (h : s.CanonOn D) : OutCanon D (execStarvationCheck s) := by
  unfold execStarvationCheck
  refine ite_out (next_canon h) ?_
  split
  · exact next_canon h
  · extract_lets vs _ _ s1
    have h1 : s1.CanonOn D := upd_canon h
    clear_value vs
    split
    · exact next_canon h
    · exact ite_out (next_canon h) (next_canon (dropRx_canon (sendCtrl_canon h1)))

theorem execCharter_canon {d a : Reg} {x : Ctl} (h : s.CanonOn D) : OutCanon D (execCharter d a x s) := by
  unfold execCharter
  dsimp -zeta only
  refine issue_canon (fun _ _ _ h2 => ?_) h
  extract_lets _ _ _ _ _ _ _ s1 _ s2 s3
  have h3 : s1.CanonOn D := by
    dsimp only [s1]
    refine foldl_canon (fun _ _ h3 => ?_) h2
    split
    · exact modTx_canon h3
    · exact h3
  have h4 : s2.CanonOn D := upd_canon h3
  have h5 : s3.CanonOn D := sendCtrl_canon h4
  exact ite_act trap_canon (ite_act (land_canon h2)
    (ite_act (land_canon h2) (ite_act (land_canon h2) (done_canon (fly_canon (freeNat_canon h5))))))

theorem execCastoff_canon {d a : Reg} {x : Ctl} (h : s.CanonOn D) : OutCanon D (execCastoff d a x s) := by
  unfold execCastoff
  refine issue_canon (fun _ _ _ h2 => ?_) h
  extract_lets _ _ _ _ _ _ s1 s2 s3 _ _ s4
  have h3 : s1.CanonOn D := upd_canon h2
  have h4 : s2.CanonOn D := foldl_canon (fun _ _ h4 => freeTx_canon h4) h3
  have h5 : s3.CanonOn D := ite_canon h4 (sendCtrl_canon h4)
  have h6 : s4.CanonOn D := foldl_canon (fun _ _ h6 => dropTx_canon (sendCtrl_canon h6)) h5
  exact ite_act trap_canon (ite_act (land_canon h2) (land_canon h6))

/-! ### Packets and launches (Launch) -/

theorem modQueue_canon {n : Fin 256} {f : Queue → Queue} (h : s.CanonOn D) : (s.modQueue n f).CanonOn D :=
  upd_canon h

theorem popHead_canon {n : Fin 256} (h : s.CanonOn D) : (s.popHead n).CanonOn D :=
  modQueue_canon h

theorem countsAsDispatch_canon {n : Fin 256} (h : s.CanonOn D) : (s.countsAsDispatch n).CanonOn D :=
  modQueue_canon h

theorem execPortalDmw_canon {portal off : Nat} {data : List (BitVec 8)} (h : s.CanonOn D) :
    OutCanon D (execPortalDmw portal off data s) := by
  unfold execPortalDmw
  extract_lets _ _ s1
  have h1 : s1.CanonOn D := modQueue_canon h
  exact ite_out (next_canon h) (ite_out (next_canon (emit_canon h))
    (ite_out (next_canon (emit_canon h)) (ite_out (next_canon (emit_canon h))
    (ite_out (next_canon (emit_canon h)) (next_canon (emit_canon (upd_canon h1)))))))

theorem completePacket_canon {p : Packet} {status : Nat} {cause : BitVec 32} {id : Nat} {va : Word} {spans : List Span}
    (h : s.CanonOn D) : (s.completePacket p status cause id va spans).CanonOn D := by
  unfold State.completePacket
  extract_lets s1
  have h1 : s1.CanonOn D := modQueue_canon h
  split
  · exact latchFe_canon (canon_of ‹_› (translateBytes_canon h1))
  have h2 := canon_of ‹_› (translateBytes_canon h1)
  extract_lets _ _ s2 s3
  have h3 : s2.CanonOn D := ite_canon h2 (upd_canon h2)
  have h4 : s3.CanonOn D := writePas_canon h3
  exact ite_canon (emit_canon h4) h4

theorem settleLaunch_canon {id : Nat} (h : s.CanonOn D) : (s.settleLaunch id).CanonOn D := by
  unfold State.settleLaunch
  dsimp -zeta only
  split
  · exact h
  · extract_lets s1 s2
    have h1 : s1.CanonOn D := upd_canon h
    have h2 : s2.CanonOn D := foldl_canon (fun _ _ h2 => unlockAll_canon h2) h1
    exact ite_canon (completePacket_canon h2) h

theorem readArg_canon {ten : BitVec 8} {va n : Nat} (h : s.CanonOn D) : (s.readArg ten va n).2.CanonOn D := by
  unfold State.readArg
  dsimp -zeta only
  split
  · exact mk_canon (canon_of ‹_› (translateBytes_canon h))
  · split
    · exact mk_canon (readAs_canon (canon_of ‹_› (translateBytes_canon h)))
    · exact mk_canon (readAs_canon (canon_of ‹_› (translateBytes_canon h)))

theorem judgeLaunch_canon {p : Packet} (h : s.CanonOn D) : (s.judgeLaunch p).2.CanonOn D := by
  unfold State.judgeLaunch
  split
  · exact canon_of ‹_› (readArg_canon h)
  have h1 := canon_of ‹_› (readArg_canon h)
  split
  have h2 := canon_of ‹_› (readArg_canon h1)
  split
  have h3 := canon_of ‹_› (ite_canon₂ (mk_canon h2) (readArg_canon h2))
  split
  · exact h3
  · exact h3
  · exact h3
  extract_lets
  exact ite_canon₂ h3 (ite_canon₂ h3 (ite_canon₂ h3 h3))

theorem execLaunchAtHead_canon {n : Fin 256} (h : s.CanonOn D) : OutCanon D (execLaunchAtHead n s) := by
  unfold execLaunchAtHead
  split
  · exact next_canon h
  refine ite_out (next_canon h) ?_
  extract_lets ends
  have he : ∀ (t : State) (st va : Nat), t.CanonOn D → (ends t st va).CanonOn D := fun _ _ _ ht =>
    completePacket_canon (countsAsDispatch_canon (popHead_canon ht))
  split
  · exact next_canon (he _ _ _ (canon_of ‹_› (judgeLaunch_canon h)))
  have h1 := canon_of ‹_› (judgeLaunch_canon h)
  exact ite_out (next_canon (he _ _ _ h1)) (next_canon (modQueue_canon h1))

theorem execSerialWaitEnd_canon {n : Fin 256} (h : s.CanonOn D) : OutCanon D (execSerialWaitEnd n s) := by
  unfold execSerialWaitEnd
  split
  · exact next_canon h
  · exact ite_out (next_canon (modQueue_canon h)) (next_canon h)

theorem execCopyBegin_canon {n : Fin 256} (h : s.CanonOn D) : OutCanon D (execCopyBegin n s) := by
  unfold execCopyBegin
  split
  · exact next_canon h
  refine ite_out (next_canon h) ?_
  extract_lets t
  have h1 : t.CanonOn D := popHead_canon h
  split
  · exact next_canon (completePacket_canon (canon_of ‹_› (readArg_canon h1)))
  have h2 := canon_of ‹_› (readArg_canon h1)
  exact ite_out (next_canon (completePacket_canon h2)) (next_canon (upd_canon h2))

theorem copyUnits_canon :
    ∀ {s : State} {ten : BitVec 8} {need : Need} {n m l : Nat}, s.CanonOn D → (s.copyUnits ten need n m l).2.2.CanonOn D
  | _, _, _, 0, _, _, h => h
  | _, _, _, _ + 1, _, _, h => by
    unfold State.copyUnits
    dsimp -zeta only
    extract_lets
    refine ite_canon₃ h (mk_canon₃ (copyUnits_canon ?_))
    split
    · exact mk_canon (canon_of ‹_› (translateBytes_canon h))
    · exact mk_canon (canon_of ‹_› (translateBytes_canon h))

theorem somePieces_canon {xs : List Nat} (h : s.CanonOn D) : (s.somePieces xs).2.CanonOn D := by
  unfold State.somePieces
  dsimp -zeta only
  split
  · exact h
  · exact foldl_snd_canon (fun _ _ h1 => mk_canon (freeBit_canon h1)) h

theorem someWrites_canon {ws : List (Nat × Byte)} (h : s.CanonOn D) : (s.someWrites ws).2.CanonOn D := by
  induction ws generalizing s with
  | nil => exact h
  | cons w ws ih => exact ih (freeBit_canon h)

theorem setCopy_canon {j : CopyJob} (h : s.CanonOn D) : (s.setCopy j).CanonOn D :=
  upd_canon h

theorem planCopy_canon {j : CopyJob} (h : s.CanonOn D) : (s.planCopy j).CanonOn D := by
  unfold State.planCopy
  dsimp -zeta only
  exact setCopy_canon (copyUnits_canon (copyUnits_canon h))

theorem readCopy_canon {j : CopyJob} {todo : List (Nat × Nat × Nat)} (h : s.CanonOn D) : (s.readCopy j todo).CanonOn D :=
  setCopy_canon (readAs_canon (somePieces_canon h))

theorem endCopy_canon {j : CopyJob} {e : Nat × Nat} (h : s.CanonOn D) : (s.endCopy j e).CanonOn D :=
  completePacket_canon (upd_canon h)

theorem writeCopy_canon {j : CopyJob} (h : s.CanonOn D) : (s.writeCopy j).CanonOn D := by
  unfold State.writeCopy
  dsimp -zeta only
  extract_lets _ s1
  have h1 : s1.CanonOn D := writePas_canon (somePieces_canon h)
  exact ite_canon (endCopy_canon h1) (setCopy_canon h1)

theorem execCopyComplete_canon {id : Nat} (h : s.CanonOn D) : OutCanon D (execCopyComplete id s) := by
  unfold execCopyComplete
  dsimp -zeta only
  split
  · exact next_canon h
  · split
    · exact next_canon (planCopy_canon h)
    · exact next_canon (readCopy_canon h)
    · exact ite_out (next_canon (ite_canon (endCopy_canon h) (writeCopy_canon h)))
        (next_canon (endCopy_canon (writePas_canon (freeNat_canon (someWrites_canon h)))))

theorem execMarkComplete_canon {n : Fin 256} (h : s.CanonOn D) : OutCanon D (execMarkComplete n s) := by
  unfold execMarkComplete
  split
  · exact next_canon h
  · exact ite_out (next_canon (completePacket_canon (popHead_canon h))) (next_canon h)

theorem execDispatchDecision_canon (h : s.CanonOn D) : OutCanon D (execDispatchDecision s) := by
  unfold execDispatchDecision
  refine ite_out (next_canon h) ?_
  split
  · exact next_canon h
  · split
    · extract_lets _ _ _ _ s1
      have h1 : s1.CanonOn D := countsAsDispatch_canon (popHead_canon h)
      exact ite_out (next_canon (setFe_canon h)) (next_canon (upd_canon h1))
    · exact next_canon h

theorem execTupleHandout_canon {launch : Nat} (h : s.CanonOn D) : OutCanon D (execTupleHandout launch s) := by
  unfold execTupleHandout
  split
  · exact next_canon h
  · split
    · exact ite_out (next_canon (modLaunch_canon h)) (next_canon h)
    · extract_lets s1
      have h1 : s1.CanonOn D := modCore_canon h
      exact ite_out (next_canon h) (next_canon (modLaunch_canon h1))

theorem loadHandles_canon {c : CoreId} {l : Launch} (h : s.CanonOn D) : (s.loadHandles c l).2.CanonOn D := by
  unfold State.loadHandles
  dsimp -zeta only
  extract_lets
  split
  · exact mk_canon (canon_of ‹_› (translateBytes_canon h))
  · extract_lets s1
    have h1 : s1.CanonOn D := modCore_canon (coreRead_canon (canon_of ‹_› (translateBytes_canon h)))
    split
    · exact h1
    · exact mk_canon (modCore_canon h1)

theorem execIterationStart_canon {c : CoreId} (h : s.CanonOn D) : OutCanon D (execIterationStart c s) := by
  unfold execIterationStart
  split
  · refine ite_out (next_canon h) ?_
    extract_lets other s1 s2
    have h1 : s1.CanonOn D := ite_canon (unlockAll_canon h) h
    have h2 : s2.CanonOn D := foldl_canon (fun _ _ ht => ite_canon (emptyTape_canon ht) ht) h1
    split
    have h3 := canon_of ‹_› (ite_canon₂ (loadHandles_canon h2) (mk_canon h2))
    extract_lets s3
    have h4 : s3.CanonOn D := modCore_canon h3
    split
    · exact next_canon h4
    · exact next_canon (endIteration_canon h4)
  · exact next_canon h

theorem finishAccesses_canon {c : CoreId} (h : s.CanonOn D) : (s.finishAccesses c).CanonOn D :=
  foldl_canon (fun _ _ h1 => performPend_canon h1) (flushCore_canon h)

theorem execIterationFinish_canon {c : CoreId} (h : s.CanonOn D) : OutCanon D (execIterationFinish c s) := by
  unfold execIterationFinish
  extract_lets _ s1 s2
  have h1 : s1.CanonOn D := finishAccesses_canon h
  have h2 : s2.CanonOn D := modCore_canon h1 (fun _ => by simp)
  split
  · exact next_canon h
  · extract_lets s3
    have h3 : s3.CanonOn D := modLaunch_canon h2
    exact ite_out (next_canon h) (ite_out (next_canon h1) (next_canon (settleLaunch_canon h3)))

theorem execPreemptRequest_canon {launch : Nat} {c : CoreId} (h : s.CanonOn D) : OutCanon D (execPreemptRequest launch c s) := by
  unfold execPreemptRequest
  split
  · exact next_canon h
  · exact ite_out (next_canon (modCore_canon h)) (next_canon h)

/-! ### Loads, stores, atomics and fences (LoadStore) -/

theorem loadAccess_canon {cx : Cx} {acq : Bool} {ea sx : Nat} {bytes : List (Nat × Nat)} (h : s.CanonOn D) :
    (s.loadAccess cx acq ea sx bytes).CanonOn D :=
  access_canon (awaiting_canon h)

theorem storeAccess_canon {cx : Cx} {rel : Bool} {ea : Nat} {bytes : List (Nat × Nat)} {data : List Byte} (h : s.CanonOn D) :
    (s.storeAccess cx rel ea bytes data).CanonOn D :=
  access_canon h

theorem loadScalar_canon {i : Instr} {x : Ctl} {sgn acq : Bool} {d a : Reg} {z : Sz} {o : BitVec 3} (h : s.CanonOn D) :
    OutCanon D (loadScalar i x sgn acq d a z o s) := by
  unfold loadScalar
  dsimp only
  refine issue_canon (fun _ _ h1 h2 => ite_act trap_canon ?_) h
  split
  · exact fault_canon (canon_of ‹_› (translateBytes_canon h2))
  · split
    · exact ite_act (stall_canon h1) (done_canon (armPubs_canon (fly_canon (freeNat_canon (canon_of ‹_› (translateBytes_canon h2))))))
    · exact done_canon (loadAccess_canon (fly_canon (freeNat_canon (canon_of ‹_› (translateBytes_canon h2)))))

theorem storeScalar_canon {i : Instr} {x : Ctl} {rel : Bool} {d a : Reg} {z : Sz} {o : BitVec 3} (h : s.CanonOn D) :
    OutCanon D (storeScalar i x rel d a z o s) := by
  unfold storeScalar
  refine issue_canon (fun _ _ h1 h2 => ?_) h
  extract_lets
  refine ite_act trap_canon ?_
  split
  · exact fault_canon (canon_of ‹_› (translateBytes_canon h2))
  · split
    · exact ite_act (stall_canon h1) (done_canon (feStore_canon (armPubs_canon (canon_of ‹_› (translateBytes_canon h2)))))
    · exact done_canon (storeAccess_canon (canon_of ‹_› (translateBytes_canon h2)))

theorem translateRow_canon {a : Actor} {c : CoreId} {ten : BitVec 8} {need : Need} {ea : Nat} {is : List (List Nat)} (h : s.CanonOn D) :
    (s.translateRow a c ten need ea is).2.CanonOn D := by
  induction is generalizing s with
  | nil => exact h
  | cons i is ih =>
    cases i with
    | nil => exact ih h
    | cons i js =>
      unfold State.translateRow
      extract_lets
      split
      · exact canon_of ‹_› (translateBytes_canon h)
      · have h1 := canon_of ‹_› (translateBytes_canon h)
        split
        · exact canon_of ‹_› (ih h1)
        · exact canon_of ‹_› (ih h1)

theorem loadRow_canon {i : Instr} {x : Ctl} {acq : Bool} {v : VReg} {a : Reg} {o : BitVec 3} (h : s.CanonOn D) :
    OutCanon D (loadRow i x acq v a o s) := by
  unfold loadRow
  dsimp -zeta only
  refine issue_canon (fun _ _ _ h2 => ?_) h
  extract_lets
  refine ite_act trap_canon ?_
  split
  · exact fault_canon (canon_of ‹_› (translateRow_canon h2))
  · extract_lets s1
    have h3 : s1.CanonOn D := fly_canon (freeNat_canon (canon_of ‹_› (translateRow_canon h2)))
    exact done_canon (loadAccess_canon h3)

theorem storeRow_canon {i : Instr} {x : Ctl} {rel : Bool} {v : VReg} {a : Reg} {o : BitVec 3} (h : s.CanonOn D) :
    OutCanon D (storeRow i x rel v a o s) := by
  unfold storeRow
  refine issue_canon (fun _ _ _ h2 => ?_) h
  extract_lets
  refine ite_act trap_canon ?_
  split
  · exact fault_canon (canon_of ‹_› (translateRow_canon h2))
  · exact done_canon (storeAccess_canon (noteRows_canon (canon_of ‹_› (translateRow_canon h2))))

theorem combineAmo_canon {cx : Cx} {op sz pa x : Nat} (h : s.CanonOn D) : (s.combineAmo cx op sz pa x).CanonOn D := by
  unfold State.combineAmo
  extract_lets _ _ _ _ _ s1 _ _ s2 s3
  have h1 : s1.CanonOn D := modCore_canon h
  have h2 : s2.CanonOn D := flushWhere_canon h1
  have h3 : s3.CanonOn D := by
    dsimp only [s3]
    split
    · exact h2
    · exact ite_canon (flushEntry_canon h2) h2
  exact ite_canon (upd_canon h1) (upd_canon h3)

theorem flyAtomic_canon {cx : Cx} {notBefore : Nat} {d : Reg} (h : s.CanonOn D) : (s.flyAtomic cx notBefore d).CanonOn D :=
  fly_canon h

theorem atomicAt_canon {cx : Cx} {d : Reg} {ar : Bool} {op sz ea pa x y : Nat} (h : s.CanonOn D) :
    (atomicAt cx d ar op sz ea pa x y s).CanonOn D :=
  done_canon (access_canon (awaiting_canon (flyAtomic_canon (freeNat_canon h))))

theorem amo_canon {i : Instr} {x : Ctl} {op : Nat} {d a : Reg} {r : Bool} {z : Sz} (h : s.CanonOn D) :
    OutCanon D (amo i x op d a r z s) := by
  unfold amo
  refine issue_canon (fun _ _ _ h1 => ?_) h
  extract_lets
  refine ite_act trap_canon ?_
  split
  · exact fault_canon (canon_of ‹_› (translateBytes_canon h1))
  have h2 := canon_of ‹_› (translateBytes_canon h1)
  exact ite_act (done_canon (flyAtomic_canon (combineAmo_canon (armPubs_canon h2)))) (atomicAt_canon h2)

theorem planeStore_canon {i : Instr} {x : Ctl} {op : Nat} {d a : Reg} (h : s.CanonOn D) : OutCanon D (planeStore i x op d a s) := by
  unfold planeStore
  refine issue_canon (fun _ _ _ h2 => ?_) h
  extract_lets
  split
  · exact fault_canon (canon_of ‹_› (translateBytes_canon h2))
  · exact atomicAt_canon (canon_of ‹_› (translateBytes_canon h2))

theorem fenceWait_canon {cx : Cx} {cas : List PathClass} (h : s.CanonOn D) : (s.fenceWait cx cas).2.CanonOn D :=
  modSeq_canon (ite_canon (settle_canon (flushCore_canon h)) h)

theorem execFence_canon {sc : Scope} {x : Ctl} (h : s.CanonOn D) : OutCanon D (execFence sc x s) := by
  unfold execFence
  dsimp -zeta only
  refine issue_canon (fun _ _ _ h2 => ?_) h
  extract_lets s1
  have h3 : s1.CanonOn D := modSeq_canon (fenceWait_canon h2)
  exact done_canon (foldl_canon (fun _ _ h4 => foldl_canon (fun _ _ h5 => fenceEdge_canon h5) h4) h3)

theorem execPubl_canon {sc : Scope} {x : Ctl} (h : s.CanonOn D) : OutCanon D (execPubl sc x s) := by
  unfold execPubl
  refine issue_canon (fun _ _ _ h2 => ?_) h
  extract_lets _ _ _ _ s1
  have h3 : s1.CanonOn D := modCore_canon h2
  exact done_canon (upd_canon h3)

theorem cacheOp_canon {i : Instr} {x : Ctl} {a : Reg} (h : s.CanonOn D) : OutCanon D (cacheOp i x a s) := by
  unfold cacheOp
  refine issue_canon (fun _ _ _ h2 => ?_) h
  extract_lets
  split
  · exact fault_canon (canon_of ‹_› (translateBytes_canon h2))
  · exact done_canon (writeBack_canon (armPubs_canon (flushLines_canon (canon_of ‹_› (translateBytes_canon h2)))))

theorem execNtld_canon {d a b : Reg} {x : Ctl} (h : s.CanonOn D) : OutCanon D (execNtld d a b x s) := by
  unfold execNtld
  dsimp -zeta only
  refine issue_canon (fun _ _ h1 h2 => ?_) h
  extract_lets
  refine ite_act trap_canon ?_
  split
  · exact fault_canon (canon_of ‹_› (translateBytes_canon (freeNat_canon h2)))
  · extract_lets s1 s2 _ s3
    have h3 : s1.CanonOn D := armPubs_canon (canon_of ‹_› (translateBytes_canon (freeNat_canon h2)))
    have h4 : s2.CanonOn D := by
      dsimp only [s2]
      split
      · exact modCore_canon (coreRead_canon h3) (fun _ => by simp)
      · exact coreRead_canon h3
    have h5 : s3.CanonOn D := modCore_canon h4
    exact ite_act (done_canon (fly_canon (canon_of ‹_› (translateBytes_canon (freeNat_canon h2)))))
      (ite_act (stall_canon h1) (done_canon (fly_canon h5)))

theorem segments_canon {i : Instr} {x : Ctl} {a : Reg} {f : State → CoreId → Nat → State}
    (hf : ∀ (t : State) (c : CoreId) (n : Nat), t.CanonOn D → (f t c n).CanonOn D) (h : s.CanonOn D) : OutCanon D (segments i x a f s) :=
  issue_canon (fun _ _ _ h1 => ite_act trap_canon (done_canon (foldl_canon (fun _ _ h3 => hf _ _ _ h3) h1))) h

/-! ### Matrix instructions (Matrix) -/

theorem rampGate_canon {cx : Cx} {k : State → Act} (h : cx.s0.CanonOn D) (h1 : s.CanonOn D)
    (hf : ∀ t : State, t.CanonOn D → (k t).CanonOn D) : (rampGate cx s k).CanonOn D := by
  unfold rampGate
  extract_lets
  split
  · exact hf _ h1
  · exact stall_canon (modCore_canon h)
  · exact stall_canon h

theorem flyTile_canon {cx : Cx} {o : Nat} {warm : Bool} {rs : List Result} (h : s.CanonOn D) : (s.flyTile cx o warm rs).CanonOn D :=
  modCore_canon (fly_canon (freeNat_canon h))

theorem noteSpad_canon {c : CoreId} {bad : Option Nat} (h : s.CanonOn D) : (s.noteSpad c bad).CanonOn D :=
  elim_canon h (fun _ => modCore_canon h (fun _ => by simp))

/-- What reading operands gathers carries a state along, as the second component of a pair. -/
theorem gather_of {α : Type} {v : α × Gather} {a : α} {g : Gather} (e : v = (a, g)) (h : v.2.s.CanonOn D) : g.s.CanonOn D := by
  subst e; exact h

theorem gatherRun_canon {g : Gather} {c : CoreId} {a : Actor} {r : Nat × Nat} (h : g.s.CanonOn D) : (g.run c a r).2.s.CanonOn D :=
  spadLoad_canon h

theorem gatherRuns_canon {g : Gather} {c : CoreId} {a : Actor} {rs : List (Nat × Nat)} (h : g.s.CanonOn D) :
    (g.runs c a rs).2.s.CanonOn D := by
  induction rs generalizing g with
  | nil => exact h
  | cons r rs ih => exact ih (gatherRun_canon h)

theorem gatherVec_canon {g : Gather} {c : CoreId} {a : Actor} {x : Handle} {flush live : Bool} {i j n : Nat} (h : g.s.CanonOn D) :
    (g.vec c a x flush live i j n).2.s.CanonOn D := by
  unfold Gather.vec
  split
  · exact h
  split
  · exact h
  split
  have h1 := gather_of ‹_› (gatherRuns_canon h)
  split
  · exact h1
  · exact h1

theorem gatherRows_canon {g : Gather} {c : CoreId} {a : Actor} {x : Handle} {flush : Bool} {live : Nat → Nat → Bool}
    {io j segs n cnt : Nat} (h : g.s.CanonOn D) : (g.rows c a x flush live io j segs n cnt).2.s.CanonOn D := by
  induction cnt with
  | zero => exact h
  | succ cnt ih =>
    exact foldl_keeps (fun v : List MatVec × Gather => v.2.s.CanonOn D) _ (fun _ _ hv => gatherVec_canon hv) (List.range segs) _ ih

theorem execMma_canon {a b : Reg} {x : Ctl} (h : s.CanonOn D) : OutCanon D (execMma a b x s) := by
  unfold execMma
  refine issue_canon (fun cx t h0 h1 => rampGate_canon h0 h1 fun t h1 => ?_) h
  extract_lets
  split
  · exact trap_canon
  refine ite_act trap_canon (ite_act trap_canon (ite_act trap_canon ?_))
  split
  have h2 := gather_of ‹_› (gatherRows_canon h1)
  split
  have h3 := gather_of ‹_› (gatherRows_canon h2)
  exact done_canon (flyTile_canon (noteRows_canon (noteSpad_canon h3)))

theorem execMmas_canon {d a b : Reg} {x : Ctl} (h : s.CanonOn D) : OutCanon D (execMmas d a b x s) := by
  unfold execMmas
  refine issue_canon (fun cx t h0 h1 => rampGate_canon h0 h1 fun t h1 => ?_) h
  extract_lets
  split
  · exact trap_canon
  refine ite_act trap_canon (ite_act trap_canon ?_)
  split
  have h2 := gather_of ‹_› (gatherRun_canon h1)
  extract_lets
  refine ite_act trap_canon (ite_act trap_canon (ite_act trap_canon ?_))
  split
  have h3 := gather_of ‹_› (gatherRuns_canon h2)
  split
  have h4 := gather_of ‹_› (gatherRows_canon h3)
  split
  have h5 := gather_of ‹_› (gatherRows_canon h4)
  exact done_canon (flyTile_canon (noteRows_canon (noteSpad_canon h5)))

theorem gangTell_canon {c : CoreId} {g : GangGo} (h : s.CanonOn D) : (s.gangTell c g).CanonOn D :=
  modCore_canon h

theorem execGangRendezvous_canon {c : CoreId} (h : s.CanonOn D) : OutCanon D (execGangRendezvous c s) := by
  unfold execGangRendezvous
  dsimp -zeta only
  split
  · exact next_canon h
  · exact ite_out (next_canon h) (next_canon (foldl_canon (fun _ _ h1 => gangTell_canon h1) h))

theorem execGangtimeExpiry_canon {c : CoreId} (h : s.CanonOn D) : OutCanon D (execGangtimeExpiry c s) := by
  unfold execGangtimeExpiry
  split
  · exact next_canon h
  · exact ite_out (next_canon (foldl_canon (fun _ _ h1 => gangTell_canon h1) (gangTell_canon h))) (next_canon h)

theorem execMgang_canon {d a b : Reg} {x : Ctl} (h : s.CanonOn D) : OutCanon D (execMgang d a b x s) := by
  unfold execMgang
  refine issue_canon (fun cx t h0 h1 => rampGate_canon h0 h1 fun t h1 => ?_) h
  extract_lets
  split
  · exact stall_canon (modCore_canon h0)
  split
  · exact stall_canon h0
  · exact trap_canon
  · exact trap_canon
  · exact trap_canon
  split
  extract_lets
  split
  · exact trap_canon
  split
  have h2 := gather_of ‹_› (gatherRows_canon h1)
  split
  have h3 := gather_of ‹_› (gatherRows_canon h2)
  exact done_canon (modCore_canon (flyTile_canon (noteRows_canon (noteSpad_canon h3))))

theorem translateRuns_canon :
    ∀ {s : State} {a : Actor} {c : CoreId} {need : Need} {xs : List (Nat × Nat)}, s.CanonOn D → (s.translateRuns a c need xs).2.CanonOn D
  | _, _, _, _, [], h => h
  | _, _, _, _, (_, _) :: _, h => by
    unfold State.translateRuns
    split
    · exact mk_canon (canon_of ‹_› (translateBytes_canon h))
    · split
      · exact mk_canon (canon_of ‹_› (translateRuns_canon (canon_of ‹_› (translateBytes_canon h))))
      · exact mk_canon (canon_of ‹_› (translateRuns_canon (canon_of ‹_› (translateBytes_canon h))))

theorem openWrite_canon {cx : Cx} {drain : Bool} {fl : BitVec 6} (h : s.CanonOn D) : (s.openWrite cx drain fl).CanonOn D :=
  modCore_canon h

theorem execMdrain_canon {d a b : Reg} {x : Ctl} (h : s.CanonOn D) : OutCanon D (execMdrain d a b x s) := by
  unfold execMdrain
  dsimp -zeta only
  refine issue_canon (fun _ _ _ h2 => ?_) h
  extract_lets _ _ _ _ _ _ _ _ _ _ _ _ _ _ _ _ _ _ _ s1
  have h3 : s1.CanonOn D := noteRows_canon (ite_canon₂ (mk_canon (ite_canon₂ (translateRuns_canon h2) h2))
    (translateBytes_canon (ite_canon₂ (translateRuns_canon h2) h2)))
  refine ite_act trap_canon (ite_act trap_canon ?_)
  split
  · exact fault_canon (ite_canon₂ (translateRuns_canon h2) h2)
  · split
    · exact fault_canon (ite_canon₂ (mk_canon (ite_canon₂ (translateRuns_canon h2) h2))
        (translateBytes_canon (ite_canon₂ (translateRuns_canon h2) h2)))
    · extract_lets s2 s3 s4
      have h4 : s2.CanonOn D := ite_canon (writePas_canon h3) (foldl_canon (fun _ _ h4 => spadStore_canon h4) h3)
      have h5 : s3.CanonOn D := openWrite_canon h4
      have h6 : s4.CanonOn D := elim_canon h5 (fun _ => upd_canon h5)
      exact done_canon (modCore_canon h6)

theorem execMsave_canon {a b : Reg} {x : Ctl} (h : s.CanonOn D) : OutCanon D (execMsave a b x s) := by
  unfold execMsave
  dsimp only
  refine issue_canon (fun _ _ _ h2 => ite_act trap_canon
    (ite_act (ite_act trap_canon (done_canon (modCore_canon (openWrite_canon (noteRows_canon (spadStore_canon h2)))))) ?_)) h
  split
  · exact fault_canon (canon_of ‹_› (translateBytes_canon h2))
  · exact done_canon (modCore_canon (openWrite_canon (noteRows_canon (writePas_canon (canon_of ‹_› (translateBytes_canon h2))))))

theorem execMload_canon {a b : Reg} {x : Ctl} (h : s.CanonOn D) : OutCanon D (execMload a b x s) := by
  unfold execMload
  refine issue_canon (fun _ _ _ h1 => ?_) h
  extract_lets
  refine ite_act trap_canon (ite_act (ite_act trap_canon ?_) ?_)
  · split
    have h2 := canon_of₃ ‹_› (spadLoad_canon h1)
    exact done_canon (flyTile_canon (noteSpad_canon h2))
  extract_lets
  split
  · exact fault_canon (canon_of ‹_› (translateBytes_canon h1))
  have h2 := canon_of ‹_› (translateBytes_canon h1)
  split
  have h3 := canon_of ‹_› (readAs_canon h2)
  extract_lets t u
  have h4 : t.CanonOn D := elim_canon h3 fun _ => modCore_canon h3 fun _ => derrRecord_spad _ _ _
  have h5 : u.CanonOn D := modCore_canon h4
  exact done_canon (flyTile_canon h5)

theorem execRampGrant_canon {c : CoreId} (h : s.CanonOn D) : OutCanon D (execRampGrant c s) := by
  unfold execRampGrant
  extract_lets _ _ s1
  have h1 : s1.CanonOn D := modCore_canon h
  exact ite_out (next_canon (upd_canon h1)) (next_canon h)

theorem execRampEnd_canon {c : CoreId} (h : s.CanonOn D) : OutCanon D (execRampEnd c s) := by
  unfold execRampEnd
  split
  · exact ite_out (next_canon (modCore_canon h)) (next_canon h)
  · exact next_canon h

theorem execMatrixEngineCold_canon {c : CoreId} (h : s.CanonOn D) : OutCanon D (execMatrixEngineCold c s) := by
  unfold execMatrixEngineCold
  split
  · exact ite_out (next_canon (modCore_canon h)) (next_canon h)
  · exact next_canon h

theorem execBankAluOp_canon {id : Nat} (h : s.CanonOn D) : OutCanon D (execBankAluOp id s) := by
  unfold execBankAluOp
  split
  · exact next_canon h
  · exact next_canon (performPend_canon h)

theorem execLastWritePerformed_canon {c : CoreId} {id : Nat} (h : s.CanonOn D) : OutCanon D (execLastWritePerformed c id s) := by
  unfold execLastWritePerformed
  split
  · exact next_canon h
  · exact ite_out (next_canon h) (next_canon (modCore_canon h (fun _ => by split <;> simp)))

/-! ### Resets, power and the management endpoint (Platform) -/

theorem execHostSnoop_canon {pa : Nat} {data : HostData} (h : s.CanonOn D) : OutCanon D (execHostSnoop pa data s) := by
  unfold execHostSnoop
  dsimp -zeta only
  extract_lets _ s1
  have h1 : s1.CanonOn D := writePas_canon (emit_canon (readAs_canon h))
  exact ite_out (next_canon (writeBack_canon (ite_canon (poisonPas_canon h1) h1))) (next_canon h)

theorem setTemp_canon {d : Fin 4} {t : Nat} (h : s.CanonOn D) : (s.setTemp d t).CanonOn D :=
  setFe_canon h

theorem bringUp_canon {hostwin : BitVec 32} {ten : BitVec 64} {load : List (Nat × BitVec 8)} (h : s.CanonOn D) :
    (s.bringUp hostwin ten load).CanonOn D := by
  unfold State.bringUp
  extract_lets s1 s2 _ s3 s4 _ s5 s6
  have h1 : s1.CanonOn D := ite_canon (setFe_canon h) h
  have h2 : s2.CanonOn D := tuneMoorings_canon h1
  clear_value s2
  have h3 : s3.CanonOn D := upd_canon h2
  have h4 : s4.CanonOn D := putPas_canon h3
  clear_value s4
  have h5 : s5.CanonOn D := upd_canon h4
  have h6 : s6.CanonOn D := writeTencfg_canon h5
  exact ite_canon (setFe_canon h6) h6

theorem loseSector_canon {sec : Nat} (h : s.CanonOn D) : (s.loseSector sec).CanonOn D := by
  unfold State.loseSector
  extract_lets
  split
  have h1 := canon_of ‹_› (freeNat_canon h)
  extract_lets
  refine ite_canon h1 ?_
  split
  · exact h1
  split
  have h2 := canon_of ‹_› (freeBit_canon h1)
  exact setMark_canon (setMem_canon h2 (cellsFold_wf _ _ _ _ h2.1))

theorem loseDirty_canon (h : s.CanonOn D) : s.loseDirty.CanonOn D :=
  foldl_canon (fun _ _ h1 => loseSector_canon h1) h

theorem startLoading_canon {hostwin : BitVec 32} {ten : BitVec 64} {load : List (Nat × BitVec 8)} (h : s.CanonOn D) :
    (s.startLoading hostwin ten load).CanonOn D :=
  ite_canon (upd_canon h) (upd_canon h)

theorem afterReset_canon : s.afterReset.CanonOn D := upd_canon (reset_canon (D := D))

theorem outsideCells_wf {cs : List Host.Cell} (h : cellsWf cs = true) : cellsWf (outsideCells cs) = true := cellsWfFrom_filter _ h

theorem coldReset_canon {hostwin : BitVec 32} {ten : BitVec 64} {load : List (Nat × BitVec 8)} (h : s.CanonOn D) :
    (s.coldReset hostwin ten load).CanonOn D := by
  unfold State.coldReset
  extract_lets t
  have h1 : t.CanonOn D := loseDirty_canon h
  exact startLoading_canon (setMem_canon (afterReset_canon (s := t)) (outsideCells_wf h1.1))

theorem warmReset_canon {hostwin : BitVec 32} {ten : BitVec 64} {load : List (Nat × BitVec 8)} (h : s.CanonOn D) :
    (s.warmReset hostwin ten load).CanonOn D := by
  unfold State.warmReset
  extract_lets t
  have h1 : t.CanonOn D := loseDirty_canon h
  exact startLoading_canon (setMem_canon (afterReset_canon (s := t)) h1.1)

theorem execFabricError_canon (h : s.CanonOn D) : OutCanon D (execFabricError s) := by
  unfold execFabricError
  extract_lets s1 s2
  have h1 : s1.CanonOn D := setFe_canon h
  have h2 : s2.CanonOn D := upd_canon h1
  exact ite_out (next_canon (foldl_canon (fun _ _ h3 => settleLaunch_canon h3) h2)) (next_canon h)

theorem finishLoading_canon (h : s.CanonOn D) : s.finishLoading.CanonOn D := by
  unfold State.finishLoading
  refine ite_canon h ?_
  split
  · exact bringUp_canon h
  · exact ite_canon (setFe_canon (upd_canon h)) h
  · exact h

theorem inSession_canon {f : State → State} (h : s.CanonOn D) (hf : ∀ t : State, t.CanonOn D → (f t).CanonOn D) :
    OutCanon D (s.inSession f) :=
  next_canon (ite_canon (hf _ h) (emit_canon h))

theorem execRegwr_canon {off : Nat} {v : BitVec 64} (h : s.CanonOn D) : OutCanon D (execRegwr off v s) := by
  unfold execRegwr
  refine inSession_canon h (fun _ h1 => ?_)
  extract_lets s1 _ s2
  have h2 : s1.CanonOn D := regWrite_canon (setFe_canon h1)
  have h3 : s2.CanonOn D := ite_canon (setFe_canon h2) h2
  exact emit_canon h3

theorem execKeyset_canon {n : Nat} {key : BitVec 256} (h : s.CanonOn D) : OutCanon D (execKeyset n key s) := by
  unfold execKeyset
  exact inSession_canon h (fun _ h1 => ite_canon (emit_canon h1) (ite_canon (emit_canon h1) (emit_canon (upd_canon h1))))

/-! ### System registers (Sysreg) -/

theorem execMfs_canon {d : Reg} {r : BitVec 12} {x : Ctl} (h : s.CanonOn D) : OutCanon D (execMfs d r x s) := by
  unfold execMfs
  extract_lets
  refine issue_canon (fun _ _ _ h2 => ?_) h
  extract_lets s1
  have h3 : s1.CanonOn D := modCore_canon h2 (fun _ => by dsimp only; (repeat' split) <;> simp)
  exact land_canon h3

theorem execMts_canon {d : Reg} {r : BitVec 12} {x : Ctl} (h : s.CanonOn D) : OutCanon D (execMts d r x s) := by
  unfold execMts
  extract_lets
  refine issue_canon (fun _ _ _ h2 => ?_) h
  exact ite_act (done_canon (modSeq_canon h2)) (ite_act (done_canon (modCore_canon h2))
    (ite_act (ite_act trap_canon (done_canon (modCore_canon h2)))
    (ite_act (ite_act trap_canon (done_canon (modCore_canon h2)))
    (ite_act trap_canon (ite_act (done_canon (modCore_canon h2)) (done_canon (modCore_canon h2)))))))

/-! ### Tape replay (Replay) -/

theorem replayCommand_canon {i : Instr} (h : s.CanonOn D) : OutCanon D (replayCommand i s) := by
  unfold replayCommand
  split
  · exact execMts_canon h
  iterate 17 exact laneWise_canon h -- vadd to vfshr
  iterate 2 exact vecIssue_canon h -- vsel, vperm
  · exact laneWise_canon h -- vabsd
  · exact vecIssue_canon h -- vcmp
  iterate 7 exact laneWise_canon h -- vneg to vbrev
  iterate 11 exact specialOp_canon h -- vsqrt to vcos
  · exact execVcvt_canon h
  · exact execVcvtef_canon h
  iterate 11 exact reduceOp_canon h -- vrsum to vscanmax
  iterate 7 exact vecIssue_canon h -- vcmpr to vosm
  · exact execVlse_canon h
  · exact vecIssue_canon h -- vconf
  iterate 5 exact maskOp_canon h -- mand to mnot
  · exact vecIssue_canon h -- msetl
  · exact execVld_canon h
  · exact issue_canon (fun _ _ _ h1 => ite_act trap_canon (done_canon (spadRow_canon (noteRows_canon h1)))) h -- vst
  · exact execVstu_canon h
  · exact execMma_canon h
  · exact execMmas_canon h
  · exact execMgang_canon h
  · exact issue_canon (fun _ _ h1 h2 => rampGate_canon h1 h2 (fun _ h3 => done_canon (flyTile_canon h3))) h -- mzero
  · exact execMdrain_canon h
  · exact issue_canon (fun _ _ _ h1 => ite_act trap_canon (done_canon (modCore_canon h1))) h -- mcfg
  · exact execMsave_canon h
  · exact execMload_canon h
  iterate 2 exact loadRow_canon h -- vldg, vldgAcq
  iterate 2 exact storeRow_canon h -- vstg, vstgRel
  · exact execFence_canon h
  · exact issue_canon (fun _ _ _ h1 => done_canon (fenceEdge_canon (fenceWait_canon h1))) h -- fencex
  · exact execPubl_canon h
  iterate 4 exact copyCmd_canon h -- cpy to scat
  iterate 2 exact issue_canon (fun _ _ _ h1 => waitTags_canon h1) h -- wtany, wtall
  · exact issue_canon (fun _ _ _ h1 => done_canon (modCore_canon h1)) h -- tagclr
  iterate 10 exact blockCmd_canon h -- pxhash to bfill
  · exact issue_canon (fun _ _ _ h1 => ite_act trap_canon (done_canon (modSeq_canon h1))) h -- bfwait
  iterate 3 exact blockCmd_canon h -- plan to pxrepl
  iterate 2 exact kvCmd_canon h -- kvld, kvst
  iterate 3 exact remoteCmd_canon h -- rld to ramo
  · exact next_canon (raise_canon h)

theorem replayMarker_canon {x : Ctl} (h : s.CanonOn D) : OutCanon D (replayMarker x s) :=
  issue_canon (fun _ _ _ h1 => done_canon h1) h

theorem execReplayEntryIssue_canon {c : CoreId} {q : Sq} (h : s.CanonOn D) : OutCanon D (execReplayEntryIssue c q s) := by
  unfold execReplayEntryIssue
  extract_lets
  split
  · exact next_canon h
  refine ite_out (next_canon h) ?_
  split
  · split
    have h1 := canon_of ‹_› (freeNat_canon h)
    exact next_canon (replayFaultOf_canon (foundOnDie_canon h1))
  extract_lets _ _ t1 t2 r
  have h1 : t1.CanonOn D := modCore_canon h fun _ => modSeqC_spad _ _ _
  clear_value t1
  have h2 : t2.CanonOn D := upd_canon h1
  have h3 : OutCanon D r := by
    refine ite_out (replayMarker_canon h2) ?_
    split
    · exact replayCommand_canon h2
    · exact next_canon (raise_canon h2)
  clear_value r
  split
  · have h4 : (State.modCore _ c fun k => { k with replayIssue := none }).CanonOn D := modCore_canon h3
    exact upd_canon h4
  · trivial
  · trivial

/-! ### Every instruction and event (Dispatch) -/

theorem exec_canon {i : Instr} (h : s.CanonOn D) : OutCanon D (exec i s) := by
  unfold exec
  split
  · exact execBlk_canon h
  iterate 10 exact alu2_canon h -- add to ror
  iterate 2 exact alu3_canon h -- fshl, fshr
  iterate 12 exact alu2_canon h -- mul to maxu
  iterate 6 exact alu1_canon h -- addi to rori
  · exact issue_canon (fun _ _ _ h1 => land_canon h1) h -- li
  · exact execLdc_canon h
  iterate 11 exact alu1_canon h -- popc to zextW
  iterate 2 exact alu2_canon h -- bfx, bfxs
  · exact alu3_canon h -- bfi
  iterate 2 exact toPred_canon h -- cmp, cmpi
  iterate 2 exact issue_canon (fun _ _ _ h1 => land_canon h1) h -- sel, selN
  iterate 6 exact toPred_canon h -- pand to psetg
  · exact issue_canon (fun _ _ _ h1 => land_canon h1) h -- prd
  iterate 2 exact condBranch_canon h -- bt, bf
  iterate 2 exact issue_canon (fun _ _ _ h1 => branch_canon h1) h -- j, call
  iterate 3 exact issue_canon (fun _ _ _ h1 => branchReg_canon h1) h -- jr to ret
  · exact execBrk_canon h
  · exact execLcut_canon h
  · exact execMfs_canon h
  · exact execMts_canon h
  · exact issue_canon (fun _ _ _ h1 => ite_act trap_canon (done_canon (modSeq_canon h1))) h -- mtsFpstat
  · exact issue_canon (fun _ _ _ h1 => ite_act trap_canon (done_canon (upd_canon h1))) h -- mtsAtomflags
  iterate 3 exact issue_canon (fun _ _ _ h1 => ite_act trap_canon (done_canon (modCore_canon h1))) h -- mtsEngerr to mtsRpstat
  iterate 2 exact spadScalarLoad_canon h -- sld, slds
  · exact issue_canon (fun _ _ _ h1 => ite_act trap_canon (done_canon (spadStore_canon h1))) h -- sst
  · exact issue_canon (fun _ _ h1 h2 => ite_act (stall_canon h1) (done_canon (raise_canon h2))) h -- trap
  · exact execRte_canon h
  · exact execCtxsv_canon h
  · exact execCtxrs_canon h
  · exact issue_canon (fun _ _ _ h1 => ite_act trap_canon (land_canon h1)) h -- snaprd
  · exact issue_canon (fun _ _ _ h1 => land_canon (modSeq_canon h1)) h -- wfe
  · exact execBar_canon h
  · exact execBarrierRelease_canon h
  · exact execQuies_canon h
  · exact issue_canon (fun _ _ _ h1 => land_canon h1) h -- tkcnt
  · exact issue_canon (fun _ _ _ h1 => ite_act trap_canon (ite_act trap_canon (done_canon (listPush_canon h1)))) h -- wlpush
  · exact execWlpop_canon h
  · exact execTapeb_canon h
  · exact execTapee_canon h
  · exact execTguard_canon h
  · exact execTapeinv_canon h
  · exact issue_canon (fun _ _ _ h1 => ite_act trap_canon (land_canon h1)) h -- tapeq
  iterate 17 exact laneWise_canon h -- vadd to vfshr
  iterate 2 exact vecIssue_canon h -- vsel, vperm
  · exact laneWise_canon h -- vabsd
  · exact vecIssue_canon h -- vcmp
  iterate 7 exact laneWise_canon h -- vneg to vbrev
  iterate 11 exact specialOp_canon h -- vsqrt to vcos
  · exact execVcvt_canon h
  · exact execVcvtef_canon h
  iterate 11 exact reduceOp_canon h -- vrsum to vscanmax
  iterate 8 exact vecIssue_canon h -- vcmpr to vosm
  · exact execVlse_canon h
  · exact execVdefer_canon h
  · exact vecIssue_canon h -- vconf
  iterate 5 exact maskOp_canon h -- mand to mnot
  iterate 3 exact vecIssue_canon h -- msetl to mffs
  · exact execVld_canon h
  · exact issue_canon (fun _ _ _ h1 => ite_act trap_canon (done_canon (spadRow_canon (noteRows_canon h1)))) h -- vst
  · exact execVstu_canon h
  · exact execMma_canon h
  · exact execMmas_canon h
  · exact execMgang_canon h
  · exact issue_canon (fun _ _ h1 h2 => rampGate_canon h1 h2 (fun _ h3 => done_canon (flyTile_canon h3))) h -- mzero
  · exact execMdrain_canon h
  · exact issue_canon (fun _ _ _ h1 => ite_act trap_canon (done_canon (modCore_canon h1))) h -- mcfg
  · exact execMsave_canon h
  · exact execMload_canon h
  iterate 3 exact loadScalar_canon h -- ld to ldAcq
  iterate 2 exact storeScalar_canon h -- st, stRel
  iterate 2 exact loadRow_canon h -- vldg, vldgAcq
  iterate 2 exact storeRow_canon h -- vstg, vstgRel
  iterate 11 exact amo_canon h -- amoAdd to amoFadd
  iterate 2 exact planeStore_canon h -- plnstOr, plnstAnd
  · exact execFence_canon h
  · exact issue_canon (fun _ _ _ h1 => done_canon (fenceEdge_canon (fenceWait_canon h1))) h -- fencex
  · exact execPubl_canon h
  iterate 2 exact cacheOp_canon h -- cflush, cinv
  · exact issue_canon (fun _ _ _ h1 => done_canon h1) h -- cpref
  · exact execNtld_canon h
  · exact segments_canon (fun _ _ _ h1 => lockSegment_canon h1) h -- ntlock
  · exact segments_canon (fun _ _ _ h1 => unlockSegment_canon h1) h -- ntunl
  iterate 4 exact copyCmd_canon h -- cpy to scat
  iterate 2 exact issue_canon (fun _ _ _ h1 => waitTags_canon h1) h -- wtany, wtall
  · exact execFfrdy_canon h
  · exact issue_canon (fun _ _ _ h1 => done_canon (modCore_canon h1)) h -- tagclr
  iterate 10 exact blockCmd_canon h -- pxhash to bfill
  · exact issue_canon (fun _ _ _ h1 => ite_act trap_canon (done_canon (modSeq_canon h1))) h -- bfwait
  iterate 3 exact blockCmd_canon h -- plan to pxrepl
  iterate 2 exact kvCmd_canon h -- kvld, kvst
  iterate 3 exact remoteCmd_canon h -- rld to ramo
  · exact execCharter_canon h
  · exact execCastoff_canon h
  · exact issue_canon (fun _ _ _ h1 => ite_act trap_canon (land_canon h1)) h -- laneq
  · exact issue_canon (fun _ _ _ h1 => done_canon h1) h -- cNop
  iterate 11 exact short_canon h -- cMv to cSrai
  · exact issue_canon (fun _ _ _ h1 => branch_canon h1) h -- cBr
  iterate 2 exact condBranch16_canon h -- cBt, cBf
  · exact execResultLanding_canon h
  · exact execTokdead_canon h
  · exact execRampGrant_canon h
  · exact execRampEnd_canon h
  · exact execMatrixEngineCold_canon h
  · exact execGangRendezvous_canon h
  · exact execGangtimeExpiry_canon h
  · exact execEngineCommandAccept_canon h
  · exact execEngineCommandComplete_canon h
  · exact execBackfillItem_canon h
  · exact execBankAluOp_canon h
  · exact next_canon (flushWhere_canon h) -- rwHoldExpiry
  · exact execReplayEntryIssue_canon h
  · exact execTrapModeEntry_canon h
  · exact execSnapshotLand_canon h
  · exact execPreemptRequest_canon h
  · exact execPreemptTake_canon h
  · exact execPreemptWithdraw_canon h
  · exact execIterationResume_canon h
  · exact execIterationStart_canon h
  · exact execIterationFinish_canon h
  · exact execTupleHandout_canon h
  · exact next_canon (upd_canon h) -- ageingCheck
  · exact execDispatchDecision_canon h
  · exact execPortalDmw_canon h
  · exact ite_out (next_canon (portalDrop_canon h)) (next_canon h) -- portalPostedWrite
  · exact execLaunchAtHead_canon h
  · exact execSerialWaitEnd_canon h
  · exact execCopyBegin_canon h
  · exact execCopyComplete_canon h
  · exact execMarkComplete_canon h
  · exact ite_out (next_canon (emit_canon h)) (ite_out (next_canon (access_canon (upd_canon h))) (next_canon h)) -- hostMemRead
  · exact ite_out (next_canon (feStore_canon h)) (ite_out (next_canon (access_canon h)) (next_canon h)) -- hostMemWrite
  · exact execHostSnoop_canon h
  · exact next_canon (writeQcfg_canon h) -- qcfgWrite
  · exact next_canon (writeTencfg_canon h) -- tencfgWrite
  · exact next_canon (writeSiPtr_canon h) -- siPtrWrite
  · exact next_canon (writePdPtr_canon h) -- pdPtrWrite
  iterate 3 exact ite_out (next_canon (writeTlbi_canon h)) (next_canon h) -- tlbiPage to tlbiAll
  · exact ite_out (next_canon h) (next_canon (upd_canon h)) -- tlbiComplete
  iterate 2 exact ite_out (next_canon (writeMig_canon h)) (next_canon h) -- migGo, migGoXp
  · exact execMigrationCopyDone_canon h
  · exact execStubForward_canon h
  · exact execStubRetire_canon h
  · exact next_canon (writeFeErr_canon h) -- feErrWrite
  · exact next_canon (writeQlPod_canon h) -- qlPodWrite
  · exact next_canon (regWrite_canon h) -- registerWrite
  · exact ite_out (next_canon (settlePoison_canon (rewrite_canon (checkSector_canon h)))) (next_canon h) -- scrub
  · exact next_canon (setFe_canon (freeNat_canon h)) -- powerWindow
  · exact next_canon (setTemp_canon (upd_canon h)) -- thermalThrottle
  · exact next_canon (upd_canon h) -- thermalTrip
  · exact next_canon (coldReset_canon h) -- coldReset
  · exact execFabricError_canon h
  · exact next_canon (emit_canon h) -- regrd
  · exact execRegwr_canon h
  · exact execKeyset_canon h
  · exact inSession_canon h (fun _ h1 => ite_canon (emit_canon h1) (emit_canon (upd_canon h1))) -- keyclr
  · exact inSession_canon h (fun _ h1 => ite_canon (emit_canon (upd_canon h1)) (emit_canon h1)) -- fwupd
  · exact inSession_canon h (fun _ h1 => coldReset_canon (emit_canon h1)) -- resetCold
  · exact inSession_canon h (fun _ h1 => warmReset_canon (emit_canon h1)) -- resetWarm
  · exact next_canon (emit_canon h) -- getMeasurements
  iterate 15 exact receiveAs_canon h -- idle to ctrlWithdraw
  · exact execRetransmitTimeout_canon h
  · exact execStarvationCheck_canon h
  · exact ite_out (next_canon (modRx_canon h)) (ite_out (next_canon (activateTx_canon h)) (next_canon h)) -- tuningLock
  · exact execTuningTimeout_canon h
  · exact execErrorWindowEnd_canon h
  · exact ite_out (next_canon (sendCtrl_canon (modRx_canon h))) (next_canon h) -- trainingWindowEnd
  · exact execLaneDrainEnd_canon h
  iterate 13 exact receiveAs_canon h -- storeReg to fwdReply
  · exact next_canon (raise_canon h) -- illegalEncoding
  · exact execLastWritePerformed_canon h
  · exact ite_out (next_canon (setTemp_canon (upd_canon (freeNat_canon h)))) (next_canon h) -- thermalHoldEnd
  · exact next_canon (upd_canon h) -- secureSession

/-! ### Cycles, the pilot core and what comes from outside (Clock) -/

theorem fetchInstr_canon {w : Who} (h : s.CanonOn D) : (s.fetchInstr w).2.CanonOn D := by
  unfold State.fetchInstr
  extract_lets
  split
  · exact mk_canon (canon_of ‹_› (codeBytes_canon h))
  · extract_lets
    refine ite_canon₂ (mk_canon (canon_of ‹_› (codeBytes_canon h))) ?_
    split
    · exact mk_canon (canon_of ‹_› (codeBytes_canon (canon_of ‹_› (codeBytes_canon h))))
    · exact mk_canon (canon_of ‹_› (codeBytes_canon (canon_of ‹_› (codeBytes_canon h))))

theorem attempt_canon (h : s.CanonOn D) : s.attempt.CanonOn D :=
  modSeq_canon h

theorem reach_canon {k : Asker} {wait : State → State} {f : State → Out} (hw : ∀ s, s.CanonOn D → (wait s).CanonOn D)
    (hf : ∀ s, s.CanonOn D → OutCanon D (f s)) (h : s.CanonOn D) : OutCanon D (s.reach k wait f) := by
  unfold State.reach
  refine ite_out (hf s h) ?_
  extract_lets go
  have hgo : ∀ t : State, t.CanonOn D → (go t).CanonOn D := by
    intro t ht
    dsimp only [go]
    split
    · exact canon_of_next ‹_› (hf t ht)
    · exact ht
  split
  · exact next_canon (withFar_ok_canon ‹_› hgo h)
  · exact next_canon (hw _ (withFar_canon ‹_› h))

theorem runTurn_canon (h : s.CanonOn D) : OutCanon D s.runTurn := by
  unfold State.runTurn
  extract_lets
  refine ite_out (exec_canon h) (ite_out ?_ (next_canon h))
  split
  · exact next_canon (raise_canon (canon_of ‹_› (fetchInstr_canon (attempt_canon h))))
  · split
    · exact exec_canon (canon_of ‹_› (fetchInstr_canon (attempt_canon h)))
    · exact exec_canon (canon_of ‹_› (fetchInstr_canon (attempt_canon h)))

theorem endUnits_canon (h : s.CanonOn D) : s.endUnits.CanonOn D := by
  unfold State.endUnits
  extract_lets s1 s2 s3
  have h1 : s1.CanonOn D := ite_canon h (settlePoison_canon h)
  have h2 : s2.CanonOn D := foldl_canon (fun _ _ h2 => flushCore_canon h2) h1
  have h3 : s3.CanonOn D := foldl_canon (fun _ _ h3 => serveNext_canon h3) h2
  exact sendIdle_canon (sendAnswers_canon h3)

theorem haltPilot_canon {pc : Word} {word : Nat} {cause : BitVec 8} (h : s.CanonOn D) : (s.haltPilot pc word cause).CanonOn D :=
  upd_canon h

/-- With the pilot core in core 0's place, the other cores' scratchpads are as they were. -/
theorem enterPilot_canon (h : s.CanonOn D) : s.enterPilot.CanonOn fun c => D c ∧ c ≠ 0 := by
  refine upd_canon (s := s.setCore 0 s.pilot.core) ⟨h.1, fun c hc => ?_⟩
  rw [core_setCore_ne s _ hc.2]
  exact h.2 c hc.1

/-- Core 0 comes back as it was. -/
theorem leavePilot_canon {u : State} (h : s.CanonOn D) (hu : u.CanonOn fun c => D c ∧ c ≠ 0) : (s.leavePilot u).CanonOn D := by
  unfold State.leavePilot
  extract_lets
  refine upd_canon (s := u.setCore 0 (s.core 0)) ⟨hu.1, fun c hc => ?_⟩
  by_cases e : c = 0
  · subst e; rw [core_setCore]; exact h.2 0 hc
  · rw [core_setCore_ne u _ e]; exact hu.2 c ⟨hc, e⟩

theorem pilotTurn_canon (h : s.CanonOn D) : s.pilotTurn.CanonOn D := by
  unfold State.pilotTurn
  refine ite_canon h ?_
  extract_lets t pc
  have h1 : t.CanonOn fun c => D c ∧ c ≠ 0 := enterPilot_canon h
  split
  · exact haltPilot_canon h
  have h2 := canon_of ‹_› (fetchInstr_canon h1)
  extract_lets
  split
  · exact haltPilot_canon h
  refine ite_canon (haltPilot_canon h) ?_
  split
  · have h3 := canon_of_next ‹_› (exec_canon h2)
    split
    · exact haltPilot_canon h
    · exact ite_canon h (leavePilot_canon h (foldl_canon (fun _ _ h4 => performPend_canon h4) h3))
  · exact h

theorem newCycle_canon (h : s.CanonOn D) : s.newCycle.CanonOn D := by
  unfold State.newCycle
  extract_lets s1 _ _ s2 s3 s4
  have h1 : s1.CanonOn D := finishLoading_canon (pilotTurn_canon (endUnits_canon h))
  have h2 : s2.CanonOn D := mapCores_canon h1
  clear_value s1 s2
  have h3 : s3.CanonOn D := upd_canon h2
  clear_value s3
  have h4 : s4.CanonOn D := ite_canon (upd_canon h3) h3
  clear_value s4
  exact upd_canon h4

theorem endOfCycle_canon (h : s.CanonOn D) : s.endOfCycle.CanonOn D :=
  ite_canon (newCycle_canon h) (upd_canon h)

theorem drift_canon (h : s.CanonOn D) : s.drift.CanonOn D :=
  ite_canon h (foldl_canon (fun _ _ h1 => performPend_canon h1) (upd_canon h))

theorem advance_canon {w : Who} (h : s.CanonOn D) : (s.advance w).CanonOn D := by
  unfold State.advance
  dsimp only
  refine ite_canon ?_ ?_
  · split
    · exact upd_canon (watchQuiet_canon (drift_canon h))
    · exact endOfCycle_canon (watchQuiet_canon (drift_canon h))
  · split
    · exact upd_canon (watchQuiet_canon (drift_canon h))
    · exact upd_canon (watchQuiet_canon (drift_canon h))
    · exact upd_canon (watchQuiet_canon (drift_canon h))
    · split
      · exact upd_canon (watchQuiet_canon (drift_canon h))
      · exact endOfCycle_canon (watchQuiet_canon (drift_canon h))

theorem putOff_canon {i : Instr} (h : s.CanonOn D) : (s.putOff i).CanonOn D :=
  upd_canon h

theorem takeEvent_canon {i : Instr} (h : s.CanonOn D) : OutCanon D (s.takeEvent i) :=
  ite_out (exec_canon h) (reach_canon (fun _ h1 => putOff_canon h1) (fun _ h1 => exec_canon h1) h)

theorem makeDue_canon {d : Due} (h : s.CanonOn D) : OutCanon D (s.makeDue d) :=
  reach_canon (fun _ h1 => h1) (fun _ h1 => exec_canon h1) h

theorem takeTurn_canon (h : s.CanonOn D) : OutCanon D s.takeTurn :=
  reach_canon (fun _ h1 => waiting_canon (attempt_canon h1)) (fun _ h1 => runTurn_canon h1) h

/-! ### One step (Step) -/

theorem passTurn_canon {w : Who} {o : Out} (h : OutCanon D o) : OutCanon D (passTurn w o) := by
  cases o with
  | next t => exact advance_canon h
  | fault _ => trivial
  | refused _ => trivial

theorem inside_canon (h : s.CanonOn D) : OutCanon D s.inside := by
  unfold State.inside
  split
  · exact makeDue_canon (upd_canon h)
  · exact passTurn_canon (takeTurn_canon h)

theorem step_canon (h : s.CanonOn D) : OutCanon D (step s) := by
  unfold step
  split
  · extract_lets s1
    have h1 : s1.CanonOn D := upd_canon h
    exact ite_out (ite_out (takeEvent_canon h1) (next_canon h1)) (inside_canon h)
  · exact ite_out (inside_canon h) trivial

end

/-! ### The invariant -/

theorem canonical_iff (s : State) : s.Canonical ↔ s.CanonOn fun _ => True :=
  ⟨fun h => ⟨h.1, fun c _ => h.2 c⟩, fun h => ⟨h.1, fun c => h.2 c trivial⟩⟩

/-- Settles O54: what a step leads to keeps the form on every set of cores (`step_canon`), so on all of them. -/
theorem canonicalKept : Obligations.CanonicalKept := by
  intro s t h e
  rw [canonical_iff] at h ⊢
  exact canon_of_next e (step_canon h)

end Sys2Proof.Machine
end

section
/-!
PROOFS. The decoder gives back every well-formed instruction from its encoding, from the fields and from the bytes (O49), and the words of
each family (O51).

An encoding is a major and an operand field (R16, R40), or a parcel (R39). The instructions fall into a few formats, by how their operands
lie in the operand field. One lemma for each format says which quotients and remainders of that field give the operands back; what is left
for an instruction is that its own function code selects it in the decoder of its major.
-/
set_option Elab.async false
namespace Sys2Proof.Encoding
open Sys2Proof Sys2Proof.Laws.Sized

/-- The fields of the instruction's encoding decode to it, and the encoding has the size that its bits 0 and 1 say. -/
def DecodesBack (i : Instr) : Prop := i.wf = true → ∀ e, encode i = some e → decodeFields e = .ok i ∧ sized e

/-- The decoder of one major, over the operand field and the common fields. -/
abbrev MajorDecoder := Nat → Ctl → Except Reject Instr

/-! ### Operands from numbers -/

theorem fin_back {m n : Nat} [NeZero m] {a : Fin m} (h : n % m = a.val) : Fin.ofNat m n = a := Fin.ext h

theorem imm_back {k n : Nat} {v : BitVec k} (h : n % 2 ^ k = v.toNat) : BitVec.ofNat k n = v :=
  BitVec.eq_of_toNat_eq ((BitVec.toNat_ofNat n k).trans h)

theorem bit_back {n : Nat} {b : Bool} (h : n % 2 = b.toNat) : (n % 2 == 1) = b := by
  rw [h]; cases b <;> rfl

theorem sz_back {n : Nat} {z : Sz} (h : n % 4 = z.code) : Sz.ofCode n = z := by
  unfold Sz.ofCode; rw [h]; cases z <;> rfl

theorem hint_back {n : Nat} {z : Hint} (h : n % 4 = z.code) : Hint.ofCode n = z := by
  unfold Hint.ofCode; rw [h]; cases z <;> rfl

theorem scope_back (z : Scope) : Scope.ofCode z.code = some z := by cases z <;> rfl
theorem path_back (z : PathClass) : PathClass.ofCode z.code = some z := by cases z <;> rfl
theorem cc_back (z : Cc) : Cc.ofCode z.code = some z := by cases z <;> rfl
theorem vcc_back (z : Vcc) : Vcc.ofCode z.code = some z := by cases z <;> rfl

/-! ### Words and parcels -/

/-- The common fields lie below bit 9 (R16, R35). -/
theorem ctlOf_word32 (maj op : Nat) (x : Ctl) : ctlOf (word32 maj op x) x.safe = x := by
  obtain ⟨lat, wf, sf, wb, sb, safe⟩ := x
  have h1 := lat.isLt
  have h2 := sb.toNat_lt
  have h3 := wb.toNat_lt
  have h4 := sf.toNat_lt
  have h5 := wf.toNat_lt
  have h6 := safe.isSome.toNat_lt
  simp only [ctlOf, word32, Ctl.mk.injEq, and_true]
  exact ⟨imm_back (by omega), bit_back (by omega), bit_back (by omega), bit_back (by omega), bit_back (by omega)⟩

/-- The major is W[14:9] and the operand field W[31:15] (R16). -/
theorem decodeFields_word32 {maj op : Nat} (hm : maj < 64) (x : Ctl) :
    decodeFields (.word (word32 maj op x) x.safe) = decodeOperand maj op x := by
  have h1 := x.lat.isLt
  have h2 := x.sb.toNat_lt
  have h3 := x.wb.toNat_lt
  have h4 := x.sf.toNat_lt
  have h5 := x.wf.toNat_lt
  have h6 := x.safe.isSome.toNat_lt
  have e1 : word32 maj op x / 512 % 64 = maj := by simp only [word32]; omega
  have e2 : word32 maj op x / 32768 = op := by simp only [word32]; omega
  simp only [decodeFields, e1, e2, ctlOf_word32]

section
variable {maj op : Nat} {x : Ctl}

/-- A word whose operand field the decoder `D` of its major decodes to the instruction. -/
theorem word_back (D : MajorDecoder) {i : Instr} (he : encode i = some (.word (word32 maj op x) x.safe)) (hop : op < 131072)
    (h : D op x = .ok i) (hD : ∀ n, decodeOperand maj n x = D n x := by exact fun _ => rfl)
    (hm : maj < 64 := by decide) : DecodesBack i := by
  intro _ e h'
  obtain rfl : _ = e := Option.some.inj (he.symm.trans h')
  exact ⟨(decodeFields_word32 hm x).trans ((hD op).trans h), word_sized maj op x x.safe hm hop rfl⟩

/-- The same, the operand field known by an equation. -/
theorem word_of (D : MajorDecoder) {i : Instr} (he : encode i = some (.word (word32 maj op x) x.safe)) (hop : op < 131072)
    (h : ∀ n, n = op → D n x = .ok i) (hD : ∀ n, decodeOperand maj n x = D n x := by exact fun _ => rfl)
    (hm : maj < 64 := by decide) : DecodesBack i :=
  word_back D he hop (h op rfl) hD hm

/-- A parcel that decodes to the instruction. -/
theorem parcel_back {i : Instr} {p : Nat} (he : encode i = some (.parcel p)) (hp : p < 65536 ∧ p % 2 = 0)
    (h : decode16 p = .ok i) : DecodesBack i := by
  intro _ e h'
  obtain rfl : _ = e := Option.some.inj (he.symm.trans h')
  exact ⟨h, hp⟩

/-- A step without an encoding. -/
theorem step_back {i : Instr} (he : encode i = none) : DecodesBack i := fun _ _ h => nomatch he.symm.trans h

/-! ### Formats of words (R36, R40) -/

/-- Three registers, and two bits of function. -/
theorem regs3 (D : MajorDecoder) (I : Reg → Reg → Reg → Instr) (f : Nat) {d a b : Reg}
    (he : encode (I d a b) = some (.word (word32 maj op x) x.safe))
    (h : ∀ n, n % 4 = f → D n x = .ok (I (Fin.ofNat 32 (n / 4096)) (Fin.ofNat 32 (n / 128)) (Fin.ofNat 32 (n / 4))))
    (hop : op = d.val * 4096 + a.val * 128 + b.val * 4 + f := by omega) (hf : f < 4 := by decide)
    (hD : ∀ n, decodeOperand maj n x = D n x := by exact fun _ => rfl) (hm : maj < 64 := by decide) : DecodesBack (I d a b) := by
  refine word_back D he (by omega) ?_ hD hm
  rw [h op (by omega), fin_back (a := d) (by omega), fin_back (a := a) (by omega), fin_back (a := b) (by omega)]

/-- Two registers, and seven bits of function. -/
theorem regs2 (D : MajorDecoder) (I : Reg → Reg → Instr) (f : Nat) {d a : Reg}
    (he : encode (I d a) = some (.word (word32 maj op x) x.safe))
    (h : ∀ n, n % 128 = f → D n x = .ok (I (Fin.ofNat 32 (n / 4096)) (Fin.ofNat 32 (n / 128))))
    (hop : op = d.val * 4096 + a.val * 128 + f := by omega) (hf : f < 128 := by decide)
    (hD : ∀ n, decodeOperand maj n x = D n x := by exact fun _ => rfl) (hm : maj < 64 := by decide) : DecodesBack (I d a) := by
  refine word_back D he (by omega) ?_ hD hm
  rw [h op (by omega), fin_back (a := d) (by omega), fin_back (a := a) (by omega)]

/-- One register in the place of the destination, and a code in the 12 bits below it. -/
theorem regHigh (D : MajorDecoder) (I : Reg → Instr) (f : Nat) {d : Reg}
    (he : encode (I d) = some (.word (word32 maj op x) x.safe))
    (h : ∀ n, n % 4096 = f → D n x = .ok (I (Fin.ofNat 32 (n / 4096)))) (hop : op = d.val * 4096 + f := by omega)
    (hf : f < 4096 := by decide) (hD : ∀ n, decodeOperand maj n x = D n x := by exact fun _ => rfl)
    (hm : maj < 64 := by decide) : DecodesBack (I d) := by
  refine word_back D he (by omega) ?_ hD hm
  rw [h op (by omega), fin_back (a := d) (by omega)]

/-- One register in the place of the first operand, that of the destination being zero. -/
theorem regLow (D : MajorDecoder) (I : Reg → Instr) (f : Nat) {a : Reg}
    (he : encode (I a) = some (.word (word32 maj op x) x.safe))
    (h : ∀ n, n % 128 = f → n / 4096 % 32 = 0 → D n x = .ok (I (Fin.ofNat 32 (n / 128))))
    (hop : op = a.val * 128 + f := by omega) (hf : f < 128 := by decide)
    (hD : ∀ n, decodeOperand maj n x = D n x := by exact fun _ => rfl) (hm : maj < 64 := by decide) : DecodesBack (I a) := by
  refine word_back D he (by omega) ?_ hD hm
  rw [h op (by omega) (by omega), fin_back (a := a) (by omega)]

/-- Two registers in the places of the operands, that of the destination being zero. -/
theorem regsLow (D : MajorDecoder) (I : Reg → Reg → Instr) (f : Nat) {a b : Reg}
    (he : encode (I a b) = some (.word (word32 maj op x) x.safe))
    (h : ∀ n, n % 4 = f → n / 4096 % 32 = 0 → D n x = .ok (I (Fin.ofNat 32 (n / 128)) (Fin.ofNat 32 (n / 4))))
    (hop : op = a.val * 128 + b.val * 4 + f := by omega) (hf : f < 4 := by decide)
    (hD : ∀ n, decodeOperand maj n x = D n x := by exact fun _ => rfl) (hm : maj < 64 := by decide) : DecodesBack (I a b) := by
  refine word_back D he (by omega) ?_ hD hm
  rw [h op (by omega) (by omega), fin_back (a := a) (by omega), fin_back (a := b) (by omega)]

/-- Two registers and an immediate of 7 bits. -/
theorem regsImm (D : MajorDecoder) (I : Reg → Reg → BitVec 7 → Instr) {d a : Reg} {v : BitVec 7}
    (he : encode (I d a v) = some (.word (word32 maj op x) x.safe))
    (h : ∀ n, D n x = .ok (I (Fin.ofNat 32 (n / 4096)) (Fin.ofNat 32 (n / 128)) (BitVec.ofNat 7 n)))
    (hop : op = d.val * 4096 + a.val * 128 + v.toNat := by omega)
    (hD : ∀ n, decodeOperand maj n x = D n x := by exact fun _ => rfl) (hm : maj < 64 := by decide) : DecodesBack (I d a v) := by
  refine word_back D he (by omega) ?_ hD hm
  rw [h op, fin_back (a := d) (by omega), fin_back (a := a) (by omega), imm_back (v := v) (by omega)]

/-- Two registers and a shift amount. -/
theorem regsShift (D : MajorDecoder) (I : Reg → Reg → BitVec 6 → Instr) (f : Nat) {d a : Reg} {v : BitVec 6}
    (he : encode (I d a v) = some (.word (word32 maj op x) x.safe))
    (h : ∀ n, n / 64 % 2 = f → D n x = .ok (I (Fin.ofNat 32 (n / 4096)) (Fin.ofNat 32 (n / 128)) (BitVec.ofNat 6 n)))
    (hop : op = d.val * 4096 + a.val * 128 + v.toNat + f * 64 := by omega) (hf : f < 2 := by decide)
    (hD : ∀ n, decodeOperand maj n x = D n x := by exact fun _ => rfl) (hm : maj < 64 := by decide) : DecodesBack (I d a v) := by
  refine word_back D he (by omega) ?_ hD hm
  rw [h op (by omega), fin_back (a := d) (by omega), fin_back (a := a) (by omega), imm_back (v := v) (by omega)]

/-- One register and 12 bits. -/
theorem regImm (D : MajorDecoder) (I : Reg → BitVec 12 → Instr) {d : Reg} {v : BitVec 12}
    (he : encode (I d v) = some (.word (word32 maj op x) x.safe))
    (h : ∀ n, n % 4096 = v.toNat → D n x = .ok (I (Fin.ofNat 32 (n / 4096)) (BitVec.ofNat 12 n)))
    (hop : op = d.val * 4096 + v.toNat := by omega) (hD : ∀ n, decodeOperand maj n x = D n x := by exact fun _ => rfl)
    (hm : maj < 64 := by decide) : DecodesBack (I d v) := by
  refine word_back D he (by omega) ?_ hD hm
  rw [h op (by omega), fin_back (a := d) (by omega), imm_back (v := v) (by omega)]

/-- Two registers and a lane kind, with four bits of function. -/
theorem regsKind (D : MajorDecoder) (I : Reg → Reg → BitVec 3 → Instr) (f : Nat) {d a : Reg} {v : BitVec 3}
    (he : encode (I d a v) = some (.word (word32 maj op x) x.safe))
    (h : ∀ n, n / 8 % 16 = f → D n x = .ok (I (Fin.ofNat 32 (n / 4096)) (Fin.ofNat 32 (n / 128)) (BitVec.ofNat 3 n)))
    (hop : op = d.val * 4096 + a.val * 128 + v.toNat + f * 8 := by omega) (hf : f < 16 := by decide)
    (hD : ∀ n, decodeOperand maj n x = D n x := by exact fun _ => rfl) (hm : maj < 64 := by decide) : DecodesBack (I d a v) := by
  refine word_back D he (by omega) ?_ hD hm
  rw [h op (by omega), fin_back (a := d) (by omega), fin_back (a := a) (by omega), imm_back (v := v) (by omega)]

/-- Two registers and an offset of 5 bits, with two bits of function. -/
theorem regsOffset (D : MajorDecoder) (I : Reg → Reg → BitVec 5 → Instr) (f : Nat) {d a : Reg} {v : BitVec 5}
    (he : encode (I d a v) = some (.word (word32 maj op x) x.safe))
    (h : ∀ n, n / 32 % 4 = f → D n x = .ok (I (Fin.ofNat 32 (n / 4096)) (Fin.ofNat 32 (n / 128)) (BitVec.ofNat 5 n)))
    (hop : op = d.val * 4096 + a.val * 128 + v.toNat + f * 32 := by omega) (hf : f < 4 := by decide)
    (hD : ∀ n, decodeOperand maj n x = D n x := by exact fun _ => rfl) (hm : maj < 64 := by decide) : DecodesBack (I d a v) := by
  refine word_back D he (by omega) ?_ hD hm
  rw [h op (by omega), fin_back (a := d) (by omega), fin_back (a := a) (by omega), imm_back (v := v) (by omega)]

/-- Two registers, a size and an offset: a scratchpad access. -/
theorem regsSize (D : MajorDecoder) (I : Reg → Reg → Sz → BitVec 5 → Instr) {d a : Reg} {z : Sz} {v : BitVec 5}
    (he : encode (I d a z v) = some (.word (word32 maj op x) x.safe))
    (h : ∀ n, D n x = .ok (I (Fin.ofNat 32 (n / 4096)) (Fin.ofNat 32 (n / 128)) (Sz.ofCode (n / 32)) (BitVec.ofNat 5 n)))
    (hop : op = d.val * 4096 + a.val * 128 + z.code * 32 + v.toNat := by omega)
    (hD : ∀ n, decodeOperand maj n x = D n x := by exact fun _ => rfl) (hm : maj < 64 := by decide) : DecodesBack (I d a z v) := by
  have hz := sz_code z
  refine word_back D he (by omega) ?_ hD hm
  rw [h op, fin_back (a := d) (by omega), fin_back (a := a) (by omega), sz_back (z := z) (by omega), imm_back (v := v) (by omega)]

/-- Two registers, a size, a hint and an offset: a scalar access to memory. -/
theorem regsSizeHint (D : MajorDecoder) (I : Reg → Reg → Sz → Hint → BitVec 3 → Instr) {d a : Reg} {z : Sz} {k : Hint} {v : BitVec 3}
    (he : encode (I d a z k v) = some (.word (word32 maj op x) x.safe))
    (h : ∀ n, D n x
      = .ok (I (Fin.ofNat 32 (n / 4096)) (Fin.ofNat 32 (n / 128)) (Sz.ofCode (n / 32)) (Hint.ofCode (n / 8)) (BitVec.ofNat 3 n)))
    (hop : op = d.val * 4096 + a.val * 128 + z.code * 32 + k.code * 8 + v.toNat := by omega)
    (hD : ∀ n, decodeOperand maj n x = D n x := by exact fun _ => rfl) (hm : maj < 64 := by decide) : DecodesBack (I d a z k v) := by
  have hz := sz_code z
  have hk := hint_code k
  refine word_back D he (by omega) ?_ hD hm
  rw [h op, fin_back (a := d) (by omega), fin_back (a := a) (by omega), sz_back (z := z) (by omega), hint_back (z := k) (by omega),
    imm_back (v := v) (by omega)]

/-- Two registers, a hint and an offset: a row access to memory. -/
theorem regsHint (D : MajorDecoder) (I : Reg → Reg → Hint → BitVec 3 → Instr) (f : Nat) {d a : Reg} {k : Hint} {v : BitVec 3}
    (he : encode (I d a k v) = some (.word (word32 maj op x) x.safe))
    (h : ∀ n, n / 8 % 4 = f → D n x
      = .ok (I (Fin.ofNat 32 (n / 4096)) (Fin.ofNat 32 (n / 128)) (Hint.ofCode (n / 32)) (BitVec.ofNat 3 n)))
    (hop : op = d.val * 4096 + a.val * 128 + k.code * 32 + v.toNat + f * 8 := by omega) (hf : f < 4 := by decide)
    (hD : ∀ n, decodeOperand maj n x = D n x := by exact fun _ => rfl) (hm : maj < 64 := by decide) : DecodesBack (I d a k v) := by
  have hk := hint_code k
  refine word_back D he (by omega) ?_ hD hm
  rw [h op (by omega), fin_back (a := d) (by omega), fin_back (a := a) (by omega), hint_back (z := k) (by omega),
    imm_back (v := v) (by omega)]

/-- Two registers, an order and a size: an atomic. -/
theorem regsAtomic (D : MajorDecoder) (I : Reg → Reg → Bool → Sz → Instr) (f : Nat) {d a : Reg} {r : Bool} {z : Sz}
    (he : encode (I d a r z) = some (.word (word32 maj op x) x.safe))
    (h : ∀ n, n / 4 % 16 = f → D n x = .ok (I (Fin.ofNat 32 (n / 4096)) (Fin.ofNat 32 (n / 128)) (n / 64 % 2 == 1) (Sz.ofCode n)))
    (hop : op = d.val * 4096 + a.val * 128 + r.toNat * 64 + z.code + f * 4 := by omega) (hf : f < 16 := by decide)
    (hD : ∀ n, decodeOperand maj n x = D n x := by exact fun _ => rfl) (hm : maj < 64 := by decide) : DecodesBack (I d a r z) := by
  have hz := sz_code z
  have hr := r.toNat_lt
  refine word_back D he (by omega) ?_ hD hm
  rw [h op (by omega), fin_back (a := d) (by omega), fin_back (a := a) (by omega), bit_back (b := r) (by omega),
    sz_back (z := z) (by omega)]

/-- Two registers and a predicate. -/
theorem regsPred (D : MajorDecoder) (I : Reg → Reg → PReg → Instr) (f : Nat) {d a : Reg} {p : PReg}
    (he : encode (I d a p) = some (.word (word32 maj op x) x.safe))
    (h : ∀ n, n % 16 = f → D n x = .ok (I (Fin.ofNat 32 (n / 4096)) (Fin.ofNat 32 (n / 128)) (Fin.ofNat 8 (n / 16))))
    (hop : op = d.val * 4096 + a.val * 128 + p.val * 16 + f := by omega) (hf : f < 16 := by decide)
    (hD : ∀ n, decodeOperand maj n x = D n x := by exact fun _ => rfl) (hm : maj < 64 := by decide) : DecodesBack (I d a p) := by
  refine word_back D he (by omega) ?_ hD hm
  rw [h op (by omega), fin_back (a := d) (by omega), fin_back (a := a) (by omega), fin_back (a := p) (by omega)]

/-- Three predicates or masks. -/
theorem preds3 (D : MajorDecoder) (I : PReg → PReg → PReg → Instr) (f : Nat) {p q r : PReg}
    (he : encode (I p q r) = some (.word (word32 maj op x) x.safe))
    (h : ∀ n, n % 8 = f → n / 8 % 32 = 0 → D n x = .ok (I (Fin.ofNat 8 (n / 16384)) (Fin.ofNat 8 (n / 2048)) (Fin.ofNat 8 (n / 256))))
    (hop : op = p.val * 16384 + q.val * 2048 + r.val * 256 + f := by omega) (hf : f < 8 := by decide)
    (hD : ∀ n, decodeOperand maj n x = D n x := by exact fun _ => rfl) (hm : maj < 64 := by decide) : DecodesBack (I p q r) := by
  refine word_back D he (by omega) ?_ hD hm
  rw [h op (by omega) (by omega), fin_back (a := p) (by omega), fin_back (a := q) (by omega), fin_back (a := r) (by omega)]

/-- Two predicates or masks. -/
theorem preds2 (D : MajorDecoder) (I : PReg → PReg → Instr) (f : Nat) {p q : PReg}
    (he : encode (I p q) = some (.word (word32 maj op x) x.safe))
    (h : ∀ n, n % 8 = f → n / 8 % 256 = 0 → D n x = .ok (I (Fin.ofNat 8 (n / 16384)) (Fin.ofNat 8 (n / 2048))))
    (hop : op = p.val * 16384 + q.val * 2048 + f := by omega) (hf : f < 8 := by decide)
    (hD : ∀ n, decodeOperand maj n x = D n x := by exact fun _ => rfl) (hm : maj < 64 := by decide) : DecodesBack (I p q) := by
  refine word_back D he (by omega) ?_ hD hm
  rw [h op (by omega) (by omega), fin_back (a := p) (by omega), fin_back (a := q) (by omega)]

/-- A predicate or mask set from a register. -/
theorem predReg (D : MajorDecoder) (I : PReg → Reg → Instr) (f : Nat) {p : PReg} {a : Reg}
    (he : encode (I p a) = some (.word (word32 maj op x) x.safe))
    (h : ∀ n, n % 8 = f → n / 256 % 64 = 0 → D n x = .ok (I (Fin.ofNat 8 (n / 16384)) (Fin.ofNat 32 (n / 8))))
    (hop : op = p.val * 16384 + a.val * 8 + f := by omega) (hf : f < 8 := by decide)
    (hD : ∀ n, decodeOperand maj n x = D n x := by exact fun _ => rfl) (hm : maj < 64 := by decide) : DecodesBack (I p a) := by
  refine word_back D he (by omega) ?_ hD hm
  rw [h op (by omega) (by omega), fin_back (a := p) (by omega), fin_back (a := a) (by omega)]

/-- A mask counted into a register. -/
theorem maskReg (D : MajorDecoder) (I : MReg → Reg → Instr) (f : Nat) {p : MReg} {a : Reg}
    (he : encode (I p a) = some (.word (word32 maj op x) x.safe))
    (h : ∀ n, n % 8 = f → n / 256 % 8 = 0 ∧ n / 16384 % 8 = 0 → D n x = .ok (I (Fin.ofNat 8 (n / 2048)) (Fin.ofNat 32 (n / 8))))
    (hop : op = p.val * 2048 + a.val * 8 + f := by omega) (hf : f < 8 := by decide)
    (hD : ∀ n, decodeOperand maj n x = D n x := by exact fun _ => rfl) (hm : maj < 64 := by decide) : DecodesBack (I p a) := by
  refine word_back D he (by omega) ?_ hD hm
  rw [h op (by omega) (by omega), fin_back (a := p) (by omega), fin_back (a := a) (by omega)]

/-- A branch on a predicate. -/
theorem predOffset (D : MajorDecoder) (I : PReg → BitVec 13 → Instr) (f : Nat) {p : PReg} {v : BitVec 13}
    (he : encode (I p v) = some (.word (word32 maj op x) x.safe))
    (h : ∀ n, n / 8192 % 2 = f → D n x = .ok (I (Fin.ofNat 8 (n / 16384)) (BitVec.ofNat 13 n)))
    (hop : op = p.val * 16384 + v.toNat + f * 8192 := by omega) (hf : f < 2 := by decide)
    (hD : ∀ n, decodeOperand maj n x = D n x := by exact fun _ => rfl) (hm : maj < 64 := by decide) : DecodesBack (I p v) := by
  refine word_back D he (by omega) ?_ hD hm
  rw [h op (by omega), fin_back (a := p) (by omega), imm_back (v := v) (by omega)]

/-- A tag and two registers. -/
theorem tagRegs (D : MajorDecoder) (I : BitVec 6 → Reg → Reg → Instr) (f : Nat) {g : BitVec 6} {a b : Reg}
    (he : encode (I g a b) = some (.word (word32 maj op x) x.safe))
    (h : ∀ n, n % 2 = f → D n x = .ok (I (BitVec.ofNat 6 (n / 2048)) (Fin.ofNat 32 (n / 64)) (Fin.ofNat 32 (n / 2))))
    (hop : op = g.toNat * 2048 + a.val * 64 + b.val * 2 + f := by omega) (hf : f < 2 := by decide)
    (hD : ∀ n, decodeOperand maj n x = D n x := by exact fun _ => rfl) (hm : maj < 64 := by decide) : DecodesBack (I g a b) := by
  refine word_back D he (by omega) ?_ hD hm
  rw [h op (by omega), imm_back (v := g) (by omega), fin_back (a := a) (by omega), fin_back (a := b) (by omega)]

end

/-! ### Formats of parcels (R39) -/

/-- Two registers. -/
theorem parcelRegs (I : Reg → Reg → Instr) (f : Nat) {d a : Reg} {p : Nat} (he : encode (I d a) = some (.parcel p))
    (h : ∀ n, n / 2 % 16 = f → n / 32 % 2 = 0 → decode16 n = .ok (I (Fin.ofNat 32 (n / 2048)) (Fin.ofNat 32 (n / 64))))
    (hp : p = d.val * 2048 + a.val * 64 + f * 2 := by omega) (hf : f < 16 := by decide) : DecodesBack (I d a) := by
  refine parcel_back he (by omega) ?_
  rw [h p (by omega) (by omega), fin_back (a := d) (by omega), fin_back (a := a) (by omega)]

/-- A register and an immediate. -/
theorem parcelImm (I : Reg → BitVec 6 → Instr) (f : Nat) {d : Reg} {v : BitVec 6} {p : Nat}
    (he : encode (I d v) = some (.parcel p))
    (h : ∀ n, n / 2 % 16 = f → decode16 n = .ok (I (Fin.ofNat 32 (n / 2048)) (BitVec.ofNat 6 (n / 32))))
    (hp : p = d.val * 2048 + v.toNat * 32 + f * 2 := by omega) (hf : f < 16 := by decide) : DecodesBack (I d v) := by
  refine parcel_back he (by omega) ?_
  rw [h p (by omega), fin_back (a := d) (by omega), imm_back (v := v) (by omega)]

/-- A branch on a predicate. -/
theorem parcelPred (I : PReg → BitVec 8 → Instr) (f : Nat) {q : PReg} {v : BitVec 8} {p : Nat}
    (he : encode (I q v) = some (.parcel p))
    (h : ∀ n, n / 2 % 16 = f → decode16 n = .ok (I (Fin.ofNat 8 (n / 8192)) (BitVec.ofNat 8 (n / 32))))
    (hp : p = q.val * 8192 + v.toNat * 32 + f * 2 := by omega) (hf : f < 16 := by decide) : DecodesBack (I q v) := by
  refine parcel_back he (by omega) ?_
  rw [h p (by omega), fin_back (a := q) (by omega), imm_back (v := v) (by omega)]

/-! ### Instructions with a format of their own -/

theorem blk_back (i : Bool) (r : BitVec 7) (n : BitVec 9) : DecodesBack (.blk i r n) := by
  have hi := i.toNat_lt
  refine word_back decMaj01 (x := Ctl.plain) rfl (by omega) ?_
  simp only [decMaj01, if_true]
  rw [bit_back (b := i) (by omega), imm_back (v := r) (by omega), imm_back (v := n) (by omega)]

theorem j_back (o : BitVec 17) (x : Ctl) : DecodesBack (.j o x) :=
  word_back decMaj15 rfl o.isLt (by
    simp only [decMaj15, imm_back (v := o) (Nat.mod_eq_of_lt o.isLt)])

theorem call_back (o : BitVec 17) (x : Ctl) : DecodesBack (.call o x) :=
  word_back decMaj16 rfl o.isLt (by
    simp only [decMaj16, imm_back (v := o) (Nat.mod_eq_of_lt o.isLt)])

theorem cmp_back (p : PReg) (a b : Reg) (c : Cc) (x : Ctl) : DecodesBack (.cmp p a b c x) := by
  have hc := cc_code c
  refine word_of decMaj10 rfl (by omega) fun n hn => ?_
  simp only [decMaj10]
  rw [show n % 16 = c.code by omega, cc_back, fin_back (a := p) (by omega), fin_back (a := a) (by omega),
    fin_back (a := b) (by omega)]

theorem cmpi_back (p : PReg) (a : Reg) (v : BitVec 5) (c : Cc) (x : Ctl) : DecodesBack (.cmpi p a v c x) := by
  have hc := cc_code c
  refine word_of decMaj11 rfl (by omega) fun n hn => ?_
  simp only [decMaj11]
  rw [show n % 16 = c.code by omega, cc_back, fin_back (a := p) (by omega), fin_back (a := a) (by omega),
    imm_back (v := v) (by omega)]

theorem vcmp_back (p : MReg) (a b : VReg) (c : Vcc) (x : Ctl) : DecodesBack (.vcmp p a b c x) := by
  have hc := vcc_code c
  refine word_of decMaj25 rfl (by omega) fun n hn => ?_
  simp only [decMaj25]
  rw [show n % 16 = c.code by omega, vcc_back, fin_back (a := p) (by omega), fin_back (a := a) (by omega),
    fin_back (a := b) (by omega)]

/-- The registers of R12 that MTS writes by a rule of their own have instructions of their own. -/
theorem mts_back (d : Reg) (r : BitVec 12) (x : Ctl) : DecodesBack (.mts d r x) := by
  intro hw
  refine regImm decMaj19 (.mts · · x) rfl (fun n h => ?_) rfl (fun _ => rfl) (by decide) hw
  simp only [Instr.wf, Bool.and_eq_true, Bool.not_eq_true', Bool.or_eq_false_iff, beq_eq_false_iff_ne, ne_eq, BitVec.toNat_eq,
    BitVec.reduceToNat] at hw
  simp only [decMaj19, h]
  split
  iterate 5 omega
  rfl

theorem vcvt_back (v a : VReg) (k : BitVec 3) (r p : BitVec 2) (x : Ctl) : DecodesBack (.vcvt v a k r p x) := by
  refine word_back decMaj27 rfl (by omega) ?_
  simp only [decMaj27]
  rw [fin_back (a := v) (by omega), fin_back (a := a) (by omega), imm_back (v := k) (by omega), imm_back (v := r) (by omega),
    imm_back (v := p) (by omega)]

theorem vcvtef_back (v a e : VReg) (f : BitVec 2) (x : Ctl) : DecodesBack (.vcvtef v a e f x) := by
  refine word_back decMaj28 rfl (by omega) ?_
  simp only [decMaj28]
  rw [fin_back (a := v) (by omega), fin_back (a := a) (by omega), fin_back (a := e) (by omega), imm_back (v := f) (by omega)]

theorem vfromm_back (v : VReg) (m : MReg) (x : Ctl) : DecodesBack (.vfromm v m x) := by
  refine word_of decMaj2A rfl (by omega) fun n hn => ?_
  simp only [decMaj2A, show n % 128 = 4 by omega, show n / 1024 % 4 = 0 by omega, if_true]
  rw [fin_back (a := v) (by omega), fin_back (a := m) (by omega)]

theorem vtom_back (m : MReg) (a : VReg) (x : Ctl) : DecodesBack (.vtom m a x) := by
  refine word_of decMaj2A rfl (by omega) fun n hn => ?_
  simp only [decMaj2A, show n % 128 = 5 by omega, show n / 32768 % 4 = 0 by omega, if_true]
  rw [fin_back (a := m) (by omega), fin_back (a := a) (by omega)]

theorem vlse_back (v a : VReg) (k : BitVec 5) (x : Ctl) : DecodesBack (.vlse v a k x) := by
  refine word_of decMaj2B rfl (by omega) fun n hn => ?_
  simp only [decMaj2B, show n % 4 = 1 by omega]
  rw [fin_back (a := v) (by omega), fin_back (a := a) (by omega), imm_back (v := k) (by omega)]

theorem vconf_back (m : MReg) (a b : VReg) (x : Ctl) : DecodesBack (.vconf m a b x) := by
  refine word_of decMaj2B rfl (by omega) fun n hn => ?_
  simp only [decMaj2B, show n % 4 = 3 by omega, show n / 32768 % 4 = 0 by omega, if_true]
  rw [fin_back (a := m) (by omega), fin_back (a := a) (by omega), fin_back (a := b) (by omega)]

theorem fence_back (z : Scope) (x : Ctl) : DecodesBack (.fence z x) := by
  have hz : z.code < 5 := by cases z <;> decide
  refine word_of decMaj38 rfl (by omega) fun n hn => ?_
  simp only [decMaj38, show n / 16384 % 8 = 0 by omega, show n % 2048 = 0 by omega,
    show n / 2048 % 8 = z.code by omega, scope_back, if_true]

theorem publ_back (z : Scope) (x : Ctl) : DecodesBack (.publ z x) := by
  have hz : z.code < 5 := by cases z <;> decide
  refine word_of decMaj38 rfl (by omega) fun n hn => ?_
  simp only [decMaj38, show n / 16384 % 8 = 2 by omega, show n % 2048 = 0 by omega,
    show n / 2048 % 8 = z.code by omega, scope_back, if_true]

theorem fencex_back (z : Scope) (c e : PathClass) (x : Ctl) : DecodesBack (.fencex z c e x) := by
  have hz := scope_code z
  have hc := path_code c
  have he := path_code e
  refine word_of decMaj38 rfl (by omega) fun n hn => ?_
  simp only [decMaj38, show n / 16384 % 8 = 1 by omega, show n % 32 = 0 by omega,
    show n / 2048 % 8 = z.code by omega, show n / 256 % 8 = c.code by omega,
    show n / 32 % 8 = e.code by omega, scope_back, path_back, if_true]

theorem cflush_back (a : Reg) (x : Ctl) : DecodesBack (.cflush a x) := by
  refine word_of decMaj38 rfl (by omega) fun n hn => ?_
  simp only [decMaj38, show n / 16384 % 8 = 3 by omega, show n / 32 % 512 = 0 by omega,
    if_true, fin_back (a := a) (show n % 32 = _ by omega)]

theorem cinv_back (a : Reg) (x : Ctl) : DecodesBack (.cinv a x) := by
  refine word_of decMaj38 rfl (by omega) fun n hn => ?_
  simp only [decMaj38, show n / 16384 % 8 = 4 by omega, show n / 32 % 512 = 0 by omega,
    if_true, fin_back (a := a) (show n % 32 = _ by omega)]

theorem cpref_back (k : Bool) (z : Hint) (a : Reg) (x : Ctl) : DecodesBack (.cpref k z a x) := by
  have hk := k.toNat_lt
  have hz := hint_code z
  refine word_of decMaj38 rfl (by omega) fun n hn => ?_
  simp only [decMaj38, show n / 16384 % 8 = 5 by omega, show n / 32 % 64 = 0 by omega, if_true]
  rw [bit_back (b := k) (by omega), hint_back (z := z) (by omega), fin_back (a := a) (by omega)]

theorem cBr_back (o : BitVec 11) : DecodesBack (.cBr o) := by
  refine parcel_back rfl (by omega) ?_
  simp only [decode16, show (o.toNat * 32 + 26) / 2 % 16 = 13 by omega]
  rw [imm_back (v := o) (by omega)]

/-! ### The other instructions, each by its format and function code -/

theorem add_back (d a b : Reg) (x : Ctl) : DecodesBack (.add d a b x) :=
  regs3 decMaj02 (.add · · · x) 0 rfl fun _ h => by simp only [decMaj02, h]
theorem sub_back (d a b : Reg) (x : Ctl) : DecodesBack (.sub d a b x) :=
  regs3 decMaj02 (.sub · · · x) 1 rfl fun _ h => by simp only [decMaj02, h]
theorem and_back (d a b : Reg) (x : Ctl) : DecodesBack (.and d a b x) :=
  regs3 decMaj02 (.and · · · x) 2 rfl fun _ h => by simp only [decMaj02, h]
theorem or_back (d a b : Reg) (x : Ctl) : DecodesBack (.or d a b x) :=
  regs3 decMaj02 (.or · · · x) 3 rfl fun _ h => by simp only [decMaj02, h]
theorem xor_back (d a b : Reg) (x : Ctl) : DecodesBack (.xor d a b x) :=
  regs3 decMaj03 (.xor · · · x) 0 rfl fun _ h => by simp only [decMaj03, h]
theorem andn_back (d a b : Reg) (x : Ctl) : DecodesBack (.andn d a b x) :=
  regs3 decMaj03 (.andn · · · x) 1 rfl fun _ h => by simp only [decMaj03, h]
theorem sll_back (d a b : Reg) (x : Ctl) : DecodesBack (.sll d a b x) :=
  regs3 decMaj03 (.sll · · · x) 2 rfl fun _ h => by simp only [decMaj03, h]
theorem srl_back (d a b : Reg) (x : Ctl) : DecodesBack (.srl d a b x) :=
  regs3 decMaj03 (.srl · · · x) 3 rfl fun _ h => by simp only [decMaj03, h]
theorem sra_back (d a b : Reg) (x : Ctl) : DecodesBack (.sra d a b x) :=
  regs3 decMaj04 (.sra · · · x) 0 rfl fun _ h => by simp only [decMaj04, h]
theorem ror_back (d a b : Reg) (x : Ctl) : DecodesBack (.ror d a b x) :=
  regs3 decMaj04 (.ror · · · x) 1 rfl fun _ h => by simp only [decMaj04, h]
theorem fshl_back (d a b : Reg) (x : Ctl) : DecodesBack (.fshl d a b x) :=
  regs3 decMaj04 (.fshl · · · x) 2 rfl fun _ h => by simp only [decMaj04, h]
theorem fshr_back (d a b : Reg) (x : Ctl) : DecodesBack (.fshr d a b x) :=
  regs3 decMaj04 (.fshr · · · x) 3 rfl fun _ h => by simp only [decMaj04, h]
theorem mul_back (d a b : Reg) (x : Ctl) : DecodesBack (.mul d a b x) :=
  regs3 decMaj05 (.mul · · · x) 0 rfl fun _ h => by simp only [decMaj05, h]
theorem mulh_back (d a b : Reg) (x : Ctl) : DecodesBack (.mulh d a b x) :=
  regs3 decMaj05 (.mulh · · · x) 1 rfl fun _ h => by simp only [decMaj05, h]
theorem mulhu_back (d a b : Reg) (x : Ctl) : DecodesBack (.mulhu d a b x) :=
  regs3 decMaj05 (.mulhu · · · x) 2 rfl fun _ h => by simp only [decMaj05, h]
theorem fns_back (d a b : Reg) (x : Ctl) : DecodesBack (.fns d a b x) :=
  regs3 decMaj05 (.fns · · · x) 3 rfl fun _ h => by simp only [decMaj05, h]
theorem div_back (d a b : Reg) (x : Ctl) : DecodesBack (.div d a b x) :=
  regs3 decMaj06 (.div · · · x) 0 rfl fun _ h => by simp only [decMaj06, h]
theorem divu_back (d a b : Reg) (x : Ctl) : DecodesBack (.divu d a b x) :=
  regs3 decMaj06 (.divu · · · x) 1 rfl fun _ h => by simp only [decMaj06, h]
theorem rem_back (d a b : Reg) (x : Ctl) : DecodesBack (.rem d a b x) :=
  regs3 decMaj06 (.rem · · · x) 2 rfl fun _ h => by simp only [decMaj06, h]
theorem remu_back (d a b : Reg) (x : Ctl) : DecodesBack (.remu d a b x) :=
  regs3 decMaj06 (.remu · · · x) 3 rfl fun _ h => by simp only [decMaj06, h]
theorem min_back (d a b : Reg) (x : Ctl) : DecodesBack (.min d a b x) :=
  regs3 decMaj07 (.min · · · x) 0 rfl fun _ h => by simp only [decMaj07, h]
theorem max_back (d a b : Reg) (x : Ctl) : DecodesBack (.max d a b x) :=
  regs3 decMaj07 (.max · · · x) 1 rfl fun _ h => by simp only [decMaj07, h]
theorem minu_back (d a b : Reg) (x : Ctl) : DecodesBack (.minu d a b x) :=
  regs3 decMaj07 (.minu · · · x) 2 rfl fun _ h => by simp only [decMaj07, h]
theorem maxu_back (d a b : Reg) (x : Ctl) : DecodesBack (.maxu d a b x) :=
  regs3 decMaj07 (.maxu · · · x) 3 rfl fun _ h => by simp only [decMaj07, h]
theorem addi_back (d a : Reg) (i : BitVec 7) (x : Ctl) : DecodesBack (.addi d a i x) :=
  regsImm decMaj08 (.addi · · · x) rfl fun _ => rfl
theorem andi_back (d a : Reg) (i : BitVec 7) (x : Ctl) : DecodesBack (.andi d a i x) :=
  regsImm decMaj0F (.andi · · · x) rfl fun _ => rfl
theorem slli_back (d a : Reg) (h : BitVec 6) (x : Ctl) : DecodesBack (.slli d a h x) :=
  regsShift decMaj09 (.slli · · · x) 0 rfl fun _ h => by simp only [decMaj09, h]
theorem srli_back (d a : Reg) (h : BitVec 6) (x : Ctl) : DecodesBack (.srli d a h x) :=
  regsShift decMaj09 (.srli · · · x) 1 rfl fun _ h => by simp only [decMaj09, h]
theorem srai_back (d a : Reg) (h : BitVec 6) (x : Ctl) : DecodesBack (.srai d a h x) :=
  regsShift decMaj0A (.srai · · · x) 0 rfl fun _ h => by simp only [decMaj0A, h]
theorem rori_back (d a : Reg) (h : BitVec 6) (x : Ctl) : DecodesBack (.rori d a h x) :=
  regsShift decMaj0A (.rori · · · x) 1 rfl fun _ h => by simp only [decMaj0A, h]
theorem li_back (d : Reg) (i : BitVec 12) (x : Ctl) : DecodesBack (.li d i x) := regImm decMaj0B (.li · · x) rfl fun _ _ => rfl
theorem ldc_back (d : Reg) (i : BitVec 12) (x : Ctl) : DecodesBack (.ldc d i x) := regImm decMaj0C (.ldc · · x) rfl fun _ _ => rfl
theorem popc_back (d a : Reg) (x : Ctl) : DecodesBack (.popc d a x) :=
  regs2 decMaj0D (.popc · · x) 0 rfl fun _ h => by simp only [decMaj0D, h]
theorem clz_back (d a : Reg) (x : Ctl) : DecodesBack (.clz d a x) :=
  regs2 decMaj0D (.clz · · x) 1 rfl fun _ h => by simp only [decMaj0D, h]
theorem ctz_back (d a : Reg) (x : Ctl) : DecodesBack (.ctz d a x) :=
  regs2 decMaj0D (.ctz · · x) 2 rfl fun _ h => by simp only [decMaj0D, h]
theorem brev_back (d a : Reg) (x : Ctl) : DecodesBack (.brev d a x) :=
  regs2 decMaj0D (.brev · · x) 3 rfl fun _ h => by simp only [decMaj0D, h]
theorem bswap_back (d a : Reg) (x : Ctl) : DecodesBack (.bswap d a x) :=
  regs2 decMaj0D (.bswap · · x) 4 rfl fun _ h => by simp only [decMaj0D, h]
theorem sextB_back (d a : Reg) (x : Ctl) : DecodesBack (.sextB d a x) :=
  regs2 decMaj0D (.sextB · · x) 5 rfl fun _ h => by simp only [decMaj0D, h]
theorem sextH_back (d a : Reg) (x : Ctl) : DecodesBack (.sextH d a x) :=
  regs2 decMaj0D (.sextH · · x) 6 rfl fun _ h => by simp only [decMaj0D, h]
theorem sextW_back (d a : Reg) (x : Ctl) : DecodesBack (.sextW d a x) :=
  regs2 decMaj0D (.sextW · · x) 7 rfl fun _ h => by simp only [decMaj0D, h]
theorem zextB_back (d a : Reg) (x : Ctl) : DecodesBack (.zextB d a x) :=
  regs2 decMaj0D (.zextB · · x) 8 rfl fun _ h => by simp only [decMaj0D, h]
theorem zextH_back (d a : Reg) (x : Ctl) : DecodesBack (.zextH d a x) :=
  regs2 decMaj0D (.zextH · · x) 9 rfl fun _ h => by simp only [decMaj0D, h]
theorem zextW_back (d a : Reg) (x : Ctl) : DecodesBack (.zextW d a x) :=
  regs2 decMaj0D (.zextW · · x) 10 rfl fun _ h => by simp only [decMaj0D, h]
theorem bfx_back (d a b : Reg) (x : Ctl) : DecodesBack (.bfx d a b x) :=
  regs3 decMaj0E (.bfx · · · x) 0 rfl fun _ h => by simp only [decMaj0E, h]
theorem bfxs_back (d a b : Reg) (x : Ctl) : DecodesBack (.bfxs d a b x) :=
  regs3 decMaj0E (.bfxs · · · x) 1 rfl fun _ h => by simp only [decMaj0E, h]
theorem bfi_back (d a b : Reg) (x : Ctl) : DecodesBack (.bfi d a b x) :=
  regs3 decMaj0E (.bfi · · · x) 2 rfl fun _ h => by simp only [decMaj0E, h]
theorem sel_back (d a : Reg) (p : PReg) (x : Ctl) : DecodesBack (.sel d a p x) :=
  regsPred decMaj12 (.sel · · · x) 0 rfl fun n h => by
    simp only [decMaj12, show n / 8 % 2 = 0 by omega, show n % 8 = 0 by omega, if_true]
theorem selN_back (d a : Reg) (p : PReg) (x : Ctl) : DecodesBack (.selN d a p x) :=
  regsPred decMaj12 (.selN · · · x) 8 rfl fun n h => by
    simp only [decMaj12, show n / 8 % 2 = 1 by omega, show n % 8 = 0 by omega, if_true]
theorem pand_back (p q r : PReg) (x : Ctl) : DecodesBack (.pand p q r x) :=
  preds3 decMaj13 (.pand · · · x) 0 rfl fun _ h h0 => by simp only [decMaj13, h, h0, if_true]
theorem por_back (p q r : PReg) (x : Ctl) : DecodesBack (.por p q r x) :=
  preds3 decMaj13 (.por · · · x) 1 rfl fun _ h h0 => by simp only [decMaj13, h, h0, if_true]
theorem pxor_back (p q r : PReg) (x : Ctl) : DecodesBack (.pxor p q r x) :=
  preds3 decMaj13 (.pxor · · · x) 2 rfl fun _ h h0 => by simp only [decMaj13, h, h0, if_true]
theorem pandn_back (p q r : PReg) (x : Ctl) : DecodesBack (.pandn p q r x) :=
  preds3 decMaj13 (.pandn · · · x) 3 rfl fun _ h h0 => by simp only [decMaj13, h, h0, if_true]
theorem pnot_back (p q : PReg) (x : Ctl) : DecodesBack (.pnot p q x) :=
  preds2 decMaj13 (.pnot · · x) 4 rfl fun _ h h0 => by simp only [decMaj13, h, h0, if_true]
theorem psetg_back (p : PReg) (a : Reg) (x : Ctl) : DecodesBack (.psetg p a x) :=
  predReg decMaj13 (.psetg · · x) 5 rfl fun _ h h0 => by simp only [decMaj13, h, h0, if_true]
theorem prd_back (d : Reg) (x : Ctl) : DecodesBack (.prd d x) :=
  regHigh decMaj17 (.prd · x) 5 rfl fun n h => by
    simp only [decMaj17, show n % 128 = 5 by omega, show n / 128 % 32 = 0 by omega, if_true]
theorem bt_back (p : PReg) (o : BitVec 13) (x : Ctl) : DecodesBack (.bt p o x) :=
  predOffset decMaj14 (.bt · · x) 0 rfl fun _ h => by simp only [decMaj14, h]
theorem bf_back (p : PReg) (o : BitVec 13) (x : Ctl) : DecodesBack (.bf p o x) :=
  predOffset decMaj14 (.bf · · x) 1 rfl fun _ h => by simp only [decMaj14, h]
theorem jr_back (a : Reg) (x : Ctl) : DecodesBack (.jr a x) :=
  regLow decMaj17 (.jr · x) 0 rfl fun _ h h0 => by simp only [decMaj17, h, h0, if_true]
theorem callr_back (d a : Reg) (x : Ctl) : DecodesBack (.callr d a x) :=
  regs2 decMaj17 (.callr · · x) 1 rfl fun _ h => by simp only [decMaj17, h]
theorem ret_back (a : Reg) (x : Ctl) : DecodesBack (.ret a x) :=
  regLow decMaj17 (.ret · x) 2 rfl fun _ h h0 => by simp only [decMaj17, h, h0, if_true]
theorem brk_back (x : Ctl) : DecodesBack (.brk x) := word_back decMaj17 (op := 3) rfl (by decide) rfl
theorem lcut_back (x : Ctl) : DecodesBack (.lcut x) := word_back decMaj17 (op := 4) rfl (by decide) rfl
theorem mfs_back (d : Reg) (r : BitVec 12) (x : Ctl) : DecodesBack (.mfs d r x) := regImm decMaj18 (.mfs · · x) rfl fun _ _ => rfl
theorem mtsFpstat_back (d : Reg) (x : Ctl) : DecodesBack (.mtsFpstat d x) :=
  regHigh decMaj19 (.mtsFpstat · x) 0 rfl fun _ h => by simp only [decMaj19, h]
theorem mtsAtomflags_back (d : Reg) (x : Ctl) : DecodesBack (.mtsAtomflags d x) :=
  regHigh decMaj19 (.mtsAtomflags · x) 264 rfl fun _ h => by simp only [decMaj19, h]
theorem mtsEngerr_back (d : Reg) (x : Ctl) : DecodesBack (.mtsEngerr d x) :=
  regHigh decMaj19 (.mtsEngerr · x) 81 rfl fun _ h => by simp only [decMaj19, h]
theorem mtsDerr_back (d : Reg) (x : Ctl) : DecodesBack (.mtsDerr d x) :=
  regHigh decMaj19 (.mtsDerr · x) 91 rfl fun _ h => by simp only [decMaj19, h]
theorem mtsRpstat_back (d : Reg) (x : Ctl) : DecodesBack (.mtsRpstat d x) :=
  regHigh decMaj19 (.mtsRpstat · x) 85 rfl fun _ h => by simp only [decMaj19, h]
theorem sld_back (d a : Reg) (z : Sz) (o : BitVec 5) (x : Ctl) : DecodesBack (.sld d a z o x) :=
  regsSize decMaj1A (.sld · · · · x) rfl fun _ => rfl
theorem slds_back (d a : Reg) (z : Sz) (o : BitVec 5) (x : Ctl) : DecodesBack (.slds d a z o x) :=
  regsSize decMaj1B (.slds · · · · x) rfl fun _ => rfl
theorem sst_back (d a : Reg) (z : Sz) (o : BitVec 5) (x : Ctl) : DecodesBack (.sst d a z o x) :=
  regsSize decMaj1C (.sst · · · · x) rfl fun _ => rfl
theorem trap_back (a : Reg) (x : Ctl) : DecodesBack (.trap a x) :=
  regLow decMaj1D (.trap · x) 0 rfl fun _ h h0 => by simp only [decMaj1D, h, h0, if_true]
theorem rte_back (x : Ctl) : DecodesBack (.rte x) := word_back decMaj1D (op := 1) rfl (by decide) rfl
theorem ctxsv_back (d a : Reg) (x : Ctl) : DecodesBack (.ctxsv d a x) :=
  regs2 decMaj1D (.ctxsv · · x) 2 rfl fun _ h => by simp only [decMaj1D, h]
theorem ctxrs_back (d a : Reg) (x : Ctl) : DecodesBack (.ctxrs d a x) :=
  regs2 decMaj1D (.ctxrs · · x) 3 rfl fun _ h => by simp only [decMaj1D, h]
theorem snaprd_back (d a : Reg) (x : Ctl) : DecodesBack (.snaprd d a x) :=
  regs2 decMaj1D (.snaprd · · x) 4 rfl fun _ h => by simp only [decMaj1D, h]
theorem wfe_back (d a : Reg) (x : Ctl) : DecodesBack (.wfe d a x) :=
  regs2 decMaj1D (.wfe · · x) 5 rfl fun _ h => by simp only [decMaj1D, h]
theorem bar_back (x : Ctl) : DecodesBack (.bar x) := word_back decMaj1E (op := 0) rfl (by decide) rfl
theorem quies_back (d a : Reg) (x : Ctl) : DecodesBack (.quies d a x) :=
  regs2 decMaj1E (.quies · · x) 1 rfl fun _ h => by simp only [decMaj1E, h]
theorem tkcnt_back (d : Reg) (x : Ctl) : DecodesBack (.tkcnt d x) :=
  regHigh decMaj1E (.tkcnt · x) 2 rfl fun n h => by
    simp only [decMaj1E, show n % 128 = 2 by omega, show n / 128 % 32 = 0 by omega, if_true]
theorem wlpush_back (d a : Reg) (x : Ctl) : DecodesBack (.wlpush d a x) :=
  regs2 decMaj1E (.wlpush · · x) 3 rfl fun _ h => by simp only [decMaj1E, h]
theorem wlpop_back (d a : Reg) (x : Ctl) : DecodesBack (.wlpop d a x) :=
  regs2 decMaj1E (.wlpop · · x) 4 rfl fun _ h => by simp only [decMaj1E, h]
theorem tapeb_back (d : Reg) (x : Ctl) : DecodesBack (.tapeb d x) :=
  regHigh decMaj1F (.tapeb · x) 0 rfl fun n h => by
    simp only [decMaj1F, show n % 128 = 0 by omega, show n / 128 % 32 = 0 by omega, if_true]
theorem tapee_back (d : Reg) (x : Ctl) : DecodesBack (.tapee d x) :=
  regHigh decMaj1F (.tapee · x) 1 rfl fun n h => by
    simp only [decMaj1F, show n % 128 = 1 by omega, show n / 128 % 32 = 0 by omega, if_true]
theorem tguard_back (d a : Reg) (x : Ctl) : DecodesBack (.tguard d a x) :=
  regs2 decMaj1F (.tguard · · x) 2 rfl fun _ h => by simp only [decMaj1F, h]
theorem tapeinv_back (a : Reg) (x : Ctl) : DecodesBack (.tapeinv a x) :=
  regLow decMaj1F (.tapeinv · x) 3 rfl fun _ h h0 => by simp only [decMaj1F, h, h0, if_true]
theorem tapeq_back (d a : Reg) (x : Ctl) : DecodesBack (.tapeq d a x) :=
  regs2 decMaj1F (.tapeq · · x) 4 rfl fun _ h => by simp only [decMaj1F, h]
theorem vadd_back (v a b : VReg) (x : Ctl) : DecodesBack (.vadd v a b x) :=
  regs3 decMaj20 (.vadd · · · x) 0 rfl fun _ h => by simp only [decMaj20, h]
theorem vsub_back (v a b : VReg) (x : Ctl) : DecodesBack (.vsub v a b x) :=
  regs3 decMaj20 (.vsub · · · x) 1 rfl fun _ h => by simp only [decMaj20, h]
theorem vmul_back (v a b : VReg) (x : Ctl) : DecodesBack (.vmul v a b x) :=
  regs3 decMaj20 (.vmul · · · x) 2 rfl fun _ h => by simp only [decMaj20, h]
theorem vfma_back (v a b : VReg) (x : Ctl) : DecodesBack (.vfma v a b x) :=
  regs3 decMaj20 (.vfma · · · x) 3 rfl fun _ h => by simp only [decMaj20, h]
theorem vmin_back (v a b : VReg) (x : Ctl) : DecodesBack (.vmin v a b x) :=
  regs3 decMaj21 (.vmin · · · x) 0 rfl fun _ h => by simp only [decMaj21, h]
theorem vmax_back (v a b : VReg) (x : Ctl) : DecodesBack (.vmax v a b x) :=
  regs3 decMaj21 (.vmax · · · x) 1 rfl fun _ h => by simp only [decMaj21, h]
theorem vminn_back (v a b : VReg) (x : Ctl) : DecodesBack (.vminn v a b x) :=
  regs3 decMaj21 (.vminn · · · x) 2 rfl fun _ h => by simp only [decMaj21, h]
theorem vmaxn_back (v a b : VReg) (x : Ctl) : DecodesBack (.vmaxn v a b x) :=
  regs3 decMaj21 (.vmaxn · · · x) 3 rfl fun _ h => by simp only [decMaj21, h]
theorem vand_back (v a b : VReg) (x : Ctl) : DecodesBack (.vand v a b x) :=
  regs3 decMaj22 (.vand · · · x) 0 rfl fun _ h => by simp only [decMaj22, h]
theorem vor_back (v a b : VReg) (x : Ctl) : DecodesBack (.vor v a b x) :=
  regs3 decMaj22 (.vor · · · x) 1 rfl fun _ h => by simp only [decMaj22, h]
theorem vxor_back (v a b : VReg) (x : Ctl) : DecodesBack (.vxor v a b x) :=
  regs3 decMaj22 (.vxor · · · x) 2 rfl fun _ h => by simp only [decMaj22, h]
theorem vandn_back (v a b : VReg) (x : Ctl) : DecodesBack (.vandn v a b x) :=
  regs3 decMaj22 (.vandn · · · x) 3 rfl fun _ h => by simp only [decMaj22, h]
theorem vsll_back (v a b : VReg) (x : Ctl) : DecodesBack (.vsll v a b x) :=
  regs3 decMaj23 (.vsll · · · x) 0 rfl fun _ h => by simp only [decMaj23, h]
theorem vsrl_back (v a b : VReg) (x : Ctl) : DecodesBack (.vsrl v a b x) :=
  regs3 decMaj23 (.vsrl · · · x) 1 rfl fun _ h => by simp only [decMaj23, h]
theorem vsra_back (v a b : VReg) (x : Ctl) : DecodesBack (.vsra v a b x) :=
  regs3 decMaj23 (.vsra · · · x) 2 rfl fun _ h => by simp only [decMaj23, h]
theorem vfshl_back (v a b : VReg) (x : Ctl) : DecodesBack (.vfshl v a b x) :=
  regs3 decMaj23 (.vfshl · · · x) 3 rfl fun _ h => by simp only [decMaj23, h]
theorem vfshr_back (v a b : VReg) (x : Ctl) : DecodesBack (.vfshr v a b x) :=
  regs3 decMaj24 (.vfshr · · · x) 0 rfl fun _ h => by simp only [decMaj24, h]
theorem vsel_back (v a b : VReg) (x : Ctl) : DecodesBack (.vsel v a b x) :=
  regs3 decMaj24 (.vsel · · · x) 1 rfl fun _ h => by simp only [decMaj24, h]
theorem vperm_back (v a b : VReg) (x : Ctl) : DecodesBack (.vperm v a b x) :=
  regs3 decMaj24 (.vperm · · · x) 2 rfl fun _ h => by simp only [decMaj24, h]
theorem vabsd_back (v a b : VReg) (x : Ctl) : DecodesBack (.vabsd v a b x) :=
  regs3 decMaj24 (.vabsd · · · x) 3 rfl fun _ h => by simp only [decMaj24, h]
theorem vneg_back (v a : VReg) (x : Ctl) : DecodesBack (.vneg v a x) :=
  regs2 decMaj26 (.vneg · · x) 0 rfl fun _ h => by simp only [decMaj26, h]
theorem vabs_back (v a : VReg) (x : Ctl) : DecodesBack (.vabs v a x) :=
  regs2 decMaj26 (.vabs · · x) 1 rfl fun _ h => by simp only [decMaj26, h]
theorem vmov_back (v a : VReg) (x : Ctl) : DecodesBack (.vmov v a x) :=
  regs2 decMaj26 (.vmov · · x) 2 rfl fun _ h => by simp only [decMaj26, h]
theorem vpopc_back (v a : VReg) (x : Ctl) : DecodesBack (.vpopc v a x) :=
  regs2 decMaj26 (.vpopc · · x) 3 rfl fun _ h => by simp only [decMaj26, h]
theorem vclz_back (v a : VReg) (x : Ctl) : DecodesBack (.vclz v a x) :=
  regs2 decMaj26 (.vclz · · x) 4 rfl fun _ h => by simp only [decMaj26, h]
theorem vctz_back (v a : VReg) (x : Ctl) : DecodesBack (.vctz v a x) :=
  regs2 decMaj26 (.vctz · · x) 5 rfl fun _ h => by simp only [decMaj26, h]
theorem vbrev_back (v a : VReg) (x : Ctl) : DecodesBack (.vbrev v a x) :=
  regs2 decMaj26 (.vbrev · · x) 6 rfl fun _ h => by simp only [decMaj26, h]
theorem vsqrt_back (v a : VReg) (x : Ctl) : DecodesBack (.vsqrt v a x) :=
  regs2 decMaj26 (.vsqrt · · x) 8 rfl fun _ h => by simp only [decMaj26, h]
theorem vrcp_back (v a : VReg) (x : Ctl) : DecodesBack (.vrcp v a x) :=
  regs2 decMaj26 (.vrcp · · x) 9 rfl fun _ h => by simp only [decMaj26, h]
theorem vrsqrt_back (v a : VReg) (x : Ctl) : DecodesBack (.vrsqrt v a x) :=
  regs2 decMaj26 (.vrsqrt · · x) 10 rfl fun _ h => by simp only [decMaj26, h]
theorem vexp_back (v a : VReg) (x : Ctl) : DecodesBack (.vexp v a x) :=
  regs2 decMaj26 (.vexp · · x) 11 rfl fun _ h => by simp only [decMaj26, h]
theorem vexp2_back (v a : VReg) (x : Ctl) : DecodesBack (.vexp2 v a x) :=
  regs2 decMaj26 (.vexp2 · · x) 12 rfl fun _ h => by simp only [decMaj26, h]
theorem vlog_back (v a : VReg) (x : Ctl) : DecodesBack (.vlog v a x) :=
  regs2 decMaj26 (.vlog · · x) 13 rfl fun _ h => by simp only [decMaj26, h]
theorem vlog2_back (v a : VReg) (x : Ctl) : DecodesBack (.vlog2 v a x) :=
  regs2 decMaj26 (.vlog2 · · x) 14 rfl fun _ h => by simp only [decMaj26, h]
theorem vtanh_back (v a : VReg) (x : Ctl) : DecodesBack (.vtanh v a x) :=
  regs2 decMaj26 (.vtanh · · x) 15 rfl fun _ h => by simp only [decMaj26, h]
theorem vsigm_back (v a : VReg) (x : Ctl) : DecodesBack (.vsigm v a x) :=
  regs2 decMaj26 (.vsigm · · x) 16 rfl fun _ h => by simp only [decMaj26, h]
theorem vsin_back (v a : VReg) (x : Ctl) : DecodesBack (.vsin v a x) :=
  regs2 decMaj26 (.vsin · · x) 17 rfl fun _ h => by simp only [decMaj26, h]
theorem vcos_back (v a : VReg) (x : Ctl) : DecodesBack (.vcos v a x) :=
  regs2 decMaj26 (.vcos · · x) 18 rfl fun _ h => by simp only [decMaj26, h]
theorem vrsum_back (v a : VReg) (g : BitVec 3) (x : Ctl) : DecodesBack (.vrsum v a g x) :=
  regsKind decMaj29 (.vrsum · · · x) 0 rfl fun _ h => by simp only [decMaj29, h]
theorem vrmax_back (v a : VReg) (g : BitVec 3) (x : Ctl) : DecodesBack (.vrmax v a g x) :=
  regsKind decMaj29 (.vrmax · · · x) 1 rfl fun _ h => by simp only [decMaj29, h]
theorem vrmin_back (v a : VReg) (g : BitVec 3) (x : Ctl) : DecodesBack (.vrmin v a g x) :=
  regsKind decMaj29 (.vrmin · · · x) 2 rfl fun _ h => by simp only [decMaj29, h]
theorem vrmaxu_back (v a : VReg) (g : BitVec 3) (x : Ctl) : DecodesBack (.vrmaxu v a g x) :=
  regsKind decMaj29 (.vrmaxu · · · x) 3 rfl fun _ h => by simp only [decMaj29, h]
theorem vrminu_back (v a : VReg) (g : BitVec 3) (x : Ctl) : DecodesBack (.vrminu v a g x) :=
  regsKind decMaj29 (.vrminu · · · x) 4 rfl fun _ h => by simp only [decMaj29, h]
theorem vrmaxa_back (v a : VReg) (g : BitVec 3) (x : Ctl) : DecodesBack (.vrmaxa v a g x) :=
  regsKind decMaj29 (.vrmaxa · · · x) 5 rfl fun _ h => by simp only [decMaj29, h]
theorem vror_back (v a : VReg) (g : BitVec 3) (x : Ctl) : DecodesBack (.vror v a g x) :=
  regsKind decMaj29 (.vror · · · x) 6 rfl fun _ h => by simp only [decMaj29, h]
theorem vrand_back (v a : VReg) (g : BitVec 3) (x : Ctl) : DecodesBack (.vrand v a g x) :=
  regsKind decMaj29 (.vrand · · · x) 7 rfl fun _ h => by simp only [decMaj29, h]
theorem vrxor_back (v a : VReg) (g : BitVec 3) (x : Ctl) : DecodesBack (.vrxor v a g x) :=
  regsKind decMaj29 (.vrxor · · · x) 8 rfl fun _ h => by simp only [decMaj29, h]
theorem vscan_back (v a : VReg) (g : BitVec 3) (x : Ctl) : DecodesBack (.vscan v a g x) :=
  regsKind decMaj29 (.vscan · · · x) 9 rfl fun _ h => by simp only [decMaj29, h]
theorem vscanmax_back (v a : VReg) (g : BitVec 3) (x : Ctl) : DecodesBack (.vscanmax v a g x) :=
  regsKind decMaj29 (.vscanmax · · · x) 10 rfl fun _ h => by simp only [decMaj29, h]
theorem vcmpr_back (v a : VReg) (x : Ctl) : DecodesBack (.vcmpr v a x) :=
  regs2 decMaj2A (.vcmpr · · x) 0 rfl fun _ h => by simp only [decMaj2A, h]
theorem vexpd_back (v a : VReg) (x : Ctl) : DecodesBack (.vexpd v a x) :=
  regs2 decMaj2A (.vexpd · · x) 1 rfl fun _ h => by simp only [decMaj2A, h]
theorem vbcast_back (v : VReg) (a : Reg) (x : Ctl) : DecodesBack (.vbcast v a x) :=
  regs2 decMaj2A (.vbcast · · x) 2 rfl fun _ h => by simp only [decMaj2A, h]
theorem vextr_back (d : Reg) (v : VReg) (x : Ctl) : DecodesBack (.vextr d v x) :=
  regs2 decMaj2A (.vextr · · x) 3 rfl fun _ h => by simp only [decMaj2A, h]
theorem viota_back (v : VReg) (x : Ctl) : DecodesBack (.viota v x) :=
  regHigh decMaj2A (.viota · x) 6 rfl fun n h => by
    simp only [decMaj2A, show n % 128 = 6 by omega, show n / 128 % 32 = 0 by omega, if_true]
theorem vosm_back (v a b : VReg) (x : Ctl) : DecodesBack (.vosm v a b x) :=
  regs3 decMaj2B (.vosm · · · x) 0 rfl fun _ h => by simp only [decMaj2B, h]
theorem vdefer_back (g : Reg) (a b : VReg) (x : Ctl) : DecodesBack (.vdefer g a b x) :=
  regs3 decMaj2B (.vdefer · · · x) 2 rfl fun _ h => by simp only [decMaj2B, h]
theorem mand_back (m n o : MReg) (x : Ctl) : DecodesBack (.mand m n o x) :=
  preds3 decMaj2C (.mand · · · x) 0 rfl fun _ h h0 => by simp only [decMaj2C, h, h0, if_true]
theorem mor_back (m n o : MReg) (x : Ctl) : DecodesBack (.mor m n o x) :=
  preds3 decMaj2C (.mor · · · x) 1 rfl fun _ h h0 => by simp only [decMaj2C, h, h0, if_true]
theorem mxor_back (m n o : MReg) (x : Ctl) : DecodesBack (.mxor m n o x) :=
  preds3 decMaj2C (.mxor · · · x) 2 rfl fun _ h h0 => by simp only [decMaj2C, h, h0, if_true]
theorem mandn_back (m n o : MReg) (x : Ctl) : DecodesBack (.mandn m n o x) :=
  preds3 decMaj2C (.mandn · · · x) 3 rfl fun _ h h0 => by simp only [decMaj2C, h, h0, if_true]
theorem mnot_back (m n : MReg) (x : Ctl) : DecodesBack (.mnot m n x) :=
  preds2 decMaj2C (.mnot · · x) 4 rfl fun _ h h0 => by simp only [decMaj2C, h, h0, if_true]
theorem msetl_back (m : MReg) (a : Reg) (x : Ctl) : DecodesBack (.msetl m a x) :=
  predReg decMaj2C (.msetl · · x) 5 rfl fun _ h h0 => by simp only [decMaj2C, h, h0, if_true]
theorem mcnt_back (n : MReg) (a : Reg) (x : Ctl) : DecodesBack (.mcnt n a x) :=
  maskReg decMaj2C (.mcnt · · x) 6 rfl fun _ h h0 => by simp only [decMaj2C, h, h0, and_self, if_true]
theorem mffs_back (n : MReg) (a : Reg) (x : Ctl) : DecodesBack (.mffs n a x) :=
  maskReg decMaj2C (.mffs · · x) 7 rfl fun _ h h0 => by simp only [decMaj2C, h, h0, and_self, if_true]
theorem vld_back (v : VReg) (a : Reg) (o : BitVec 5) (x : Ctl) : DecodesBack (.vld v a o x) :=
  regsOffset decMaj2D (.vld · · · x) 0 rfl fun _ h => by simp only [decMaj2D, h]
theorem vst_back (v : VReg) (a : Reg) (o : BitVec 5) (x : Ctl) : DecodesBack (.vst v a o x) :=
  regsOffset decMaj2D (.vst · · · x) 1 rfl fun _ h => by simp only [decMaj2D, h]
theorem vstu_back (v : VReg) (a : Reg) (o : BitVec 5) (x : Ctl) : DecodesBack (.vstu v a o x) :=
  regsOffset decMaj2D (.vstu · · · x) 2 rfl fun _ h => by simp only [decMaj2D, h]
theorem mma_back (a b : Reg) (x : Ctl) : DecodesBack (.mma a b x) :=
  regsLow decMaj2E (.mma · · x) 0 rfl fun _ h h0 => by simp only [decMaj2E, h, h0, if_true]
theorem mmas_back (d a b : Reg) (x : Ctl) : DecodesBack (.mmas d a b x) :=
  regs3 decMaj2E (.mmas · · · x) 1 rfl fun _ h => by simp only [decMaj2E, h]
theorem mgang_back (d a b : Reg) (x : Ctl) : DecodesBack (.mgang d a b x) :=
  regs3 decMaj2E (.mgang · · · x) 2 rfl fun _ h => by simp only [decMaj2E, h]
theorem mzero_back (x : Ctl) : DecodesBack (.mzero x) := word_back decMaj2E (op := 3) rfl (by decide) rfl
theorem mdrain_back (d a b : Reg) (x : Ctl) : DecodesBack (.mdrain d a b x) :=
  regs3 decMaj2F (.mdrain · · · x) 0 rfl fun _ h => by simp only [decMaj2F, h]
theorem mcfg_back (a : Reg) (x : Ctl) : DecodesBack (.mcfg a x) :=
  regLow decMaj2F (.mcfg · x) 1 rfl fun n h h0 => by
    simp only [decMaj2F, show n % 4 = 1 by omega, show n / 4 % 32 = 0 by omega, h0, and_self, if_true]
theorem msave_back (a b : Reg) (x : Ctl) : DecodesBack (.msave a b x) :=
  regsLow decMaj2F (.msave · · x) 2 rfl fun _ h h0 => by simp only [decMaj2F, h, h0, if_true]
theorem mload_back (a b : Reg) (x : Ctl) : DecodesBack (.mload a b x) :=
  regsLow decMaj2F (.mload · · x) 3 rfl fun _ h h0 => by simp only [decMaj2F, h, h0, if_true]
theorem ld_back (d a : Reg) (z : Sz) (h : Hint) (o : BitVec 3) (x : Ctl) : DecodesBack (.ld d a z h o x) :=
  regsSizeHint decMaj30 (.ld · · · · · x) rfl fun _ => rfl
theorem lds_back (d a : Reg) (z : Sz) (h : Hint) (o : BitVec 3) (x : Ctl) : DecodesBack (.lds d a z h o x) :=
  regsSizeHint decMaj31 (.lds · · · · · x) rfl fun _ => rfl
theorem ldAcq_back (d a : Reg) (z : Sz) (h : Hint) (o : BitVec 3) (x : Ctl) : DecodesBack (.ldAcq d a z h o x) :=
  regsSizeHint decMaj32 (.ldAcq · · · · · x) rfl fun _ => rfl
theorem st_back (d a : Reg) (z : Sz) (h : Hint) (o : BitVec 3) (x : Ctl) : DecodesBack (.st d a z h o x) :=
  regsSizeHint decMaj33 (.st · · · · · x) rfl fun _ => rfl
theorem stRel_back (d a : Reg) (z : Sz) (h : Hint) (o : BitVec 3) (x : Ctl) : DecodesBack (.stRel d a z h o x) :=
  regsSizeHint decMaj34 (.stRel · · · · · x) rfl fun _ => rfl
theorem vldg_back (v : VReg) (a : Reg) (h : Hint) (o : BitVec 3) (x : Ctl) : DecodesBack (.vldg v a h o x) :=
  regsHint decMaj35 (.vldg · · · · x) 0 rfl fun _ h => by simp only [decMaj35, h]
theorem vldgAcq_back (v : VReg) (a : Reg) (h : Hint) (o : BitVec 3) (x : Ctl) : DecodesBack (.vldgAcq v a h o x) :=
  regsHint decMaj35 (.vldgAcq · · · · x) 1 rfl fun _ h => by simp only [decMaj35, h]
theorem vstg_back (v : VReg) (a : Reg) (h : Hint) (o : BitVec 3) (x : Ctl) : DecodesBack (.vstg v a h o x) :=
  regsHint decMaj35 (.vstg · · · · x) 2 rfl fun _ h => by simp only [decMaj35, h]
theorem vstgRel_back (v : VReg) (a : Reg) (h : Hint) (o : BitVec 3) (x : Ctl) : DecodesBack (.vstgRel v a h o x) :=
  regsHint decMaj35 (.vstgRel · · · · x) 3 rfl fun _ h => by simp only [decMaj35, h]
theorem amoAdd_back (d a : Reg) (r : Bool) (z : Sz) (x : Ctl) : DecodesBack (.amoAdd d a r z x) :=
  regsAtomic decMaj36 (.amoAdd · · · · x) 0 rfl fun _ h => by simp only [decMaj36, h]
theorem amoAnd_back (d a : Reg) (r : Bool) (z : Sz) (x : Ctl) : DecodesBack (.amoAnd d a r z x) :=
  regsAtomic decMaj36 (.amoAnd · · · · x) 1 rfl fun _ h => by simp only [decMaj36, h]
theorem amoOr_back (d a : Reg) (r : Bool) (z : Sz) (x : Ctl) : DecodesBack (.amoOr d a r z x) :=
  regsAtomic decMaj36 (.amoOr · · · · x) 2 rfl fun _ h => by simp only [decMaj36, h]
theorem amoXor_back (d a : Reg) (r : Bool) (z : Sz) (x : Ctl) : DecodesBack (.amoXor d a r z x) :=
  regsAtomic decMaj36 (.amoXor · · · · x) 3 rfl fun _ h => by simp only [decMaj36, h]
theorem amoMin_back (d a : Reg) (r : Bool) (z : Sz) (x : Ctl) : DecodesBack (.amoMin d a r z x) :=
  regsAtomic decMaj36 (.amoMin · · · · x) 4 rfl fun _ h => by simp only [decMaj36, h]
theorem amoMax_back (d a : Reg) (r : Bool) (z : Sz) (x : Ctl) : DecodesBack (.amoMax d a r z x) :=
  regsAtomic decMaj36 (.amoMax · · · · x) 5 rfl fun _ h => by simp only [decMaj36, h]
theorem amoMinu_back (d a : Reg) (r : Bool) (z : Sz) (x : Ctl) : DecodesBack (.amoMinu d a r z x) :=
  regsAtomic decMaj36 (.amoMinu · · · · x) 6 rfl fun _ h => by simp only [decMaj36, h]
theorem amoMaxu_back (d a : Reg) (r : Bool) (z : Sz) (x : Ctl) : DecodesBack (.amoMaxu d a r z x) :=
  regsAtomic decMaj36 (.amoMaxu · · · · x) 7 rfl fun _ h => by simp only [decMaj36, h]
theorem amoSwap_back (d a : Reg) (r : Bool) (z : Sz) (x : Ctl) : DecodesBack (.amoSwap d a r z x) :=
  regsAtomic decMaj36 (.amoSwap · · · · x) 8 rfl fun _ h => by simp only [decMaj36, h]
theorem amoCas_back (d a : Reg) (r : Bool) (z : Sz) (x : Ctl) : DecodesBack (.amoCas d a r z x) :=
  regsAtomic decMaj36 (.amoCas · · · · x) 9 rfl fun _ h => by simp only [decMaj36, h]
theorem amoFadd_back (d a : Reg) (r : Bool) (z : Sz) (x : Ctl) : DecodesBack (.amoFadd d a r z x) :=
  regsAtomic decMaj36 (.amoFadd · · · · x) 10 rfl fun _ h => by simp only [decMaj36, h]
theorem plnstOr_back (d a : Reg) (x : Ctl) : DecodesBack (.plnstOr d a x) :=
  regs2 decMaj37 (.plnstOr · · x) 0 rfl fun n h => by
    simp only [decMaj37, show n / 4 % 32 = 0 by omega, show n % 4 = 0 by omega, if_true]
theorem plnstAnd_back (d a : Reg) (x : Ctl) : DecodesBack (.plnstAnd d a x) :=
  regs2 decMaj37 (.plnstAnd · · x) 4 rfl fun n h => by
    simp only [decMaj37, show n / 4 % 32 = 1 by omega, show n % 4 = 0 by omega, if_true]
theorem ntld_back (d a b : Reg) (x : Ctl) : DecodesBack (.ntld d a b x) :=
  regs3 decMaj39 (.ntld · · · x) 0 rfl fun _ h => by simp only [decMaj39, h]
theorem ntlock_back (a : Reg) (x : Ctl) : DecodesBack (.ntlock a x) :=
  regLow decMaj39 (.ntlock · x) 1 rfl fun n h h0 => by
    simp only [decMaj39, show n % 4 = 1 by omega, show n / 4 % 32 = 0 by omega, h0, and_self, if_true]
theorem ntunl_back (a : Reg) (x : Ctl) : DecodesBack (.ntunl a x) :=
  regLow decMaj39 (.ntunl · x) 2 rfl fun n h h0 => by
    simp only [decMaj39, show n % 4 = 2 by omega, show n / 4 % 32 = 0 by omega, h0, and_self, if_true]
theorem cpy_back (g : BitVec 6) (a b : Reg) (x : Ctl) : DecodesBack (.cpy g a b x) :=
  tagRegs decMaj3A (.cpy · · · x) 0 rfl fun _ h => by simp only [decMaj3A, h]
theorem cpy2d_back (g : BitVec 6) (a b : Reg) (x : Ctl) : DecodesBack (.cpy2d g a b x) :=
  tagRegs decMaj3A (.cpy2d · · · x) 1 rfl fun _ h => by simp only [decMaj3A, h]
theorem gath_back (g : BitVec 6) (a b : Reg) (x : Ctl) : DecodesBack (.gath g a b x) :=
  tagRegs decMaj3B (.gath · · · x) 0 rfl fun _ h => by simp only [decMaj3B, h]
theorem scat_back (g : BitVec 6) (a b : Reg) (x : Ctl) : DecodesBack (.scat g a b x) :=
  tagRegs decMaj3B (.scat · · · x) 1 rfl fun _ h => by simp only [decMaj3B, h]
theorem wtany_back (d a : Reg) (x : Ctl) : DecodesBack (.wtany d a x) :=
  regs2 decMaj3C (.wtany · · x) 0 rfl fun n h => by
    simp only [decMaj3C, show n % 4 = 0 by omega, show n / 4 % 32 = 0 by omega, if_true]
theorem wtall_back (d a : Reg) (x : Ctl) : DecodesBack (.wtall d a x) :=
  regs2 decMaj3C (.wtall · · x) 1 rfl fun n h => by
    simp only [decMaj3C, show n % 4 = 1 by omega, show n / 4 % 32 = 0 by omega, if_true]
theorem ffrdy_back (d a : Reg) (x : Ctl) : DecodesBack (.ffrdy d a x) :=
  regs2 decMaj3C (.ffrdy · · x) 2 rfl fun n h => by
    simp only [decMaj3C, show n % 4 = 2 by omega, show n / 4 % 32 = 0 by omega, if_true]
theorem tagclr_back (a : Reg) (x : Ctl) : DecodesBack (.tagclr a x) :=
  regLow decMaj3C (.tagclr · x) 3 rfl fun n h h0 => by
    simp only [decMaj3C, show n % 4 = 3 by omega, show n / 4 % 32 = 0 by omega, h0, and_self, if_true]
theorem pxhash_back (d a : Reg) (x : Ctl) : DecodesBack (.pxhash d a x) :=
  regs2 decMaj3D (.pxhash · · x) 0 rfl fun _ h => by simp only [decMaj3D, h]
theorem pxlook_back (d a : Reg) (x : Ctl) : DecodesBack (.pxlook d a x) :=
  regs2 decMaj3D (.pxlook · · x) 1 rfl fun _ h => by simp only [decMaj3D, h]
theorem pxpin_back (d a : Reg) (x : Ctl) : DecodesBack (.pxpin d a x) :=
  regs2 decMaj3D (.pxpin · · x) 2 rfl fun _ h => by simp only [decMaj3D, h]
theorem pxunpin_back (d a : Reg) (x : Ctl) : DecodesBack (.pxunpin d a x) :=
  regs2 decMaj3D (.pxunpin · · x) 3 rfl fun _ h => by simp only [decMaj3D, h]
theorem pxseal_back (d a : Reg) (x : Ctl) : DecodesBack (.pxseal d a x) :=
  regs2 decMaj3D (.pxseal · · x) 4 rfl fun _ h => by simp only [decMaj3D, h]
theorem pxalloc_back (d a : Reg) (x : Ctl) : DecodesBack (.pxalloc d a x) :=
  regs2 decMaj3D (.pxalloc · · x) 5 rfl fun _ h => by simp only [decMaj3D, h]
theorem pxlease_back (d a : Reg) (x : Ctl) : DecodesBack (.pxlease d a x) :=
  regs2 decMaj3D (.pxlease · · x) 6 rfl fun _ h => by simp only [decMaj3D, h]
theorem pxprom_back (d a : Reg) (x : Ctl) : DecodesBack (.pxprom d a x) :=
  regs2 decMaj3D (.pxprom · · x) 7 rfl fun _ h => by simp only [decMaj3D, h]
theorem kmerge_back (d a : Reg) (x : Ctl) : DecodesBack (.kmerge d a x) :=
  regs2 decMaj3D (.kmerge · · x) 8 rfl fun _ h => by simp only [decMaj3D, h]
theorem bfill_back (d a : Reg) (x : Ctl) : DecodesBack (.bfill d a x) :=
  regs2 decMaj3D (.bfill · · x) 9 rfl fun _ h => by simp only [decMaj3D, h]
theorem bfwait_back (a : Reg) (x : Ctl) : DecodesBack (.bfwait a x) :=
  regLow decMaj3D (.bfwait · x) 10 rfl fun _ h h0 => by simp only [decMaj3D, h, h0, if_true]
theorem plan_back (d a : Reg) (x : Ctl) : DecodesBack (.plan d a x) :=
  regs2 decMaj3D (.plan · · x) 11 rfl fun _ h => by simp only [decMaj3D, h]
theorem pxfetch_back (d a : Reg) (x : Ctl) : DecodesBack (.pxfetch d a x) :=
  regs2 decMaj3D (.pxfetch · · x) 12 rfl fun _ h => by simp only [decMaj3D, h]
theorem pxrepl_back (d a : Reg) (x : Ctl) : DecodesBack (.pxrepl d a x) :=
  regs2 decMaj3D (.pxrepl · · x) 13 rfl fun _ h => by simp only [decMaj3D, h]
theorem kvld_back (d a b : Reg) (x : Ctl) : DecodesBack (.kvld d a b x) :=
  regs3 decMaj3E (.kvld · · · x) 0 rfl fun _ h => by simp only [decMaj3E, h]
theorem kvst_back (d a b : Reg) (x : Ctl) : DecodesBack (.kvst d a b x) :=
  regs3 decMaj3E (.kvst · · · x) 1 rfl fun _ h => by simp only [decMaj3E, h]
theorem rld_back (d a : Reg) (x : Ctl) : DecodesBack (.rld d a x) :=
  regs2 decMaj3F (.rld · · x) 0 rfl fun _ h => by simp only [decMaj3F, h]
theorem rst_back (d a : Reg) (x : Ctl) : DecodesBack (.rst d a x) :=
  regs2 decMaj3F (.rst · · x) 1 rfl fun _ h => by simp only [decMaj3F, h]
theorem ramo_back (d a : Reg) (x : Ctl) : DecodesBack (.ramo d a x) :=
  regs2 decMaj3F (.ramo · · x) 2 rfl fun _ h => by simp only [decMaj3F, h]
theorem charter_back (d a : Reg) (x : Ctl) : DecodesBack (.charter d a x) :=
  regs2 decMaj3F (.charter · · x) 3 rfl fun _ h => by simp only [decMaj3F, h]
theorem castoff_back (d a : Reg) (x : Ctl) : DecodesBack (.castoff d a x) :=
  regs2 decMaj3F (.castoff · · x) 4 rfl fun _ h => by simp only [decMaj3F, h]
theorem laneq_back (d a : Reg) (x : Ctl) : DecodesBack (.laneq d a x) :=
  regs2 decMaj3F (.laneq · · x) 5 rfl fun _ h => by simp only [decMaj3F, h]
theorem cNop_back : DecodesBack .cNop := parcel_back rfl (by decide) rfl
theorem cMv_back (d a : Reg) : DecodesBack (.cMv d a) := parcelRegs .cMv 2 rfl fun _ h h0 => by simp only [decode16, h, h0, if_true]
theorem cLi_back (d : Reg) (i : BitVec 6) : DecodesBack (.cLi d i) := parcelImm .cLi 3 rfl fun _ h => by simp only [decode16, h]
theorem cAddi_back (d : Reg) (i : BitVec 6) : DecodesBack (.cAddi d i) := parcelImm .cAddi 4 rfl fun _ h => by
    simp only [decode16, h]
theorem cAdd_back (d a : Reg) : DecodesBack (.cAdd d a) :=
  parcelRegs .cAdd 5 rfl fun _ h h0 => by simp only [decode16, h, h0, if_true]
theorem cSub_back (d a : Reg) : DecodesBack (.cSub d a) :=
  parcelRegs .cSub 6 rfl fun _ h h0 => by simp only [decode16, h, h0, if_true]
theorem cAnd_back (d a : Reg) : DecodesBack (.cAnd d a) :=
  parcelRegs .cAnd 7 rfl fun _ h h0 => by simp only [decode16, h, h0, if_true]
theorem cOr_back (d a : Reg) : DecodesBack (.cOr d a) := parcelRegs .cOr 8 rfl fun _ h h0 => by simp only [decode16, h, h0, if_true]
theorem cXor_back (d a : Reg) : DecodesBack (.cXor d a) :=
  parcelRegs .cXor 9 rfl fun _ h h0 => by simp only [decode16, h, h0, if_true]
theorem cSlli_back (d : Reg) (h : BitVec 6) : DecodesBack (.cSlli d h) :=
  parcelImm .cSlli 10 rfl fun _ h => by simp only [decode16, h]
theorem cSrli_back (d : Reg) (h : BitVec 6) : DecodesBack (.cSrli d h) :=
  parcelImm .cSrli 11 rfl fun _ h => by simp only [decode16, h]
theorem cSrai_back (d : Reg) (h : BitVec 6) : DecodesBack (.cSrai d h) :=
  parcelImm .cSrai 12 rfl fun _ h => by simp only [decode16, h]
theorem cBt_back (p : PReg) (o : BitVec 8) : DecodesBack (.cBt p o) := parcelPred .cBt 14 rfl fun _ h => by simp only [decode16, h]
theorem cBf_back (p : PReg) (o : BitVec 8) : DecodesBack (.cBf p o) := parcelPred .cBf 15 rfl fun _ h => by simp only [decode16, h]

/-! ### Every instruction -/

theorem decodesBack (i : Instr) : DecodesBack i := by
  cases i with
  | blk => exact blk_back _ _ _
  | add => exact add_back _ _ _ _
  | sub => exact sub_back _ _ _ _
  | and => exact and_back _ _ _ _
  | or => exact or_back _ _ _ _
  | xor => exact xor_back _ _ _ _
  | andn => exact andn_back _ _ _ _
  | sll => exact sll_back _ _ _ _
  | srl => exact srl_back _ _ _ _
  | sra => exact sra_back _ _ _ _
  | ror => exact ror_back _ _ _ _
  | fshl => exact fshl_back _ _ _ _
  | fshr => exact fshr_back _ _ _ _
  | mul => exact mul_back _ _ _ _
  | mulh => exact mulh_back _ _ _ _
  | mulhu => exact mulhu_back _ _ _ _
  | fns => exact fns_back _ _ _ _
  | div => exact div_back _ _ _ _
  | divu => exact divu_back _ _ _ _
  | rem => exact rem_back _ _ _ _
  | remu => exact remu_back _ _ _ _
  | min => exact min_back _ _ _ _
  | max => exact max_back _ _ _ _
  | minu => exact minu_back _ _ _ _
  | maxu => exact maxu_back _ _ _ _
  | addi => exact addi_back _ _ _ _
  | andi => exact andi_back _ _ _ _
  | slli => exact slli_back _ _ _ _
  | srli => exact srli_back _ _ _ _
  | srai => exact srai_back _ _ _ _
  | rori => exact rori_back _ _ _ _
  | li => exact li_back _ _ _
  | ldc => exact ldc_back _ _ _
  | popc => exact popc_back _ _ _
  | clz => exact clz_back _ _ _
  | ctz => exact ctz_back _ _ _
  | brev => exact brev_back _ _ _
  | bswap => exact bswap_back _ _ _
  | sextB => exact sextB_back _ _ _
  | sextH => exact sextH_back _ _ _
  | sextW => exact sextW_back _ _ _
  | zextB => exact zextB_back _ _ _
  | zextH => exact zextH_back _ _ _
  | zextW => exact zextW_back _ _ _
  | bfx => exact bfx_back _ _ _ _
  | bfxs => exact bfxs_back _ _ _ _
  | bfi => exact bfi_back _ _ _ _
  | cmp => exact cmp_back _ _ _ _ _
  | cmpi => exact cmpi_back _ _ _ _ _
  | sel => exact sel_back _ _ _ _
  | selN => exact selN_back _ _ _ _
  | pand => exact pand_back _ _ _ _
  | por => exact por_back _ _ _ _
  | pxor => exact pxor_back _ _ _ _
  | pandn => exact pandn_back _ _ _ _
  | pnot => exact pnot_back _ _ _
  | psetg => exact psetg_back _ _ _
  | prd => exact prd_back _ _
  | bt => exact bt_back _ _ _
  | bf => exact bf_back _ _ _
  | j => exact j_back _ _
  | call => exact call_back _ _
  | jr => exact jr_back _ _
  | callr => exact callr_back _ _ _
  | ret => exact ret_back _ _
  | brk => exact brk_back _
  | lcut => exact lcut_back _
  | mfs => exact mfs_back _ _ _
  | mts => exact mts_back _ _ _
  | mtsFpstat => exact mtsFpstat_back _ _
  | mtsAtomflags => exact mtsAtomflags_back _ _
  | mtsEngerr => exact mtsEngerr_back _ _
  | mtsDerr => exact mtsDerr_back _ _
  | mtsRpstat => exact mtsRpstat_back _ _
  | sld => exact sld_back _ _ _ _ _
  | slds => exact slds_back _ _ _ _ _
  | sst => exact sst_back _ _ _ _ _
  | trap => exact trap_back _ _
  | rte => exact rte_back _
  | ctxsv => exact ctxsv_back _ _ _
  | ctxrs => exact ctxrs_back _ _ _
  | snaprd => exact snaprd_back _ _ _
  | wfe => exact wfe_back _ _ _
  | bar => exact bar_back _
  | quies => exact quies_back _ _ _
  | tkcnt => exact tkcnt_back _ _
  | wlpush => exact wlpush_back _ _ _
  | wlpop => exact wlpop_back _ _ _
  | tapeb => exact tapeb_back _ _
  | tapee => exact tapee_back _ _
  | tguard => exact tguard_back _ _ _
  | tapeinv => exact tapeinv_back _ _
  | tapeq => exact tapeq_back _ _ _
  | vadd => exact vadd_back _ _ _ _
  | vsub => exact vsub_back _ _ _ _
  | vmul => exact vmul_back _ _ _ _
  | vfma => exact vfma_back _ _ _ _
  | vmin => exact vmin_back _ _ _ _
  | vmax => exact vmax_back _ _ _ _
  | vminn => exact vminn_back _ _ _ _
  | vmaxn => exact vmaxn_back _ _ _ _
  | vand => exact vand_back _ _ _ _
  | vor => exact vor_back _ _ _ _
  | vxor => exact vxor_back _ _ _ _
  | vandn => exact vandn_back _ _ _ _
  | vsll => exact vsll_back _ _ _ _
  | vsrl => exact vsrl_back _ _ _ _
  | vsra => exact vsra_back _ _ _ _
  | vfshl => exact vfshl_back _ _ _ _
  | vfshr => exact vfshr_back _ _ _ _
  | vsel => exact vsel_back _ _ _ _
  | vperm => exact vperm_back _ _ _ _
  | vabsd => exact vabsd_back _ _ _ _
  | vcmp => exact vcmp_back _ _ _ _ _
  | vneg => exact vneg_back _ _ _
  | vabs => exact vabs_back _ _ _
  | vmov => exact vmov_back _ _ _
  | vpopc => exact vpopc_back _ _ _
  | vclz => exact vclz_back _ _ _
  | vctz => exact vctz_back _ _ _
  | vbrev => exact vbrev_back _ _ _
  | vsqrt => exact vsqrt_back _ _ _
  | vrcp => exact vrcp_back _ _ _
  | vrsqrt => exact vrsqrt_back _ _ _
  | vexp => exact vexp_back _ _ _
  | vexp2 => exact vexp2_back _ _ _
  | vlog => exact vlog_back _ _ _
  | vlog2 => exact vlog2_back _ _ _
  | vtanh => exact vtanh_back _ _ _
  | vsigm => exact vsigm_back _ _ _
  | vsin => exact vsin_back _ _ _
  | vcos => exact vcos_back _ _ _
  | vcvt => exact vcvt_back _ _ _ _ _ _
  | vcvtef => exact vcvtef_back _ _ _ _ _
  | vrsum => exact vrsum_back _ _ _ _
  | vrmax => exact vrmax_back _ _ _ _
  | vrmin => exact vrmin_back _ _ _ _
  | vrmaxu => exact vrmaxu_back _ _ _ _
  | vrminu => exact vrminu_back _ _ _ _
  | vrmaxa => exact vrmaxa_back _ _ _ _
  | vror => exact vror_back _ _ _ _
  | vrand => exact vrand_back _ _ _ _
  | vrxor => exact vrxor_back _ _ _ _
  | vscan => exact vscan_back _ _ _ _
  | vscanmax => exact vscanmax_back _ _ _ _
  | vcmpr => exact vcmpr_back _ _ _
  | vexpd => exact vexpd_back _ _ _
  | vbcast => exact vbcast_back _ _ _
  | vextr => exact vextr_back _ _ _
  | vfromm => exact vfromm_back _ _ _
  | vtom => exact vtom_back _ _ _
  | viota => exact viota_back _ _
  | vosm => exact vosm_back _ _ _ _
  | vlse => exact vlse_back _ _ _ _
  | vdefer => exact vdefer_back _ _ _ _
  | vconf => exact vconf_back _ _ _ _
  | mand => exact mand_back _ _ _ _
  | mor => exact mor_back _ _ _ _
  | mxor => exact mxor_back _ _ _ _
  | mandn => exact mandn_back _ _ _ _
  | mnot => exact mnot_back _ _ _
  | msetl => exact msetl_back _ _ _
  | mcnt => exact mcnt_back _ _ _
  | mffs => exact mffs_back _ _ _
  | vld => exact vld_back _ _ _ _
  | vst => exact vst_back _ _ _ _
  | vstu => exact vstu_back _ _ _ _
  | mma => exact mma_back _ _ _
  | mmas => exact mmas_back _ _ _ _
  | mgang => exact mgang_back _ _ _ _
  | mzero => exact mzero_back _
  | mdrain => exact mdrain_back _ _ _ _
  | mcfg => exact mcfg_back _ _
  | msave => exact msave_back _ _ _
  | mload => exact mload_back _ _ _
  | ld => exact ld_back _ _ _ _ _ _
  | lds => exact lds_back _ _ _ _ _ _
  | ldAcq => exact ldAcq_back _ _ _ _ _ _
  | st => exact st_back _ _ _ _ _ _
  | stRel => exact stRel_back _ _ _ _ _ _
  | vldg => exact vldg_back _ _ _ _ _
  | vldgAcq => exact vldgAcq_back _ _ _ _ _
  | vstg => exact vstg_back _ _ _ _ _
  | vstgRel => exact vstgRel_back _ _ _ _ _
  | amoAdd => exact amoAdd_back _ _ _ _ _
  | amoAnd => exact amoAnd_back _ _ _ _ _
  | amoOr => exact amoOr_back _ _ _ _ _
  | amoXor => exact amoXor_back _ _ _ _ _
  | amoMin => exact amoMin_back _ _ _ _ _
  | amoMax => exact amoMax_back _ _ _ _ _
  | amoMinu => exact amoMinu_back _ _ _ _ _
  | amoMaxu => exact amoMaxu_back _ _ _ _ _
  | amoSwap => exact amoSwap_back _ _ _ _ _
  | amoCas => exact amoCas_back _ _ _ _ _
  | amoFadd => exact amoFadd_back _ _ _ _ _
  | plnstOr => exact plnstOr_back _ _ _
  | plnstAnd => exact plnstAnd_back _ _ _
  | fence => exact fence_back _ _
  | fencex => exact fencex_back _ _ _ _
  | publ => exact publ_back _ _
  | cflush => exact cflush_back _ _
  | cinv => exact cinv_back _ _
  | cpref => exact cpref_back _ _ _ _
  | ntld => exact ntld_back _ _ _ _
  | ntlock => exact ntlock_back _ _
  | ntunl => exact ntunl_back _ _
  | cpy => exact cpy_back _ _ _ _
  | cpy2d => exact cpy2d_back _ _ _ _
  | gath => exact gath_back _ _ _ _
  | scat => exact scat_back _ _ _ _
  | wtany => exact wtany_back _ _ _
  | wtall => exact wtall_back _ _ _
  | ffrdy => exact ffrdy_back _ _ _
  | tagclr => exact tagclr_back _ _
  | pxhash => exact pxhash_back _ _ _
  | pxlook => exact pxlook_back _ _ _
  | pxpin => exact pxpin_back _ _ _
  | pxunpin => exact pxunpin_back _ _ _
  | pxseal => exact pxseal_back _ _ _
  | pxalloc => exact pxalloc_back _ _ _
  | pxlease => exact pxlease_back _ _ _
  | pxprom => exact pxprom_back _ _ _
  | kmerge => exact kmerge_back _ _ _
  | bfill => exact bfill_back _ _ _
  | bfwait => exact bfwait_back _ _
  | plan => exact plan_back _ _ _
  | pxfetch => exact pxfetch_back _ _ _
  | pxrepl => exact pxrepl_back _ _ _
  | kvld => exact kvld_back _ _ _ _
  | kvst => exact kvst_back _ _ _ _
  | rld => exact rld_back _ _ _
  | rst => exact rst_back _ _ _
  | ramo => exact ramo_back _ _ _
  | charter => exact charter_back _ _ _
  | castoff => exact castoff_back _ _ _
  | laneq => exact laneq_back _ _ _
  | cNop => exact cNop_back
  | cMv => exact cMv_back _ _
  | cLi => exact cLi_back _ _
  | cAddi => exact cAddi_back _ _
  | cAdd => exact cAdd_back _ _
  | cSub => exact cSub_back _ _
  | cAnd => exact cAnd_back _ _
  | cOr => exact cOr_back _ _
  | cXor => exact cXor_back _ _
  | cSlli => exact cSlli_back _ _
  | cSrli => exact cSrli_back _ _
  | cSrai => exact cSrai_back _ _
  | cBr => exact cBr_back _
  | cBt => exact cBt_back _ _
  | cBf => exact cBf_back _ _
  | _ => exact step_back rfl

/-! ### Bytes (R4, R16, R17) -/

theorem leNat_leBytes (n v : Nat) : leNat (leBytes n v) = v % 256 ^ n := by
  induction n generalizing v with
  | zero => exact (Nat.mod_one v).symm
  | succ n ih =>
    have hb : (BitVec.ofNat 8 v).toNat = v % 256 := BitVec.toNat_ofNat v 8
    rw [leBytes, leNat, ih, hb, Nat.pow_succ', Nat.mod_mul]

/-- A number that fits comes back from its bytes. -/
theorem leNat_four {v : Nat} (h : v < 4294967296) : leNat (leBytes 4 v) = v := (leNat_leBytes 4 v).trans (Nat.mod_eq_of_lt h)

/-- The bytes of an encoding of the right size hold it. -/
theorem encOfBytes_toBytes {e : Enc} (h : sized e) : encOfBytes e.toBytes = .ok e := by
  cases e with
  | parcel p =>
    obtain ⟨hp, h0⟩ := h
    have e2 : leNat (leBytes 2 p) = p := (leNat_leBytes 2 p).trans (Nat.mod_eq_of_lt hp)
    simp only [leBytes] at e2
    simp only [Enc.toBytes, leBytes, encOfBytes, e2, h0, if_true]
  | word w m =>
    obtain ⟨hw, h1, h2⟩ := h
    have e2 := leNat_leBytes 2 w
    have e4 := leNat_four hw
    simp only [leBytes] at e2 e4
    have p1 : ¬ w % 256 ^ 2 % 2 = 0 := by omega
    have p2 : w % 256 ^ 2 / 2 % 2 = w / 2 % 2 := by omega
    cases m with
    | none => simp only [Enc.toBytes, leBytes, encOfBytes, e2, e4, p1, p2, h2, if_false, Option.isSome_none, Bool.toNat_false, if_true]
    | some m =>
      obtain ⟨v, hv, rfl⟩ : ∃ v, v < 4294967296 ∧ m = BitVec.ofNat 32 v :=
        ⟨m.toNat, m.isLt, BitVec.eq_of_toNat_eq (by simp)⟩
      have em := leNat_four hv
      simp only [leBytes] at em
      simp only [Enc.toBytes, BitVec.toNat_ofNat, Nat.mod_eq_of_lt hv, leBytes, List.cons_append, List.nil_append, encOfBytes,
        e2, e4, em, p1, p2, h2, if_false, Option.isSome_some, Bool.toNat_true, Nat.one_ne_zero]

theorem decode_of_fields {i : Instr} {e : Enc} (h : decodeFields e = .ok i) (hw : i.wf = true) : decode e = .ok i := by
  simp only [decode, h, hw, if_true]

/-- Settles O49: the fields decode by the instruction's format (`decodesBack`), and the bytes hold the encoding (`encOfBytes_toBytes`). -/
theorem decodeEncode : Obligations.DecodeEncode := by
  intro i e hw he
  obtain ⟨hd, hs⟩ := decodesBack i hw e he
  have hi := decode_of_fields hd hw
  refine ⟨hi, ?_⟩
  simp only [decodeBytes, encOfBytes_toBytes hs, hi]

/-! ### Words written out -/

theorem not_ok {bs : List Byte} {r : Reject} (h : decodeBytes bs = .error r) (i : Instr) : decodeBytes bs ≠ .ok i := fun h' =>
  nomatch h.symm.trans h'

/-- Settles O51: each word is evaluated, and each reserved one ends in a rejection. -/
theorem decodeWords : Obligations.DecodeWords :=
  ⟨rfl, rfl, rfl, rfl, rfl, rfl, rfl, rfl, rfl, rfl, rfl, rfl, rfl, rfl, rfl, rfl, rfl, rfl, rfl, rfl, rfl, rfl, rfl, rfl, rfl, rfl, rfl,
    not_ok rfl, not_ok rfl, not_ok rfl, not_ok rfl, not_ok rfl⟩

end Sys2Proof.Encoding
end

section
/-!
PROOFS. The scalar instructions on registers send exactly the result of their row into flight (O1).

Every row is an `issue` whose meaning is one landing result, of a value that depends on the general registers and predicates alone; so
`issue_lands` gives all of them at once.
-/
set_option Elab.async false
namespace Sys2Proof.Machine
open Sys2Proof

/-- What the shared issue knows of a scalar instruction on registers: beside its common fields only what it reads, writes and records. -/
def scalarSpec (x : Ctl) (short : Bool) (lat : Nat) (gs : List Reg) (ps : List PReg) (gd : List Reg) (pd : List PReg) (cls : ClassUse)
    (enc : Option Enc) : Spec :=
  { x := x, short := short, minLat := lat, gsrc := gs, psrc := ps, gdst := gd, pdst := pd, cls := cls, enc := enc }

/-- The meaning of every scalar row is one landing result. -/
theorem scalarRow_exec {i : Instr} {x : Ctl} {short : Bool} {lat : Nat} {r : Seq → Result} (h : Rules.ScalarRow i x short lat r) :
    ∃ gs ps gd pd cls enc, ∀ s, exec i s =
      issue (scalarSpec x short lat gs ps gd pd cls enc) (fun cx s => .land cx s [r (s.seq cx.who)]) s := by
  cases h <;> exact ⟨_, _, _, _, _, _, fun _ => rfl⟩

/-- The result of a scalar row depends on the general registers and the predicates alone. -/
theorem scalarRow_regs {i : Instr} {x : Ctl} {short : Bool} {lat : Nat} {r : Seq → Result} (h : Rules.ScalarRow i x short lat r)
    {v w : Seq} (e : v.sameRegs w) : r w = r v := by
  obtain ⟨hg, hp, _, _⟩ := e
  have eg : w.rg = v.rg := by funext a; simp only [Seq.rg, hg]
  have ep : w.rp = v.rp := by funext a; simp only [Seq.rp, hp]
  cases h <;> simp only [eg, ep]

/-- Settles O1: the meaning sends the row's result of the registers as they were before the tokens were taken. -/
theorem scalarResults : Obligations.ScalarResults := by
  intro i x short lat r h s hs
  obtain ⟨gs, ps, gd, pd, cls, enc, he⟩ := scalarRow_exec h
  rw [he s]
  refine issue_lands (sp := scalarSpec x short lat gs ps gd pd cls enc) (nb := 0) (m := false) (p := true) hs rfl rfl rfl rfl (fun _ _ => rfl) ?_
  have hr : r ((s.popped x).seq s.turn) = r s.mine := scalarRow_regs h (popped_seq s x).2
  rw [← hr]
  rfl

end Sys2Proof.Machine
end

section
/-!
PROOFS. Branches, calls, BRK, LCUT and C.NOP (O4), and BLK (O5).

Each row is an `issue` whose meaning gives the row's effect once the tokens are taken, so `completes_of` applies. BRK and LCUT also
write the class of the count that they clear (R348), which a row does not name: `completes_class`.
-/
set_option Elab.async false
namespace Sys2Proof.Machine
open Sys2Proof Sys2Proof.Rules

/-! ### Two updates -/

theorem modCore_modCore (s : State) (c : CoreId) (f g : Core → Core) : (s.modCore c f).modCore c g = s.modCore c fun k => g (f k) := by
  have h : (s.modCore c f).core c = f (s.core c) := core_modCore s c f
  simp only [State.modCore] at h ⊢
  rw [h]
  simp only [State.setCore, Vector.set_set]

theorem core_modSeq_modSeq (k : Core) (q : Sq) (f g : Seq → Seq) : (k.modSeq q f).modSeq q g = k.modSeq q fun v => g (f v) := by
  cases q <;> rfl

theorem modSeq_modSeq (s : State) (w : Who) (f g : Seq → Seq) : (s.modSeq w f).modSeq w g = s.modSeq w fun v => g (f v) := by
  unfold State.modSeq
  rw [modCore_modCore]
  simp only [core_modSeq_modSeq]

/-! ### What a row does not name -/

/-- A change of the sequencer that leaves its registers and its control may come beside the effect. -/
theorem State.Does.of_modSeq {s e t : State} {x : Ctl} {k : Control} {g : Seq → Seq}
    (hr : (e.seq s.turn).sameRegs (g (e.seq s.turn))) (hc : (g (e.seq s.turn)).ctl = (e.seq s.turn).ctl)
    (h : s.Does x (e.modSeq s.turn g) k t) : s.Does x e k t := by
  obtain ⟨hf, hk, hm, hb⟩ := h
  refine ⟨(modSeq_follows e s.turn g hr).trans hf, hk, fun h1 h2 h3 => hm h1 h2 ?_, hb⟩
  rw [seq_modSeq, noLoop_iff, hc, ← noLoop_iff]
  exact h3

theorem flowControl_ctl {v w : Seq} (h : v.ctl = w.ctl) (cx : Cx) (f : Flow) : flowControl cx v f = flowControl cx w f := by
  cases f <;> simp only [flowControl, h]

/-- What comes before an instruction's accesses leaves the turn. -/
theorem Effect.start_turn (f : Effect) (s : State) : (f.start s).turn = s.turn :=
  ((settleFor_settles s _ _).trans (foldl_settles _ (fun s k => (foundOnDie_aside s k).settles) _ _)).turn

/-- An effect stands where the meaning also changes something of the sequencer that is neither a register nor control. -/
theorem completes_beside {f : Effect} {i : Instr} (g : Seq → Seq) (hr : ∀ v : Seq, v.sameRegs (g v)) (hc : ∀ v, (g v).ctl = v.ctl)
    (h : { f with gives := fun cx s => (f.gives cx s).modSeq cx.who g }.completes i) : f.completes i := by
  intro s hs hcl hk hw
  obtain ⟨t, he, hset, hd⟩ := h s hs hcl hk hw
  refine ⟨t, he, hset, State.Does.of_modSeq (hr _) (hc _) (k := _) ?_⟩
  have e : ∀ u : State, flowControl (f.cx s) ((u.modSeq s.turn g).seq s.turn) = flowControl (f.cx s) (u.seq s.turn) := fun u =>
    funext fun fl => flowControl_ctl (by rw [seq_modSeq, hc]) _ fl
  rw [← e]
  exact hd

/-- The class of a count is neither a register nor control. -/
theorem completes_class {f : Effect} {i : Instr} (d : Nat) (c : RegClass)
    (h : { f with gives := fun cx s => (f.gives cx s).modSeq cx.who fun v => v.setLcclass d c }.completes i) : f.completes i :=
  completes_beside _ (fun v => by unfold Seq.setLcclass; split <;> exact ⟨rfl, rfl, rfl, rfl⟩)
    (fun v => by unfold Seq.setLcclass; split <;> rfl) h

/-! ### Branches -/

/-- What the shared issue knows of an instruction is what its row says. -/
def Effect.shares (f : Effect) (sp : Spec) : Prop :=
  sp.x = f.x ∧ sp.short = f.short ∧ sp.minLat = f.lat ∧ sp.issuers = f.qs ∧ sp.acc = f.acc ∧ sp.rel = f.rel ∧ sp.onDie = f.onDie

/-- An instruction whose meaning, its tokens taken, gives the row's effect; what may hold it or make it ILLEGAL is in the row's `clear`. -/
theorem completes_clear {f : Effect} {i : Instr} (sp : Spec) (body : Cx → State → Act) (he : ∀ s, exec i s = issue sp body s)
    (hi : ∀ s, f.clear s → sp.illegal (s.context f.spec) s = false ∧ sp.waits (s.context f.spec) s = false)
    (hb : ∀ (p : State) (cx : Cx), cx.who = p.turn → f.when cx p → ∃ q, body cx p = .done (f.gives cx p) (f.flow cx p) q)
    (hx : f.shares sp := by exact ⟨rfl, rfl, rfl, rfl, rfl, rfl, rfl⟩) : f.completes i :=
  completes_of (fun _ => sp) (fun _ => body) he (fun _ => hx) (fun s _ hc => hi s hc) fun _ p cx hw _ _ hk => hb p cx hw hk

/-- One that nothing of its own holds. -/
theorem completes_meaning {f : Effect} {i : Instr} (sp : Spec) (body : Cx → State → Act) (he : ∀ s, exec i s = issue sp body s)
    (hb : ∀ (p : State) (cx : Cx), cx.who = p.turn → f.when cx p → ∃ q, body cx p = .done (f.gives cx p) (f.flow cx p) q)
    (hx : f.shares sp := by exact ⟨rfl, rfl, rfl, rfl, rfl, rfl, rfl⟩) (hi : ∀ cx s, sp.illegal cx s = false := by exact fun _ _ => rfl)
    (hw : ∀ cx s, sp.waits cx s = false := by exact fun _ _ => rfl) : f.completes i :=
  completes_clear sp body he (fun _ _ => ⟨hi _ _, hw _ _⟩) hb hx

theorem branch_taken {cx : Cx} {s : State} {t : Word} {stays : Bool} (rs : List Result) (h : s.branchOk cx t stays = true) :
    Act.branch cx s t stays rs = .done (linked cx s rs) (.jump t) false := if_pos h

theorem branchReg_taken {cx : Cx} {s : State} {t : Word} {stays : Bool} (rs : List Result) (h0 : t.getLsbD 0 = false)
    (h : s.branchOk cx t stays = true) : Act.branchReg cx s t stays rs = .done (linked cx s rs) (.jump t) false := by
  rw [Act.branchReg, h0, if_neg Bool.false_ne_true, branch_taken rs h]

theorem seq_who {cx : Cx} {s : State} (h : cx.who = s.turn) : s.seq cx.who = s.mine := by rw [h]; rfl

/-- A predicate that differs from `n` takes the branch. -/
theorem cond_taken {cx : Cx} {s : State} {p : PReg} {n : Bool} {a b : Act} (hw : cx.who = s.turn) (h : s.mine.rp p = !n) :
    (if (s.seq cx.who).rp p != n then a else b) = a := by
  rw [seq_who hw, h]; cases n <;> rfl

theorem cond_untaken {cx : Cx} {s : State} {p : PReg} {n : Bool} {a b : Act} (hw : cx.who = s.turn) (h : s.mine.rp p = n) :
    (if (s.seq cx.who).rp p != n then a else b) = b := by
  rw [seq_who hw, h]; cases n <;> rfl

/-- A taken branch to a register's value. -/
theorem branchReg_done {cx : Cx} {s : State} {a : Reg} {stays : Bool} (rs : List Result) (hw : cx.who = s.turn)
    (h : branchesTo a stays cx s) :
    Act.branchReg cx s ((s.seq cx.who).rg a) stays rs = .done (linked cx s rs) (.jump (s.mine.rg a)) false := by
  rw [seq_who hw]
  exact branchReg_taken rs h.1 h.2

/-! ### BRK and LCUT -/

theorem latchEngerr_seq (c : Core) (n : Nat) (t : BitVec 6) (code det : Nat) (va : Word) (q : Sq) :
    (c.latchEngerr n t code det va).seq q = c.seq q := by
  unfold Core.latchEngerr; dsimp only; split <;> cases q <;> rfl

/-- A command that completes leaves the blocks. -/
theorem completeCmd_blocks (c : Core) (me : CoreId) (n : Nat) (k : Cmd) (code fl det : Nat) (va : Word) (q : Sq) :
    ((c.completeCmd me n k code fl det va).seq q).blocks = (c.seq q).blocks := by
  have latched : ∀ c : Core, (c.latchEvents.seq q).blocks = (c.seq q).blocks := by intro c; cases q <;> rfl
  unfold Core.completeCmd
  dsimp only
  split
  · rw [latched, latchEngerr_seq]; cases q <;> rfl
  · refine Eq.trans (b := (Core.seq (Core.latchEvents _) q).blocks) (by cases q <;> rfl) ?_
    rw [latched, latchEngerr_seq]; cases q <;> rfl

theorem cancelled_blocks (s : State) : ((cancelled s).seq s.turn).blocks = s.mine.blocks := by
  unfold cancelled State.seq
  rw [core_modCore]
  exact foldl_keeps (fun c : Core => (c.seq s.turn.sq).blocks = s.mine.blocks) _
    (fun c k h => (completeCmd_blocks _ _ _ _ _ _ _ _ _).trans h) _ _ rfl

/-- Where a block is active, BRK and LCUT end it. -/
theorem endInnermost_cons {s : State} {w : Who} {b : Block} {bs : List Block} (h : (s.seq w).blocks = b :: bs) :
    endInnermost s w = some
      ((s.modSeq w fun v => { v.setLc bs.length 0 with blocks := bs }).modSeq w fun v => v.setLcclass bs.length .clean, b.stop) := by
  unfold endInnermost
  rw [h]
  dsimp only
  rw [modSeq_modSeq]
  have hb : ∀ v : Seq, ({ v.setLc bs.length 0 with blocks := bs } : Seq).setLcclass bs.length .clean
      = { (v.setLc bs.length 0).setLcclass bs.length .clean with blocks := bs } := by
    intro v; unfold Seq.setLcclass; split <;> rfl
  simp only [hb]

theorem endInnermost_nil {s : State} {w : Who} (h : (s.seq w).blocks = []) : endInnermost s w = none := by
  unfold endInnermost
  rw [h]

/-- What LCUT cancels, for any sequencer. -/
def cutQueued (w : Who) (s : State) : State :=
  s.modCore w.core fun c =>
    ((s.core w.core).cmds.filter fun k => k.sq == w.sq && k.phase == .queued).foldl
      (fun c k => c.completeCmd w.core s.cycle k codeCancelled 0 0 0) c

theorem cutQueued_turn (s : State) : cutQueued s.turn s = cancelled s := rfl

theorem execLcut_eq (x : Ctl) (s : State) :
    execLcut x s = issue { x := x, tape := .abandon, enc := encode (.lcut x) }
      (fun cx s =>
        match endInnermost (cutQueued cx.who s) cx.who with
        | none => .done (cutQueued cx.who s) .next false
        | some (u, e) => .done u (.reach e) false) s := rfl

/-- Settles O4: each row's meaning, its tokens taken, gives the row's effect; the class that BRK and LCUT also write is none of it. -/
theorem controlFlow : Obligations.ControlFlow := by
  intro i f h
  cases h
  case bt p o x =>
    refine completes_meaning _ _ (fun _ => rfl) ?_
    intro s cx hw ⟨hp, hb⟩
    exact ⟨_, (cond_taken hw hp).trans (branch_taken [] hb)⟩
  case btNot p o x =>
    refine completes_meaning _ _ (fun _ => rfl) ?_
    intro s cx hw hp
    exact ⟨_, cond_untaken hw hp⟩
  case bf p o x =>
    refine completes_meaning _ _ (fun _ => rfl) ?_
    intro s cx hw ⟨hp, hb⟩
    exact ⟨_, (cond_taken hw hp).trans (branch_taken [] hb)⟩
  case bfNot p o x =>
    refine completes_meaning _ _ (fun _ => rfl) ?_
    intro s cx hw hp
    exact ⟨_, cond_untaken hw hp⟩
  case cBt p o =>
    refine completes_meaning _ _ (fun _ => rfl) ?_
    intro s cx hw ⟨hp, hb⟩
    exact ⟨_, (cond_taken hw hp).trans (branch_taken [] hb)⟩
  case cBtNot p o =>
    refine completes_meaning _ _ (fun _ => rfl) ?_
    intro s cx hw hp
    exact ⟨_, cond_untaken hw hp⟩
  case cBf p o =>
    refine completes_meaning _ _ (fun _ => rfl) ?_
    intro s cx hw ⟨hp, hb⟩
    exact ⟨_, (cond_taken hw hp).trans (branch_taken [] hb)⟩
  case cBfNot p o =>
    refine completes_meaning _ _ (fun _ => rfl) ?_
    intro s cx hw hp
    exact ⟨_, cond_untaken hw hp⟩
  case j o x =>
    refine completes_meaning _ _ (fun _ => rfl) ?_
    intro s cx hw hb
    exact ⟨_, branch_taken [] hb⟩
  case call o x =>
    refine completes_meaning _ _ (fun _ => rfl) ?_
    intro s cx hw hb
    exact ⟨_, branch_taken [.g 31 cx.next] hb⟩
  case cBr o =>
    refine completes_meaning _ _ (fun _ => rfl) ?_
    intro s cx hw hb
    exact ⟨_, branch_taken [] hb⟩
  case jr a x =>
    refine completes_meaning _ _ (fun _ => rfl) ?_
    intro s cx hw hb
    exact ⟨_, branchReg_done [] hw hb⟩
  case callr d a x =>
    refine completes_meaning _ _ (fun _ => rfl) ?_
    intro s cx hw hb
    exact ⟨_, branchReg_done [.g d cx.next] hw hb⟩
  case ret a x =>
    refine completes_meaning _ _ (fun _ => rfl) ?_
    intro s cx hw hb
    exact ⟨_, branchReg_done [] hw hb⟩
  case cNop  =>
    refine completes_meaning _ _ (fun _ => rfl) ?_
    exact fun _ _ _ _ => ⟨_, rfl⟩
  case brk b bs x =>
    refine completes_class bs.length .clean (completes_meaning _ _ (fun _ => rfl) ?_)
    intro s cx hw hb
    have hb' : (s.seq s.turn).blocks = b :: bs := hb
    refine ⟨false, ?_⟩
    simp only [hw, endInnermost_cons hb']
  case lcutOut x =>
    refine completes_meaning _ _ (execLcut_eq x) ?_
    intro s cx hw hb
    have hb' : ((cancelled s).seq s.turn).blocks = [] := (cancelled_blocks s).trans hb
    refine ⟨false, ?_⟩
    simp only [hw, cutQueued_turn, endInnermost_nil hb']
  case lcut b bs x =>
    refine completes_class bs.length .clean (completes_meaning _ _ (execLcut_eq x) ?_)
    intro s cx hw hb
    have hb' : ((cancelled s).seq s.turn).blocks = b :: bs := (cancelled_blocks s).trans hb
    refine ⟨false, ?_⟩
    simp only [hw, cutQueued_turn, endInnermost_cons hb']

/-! ### BLK -/

theorem rlc_setLc (v : Seq) {d : Nat} (n : BitVec 32) (h : d < 3) : (v.setLc d n).rlc d = n := by
  simp [Seq.setLc, Seq.rlc, h]

theorem setLcclass_rlc (v : Seq) (d e : Nat) (c : RegClass) : (v.setLcclass d c).rlc e = v.rlc e := by
  unfold Seq.setLcclass
  split <;> rfl

theorem setLcclass_blocks (v : Seq) (d : Nat) (c : RegClass) : (v.setLcclass d c).blocks = v.blocks := by
  unfold Seq.setLcclass
  split <;> rfl

/-- The sequencer in which BLK reads the count of depth `d`: one of REP is set there, with its class. -/
def counted (r : BitVec 7) (d : Nat) (v : Seq) : Seq :=
  if r = 0 then v else (v.setLc d (r.setWidth 32)).setLcclass d .clean

/-- What BLK does, its count read. -/
def blkAct (i : Bool) (n : BitVec 9) (d : Nat) (v : Seq) (cx : Cx) (s : State) : Act :=
  if v.rlc d = 0 then .done (s.modSeq cx.who fun _ => v) (.reach (cx.own + 4 + 2 * BitVec.ofNat 64 (n.toNat + 1))) false
  else
    .done (s.modSeq cx.who fun _ => { v with blocks := opened cx.own i n (v.rlc d).toNat v.blocks :: v.blocks, pc := cx.own + 4 })
      .set false

theorem opened_eq (own : Word) (i : Bool) (n : BitVec 9) (c : Nat) (outer : List Block) :
    opened own i n c outer = { start := own + 4, stop := own + 4 + 2 * BitVec.ofNat 64 (n.toNat + 1), interlocked := i
                               buf := if decide (1 < c) && outer.all (fun b => b.buf.isNone) then some [] else none } := by
  simp only [opened, Bool.and_eq_true, decide_eq_true_eq]

theorem execBlk_eq (i : Bool) (r : BitVec 7) (n : BitVec 9) (s : State) :
    execBlk i r n s = issue { lflow := if r = 0 then [s.mine.blocks.length] else [], enc := encode (.blk i r n) }
      (fun cx p =>
        if (p.seq cx.who).blocks.length ≥ 3 then .trap Trap.illegal
        else blkAct i n s.mine.blocks.length (counted r s.mine.blocks.length (p.seq cx.who)) cx p) s := by
  simp only [blkAct, opened_eq]
  rfl

/-- A row of BLK, from what it does after its depth is found free. -/
theorem completes_blk {f : Effect} (i : Bool) (r : BitVec 7) (n : BitVec 9)
    (hd : ∀ cx p, f.when cx p → p.mine.blocks.length < 3)
    (hb : ∀ (p : State) (cx : Cx), cx.who = p.turn → f.when cx p →
      blkAct i n p.mine.blocks.length (counted r p.mine.blocks.length p.mine) cx p = .done (f.gives cx p) (f.flow cx p) false)
    (hx : ∀ fl e, f.shares { lflow := fl, enc := e } := by exact fun _ _ => ⟨rfl, rfl, rfl, rfl, rfl, rfl, rfl⟩) :
    f.completes (.blk i r n) := by
  refine completes_of _ _ (execBlk_eq i r n) (fun _ => hx _ _) (fun _ _ _ => ⟨rfl, rfl⟩) ?_
  intro s p cx hw _ hbl hk
  refine ⟨false, ?_⟩
  rw [seq_who hw, if_neg (Nat.not_le.2 (hd cx p hk)), ← hbl]
  exact hb p cx hw hk

/-- Settles O5: the count comes from REP or from the register of BLK's depth. -/
theorem blockEntry : Obligations.BlockEntry := by
  intro i f h
  cases h with
  | rep i r n hr =>
    refine completes_blk i r n (fun _ _ h => h) ?_
    intro p cx hw (hd : p.mine.blocks.length < 3)
    have hz : r.setWidth 32 ≠ 0 := by bv_omega
    have hn : (r.setWidth 32).toNat = r.toNat := by bv_omega
    rw [counted, if_neg hr, blkAct, setLcclass_rlc, rlc_setLc _ _ hd, if_neg hz, hn, setLcclass_blocks, setLc_blocks, hw]
    rfl
  | count i n =>
    refine completes_blk i 0 n (fun _ _ h => h.1) ?_
    intro p cx hw ⟨_, hc⟩
    rw [counted, if_pos rfl, blkAct, if_neg hc, hw]
    rfl
  | skip i n =>
    refine completes_blk i 0 n (fun _ _ h => h.1) ?_
    intro p cx hw ⟨_, hc⟩
    rw [counted, if_pos rfl, blkAct, if_pos hc, hw]
    rfl

end Sys2Proof.Machine
end

section
/-!
PROOFS. The scalar scratchpad accesses: their effects (O6), and their traps (O7).
-/
set_option Elab.async false
namespace Sys2Proof.Machine
open Sys2Proof Sys2Proof.Rules

/-! ### Effects -/

/-- An address of R14 does not trap. -/
theorem spadGood {ea n : Nat} {a b : Act} (h : ea < 2 ^ 22 ∧ ea % n = 0) : (if ea ≥ 2 ^ 22 ∨ ea % n ≠ 0 then a else b) = b :=
  if_neg (by omega)

/-- Settles O6: with a good address, the meaning of each access is its row's effect. -/
theorem scratchpadAccess : Obligations.ScratchpadAccess := by
  intro i f h
  cases h with
  | sld d a z o x =>
    refine completes_clear _ _ (fun _ => rfl) (fun _ h => ⟨rfl, h⟩) ?_
    intro p cx hw (hg : spadAt p.mine a z o < 2 ^ 22 ∧ spadAt p.mine a z o % 2 ^ z.code = 0)
    refine ⟨true, ?_⟩
    rw [seq_who hw, hw]
    exact spadGood hg
  | slds d a z o x =>
    refine completes_clear _ _ (fun _ => rfl) (fun _ h => ⟨rfl, h⟩) ?_
    intro p cx hw (hg : spadAt p.mine a z o < 2 ^ 22 ∧ spadAt p.mine a z o % 2 ^ z.code = 0)
    refine ⟨true, ?_⟩
    rw [seq_who hw, hw]
    exact spadGood hg
  | sst d a z o x =>
    refine completes_clear _ _ (fun _ => rfl) (fun _ h => ⟨rfl, h⟩) ?_
    intro p cx hw (hg : spadAt p.mine a z o < 2 ^ 22 ∧ spadAt p.mine a z o % 2 ^ z.code = 0)
    refine ⟨false, ?_⟩
    rw [seq_who hw, hw]
    exact spadGood hg

/-! ### Traps -/

theorem popped_rg (s : State) (x : Ctl) (a : Reg) : ((s.popped x).seq s.turn).rg a = s.mine.rg a := by
  obtain ⟨hg, _⟩ := (popped_seq s x).2
  unfold Seq.rg
  rw [hg]

/-- An instruction without accesses whose meaning traps has no other effect. -/
theorem issue_traps {sp : Spec} {body : Cx → State → Act} {s : State} {t : Trap}
    (h : s.ready sp.x sp.short sp.minLat sp.issuers = true) (hi : sp.illegal (s.context sp) s = false)
    (hw : sp.waits (s.context sp) s = false) (ha : sp.acc = []) (hr : sp.rel = false) (ho : ∀ cx u, sp.onDie cx u = [])
    (hb : body (s.context sp) (s.popped sp.x) = .trap t) : issue sp body s = .next (s.raise s.turn t) := by
  have p1 : sp.settled s = s := by simp [Spec.settled, State.settleFor, ha, hr]
  have p2 : sp.cx s = s.context sp := by unfold Spec.cx; rw [p1]; rfl
  have p3 : sp.start s = s := by unfold Spec.start; rw [ho, p1]; rfl
  have hk : (sp.settled s).blockedFor (sp.cx s) sp = false := by simp [State.blockedFor, ha]
  rw [issue_body h hi hw hk, p2, p3, hb]

/-- A scratchpad access traps on a bad address. -/
theorem issue_spaddr {sp : Spec} {body act : Cx → State → Act} {s : State} {a : Reg} {z : Sz} {o : BitVec 5}
    (h : s.ready sp.x sp.short sp.minLat sp.issuers = true) (h2 : s.me.inTrap = false) (h3 : s.me.stop = none)
    (hi : ∀ cx u, sp.illegal cx u = false) (hw : sp.waits (s.context sp) s = false) (ha : sp.acc = []) (hr : sp.rel = false)
    (ho : ∀ cx u, sp.onDie cx u = [])
    (hg : spadEa s.mine a z o ≥ 2 ^ 22 ∨ spadEa s.mine a z o % 2 ^ z.code ≠ 0)
    (hb : ∀ cx p, body cx p = if spadEa (p.seq cx.who) a z o ≥ 2 ^ 22 ∨ spadEa (p.seq cx.who) a z o % 2 ^ z.code ≠ 0
      then .trap (Trap.spaddr (spadEa (p.seq cx.who) a z o)) else act cx p) :
    ∃ t, issue sp body s = .next t ∧ s.Stops s.turn 3 0 (BitVec.ofNat 64 (spadEa s.mine a z o)) t := by
  have hea : spadEa ((s.popped sp.x).seq (s.context sp).who) a z o = spadEa s.mine a z o :=
    congrArg (fun v : Word => v.toNat + o.toNat * 2 ^ z.code) (popped_rg s sp.x a)
  refine ⟨_, issue_traps h (hi _ _) hw ha hr ho ((hb _ _).trans (if_pos (by rw [hea]; exact hg))), ?_⟩
  rw [hea]
  have := raise_stops s s.turn (Trap.spaddr (spadEa s.mine a z o)) (ready_parts h).1 h2 h3
  have hva : BitVec.ofNat 64 (Trap.spaddr (spadEa s.mine a z o)).va = BitVec.ofNat 64 (spadEa s.mine a z o) := by
    simp [Trap.spaddr, BitVec.ofNat, Fin.ofNat]
  rwa [hva] at this

/-- Settles O7: the test of the exact address comes before the access in each of the three. -/
theorem scratchpadTraps : Obligations.ScratchpadTraps := by
  intro d a z o x s i lat hi hr h2 h3 hc hg
  rcases hi with ⟨rfl, rfl⟩ | ⟨rfl, rfl⟩ | ⟨rfl, rfl⟩
  · exact issue_spaddr hr h2 h3 (fun _ _ => rfl) hc rfl rfl (fun _ _ => rfl) hg fun _ _ => rfl
  · exact issue_spaddr hr h2 h3 (fun _ _ => rfl) hc rfl rfl (fun _ _ => rfl) hg fun _ _ => rfl
  · exact issue_spaddr hr h2 h3 (fun _ _ => rfl) hc rfl rfl (fun _ _ => rfl) hg fun _ _ => rfl

end Sys2Proof.Machine
end

section
/-!
PROOFS. MFS and MTS of every register (O9).
-/
set_option Elab.async false
namespace Sys2Proof.Machine
open Sys2Proof Sys2Proof.Rules

/-- What MFS of register `r` by sequencer `q` leaves of its core. -/
def kreadMark (q : Sq) (r : Nat) (c : Core) : Core :=
  match c.tapePhase, c.iter with
  | .recording, some { tape := some t, .. } =>
    if decide (0x48 ≤ r) && decide (r ≤ 0x4B) && q != .X then
      { c with tapes := c.tapes.set t.val { c.tapes.get t with kread := true } t.isLt } else c
  | _, _ => c

theorem readMark_eq (s : State) (r : Nat) : readMark s r = s.modCore s.turn.core (kreadMark s.turn.sq r) := by
  unfold readMark kreadMark
  simp only [Bool.and_eq_true, decide_eq_true_eq, bne_iff_ne, and_assoc] <;> rfl

theorem execMfs_eq (d : Reg) (r : BitVec 12) (x : Ctl) (s : State) :
    execMfs d r x s = issue { x := x, minLat := 1, gdst := [d], cls := mfsClass r.toNat, enc := encode (.mfs d r x)
                              illegal := fun _ _ => !sysAssigned r.toNat
                              waits := fun cx s => (r.toNat == 0 && (s.core cx.who.core).flagsPending cx.who.sq)
                                || (r.toNat == 0x108 && s.amoOut cx.who) }
      (fun cx s =>
        let u := s.modCore cx.who.core (kreadMark cx.who.sq r.toNat)
        .land cx u [.g d (BitVec.ofNat 64 (u.sysRead cx.who r.toNat))]) s := rfl

/-- The number of a register below 2^12. -/
theorem regNumber {n : Nat} (h : n < 4096) : (BitVec.ofNat 12 n).toNat = n := Nat.mod_eq_of_lt h

/-- A value that MTS takes has no bits above. -/
theorem unless_wide {n m : Nat} {a b : Act} (h : n < m) : (if n / m ≠ 0 then a else b) = b := if_neg (by simp [Nat.div_eq_of_lt h])

/-- What MTS of register `n` does for the sequencer `w`. -/
def mtsAct (d : Reg) (n : Nat) (w : Who) (s : State) : Act :=
  let v := (s.seq w).rg d
  let lo := v.setWidth 32
  if n ≤ 3 then .done (s.modSeq w fun q => (q.setLc (n - 1) lo).setLcclass (n - 1) (q.gclass d)) .next false
  else if n ≤ 0x47 then
    .done (s.modCore w.core fun c => { c with hLate := c.hLate ++ [(Fin.ofNat 8 (n - 0x40), v, s.cycle)] }) .next false
  else if n = 0x4C then
    if lo.toNat / 8 ≠ 0 then .trap Trap.illegal else .done (s.modCore w.core fun c => { c with acct := lo }) .next false
  else if n = 0x4D then
    if lo.toNat / 128 ≠ 0 then .trap Trap.illegal else .done (s.modCore w.core fun c => { c with vwb := lo }) .next false
  else if v.getLsbD 0 then .trap Trap.illegal
  else if n = 0x103 then .done (s.modCore w.core fun c => { c with trapvec := v }) .next false
  else .done (s.modCore w.core fun c => { c with epc := c.epc.set (n % 4) v (Nat.mod_lt n (by decide)) }) .next false

theorem execMts_eq (d : Reg) {r : BitVec 12} {n : Nat} (x : Ctl) (h : r.toNat = n) (s : State) :
    execMts d r x s = issue { x := x, gsrc := [d], tape := mtsTape n, enc := encode (.mts d r x)
                              illegal := fun cx s => !mtsAllowed cx.who.sq (s.core cx.who.core).inTrap n }
      (fun cx s => mtsAct d n cx.who s) s := by
  subst h
  rfl

/-- A row of MTS: its sequencer may write register `n`, and its branch gives its effect. -/
theorem completes_mts {f : Effect} (d : Reg) (x : Ctl) {r : BitVec 12} {n : Nat} (h : r.toNat = n)
    (ha : ∀ s, f.clear s → mtsAllowed s.turn.sq s.me.inTrap n = true)
    (hb : ∀ cx p, f.when cx p → mtsAct d n p.turn p = .done (f.gives cx p) (f.flow cx p) false)
    (hx : ∀ gs t e g, f.shares { x := x, gsrc := gs, tape := t, enc := e, illegal := g } := by
      exact fun _ _ _ _ => ⟨rfl, rfl, rfl, rfl, rfl, rfl, rfl⟩) : f.completes (.mts d r x) := by
  refine completes_clear _ _ (execMts_eq d x h) ?_ ?_ (hx _ _ _ _)
  · intro s hc
    exact ⟨congrArg Bool.not (ha s hc), rfl⟩
  · intro p cx hw hk
    refine ⟨false, ?_⟩
    rw [hw]
    exact hb cx p hk

/-- Settles O9: MFS by the state in which it reads; MTS by the branch of its register's number. -/
theorem systemRegisters : Obligations.SystemRegisters := by
  intro i f h
  cases h with
  | mfs d r x h =>
    refine completes_clear _ _ (execMfs_eq d r x) ?_ ?_
    · intro s ⟨h0, h1⟩
      refine ⟨by simp [h], ?_⟩
      have waits (n : Nat) (b : Bool) (e : r = BitVec.ofNat 12 n → b = false) : (r.toNat == n && b) = false := by
        by_cases hn : r.toNat = n
        · rw [e (by rw [← hn, BitVec.ofNat_toNat, BitVec.setWidth_eq]), Bool.and_false]
        · rw [beq_false_of_ne hn, Bool.false_and]
      exact (congrArg₂ or (waits 0 _ h0) (waits 0x108 _ h1)).trans rfl
    · intro p cx hw _
      refine ⟨true, ?_⟩
      simp only [hw, readMark_eq]
      rfl
  | lc d i x =>
    refine completes_mts d x (regNumber (n := 1 + i.val) (by omega)) ?_ ?_
    · intro s _
      have : 1 + i.val ≤ 3 := by omega
      simp [mtsAllowed, this]
    · intro cx p _
      rw [mtsAct, if_pos (by omega), Nat.add_sub_cancel_left]
      rfl
  | hand d i x =>
    refine completes_mts d x (regNumber (n := 0x40 + i.val) (by omega)) ?_ ?_
    · intro s (hq : s.turn.sq = .X)
      have : 0x40 + i.val ≤ 0x47 := by omega
      simp [mtsAllowed, this, hq]
    · intro cx p _
      have : Fin.ofNat 8 i.val = i := Fin.ext (Nat.mod_eq_of_lt i.isLt)
      rw [mtsAct, if_neg (by omega), if_pos (by omega), Nat.add_sub_cancel_left, this]
      rfl
  | acct d x =>
    refine completes_mts d x rfl ?_ ?_
    · intro s (hq : s.turn.sq = .C)
      simp [mtsAllowed, hq]
    · intro cx p hv
      exact unless_wide hv
  | vwb d x =>
    refine completes_mts d x rfl ?_ ?_
    · intro s (hq : s.turn.sq = .C)
      simp [mtsAllowed, hq]
    · intro cx p hv
      exact unless_wide hv
  | trapvec d x =>
    refine completes_mts d x rfl ?_ ?_
    · intro s (hq : s.turn.sq = .X)
      simp [mtsAllowed, hq]
    · intro cx p (hv : (p.mine.rg d).getLsbD 0 = false)
      exact if_neg (by rw [← State.mine, hv]; decide)
  | epc d i x =>
    refine completes_mts d x (regNumber (n := 0x110 + i.val) (by omega)) ?_ ?_
    · intro s ⟨hq, ht⟩
      have : 0x110 + i.val ≤ 0x113 := by omega
      simp [mtsAllowed, this, hq, ht]
    · intro cx p (hv : (p.mine.rg d).getLsbD 0 = false)
      have hi : (0x110 + i.val) % 4 = i.val := by omega
      rw [mtsAct, if_neg (by omega), if_neg (by omega), if_neg (by omega), if_neg (by omega), ← State.mine, hv,
        if_neg Bool.false_ne_true, if_neg (by omega)]
      simp only [hi]
  | fpstat d x =>
    refine completes_clear _ _ (fun _ => rfl) (fun _ h => ⟨rfl, h⟩) ?_
    intro p cx hw hv
    refine ⟨false, ?_⟩
    rw [seq_who hw, hw]
    exact unless_wide hv
  | atomflags d x =>
    refine completes_clear _ _ (fun _ => rfl) ?_ ?_
    · intro s ⟨hq, ho⟩
      exact ⟨by simp [State.context, hq], ho⟩
    · intro p cx hw hv
      refine ⟨false, ?_⟩
      simp only [hw]
      exact unless_wide hv
  | engerr d x =>
    refine completes_clear _ _ (fun _ => rfl) (fun _ _ => ⟨rfl, rfl⟩) ?_
    intro p cx hw (hv : p.mine.rg d = 0)
    refine ⟨false, ?_⟩
    rw [seq_who hw, hw]
    exact if_neg (not_not_intro hv)
  | derr d x =>
    refine completes_clear _ _ (fun _ => rfl) (fun _ _ => ⟨rfl, rfl⟩) ?_
    intro p cx hw (hv : p.mine.rg d = 0)
    refine ⟨false, ?_⟩
    rw [seq_who hw, hw]
    exact if_neg (not_not_intro hv)
  | rpstat d x =>
    refine completes_clear _ _ (fun _ => rfl) ?_ ?_
    · intro s (hq : s.turn.sq = .X)
      exact ⟨by simp [State.context, hq], rfl⟩
    · intro p cx hw (hv : p.mine.rg d &&& ~~~0x40000000#64 = 0)
      refine ⟨false, ?_⟩
      rw [seq_who hw, hw]
      exact if_neg (not_not_intro hv)

end Sys2Proof.Machine
end

section
/-!
PROOFS. A scalar access whose translation faults takes PAGE (O24).
-/
set_option Elab.async false
namespace Sys2Proof.Machine
open Sys2Proof Sys2Proof.Rules

/-! ### Faults -/

/-- What an instruction's spec shares with the table's row. -/
theorem spec_effect {f : Effect} {sp : Spec} (s : State)
    (hx : f.shares sp) :
    s.context sp = s.context f.spec ∧ sp.settled s = f.settled s ∧ sp.cx s = f.cx s ∧ sp.start s = f.start s := by
  obtain ⟨x1, x2, x3, _, x5, x6, x7⟩ := hx
  have hc : s.context sp = s.context f.spec := by
    unfold State.context Spec.bytes
    rw [x1, x2, x3]
    rfl
  have hs : sp.settled s = f.settled s := by
    simp only [Spec.settled, Effect.settled, hc, State.settleFor, x5, x6]
    rfl
  have hcx : sp.cx s = f.cx s := by
    unfold Spec.cx Effect.cx
    rw [hc, hs]
  refine ⟨hc, hs, hcx, ?_⟩
  unfold Spec.start Effect.start
  rw [hcx, hs, x7]

/-- An instruction whose meaning faults leaves what its walk has found, with its tokens back, and traps. -/
theorem issue_faults {f : Effect} {sp : Spec} {body : Cx → State → Act} {s u : State} {t : Trap}
    (hx : f.shares sp)
    (h : s.ready f.x f.short f.lat f.qs = true) (hi : ∀ cx u, sp.illegal cx u = false) (hw : ∀ cx u, sp.waits cx u = false)
    (hk : (f.settled s).blockedFor (f.cx s) f.spec = false) (hb : body (f.cx s) ((f.start s).popped f.x) = .fault u t) :
    issue sp body s = .next ((u.unpopped (f.start s) s.turn).raise s.turn t) := by
  obtain ⟨_, hs, hcx, hst⟩ := spec_effect s hx
  obtain ⟨x1, x2, x3, x4, x5, x6, _⟩ := hx
  have hk2 : (sp.settled s).blockedFor (sp.cx s) sp = false := by
    rw [hs, hcx]
    revert hk
    simp only [State.blockedFor, Effect.spec, x5, x6, imp_self]
  rw [issue_body (by rw [x1, x2, x3, x4]; exact h) (hi _ _) (hw _ _) hk2, hcx, hst, x1, hb]

/-! ### What decides how a core traps -/

/-- No entry is replayed, the core is not in trap mode, and no stop has begun. -/
def Core.untrapped (k : Core) : Prop := k.replayIssue = none ∧ k.inTrap = false ∧ k.stop = none

theorem Effect.start_settles (f : Effect) (s : State) : s.Settles (f.start s) :=
  (settleFor_settles s _ _).trans (foldl_settles _ (fun s k => (foundOnDie_aside s k).settles) _ _)

theorem State.Settles.untrapped {s t : State} (h : s.Settles t) (c : CoreId) (hk : (s.core c).untrapped) : (t.core c).untrapped := by
  obtain ⟨_, _, _, _, _, _, _, _, _, _, _, _, _, e⟩ := h.core c
  rw [e]
  exact hk

theorem Aside.untrapped {s t : State} (h : Aside s t) (c : CoreId) (hk : (s.core c).untrapped) : (t.core c).untrapped := by
  obtain ⟨_, _, _, _, e⟩ := h.core c
  rw [e]
  exact hk

theorem popped_untrapped (s : State) (x : Ctl) (hk : (s.core s.turn.core).untrapped) : ((s.popped x).core s.turn.core).untrapped := by
  have e : (s.popped x).core s.turn.core = (s.core s.turn.core).popTokens s.turn.sq x :=
    core_modCore s s.turn.core fun c => c.popTokens s.turn.sq x
  obtain ⟨⟨_, _, _, _, _, _, _, _, _, _, _, e2⟩, _⟩ := popTokens_own (s.core s.turn.core) s.turn.sq x
  rw [e, e2]
  exact hk

theorem unpopped_untrapped (u s : State) (w : Who) (hk : (u.core w.core).untrapped) : ((u.unpopped s w).core w.core).untrapped := by
  have e : (u.unpopped s w).core w.core = ({ u.core w.core with tokens := (s.core w.core).tokens } : Core).modSeq w.sq fun v =>
    { v with know := (s.seq w).know } :=
    core_modCore u w.core fun c : Core =>
      ({ c with tokens := (s.core w.core).tokens } : Core).modSeq w.sq fun v : Seq => { v with know := (s.seq w).know }
  rw [e]
  cases w.sq <;> exact hk

/-! ### The scalar accesses -/

/-- What comes before an access, and its tokens, leave the address register. -/
theorem start_loadEa (f : Effect) (s : State) (a : Reg) (z : Sz) (o : BitVec 3) :
    loadEa (((f.start s).popped f.x).seq s.turn) a z o = addr s a z o := by
  have ht : (f.start s).turn = s.turn := f.start_turn s
  have hs : (f.start s).mine.rg a = s.mine.rg a := by
    obtain ⟨k, e⟩ := (f.start_settles s).seqs s.turn
    simp only [State.mine, ht, e]
    rfl
  have hp := popped_rg (f.start s) f.x a
  rw [ht, hs] at hp
  simp only [loadEa, addr, hp]

/-- A scalar access whose translation faults. -/
theorem pageTrap {f : Effect} {sp : Spec} {body : Cx → State → Act} {act : Cx → State → List (Nat × Nat) → State → Act} {s u : State}
    {need : Need} {al : Bool} {a : Reg} {z : Sz} {o : BitVec 3} {p : PageFault}
    (hx : f.shares sp)
    (h : s.ready f.x f.short f.lat f.qs = true) (hi : ∀ cx u, sp.illegal cx u = false) (hw : ∀ cx u, sp.waits cx u = false)
    (hk : (f.settled s).blockedFor (f.cx s) f.spec = false) (h2 : s.me.inTrap = false) (h3 : s.me.stop = none)
    (hal : al = true → addr s a z o % 2 ^ z.code = 0)
    (ht : ((f.start s).popped f.x).translateBytes ((f.cx s).actor ((f.start s).popped f.x)) s.turn.core
      (((f.start s).popped f.x).tenOf s.turn.core) (scalarNeed need (!al) (addr s a z o) (2 ^ z.code)) (addr s a z o) (2 ^ z.code)
        = (.error p, u))
    (hb : ∀ cx q, body cx q =
      let ea := loadEa (q.seq cx.who) a z o
      if al && decide (ea % 2 ^ z.code ≠ 0) then .trap Trap.illegal
      else
        match q.translateBytes (cx.actor q) cx.who.core (q.tenOf cx.who.core) (scalarNeed need (!al) ea (2 ^ z.code)) ea (2 ^ z.code) with
        | (.error f, t) => .fault t (Trap.page f)
        | (.ok pas, t) => act cx q pas t) :
    ∃ t, issue sp body s = .next t ∧ (u.unpopped (f.start s) s.turn).Stops s.turn 6 p.det (BitVec.ofNat 64 p.va) t := by
  have hwho : (f.cx s).who = s.turn := rfl
  have hfault : body (f.cx s) ((f.start s).popped f.x) = .fault u (Trap.page p) := by
    have haligned : ¬ (al && decide (addr s a z o % 2 ^ z.code ≠ 0)) = true := by
      simp only [Bool.and_eq_true, decide_eq_true_eq, not_and, not_not]
      exact hal
    rw [hb]
    simp only [hwho, start_loadEa, haligned, ht] <;> rfl
  refine ⟨_, issue_faults hx h hi hw hk hfault, ?_⟩
  have h0 : (s.core s.turn.core).untrapped := ⟨(ready_parts h).1, h2, h3⟩
  have hturn : (f.start s).turn = s.turn := f.start_turn s
  have h4 := popped_untrapped (f.start s) f.x (by rw [hturn]; exact (f.start_settles s).untrapped _ h0)
  rw [hturn] at h4
  have h5 : (u.core s.turn.core).untrapped := by
    have := (translateBytes_aside ((f.start s).popped f.x) ((f.cx s).actor ((f.start s).popped f.x)) s.turn.core
      (((f.start s).popped f.x).tenOf s.turn.core) (scalarNeed need (!al) (addr s a z o) (2 ^ z.code)) (addr s a z o)
      (2 ^ z.code)).untrapped s.turn.core h4
    rwa [ht] at this
  obtain ⟨k1, k2, k3⟩ := unpopped_untrapped u (f.start s) s.turn h5
  exact raise_stops _ s.turn (Trap.page p) k1 k2 k3

/-- Settles O24: in each of the five the walk comes first, and its fault is the trap. -/
theorem pageTraps : Obligations.PageTraps := by
  intro d a z h o x s u i lat need al rel f e hi he hr hk h2 h3 hal ht
  subst he
  rcases hi with ⟨rfl, rfl, rfl, rfl, rfl⟩ | ⟨rfl, rfl, rfl, rfl, rfl⟩ | ⟨rfl, rfl, rfl, rfl, rfl⟩ | ⟨rfl, rfl, rfl, rfl, rfl⟩
    | ⟨rfl, rfl, rfl, rfl, rfl⟩
  all_goals exact pageTrap ⟨rfl, rfl, rfl, rfl, rfl, rfl, rfl⟩ hr (fun _ _ => rfl) (fun _ _ => rfl) hk h2 h3 hal ht fun _ _ => rfl

end Sys2Proof.Machine
end

section
/-!
PROOFS. The events of a core that its traps and results bring (O34): landing, token deadlock, trap-mode entry, and the snapshot buffer.
-/
set_option Elab.async false
namespace Sys2Proof.Machine
open Sys2Proof Sys2Proof.Rules

/-! ### Registers after a write -/

theorem vector_get_set {α : Type} {n : Nat} (v : Vector α n) (i j : Fin n) (x : α) :
    (v.set i.val x i.isLt).get j = if i = j then x else v.get j := by
  show (v.set i.val x i.isLt)[j.val] = if i = j then x else v[j.val]
  rw [Vector.getElem_set]
  simp only [Fin.ext_iff]

theorem rg_setG (v : Seq) (r n : Reg) (x : Word) : (v.setG r x).rg n = if r = n ∧ n ≠ 0 then x else v.rg n := by
  unfold Seq.setG Seq.rg
  by_cases hn : n = 0
  · simp [hn]
  · by_cases h0 : r = 0
    · simp [h0, hn, Ne.symm hn]
    · simp [h0, hn, vector_get_set]

theorem rp_setP (v : Seq) (r n : PReg) (x : Bool) : (v.setP r x).rp n = if r = n ∧ n ≠ 0 then x else v.rp n := by
  unfold Seq.setP Seq.rp
  by_cases hn : n = 0
  · simp [hn]
  · by_cases h0 : r = 0
    · simp [h0, hn, Ne.symm hn]
    · simp [h0, hn, vector_get_set]

theorem setG_rp (v : Seq) (r : Reg) (n : PReg) (x : Word) : (v.setG r x).rp n = v.rp n := by unfold Seq.rp; rw [setG_p]
theorem setP_rg (v : Seq) (r : PReg) (n : Reg) (x : Bool) : (v.setP r x).rg n = v.rg n := by unfold Seq.rg; rw [setP_g]
theorem setG_ctl (v : Seq) (r : Reg) (x : Word) : (v.setG r x).ctl = v.ctl := by simp [Seq.ctl]
theorem setP_ctl (v : Seq) (r : PReg) (x : Bool) : (v.setP r x).ctl = v.ctl := by simp [Seq.ctl]

theorem core_modSeq_seq (k : Core) (q p : Sq) (f : Seq → Seq) : (k.modSeq q f).seq p = if p = q then f (k.seq p) else k.seq p := by
  split
  case isTrue h => rw [h, modSeq_seq]
  case isFalse h => exact setSeq_seq_ne _ _ h

theorem modSeq_acc (k : Core) (q : Sq) (f : Seq → Seq) : (k.modSeq q f).acc = k.acc := by cases q <;> rfl
theorem modSeq_m (k : Core) (q : Sq) (f : Seq → Seq) : (k.modSeq q f).m = k.m := by cases q <;> rfl

/-- The bits of the bytes below `n` that `en` enables. -/
theorem enabledBits (en : Mask) (n i : Nat) (hi : i < 4096) :
    ((List.range n).foldl (fun m i => if en.getLsbD i then m ||| (0xFF#4096 <<< (8 * i)) else m) (0 : Row)).getLsbD i
      = (decide (i / 8 < n) && en.getLsbD (i / 8)) := by
  induction n with
  | zero => simp
  | succ n ih =>
    rw [List.range_succ, List.foldl_append, List.foldl_cons, List.foldl_nil]
    have hbyte : (0xFF#4096 <<< (8 * n)).getLsbD i = decide (i / 8 = n) := by
      have hff : (0xFF#4096).getLsbD (i - 8 * n) = decide (i - 8 * n < 8) := by
        rw [BitVec.getLsbD_ofNat, show 255 = 2 ^ 8 - 1 from rfl, Nat.testBit_two_pow_sub_one]
        simp only [Bool.and_eq_right_iff_imp, decide_eq_true_eq]
        omega
      rw [BitVec.getLsbD_shiftLeft, hff]
      rw [Bool.eq_iff_iff]
      simp only [hi, decide_true, Bool.true_and, Bool.and_eq_true, Bool.not_eq_true', decide_eq_false_iff_not, decide_eq_true_eq]
      omega
    split
    case isTrue h =>
      rw [BitVec.getLsbD_or, ih, hbyte]
      by_cases e : i / 8 = n
      · simp [e, h]
      · have : i / 8 < n + 1 ↔ i / 8 < n := by omega
        simp [e, this]
    case isFalse h =>
      rw [ih]
      by_cases e : i / 8 = n
      · simp [e, h]
      · have : i / 8 < n + 1 ↔ i / 8 < n := by omega
        simp [this]

theorem setRow_frame (k : Core) (n : Fin 128) (v : Row) (en : Mask) : ∃ a, k.setRow n v en = { k with acc := a } := by
  unfold Core.setRow
  split <;> exact ⟨_, rfl⟩

/-- A row after a write of its enabled bytes. -/
theorem setRow_row (k : Core) (n j : Fin 128) (v : Row) (en : Mask) (i : Nat) (hi : i < 4096) :
    ((k.setRow n v en).acc.get j).getLsbD i = if n = j ∧ en.getLsbD (i / 8) = true then v.getLsbD i else (k.acc.get j).getLsbD i := by
  have hb : i / 8 < 512 := by omega
  unfold Core.setRow
  by_cases ha : en = BitVec.allOnes 512
  · have he : en.getLsbD (i / 8) = true := by rw [ha, BitVec.getLsbD_allOnes, decide_eq_true_eq]; exact hb
    simp only [if_pos ha, vector_get_set, he, and_true]
    split <;> rfl
  · simp only [if_neg ha, vector_get_set]
    by_cases hn : n = j
    · subst hn
      simp only [if_true, true_and, BitVec.getLsbD_or, BitVec.getLsbD_and, BitVec.getLsbD_not, enabledBits en 512 i hi, hb, hi]
      cases en.getLsbD (i / 8) <;> simp
    · simp only [hn, if_false, false_and]

/-! ### What a result leaves of its core -/

/-- A core changed elsewhere takes the same result. -/
theorem Core.Takes.of_same {k l m n : Core} {q : Sq} {d : Dest} {v : Row} {en : Mask} {fl : BitVec 6} (h : l.Takes m q d v en fl)
    (hl : (∀ p, l.seq p = k.seq p) ∧ l.acc = k.acc ∧ l.m = k.m) (hm : (∀ p, n.seq p = m.seq p) ∧ n.acc = m.acc ∧ n.m = m.m) :
    k.Takes n q d v en fl := by
  obtain ⟨h1, h2, h3, h4, h5, h6⟩ := h
  obtain ⟨l1, l2, l3⟩ := hl
  obtain ⟨m1, m2, m3⟩ := hm
  simp only [← m1, ← m2, ← m3, l1, l2, l3] at h1 h2 h3 h4 h5 h6
  exact ⟨h1, h2, h3, h4, h5, h6⟩

theorem writeDest_takes (k : Core) (q : Sq) (d : Dest) (v : Row) (en : Mask) : k.Takes (k.writeDest q d v en) q d v en 0 := by
  cases d with
  | none =>
    refine ⟨?_, ?_, ?_, ?_, ?_, fun _ => rfl⟩
    all_goals intros; simp [Core.writeDest]
  | g r =>
    refine ⟨fun p n => ?_, fun p n => ?_, fun n i hi => ?_, fun n => ?_, fun p => ?_, fun p => ?_⟩
    · by_cases hp : p = q <;> simp [Core.writeDest, core_modSeq_seq, hp, rg_setG]
    · by_cases hp : p = q <;> simp [Core.writeDest, core_modSeq_seq, hp, setG_rp]
    · simp [Core.writeDest]
    · simp [Core.writeDest]
    · by_cases hp : p = q <;> simp [Core.writeDest, core_modSeq_seq, hp]
    · by_cases hp : p = q <;> simp [Core.writeDest, core_modSeq_seq, hp, setG_ctl]
  | p r =>
    refine ⟨fun p n => ?_, fun p n => ?_, fun n i hi => ?_, fun n => ?_, fun p => ?_, fun p => ?_⟩
    · by_cases hp : p = q <;> simp [Core.writeDest, core_modSeq_seq, hp, setP_rg]
    · by_cases hp : p = q <;> simp [Core.writeDest, core_modSeq_seq, hp, rp_setP]
    · simp [Core.writeDest]
    · simp [Core.writeDest]
    · by_cases hp : p = q <;> simp [Core.writeDest, core_modSeq_seq, hp]
    · by_cases hp : p = q <;> simp [Core.writeDest, core_modSeq_seq, hp, setP_ctl]
  | row n =>
    obtain ⟨_, hrow⟩ := setRow_frame k n v en
    have regs : ∀ p, (k.writeDest q (.row n) v en).seq p = k.seq p := fun p => by
      simp only [Core.writeDest, hrow]
      cases p <;> rfl
    have masks : (k.writeDest q (.row n) v en).m = k.m := by
      simp only [Core.writeDest, hrow]
    refine ⟨fun p r => ?_, fun p r => ?_, fun j i hi => ?_, fun j => ?_, fun p => ?_, fun p => by rw [regs]⟩
    · simp [regs]
    · simp [regs]
    · simp only [Dest.row.injEq]
      exact setRow_row k n j v en i hi
    · simp [masks]
    · simp [regs]
  | mask m =>
    have regs : ∀ p, (k.writeDest q (.mask m) v en).seq p = k.seq p := fun p => by cases p <;> rfl
    refine ⟨fun p r => ?_, fun p r => ?_, fun j i hi => ?_, fun j => ?_, fun p => ?_, fun p => by rw [regs]⟩
    · simp [regs]
    · simp [regs]
    · simp [Core.writeDest]
    · simp [Core.writeDest, vector_get_set]
    · simp [regs]

theorem raiseFlags_takes {k m : Core} {q : Sq} {d : Dest} {v : Row} {en : Mask} (fl : BitVec 6) (h : k.Takes m q d v en 0) :
    k.Takes (m.raiseFlags q fl) q d v en fl := by
  by_cases hf : fl = 0
  · rw [hf]
    exact h
  · obtain ⟨h1, h2, h3, h4, h5, h6⟩ := h
    rw [Core.raiseFlags, if_neg hf]
    have hfp : ∀ p, (m.seq p).fpstat = (k.seq p).fpstat := fun p => by simpa using h5 p
    refine ⟨fun p r => ?_, fun p r => ?_, fun j i hi => ?_, fun j => ?_, fun p => ?_, fun p => ?_⟩
    · rw [← h1]
      by_cases hp : p = q <;> simp [core_modSeq_seq, hp, Seq.rg]
    · rw [← h2]
      by_cases hp : p = q <;> simp [core_modSeq_seq, hp, Seq.rp]
    · rw [modSeq_acc]
      exact h3 j i hi
    · rw [modSeq_m]
      exact h4 j
    · by_cases hp : p = q <;> simp [core_modSeq_seq, hp, hfp]
    · rw [← h6]
      by_cases hp : p = q <;> simp [core_modSeq_seq, hp, Seq.ctl]

/-- A result is written and its flags are raised. -/
def Core.written (k : Core) (q : Sq) (d : Dest) (v : Row) (en : Mask) (fl : BitVec 6) : Core := (k.writeDest q d v en).raiseFlags q fl

theorem written_takes (k : Core) (q : Sq) (d : Dest) (v : Row) (en : Mask) (fl : BitVec 6) : k.Takes (k.written q d v en fl) q d v en fl :=
  raiseFlags_takes fl (writeDest_takes k q d v en)

theorem modSeq_frame (k : Core) (q : Sq) (f : Seq → Seq) : ∃ a b c d, k.modSeq q f = { k with sX := a, sL := b, sC := c, sS := d } := by
  cases q <;> exact ⟨_, _, _, _, rfl⟩

/-- Beside registers, rows and masks, a write leaves its core. -/
theorem writeDest_frame (k : Core) (q : Sq) (d : Dest) (v : Row) (en : Mask) :
    ∃ a b c e acc bad m, k.writeDest q d v en = { k with sX := a, sL := b, sC := c, sS := e, acc := acc, accBad := bad, m := m } := by
  cases d with
  | none => exact ⟨_, _, _, _, _, _, _, rfl⟩
  | g r =>
    obtain ⟨_, _, _, _, e⟩ := modSeq_frame k q fun v' => v'.setG r (v.setWidth 64)
    exact ⟨_, _, _, _, _, _, _, e⟩
  | p r =>
    obtain ⟨_, _, _, _, e⟩ := modSeq_frame k q fun v' => v'.setP r (v.getLsbD 0)
    exact ⟨_, _, _, _, _, _, _, e⟩
  | row n =>
    obtain ⟨_, e⟩ := setRow_frame k n v en
    simp only [Core.writeDest, e]
    exact ⟨_, _, _, _, _, _, _, rfl⟩
  | mask m => exact ⟨_, _, _, _, _, _, _, rfl⟩

theorem written_frame (k : Core) (q : Sq) (d : Dest) (v : Row) (en : Mask) (fl : BitVec 6) :
    ∃ a b c e acc bad m, k.written q d v en fl = { k with sX := a, sL := b, sC := c, sS := e, acc := acc, accBad := bad, m := m } := by
  obtain ⟨_, _, _, _, _, _, _, e⟩ := writeDest_frame k q d v en
  unfold Core.written Core.raiseFlags
  split
  · exact ⟨_, _, _, _, _, _, _, e⟩
  · obtain ⟨_, _, _, _, e2⟩ := modSeq_frame (k.writeDest q d v en) q fun k => { k with fpstat := k.fpstat ||| fl.setWidth 32 }
    rw [e2, e]
    exact ⟨_, _, _, _, _, _, _, rfl⟩

/-! ### Landing -/

theorem yield_ins (f g : Flight) : (f.yield g).ins = g.ins := by
  unfold Flight.yield Flight.without
  split
  · split <;> rfl
  · rfl

/-- The other results in flight, once `f` has left them. -/
def Core.others (k : Core) (f : Flight) : List Flight := (k.flights.filter fun g => g.id != f.id).map f.yield

theorem others_mate {k : Core} {f : Flight} :
    (k.others f).find? (fun g => g.ins == f.ins) = none ↔ ∀ g ∈ k.flights, g.id ≠ f.id → g.ins ≠ f.ins := by
  simp only [Core.others, List.find?_eq_none, List.mem_map, List.mem_filter, bne_iff_ne, ne_eq, beq_iff_eq, forall_exists_index, and_imp]
  constructor
  · intro h g hg hi
    have := h (f.yield g) g hg hi rfl
    rwa [yield_ins] at this
  · intro h _ g hg hi e
    rw [← e, yield_ins]
    exact h g hg hi

/-- The entries of the snapshot buffer lose the bytes that a result writes. -/
def Core.snapYield (k : Core) (f : Flight) : Core :=
  if k.inTrap then k else { k with snap := k.snap.map fun e => if e.ins < f.ins then e.yield f.dest f.sq f.en else e }

theorem snapYield_same (k : Core) (f : Flight) :
    (∀ p, (k.snapYield f).seq p = k.seq p) ∧ (k.snapYield f).acc = k.acc ∧ (k.snapYield f).m = k.m
      ∧ (k.snapYield f).rising = k.rising := by
  unfold Core.snapYield
  split
  · exact ⟨fun _ => rfl, rfl, rfl, rfl⟩
  · exact ⟨fun p => by cases p <;> rfl, rfl, rfl, rfl⟩

theorem landFlight_eq (k : Core) (n : Nat) (f : Flight) :
    k.landFlight n f =
      match (k.others f).find? fun g => g.ins == f.ins with
      | some h =>
        ({ k.snapYield f with flights := (k.others f).map fun (g : Flight) =>
          if g.id == h.id then { g with push := f.push.or g.push, flags := g.flags ||| f.flags } else g } : Core).writeDest
            f.sq f.dest f.value f.en
      | none =>
        let c := ({ k.snapYield f with
            flights := k.others f, pend := k.pend.erase { cls := .mat, sq := f.sq, id := f.ins } } : Core).written
          f.sq f.dest f.value f.en f.flags
        match f.push with
        | some p => c.completePush f.sq p.f p.b n p.know
        | none => c := by
  unfold Core.landFlight Core.snapYield
  split <;> rfl

/-- The last result of an instruction raises its flags and completes its pushes. -/
theorem landFlight_last {k : Core} {f : Flight} (n : Nat) (h : ∀ g ∈ k.flights, g.id ≠ f.id → g.ins ≠ f.ins) :
    k.Takes (k.landFlight n f) f.sq f.dest f.value f.en f.flags ∧ (k.landFlight n f).flights = k.others f
      ∧ (k.landFlight n f).rising = k.rising ++ pushes f.sq f.push n := by
  obtain ⟨s1, s2, s3, s4⟩ := snapYield_same k f
  rw [landFlight_eq, others_mate.2 h]
  generalize hl : ({ k.snapYield f with flights := k.others f, pend := _ } : Core) = l
  have same : (∀ p, l.seq p = k.seq p) ∧ l.acc = k.acc ∧ l.m = k.m := by
    rw [← hl]
    exact ⟨fun p => by rw [← s1]; cases p <;> rfl, s2, s3⟩
  have hf : l.flights = k.others f := by rw [← hl]
  have hr : l.rising = k.rising := by rw [← hl]; exact s4
  have taken := written_takes l f.sq f.dest f.value f.en f.flags
  obtain ⟨_, _, _, _, _, _, _, frame⟩ := written_frame l f.sq f.dest f.value f.en f.flags
  have wf : (l.written f.sq f.dest f.value f.en f.flags).flights = k.others f := by rw [frame]; exact hf
  have wr : (l.written f.sq f.dest f.value f.en f.flags).rising = k.rising := by rw [frame]; exact hr
  cases hp : f.push with
  | none => exact ⟨taken.of_same same ⟨fun _ => rfl, rfl, rfl⟩, wf, by simp [wr, pushes]⟩
  | some p =>
    refine ⟨taken.of_same same ⟨fun p => by cases p <;> rfl, rfl, rfl⟩, wf, ?_⟩
    simp only [Core.completePush, wr, pushes, List.append_assoc]

/-- An earlier one leaves them to the last. -/
theorem landFlight_earlier {k : Core} {f g : Flight} (n : Nat) (hg : g ∈ k.flights) (hid : g.id ≠ f.id) (hins : g.ins = f.ins) :
    k.Takes (k.landFlight n f) f.sq f.dest f.value f.en 0 ∧ (k.landFlight n f).rising = k.rising := by
  obtain ⟨s1, s2, s3, s4⟩ := snapYield_same k f
  obtain ⟨h, hm⟩ : ∃ h, (k.others f).find? (fun g => g.ins == f.ins) = some h :=
    Option.ne_none_iff_exists'.1 fun e => others_mate.1 e g hg hid hins
  have key (l : Core) (same : (∀ p, l.seq p = k.seq p) ∧ l.acc = k.acc ∧ l.m = k.m) (hr : l.rising = k.rising) :
      k.Takes (l.writeDest f.sq f.dest f.value f.en) f.sq f.dest f.value f.en 0
        ∧ (l.writeDest f.sq f.dest f.value f.en).rising = k.rising := by
    obtain ⟨_, _, _, _, _, _, _, frame⟩ := writeDest_frame l f.sq f.dest f.value f.en
    exact ⟨(writeDest_takes l f.sq f.dest f.value f.en).of_same same ⟨fun _ => rfl, rfl, rfl⟩, by rw [frame]; exact hr⟩
  rw [landFlight_eq, hm]
  exact key _ ⟨fun p => by rw [← s1]; cases p <;> rfl, s2, s3⟩ s4

/-! ### The snapshot buffer -/

theorem landSnap_eq (k : Core) (cycle idx : Nat) (e : SnapEntry) : ∃ fs,
    k.landSnap cycle idx e =
      (({ k with snap := ((k.snap.take idx).map fun (g : SnapEntry) => g.yield e.dest e.sq e.en) ++ k.snap.drop (idx + 1), flights := fs } :
        Core).written e.sq e.dest e.value e.en e.flags).completePush e.sq e.pushF e.pushB cycle e.know := ⟨_, rfl⟩

/-- What a write with its pushes leaves of the rest. -/
theorem pushed_fields (l : Core) (q : Sq) (d : Dest) (v : Row) (en : Mask) (fl : BitVec 6) (f b : Bool) (n : Nat) (w : Know) :
    ((l.written q d v en fl).completePush q f b n w).snap = l.snap
      ∧ ((l.written q d v en fl).completePush q f b n w).rising
        = l.rising ++ (if f then [(pushF q, n, w)] else []) ++ (if b then [(pushB q, n, w)] else [])
      ∧ ((l.written q d v en fl).completePush q f b n w).derr = l.derr
      ∧ ((l.written q d v en fl).completePush q f b n w).derrva = l.derrva := by
  obtain ⟨_, _, _, _, _, _, _, frame⟩ := written_frame l q d v en fl
  rw [frame]
  exact ⟨rfl, rfl, rfl, rfl⟩

theorem pushed_takes {k l : Core} (q : Sq) (d : Dest) (v : Row) (en : Mask) (fl : BitVec 6) (f b : Bool) (n : Nat) (w : Know)
    (same : (∀ p, l.seq p = k.seq p) ∧ l.acc = k.acc ∧ l.m = k.m) :
    k.Takes ((l.written q d v en fl).completePush q f b n w) q d v en fl :=
  (written_takes l q d v en fl).of_same same ⟨fun p => by cases p <;> rfl, rfl, rfl⟩

/-- What an entry of the snapshot buffer leaves as it lands. -/
theorem landSnap_lands (k : Core) (cycle idx : Nat) (e : SnapEntry) :
    k.Takes (k.landSnap cycle idx e) e.sq e.dest e.value e.en e.flags
      ∧ (k.landSnap cycle idx e).snap = ((k.snap.take idx).map fun (g : SnapEntry) => g.yield e.dest e.sq e.en) ++ k.snap.drop (idx + 1)
      ∧ (k.landSnap cycle idx e).rising = k.rising ++ (if e.pushF then [(pushF e.sq, cycle, e.know)] else [])
          ++ (if e.pushB then [(pushB e.sq, cycle, e.know)] else [])
      ∧ (k.landSnap cycle idx e).derr = k.derr ∧ (k.landSnap cycle idx e).derrva = k.derrva := by
  obtain ⟨fs, h⟩ := landSnap_eq k cycle idx e
  rw [h]
  exact ⟨pushed_takes _ _ _ _ _ _ _ _ _ ⟨fun p => by cases p <;> rfl, rfl, rfl⟩, pushed_fields _ _ _ _ _ _ _ _ _ _⟩

theorem derrRecord_same (k : Core) (src va : Nat) :
    (∀ p, (k.derrRecord src va).seq p = k.seq p) ∧ (k.derrRecord src va).acc = k.acc ∧ (k.derrRecord src va).m = k.m
      ∧ (k.derrRecord src va).snap = k.snap ∧ (k.derrRecord src va).rising = k.rising := by
  unfold Core.derrRecord
  dsimp only
  split <;> exact ⟨fun p => by cases p <;> rfl, rfl, rfl, rfl, rfl⟩

/-! ### The events -/

theorem onlyCore_modCore (s : State) (c : CoreId) (f : Core → Core) : s.onlyCore (s.modCore c f) c := ⟨_, rfl⟩

theorem watchQuiet_cycle (s : State) : s.watchQuiet.cycle = s.cycle := by
  unfold State.watchQuiet State.mapCores
  split <;> rfl

theorem landing_exec {c : CoreId} {f : Flight} {s : State} (hf : ((s.watchQuiet.core c).flights.find? fun g => g.id == f.id) = some f)
    (hl : (s.watchQuiet.core c).mayLand s.watchQuiet.cycle f = true) :
    exec (.resultLanding c f.id) s = .next (s.watchQuiet.modCore c fun k => k.landFlight s.watchQuiet.cycle f) := by
  show execResultLanding c f.id s = _
  simp only [execResultLanding, hf, hl, if_true]

theorem tokdeadNow_parts {k : Core} {n : Nat} (h : k.tokdeadNow n = true) :
    k.stop = none ∧ k.inTrap = false ∧ k.replayFault = false := by
  simp only [Core.tokdeadNow, Bool.and_eq_true, Option.isNone_iff_eq_none, Bool.not_eq_true'] at h
  obtain ⟨⟨⟨⟨_, h1⟩, h2⟩, h3⟩, _⟩ := h
  exact ⟨h1, h2, h3⟩

/-- RPSTAT has VALID after a replay fault. -/
theorem rpstat_valid (det code q tid next : Nat) (hq : q ≤ 3) (ht : tid < 16) (hn : next < 2 ^ 20) :
    (BitVec.ofNat 64 (det * 2 ^ 40 + code * 2 ^ 32 + 2 ^ 31 + q * 2 ^ 28 + tid * 2 ^ 24 + next)).getLsbD 31 = true := by
  generalize hx : det * 2 ^ 40 + code * 2 ^ 32 + 2 ^ 31 + q * 2 ^ 28 + tid * 2 ^ 24 + next = x
  have h : x / 2 ^ 31 % 2 = 1 := by omega
  rw [BitVec.getLsbD_ofNat, Nat.testBit_eq_decide_div_mod_eq, decide_eq_true h]
  rfl

theorem tokdead_exec {c : CoreId} {q : Sq} {s : State} (hd : (s.core c).tokdeadNow s.cycle = true)
    (hq : (ring.find? fun p => !((s.core c).seq p).ended) = some q) :
    exec (.tokdead c) s = if q != .X && (s.core c).tapePhase == .replaying then
        .next (s.replayFaultOf { core := c, sq := q } { cause := .tokdead, det := 0, va := 0 })
      else .next (s.raise { core := c, sq := q } { cause := .tokdead, det := 0, va := 0 }) := by
  show execTokdead c s = _
  simp only [execTokdead, hd, hq, if_true]

theorem rpNext_lt (k : Core) (q : Sq) : k.rpNext q < 2 ^ 20 := by
  cases q with
  | X => exact Nat.two_pow_pos 20
  | L => exact Nat.mod_lt _ (Nat.two_pow_pos 20)
  | C => exact Nat.mod_lt _ (Nat.two_pow_pos 20)
  | S => exact Nat.mod_lt _ (Nat.two_pow_pos 20)

theorem sqIndex_le (q : Sq) : sqIndex q ≤ 3 := by cases q <;> decide

/-! What a replay fault that is not yet latched latches. -/

theorem replayFaultOf_replayFault (s : State) (w : Who) (t : Trap) (h : (s.core w.core).replayFault = false) :
    ((s.replayFaultOf w t).core w.core).replayFault = true := by
  have hn : ¬ (s.core w.core).replayFault = true := by simp [h]
  unfold State.replayFaultOf
  rw [core_modCore, if_neg hn]

theorem replayFaultOf_rpstat (s : State) (w : Who) (t : Trap) (h : (s.core w.core).replayFault = false) :
    ((s.replayFaultOf w t).core w.core).rpstat.getLsbD 31 = true := by
  have hn : ¬ (s.core w.core).replayFault = true := by simp [h]
  unfold State.replayFaultOf
  rw [core_modCore, if_neg hn]
  dsimp only
  refine rpstat_valid _ _ _ _ _ (sqIndex_le _) ?_ (rpNext_lt _ _)
  split
  · exact Fin.isLt _
  · decide

theorem replayFaultOf_seq (s : State) (w : Who) (t : Trap) (p : Sq) :
    ((s.replayFaultOf w t).core w.core).seq p = (s.core w.core).seq p := by
  unfold State.replayFaultOf
  by_cases h : (s.core w.core).replayFault = true
  · rw [core_modCore, if_pos h]
  · rw [core_modCore, if_neg h]
    cases p <;> dsimp only [Core.seq]

theorem replayFaultOf_only (s : State) (w : Who) (t : Trap) : s.onlyCore (s.replayFaultOf w t) w.core := by
  unfold State.replayFaultOf
  exact onlyCore_modCore _ _ _

theorem snapshotLand_exec {c : CoreId} {n : Nat} {e : SnapEntry} {s : State} (he : (s.core c).snap[n]? = some e)
    (ht : (s.core c).inTrap = false) (hc : (s.core c).captured s.cycle = false) (hd : (s.core c).resumeAt - 1 + e.off ≤ s.cycle) :
    exec (.snapshotLand c n) s = if e.bad then
        .next ((s.foundOnDie n).modCore c fun k => (k.derrRecord 6 0).landSnap s.cycle n { e with value := 0, flags := 0 })
      else .next (s.modCore c fun k => k.landSnap s.cycle n e) := by
  have hdue : ¬ s.cycle < (s.core c).snapDue e := Nat.not_lt.2 hd
  show execSnapshotLand c n s = _
  simp only [execSnapshotLand, he, ht, hc, hdue, decide_false, Bool.or_self, Bool.false_eq_true, if_false]

/-! ### Trap-mode entry -/

theorem setCore_self (s : State) (c : CoreId) : s.setCore c (s.core c) = s := by
  have h : s.cores.set c.val (s.core c) c.isLt = s.cores := Vector.set_getElem_self c.isLt
  unfold State.setCore
  rw [h]

theorem modCore_self {s : State} {c : CoreId} {f : Core → Core} (h : f (s.core c) = s.core c) : s.modCore c f = s := by
  unfold State.modCore
  rw [h, setCore_self]

theorem settled_drained {s : State} {k : Core} {p : Stop} (h : settled s k p) : k.drained = true := by
  obtain ⟨_, _, h1, h2, h3, h4⟩ := h
  simp only [Core.drained, h1, h2, h3, List.isEmpty_nil, Bool.true_and, List.all_eq_true, Option.isSome_iff_ne_none]
  exact h4

/-- TRAPCAUSE at a trap's entry. -/
def entryCause (p : Stop) : BitVec 32 :=
  BitVec.ofNat 32 (2 ^ 31 + p.det.toNat * 2 ^ 12 + (if p.cause.toNat = Cause.replay.code then 0 else sqIndex p.sq) * 2 ^ 8 + p.cause.toNat)

theorem entryCause_eq {p : Stop} (h : p.cause ≠ 13) : entryCause p = causeWord p.det.toNat (sqIndex p.sq) p.cause.toNat := by
  have hc : ¬ p.cause.toNat = Cause.replay.code := fun e => h (BitVec.eq_of_toNat_eq e)
  unfold entryCause causeWord
  rw [if_neg hc]

/-- Whether a latched replay fault stays after the entry. -/
def Core.faultLeft (k : Core) (p : Stop) : Bool := k.replayFault && !(p.cause.toNat == Cause.replay.code)

/-- A core in trap mode, its results in flight in the snapshot buffer. -/
def Core.entered (p : Stop) (k : Core) : Core :=
  let x := k.sX
  let k := { k with
    gang := none, preempt := k.preempt.map fun (p : PreReq) => { p with capture := none }
    xsave := { g := x.g, p := x.p, lc := x.lc, fpstat := x.fpstat, blocks := x.blocks, ended := x.ended }
    trapcause := entryCause p, trapva := p.va, stop := none, replayFault := k.faultLeft p
    epc := #v[k.epcOf .X, k.epcOf .L, k.epcOf .C, k.epcOf .S] }
  let k := k.modSeqs fun _ v => { v with since := none, wait := .none, tried := 0 }
  k.modSeq .X fun v => { v with blocks := [], pc := k.trapvec, ended := false, lastSafe := none }

theorem trapModeEntry_exec {s : State} {c : CoreId} {p : Stop} (h : settled s (s.core c) p) :
    exec (.trapModeEntry c) s =
      if (s.core c).trapvec = 0 then
        .next ((s.modCore c fun k =>
          { k with trapcause := entryCause p, trapva := p.va, replayFault := k.faultLeft p }).endIteration
            c statusFault (entryCause p) p.va)
      else .next ((s.capture c p.cycle).modCore c (Core.entered p)) := by
  have hstop := h.1
  have hdr : (s.core c).drained = true := settled_drained h
  have hcy : p.cycle < s.cycle := h.2.1
  have hself : (s.modCore c fun k => { k with stop := some p }) = s := modCore_self (hstop ▸ rfl)
  show execTrapModeEntry c s = _
  unfold execTrapModeEntry
  simp only [hstop, Option.isNone_some, Bool.false_eq_true, if_false, hself, hdr, hcy, decide_true, Bool.and_self, Bool.not_true]
  rfl

theorem toSnapshot_length (n : Nat) :
    ∀ (fs : List Flight) (free : Nat), (∀ f ∈ fs, f.bound ≠ none) → (toSnapshot n fs free).1.length = fs.length
  | [], _, _ => rfl
  | f :: fs, free, h => by
    obtain ⟨b, hb⟩ := Option.ne_none_iff_exists'.1 (h f List.mem_cons_self)
    unfold toSnapshot
    simp only [hb, List.length_cons, toSnapshot_length n fs _ fun g hg => h g (List.mem_cons_of_mem f hg)]

theorem settleLast_length (es : List SnapEntry) : (settleLast es).length = es.length := by simp [settleLast]

/-- A core whose results in flight have gone to its snapshot buffer. -/
def Core.snapped (es : List SnapEntry) (k : Core) : Core := { k with snap := es, flights := [] }

theorem snapped_seq (es : List SnapEntry) (k : Core) (q : Sq) : (k.snapped es).seq q = k.seq q := by cases q <;> rfl

/-- Where every result in flight has a bound, all go to the snapshot buffer. -/
theorem capture_eq (s : State) (c : CoreId) (n : Nat) (h : ∀ f ∈ (s.core c).flights, f.bound ≠ none) :
    ∃ es free, s.capture c n = { s.setCore c ((s.core c).snapped es) with free := free }
      ∧ es.length = (s.core c).snap.length + (s.core c).flights.length := by
  have hf : (s.core c).flights.filter (fun g => g.bound.isNone) = [] := by
    simp only [List.filter_eq_nil_iff, Option.isNone_iff_eq_none]
    exact h
  refine ⟨_, _, by unfold State.capture; simp only [hf]; rfl, ?_⟩
  simp [settleLast_length, toSnapshot_length n _ _ h]

theorem setCore_modCore (s : State) (c : CoreId) (k : Core) (f : Core → Core) (free : Nat) :
    ({ s.setCore c k with free := free } : State).modCore c f = { s.setCore c (f k) with free := free } := by
  have h : ({ s.setCore c k with free := free } : State).core c = k := core_setCore s c k
  unfold State.modCore
  rw [h]
  simp only [State.setCore, Vector.set_set]

/-- What trap-mode entry leaves of a core. -/
structure Core.Entered (k m : Core) (p : Stop) : Prop where
  cause : m.trapcause = entryCause p ∧ m.trapva = p.va
  epc : ∀ q, m.epc.get (Fin.ofNat 4 (sqIndex q)) =
    if (k.seq q).ended = true then (k.seq q).entry + BitVec.ofNat 64 (2 * (k.seq q).extent)
    else if k.tapePhase = .replaying ∧ q ≠ .X then 0 else (k.seq q).pc
  xsave : m.xsave = { g := k.sX.g, p := k.sX.p, lc := k.sX.lc, fpstat := k.sX.fpstat, blocks := k.sX.blocks, ended := k.sX.ended }
  start : m.sX.ctl = { k.sX.ctl with pc := k.trapvec, blocks := [] } ∧ m.sX.ended = false ∧ m.stop = none
  results : m.flights = k.flights ∧ m.snap = k.snap
  regs : (∀ q, (k.seq q).sameRegs (m.seq q)) ∧ ∀ q, q ≠ .X → (m.seq q).ctl = (k.seq q).ctl
  rest : m.acc = k.acc ∧ m.m = k.m ∧ m.spad = k.spad ∧ m.tokens = k.tokens ∧ m.tags = k.tags ∧ m.handles = k.handles

theorem epcOf_eq (k : Core) (q : Sq) : k.epcOf q =
    if (k.seq q).ended = true then (k.seq q).entry + BitVec.ofNat 64 (2 * (k.seq q).extent)
    else if k.tapePhase = .replaying ∧ q ≠ .X then 0 else (k.seq q).pc := by
  simp only [Core.epcOf, Bool.and_eq_true, beq_iff_eq, bne_iff_ne]

theorem entered_entered (k : Core) (p : Stop) : k.Entered (k.entered p) p where
  cause := ⟨rfl, rfl⟩
  epc q := by
    rw [← epcOf_eq]
    cases q <;> rfl
  xsave := rfl
  start := ⟨rfl, rfl, rfl⟩
  results := ⟨rfl, rfl⟩
  regs := ⟨fun q => by cases q <;> exact ⟨rfl, rfl, rfl, rfl⟩, fun q hq => by
    cases q with
    | X => exact absurd rfl hq
    | L | C | S => rfl⟩
  rest := ⟨rfl, rfl, rfl, rfl, rfl, rfl⟩

/-! ### The end of an iteration whose core has no trap vector -/

theorem abandon_idle {s : State} {c : CoreId} (n : Nat) (h : (s.core c).tapePhase ≠ .recording) : s.abandon c n = s := by
  unfold State.abandon
  simp only [beq_iff_eq, h, if_false]

/-- A core whose iteration has ended. -/
def Core.iterationEnded (k : Core) : Core :=
  { (k.modSeqs fun _ v => { v with ended := true, blocks := [], since := none, wait := .none, hold := [] }) with
    flights := [], pend := k.pend.filter fun p => p.cls != .mat, snap := [], stop := none, rising := [], hLate := []
    barWaiting := false, gang := none, replayFault := false, tapePhase := if k.tapePhase == .replaying then .aborted else k.tapePhase,
    trapcause := k.trapcause &&& 0x7FFFFFFF }

/-- What the end gives a launch that has no status yet. -/
def Launch.ended (status : Nat) (cause : BitVec 32) (va : Word) (l : Launch) : Launch :=
  if l.ending.isNone then { l with ending := some (status, cause, va) } else l

theorem endIteration_eq {s : State} {c : CoreId} {it : Iter} (status : Nat) (cause : BitVec 32) (va : Word)
    (hr : (s.core c).tapePhase ≠ .recording) (hi : (s.core c).iter = some it) :
    s.endIteration c status cause va = (s.modCore c Core.iterationEnded).modLaunch it.launch (Launch.ended status cause va) := by
  have h : ((s.modCore c Core.iterationEnded).core c).iter = some it := by rw [core_modCore]; exact hi
  unfold State.endIteration
  rw [abandon_idle 8 hr]
  show (match ((s.modCore c Core.iterationEnded).core c).iter with
    | none => s.modCore c Core.iterationEnded
    | some it => (s.modCore c Core.iterationEnded).modLaunch it.launch (Launch.ended status cause va)) = _
  rw [h]

theorem modLaunch_find {s : State} {id : Nat} {f : Launch → Launch} {l : Launch} (hf : ∀ l, (f l).id = l.id)
    (h : s.launches.find? (fun m => m.id == id) = some l) : (s.modLaunch id f).launches.find? (fun m => m.id == id) = some (f l) := by
  have hid : (l.id == id) = true := List.find?_some (p := fun m : Launch => m.id == id) h
  have hp : ((fun m : Launch => m.id == id) ∘ fun l => if l.id == id then f l else l) = fun m => m.id == id := by
    funext m
    simp only [Function.comp_apply]
    split
    · rw [hf]
    · rfl
  unfold State.modLaunch
  rw [List.find?_map, hp, h, Option.map_some, if_pos hid]

theorem Launch.ended_id (status : Nat) (cause : BitVec 32) (va : Word) (l : Launch) : (l.ended status cause va).id = l.id := by
  unfold Launch.ended
  split <;> rfl

/-- Settles O34: by the kind of the event. -/
theorem coreEvents : Obligations.CoreEvents := by
  intro i e h
  cases h with
  | landing c f u =>
    rintro s ⟨rfl, hf, hl, hi⟩
    refine ⟨_, landing_exec hf hl, onlyCore_modCore _ _ _, ?_⟩
    rw [core_modCore, ← watchQuiet_cycle s]
    exact landFlight_last s.watchQuiet.cycle hi
  | landingEarlier c f g u =>
    rintro s ⟨rfl, hf, hl, hg, hid, hins⟩
    refine ⟨_, landing_exec hf hl, onlyCore_modCore _ _ _, ?_⟩
    rw [core_modCore]
    exact landFlight_earlier s.watchQuiet.cycle hg hid hins
  | tokdead c q =>
    rintro s ⟨hd, hq, hr, hn⟩
    obtain ⟨h1, h2, _⟩ := tokdeadNow_parts hd
    have hp : ¬ (q != .X && (s.core c).tapePhase == .replaying) = true := by
      rcases hr with rfl | hr
      · simp
      · simp [hr]
    exact ⟨_, (tokdead_exec hd hq).trans (if_neg hp), raise_stops s { core := c, sq := q } _ hn h2 h1⟩
  | tokdeadReplay c q =>
    rintro s ⟨hd, hq, hx, hr⟩
    obtain ⟨_, _, h3⟩ := tokdeadNow_parts hd
    have hp : (q != .X && (s.core c).tapePhase == .replaying) = true := by simp [hx, hr]
    exact ⟨_, (tokdead_exec hd hq).trans (if_pos hp), replayFaultOf_only s { core := c, sq := q } _,
      replayFaultOf_replayFault s { core := c, sq := q } _ h3, replayFaultOf_rpstat s { core := c, sq := q } _ h3,
      replayFaultOf_seq s { core := c, sq := q } _⟩
  | illegal =>
    rintro s ⟨h1, h2, h3⟩
    exact ⟨_, rfl, raise_stops s s.turn Trap.illegal h1 h2 h3⟩
  | snapshot c n e =>
    rintro s ⟨he, ht, hc, hd, hb⟩
    refine ⟨_, (snapshotLand_exec he ht hc hd).trans (if_neg (by simp [hb])), onlyCore_modCore _ _ _, ?_⟩
    unfold snapGone
    rw [core_modCore]
    obtain ⟨h1, h2, h3, _⟩ := landSnap_lands (s.core c) s.cycle n e
    exact ⟨h1, h2, h3⟩
  | snapshotBad c n e =>
    rintro s ⟨he, ht, hc, hd, hb⟩
    refine ⟨_, (snapshotLand_exec he ht hc hd).trans (if_pos hb), onlyCore_modCore _ _ _, ?_⟩
    unfold snapGone
    rw [core_modCore]
    obtain ⟨h1, h2, h3, h4, h5⟩ := landSnap_lands ((s.core c).derrRecord 6 0) s.cycle n { e with value := 0, flags := 0 }
    obtain ⟨d1, d2, d3, d4, d5⟩ := derrRecord_same (s.core c) 6 0
    rw [d4] at h2
    rw [d5] at h3
    exact ⟨h1.of_same ⟨d1, d2, d3⟩ ⟨fun _ => rfl, rfl, rfl⟩, ⟨h2, h3⟩, h4, h5⟩
  | enter c p =>
    rintro s ⟨hs, hv, hp⟩
    have ⟨_, _, _, _, _, hbound⟩ := hs
    obtain ⟨es, free, hcap, hlen⟩ := capture_eq s c p.cycle hbound
    have he := (trapModeEntry_exec hs).trans (if_neg hv)
    rw [hcap, setCore_modCore] at he
    refine ⟨_, he, ⟨_, free, rfl⟩, ?_⟩
    generalize hm : ((s.core c).snapped es).entered p = m
    have hcore : ({ s.setCore c m with free := free } : State).core c = m := core_setCore s c m
    obtain ⟨⟨h1, h2⟩, h3, h4, ⟨h5, h6, h7⟩, ⟨h8, h9⟩, ⟨h10, h11⟩, h12⟩ := entered_entered ((s.core c).snapped es) p
    rw [hm] at h1 h2 h3 h4 h5 h6 h7 h8 h9 h10 h11 h12
    simp only [snapped_seq] at h3 h10 h11
    rw [hcore]
    exact ⟨h1.trans (entryCause_eq hp), h2, h3, h4, h5, h6, h7, h8, (congrArg List.length h9).trans hlen, h10, h11, h12⟩
  | noVector c p it l =>
    rintro s ⟨hs, hv, hp, hr, hi, hl, he⟩
    have hx := (trapModeEntry_exec hs).trans (if_pos hv)
    rw [endIteration_eq (it := it) _ _ _ (by rw [core_modCore]; exact hr) (by rw [core_modCore]; exact hi), modCore_modCore,
      entryCause_eq hp] at hx
    have hcore (d : CoreId) (f : Core → Core) (g : Launch → Launch) :
        ((s.modCore c f).modLaunch it.launch g).core d = (s.modCore c f).core d := rfl
    refine ⟨_, hx, ?_, ?_, ?_, ?_, rfl, rfl, fun d hd => (hcore d _ _).trans (core_modCore_ne s _ hd)⟩
    · intro q
      rw [hcore, core_modCore]
      cases q <;> rfl
    · rw [hcore, core_modCore]
      rfl
    · rw [hcore, core_modCore]
      rfl
    · refine (modLaunch_find (Launch.ended_id _ _ _) hl).trans ?_
      simp only [Launch.ended, he, Option.isNone_none, if_true]
      rfl

end Sys2Proof.Machine
end

section
/-!
PROOFS. A wrong issuer and a LAT below the minimum are ILLEGAL before any wait (O57).

Every row of every table is an `issue` that knows the row's fields, minimum and issuers, and the shared issue tests them first.
-/
set_option Elab.async false
namespace Sys2Proof.Machine
open Sys2Proof Sys2Proof.Rules

/-- The instruction goes through the shared issue with the row's common fields, minimum and issuers. -/
def Effect.issues (f : Effect) (i : Instr) : Prop :=
  ∀ s, ∃ sp body, exec i s = issue sp body s ∧ sp.x = f.x ∧ sp.short = f.short ∧ sp.minLat = f.lat ∧ sp.issuers = f.qs

/-- An issue with a wrong issuer or a LAT below the minimum stops the core for ILLEGAL. -/
theorem issue_earlyStops {sp : Spec} {body : Cx → State → Act} {s : State} (h1 : s.me.replayIssue = none) (h2 : s.me.inTrap = false)
    (h3 : s.me.stop = none) (h : s.turn.sq ∉ sp.issuers ∨ s.exposed = true ∧ sp.short = false ∧ sp.x.lat.toNat < sp.minLat) :
    ∃ t, issue sp body s = .next t ∧ s.Stops s.turn 1 0 0 t :=
  ⟨_, issue_early h1 (early_of h1 h), raise_stops s s.turn Trap.illegal h1 h2 h3⟩

/-! ### The tables -/

section
variable {i : Instr} {f : Effect}

theorem laneRow_issues (h : LaneRow i f) : f.issues i := by
  cases h
  all_goals exact fun s => ⟨_, _, rfl, rfl, rfl, rfl, rfl⟩

theorem vectorRow_issues (h : VectorRow i f) : f.issues i := by
  cases h
  all_goals exact fun s => ⟨_, _, rfl, rfl, rfl, rfl, rfl⟩

theorem rowAccess_issues (h : RowAccess i f) : f.issues i := by
  cases h
  all_goals exact fun s => ⟨_, _, rfl, rfl, rfl, rfl, rfl⟩

theorem multiplyRow_issues (h : MultiplyRow i f) : f.issues i := by
  cases h
  all_goals exact fun s => ⟨_, _, rfl, rfl, rfl, rfl, rfl⟩

theorem sparseRow_issues (h : SparseRow i f) : f.issues i := by
  cases h
  all_goals exact fun s => ⟨_, _, rfl, rfl, rfl, rfl, rfl⟩

theorem drainRow_issues (h : DrainRow i f) : f.issues i := by
  cases h
  all_goals exact fun s => ⟨_, _, rfl, rfl, rfl, rfl, rfl⟩

theorem rowMove_issues (h : RowMove i f) : f.issues i := by
  cases h
  all_goals exact fun s => ⟨_, _, rfl, rfl, rfl, rfl, rfl⟩

theorem globalRow_issues (h : GlobalRow i f) : f.issues i := by
  cases h
  all_goals exact fun s => ⟨_, _, rfl, rfl, rfl, rfl, rfl⟩

theorem copyRow_issues (h : CopyRow i f) : f.issues i := by
  cases h
  all_goals exact fun s => ⟨_, _, rfl, rfl, rfl, rfl, rfl⟩

theorem blockCmdRow_issues (h : BlockCmdRow i f) : f.issues i := by
  cases h
  all_goals exact fun s => ⟨_, _, rfl, rfl, rfl, rfl, rfl⟩

theorem transferRow_issues (h : TransferRow i f) : f.issues i := by
  cases h
  all_goals exact fun s => ⟨_, _, rfl, rfl, rfl, rfl, rfl⟩

theorem tapebRow_issues (h : TapebRow i f) : f.issues i := by
  cases h
  all_goals exact fun s => ⟨_, _, rfl, rfl, rfl, rfl, rfl⟩

theorem tapeRow_issues (h : TapeRow i f) : f.issues i := by
  cases h
  all_goals exact fun s => ⟨_, _, rfl, rfl, rfl, rfl, rfl⟩

theorem charterRow_issues (h : CharterRow i f) : f.issues i := by
  cases h
  all_goals exact fun s => ⟨_, _, rfl, rfl, rfl, rfl, rfl⟩

theorem trapRow_issues (h : TrapRow i f) : f.issues i := by
  cases h
  all_goals exact fun s => ⟨_, _, rfl, rfl, rfl, rfl, rfl⟩

theorem imageRow_issues (h : ImageRow i f) : f.issues i := by
  cases h
  all_goals exact fun s => ⟨_, _, rfl, rfl, rfl, rfl, rfl⟩

theorem nodeRow_issues (h : NodeRow i f) : f.issues i := by
  cases h
  all_goals exact fun s => ⟨_, _, rfl, rfl, rfl, rfl, rfl⟩

end

/-- Settles O57: by the table, and through the shared issue. -/
theorem illegalBeforeWaits : Obligations.IllegalBeforeWaits := by
  refine ⟨fun i f h s h1 h2 h3 he => ?_, fun i x lat r h s h1 h2 h3 hx hl => ?_⟩
  · have hi : f.issues i := by
      rcases h with h | h | h | h | h | h | h | h | h | h | h | h | h | h | h | h | h
      · exact laneRow_issues h
      · exact vectorRow_issues h
      · exact rowAccess_issues h
      · exact multiplyRow_issues h
      · exact sparseRow_issues h
      · exact drainRow_issues h
      · exact rowMove_issues h
      · exact globalRow_issues h
      · exact copyRow_issues h
      · exact blockCmdRow_issues h
      · exact transferRow_issues h
      · exact tapebRow_issues h
      · exact tapeRow_issues h
      · exact charterRow_issues h
      · exact trapRow_issues h
      · exact imageRow_issues h
      · exact nodeRow_issues h
    obtain ⟨sp, body, e, x1, x2, x3, x4⟩ := hi s
    rw [e]
    exact issue_earlyStops h1 h2 h3 (by rw [x1, x2, x3, x4]; exact he)
  · obtain ⟨gs, ps, gd, pd, cls, enc, e⟩ := scalarRow_exec h
    rw [e s]
    exact issue_earlyStops h1 h2 h3 (.inr ⟨hx, rfl, hl⟩)

end Sys2Proof.Machine
end

section
/-!
PROOFS. A step runs the decoded instruction (O52).
-/
set_option Elab.async false
namespace Sys2Proof.Machine
open Sys2Proof

theorem reach_near {s : State} (k : Asker) (wait : State → State) (f : State → Out) (h : s.near = true) : s.reach k wait f = f s := by
  unfold State.reach
  rw [if_pos h]

/-- The step that a cycle has still to make. -/
theorem inside_due {s : State} {d : Due} {ds : List Due} (hn : s.near = true) (ha : s.agenda = d :: ds) :
    s.inside = exec d.instr { s with agenda := ds } := by
  have hn' : ({ s with agenda := ds } : State).near = true := hn
  unfold State.inside
  rw [ha]
  exact reach_near _ _ _ hn'

/-- The turn of a sequencer. -/
theorem inside_turn {s : State} (hn : s.near = true) (ha : s.agenda = []) : s.inside = passTurn s.turn s.runTurn := by
  unfold State.inside
  rw [ha]
  exact congrArg (passTurn s.turn) (reach_near _ _ _ hn)

theorem runTurn_replay {s : State} (h : (s.core s.turn.core).mayReplay s.cycle s.turn.sq = true) :
    s.runTurn = exec (.replayEntryIssue s.turn.core s.turn.sq) s := if_pos h

theorem runTurn_held {s : State} (h : (s.core s.turn.core).mayReplay s.cycle s.turn.sq = false)
    (hi : (s.core s.turn.core).mayIssue s.cycle s.turn.sq = false) : s.runTurn = .next s := by
  unfold State.runTurn
  simp only [h, hi, Bool.false_eq_true, if_false]

/-- What a sequencer that may issue does, by what it fetches. -/
theorem runTurn_issues {s : State} (h : (s.core s.turn.core).mayReplay s.cycle s.turn.sq = false)
    (hi : (s.core s.turn.core).mayIssue s.cycle s.turn.sq = true) :
    (∀ bs u i, s.attempt.fetchInstr s.turn = (.ok bs, u) → decodeBytes bs = .ok i → s.runTurn = exec i u)
      ∧ (∀ bs u r, s.attempt.fetchInstr s.turn = (.ok bs, u) → decodeBytes bs = .error r → s.runTurn = exec .illegalEncoding u)
      ∧ ∀ f u, s.attempt.fetchInstr s.turn = (.error f, u) → s.runTurn = .next (u.raise s.turn (Trap.page f)) := by
  unfold State.runTurn
  simp only [h, hi, Bool.false_eq_true, if_false, if_true]
  refine ⟨fun bs u i hf hd => ?_, fun bs u r hf hd => ?_, fun f u hf => ?_⟩
  · simp only [hf, hd]
  · simp only [hf, hd]
  · simp only [hf]

/-- Settles O52: without events and with every page near, the step is the due step or the turn. -/
theorem stepRunsDecoded : Obligations.StepRunsDecoded := by
  intro s hp hn hi
  refine ⟨fun d ds ha => (step_inside hp hi).trans (inside_due hn ha), fun ha => ?_⟩
  have hstep : step s = passTurn s.turn s.runTurn := (step_inside hp hi).trans (inside_turn hn ha)
  refine ⟨fun hr => ?_, fun hr hm => ?_, fun hr hm => ?_⟩
  · rw [hstep, runTurn_replay hr]
  · rw [hstep, runTurn_held hr hm]
    rfl
  · obtain ⟨h1, h2, h3⟩ := runTurn_issues hr hm
    refine ⟨fun bs u i hf hd => ?_, fun bs u r hf hd => ?_, fun f u hf => ?_⟩
    · rw [hstep, h1 bs u i hf hd]
    · rw [hstep, h2 bs u r hf hd]
    · rw [hstep, h3 f u hf]
      rfl

end Sys2Proof.Machine
end

section
/-!
PROOFS. No bit of an encoding is ignored (O50): bytes that decode to an instruction begin with exactly its encoding.

The decoder takes a word apart by quotients and remainders and the encoder puts it together by a sum. Where every bit of the operand field
belongs to an operand, to the function code that selected the instruction, or to a field that was tested for zero, the sum of the operands
read is the operand field again (R34, R37). That sum is the default argument of `word_faithful`: the hypotheses that the case split on the
function code and the tests of reserved fields leave are what closes it. The majors are taken in four groups of one shape each and, where
fields or codes are reserved, one by one; the parcels in the order of their op (R39). The common fields lie in the rest of the word (R16).
-/
set_option Elab.async false
namespace Sys2Proof.Encoding
open Sys2Proof Sys2Proof.Laws.Sized

/-- Every instruction that the answer `r` of a decoder gives has the encoding `e`. -/
def Faithful (e : Enc) (r : Except Reject Instr) : Prop := ∀ i, r = .ok i → encode i = some e

/-! ### Operands as they are read -/

theorem toNat_bit (n : Nat) : (n % 2 == 1).toNat = n % 2 := by
  rcases Nat.mod_two_eq_zero_or_one n with h | h <;> rw [h] <;> rfl

theorem code_szOfCode (n : Nat) : (Sz.ofCode n).code = n % 4 := by
  have h := Nat.mod_lt n (show 0 < 4 by decide)
  unfold Sz.ofCode
  generalize n % 4 = k at h
  revert k
  decide

theorem code_hintOfCode (n : Nat) : (Hint.ofCode n).code = n % 4 := by
  have h := Nat.mod_lt n (show 0 < 4 by decide)
  unfold Hint.ofCode
  generalize n % 4 = k at h
  revert k
  decide

theorem code_of_scope {n : Nat} {z : Scope} (h : Scope.ofCode n = some z) : z.code = n := by
  unfold Scope.ofCode at h
  split at h <;> cases h <;> rfl

theorem code_of_path {n : Nat} {z : PathClass} (h : PathClass.ofCode n = some z) : z.code = n := by
  unfold PathClass.ofCode at h
  split at h <;> cases h <;> rfl

theorem code_of_cc {n : Nat} {c : Cc} (h : Cc.ofCode n = some c) : c.code = n := by
  unfold Cc.ofCode at h
  split at h <;> cases h <;> rfl

theorem code_of_vcc {n : Nat} {c : Vcc} (h : Vcc.ofCode n = some c) : c.code = n := by
  unfold Vcc.ofCode at h
  split at h <;> cases h <;> rfl

/-! ### Answers -/

theorem rejected_faithful (e : Enc) (r : Reject) : Faithful e (.error r) := fun _ h => nomatch h

/-- A reserved field is tested before the answer is given (R37). -/
theorem tested_faithful {e : Enc} {c : Prop} [Decidable c] {a : Except Reject Instr} {r : Reject} (h : c → Faithful e a) :
    Faithful e (if c then a else .error r) := by
  by_cases hc : c
  · rw [if_pos hc]; exact h hc
  · rw [if_neg hc]; exact rejected_faithful e r

/-- An instruction of major `maj` whose operands and function code add up to the operand field that they were read from. -/
theorem word_faithful {maj op n : Nat} {x : Ctl} {i : Instr} (he : encode i = some (.word (word32 maj n x) x.safe))
    (hn : n = op := by simp only [Fin.val_ofNat, BitVec.toNat_ofNat, toNat_bit, code_szOfCode, code_hintOfCode]; omega) :
    Faithful (.word (word32 maj op x) x.safe) (.ok i) := by
  rintro _ ⟨⟩
  rw [he, hn]

/-- The same of a parcel. -/
theorem parcel_faithful {p n : Nat} {i : Instr} (he : encode i = some (.parcel n))
    (hn : n = p := by simp only [Fin.val_ofNat, BitVec.toNat_ofNat]; omega) : Faithful (.parcel p) (.ok i) := by
  rintro _ ⟨⟩
  rw [he, hn]

/-! ### Majors -/

/-- The majors with one instruction, to whose operands the whole operand field belongs (R40). -/
def singleMajors : List Nat :=
  [0x08, 0x0B, 0x0C, 0x0F, 0x15, 0x16, 0x18, 0x1A, 0x1B, 0x1C, 0x27, 0x28, 0x30, 0x31, 0x32, 0x33, 0x34]

/-- The majors of scalar instructions in which a function code selects the instruction and every other bit belongs to an operand (R40). -/
def scalarMajors : List Nat :=
  [0x02, 0x03, 0x04, 0x05, 0x06, 0x07, 0x09, 0x0A, 0x0D, 0x0E, 0x14]

/-- The same of vector instructions. -/
def vectorMajors : List Nat :=
  [0x20, 0x21, 0x22, 0x23, 0x24, 0x26, 0x29, 0x2D]

/-- The same of memory accesses, engine commands and lanes. -/
def memoryMajors : List Nat :=
  [0x35, 0x36, 0x3A, 0x3B, 0x3E, 0x3F]

/-- The other majors (R40): major 0 is reserved (R41); the rest have fields that must be zero (R37), codes of conditions, scopes or classes
(R38, R66, R164), or, in MTS, registers that it writes by rules of their own. -/
def testedMajors : List Nat :=
  [0x00, 0x01, 0x10, 0x11, 0x12, 0x13, 0x17, 0x19, 0x1D, 0x1E, 0x1F, 0x25, 0x2A, 0x2B, 0x2C, 0x2E, 0x2F, 0x37, 0x38, 0x39, 0x3C, 0x3D]

theorem majors_listed : ∀ maj < 64, maj ∈ singleMajors ∨ maj ∈ scalarMajors ∨ maj ∈ vectorMajors
    ∨ maj ∈ memoryMajors ∨ maj ∈ testedMajors := by decide

section
variable {maj op : Nat} (hop : op < 131072) (x : Ctl)
include hop

theorem singleMajors_faithful (h : maj ∈ singleMajors) : Faithful (.word (word32 maj op x) x.safe) (decodeOperand maj op x) := by
  unfold singleMajors at h
  fin_cases h
  all_goals
    simp only [decodeOperand, decMaj08, decMaj0B, decMaj0C, decMaj0F, decMaj15, decMaj16, decMaj18, decMaj1A, decMaj1B, decMaj1C, decMaj27,
      decMaj28, decMaj30, decMaj31, decMaj32, decMaj33, decMaj34]
    exact word_faithful rfl

theorem scalarMajors_faithful (h : maj ∈ scalarMajors) : Faithful (.word (word32 maj op x) x.safe) (decodeOperand maj op x) := by
  unfold scalarMajors at h
  fin_cases h
  all_goals
    simp only [decodeOperand, decMaj02, decMaj03, decMaj04, decMaj05, decMaj06, decMaj07, decMaj09, decMaj0A, decMaj0D, decMaj0E, decMaj14]
    split
    on_goal -1 => exact rejected_faithful _ _
    all_goals exact word_faithful rfl

theorem vectorMajors_faithful (h : maj ∈ vectorMajors) : Faithful (.word (word32 maj op x) x.safe) (decodeOperand maj op x) := by
  unfold vectorMajors at h
  fin_cases h
  all_goals
    simp only [decodeOperand, decMaj20, decMaj21, decMaj22, decMaj23, decMaj24, decMaj26, decMaj29, decMaj2D]
    split
    on_goal -1 => exact rejected_faithful _ _
    all_goals exact word_faithful rfl

theorem memoryMajors_faithful (h : maj ∈ memoryMajors) : Faithful (.word (word32 maj op x) x.safe) (decodeOperand maj op x) := by
  unfold memoryMajors at h
  fin_cases h
  all_goals
    simp only [decodeOperand, decMaj35, decMaj36, decMaj3A, decMaj3B, decMaj3E, decMaj3F]
    split
    on_goal -1 => exact rejected_faithful _ _
    all_goals exact word_faithful rfl

theorem decMaj01_faithful : Faithful (.word (word32 0x01 op x) x.safe) (decMaj01 op x) := by
  refine tested_faithful fun hx => ?_
  subst hx
  exact word_faithful (x := Ctl.plain) rfl

theorem decMaj10_faithful : Faithful (.word (word32 0x10 op x) x.safe) (decMaj10 op x) := by
  unfold decMaj10
  split
  next c h =>
    have hc := code_of_cc h
    exact word_faithful rfl
  · exact rejected_faithful _ _

theorem decMaj11_faithful : Faithful (.word (word32 0x11 op x) x.safe) (decMaj11 op x) := by
  unfold decMaj11
  split
  next c h =>
    have hc := code_of_cc h
    exact word_faithful rfl
  · exact rejected_faithful _ _

theorem decMaj12_faithful : Faithful (.word (word32 0x12 op x) x.safe) (decMaj12 op x) := by
  unfold decMaj12
  split
  iterate 2 exact tested_faithful fun _ => word_faithful rfl
  · exact rejected_faithful _ _

theorem decMaj13_faithful : Faithful (.word (word32 0x13 op x) x.safe) (decMaj13 op x) := by
  unfold decMaj13
  split
  iterate 6 exact tested_faithful fun _ => word_faithful rfl
  · exact rejected_faithful _ _

theorem decMaj17_faithful : Faithful (.word (word32 0x17 op x) x.safe) (decMaj17 op x) := by
  unfold decMaj17
  split
  iterate 2 exact tested_faithful fun _ => word_faithful rfl
  · exact word_faithful rfl
  · exact tested_faithful fun _ => word_faithful rfl
  iterate 2 exact tested_faithful fun _ => word_faithful rfl (by omega)
  · exact rejected_faithful _ _

theorem decMaj19_faithful : Faithful (.word (word32 0x19 op x) x.safe) (decMaj19 op x) := by
  unfold decMaj19
  split
  iterate 6 exact word_faithful rfl

theorem decMaj1D_faithful : Faithful (.word (word32 0x1D op x) x.safe) (decMaj1D op x) := by
  unfold decMaj1D
  split
  · exact tested_faithful fun _ => word_faithful rfl
  · exact tested_faithful fun _ => word_faithful rfl (by omega)
  iterate 4 exact word_faithful rfl
  · exact rejected_faithful _ _

theorem decMaj1E_faithful : Faithful (.word (word32 0x1E op x) x.safe) (decMaj1E op x) := by
  unfold decMaj1E
  split
  · exact tested_faithful fun _ => word_faithful rfl (by omega)
  · exact word_faithful rfl
  · exact tested_faithful fun _ => word_faithful rfl
  iterate 2 exact word_faithful rfl
  · exact rejected_faithful _ _

theorem decMaj1F_faithful : Faithful (.word (word32 0x1F op x) x.safe) (decMaj1F op x) := by
  unfold decMaj1F
  split
  iterate 2 exact tested_faithful fun _ => word_faithful rfl
  · exact word_faithful rfl
  · exact tested_faithful fun _ => word_faithful rfl
  · exact word_faithful rfl
  · exact rejected_faithful _ _

theorem decMaj25_faithful : Faithful (.word (word32 0x25 op x) x.safe) (decMaj25 op x) := by
  unfold decMaj25
  split
  next c h =>
    have hc := code_of_vcc h
    exact word_faithful rfl
  · exact rejected_faithful _ _

theorem decMaj2A_faithful : Faithful (.word (word32 0x2A op x) x.safe) (decMaj2A op x) := by
  unfold decMaj2A
  split
  iterate 4 exact word_faithful rfl
  iterate 3 exact tested_faithful fun _ => word_faithful rfl
  · exact rejected_faithful _ _

theorem decMaj2B_faithful : Faithful (.word (word32 0x2B op x) x.safe) (decMaj2B op x) := by
  unfold decMaj2B
  split
  iterate 3 exact word_faithful rfl
  · exact tested_faithful fun _ => word_faithful rfl
  · exact rejected_faithful _ _

theorem decMaj2C_faithful : Faithful (.word (word32 0x2C op x) x.safe) (decMaj2C op x) := by
  unfold decMaj2C
  split
  iterate 8 exact tested_faithful fun _ => word_faithful rfl
  · exact rejected_faithful _ _

theorem decMaj2E_faithful : Faithful (.word (word32 0x2E op x) x.safe) (decMaj2E op x) := by
  unfold decMaj2E
  split
  · exact tested_faithful fun _ => word_faithful rfl
  iterate 2 exact word_faithful rfl
  · exact tested_faithful fun _ => word_faithful rfl (by omega)
  · exact rejected_faithful _ _

theorem decMaj2F_faithful : Faithful (.word (word32 0x2F op x) x.safe) (decMaj2F op x) := by
  unfold decMaj2F
  split
  · exact word_faithful rfl
  iterate 3 exact tested_faithful fun _ => word_faithful rfl
  · exact rejected_faithful _ _

theorem decMaj37_faithful : Faithful (.word (word32 0x37 op x) x.safe) (decMaj37 op x) := by
  unfold decMaj37
  split
  iterate 2 exact tested_faithful fun _ => word_faithful rfl
  · exact rejected_faithful _ _

theorem decMaj38_faithful : Faithful (.word (word32 0x38 op x) x.safe) (decMaj38 op x) := by
  unfold decMaj38
  split
  case h_1 | h_3 =>
    refine tested_faithful fun _ => ?_
    split
    next z h =>
      have hz := code_of_scope h
      exact word_faithful rfl (by omega)
    · exact rejected_faithful _ _
  case h_2 =>
    refine tested_faithful fun _ => ?_
    split
    next z c p h1 h2 h3 =>
      have hz := code_of_scope h1
      have hc := code_of_path h2
      have hp := code_of_path h3
      exact word_faithful rfl (by omega)
    · exact rejected_faithful _ _
  iterate 3 exact tested_faithful fun _ => word_faithful rfl
  · exact rejected_faithful _ _

theorem decMaj39_faithful : Faithful (.word (word32 0x39 op x) x.safe) (decMaj39 op x) := by
  unfold decMaj39
  split
  · exact word_faithful rfl
  iterate 2 exact tested_faithful fun _ => word_faithful rfl
  · exact rejected_faithful _ _

theorem decMaj3C_faithful : Faithful (.word (word32 0x3C op x) x.safe) (decMaj3C op x) := by
  unfold decMaj3C
  split
  iterate 4 exact tested_faithful fun _ => word_faithful rfl
  · exact rejected_faithful _ _

theorem decMaj3D_faithful : Faithful (.word (word32 0x3D op x) x.safe) (decMaj3D op x) := by
  unfold decMaj3D
  split
  iterate 10 exact word_faithful rfl
  · exact tested_faithful fun _ => word_faithful rfl
  iterate 3 exact word_faithful rfl
  · exact rejected_faithful _ _

theorem testedMajors_faithful (h : maj ∈ testedMajors) : Faithful (.word (word32 maj op x) x.safe) (decodeOperand maj op x) := by
  unfold testedMajors at h
  fin_cases h
  exacts [rejected_faithful _ _,
    decMaj01_faithful hop x, decMaj10_faithful hop x, decMaj11_faithful hop x, decMaj12_faithful hop x, decMaj13_faithful hop x,
    decMaj17_faithful hop x, decMaj19_faithful hop x, decMaj1D_faithful hop x, decMaj1E_faithful hop x, decMaj1F_faithful hop x,
    decMaj25_faithful hop x, decMaj2A_faithful hop x, decMaj2B_faithful hop x, decMaj2C_faithful hop x, decMaj2E_faithful hop x,
    decMaj2F_faithful hop x, decMaj37_faithful hop x, decMaj38_faithful hop x, decMaj39_faithful hop x, decMaj3C_faithful hop x,
    decMaj3D_faithful hop x]

theorem decodeOperand_faithful (hm : maj < 64) : Faithful (.word (word32 maj op x) x.safe) (decodeOperand maj op x) := by
  obtain h | h | h | h | h := majors_listed maj hm
  · exact singleMajors_faithful hop x h
  · exact scalarMajors_faithful hop x h
  · exact vectorMajors_faithful hop x h
  · exact memoryMajors_faithful hop x h
  · exact testedMajors_faithful hop x h

end

theorem decode16_faithful {p : Nat} (hp : p < 65536 ∧ p % 2 = 0) : Faithful (.parcel p) (decode16 p) := by
  unfold decode16
  split
  · exact rejected_faithful _ _
  · exact tested_faithful fun _ => parcel_faithful rfl (by omega)
  · exact tested_faithful fun _ => parcel_faithful rfl
  iterate 2 exact parcel_faithful rfl
  iterate 5 exact tested_faithful fun _ => parcel_faithful rfl
  iterate 6 exact parcel_faithful rfl
  · exact rejected_faithful _ _

/-! ### Whole encodings -/

/-- The common fields, the major and the operand field are the whole word (R16). -/
theorem word32_ctlOf {w : Nat} {m : Option (BitVec 32)} (h : sized (.word w m)) :
    word32 (w / 512 % 64) (w / 32768) (ctlOf w m) = w := by
  obtain ⟨hw, h0, h1⟩ := h
  simp only [word32, ctlOf, toNat_bit, BitVec.toNat_ofNat]
  omega

theorem decodeFields_faithful {e : Enc} (h : sized e) : Faithful e (decodeFields e) := by
  cases e with
  | parcel p => exact decode16_faithful h
  | word w m =>
    have hf := decodeOperand_faithful (maj := w / 512 % 64) (op := w / 32768) (by have := h.1; omega) (ctlOf w m) (by omega)
    rwa [word32_ctlOf h] at hf

/-- What decodes has passed the checks of `Instr.wf`. -/
theorem decode_eq_ok {e : Enc} {i : Instr} (h : decode e = .ok i) : decodeFields e = .ok i ∧ i.wf = true := by
  unfold decode at h
  split at h
  · cases h
  · split at h
    · cases h
      exact ⟨‹_›, ‹_›⟩
    · cases h

theorem leNat_two_lt (b0 b1 : Byte) : leNat [b0, b1] < 65536 := by
  simp only [leNat]; omega

theorem leNat_four_lt (b0 b1 b2 b3 : Byte) : leNat [b0, b1, b2, b3] < 4294967296 := by
  simp only [leNat]; omega

/-- The bits that tell an encoding's size lie in its first byte (R16, R17). -/
theorem leNat_mod_four (b : Byte) (bs : List Byte) : leNat (b :: bs) % 4 = b.toNat % 4 := by
  rw [leNat]; omega

/-- The encoding that bytes hold has the size that its bits 0 and 1 say. -/
theorem encOfBytes_sized {bs : List Byte} {e : Enc} : encOfBytes bs = .ok e → sized e := by
  fun_cases encOfBytes bs with
  | case1 b0 b1 _ p h0 =>
    rintro ⟨⟩
    exact ⟨leNat_two_lt b0 b1, h0⟩
  | case2 b0 b1 p h0 b2 b3 _ w h1 =>
    rintro ⟨⟩
    have hp : p % 4 = b0.toNat % 4 := leNat_mod_four b0 [b1]
    have hw : w % 4 = b0.toNat % 4 := leNat_mod_four b0 [b1, b2, b3]
    exact ⟨leNat_four_lt b0 b1 b2 b3, by omega, show w / 2 % 2 = 0 by omega⟩
  | case3 b0 b1 p h0 b2 b3 w h1 =>
    rintro ⟨⟩
    have hp : p % 4 = b0.toNat % 4 := leNat_mod_four b0 [b1]
    have hw : w % 4 = b0.toNat % 4 := leNat_mod_four b0 [b1, b2, b3]
    exact ⟨leNat_four_lt b0 b1 b2 b3, by omega, show w / 2 % 2 = 1 by omega⟩
  | case4 => exact nofun
  | case5 => exact nofun
  | case6 => exact nofun

/-- Settles O50: the fields read are the whole encoding (`decodeFields_faithful`), and the decoder makes the checks of `Instr.wf`. -/
theorem encodeDecode : Obligations.EncodeDecode := by
  intro bs e i hb hd
  obtain ⟨hf, hw⟩ := decode_eq_ok hd
  exact ⟨decodeFields_faithful (encOfBytes_sized hb) i hf, hw⟩

end Sys2Proof.Encoding
end

section
/-!
PROOFS. The bit operations have the value that their rules word, bit by bit (O2).

Each is a scalar row of O1, so what is left is arithmetic: a lemma for each function of the model that says which bits its value has.
-/
set_option Elab.async false
namespace Sys2Proof.Machine
open Sys2Proof Sys2Proof.Rules

/-! ### Counts of bits (R64) -/

/-- A bit of a word, as the model reads it of the word's number. -/
theorem bit_mod (v : Word) (n : Nat) : v.toNat / 2 ^ n % 2 = (v.getLsbD n).toNat := by
  rw [← BitVec.testBit_toNat, Nat.toNat_testBit]

theorem bit_set (v : Word) (n : Nat) : v.toNat / 2 ^ n % 2 = 1 ↔ v.getLsbD n = true := by
  rw [bit_mod, Bool.toNat_eq_one]

@[simp] theorem setBits_zero (v : Word) : setBits v 0 = 0 := rfl

theorem setBits_succ (v : Word) (n : Nat) : setBits v (n + 1) = setBits v n + (v.getLsbD n).toNat := by
  simp only [setBits, List.range_succ, List.countP_append, List.countP_singleton]
  cases v.getLsbD n <;> rfl

theorem setBits_le (v : Word) (n : Nat) : setBits v n ≤ n := by
  simpa [setBits] using List.countP_le_length (p := fun i => v.getLsbD i) (l := List.range n)

theorem setBits_mono (v : Word) {i j : Nat} (h : i ≤ j) : setBits v i ≤ setBits v j := by
  induction j, h using Nat.le_induction with
  | base => exact Nat.le_refl _
  | succ j _ ih => rw [setBits_succ]; omega

theorem popCount_eq_setBits (v : Word) (n : Nat) : popCount v.toNat n = setBits v n := by
  induction n with
  | zero => rfl
  | succ n ih => rw [popCount, ih, bit_mod, setBits_succ]

theorem leadingZeros_zero (n : Nat) : leadingZeros 0 n = n := by
  induction n with
  | zero => rfl
  | succ n ih => simp [leadingZeros, ih, Nat.add_comm]

theorem leadingZeros_of_highest {v : Word} {h : Nat} (hh : v.getLsbD h = true) (ha : ∀ j, h < j → v.getLsbD j = false) :
    ∀ n, h < n → leadingZeros v.toNat n = n - 1 - h := by
  intro n
  induction n with
  | zero => exact fun hn => absurd hn (Nat.not_lt_zero h)
  | succ n ih =>
    intro hn
    simp only [leadingZeros, bit_set]
    obtain rfl | hlt : h = n ∨ h < n := by omega
    · rw [if_pos hh]; omega
    · rw [if_neg (by simp [ha n hlt]), ih hlt]; omega

theorem trailingZeros_zero (n : Nat) : trailingZeros 0 n = n := by
  induction n with
  | zero => rfl
  | succ n ih => simp [trailingZeros, ih, Nat.add_comm]

theorem trailingZeros_of_lowest {n : Nat} : ∀ {v h : Nat}, h < n → v.testBit h = true → (∀ j, j < h → v.testBit j = false) →
    trailingZeros v n = h := by
  induction n with
  | zero => exact fun hn => absurd hn (Nat.not_lt_zero _)
  | succ n ih =>
    intro v h hn hh hb
    cases h with
    | zero => rw [trailingZeros, if_pos (by simpa using hh)]
    | succ h =>
      have h0 : ¬ v % 2 = 1 := by simpa using hb 0 (by omega)
      have hd : trailingZeros (v / 2) n = h :=
        ih (by omega) (by rwa [← Nat.testBit_succ]) fun j hj => by rw [← Nat.testBit_succ]; exact hb (j + 1) (by omega)
      rw [trailingZeros, if_neg h0, hd, Nat.add_comm]

/-! ### The set bit of a rank (R64) -/

/-- The search from bit `i` finds the bit below which `k` more are set. -/
theorem findSet_of_rank {v : Word} {j : Nat} (hj : j < 64) (hb : v.getLsbD j = true) : ∀ {n i k : Nat}, i + n = 64 → i ≤ j →
    setBits v j = setBits v i + k → findSet v.toNat k i n = j := by
  intro n
  induction n with
  | zero => intros; omega
  | succ n ih =>
    intro i k hn hi hk
    have hs := setBits_succ v i
    simp only [findSet, bit_set]
    obtain rfl | hlt : i = j ∨ i < j := by omega
    · rw [if_pos hb, if_pos (by omega)]
    · have hm := setBits_mono v (show i + 1 ≤ j from hlt)
      split
      next hbi =>
        rw [hbi, Bool.toNat_true] at hs
        rw [if_neg (by omega)]
        exact ih (by omega) hlt (by omega)
      next hbi =>
        rw [Bool.eq_false_of_not_eq_true hbi, Bool.toNat_false] at hs
        exact ih (by omega) hlt (by omega)

/-- Where no more than `k` bits are left, the search finds none. -/
theorem findSet_of_few {v : Word} : ∀ {n i k : Nat}, i + n = 64 → setBits v 64 ≤ setBits v i + k → findSet v.toNat k i n = 64 := by
  intro n
  induction n with
  | zero => intros; rfl
  | succ n ih =>
    intro i k hn hk
    have hs := setBits_succ v i
    have hm := setBits_mono v (show i + 1 ≤ 64 by omega)
    simp only [findSet, bit_set]
    split
    next hbi =>
      rw [hbi, Bool.toNat_true] at hs
      rw [if_neg (by omega)]
      exact ih (by omega) (by omega)
    next hbi =>
      rw [Bool.eq_false_of_not_eq_true hbi, Bool.toNat_false] at hs
      exact ih (by omega) (by omega)

/-! ### Bits and bytes in reverse order (R64) -/

theorem reverseBits_lt (n v : Nat) : reverseBits v n < 2 ^ n := by
  induction n generalizing v with
  | zero => exact Nat.one_pos
  | succ n ih =>
    have h := ih (v / 2)
    rw [reverseBits, Nat.pow_succ]
    obtain h2 | h2 := Nat.mod_two_eq_zero_or_one v <;> rw [h2] <;> omega

theorem testBit_reverseBits {n : Nat} : ∀ {v i : Nat}, i < n → (reverseBits v n).testBit i = v.testBit (n - 1 - i) := by
  induction n with
  | zero => exact fun h => absurd h (Nat.not_lt_zero _)
  | succ n ih =>
    intro v i hi
    rw [reverseBits, Nat.mul_comm, Nat.testBit_two_pow_mul_add _ (reverseBits_lt n _)]
    split
    next hlt =>
      rw [ih hlt, ← Nat.testBit_succ]
      congr 1; omega
    next hge =>
      obtain rfl : i = n := by omega
      simp

theorem ofBytes_lt (bs : List Byte) : ofBytes bs < 256 ^ bs.length := by
  induction bs with
  | nil => exact Nat.one_pos
  | cons b bs ih =>
    have hb : b.toNat < 256 := b.isLt
    rw [ofBytes, List.length_cons, Nat.pow_succ]
    omega

/-- Byte `j` of the number that bytes hold. -/
theorem ofBytes_byte (bs : List Byte) (j : Nat) : ofBytes bs / 256 ^ j % 256 = (bs.getD j 0).toNat := by
  induction bs generalizing j with
  | nil => simp [ofBytes]
  | cons b bs ih =>
    have hb : b.toNat < 256 := b.isLt
    cases j with
    | zero => simp [ofBytes]; omega
    | succ j =>
      have hd : (b.toNat + 256 * ofBytes bs) / 256 = ofBytes bs := by omega
      rw [ofBytes, Nat.pow_succ, Nat.mul_comm (256 ^ j), ← Nat.div_div_eq_div_mul, hd, ih, List.getD_cons_succ]

theorem toBytes_reverse_byte {n v j : Nat} (h : j < n) : (toBytes n v).reverse.getD j 0 = BitVec.ofNat 8 (v / 256 ^ (n - 1 - j)) := by
  simp [toBytes, List.getD_eq_getElem?_getD, h]

/-- Byte `j` of a word, as a number. -/
theorem extractByte_toNat (w : Word) (j : Nat) : (w.extractLsb' (8 * j) 8).toNat = w.toNat / 256 ^ j % 256 := by
  rw [BitVec.extractLsb'_toNat, Nat.shiftRight_eq_div_pow, Nat.pow_mul]

/-- Byte `j` of a word with its bytes reversed is byte `7 - j` of the word. -/
theorem reversedByte (w : Word) {j : Nat} (h : j < 8) :
    ((BitVec.ofNat 64 (ofBytes (toBytes 8 w.toNat).reverse)).extractLsb' (8 * j) 8).toNat = (w.extractLsb' (8 * (7 - j)) 8).toNat := by
  have hlt : ofBytes (toBytes 8 w.toNat).reverse < 2 ^ 64 := by
    simpa [toBytes] using ofBytes_lt (toBytes 8 w.toNat).reverse
  rw [extractByte_toNat, extractByte_toNat, BitVec.toNat_ofNat, Nat.mod_eq_of_lt hlt, ofBytes_byte, toBytes_reverse_byte h, BitVec.toNat_ofNat]

/-! ### Extensions (R58, R64) -/

/-- The integer that the model reads of the low bits of a number is that of the bit vector. -/
theorem sextNat_eq_toInt (n v : Nat) : sextNat (n + 1) v = (BitVec.ofNat (n + 1) v).toInt := by
  rw [sextNat, BitVec.toInt_eq_toNat_cond, BitVec.toNat_ofNat, Nat.add_sub_cancel]
  have h2 : (2 : Nat) ^ (n + 1) = 2 * 2 ^ n := by rw [Nat.pow_succ, Nat.mul_comm]
  have hc : v % 2 ^ (n + 1) < 2 ^ n ↔ 2 * (v % 2 ^ (n + 1)) < 2 ^ (n + 1) := by omega
  simp only [hc, Nat.cast_pow, Nat.cast_ofNat]

theorem sextW_eq (n : Nat) (a : Word) : sextW (n + 1) a = (a.setWidth (n + 1)).signExtend 64 := by
  rw [sextW, sextNat_eq_toInt, BitVec.ofNat_toNat, BitVec.signExtend]

theorem zextW_eq (n : Nat) (a : Word) : zextW n a = (a.setWidth n).setWidth 64 := by
  apply BitVec.eq_of_toNat_eq
  simp [zextW]

/-! ### Funnel shifts (R60) -/

theorem shamt_eq (b : Word) : shamt b = (b.extractLsb' 0 6).toNat := by
  simp [shamt]

/-- Two words side by side, as a number. -/
theorem append_toNat (a b : Word) : (a ++ b).toNat = a.toNat * 2 ^ 64 + b.toNat := by
  rw [BitVec.toNat_append, ← Nat.shiftLeft_add_eq_or_of_lt b.isLt, Nat.shiftLeft_eq]

theorem funnelLeft_eq (d a b : Word) : funnelLeft d a b = ((d ++ a) <<< (b.extractLsb' 0 6).toNat).extractLsb' 64 64 := by
  apply BitVec.eq_of_toNat_eq
  rw [BitVec.extractLsb'_toNat, BitVec.toNat_shiftLeft, append_toNat, ← shamt_eq, funnelLeft, BitVec.toNat_ofNat, Nat.shiftLeft_eq,
    Nat.shiftRight_eq_div_pow]
  generalize (d.toNat * 2 ^ 64 + a.toNat) * 2 ^ shamt b = m
  omega

theorem funnelRight_eq (d a b : Word) : funnelRight d a b = ((a ++ d) >>> (b.extractLsb' 0 6).toNat).extractLsb' 0 64 := by
  apply BitVec.eq_of_toNat_eq
  rw [BitVec.extractLsb'_toNat, BitVec.toNat_ushiftRight, append_toNat, ← shamt_eq, funnelRight, BitVec.toNat_ofNat,
    Nat.shiftRight_zero, Nat.shiftRight_eq_div_pow]

/-! ### Bit fields (R65) -/

theorem bitField_eq (b : Word) : bitField b = (fieldLow b, fieldWidth b) := by
  have hl : b.toNat % 64 = fieldLow b := by simp [fieldLow]
  have hw : b.toNat / 256 % 128 = (b.extractLsb' 8 7).toNat := by
    rw [BitVec.extractLsb'_toNat, Nat.shiftRight_eq_div_pow]
  simp only [bitField, hl, hw, fieldWidth]

theorem getLsbD_bfExtract (a b : Word) {i : Nat} (h : i < 64) :
    (bfExtract a b).getLsbD i = (decide (i < fieldWidth b) && a.getLsbD (fieldLow b + i)) := by
  rw [bfExtract, bitField_eq, BitVec.getLsbD_ofNat, Nat.testBit_mod_two_pow, Nat.testBit_div_two_pow, BitVec.testBit_toNat, decide_eq_true h,
    Bool.true_and, Nat.add_comm i]

theorem getLsbD_bfExtractSigned (a b : Word) {i : Nat} (h : i < 64) : (bfExtractSigned a b).getLsbD i
    = (decide (0 < fieldWidth b) && a.getLsbD (fieldLow b + min i (fieldWidth b - 1))) := by
  simp only [bfExtractSigned, bitField_eq]
  cases fieldWidth b with
  | zero => simp
  | succ n =>
    have hbit : ∀ j, j < n + 1 → (BitVec.ofNat (n + 1) (a.toNat / 2 ^ fieldLow b)).getLsbD j = a.getLsbD (fieldLow b + j) := by
      intro j hj
      rw [BitVec.getLsbD_ofNat, Nat.testBit_div_two_pow, BitVec.testBit_toNat, decide_eq_true hj, Bool.true_and, Nat.add_comm j]
    rw [if_neg (Nat.succ_ne_zero n), sextNat_eq_toInt, ← BitVec.signExtend, BitVec.getLsbD_signExtend, decide_eq_true h,
      decide_eq_true (Nat.succ_pos n), Bool.true_and, Bool.true_and, Nat.add_sub_cancel]
    split
    next hi => rw [hbit i hi, Nat.min_eq_left (by omega)]
    next hi => rw [BitVec.msb_eq_getLsbD_last, Nat.add_sub_cancel, hbit n (by omega), Nat.min_eq_right (by omega)]

/-- The bits of the mask of a field. -/
theorem getLsbD_fieldMask (lo w : Nat) {i : Nat} (h : i < 64) :
    (BitVec.ofNat 64 ((2 ^ w - 1) * 2 ^ lo)).getLsbD i = decide (lo ≤ i ∧ i < lo + w) := by
  rw [BitVec.getLsbD_ofNat, Nat.testBit_mul_two_pow, Nat.testBit_two_pow_sub_one, decide_eq_true h, Bool.true_and, ← Bool.decide_and]
  exact decide_eq_decide.2 (by omega)

theorem getLsbD_bfInsert (d a b : Word) {i : Nat} (h : i < 64) : (bfInsert d a b).getLsbD i
    = if fieldLow b ≤ i ∧ i < fieldLow b + fieldWidth b then a.getLsbD (i - fieldLow b) else d.getLsbD i := by
  simp only [bfInsert, bitField_eq, BitVec.getLsbD_or, BitVec.getLsbD_and, BitVec.getLsbD_not, BitVec.getLsbD_shiftLeft, getLsbD_fieldMask _ _ h]
  by_cases hf : fieldLow b ≤ i ∧ i < fieldLow b + fieldWidth b
  · simp [h, hf]
  · simp [h, hf]

/-! ### The obligations -/

/-- Each bit operation is a scalar row, whose value has the bits that its rule words. -/
theorem bitRule_scalar {i : Instr} {d : Reg} {x : Ctl} {lat : Nat} {p : Seq → Word → Prop} (h : BitRule i d x lat p) :
    ∃ f : Seq → Word, ScalarRow i x false lat (fun v => .g d (f v)) ∧ ∀ v, p v (f v) := by
  cases h with
  | popc d a x =>
    refine ⟨_, .popc d a x, fun v => ?_⟩
    have := setBits_le (v.rg a) 64
    show (BitVec.ofNat 64 (popCount (v.rg a).toNat 64)).toNat = setBits (v.rg a) 64
    rw [popCount_eq_setBits, BitVec.toNat_ofNat]
    omega
  | clzNone d a x =>
    refine ⟨_, .clz d a x, fun v h0 => ?_⟩
    rw [h0]
    exact congrArg (BitVec.ofNat 64) (leadingZeros_zero 64)
  | clz d a x h =>
    refine ⟨_, .clz d a x, fun v hh hb ha => ?_⟩
    rw [leadingZeros_of_highest hb ha 64 hh, BitVec.toNat_ofNat]
    omega
  | ctzNone d a x =>
    refine ⟨_, .ctz d a x, fun v h0 => ?_⟩
    rw [h0]
    exact congrArg (BitVec.ofNat 64) (trailingZeros_zero 64)
  | ctz d a x h =>
    refine ⟨_, .ctz d a x, fun v hh hb ha => ?_⟩
    rw [trailingZeros_of_lowest hh hb ha, BitVec.toNat_ofNat]
    omega
  | brev d a x =>
    refine ⟨_, .brev d a x, fun v j hj => ?_⟩
    rw [BitVec.getLsbD_ofNat, testBit_reverseBits hj, BitVec.testBit_toNat, decide_eq_true hj, Bool.true_and]
  | bswap d a x =>
    refine ⟨_, .bswap d a x, fun v j hj => BitVec.eq_of_toNat_eq ?_⟩
    exact reversedByte (v.rg a) hj
  | sextB d a x => exact ⟨_, .sextB d a x, fun v => sextW_eq 7 _⟩
  | sextH d a x => exact ⟨_, .sextH d a x, fun v => sextW_eq 15 _⟩
  | sextW d a x => exact ⟨_, .sextW d a x, fun v => sextW_eq 31 _⟩
  | zextB d a x => exact ⟨_, .zextB d a x, fun v => zextW_eq 8 _⟩
  | zextH d a x => exact ⟨_, .zextH d a x, fun v => zextW_eq 16 _⟩
  | zextW d a x => exact ⟨_, .zextW d a x, fun v => zextW_eq 32 _⟩
  | fnsNone d a b x =>
    refine ⟨_, .fns d a b x, fun v hk => ?_⟩
    rw [findSet_of_few rfl (by simpa using hk)]
    rfl
  | fns d a b x j =>
    refine ⟨_, .fns d a b x, fun v hj hb hk => ?_⟩
    rw [findSet_of_rank hj hb rfl (Nat.zero_le j) (by simpa using hk), BitVec.toNat_ofNat]
    omega
  | fshl d a b x => exact ⟨_, .fshl d a b x, fun v => funnelLeft_eq _ _ _⟩
  | fshr d a b x => exact ⟨_, .fshr d a b x, fun v => funnelRight_eq _ _ _⟩
  | bfx d a b x => exact ⟨_, .bfx d a b x, fun v j hj => getLsbD_bfExtract _ _ hj⟩
  | bfxs d a b x => exact ⟨_, .bfxs d a b x, fun v j hj => getLsbD_bfExtractSigned _ _ hj⟩
  | bfi d a b x => exact ⟨_, .bfi d a b x, fun v j hj => getLsbD_bfInsert _ _ _ hj⟩

/-- Settles O2: each operation lands as its scalar row says (O1), and the row's value has its rule's bits. -/
theorem bitRules : Obligations.BitRules := by
  intro i d x lat p h s hs
  obtain ⟨f, hrow, hp⟩ := bitRule_scalar h
  obtain ⟨t, he, hl⟩ := scalarResults i x false lat _ hrow s hs
  exact ⟨t, f s.mine, he, hl, hp s.mine⟩

end Sys2Proof.Machine
end

section
/-!
PROOFS. Division and remainder: every corner, and the identity of R61 (O3).
-/
set_option Elab.async false
namespace Sys2Proof.Machine
open Sys2Proof Sys2Proof.Rules

theorem divUnsigned_eq (a b : Word) : divUnsigned a b = if b = 0 then 0xFFFFFFFFFFFFFFFF else a / b := by
  simp only [divUnsigned, BitVec.udiv_def]
  rfl

theorem remUnsigned_eq (a b : Word) : remUnsigned a b = if b = 0 then a else a % b := by
  simp only [remUnsigned, BitVec.umod_def]

/-- What the quotient that truncates leaves has the sign of the dividend. -/
theorem remSigned_eq (a b : Word) : remSigned a b = if b = 0 then a else if a.toInt = -(2 ^ 63) ∧ b.toInt = -1 then 0
    else BitVec.ofInt 64 (a.toInt.tmod b.toInt) := by
  simp only [remSigned, Int.tmod_def]

/-- The signed identity of R61, for every pair. -/
theorem divSigned_remSigned (a b : Word) : a = b * divSigned a b + remSigned a b := by
  rw [divSigned, remSigned_eq]
  split
  next h0 => simp [h0]
  next h0 =>
    split
    next hc =>
      obtain ⟨ha, hb⟩ := hc
      have ea : a = BitVec.ofInt 64 (-(2 ^ 63)) := by rw [← ha, BitVec.ofInt_toInt]
      have eb : b = BitVec.ofInt 64 (-1) := by rw [← hb, BitVec.ofInt_toInt]
      rw [ea, eb]
      decide
    next hc =>
      calc a = BitVec.ofInt 64 (b.toInt * a.toInt.tdiv b.toInt + a.toInt.tmod b.toInt) := by
            rw [Int.mul_tdiv_add_tmod, BitVec.ofInt_toInt]
        _ = b * BitVec.ofInt 64 (a.toInt.tdiv b.toInt) + BitVec.ofInt 64 (a.toInt.tmod b.toInt) := by
            rw [BitVec.ofInt_add, BitVec.ofInt_mul, BitVec.ofInt_toInt]

/-- The unsigned identity of R61, for every pair. -/
theorem divUnsigned_remUnsigned (a b : Word) : a = b * divUnsigned a b + remUnsigned a b := by
  rw [divUnsigned, remUnsigned]
  split
  next h0 => simp [h0]
  next h0 =>
    calc a = BitVec.ofNat 64 (b.toNat * (a.toNat / b.toNat) + a.toNat % b.toNat) := by
          rw [Nat.div_add_mod, BitVec.ofNat_toNat, BitVec.setWidth_eq]
      _ = b * BitVec.ofNat 64 (a.toNat / b.toNat) + BitVec.ofNat 64 (a.toNat % b.toNat) := by
          rw [BitVec.ofNat_add, BitVec.ofNat_mul, BitVec.ofNat_toNat, BitVec.setWidth_eq]

/-- Settles O3: the four land as their scalar rows say (O1), with the corners of R61, and the identities hold of the rows' functions. -/
theorem divideRemainder : Obligations.DivideRemainder := by
  refine ⟨fun d a b x s hs => ⟨?_, ?_, ?_, ?_⟩, fun a b => ⟨divSigned_remSigned a b, divUnsigned_remUnsigned a b⟩⟩
  · exact scalarResults _ x false 6 _ (.div d a b x) s hs
  · rw [← divUnsigned_eq]
    exact scalarResults _ x false 6 _ (.divu d a b x) s hs
  · rw [← remSigned_eq]
    exact scalarResults _ x false 6 _ (.rem d a b x) s hs
  · rw [← remUnsigned_eq]
    exact scalarResults _ x false 6 _ (.remu d a b x) s hs

end Sys2Proof.Machine
end

section
/-!
PROOFS. LDC does not always read as a fetch from memory does (O8 fails): in a block that runs from its loop buffer it takes the constant
from the buffer (R24), which the row does not say.
-/
set_option Elab.async false
namespace Sys2Proof.Machine
open Sys2Proof Sys2Proof.Rules

/-! ### What LDC sends -/

/-- What the shared issue knows of LDC. -/
def ldcSpec (d : Reg) (i : BitVec 12) (x : Ctl) : Spec := { x := x, minLat := 7, gdst := [d], enc := encode (.ldc d i x) }

/-- The address of the constant of an LDC at `own` (R63). -/
def constAddr (own : Word) (i : BitVec 12) : Nat := ((own &&& ~~~7#64) + 8 * i.signExtend 64).toNat

/-- Result `r` is the youngest in flight on core `c`. -/
def State.sentLast (t : State) (c : CoreId) (r : Result) : Prop := ∃ fs f, (t.core c).flights = fs ++ [f] ∧ f.result = r

/-- There is one youngest result. -/
theorem sentLast_unique {t : State} {c : CoreId} {r r' : Result} (h : t.sentLast c r) (h' : t.sentLast c r') : r = r' := by
  obtain ⟨fs, f, e, rfl⟩ := h
  obtain ⟨fs', f', e', rfl⟩ := h'
  have hl : [f] = [f'] := (List.append_inj' (e.symm.trans e') rfl).2
  rw [List.head_eq_of_cons_eq hl]

/-- An instruction that sends one result leaves it the youngest. -/
theorem does_sentLast {s u t : State} {x : Ctl} {k : Control} {cx : Cx} {nb : Nat} {m : Bool} {r : Result} (hw : cx.who = s.turn)
    (h : s.Does x (u.fly cx nb m [r]) k t) : t.sentLast s.turn.core r := by
  obtain ⟨fs, hfly, hres, _⟩ := fly_core u cx nb m [r]
  obtain ⟨f, rfl, hf⟩ := List.map_eq_singleton_iff.1 hres
  obtain ⟨_, _, _, _, _, _, _, _, _, _, hcore⟩ := h.follows.core s.turn.core
  refine ⟨(u.core cx.who.core).flights, f, ?_, hf⟩
  rw [hcore, ← hw, hfly]

/-- What LDC does with the answer of reading its constant at `ea` as code. -/
def ldcAct (d : Reg) (ea : Nat) (cx : Cx) : Except PageFault (List Byte) × State → Act
  | (.error f, u) => .fault u (Trap.page f)
  | (.ok bs, u) =>
    let v := u.usedLine cx.who (ea / 256)
    .done ((spent v).fly cx v.deliverAt false [.g d (BitVec.ofNat 64 (ofBytes bs))]) .next true

/-- The meaning of LDC. -/
def ldcBody (d : Reg) (i : BitVec 12) (cx : Cx) (p : State) : Act :=
  ldcAct d (constAddr cx.own i) cx (p.codeBytes cx.who (constAddr cx.own i) 8)

theorem execLdc_eq (d : Reg) (i : BitVec 12) (x : Ctl) (s : State) :
    exec (.ldc d i x) s = issue (ldcSpec d i x) (ldcBody d i) s := rfl

/-- LDC sends the bytes that the model reads as code: those of the loop buffer where it holds them (R24), otherwise fetched ones. -/
theorem ldc_sends (d : Reg) {i : BitVec 12} {x : Ctl} {s : State} {bs : List Byte} (h : s.ready x false 7 ring = true)
    (hb : ((s.popped x).codeBytes s.turn (constAddr s.mine.pc i) 8).1 = .ok bs) :
    ∃ t, exec (.ldc d i x) s = .next t ∧ t.sentLast s.turn.core (.g d (BitVec.ofNat 64 (ofBytes bs))) := by
  have hread : (s.popped x).codeBytes s.turn (constAddr s.mine.pc i) 8 = (.ok bs, _) := Prod.ext hb rfl
  have hact := congrArg (ldcAct d (constAddr s.mine.pc i) ((ldcSpec d i x).cx s)) hread
  obtain ⟨t, he, hd⟩ := issue_does (sp := ldcSpec d i x) (body := ldcBody d i) h rfl rfl rfl hact
  rw [execLdc_eq]
  exact ⟨t, he, does_sentLast rfl hd⟩

/-! ### A constant in the loop buffer -/

/-- LDC g1 of the constant two words on, at 0x10000, in an iteration of a launch; memory holds 0 there. -/
def ldcPlaced : State := State.reset.withFetchWord 32 0x08011801

/-- The body of the block around it, as its loop buffer took it: the instruction, twelve bytes, and the constant, each of its bytes 1. -/
def loopBody : List Byte := toBytes 4 0x08011801 ++ List.replicate 12 0 ++ List.replicate 8 1

/-- It runs from the loop buffer, which still holds the constant that memory has lost (R24). -/
def ldcLooped : State :=
  ldcPlaced.modSeq ldcPlaced.turn fun v =>
    { v.setLc 0 2 with
      blocks := [{ start := 0x10000, stop := 0x10018, interlocked := true, buf := some ((loopBody.zipIdx 0x10000).map Prod.swap) }] }

/-- What fetching the constant gives there. -/
def fetchedConst : Fetched × State := (ldcLooped.popped Ctl.plain).fetchBytes ldcLooped.turn (constAddr ldcLooped.mine.pc 2) 8

theorem ldcLooped_ready : ldcLooped.ready Ctl.plain false 7 ring = true := by decide +kernel

theorem ldcLooped_code : ((ldcLooped.popped Ctl.plain).codeBytes ldcLooped.turn (constAddr ldcLooped.mine.pc 2) 8).1
    = .ok (List.replicate 8 1) := by decide +kernel

theorem fetchedConst_zeros : fetchedConst.1 = .bytes (List.replicate 8 0) false := by decide +kernel

theorem fetchedConst_free : fetchedConst.2.me.tapePhase = .free := by decide +kernel

theorem fetchedConst_turn : fetchedConst.2.turn = (ldcLooped.popped Ctl.plain).turn := by decide +kernel

/-- Refutes O8: inside a block that runs from its loop buffer LDC reads the buffer's bytes (R24), here ones, and the row asks for those that
a fetch gives, here zeros. -/
theorem not_constants : ¬ Obligations.Constants := by
  intro h
  obtain ⟨t, he, _, hrow⟩ := h _ _ (.ldc 1 2 Ctl.plain (List.replicate 8 0) fetchedConst.2) ldcLooped ldcLooped_ready True.intro rfl
    ⟨Prod.ext fetchedConst_zeros rfl, fetchedConst_free, fetchedConst_turn⟩
  obtain ⟨u, he', hsent⟩ := ldc_sends 1 ldcLooped_ready ldcLooped_code
  obtain rfl : t = u := Host.Outcome.next.inj (he.symm.trans he')
  have hsame := sentLast_unique hsent (does_sentLast rfl hrow)
  exact absurd (congrArg (fun r => r.value.getLsbD 0) hsame) (by decide)

end Sys2Proof.Machine
end

section
/-!
PROOFS. Row loads and stores of the scratchpad, and VDEFER (O14).
-/
set_option Elab.async false
namespace Sys2Proof.Machine
open Sys2Proof Sys2Proof.Rules

/-- An aligned row inside the scratchpad does not trap (R177). -/
theorem rowAddr_good {ea : Nat} {a b : Act} (h : ea % 64 = 0 ∧ ea + 512 ≤ 2 ^ 22) : (if rowAddrBad ea then a else b) = b := by
  refine if_neg ?_
  simp only [rowAddrBad, Bool.or_eq_true, bne_iff_ne, decide_eq_true_eq]
  omega

/-- A store by bytes does not trap where every enabled byte lies in the scratchpad (R177). -/
theorem rowBytes_good {ea : Nat} {m : Mask} {a b : Act} (h : ∀ j < 512, m.getLsbD j = true → ea + j < 2 ^ 22) :
    (if (List.range 512).any fun j => m.getLsbD j && decide (ea + j ≥ 2 ^ 22) then a else b) = b := by
  refine if_neg ?_
  simp only [List.any_eq_true, List.mem_range, Bool.and_eq_true, decide_eq_true_eq, not_exists, not_and]
  intro j hj hm
  have := h j hj hm
  omega

/-- What VLD sends, `r` what it reads of its row and `c` its core as it was before. -/
def vldSent (cx : Cx) (w : Who) (v : VReg) (ea : Nat) (c : Core) (r : List Byte × Bool × State) : State :=
  let y : Vx := { c := c, flush := cx.exposed }
  let bad := (List.range 512).any fun j => (laneMask y.k.w y.sel).getLsbD j && c.spadBad.contains ((ea + j) / 32)
  (if bad then r.2.2.modCore w.core fun c => c.derrRecord 2 ea else r.2.2).fly cx 0 false
    [y.put v y.k.w (lanesOf y.k.w y.k.n (ofBytes r.1)) y.sel 0]

/-- VLD as a function of the bytes that it reads. -/
theorem execVld_eq (v : VReg) (a : Reg) (o : BitVec 5) (x : Ctl) (s : State) :
    execVld v a o x s = issue
      { x := x, minLat := 3, issuers := [.C], gsrc := [a], wide := fun _ => [.mask 0], wdst := fun c => [.row (c.vrow v)]
        tape := .command, enc := encode (.vld v a o x) }
      (fun cx s =>
        if rowAddrBad (vmAddr (s.seq cx.who) a o) then .trap (Trap.spaddr (vmAddr (s.seq cx.who) a o))
        else
          .done (vldSent cx cx.who v (vmAddr (s.seq cx.who) a o) (s.core cx.who.core)
            (s.spadLoad cx.who.core (cx.actor s) (vmAddr (s.seq cx.who) a o) 512)) .next true) s := by
  unfold execVld
  generalize State.spadLoad = load
  rfl

/-- What VDEFER does with its items, the state after its rows are read. -/
def vdeferAct (cx : Cx) (ten : BitVec 8) (n : Nat) (items : List (List Byte)) (s : State) : Act :=
  if items.isEmpty then .done s .next false
  else if !s.groupHeld ten (n / 16) then .trap (Trap.listNotHeld n)
  else if (s.list n).count + items.length > s.listCap ten then .trap (Trap.listFull n)
  else .done (s.listPush cx ten n items) .next false

theorem vdeferAct_none {cx : Cx} {ten : BitVec 8} {n : Nat} {items : List (List Byte)} {s : State} (h : items = []) :
    vdeferAct cx ten n items s = .done s .next false := by
  subst h; rfl

theorem vdeferAct_pushes {cx : Cx} {ten : BitVec 8} {n : Nat} {items : List (List Byte)} {s : State} (h : items ≠ [])
    (hg : s.groupHeld ten (n / 16) = true) (hc : (s.list n).count + items.length ≤ s.listCap ten) :
    vdeferAct cx ten n items s = .done (s.listPush cx ten n items) .next false := by
  have h0 : items.isEmpty = false := by simp [h]
  rw [vdeferAct, h0, hg, if_neg Bool.false_ne_true, if_neg (by decide), if_neg (by omega)]

/-- VDEFER as a function of the items that its row of the table names. -/
theorem execVdefer_eq (g : Reg) (a b : VReg) (x : Ctl) (s : State) :
    execVdefer g a b x s = issue
      { x := x, issuers := [.C], gsrc := [g], wide := fun c => [.row (c.vrow a), .row (c.vrow b), .mask 0]
        tape := .abandon, acc := [.core], rel := true, enc := encode (.vdefer g a b x) }
      (fun cx s =>
        let y : Vx := { c := s.core cx.who.core, flush := cx.exposed }
        vdeferAct cx (s.tenOf cx.who.core) (((s.seq cx.who).rg g).toNat % 1024) (deferred y a b)
          (s.noteRows cx.who.core [y.c.vrow a, y.c.vrow b])) s := rfl

/-- Settles O14: each row's conditions are the tests that its meaning makes. -/
theorem vectorAccess : Obligations.VectorAccess := by
  intro i f h
  cases h with
  | vld v a o x =>
    refine completes_meaning _ _ (execVld_eq v a o x) ?_
    intro p cx hw hg
    refine ⟨true, ?_⟩
    rw [seq_who hw, hw]
    refine (rowAddr_good hg).trans ?_
    generalize State.spadLoad = load
    rfl
  | vst v a o x =>
    refine completes_meaning _ _ (fun _ => rfl) ?_
    intro p cx hw hg
    refine ⟨false, ?_⟩
    rw [seq_who hw, hw]
    exact rowAddr_good hg
  | vstu v a o x =>
    refine completes_meaning _ _ (fun _ => rfl) ?_
    intro p cx hw hg
    refine ⟨false, ?_⟩
    rw [seq_who hw, hw]
    exact rowBytes_good hg
  | vdeferNone g a b x =>
    refine completes_meaning _ _ (execVdefer_eq g a b x) ?_
    intro p cx hw hn
    refine ⟨false, ?_⟩
    rw [seq_who hw, hw]
    exact vdeferAct_none hn
  | vdefer g a b x u =>
    refine completes_meaning _ _ (execVdefer_eq g a b x) ?_
    intro p cx hw ⟨hn, hu, hg, hc⟩
    subst hu
    refine ⟨false, ?_⟩
    rw [seq_who hw, hw]
    exact vdeferAct_pushes hn hg hc

end Sys2Proof.Machine
end

section
/-!
PROOFS. Work lists, quiescence, token counts and the barrier (O19).
-/
set_option Elab.async false
namespace Sys2Proof.Machine
open Sys2Proof Sys2Proof.Rules

/-- A group that is granted does not trap (R101). -/
theorem granted_goes {b : Bool} {t u : Act} (h : b = true) : (if !b then t else u) = u := by
  subst h; rfl

/-- Taking an item from an empty list takes none (R104). -/
theorem listPop_empty {s : State} {n : Nat} (h : (s.list n).count = 0) (cx : Cx) (ten : BitVec 8) (k : Nat) :
    s.listPop cx ten n k = ([], s) := by
  cases k with
  | zero => rfl
  | succ k => rw [State.listPop, if_pos h]

/-- What WLPOP does with the items of its single form. -/
def popSingle (cx : Cx) (d : Reg) (at0 : Nat) (r : List (List Byte) × State) : Act :=
  match r with
  | (bs :: _, s) =>
    .done (s.fly cx at0 false [.g d (BitVec.ofNat 64 (ofBytes (bs.take 8))), .g (regNext d) (BitVec.ofNat 64 (ofBytes (bs.drop 8)))])
      .next true
  | ([], s) => .done (s.fly cx at0 false [.g d 0, .g (regNext d) 0x8000000000000000]) .next true

/-- What WLPOP does with those of its batch form. -/
def popMany (cx : Cx) (w : Who) (d : Reg) (at0 adr : Nat) (r : List (List Byte) × State) : Act :=
  .done ((r.2.spadStore w.core (cx.actor r.2) adr r.1.flatten).fly cx at0 false [.g d (BitVec.ofNat 64 r.1.length)]) .next true

/-- What WLPOP does in the turn of its sequencer, `g` the register that names the list, the count and the place. -/
def wlpopAct (cx : Cx) (d : Reg) (g : Nat) (s : State) : Act :=
  if g / 1024 % 1024 ≠ 0 ∧ (g / 2 ^ 20 % 2 ^ 22 % 16 ≠ 0 ∨ g / 2 ^ 20 % 2 ^ 22 + 16 * (g / 1024 % 1024) > 2 ^ 22) then
    .trap (Trap.spaddr (g / 2 ^ 20 % 2 ^ 22))
  else if !s.groupHeld (ten s) (g % 1024 / 16) then .trap (Trap.listNotHeld (g % 1024))
  else if g / 1024 % 1024 = 0 then popSingle cx d s.deliverAt ((acked s).listPop cx (ten s) (g % 1024) 1)
  else popMany cx s.turn d s.deliverAt (g / 2 ^ 20 % 2 ^ 22) ((acked s).listPop cx (ten s) (g % 1024) (g / 1024 % 1024))

/-- The single form, its group granted. -/
theorem wlpopAct_single {cx : Cx} {d : Reg} {g : Nat} {s : State} (h : g / 1024 % 1024 = 0)
    (hg : s.groupHeld (ten s) (g % 1024 / 16) = true) :
    wlpopAct cx d g s = popSingle cx d s.deliverAt ((acked s).listPop cx (ten s) (g % 1024) 1) := by
  rw [wlpopAct, if_neg (fun k => k.1 h), hg, if_neg (by decide), if_pos h]

/-- The batch form, its place good and its group granted. -/
theorem wlpopAct_batch {cx : Cx} {d : Reg} {g : Nat} {s : State} (h : g / 1024 % 1024 ≠ 0)
    (ha : g / 2 ^ 20 % 2 ^ 22 % 16 = 0 ∧ g / 2 ^ 20 % 2 ^ 22 + 16 * (g / 1024 % 1024) ≤ 2 ^ 22)
    (hg : s.groupHeld (ten s) (g % 1024 / 16) = true) :
    wlpopAct cx d g s = popMany cx s.turn d s.deliverAt (g / 2 ^ 20 % 2 ^ 22)
      ((acked s).listPop cx (ten s) (g % 1024) (g / 1024 % 1024)) := by
  rw [wlpopAct, if_neg (by omega), hg, if_neg (by decide), if_neg h]

/-- The batch form's wait for a command that holds its bytes. -/
def wlpopWaits (a : Reg) (cx : Cx) (s : State) : Bool :=
  let g := ((s.seq cx.who).rg a).toNat
  g / 1024 % 1024 != 0 && (s.core cx.who.core).cmdHolds cx.who.sq (g / 2 ^ 20 % 2 ^ 22) (16 * (g / 1024 % 1024))

/-- A row of WLPOP: nothing of its own holds it, and its meaning gives the row's effect. -/
theorem completes_wlpop {f : Effect} (d a : Reg) (x : Ctl) (hc : ∀ s, f.clear s → wlpopWaits a (s.context f.spec) s = false)
    (hb : ∀ cx p, cx.who = p.turn → f.when cx p → wlpopAct cx d (p.mine.rg a).toNat p = .done (f.gives cx p) (f.flow cx p) true)
    (hx : ∀ e, f.shares { x := x, minLat := 7, gsrc := [a], gdst := [d, regNext d], tape := .abandon, acc := [.core], enc := e
                          waits := wlpopWaits a } := by exact fun _ => ⟨rfl, rfl, rfl, rfl, rfl, rfl, rfl⟩) :
    f.completes (.wlpop d a x) := by
  refine completes_clear
    { x := x, minLat := 7, gsrc := [a], gdst := [d, regNext d], tape := .abandon, acc := [.core], enc := encode (.wlpop d a x)
      waits := wlpopWaits a } _ (fun _ => rfl) (fun s h => ⟨rfl, hc s h⟩) ?_ (hx _)
  intro p cx hw hk
  refine ⟨true, ?_⟩
  rw [← hb cx p hw hk, hw]
  rfl

/-- The single form does not wait for a command. -/
theorem wlpopWaits_single {a : Reg} {cx : Cx} {s : State} (h : ((s.seq cx.who).rg a).toNat / 1024 % 1024 = 0) :
    wlpopWaits a cx s = false := by
  simp only [wlpopWaits, h, bne_self_eq_false, Bool.false_and]

/-- The batch form does not wait where no command holds its bytes. -/
theorem wlpopWaits_batch {a : Reg} {cx : Cx} {s : State}
    (h : (s.core cx.who.core).cmdHolds cx.who.sq (((s.seq cx.who).rg a).toNat / 2 ^ 20 % 2 ^ 22)
      (16 * (((s.seq cx.who).rg a).toNat / 1024 % 1024)) = false) :
    wlpopWaits a cx s = false := by
  simp only [wlpopWaits, h, Bool.and_false]

/-- The result of QUIES in flight watches its group. -/
theorem modCore_watching (s : State) (cx : Cx) (g : Nat) (w : Who) (hw : s.turn = w) :
    (s.modCore w.core fun c =>
      { c with flights := c.flights.map fun f => if f.ins == cx.stamp then { f with watch := some g } else f }) = watching s cx g := by
  subst hw
  simp only [watching, beq_iff_eq]

/-- Settles O19: each row's conditions choose the branch of its meaning. -/
theorem listsAndBarrier : Obligations.ListsAndBarrier := by
  intro i f h
  cases h with
  | push d a x =>
    refine completes_meaning _ _ (fun _ => rfl) ?_
    intro p cx hw ⟨hg, hc⟩
    refine ⟨false, ?_⟩
    rw [seq_who hw, hw]
    exact (granted_goes hg).trans (if_neg (Nat.not_le.mpr hc))
  | popNone d a x =>
    refine completes_wlpop d a x (fun s hc => wlpopWaits_single hc) ?_
    intro cx p _ ⟨hc, hg, hn⟩
    rw [wlpopAct_single hc hg]
    exact congrArg (popSingle cx d p.deliverAt) (listPop_empty hn cx (ten p) 1)
  | popOne d a x bs u =>
    refine completes_wlpop d a x (fun s hc => wlpopWaits_single hc) ?_
    intro cx p _ ⟨hc, hg, hn⟩
    rw [wlpopAct_single hc hg]
    exact congrArg (popSingle cx d p.deliverAt) hn
  | popBatch d a x c adr items u =>
    refine completes_wlpop d a x (fun s hc => wlpopWaits_batch hc) ?_
    intro cx p hw ⟨hc, h0, ha, h16, hin, hg, hn⟩
    subst hc ha
    rw [wlpopAct_batch h0 ⟨h16, hin⟩ hg]
    exact congrArg (popMany cx p.turn d p.deliverAt _) hn
  | quies d a x =>
    refine completes_meaning _ _ (fun _ => rfl) ?_
    intro p cx hw hg
    refine ⟨true, ?_⟩
    rw [seq_who hw, hw]
    refine Eq.trans (granted_goes hg) ?_
    exact congrArg (fun t : State => Act.done t.watchQuiet .next true) (modCore_watching _ cx _ p.turn rfl)
  | tkcnt d x =>
    refine completes_meaning _ _ (fun _ => rfl) ?_
    intro p cx hw _
    refine ⟨true, ?_⟩
    rw [hw]
    rfl
  | bar x l =>
    refine completes_clear _ _ (fun _ => rfl) (fun s h => ⟨h, rfl⟩) ?_
    intro p cx hw ⟨hl, hm⟩
    refine ⟨false, ?_⟩
    rw [hw, hl]
    exact if_neg (by rw [hm]; decide)

end Sys2Proof.Machine
end

section
/-!
PROOFS. Tokens hold every instruction back, and are taken once (O58).
-/
set_option Elab.async false
namespace Sys2Proof.Machine
open Sys2Proof Sys2Proof.Rules Sys2Proof.Encoding

/-! ### Every 32-bit instruction issues with the common fields of its word -/

/-- The meaning of an instruction with a 32-bit encoding is a shared issue with the token bits that the word and its mask word give. -/
theorem exec_issues {i : Instr} {w : Nat} {m : Option (BitVec 32)} (h : encode i = some (.word w m)) (s : State) :
    ∃ sp body, exec i s = issue sp body s ∧ sp.x = ctlOf w m := by
  cases i <;> cases h <;> exact ⟨_, _, rfl, (ctlOf_word32 _ _ _).symm⟩

/-! ### The counts after the pops -/

/-- What accompanies an instruction leaves the counts. -/
theorem sameBut_tokenCount {c d : Core} (h : c.sameBut d) (n : Fin 8) : d.tokenCount n = c.tokenCount n := by
  obtain ⟨_, _, _, _, _, _, _, _, _, _, rfl⟩ := h
  rfl

/-- Taking a token lowers the count of its queue by one, where it holds one, and no other. -/
theorem popToken_count (c : Core) (q : Sq) (i n : Fin 8) :
    (c.popToken q i).tokenCount n = c.tokenCount n - if n = i then 1 else 0 := by
  unfold Core.popToken
  split
  next he =>
    by_cases hn : n = i
    · simp [hn, Core.tokenCount, he]
    · simp [hn]
  next t ts he =>
    have hm : ∀ (k : Core) (f : Seq → Seq), (k.modSeq q f).tokenCount n = k.tokenCount n := fun k f => by cases q <;> rfl
    rw [hm]
    by_cases hn : n = i
    · subst hn
      simp [Core.tokenCount, he, vector_get_set]
    · simp [hn, Ne.symm hn, Core.tokenCount, vector_get_set]

/-- The pops of an instruction lower the counts of the queues that they name (R82, R83). -/
theorem popTokens_count (c : Core) (q : Sq) (x : Ctl) (n : Fin 8) :
    (c.popTokens q x).tokenCount n
      = c.tokenCount n - if (x.wf = true ∧ n = popF q) ∨ (x.wb = true ∧ n = popB q) then 1 else 0 := by
  have hne : popF q ≠ popB q := by cases q <;> decide
  unfold Core.popTokens
  cases x.wf <;> cases x.wb <;> simp only [Bool.false_eq_true, if_true, if_false, popToken_count, false_and, true_and, false_or, or_false,
    Nat.sub_zero]
  by_cases hf : n = popF q
  · simp [hf, hne]
  · simp [hf]

/-- Results sent into flight leave the counts. -/
theorem fly_tokenCount (s : State) (cx : Cx) (nb : Nat) (m : Bool) (rs : List Result) (n : Fin 8) :
    ((s.fly cx nb m rs).core cx.who.core).tokenCount n = (s.core cx.who.core).tokenCount n := by
  obtain ⟨fs, h, _⟩ := fly_core s cx nb m rs
  rw [h]
  rfl

/-- A scalar instruction that issues takes one token of each queue that it pops (R83). -/
theorem scalarRow_pops {i : Instr} {x : Ctl} {short : Bool} {lat : Nat} {r : Seq → Result} (h : ScalarRow i x short lat r) {s : State}
    (hs : s.ready x short lat ring = true) : ∃ t, exec i s = .next t ∧ ∀ n : Fin 8, (t.core s.turn.core).tokenCount n
      = s.me.tokenCount n - if (x.wf = true ∧ n = popF s.turn.sq) ∨ (x.wb = true ∧ n = popB s.turn.sq) then 1 else 0 := by
  obtain ⟨gs, ps, gd, pd, cls, enc, he⟩ := scalarRow_exec h
  rw [he s]
  refine ⟨_, issue_done (sp := scalarSpec x short lat gs ps gd pd cls enc) hs rfl rfl rfl rfl, fun n => ?_⟩
  obtain ⟨hr, _⟩ := ready_parts hs
  rw [sameBut_tokenCount ((issue_follows _ s _ _ _ hr).core s.turn.core) n]
  refine (fly_tokenCount _ _ _ _ _ n).trans ?_
  rw [← popTokens_count]
  exact congrArg (fun c : Core => c.tokenCount n) (core_modCore s s.turn.core fun c => c.popTokens s.turn.sq x)

/-- Settles O58: every 32-bit instruction is a shared issue (`exec_issues`), which tests its tokens before its operands. -/
theorem tokenGate : Obligations.TokenGate := by
  refine ⟨?_, fun i x short lat r h s hs => scalarRow_pops h hs⟩
  intro i w m s he hr ht
  obtain ⟨sp, body, hx, hc⟩ := exec_issues he s
  rw [hx]
  exact issue_tokens hr (by rw [hc]; exact ht)

end Sys2Proof.Machine
end

section
/-!
PROOFS. Dispatch, hand-out and queue packets (O39).
-/
set_option Elab.async false
namespace Sys2Proof.Machine
open Sys2Proof Sys2Proof.Rules

/-! ### Writing memory leaves the copies that go on (R416) -/

theorem foldState_copies {α : Type} (f : State → α → State) (hf : ∀ s x, (f s x).copies = s.copies) (xs : List α) (s : State) :
    (xs.foldl f s).copies = s.copies :=
  foldl_keeps (fun t : State => t.copies = s.copies) f (fun t x ht => (hf t x).trans ht) xs s rfl

@[simp] theorem setMark_copies (s : State) (k : Nat) (m : Option SectorMark) : (s.setMark k m).copies = s.copies := rfl
@[simp] theorem putSector_copies (s : State) (k : Nat) (d : List Byte) : (s.putSector k d).copies = s.copies := by
  unfold State.putSector
  rfl
@[simp] theorem foundUe_copies (s : State) (k : Nat) : (s.foundUe k).copies = s.copies := rfl
@[simp] theorem noteFound_copies (s : State) (k : Nat) : (s.noteFound k).copies = s.copies := rfl

theorem checkSector_copies (s : State) (k : Nat) : (s.checkSector k).2.copies = s.copies := by
  unfold State.checkSector
  simp only
  split
  · rfl
  · rw [noteFound_copies]
    split <;> rfl
  · split
    · rfl
    · split <;> simp

theorem unmark_copies (s : State) (k : Nat) : (s.unmark k).2.copies = s.copies := by
  unfold State.unmark
  split
  · rfl
  · rfl
  · split <;> simp

theorem rewrite_copies (s : State) (v : Nat × SectorNow) : (s.rewrite v).copies = s.copies := by
  unfold State.rewrite
  split <;> simp

theorem choosePlace_copies (s : State) (a : Actor) (k : WriteKind) (pa : Nat) : (s.choosePlace a k pa).2.copies = s.copies := by
  unfold State.choosePlace
  split <;> rfl

theorem putByte_copies (s : State) (a : Actor) (k : WriteKind) (bad whole : Bool) (pa : Nat) (v : Byte) (n : Nat) :
    (s.putByte a k bad whole pa v n).copies = s.copies := by
  unfold State.putByte
  simp only
  split
  · rfl
  · split <;> rfl

theorem writeByte_copies (s : State) (a : Actor) (k : WriteKind) (whole : Bool) (pa : Nat) (v : Byte) :
    (s.writeByte a k whole pa v).copies = s.copies :=
  (putByte_copies (s.choosePlace a k pa).2 a k false whole pa v _).trans (choosePlace_copies s a k pa)

theorem writeWhole_copies (s : State) (a : Actor) (k : WriteKind) (sec : Nat) (ws : List (Nat × Byte)) :
    (s.writeWhole a k sec ws).copies = s.copies := by
  have hp : ∀ (n : Nat) (t : State), (ws.foldl (fun s w => s.putByte a k true true w.1 w.2 n) t).copies = t.copies := fun n t =>
    foldState_copies _ (fun t w => putByte_copies t _ _ _ _ _ _ _) ws t
  unfold State.writeWhole
  simp only
  generalize List.all ws _ = loose
  have hu := unmark_copies s sec
  generalize s.unmark sec = u at hu ⊢
  split
  · cases loose
    · exact (hp 0 _).trans hu
    · simp only [if_true]
      split
      · exact hp 1 _
      · exact (hp 0 _).trans hu
  · exact (foldState_copies _ (fun t w => writeByte_copies t _ _ _ _ _) ws _).trans hu

theorem writePart_copies (s : State) (a : Actor) (k : WriteKind) (sec : Nat) (ws : List (Nat × Byte)) :
    (s.writePart a k sec ws).copies = s.copies := by
  unfold State.writePart
  simp only
  have h := checkSector_copies s sec
  split
  · exact h
  · exact (foldState_copies _ (fun t w => writeByte_copies t _ _ _ _ _) ws _).trans ((rewrite_copies _ _).trans h)

theorem putPas_copies (s : State) (a : Actor) (k : WriteKind) (ws : List (Nat × Byte)) : (s.putPas a k ws).copies = s.copies := by
  unfold State.putPas
  refine foldState_copies _ (fun t sec => ?_) _ s
  simp only
  split
  · exact writeWhole_copies t _ _ _ _
  · exact writePart_copies t _ _ _ _

theorem sendAway_copies (s : State) (h : HeldAccess) : (s.sendAway h).copies = s.copies := by
  unfold State.sendAway
  split <;> rfl

theorem touchCode_copies (s : State) (pas : List Nat) : (s.touchCode pas).copies = s.copies :=
  foldState_copies (fun (s : State) (l : Nat × CoreId × Fin 16) => s.emptyTape l.2.1 l.2.2 7) (fun _ _ => rfl) _ s

theorem holdWrites_copies (s : State) (a : Actor) (ws : List (Nat × Byte)) : (s.holdWrites a ws).copies = s.copies :=
  foldState_copies _ (fun _ _ => sendAway_copies _ _) _ s

theorem writePas_copies (s : State) (a : Actor) (k : WriteKind) (ws : List (Nat × Byte)) :
    (s.writePas a k ws).copies = s.copies := by
  unfold State.writePas
  simp only
  rw [putPas_copies, holdWrites_copies, touchCode_copies]

/-- Writing no byte changes none. -/
theorem writePas_none_cells (s : State) (a : Actor) (k : WriteKind) : (s.writePas a k []).mem.cells = s.mem.cells := by
  have h : (s.writePas a k []).mem = s.mem := (holdWrites_mem _ a []).trans (touchCode_mem s [])
  rw [h]

/-! ### Heads of queues -/

/-- The head of a queue that stands so. -/
theorem head_of_headed {s : State} {n : Fin 256} {p : Packet} {ps : List Packet} (h : headed s n p ps) : s.head n = some p := by
  obtain ⟨he, hp⟩ := h
  simp only [State.head, Queue.enabled, he, hp, if_true, List.head?_cons]

/-- The packets behind the head of a queue. -/
theorem rest_of_headed {s : State} {n : Fin 256} {p : Packet} {ps : List Packet} (h : headed s n p ps) :
    (s.queues.get n).packets.drop 1 = ps := by
  rw [h.2]; rfl

/-- The fabric works where `up` says so (R407). -/
theorem fabricUp_of_up {s : State} (h : up s) : s.fabricUp = true := by
  simp only [State.fabricUp, h.1, h.2, Bool.not_false, Bool.and_self]

/-- The head leaves its queue. -/
theorem popHead_queued {s : State} {n : Fin 256} {ps : List Packet} (h : (s.queues.get n).packets.drop 1 = ps) :
    s.popHead n = queued s n ps := by
  simp only [State.popHead, State.modQueue, queued, h]

/-- The head leaves its queue by a dispatch (R118). -/
theorem popHead_dispatched {s : State} {n : Fin 256} {ps : List Packet} (h : (s.queues.get n).packets.drop 1 = ps) :
    (s.popHead n).countsAsDispatch n = dispatched s n ps := by
  simp only [State.countsAsDispatch, State.popHead, State.modQueue, dispatched, Queue.setLevel, fld, vector_get_set, if_true, h,
    Vector.set_set, Nat.reduceAdd, Nat.reduceSub, Nat.reducePow, Nat.mod_mod]

/-- Every earlier packet has completed where no launch and no copy of the queue goes on (R414). -/
theorem earlierDone_of {s : State} {n : Fin 256} (hl : ∀ l ∈ s.launches, l.packet.queue ≠ n)
    (hc : ∀ c ∈ s.copies, c.packet.queue ≠ n) : s.earlierDone n = true := by
  simp only [State.earlierDone, Bool.and_eq_true, Bool.not_eq_true', List.any_eq_false, beq_iff_eq]
  exact ⟨hl, hc⟩

/-! ### A LAUNCH at its head (R414) -/

/-- What a LAUNCH at its head becomes, once its record has been judged. -/
def judged (n : Fin 256) (p : Packet) (r : Except (Nat × Nat) Candidate × State) : Out :=
  let ends := fun (s : State) (st va : Nat) => (((s.popHead n).countsAsDispatch n).completePacket p st 0 0 (BitVec.ofNat 64 va) [])
  match r with
  | (.error (st, va), s) => .next (ends s st va)
  | (.ok c, s) =>
    if loopCount c.looptab = 0 then .next (ends s statusOk 0)
    else .next (s.modQueue n fun q => { q with packets := { p with record := some c } :: q.packets.drop 1 })

/-- A LAUNCH at the head, not yet judged, is judged while the fabric works. -/
theorem launchAtHead_judges {s : State} {n : Fin 256} {p : Packet} {ps : List Packet} (hh : headed s n p ps) (ho : p.op = 1)
    (hr : p.record = none) (hs : p.serial = false) (hu : up s) : execLaunchAtHead n s = judged n p (s.judgeLaunch p) := by
  have hg : ¬ (p.op ≠ 1 ∨ p.record.isSome ∨ p.serial ∨ (!s.fabricUp) = true) := by
    simp [ho, hr, hs, fabricUp_of_up hu]
  unfold execLaunchAtHead
  rw [head_of_headed hh]
  exact if_neg hg

/-! ### Copies (R416) -/

/-- What COPY_BEGIN makes of the control block. -/
def copyRead (p : Packet) (r : Except (Nat × Nat) (List Byte) × State) : Out :=
  match r with
  | (.error (st, va), s) => .next (s.completePacket p st 0 0 (BitVec.ofNat 64 va) [])
  | (.ok b, s) =>
    if recNat b 24 8 ≠ 0 ∨ 2 ^ 40 < recNat b 16 8 then .next (s.completePacket p statusRecord 0 0 0 [])
    else
      .next { s with copies := s.copies ++
        [{ id := p.num, packet := p, src := BitVec.ofNat 64 (recNat b 0 8), dst := BitVec.ofNat 64 (recNat b 8 8), len := recNat b 16 8 }] }

/-- A COPY at the head leaves its queue, and its control block is read, while the fabric works. -/
theorem copyBegin_reads {s : State} {n : Fin 256} {p : Packet} {ps : List Packet} (hh : headed s n p ps) (ho : p.op = 2)
    (hs : p.serial = false) (hu : up s) : execCopyBegin n s = copyRead p ((queued s n ps).readArg p.ten p.arg.toNat 32) := by
  have hg : ¬ (p.op ≠ 2 ∨ p.serial ∨ (!s.fabricUp) = true) := by
    simp [ho, hs, fabricUp_of_up hu]
  unfold execCopyBegin
  rw [head_of_headed hh, ← popHead_queued (rest_of_headed hh)]
  exact if_neg hg

/-- A copy's step, by what it has to read. -/
def copyStep (s : State) (j : CopyJob) : Out :=
  match j.todo with
  | none => .next (s.planCopy j)
  | some (p :: ps) => .next (s.readCopy j (p :: ps))
  | some [] =>
    if j.errs.isEmpty then .next (if j.got.isEmpty then s.endCopy j (statusOk, 0) else s.writeCopy j)
    else
      let (ws, s) := s.someWrites j.got
      let (k, s) := s.freeNat
      .next ((s.writePas j.actor .plain ws).endCopy j (j.errs.getD (k % j.errs.length) (statusPage, 0)))

/-- A copy that goes on makes its step. -/
theorem copyComplete_step {s : State} {j : CopyJob} (h : (s.copies.find? fun k => k.id == j.id) = some j) :
    execCopyComplete j.id s = copyStep s j := by
  unfold execCopyComplete
  rw [h]
  rfl

/-- The copy goes on no more. -/
def copyGone (s : State) (j : CopyJob) : State := { s with copies := s.copies.filter fun k => k.id != j.id }

/-- What has gone on is the copy of that number. -/
theorem setCopy_eq (s : State) (j : CopyJob) : s.setCopy j = { s with copies := s.copies.map fun k => if k.id = j.id then j else k } := by
  simp only [State.setCopy, beq_iff_eq]

/-- Pieces that are all one are read or written in one. -/
theorem somePieces_one {s : State} {g : Nat} {xs : List Nat} (hne : xs ≠ []) (h : ∀ x ∈ xs, x = g) :
    s.somePieces xs.eraseDups = ([g], s) := by
  obtain ⟨n, rfl⟩ : ∃ n, xs = List.replicate n g := ⟨_, List.eq_replicate_of_mem h⟩
  cases n with
  | zero => exact absurd rfl hne
  | succ n =>
    have e : (List.replicate (n + 1) g).eraseDups = [g] := by
      rw [List.replicate_succ, List.eraseDups_cons]
      simp
    rw [e]
    rfl

/-- What the plan of a copy makes of byte `i`: the place that it reads and the one that it writes, where neither page faults. -/
def plannedPair (src dst : List (Option Nat)) (i : Nat) : Option (Nat × Nat × Nat) :=
  match src[i]?, dst[i]? with
  | some (some a), some (some b) => some (i, a, b)
  | _, _ => none

theorem plannedPair_eq (src dst : List (Option Nat)) (i : Nat) : plannedPair src dst i = (do
    let a ← (src[i]?).join
    let b ← (dst[i]?).join
    pure (i, a, b)) := by
  unfold plannedPair
  rcases src[i]? with _ | _ | a <;> rcases dst[i]? with _ | _ | b <;> rfl

/-- A copy is planned by the translations of its source and of its destination. -/
theorem planCopy_eq {s u v : State} {j : CopyJob} {src dst : List (Option Nat)} {fs fd : List PageFault}
    (hs : s.copyUnits j.packet.ten Need.load (j.len / 65536 + 2) j.src.toNat j.len = (src, fs, u))
    (hd : u.copyUnits j.packet.ten Need.store (j.len / 65536 + 2) j.dst.toNat j.len = (dst, fd, v)) :
    s.planCopy j = v.setCopy { j with
      todo := some ((List.range j.len).filterMap (plannedPair src dst)), errs := (fs ++ fd).map fun f => (3, f.va) } := by
  simp only [State.planCopy, hs, hd]
  rfl

/-- Every element is selected where all lie in the chosen piece. -/
theorem filter_piece {α : Type} {xs : List α} {f : α → Nat} {g : Nat} (h : ∀ x ∈ xs, f x = g) :
    (xs.filter fun x => [g].contains (f x)) = xs :=
  List.filter_eq_self.2 fun x hx => by simp [h x hx]

/-- None is left then. -/
theorem filter_left {α : Type} {xs : List α} {f : α → Nat} {g : Nat} (h : ∀ x ∈ xs, f x = g) :
    (xs.filter fun x => !([g].contains (f x))) = [] :=
  List.filter_eq_nil_iff.2 fun x hx => by simp [h x hx]

/-- A copy whose bytes to read are all of one granule reads them in one. -/
theorem readCopy_one {s u : State} {j : CopyJob} {p : Nat × Nat × Nat} {ps : List (Nat × Nat × Nat)} {bs : List (Byte × Bool)}
    (hp : ∀ q ∈ ps, q.2.1 / 8 = p.2.1 / 8) (hb : s.readAs j.actor ((p :: ps).map fun q => q.2.1) = (bs, u))
    (hok : ∀ b ∈ bs, b.2 = false) :
    s.readCopy j (p :: ps)
      = u.setCopy { j with todo := some [], got := j.got ++ ((p :: ps).zip bs).map fun g => (g.1.2.2, g.2.1) } := by
  have hall : ∀ q ∈ p :: ps, q.2.1 / 8 = p.2.1 / 8 := List.forall_mem_cons.2 ⟨rfl, hp⟩
  have hsome : s.somePieces ((p :: ps).map fun q => q.2.1 / 8).eraseDups = ([p.2.1 / 8], s) :=
    somePieces_one (by simp) (List.forall_mem_map.2 hall)
  have hclean : ∀ g ∈ (p :: ps).zip bs, g.2.2 = false := fun g hg => hok _ (List.of_mem_zip hg).2
  have hgood : (((p :: ps).zip bs).filter fun g => !g.2.2) = (p :: ps).zip bs :=
    List.filter_eq_self.2 fun g hg => by simp [hclean g hg]
  have hbad : (((p :: ps).zip bs).filter fun g => g.2.2) = [] :=
    List.filter_eq_nil_iff.2 fun g hg => by simp [hclean g hg]
  simp only [State.readCopy, hsome, filter_piece hall, filter_left hall, hb, hgood, hbad, List.map_nil, List.append_nil]

/-- A copy whose bytes to write are all of one granule, no sector of them whole, writes them in one and ends. -/
theorem writeCopy_one {s : State} {j : CopyJob} {g : Nat} (hne : j.got ≠ [])
    (hw : ∀ w ∈ j.got, w.1 / 8 = g ∧ covers j.got (w.1 / 32) = false) :
    s.writeCopy j = (s.writePas j.actor .plain j.got).endCopy j (statusOk, 0) := by
  have hall : ∀ w ∈ j.got, (if covers j.got (w.1 / 32) then w.1 / 32 * 4 else w.1 / 8) = g := fun w h => by
    simp [(hw w h).1, (hw w h).2]
  have hsome : s.somePieces (j.got.map fun w => if covers j.got (w.1 / 32) then w.1 / 32 * 4 else w.1 / 8).eraseDups = ([g], s) :=
    somePieces_one (by simpa using hne) (List.forall_mem_map.2 hall)
  simp only [State.writeCopy, hsome, filter_piece hall, filter_left hall, List.isEmpty_nil, if_true]

/-! ### Ageing (R118) -/

/-- Setting LEVEL sets those bits. -/
theorem setLevel_level (q : Queue) (l now : Nat) (h : l < 8) : (q.setLevel l now).cfg.toNat / 256 % 8 = l := by
  have hm : (~~~0x700#32).toNat / 2 ^ 8 % 2 ^ 3 = 0 := by decide
  show ((q.cfg &&& ~~~0x700#32) ||| BitVec.ofNat 32 (l % 8 * 256)).toNat / 2 ^ 8 % 2 ^ 3 = l
  rw [BitVec.toNat_or, BitVec.toNat_and, BitVec.toNat_ofNat, Nat.or_div_two_pow, Nat.and_div_two_pow, Nat.or_mod_two_pow,
    Nat.and_mod_two_pow, hm, Nat.and_zero, Nat.zero_or]
  omega

/-- Which queues rise. -/
theorem ages_iff (s : State) (q : Queue) : s.ages q = true ↔ q.cfg.getLsbD 0 = true ∧ q.packets ≠ [] ∧ q.cfg.toNat / 256 % 8 ≤ 5
    ∧ (s.fe.age.get (Fin.ofNat 6 (q.cfg.toNat / 256 % 8))).toNat ≠ 0
    ∧ (s.fe.age.get (Fin.ofNat 6 (q.cfg.toNat / 256 % 8))).toNat < s.storeClk.toNat - q.waitFrom := by
  simp only [State.ages, Queue.enabled, Bool.and_eq_true, Bool.not_eq_true', List.isEmpty_eq_false_iff, decide_eq_true_eq, and_assoc]
  rfl

/-! ### The decision and the walker (R119 to R124) -/

/-- A candidate at the head, between decisions of the fabric, is dispatched or refused (R119 to R122). -/
def decided (n : Fin 256) (p : Packet) (c : Candidate) (s : State) : Out :=
  let lv := (s.queues.get n).level
  let l := s.launchFrom p c lv
  let fits := s.admits l
  if !s.launches.isEmpty && (!fits || s.launches.any Launch.solo) then
    .next (s.setFe fun f => { f with admitRefusals := f.admitRefusals + 1 })
  else
    let s := (s.popHead n).countsAsDispatch n
    .next { s with
      launches := s.launches ++ [{ l with solo := !fits }]
      lastQueue := s.lastQueue.set (Fin.ofNat 8 lv).val (some n) (Fin.ofNat 8 lv).isLt
      fe := { s.fe with launchSeq := s.fe.launchSeq + 1 } }

/-- Every 16 cycles the chosen queue's head is decided. -/
theorem dispatchDecision_decides {s : State} {n : Fin 256} {p : Packet} {ps : List Packet} {c : Candidate} (hc : s.cycle % 16 = 0)
    (hu : up s) (hl : s.launches.length < 16) (hq : s.chosenQueue = some n) (hh : headed s n p ps) (hr : p.record = some c) :
    execDispatchDecision s = decided n p c s := by
  have hg : ¬ (s.cycle % 16 ≠ 0 ∨ (!s.fabricUp) = true ∨ 16 ≤ s.launches.length) := by
    simp [hc, fabricUp_of_up hu, hl]
  obtain ⟨num, op, serial, irq, queue, usertag, cpl, arg, ten, perf, record, past⟩ := p
  obtain rfl : record = some c := hr
  unfold execDispatchDecision
  rw [if_neg hg, hq]
  simp only [head_of_headed hh]
  rfl

/-- It is refused where it does not fit beside what runs, or one admitted alone runs (R122). -/
theorem decided_refuses {s : State} {n : Fin 256} {p : Packet} {c : Candidate} (hne : s.launches ≠ [])
    (h : s.admits (s.launchFrom p c (s.queues.get n).level) = false ∨ ∃ l ∈ s.launches, l.solo = true) :
    decided n p c s = .next { s with fe := { s.fe with admitRefusals := s.fe.admitRefusals + 1 } } := by
  refine if_pos ?_
  simpa [hne] using h

/-- Otherwise it is dispatched. -/
theorem decided_dispatches {s : State} {n : Fin 256} {p : Packet} {c : Candidate}
    (h : s.launches = [] ∨ (s.admits (s.launchFrom p c (s.queues.get n).level) = true ∧ ∀ l ∈ s.launches, l.solo = false)) :
    ∃ t, decided n p c s = .next t
      ∧ t.launches = s.launches ++ [{ s.launchFrom p c (s.queues.get n).level with
          solo := !s.admits (s.launchFrom p c (s.queues.get n).level) }]
      ∧ t.queues = ((s.popHead n).countsAsDispatch n).queues ∧ t.fe = { s.fe with launchSeq := s.fe.launchSeq + 1 }
      ∧ t.mem = s.mem ∧ t.cores = s.cores ∧ t.outputs = s.outputs := by
  refine ⟨_, if_neg ?_, rfl, rfl, rfl, rfl, rfl, rfl⟩
  rcases h with h | ⟨ha, hs⟩
  · simp [h]
  · simpa [ha] using fun _ l hl => hs l hl

/-- A core that is given the next tuple of a launch. -/
def handTuple (l : Launch) (k : Core) : Core :=
  { k with iter := some { launch := l.id, tuple := l.next, ten := l.packet.ten, tape := l.tape, started := false }
           suspended := k.suspended.map fun u => { u with given := true } }

/-- What the walker leaves after it gives the next tuple of a launch to core `c` (R97). -/
def handedOut (s : State) (l : Launch) (c : CoreId) : State :=
  (s.modCore c (handTuple l)).modLaunch l.id fun k =>
    { k with next := k.next + 1, lastCore := some c, waitFrom := none, members := k.members ++ [(c, k.next, false)]
             arrived := k.arrived.filter fun a => a.1 != c }

/-- The chosen core gets the tuple where no other launch offered it first. -/
theorem handout_gives {s : State} {l : Launch} {c : CoreId} (hf : (s.launches.find? fun k => k.id == l.id) = some l)
    (hc : s.choice l = some c) (hr : s.receiver c = some l.id) : execTupleHandout l.id s = .next (handedOut s l c) := by
  rw [execTupleHandout, hf]
  simp only [hc]
  exact if_neg (not_not.2 hr)

/-- Settles O39: each row's conditions choose the branch of its event. -/
theorem dispatchEvents : Obligations.DispatchEvents := by
  intro i e h
  cases h with
  | serial n p ps =>
    intro s ⟨hh, hs, hl, hc⟩
    refine ⟨_, ?_, rfl⟩
    show execSerialWaitEnd n s = _
    rw [execSerialWaitEnd, head_of_headed hh]
    refine (if_pos (by rw [hs, earlierDone_of hl hc]; rfl)).trans ?_
    simp only [State.modQueue, queued, rest_of_headed hh]
  | candidate n p ps c u =>
    intro s ⟨hh, ho, hr, hs, hu, hj, hn, hq⟩
    refine ⟨_, (launchAtHead_judges hh ho hr hs hu).trans ?_, rfl⟩
    rw [hj]
    refine (if_neg hn).trans ?_
    have hps : (u.queues.get n).packets.drop 1 = ps := by rw [hq]; exact rest_of_headed hh
    simp only [State.modQueue, queued, hps]
  | rejected n p ps st va u =>
    intro s ⟨hh, ho, hr, hs, hu, hj, hq, hk⟩
    refine ⟨_, (launchAtHead_judges hh ho hr hs hu).trans ?_, rfl⟩
    rw [hj, ← popHead_dispatched (by rw [hq]; exact rest_of_headed hh)]
    rfl
  | copyBegin n p ps b u =>
    intro s ⟨hh, ho, hs, hu, hb, h0, hlen⟩
    refine ⟨_, (copyBegin_reads hh ho hs hu).trans ?_, rfl⟩
    rw [hb]
    exact if_neg (by omega)
  | copyRecord n p ps b u =>
    intro s ⟨hh, ho, hs, hu, hb, hbad⟩
    refine ⟨_, (copyBegin_reads hh ho hs hu).trans ?_, rfl⟩
    rw [hb]
    exact if_pos hbad
  | copyPlanned j src dst fs fd u v =>
    intro s ⟨hf, hn, hs, hd, hc⟩
    refine ⟨_, (copyComplete_step hf).trans ?_, rfl⟩
    simp only [copyStep, hn, planCopy_eq hs hd, setCopy_eq, hc, plannedPair_eq]
  | copyReads j p ps bs u =>
    intro s ⟨hf, ht, hp, hb, hok, hc⟩
    refine ⟨_, (copyComplete_step hf).trans ?_, rfl⟩
    simp only [copyStep, ht, readCopy_one hp hb hok, setCopy_eq, hc]
  | copyWrites j g =>
    intro s ⟨hf, ht, he, hne, hw⟩
    have hstep : copyStep s j = .next ((s.writePas j.actor .plain j.got).endCopy j (statusOk, 0)) := by
      simp [copyStep, ht, he, hne, writeCopy_one hne hw]
    refine ⟨_, (copyComplete_step hf).trans hstep, copyGone (s.writePas j.actor .plain j.got) j, rfl, ?_, ?_, rfl⟩
    · exact (writePas_aside s j.actor .plain j.got).queues
    · exact congrArg (List.filter fun k => k.id != j.id) (writePas_copies s j.actor .plain j.got)
  | copyNone j =>
    intro s ⟨hf, ht, he, hg⟩
    refine ⟨_, (copyComplete_step hf).trans ?_, rfl⟩
    simp only [copyStep, ht, he, hg, List.isEmpty_nil, if_true]
    rfl
  | copyFails j e =>
    intro s ⟨hf, ht, he, hg⟩
    have hstep : copyStep s j = .next ((s.freeNat.2.writePas j.actor .plain []).endCopy j e) := by
      simp [copyStep, ht, he, hg, State.someWrites, Nat.mod_one]
    refine ⟨_, (copyComplete_step hf).trans hstep, copyGone (s.freeNat.2.writePas j.actor .plain []) j, ?_, ?_, ?_, rfl⟩
    · exact writePas_none_cells s.freeNat.2 j.actor .plain
    · exact congrArg (List.filter fun k => k.id != j.id) (writePas_copies s.freeNat.2 j.actor .plain [])
    · exact (writePas_aside s.freeNat.2 j.actor .plain []).queues
  | mark n p ps =>
    intro s ⟨hh, ho, hu, hl, hc⟩
    refine ⟨_, ?_, rfl⟩
    show execMarkComplete n s = _
    rw [execMarkComplete, head_of_headed hh, ← popHead_queued (rest_of_headed hh)]
    exact if_pos ⟨ho, earlierDone_of hl hc, fabricUp_of_up hu⟩
  | ageing =>
    intro s _
    refine ⟨_, rfl, _, rfl, fun n => ?_⟩
    have hget : (s.queues.map fun q => if s.ages q then q.setLevel (q.level + 1) s.storeClk.toNat else q).get n
        = if s.ages (s.queues.get n) then (s.queues.get n).setLevel ((s.queues.get n).level + 1) s.storeClk.toNat else s.queues.get n := by
      simp [Vector.get]
    rw [hget]
    refine ⟨fun h => ?_, fun h => if_neg (mt (ages_iff s _).1 h)⟩
    rw [if_pos ((ages_iff s _).2 h)]
    obtain ⟨_, _, hl, _⟩ := h
    exact ⟨setLevel_level _ _ _ (Nat.lt_of_le_of_lt (Nat.succ_le_succ hl) (by decide)), rfl, rfl⟩
  | dispatch n p ps c =>
    intro s ⟨hc, hu, hl, hq, hh, hr, hok⟩
    obtain ⟨t, ht, h⟩ := decided_dispatches hok
    refine ⟨t, (dispatchDecision_decides hc hu hl hq hh hr).trans ht, ?_⟩
    rw [popHead_dispatched (rest_of_headed hh)] at h
    exact h
  | refusal n p ps c =>
    intro s ⟨hc, hu, hl, hq, hh, hr, hne, hno⟩
    exact ⟨_, (dispatchDecision_decides hc hu hl hq hh hr).trans (decided_refuses hne hno), rfl⟩
  | handout l c =>
    intro s ⟨hf, hc, hr⟩
    have hcores := core_modCore s c (handTuple l)
    refine ⟨_, handout_gives hf hc hr, ?_, fun d hd => core_modCore_ne s (handTuple l) hd, fun q => ?_, rfl, ?_⟩
    · exact congrArg Core.iter hcores
    · exact modCore_seq s c (handTuple l) (fun k w => by cases w <;> rfl) q
    · simp only [handedOut, State.modLaunch, beq_iff_eq]
      rfl
  | handoutWaits l =>
    intro s ⟨hf, hc, he, hn, hw⟩
    refine ⟨_, ?_, rfl⟩
    show execTupleHandout l.id s = _
    rw [execTupleHandout, hf]
    simp only [hc]
    exact if_pos (by simp [he, hn, hw])

end Sys2Proof.Machine
end

section
/-!
PROOFS. Iterations, barrier release, pre-emption and resumption (O36): what the end of an iteration leaves alone.
-/
set_option Elab.async false
namespace Sys2Proof.Machine
open Sys2Proof Sys2Proof.Rules

/-! ### What the store's upkeep and a completion record leave alone -/

/-- The cycle, the queues, the tenancies, the launches and every core's iteration are as they were. -/
structure Apart (s t : State) : Prop where
  cycle : t.cycle = s.cycle
  queues : t.queues = s.queues
  tens : t.tens = s.tens
  launches : t.launches = s.launches
  iter : ∀ c, (t.core c).iter = (s.core c).iter

theorem Apart.refl (s : State) : Apart s s := ⟨rfl, rfl, rfl, rfl, fun _ => rfl⟩

theorem Apart.trans {a b c : State} (h : Apart a b) (k : Apart b c) : Apart a c :=
  ⟨k.cycle.trans h.cycle, k.queues.trans h.queues, k.tens.trans h.tens, k.launches.trans h.launches,
    fun d => (k.iter d).trans (h.iter d)⟩

theorem State.Settles.apart {s t : State} (h : s.Settles t) : Apart s t := by
  refine ⟨h.cycle, h.queues, h.tens, h.launches, fun c => ?_⟩
  obtain ⟨_, _, _, _, _, _, _, _, _, _, _, _, _, e⟩ := h.core c
  rw [e]

theorem Aside.apart {s t : State} (h : Aside s t) : Apart s t := h.settles.apart

theorem Apart.ite {s t u : State} {p : Prop} [Decidable p] (h : Apart s t) (k : Apart s u) : Apart s (if p then t else u) := by
  split
  · exact h
  · exact k

theorem Apart.fold {α : Type} (f : State → α → State) (hf : ∀ s x, Apart s (f s x)) (xs : List α) (s : State) :
    Apart s (xs.foldl f s) :=
  foldl_keeps (fun t => Apart s t) f (fun t x ht => ht.trans (hf t x)) xs s (Apart.refl s)

theorem modCore_apart (s : State) (c : CoreId) (f : Core → Core) (hf : ∀ k, (f k).iter = k.iter) : Apart s (s.modCore c f) := by
  refine ⟨rfl, rfl, rfl, rfl, fun d => ?_⟩
  by_cases h : d = c
  · rw [h, core_modCore, hf]
  · rw [core_modCore_ne s f h]

/-- Flits and lanes. -/
theorem modPair_apart (s : State) (p : Nat) (f : Pair → Pair) : Apart s (s.modPair p f) := ⟨rfl, rfl, rfl, rfl, fun _ => rfl⟩

theorem modTx_apart (s : State) (i : Fin 256) (f : TxLane → TxLane) : Apart s (s.modTx i f) := ⟨rfl, rfl, rfl, rfl, fun _ => rfl⟩

theorem assignFlit_apart (s : State) (p : Nat) (f : SentFlit) (l : Fin 256) : Apart s (s.assignFlit p f l) :=
  (modPair_apart s p _).trans ((modTx_apart _ l _).trans (emit_settles _ _).apart)

theorem pump_apart : ∀ (n : Nat) (s : State) (p : Nat), Apart s (s.pump p n)
  | 0, s, _ => Apart.refl s
  | n + 1, s, p => by
    unfold State.pump
    extract_lets
    split
    · split
      · exact Apart.refl s
      · exact (assignFlit_apart s p _ _).trans (pump_apart n _ p)
    · split
      · exact Apart.refl s
      · exact Apart.ite (Apart.refl s) ((modPair_apart s p _).trans (pump_apart n _ p))

theorem sendFlit_apart (s : State) (p type : Nat) (bs : List Byte) : Apart s (s.sendFlit p type bs) :=
  (modPair_apart s p _).trans (pump_apart _ _ p)

/-- The index, the directory and the frames. -/
theorem modInst_apart (s : State) (i : Nat) (f : Inst → Inst) : Apart s (s.modInst i f) := ⟨rfl, rfl, rfl, rfl, fun _ => rfl⟩

theorem poke_apart (s : State) (pa : Nat) (bs : List Byte) : Apart s (s.poke pa bs) := (writePas_aside s _ _ _).apart

theorem putIx_apart (s : State) (c : InstRec) (n : Nat) (e : IxEntry) : Apart s (s.putIx c n e) := (writePas_aside s _ _ _).apart

theorem dirReg_apart (s : State) (t : Nat × Nat) (name pkg : Nat) : Apart s (s.dirReg t name pkg) := by
  unfold State.dirReg
  split
  · exact poke_apart s _ _
  · split
    · exact poke_apart s _ _
    · exact (Aside.mem s s.mem _ s.free).apart

theorem dirDereg_apart (s : State) (t : Nat × Nat) (name pkg : Nat) : Apart s (s.dirDereg t name pkg) := by
  unfold State.dirDereg
  split
  · exact Apart.refl s
  · exact Apart.ite (poke_apart s _ _) (poke_apart s _ _)

theorem podNotice_apart (s : State) (i : Nat) (c : InstRec) (op name : Nat) : Apart s (s.podNotice i c op name) := by
  unfold State.podNotice
  split
  · exact Apart.refl s
  · exact Apart.ite (Apart.ite (dirReg_apart s _ _ _) (dirDereg_apart s _ _ _)) (sendFlit_apart s _ _ _)

theorem dropFrameAt_apart (s : State) (i : Nat) (c : InstRec) (tier pa : Nat) : Apart s (s.dropFrameAt i c tier pa) := by
  unfold State.dropFrameAt
  split
  · exact modInst_apart s _ _
  · exact Apart.refl s

theorem dropT0_apart (s : State) (i : Nat) (c : InstRec) (e : IxEntry) : Apart s (s.dropT0 i c e) :=
  Apart.ite (modInst_apart s _ _) (Apart.refl s)

theorem freeOld_apart (s : State) (i n : Nat) : Apart s (s.freeOld i n) := by
  unfold State.freeOld
  exact (Apart.fold _ (fun s _ => Apart.ite (Apart.refl s) (modInst_apart s _ _)) _ s).trans (modInst_apart _ _ _)

theorem reap_apart : ∀ (fuel : Nat) (s : State) (i : Nat) (c : InstRec) (n : Nat), Apart s (s.reap i c fuel n)
  | 0, s, _, _, _ => Apart.refl s
  | fuel + 1, s, i, c, n => by
    unfold State.reap
    extract_lets e s1 s2 s3 s4 s5 s6
    have h3 : Apart s s3 := (freeOld_apart s i n).trans ((dropT0_apart s1 i c e).trans (dropFrameAt_apart s2 i c _ _))
    have h6 : Apart s s6 := h3.trans ((poke_apart s3 _ _).trans ((putIx_apart s4 c n _).trans (podNotice_apart s5 i c 2 _)))
    exact Apart.ite (Apart.ite h6 (h6.trans ((putIx_apart s6 c _ _).trans (reap_apart fuel _ i c _)))) (Apart.refl s)

theorem unref_apart (s : State) (i : Nat) (c : InstRec) (n : Nat) : Apart s (s.unref i c n) :=
  (Apart.ite ((putIx_apart s c n _).trans (freeOld_apart _ i n)) (putIx_apart s c n _)).trans (reap_apart _ _ i c n)

theorem unlockSegment_apart (s : State) (c : CoreId) (g : Nat) : Apart s (s.unlockSegment c g) := by
  unfold State.unlockSegment
  refine Apart.trans (Apart.fold _ (fun t r => ?_) _ s) (modCore_apart _ c _ fun _ => rfl)
  split
  · exact Apart.refl t
  · exact unref_apart t _ _ _

/-- Unlocking a core's segments drops references and nothing of the cores' iterations or of the launches (R259). -/
theorem unlockAll_apart (s : State) (c : CoreId) : Apart s (s.unlockAll c) :=
  Apart.fold (fun (s : State) g => s.unlockSegment c g) (fun s g => unlockSegment_apart s c g) _ s

/-- A completion record changes of the queues only what SERIAL packets follow (R415, R417). -/
theorem completePacket_apart (s : State) (p : Packet) (st : Nat) (cause : BitVec 32) (id : Nat) (va : Word) (sp : List Span) :
    Apart (s.modQueue p.queue fun q => { q with past := mergeNew q.past sp }) (s.completePacket p st cause id va sp) := by
  unfold State.completePacket
  extract_lets u
  have h := (translateBytes_aside u Actor.host 0 p.ten Need.store p.cpl.toNat 32).apart
  split
  next v e =>
    rw [e] at h
    refine h.trans ?_
    unfold State.latchFe
    exact Apart.ite (Apart.refl v) (Aside.mem v v.mem _ v.free).apart
  next pas v e =>
    rw [e] at h
    extract_lets seen _ w x
    have hw : Apart v w := Apart.ite (Apart.refl v) (Aside.mem v _ v.fe v.free).apart
    have hx : Apart u x := h.trans (hw.trans (writePas_aside w _ _ _).apart)
    exact Apart.ite (hx.trans (emit_settles x _).apart) hx

/-- The packets and the register of a queue. -/
theorem modQueue_past (s : State) (m n : Fin 256) (f : Queue → List Span) :
    (((s.modQueue m fun q => { q with past := f q }).queues.get n).packets = (s.queues.get n).packets)
      ∧ ((s.modQueue m fun q => { q with past := f q }).queues.get n).cfg = (s.queues.get n).cfg := by
  simp only [State.modQueue, vector_get_set]
  by_cases h : m = n
  · simp [h]
  · simp [h]

end Sys2Proof.Machine
end

section
/-!
PROOFS. Iterations, barrier release, pre-emption and resumption (O36).
-/
set_option Elab.async false
namespace Sys2Proof.Machine
open Sys2Proof Sys2Proof.Rules

/-! ### The start of an iteration (R92) -/

/-- No tape of another tenancy is left to empty (R344). -/
theorem emptyOthers_none {s : State} {c : CoreId} {ten : BitVec 8}
    (h : ∀ p ∈ (s.core c).tapes.toList, p.st = .empty ∨ p.ten = ten) :
    ((List.finRange 16).foldl (fun s t =>
      if ((s.core c).tapes.get t).st != .empty && ((s.core c).tapes.get t).ten != ten then s.emptyTape c t 7 else s) s) = s := by
  have hstep : ∀ t : Fin 16, (if ((s.core c).tapes.get t).st != .empty && ((s.core c).tapes.get t).ten != ten
      then s.emptyTape c t 7 else s) = s := fun t => by
    have hm : (s.core c).tapes.get t ∈ (s.core c).tapes.toList := by simp [Vector.get]
    refine if_neg ?_
    rcases h _ hm with h | h <;> simp [h]
  exact foldl_keeps (fun t : State => t = s) _ (fun u t (hu : u = s) => hu ▸ hstep t) _ s rfl

/-- The iteration starts on a core that its launch has run on. -/
theorem iterationStart_begins {s : State} {c : CoreId} {it : Iter} {l : Launch} (hi : (s.core c).iter = some it)
    (hl : s.launchOf c = some l) (hs : it.started = false) (ht : ∀ p ∈ (s.core c).tapes.toList, p.st = .empty ∨ p.ten = it.ten)
    (hlast : (s.core c).lastLaunch = some it.launch) :
    execIterationStart c s
      = .next (s.modCore c fun k => k.begin l it (s.tens.get it.ten.toFin).trapvec s.mem.writes s.stamp) := by
  have ho : ((s.core c).lastLaunch != some it.launch) = false := by simp [hlast]
  unfold execIterationStart
  rw [hi, hl]
  simp only [hs, Bool.false_eq_true, if_false, ho, Bool.false_and, emptyOthers_none ht]

/-- A sequencer as its iteration begins has its entry point, no block and zeroed registers. -/
theorem begin_zeroed (v : Seq) (ent : Word) (ext : Nat) (trips : List Nat) (n : Nat) (k : Know) :
    (∀ r, (v.begin ent ext trips n k).rg r = 0) ∧ ∀ r : PReg, r ≠ 0 → (v.begin ent ext trips n k).rp r = false := by
  refine ⟨fun r => ?_, fun r hr => ?_⟩
  · simp [Seq.rg, Seq.begin, Seq.reset, Vector.get]
  · have h : r.val ≠ 0 := fun e => hr (Fin.ext e)
    simp only [Seq.rp, hr, if_false, Seq.begin, Seq.reset, Vector.get, Vector.toArray_ofFn, Array.getElem_ofFn, beq_eq_false_iff_ne]
    exact h

/-- The core's sequencers as the iteration begins. -/
theorem begin_seq (k : Core) (l : Launch) (it : Iter) (tv : Word) (n now : Nat) (q : Sq) :
    (k.begin l it tv n now).seq q
      = (k.seq q).begin (l.ent.getD (sqIndex q) 0) (l.ext.getD (sqIndex q) 0) l.temporal n l.startKnow := by
  cases q <;> rfl

/-- The tokens that the launch gives (R92). -/
theorem begin_tokens (k : Core) (l : Launch) (it : Iter) (tv : Word) (n now : Nat) (i : Fin 8) :
    (k.begin l it tv n now).tokenCount i = l.tok.getD i.val 0 := by
  simp only [Core.tokenCount, Core.begin, Vector.get, Vector.toArray_ofFn, Array.getElem_ofFn, List.length_replicate]
  rfl

/-! ### The end of an iteration (R93) -/

/-- Performing what a core has on its way settles the state. -/
theorem finishAccesses_settles (s : State) (c : CoreId) : s.Settles (s.finishAccesses c) :=
  (flushCore_aside s c).settles.trans (foldl_settles _ performPend_settles _ _)

/-- A core that has forgotten its iteration is free. -/
theorem clearIteration_freed (k : Core) : freed k.clearIteration :=
  ⟨rfl, rfl, rfl, rfl, rfl, rfl, fun q => by cases q <;> rfl⟩

/-- A launch one of whose iterations, on core `c`, has finished. -/
def Launch.oneDone (c : CoreId) (it : Iter) (now : Nat) (l : Launch) : Launch :=
  { l with done := l.done + 1, past := l.past ++ it.spans c now
           members := l.members.map fun m => if m.1 == c && m.2.1 == it.tuple then (c, it.tuple, true) else m }

/-- The core freed and its iteration counted. -/
def iterationGone (s : State) (c : CoreId) (it : Iter) : State :=
  ((s.finishAccesses c).modCore c Core.clearIteration).modLaunch it.launch (Launch.oneDone c it (s.finishAccesses c).stamp)

/-- A core that has finished, its accesses performed, is freed. -/
theorem iterationFinish_frees {s : State} {c : CoreId} {it : Iter} (hi : (s.core c).iter = some it) (hf : (s.core c).finished = true)
    (hp : ((s.finishAccesses c).core c).pend = []) :
    execIterationFinish c s = .next ((iterationGone s c it).settleLaunch it.launch) := by
  unfold execIterationFinish
  simp only [hi, hf, hp, Bool.not_true, Bool.false_eq_true, if_false, List.isEmpty_nil]
  rfl

/-- Its launch afterwards. -/
theorem iterationGone_find {s : State} {c : CoreId} {it : Iter} {l : Launch}
    (hl : (s.launches.find? fun m => m.id == it.launch) = some l) :
    ((iterationGone s c it).launches.find? fun m => m.id == it.launch) = some (l.oneDone c it (s.finishAccesses c).stamp) :=
  modLaunch_find (fun _ => rfl)
    (show ((s.finishAccesses c).launches.find? fun m => m.id == it.launch) = some l by rw [(finishAccesses_settles s c).launches]; exact hl)

/-- The core afterwards. -/
theorem iterationGone_core (s : State) (c : CoreId) (it : Iter) :
    (iterationGone s c it).core c = ((s.finishAccesses c).core c).clearIteration :=
  core_modCore (s.finishAccesses c) c Core.clearIteration

/-- A launch with tuples to hand out goes on. -/
theorem settleLaunch_open {s : State} {id : Nat} {l : Launch} (hl : (s.launches.find? fun m => m.id == id) = some l)
    (h : ¬ (l.done = l.next ∧ (l.ending.isSome ∨ l.count ≤ l.next))) : s.settleLaunch id = s := by
  unfold State.settleLaunch
  rw [hl]
  exact if_neg h

/-- A launch that completes is gone, its cores' segments unlocked (R259). -/
def launchGone (s : State) (id : Nat) (l : Launch) : State :=
  (l.members.map Prod.fst).eraseDups.foldl State.unlockAll { s with launches := s.launches.filter fun k => k.id != id }

/-- With its last tuple the launch completes. -/
theorem settleLaunch_completes {s : State} {id : Nat} {l : Launch} (hl : (s.launches.find? fun m => m.id == id) = some l)
    (h : l.done = l.next ∧ (l.ending.isSome ∨ l.count ≤ l.next)) :
    ∃ st cause va, s.settleLaunch id = (launchGone s id l).completePacket l.packet st cause l.id va l.past := by
  refine ⟨(l.ending.getD (statusOk, 0, 0)).1, (l.ending.getD (statusOk, 0, 0)).2.1, (l.ending.getD (statusOk, 0, 0)).2.2, ?_⟩
  unfold State.settleLaunch
  rw [hl]
  exact if_pos h

/-- Of queues, launches, the cycle and a core's iteration, completing a launch leaves what the rows say. -/
theorem launchGone_completes (s : State) (id : Nat) (l : Launch) (st : Nat) (cause : BitVec 32) (va : Word) (sp : List Span) :
    let t := (launchGone s id l).completePacket l.packet st cause l.id va sp
    (∀ m ∈ t.launches, m.id ≠ id) ∧ (∀ c, (t.core c).iter = (s.core c).iter) ∧ t.cycle = s.cycle
      ∧ ∀ n, (t.queues.get n).packets = (s.queues.get n).packets ∧ (t.queues.get n).cfg = (s.queues.get n).cfg := by
  have hu : Apart { s with launches := s.launches.filter fun k => k.id != id } (launchGone s id l) :=
    Apart.fold _ unlockAll_apart _ _
  have ht := completePacket_apart (launchGone s id l) l.packet st cause l.id va sp
  refine ⟨fun m hm => ?_, fun c => (ht.iter c).trans (hu.iter c), ht.cycle.trans hu.cycle, fun n => ?_⟩
  · rw [ht.launches] at hm
    replace hm : m ∈ (launchGone s id l).launches := hm
    rw [hu.launches] at hm
    simpa using (List.mem_filter.1 hm).2
  · obtain ⟨hp, hc⟩ := modQueue_past (launchGone s id l) l.packet.queue n fun q => mergeNew q.past sp
    rw [hu.queues] at hp hc
    rw [ht.queues]
    exact ⟨hp, hc⟩

/-! ### The barrier (R108, R110) -/

/-- Emptying a tape concerns its own core. -/
theorem emptyTape_core_ne (s : State) {c d : CoreId} (t : Fin 16) (n : Nat) (h : d ≠ c) : (s.emptyTape c t n).core d = s.core d := by
  unfold State.emptyTape
  generalize hu : s.modCore c _ = u
  show u.core d = s.core d
  rw [← hu]
  exact core_modCore_ne s _ h

/-- An abandoned recording concerns its own core. -/
theorem abandon_core_ne (s : State) {c d : CoreId} (n : Nat) (h : d ≠ c) : (s.abandon c n).core d = s.core d := by
  unfold State.abandon
  dsimp only
  split
  · split
    · rw [core_modCore_ne _ _ h]
      exact emptyTape_core_ne s _ n h
    · rfl
  · rfl

/-- So does the end of a stream. -/
theorem endTest_core_ne (s : State) {w : Who} {d : CoreId} (h : d ≠ w.core) : (s.endTest w).core d = s.core d := by
  unfold State.endTest
  dsimp only
  split
  · split
    · rw [abandon_core_ne _ _ h, core_modCore_ne _ _ h]
      exact core_modCore_ne s _ h
    · exact core_modCore_ne s _ h
  · rfl

/-- And an acquire, which brings publications and changes no byte. -/
theorem acquire_core_ne (s : State) {w : Who} {d : CoreId} (n : Nat) (rs : List Rel) (h : d ≠ w.core) :
    (s.acquire w n rs).core d = s.core d := by
  unfold State.acquire
  split
  · rfl
  · dsimp only
    generalize hu : s.modCore w.core _ = u
    show u.core d = s.core d
    rw [← hu]
    exact core_modCore_ne s _ h

theorem acquire_bytes (s : State) (w : Who) (n : Nat) (rs : List Rel) :
    (s.acquire w n rs).mem.cells = s.mem.cells ∧ (s.acquire w n rs).mem.hist = s.mem.hist
      ∧ (s.acquire w n rs).mem.marks = s.mem.marks := by
  unfold State.acquire
  split
  · exact ⟨rfl, rfl, rfl⟩
  · exact ⟨rfl, rfl, rfl⟩

/-- A core that waits at the barrier goes on. -/
def wake (rs : List Rel) (s : State) (c : CoreId) : State :=
  ((s.modCore c fun k => { k with barWaiting := false }).acquire { core := c, sq := .X } s.stamp rs).endTest { core := c, sq := .X }

/-- Of the cores, `cs` have gone on. -/
structure Woken (cs : List CoreId) (s t : State) : Prop where
  launches : t.launches = s.launches
  cells : t.mem.cells = s.mem.cells
  hist : t.mem.hist = s.mem.hist
  marks : t.mem.marks = s.mem.marks
  others : ∀ d, d ∉ cs → t.core d = s.core d
  goes : ∀ d ∈ cs, (t.core d).barWaiting = false

theorem wake_woken (rs : List Rel) (s : State) (c : CoreId) : Woken [c] s (wake rs s c) := by
  let w : Who := { core := c, sq := .X }
  have hset := acquire_settles (s.modCore c fun k => { k with barWaiting := false }) w s.stamp rs
  obtain ⟨hcells, hhist, hmarks⟩ := acquire_bytes (s.modCore c fun k => { k with barWaiting := false }) w s.stamp rs
  obtain ⟨hmem, _⟩ := endTest_still ((s.modCore c fun k => { k with barWaiting := false }).acquire w s.stamp rs) w
  have hend := endTest_follows ((s.modCore c fun k => { k with barWaiting := false }).acquire w s.stamp rs) w
  refine ⟨hend.launches.trans hset.launches, (congrArg Memory.cells hmem).trans hcells, (congrArg Memory.hist hmem).trans hhist,
    (congrArg Memory.marks hmem).trans hmarks, fun d hd => ?_, fun d hd => ?_⟩
  · have hne : d ≠ c := by simpa using hd
    exact (endTest_core_ne _ hne).trans ((acquire_core_ne _ _ _ hne).trans (core_modCore_ne s _ hne))
  · obtain rfl : d = c := by simpa using hd
    obtain ⟨_, _, _, _, _, _, _, _, _, _, e1⟩ := hend.core d
    obtain ⟨_, _, _, _, _, _, _, _, _, _, _, _, _, e2⟩ := hset.core d
    show ((State.endTest _ w).core d).barWaiting = false
    rw [e1]
    show ((State.acquire _ w s.stamp rs).core d).barWaiting = false
    rw [e2]
    exact congrArg Core.barWaiting (core_modCore s d _)

theorem wakeAll_woken (rs : List Rel) : ∀ (cs : List CoreId) (s : State), Woken cs s (cs.foldl (wake rs) s)
  | [], _ => ⟨rfl, rfl, rfl, rfl, fun _ _ => rfl, fun _ h => absurd h List.not_mem_nil⟩
  | c :: cs, s => by
    have h := wake_woken rs s c
    have k := wakeAll_woken rs cs (wake rs s c)
    refine ⟨k.launches.trans h.launches, k.cells.trans h.cells, k.hist.trans h.hist, k.marks.trans h.marks, fun d hd => ?_,
      fun d hd => ?_⟩
    · rw [List.mem_cons, not_or] at hd
      exact (k.others d hd.2).trans (h.others d (by simpa using hd.1))
    · by_cases hin : d ∈ cs
      · exact k.goes d hin
      · rw [List.foldl_cons, k.others d hin]
        exact h.goes d (by simpa [hin] using hd)

/-- The cores that wait in launch `id` at generation `n` or an earlier one. -/
def State.waiters (s : State) (id n : Nat) : List CoreId :=
  allCores.filter fun c => ((s.core c).awaits id).any fun g => decide (g ≤ n)

theorem mem_waiters {s : State} {id n : Nat} {c : CoreId} : c ∈ s.waiters id n ↔ ∃ g, (s.core c).awaits id = some g ∧ g ≤ n := by
  simp [State.waiters, allCores, Option.any_eq_true]

/-- Once the next generation is complete, every core that waits at it or an earlier one is woken. -/
theorem barrierRelease_wakes {s : State} {l : Launch} (hl : (s.launches.find? fun m => m.id == l.id) = some l)
    (hm : l.missing (l.released + 1) = false) (ha : ∃ a ∈ l.arrived, a.2 = l.released + 1) :
    execBarrierRelease l.id s = .next ((s.waiters l.id (l.released + 1)).foldl (wake l.barKnow)
      (s.modLaunch l.id fun m => { m with released := l.released + 1 })) := by
  have hany : (l.arrived.any fun a => a.2 == l.released + 1) = true := by simpa using ha
  unfold execBarrierRelease
  rw [hl]
  simp only [hm, hany, Bool.not_true, Bool.or_self, Bool.false_eq_true, if_false]
  rfl

/-! ### Pre-emption (R376 to R379, R381) -/

/-- A core freed, its iteration kept to be resumed (R378, R380). -/
def Core.suspend (it : Iter) (k : Core) : Core :=
  { k.clearIteration with
    ntlocks := 0, ntrefs := []
    suspended := some { iter := it, forLaunch := (k.preempt.map PreReq.launch).getD 0, given := false
                        tapePhase := k.tapePhase, tapeBegun := k.tapeBegun, tapeEnded := k.tapeEnded
                        barCount := k.barCount, gangCount := k.gangCount, arb := k.arb, vwb := k.vwb, ntlocks := k.ntlocks
                        ntrefs := k.ntrefs, tokens := k.tokens
                        seqs := ring.map fun q => ((k.seq q).unacked, (k.seq q).know, (k.seq q).eventLatch) } }

/-- The pre-emption counted and the core freed, once its image is written. -/
def suspendAll (c : CoreId) (it : Iter) (s : State) : State :=
  (({ s with fe := { s.fe with preempts := s.fe.preempts + 1 } } : State).modLaunch it.launch fun l =>
    { l with past := l.past ++ it.spans c s.stamp }).modCore c (Core.suspend it)

theorem suspend_freed (it : Iter) (k : Core) : freed (k.suspend it) :=
  ⟨rfl, rfl, rfl, rfl, rfl, rfl, fun q => by cases q <;> rfl⟩

theorem suspendAll_core (c : CoreId) (it : Iter) (s : State) : (suspendAll c it s).core c = (s.core c).suspend it :=
  core_modCore _ c _

theorem suspendAll_core_ne {c d : CoreId} (it : Iter) (s : State) (h : d ≠ c) : (suspendAll c it s).core d = s.core d :=
  core_modCore_ne _ _ h

/-- Taking a pre-emption, from the image's places and bytes. -/
def takeWith (a : Actor) (c : CoreId) (it : Iter) (r : Except PageFault (List (Nat × Byte)) × State) : Out :=
  match r with
  | (.error _, v) => .next (kept v c)
  | (.ok ws, u) =>
    let (seen, v) := u.checkSectors (sectorsOf (ws.filterMap fun x => u.placeOf x.1))
    if !(badOf seen).isEmpty then .next (kept v c)
    else
      .next (suspendAll c it ((v.imageWrite a c ws).abandon c 8))

/-- Where it may be taken, it is. -/
theorem preemptTake_takes {s : State} {c : CoreId} {it : Iter} {n : Nat} (h : mayTake s c it n) :
    execPreemptTake c s = takeWith (imageWriter ((s.flushCore c).capture c n) c) c it (imagePlaced s c it n) := by
  obtain ⟨hi, hm, hd, hr, hh, hc⟩ := h
  unfold execPreemptTake
  simp only [hi, hc, hm, hd, hr, hh, List.isEmpty_nil, Bool.and_self, Bool.not_true, Bool.false_eq_true, if_false]
  rfl

/-- A poisoned sector withdraws it (R381). -/
theorem takeWith_poisoned {a : Actor} {c : CoreId} {it : Iter} {ws : List (Nat × Byte)} {u v : State} {seen : List (Nat × SectorNow)}
    (hs : u.checkSectors (sectorsOf (ws.filterMap fun x => u.placeOf x.1)) = (seen, v)) (hb : badOf seen ≠ []) :
    takeWith a c it (.ok ws, u) = .next (kept v c) := by
  simp only [takeWith, hs]
  exact if_pos (by simpa using hb)

/-- Otherwise the image is written and the core freed. -/
theorem takeWith_frees {a : Actor} {c : CoreId} {it : Iter} {ws : List (Nat × Byte)} {u v : State} {seen : List (Nat × SectorNow)}
    (hs : u.checkSectors (sectorsOf (ws.filterMap fun x => u.placeOf x.1)) = (seen, v)) (hb : badOf seen = []) :
    takeWith a c it (.ok ws, u) = .next (suspendAll c it ((v.imageWrite a c ws).abandon c 8)) := by
  simp only [takeWith, hs]
  exact if_neg (by simp [hb])

/-! ### Resumption (R380, R381) -/

/-- An iteration that cannot be resumed ends, and its launch with CTXLOST. -/
def resumeLost (c : CoreId) (it : Iter) (slot : Nat) (v : State) : Out :=
  .next ((v.modCore c fun k => { k with suspended := none, iter := some it, lastLaunch := some it.launch }).endIteration c
    statusCtxlost 0 (BitVec.ofNat 64 slot))

/-- A core as its iteration goes on from an image: `ents` the launch's entry points and extents. -/
def Core.resumed (k : Core) (su : Suspended) (it : Iter) (ents : List Word × List Nat) (head : List Byte) (im : ImageData)
    (now writes : Nat) : Core :=
  let k := { k.zeroed with tokens := su.tokens }
  let k := { k with tokens := if maskTq (BitVec.ofNat 32 (at_ head 8 4)) then k.tokens else Vector.replicate 8 [] }
  let k := k.restoreCore im
  let withTape := at_ head 6 2 / 2 % 2 == 1
  let k := { k with
    iter := some it, suspended := none, lastLaunch := some it.launch, tapePhase := su.tapePhase
    tapeBegun := su.tapeBegun, tapeEnded := su.tapeEnded
    barCount := su.barCount, gangCount := su.gangCount, arb := su.arb, replayTape := if withTape then some (parseTape im.tape) else none
    resumeAt := now + 1, ramp := .cold }
  k.modSeqs fun q v =>
    let b := im.seqBytes (sqIndex q)
    let (un, kn, ev) := su.seqs.getD (sqIndex q) ([], Know.none, false)
    let v := restoreSeq v b
    { v with pc := evenAt b 256, entry := ents.1.getD (sqIndex q) 0, extent := ents.2.getD (sqIndex q) 0
             lastSafe := if v.ended then none else some (BitVec.ofNat 32 (at_ b 284 4)), unacked := un, know := kn, eventLatch := ev
             discard := writes, refetch := false, since := none, wait := .none, tried := 0 }

/-- The entry points and extents of the streams of launch `id`. -/
def State.streamsOf (s : State) (id : Nat) : List Word × List Nat :=
  (s.launches.find? fun l => l.id == id).elim ([], []) fun l => (l.ent, l.ext)

/-- A resumption in `w`, from the header of its image. -/
def resumeWith (c : CoreId) (su : Suspended) (it : Iter) (w : State) (r : Except PageFault (List Byte × Option Nat) × State) : Out :=
  let slot := w.slotOf it.ten c
  let a : Actor := { who := none, cls := .core, stamp := w.stamp, know := Know.none }
  match r with
  | (.error _, u) => resumeLost c it slot u
  | (.ok (head, p0), u) =>
    match u.readImage a c it.ten slot head su.vwb with
    | (.error _, v) => resumeLost c it slot v
    | (.ok (im, p1), v) =>
      if p0.isSome || !p1.isEmpty || imageStatus im c it su.ntlocks != 0 then resumeLost c it slot v
      else .next (v.modCore c fun k => k.resumed su it (w.streamsOf it.launch) head im v.cycle v.mem.writes)

/-- A core that holds a suspended iteration that was given to it again reads its image. -/
theorem iterationResume_reads {s : State} {c : CoreId} {su : Suspended} (hs : (s.core c).suspended = some su)
    (hi : (s.core c).iter = none) (hg : su.given = true) :
    execIterationResume c s = resumeWith c su { su.iter with since := s.stamp } (relocked s c su)
      ((relocked s c su).readVa { who := none, cls := .core, stamp := (relocked s c su).stamp, know := Know.none } c su.iter.ten
        ((relocked s c su).slotOf su.iter.ten c) 256) := by
  unfold execIterationResume
  simp only [hs, hi, hg, Option.isSome_none, Bool.not_true, Bool.false_and, Bool.or_self, Bool.false_eq_true, if_false]
  unfold resumeWith resumeLost
  generalize State.readVa = readHead
  generalize State.readImage = readRest
  rfl

/-- A core's slot is found by its tenancy (R408). -/
theorem slotOf_eq {s t : State} (h : t.tens = s.tens) (ten : BitVec 8) (c : CoreId) : t.slotOf ten c = s.slotOf ten c := by
  unfold State.slotOf
  rw [h]

theorem relocked_slotOf (s : State) (c : CoreId) (su : Suspended) (ten : BitVec 8) : (relocked s c su).slotOf ten c = s.slotOf ten c :=
  slotOf_eq ((modCore_tens (s.unlockAll c) c _).trans (unlockAll_apart s c).tens) ten c

/-- What the end of a lost iteration leaves. -/
theorem resumeLost_gives {c : CoreId} {it : Iter} {slot : Nat} {v : State} {l : Launch} (hr : (v.core c).tapePhase ≠ .recording)
    (hl : (v.launches.find? fun m => m.id == it.launch) = some l) (he : l.ending = none) :
    ∃ t, resumeLost c it slot v = .next t ∧ (t.core c).suspended = none ∧ (t.core c).iter = some it
      ∧ (∀ q, ((t.core c).seq q).ended = true)
      ∧ (t.launches.find? fun m => m.id == it.launch) = some { l with ending := some (9, 0, BitVec.ofNat 64 slot) } := by
  refine ⟨_, rfl, ?_⟩
  rw [endIteration_eq (it := it) _ _ _ (by rw [core_modCore]; exact hr) (by rw [core_modCore]), modCore_modCore]
  have hcore (f : Core → Core) (g : Launch → Launch) : ((v.modCore c f).modLaunch it.launch g).core c = f (v.core c) :=
    core_modCore v c f
  refine ⟨?_, ?_, fun q => ?_, ?_⟩
  · rw [hcore]
    rfl
  · rw [hcore]
    rfl
  · rw [hcore]
    cases q <;> rfl
  · refine (modLaunch_find (Launch.ended_id _ _ _) hl).trans ?_
    simp only [Launch.ended, he, Option.isNone_none, if_true]
    rfl

/-- A resumed core's streams go on where the image says. -/
theorem resumed_pc (k : Core) (su : Suspended) (it : Iter) (ents : List Word × List Nat) (head : List Byte) (im : ImageData)
    (now writes : Nat) (q : Sq) : ((k.resumed su it ents head im now writes).seq q).pc = evenAt (im.seqBytes (sqIndex q)) 256 := by
  cases q <;> rfl

/-- An image that is whole and belongs to the iteration is restored. -/
theorem resumeWith_goes {c : CoreId} {su : Suspended} {n : Nat} {w u v : State} {head : List Byte} {im : ImageData}
    (hm : u.readImage { who := none, cls := .core, stamp := w.stamp, know := Know.none } c su.iter.ten (w.slotOf su.iter.ten c) head su.vwb
      = (.ok (im, []), v)) (hst : imageStatus im c su.iter su.ntlocks = 0) :
    resumeWith c su { su.iter with since := n } w (.ok (head, none), u) = .next (v.modCore c fun k =>
      k.resumed su { su.iter with since := n } (w.streamsOf su.iter.launch) head im v.cycle v.mem.writes) := by
  have hst' : imageStatus im c { su.iter with since := n } su.ntlocks = 0 := hst
  simp only [resumeWith, hm, hst', Option.isSome_none, List.isEmpty_nil, Bool.not_true, bne_self_eq_false, Bool.or_self]
  rfl

/-- Settles O36: each row's conditions choose the branch of its event. -/
theorem iterationEvents : Obligations.IterationEvents := by
  intro i e h
  cases h with
  | start c it l =>
    intro s ⟨hi, hl, hs, ht, hlast⟩
    refine ⟨_, iterationStart_begins hi hl hs ht hlast, onlyCore_modCore _ _ _, ?_⟩
    rw [core_modCore]
    refine ⟨rfl, fun q => ?_, begin_tokens _ _ _ _ _ _, rfl, rfl, rfl, rfl, rfl, rfl⟩
    rw [begin_seq]
    obtain ⟨hg, hp⟩ := begin_zeroed ((s.core c).seq q) (l.ent.getD (sqIndex q) 0) (l.ext.getD (sqIndex q) 0) l.temporal s.mem.writes
      l.startKnow
    exact ⟨rfl, rfl, beq_eq_decide _ _, hg, hp, rfl⟩
  | finish c it l =>
    intro s ⟨hi, hf, hp, hl, hd, he⟩
    have hset := finishAccesses_settles s c
    have hopen : ¬ ((l.oneDone c it (s.finishAccesses c).stamp).done = (l.oneDone c it (s.finishAccesses c).stamp).next
        ∧ ((l.oneDone c it (s.finishAccesses c).stamp).ending.isSome
          ∨ (l.oneDone c it (s.finishAccesses c).stamp).count ≤ (l.oneDone c it (s.finishAccesses c).stamp).next)) := by
      simp only [Launch.oneDone, he, Option.isSome_none, Bool.false_eq_true, false_or]
      omega
    refine ⟨_, iterationFinish_frees hi hf hp, ?_⟩
    rw [settleLaunch_open (iterationGone_find hl) hopen]
    refine ⟨?_, ⟨_, iterationGone_find hl, rfl⟩, hset.cycle, hset.queues⟩
    rw [iterationGone_core]
    exact clearIteration_freed _
  | finishLast c it l =>
    intro s ⟨hi, hf, hp, hl, hd, hn⟩
    have hset := finishAccesses_settles s c
    obtain ⟨st, cause, va, hs⟩ := settleLaunch_completes (iterationGone_find hl) ⟨hd, .inr hn⟩
    obtain ⟨hid, hiter, hcycle, hq⟩ := launchGone_completes (iterationGone s c it) it.launch
      (l.oneDone c it (s.finishAccesses c).stamp) st cause va (l.oneDone c it (s.finishAccesses c).stamp).past
    have hgone : (iterationGone s c it).queues = s.queues := hset.queues
    rw [hgone] at hq
    refine ⟨_, iterationFinish_frees hi hf hp, ?_⟩
    rw [hs]
    refine ⟨hid, (hiter c).trans ?_, hcycle.trans hset.cycle, hq⟩
    rw [iterationGone_core]
    rfl
  | finishWaits c it =>
    intro s ⟨hi, hf, hp⟩
    refine ⟨_, ?_, rfl⟩
    show execIterationFinish c s = _
    unfold execIterationFinish
    simp [hi, hf, hp]
  | barrier l =>
    intro s ⟨hl, hm, ha⟩
    have hw := wakeAll_woken l.barKnow (s.waiters l.id (l.released + 1)) (s.modLaunch l.id fun m => { m with released := l.released + 1 })
    refine ⟨_, barrierRelease_wakes hl hm ha, ?_, hw.cells, hw.hist, hw.marks, fun c g hg hle => ?_, fun c hc => ?_⟩
    · rw [hw.launches]
      exact modLaunch_find (f := fun m => { m with released := l.released + 1 }) (fun _ => rfl) hl
    · exact hw.goes c (mem_waiters.2 ⟨g, hg, hle⟩)
    · refine hw.others c fun hin => ?_
      obtain ⟨g, hg, _⟩ := mem_waiters.1 hin
      rw [hc] at hg
      cases hg
  | request c l =>
    intro s ⟨hl, hw, ht⟩
    refine ⟨_, ?_, rfl⟩
    show execPreemptRequest l.id c s = _
    unfold execPreemptRequest
    rw [hl]
    exact if_pos (by simp [hw, ht])
  | withdraw c p =>
    intro s ⟨hp, hc, hn⟩
    refine ⟨_, ?_, rfl⟩
    show execPreemptWithdraw c s = _
    unfold execPreemptWithdraw
    rw [hp]
    simp only [hn]
    exact if_neg (Nat.not_lt.2 hc)
  | withdrawCaptured c p n u =>
    intro s ⟨hp, hc, hn, hu⟩
    refine ⟨_, ?_, rfl⟩
    show execPreemptWithdraw c s = _
    unfold execPreemptWithdraw
    rw [hp, hu]
    simp only [hn, modCore_modCore]
    exact if_neg (Nat.not_lt.2 hc)
  | take c it n ws u v w seen =>
    intro s ⟨hm, hi, hs, hb, hw⟩
    have hx := preemptTake_takes hm
    rw [hi, takeWith_frees hs hb, ← hw] at hx
    obtain ⟨hmem, hfe, _⟩ := abandon_still w c 8
    refine ⟨_, hx, ?_, ?_, ?_, hmem, ?_, fun d hd => (suspendAll_core_ne it _ hd).trans (abandon_core_ne w 8 hd)⟩
    · rw [suspendAll_core]
      exact suspend_freed it _
    · rw [suspendAll_core]
      rfl
    · rw [suspendAll_core]
      exact ⟨_, rfl, rfl, rfl⟩
    · rw [← hfe]
      rfl
  | takeFault c it n f v =>
    intro s ⟨hm, hi⟩
    have hx := preemptTake_takes hm
    rw [hi] at hx
    exact ⟨_, hx, rfl⟩
  | takePoison c it n ws u v seen =>
    intro s ⟨hm, hi, hs, hb⟩
    have hx := preemptTake_takes hm
    rw [hi, takeWith_poisoned hs hb] at hx
    exact ⟨_, hx, rfl⟩
  | resumeLost c su f v l =>
    intro s ⟨hs, hi, hg, hr, ht, hl, he⟩
    have hx := iterationResume_reads hs hi hg
    rw [show (relocked s c su).readVa _ c su.iter.ten _ 256 = (.error f, v) from hr] at hx
    obtain ⟨t, hlost, h⟩ := resumeLost_gives (it := { su.iter with since := s.stamp }) (slot := s.slotOf su.iter.ten c) ht hl he
    refine ⟨t, hx.trans ?_, h⟩
    rw [← hlost, ← relocked_slotOf s c su]
    rfl
  | resume c su head im u v =>
    intro s ⟨hs, hi, hg, ⟨hr, hm⟩, hst⟩
    have hx := iterationResume_reads hs hi hg
    rw [show (relocked s c su).readVa _ c su.iter.ten _ 256 = (.ok (head, none), u) from hr] at hx
    refine ⟨_, hx.trans (resumeWith_goes hm hst), ⟨_, rfl⟩, ?_⟩
    rw [core_modCore]
    exact ⟨rfl, rfl, resumed_pc _ _ _ _ _ _ _ _, rfl, rfl, rfl, rfl⟩

end Sys2Proof.Machine
end

section
/-!
PROOFS. The instructions that submit engine commands (O29, O30, O31).

Each family of instructions is one shared submission, of which `command_of` gives the effect; what is left is that the fields that the
rules write as quotients and remainders are those that the model takes out of a register.
-/
set_option Elab.async false
namespace Sys2Proof.Rules
open Sys2Proof Sys2Proof.Machine

/-- The field of a word's low bits. -/
theorem fld_low {w : Nat} (v : BitVec w) (hi : Nat) : fld v hi 0 = v.toNat % 2 ^ (hi + 1) := by
  rw [fld, Nat.pow_zero, Nat.div_one, Nat.sub_zero]

/-- An instruction on two tensors (R292). -/
theorem copyCmd_completes {i : Instr} {x : Ctl} {g : BitVec 6} {cls : PathClass} {a b : Reg} (pair : Bool)
    {op : Word → Word → BitVec 256 → BitVec 256 → Word → Word → CmdOp}
    {spad : Word → Word → BitVec 256 → BitVec 256 → Word → List (Nat × Nat)}
    (he : ∀ s, exec i s = copyCmd i x g cls a b pair op spad s) :
    (command x [.L, .S] (tensors g cls a b op spad) (handlesRead [a, regNext a])).completes i := by
  refine command_of
    { x := x, issuers := [.L, .S], gsrc := [a, b, regNext a] ++ (if pair then [regNext b] else []), enc := encode i
      onDie := handlesRead [a, regNext a] }
    (tensors g cls a b op spad) (fun _ => True) _ _ _ _ he ⟨rfl, rfl, rfl⟩ ?_
  intro s cx hw
  have hentry : s.entryAt cx = fun d => s.me.hEntry (descIndex d) := by
    unfold State.entryAt
    rw [hw]
    rfl
  refine ⟨rfl, rfl, rfl, fun _ => rfl, ?_, ?_⟩
  all_goals
    rw [hw, hentry]
    rfl

/-- Settles O29: the four instructions share one submission, each with its own operands and scratchpad ranges. -/
theorem copyCommands : Obligations.CopyCommands := by
  intro i f h
  cases h with
  | cpy g a b x =>
    refine copyCmd_completes false fun s => ?_
    simp only [← fld_low]
    rfl
  | cpy2d g a b x =>
    refine copyCmd_completes true fun s => ?_
    simp only [← fld_low]
    rfl
  | gath g a b x => exact copyCmd_completes false fun _ => rfl
  | scat g a b x => exact copyCmd_completes false fun _ => rfl

/-- An instruction on a command block (R306). -/
theorem blockCmd_completes {i : Instr} {x : Ctl} {cls : PathClass} {d a : Reg} {op : Word → Word → CmdOp}
    (he : ∀ s, exec i s = blockCmd i x cls d a op s) : (block x cls d a op).completes i := by
  refine command_of { x := x, issuers := [.X, .L, .S], gsrc := [d, a], enc := encode i } _ (fun _ => True) _ _ _ _ he ⟨rfl, rfl, rfl⟩ ?_
  intro s cx hw
  refine ⟨rfl, rfl, ?_, fun _ => rfl, ?_, ?_⟩
  all_goals
    rw [hw]
    rfl

/-- Settles O30: the thirteen instructions share one submission. -/
theorem blockCommands : Obligations.BlockCommands := by
  intro i f h
  cases h <;> exact blockCmd_completes fun _ => rfl

/-- The entry that KVLD or KVST names, as the model finds it (R286). -/
theorem node_field (s : State) (a : Reg) : s.me.ntEntry (Fin.ofNat 1024 (fld (s.mine.rg a) 9 0)) = node s a := by
  rw [fld_low]
  rfl

/-- KVLD and KVST, `st` for the latter: the entry serves where it is VALID, for KVST also PRIVATE (R318). -/
theorem kvCmd_completes {i : Instr} {x : Ctl} {st : Bool} {d a b : Reg} {op : Word → Word → Word → BitVec 128 → CmdOp} {ok : State → Prop}
    (he : ∀ s, exec i s = kvCmd i x st d a b op s)
    (hok : ∀ s, ok s → ntValid (node s a) = true ∧ (st && !ntPriv (node s a)) = false) :
    (command x [.L, .S] (kvOrder d a b op) (nodeRead a) ok).completes i := by
  have hread : nodeRead a = fun cx s => [fld ((s.seq cx.who).rg a) 9 0 / 2].filter (s.core cx.who.core).ntBad.contains := by
    funext cx s
    rw [fld_low]
    rfl
  rw [hread]
  refine command_of { x := x, issuers := [.L, .S], gsrc := [d, a, b], enc := encode i, onDie := _ } (kvOrder d a b op) ok _ _ _ _ he
    ⟨rfl, rfl, rfl⟩ ?_
  intro s cx hw
  have hn : (s.core s.turn.core).ntEntry (Fin.ofNat 1024 (fld ((s.seq s.turn).rg a) 9 0)) = node s a := node_field s a
  refine ⟨rfl, rfl, ?_, fun hk => ?_, ?_, ?_⟩
  · rw [hw]
    rfl
  · obtain ⟨hv, hp⟩ := hok s hk
    simp only [hw, hn, hv, hp, Bool.not_true, Bool.or_self]
    rfl
  · simp only [hw, hn]
    rfl
  · simp only [hw, hn]
    rfl

/-- A remote access (R448). -/
theorem remoteCmd_completes {i : Instr} {x : Ctl} {d a : Reg} {op : Word → Word → CmdOp} {n : Word → Nat}
    (he : ∀ s, exec i s = remoteCmd i x d a op n s) :
    (command x [.L, .S]
      { cls := .remote, tag := fun s => (s.mine.rg d).setWidth 6, op := fun s => op (s.mine.rg d) (s.mine.rg a)
        spad := fun s => [(rcSpa (s.mine.rg d), n (s.mine.rg d))] }).completes i := by
  refine command_of { x := x, issuers := [.L, .S], gsrc := [d, a], enc := encode i } _ (fun _ => True) _ _ _ _ he ⟨rfl, rfl, rfl⟩ ?_
  intro s cx hw
  refine ⟨rfl, rfl, ?_, fun _ => rfl, ?_, ?_⟩
  all_goals
    rw [hw]
    rfl

/-- Settles O31: KVLD and KVST share one submission, RLD, RST and RAMO another. -/
theorem transferCommands : Obligations.TransferCommands := by
  intro i f h
  cases h with
  | kvld d a b x => exact kvCmd_completes (fun _ => rfl) fun _ hv => ⟨hv, rfl⟩
  | kvst d a b x => exact kvCmd_completes (fun _ => rfl) fun _ hv => ⟨hv.1, by rw [hv.2]; rfl⟩
  | rld d a x => exact remoteCmd_completes fun _ => rfl
  | rst d a x => exact remoteCmd_completes fun _ => rfl
  | ramo d a x => exact remoteCmd_completes (n := fun _ => 16) fun _ => rfl

end Sys2Proof.Rules
end

section
/-!
PROOFS. The matrix multiplications, MZERO and MCFG (O15): where the engine is warm, each row's conditions are the tests that its meaning
makes.
-/
set_option Elab.async false
namespace Sys2Proof.Machine
open Sys2Proof Sys2Proof.Rules

/-- A test that does not hold takes no trap. -/
theorem unless_false {b : Bool} {t u : Act} (h : b = false) : (if b then t else u) = u := by
  rw [h]
  rfl

/-- A warm engine passes the gate (R127). -/
theorem rampGate_warm {cx : Cx} {s : State} {k : State → Act} (hw : cx.who = s.turn) (h : engineWarm s) : rampGate cx s k = k s := by
  obtain ⟨l, hl⟩ := h
  have hr : (s.core cx.who.core).ramp = .warm l := by
    rw [hw]
    exact hl
  rw [rampGate, hr]

/-- What MMA sends with operands of kind `k`. -/
def mmaSent (cx : Cx) (s : State) (k : MatKind) (a b : Reg) : State :=
  (poisonRead s (denseOperands cx s k a b).2.2).flyTile cx (denseT (operand s a) (operand s b)) true
    (tileResults s.me k cx.exposed (denseOperands cx s k a b).1 (denseOperands cx s k a b).2.1 (fun _ => densePairs k.k)
      (denseOperands cx s k a b).2.2.fl)

/-- MMA behind the gate: the tests of its operands (R187), and what it sends. -/
def mmaAct (a b : Reg) (cx : Cx) (s : State) : Act :=
  match matKind (operand s a).fmt with
  | none => .trap Trap.handle
  | some k =>
    if s.me.kindBad k then .trap Trap.illegal
    else if operandBad (operand s a) k.k (descCol (s.mine.rg a)) || operandBad (operand s b) k.k (descCol (s.mine.rg b))
        || (operand s a).fmt != (operand s b).fmt then .trap Trap.handle
    else if clash (operandRuns (operand s a) (descRow (s.mine.rg a)) (descCol (s.mine.rg a)) s.me.mrows k.k)
        (operandRuns (operand s b) (descRow (s.mine.rg b)) (descCol (s.mine.rg b)) k.n k.k) then .trap Trap.bankclash
    else .done (mmaSent cx s k a b) .next true

/-- MMA's tests, in its core's turn. -/
theorem execMma_eq (a b : Reg) (x : Ctl) : ∃ body : Cx → State → Act,
    (∀ s, exec (.mma a b x) s = issue
      { x := x, minLat := 7, issuers := [.C], gsrc := [a, b], tape := .command, enc := encode (.mma a b x), onDie := handlesRead [a, b]
        waits := fun cx s => (s.core cx.who.core).matWait s.cycle (s.core cx.who.core).tileRows false }
      (fun cx s => rampGate cx s (body cx)) s)
    ∧ ∀ cx s, cx.who = s.turn → body cx s = mmaAct a b cx s := by
  refine ⟨_, fun _ => rfl, fun cx s hw => ?_⟩
  unfold mmaAct mmaSent denseOperands
  generalize Gather.rows = rows
  rw [seq_who hw, hw]
  rfl

/-- Operands that MMA accepts (R187). -/
theorem mmaAct_sends {a b : Reg} {cx : Cx} {s : State} {k : MatKind} (hk : matKind (operand s a).fmt = some k) (hi : s.me.kindBad k = false)
    (ha : operandBad (operand s a) k.k (descCol (s.mine.rg a)) = false) (hb : operandBad (operand s b) k.k (descCol (s.mine.rg b)) = false)
    (hf : (operand s a).fmt = (operand s b).fmt)
    (hc : clash (operandRuns (operand s a) (descRow (s.mine.rg a)) (descCol (s.mine.rg a)) s.me.mrows k.k)
      (operandRuns (operand s b) (descRow (s.mine.rg b)) (descCol (s.mine.rg b)) k.n k.k) = false) :
    mmaAct a b cx s = .done (mmaSent cx s k a b) .next true := by
  have hg : (operandBad (operand s a) k.k (descCol (s.mine.rg a)) || operandBad (operand s b) k.k (descCol (s.mine.rg b))
      || (operand s a).fmt != (operand s b).fmt) = false := by simp [ha, hb, hf]
  rw [mmaAct, hk]
  exact (unless_false hi).trans ((unless_false hg).trans (unless_false hc))

/-- Settles O15: behind the gate each row's conditions choose the branch of its meaning. -/
theorem matrixMultiply : Obligations.MatrixMultiply := by
  intro i f h
  cases h with
  | mma a b x k =>
    obtain ⟨body, he, hbody⟩ := execMma_eq a b x
    refine completes_clear _ _ he (fun s h => ⟨rfl, h⟩) ?_
    intro p cx hw ⟨hr, hk, hi, ha, hb, hf, hc⟩
    exact ⟨true, (rampGate_warm hw hr).trans ((hbody cx p hw).trans (mmaAct_sends hk hi ha hb hf hc))⟩
  | mgang d a b x w ga gb k =>
    refine completes_clear _ _ (fun _ => rfl) (fun s h => ⟨rfl, h⟩) ?_
    intro p cx hw ⟨hr, hg, hgo, hk⟩
    have hg' : (p.core p.turn.core).gang = some w := hg
    refine ⟨true, (rampGate_warm hw hr).trans ?_⟩
    rw [seq_who hw, hw]
    dsimp only
    rw [hg']
    simp only [gangSources] at hk ⊢
    simp only [hgo, hk]
    generalize Gather.rows = rows
    rfl
  | mzero x =>
    refine completes_clear _ _ (fun _ => rfl) (fun s h => ⟨rfl, h⟩) ?_
    intro p cx hw hr
    refine ⟨true, (rampGate_warm hw hr).trans ?_⟩
    rw [hw]
    rfl
  | mcfg a x =>
    refine completes_meaning _ _ (fun _ => rfl) ?_
    intro p cx hw h0
    refine ⟨false, ?_⟩
    rw [seq_who hw, hw]
    exact if_neg (not_not.mpr h0)

end Sys2Proof.Machine
end

section
/-!
PROOFS. The events of the matrix engine (O35): its ramp, the rendezvous of gangs and their time limit, last writes, and bank operations.
-/
set_option Elab.async false
namespace Sys2Proof.Machine
open Sys2Proof Sys2Proof.Rules

/-! ### The ramp (R127) -/

/-- The first request of a die gets a slot where fewer than four ramps have started. -/
theorem mayRamp_first {s : State} {c : CoreId} {u : Nat} (hr : (s.core c).ramp = .requested u)
    (hn : ((s.rampStarts.get (dieOf c)).filter fun r => decide (s.cycle < r + 32)).length < 4)
    (hf : ∀ m v, dieOf m = dieOf c → (s.core m).ramp = .requested v → u < v ∨ u = v ∧ c.val ≤ m.val) : s.mayRamp c = true := by
  unfold State.mayRamp
  rw [hr]
  simp only [hn, decide_true, Bool.true_and, List.all_eq_true]
  intro m _
  by_cases hd : dieOf m = dieOf c
  case neg => simp [hd]
  case pos =>
    cases hm : (s.core m).ramp with
    | requested v =>
      have := hf m v hd hm
      simp only [hd, bne_self_eq_false, Bool.false_or, Bool.not_eq_true', Bool.or_eq_false_iff, Bool.and_eq_false_iff,
        decide_eq_false_iff_not, beq_eq_false_iff_ne, ne_eq]
      omega
    | cold => simp
    | ramping _ => simp
    | warm _ => simp

/-! ### Gangs (R191) -/

/-- A core whose MGANG has been told what to do. -/
def Core.told (k : Core) (g : GangGo) : Core := { k with gang := k.gang.map fun w => { w with go := g } }

theorem told_told (k : Core) (g : GangGo) : (k.told g).told g = k.told g := by
  unfold Core.told
  cases k.gang <;> rfl

/-- Telling cores one after another tells each of them, and nothing else changes. -/
theorem gangTell_all (go : CoreId → GangGo) (ms : List CoreId) (s : State) :
    (ms.foldl (fun t m => t.gangTell m (go m)) s).mem = s.mem
      ∧ (∀ q, (ms.foldl (fun t m => t.gangTell m (go m)) s).seq q = s.seq q)
      ∧ ∀ m, (ms.foldl (fun t m => t.gangTell m (go m)) s).core m = if m ∈ ms then (s.core m).told (go m) else s.core m := by
  induction ms generalizing s with
  | nil => exact ⟨rfl, fun _ => rfl, fun _ => rfl⟩
  | cons n ns ih =>
    obtain ⟨hmem, hseq, hcore⟩ := ih (s.gangTell n (go n))
    refine ⟨hmem, fun q => (hseq q).trans (modCore_seq _ _ _ (fun k q => by cases q <;> rfl) q), fun m => (hcore m).trans ?_⟩
    by_cases hm : m = n
    · subst hm
      have h1 : (s.gangTell m (go m)).core m = (s.core m).told (go m) := core_modCore _ _ _
      rw [h1, told_told, ite_self, if_pos List.mem_cons_self]
    · have h1 : (s.gangTell n (go n)).core m = s.core m := core_modCore_ne _ _ hm
      rw [h1]
      simp only [List.mem_cons, hm, false_or]

/-- Whether the gang of a core's MGANG issues: its descriptor fits and names the core, and all that it names agree (R191). -/
def gangAgrees (s : State) (c : CoreId) (gd : Word) : Bool :=
  gangFits gd && (gangMembers c gd).contains c && (gangNamed c gd).all fun m => gangMatches s c m gd

/-- What a core that waits at the rendezvous of `c` is told. -/
def gangVerdict (s : State) (c : CoreId) (gd : Word) (m : CoreId) : GangGo :=
  if gangAgrees s c gd then .issue (s.gangOperands m gd).1 (s.gangOperands m gd).2
  else if s.gangKindBad m then .illegal else .gang

/-- A rendezvous that all have reached tells every core that waits at it. -/
theorem gangRendezvous_tells {s : State} {c : CoreId} {w : GangWait} (ha : s.atRendezvous c = some w) (hw : w.go = .wait)
    (hr : ∀ m ∈ gangNamed c w.gd, s.gangReached m (s.core c).gangCount = true) :
    exec (.gangRendezvous c) s = .next (((gangNamed c w.gd).filter fun m => s.gangWaits m (s.core c).gangCount).foldl
      (fun t m => t.gangTell m (gangVerdict s c w.gd m)) s) := by
  have hgo : (w.go != .wait || !((gangNamed c w.gd).all fun m => s.gangReached m (s.core c).gangCount)) = false := by
    rw [hw, List.all_eq_true.mpr hr]
    rfl
  have hok : gangAgrees s c w.gd = (gangFits w.gd && (gangMembers c w.gd).contains c
      && ((gangNamed c w.gd).all fun m => ((s.core m).gang.map GangWait.gd) == some w.gd && s.gangWaits m (s.core c).gangCount
          && (s.core m).mcr == (s.core c).mcr && (s.core m).iter.map Iter.launch == (s.core c).iter.map Iter.launch)
      && (gangNamed c w.gd).all fun m => !s.gangKindBad m && s.gangOk m w.gd) := by
    rw [Bool.eq_iff_iff]
    simp only [gangAgrees, gangMatches, Bool.and_eq_true, List.all_eq_true, and_assoc, imp_and, forall_and]
  show execGangRendezvous c s = _
  unfold execGangRendezvous gangVerdict
  rw [ha, hok]
  exact if_neg (by rw [Bool.not_eq_true]; exact hgo)

/-- The rendezvous leaves memory and the sequencers, and tells the cores that wait at it. -/
theorem gangRendezvous_leaves {s : State} {c : CoreId} {w : GangWait} (ha : s.atRendezvous c = some w) (hw : w.go = .wait)
    (hr : ∀ m ∈ gangNamed c w.gd, s.gangReached m (s.core c).gangCount = true) :
    ∃ t, exec (.gangRendezvous c) s = .next t ∧ t.mem = s.mem ∧ (∀ q, t.seq q = s.seq q)
      ∧ ∀ m, t.core m = if m ∈ gangNamed c w.gd ∧ s.gangWaits m (s.core c).gangCount = true then
          (s.core m).told (gangVerdict s c w.gd m) else s.core m := by
  obtain ⟨hmem, hseq, hcore⟩ := gangTell_all (gangVerdict s c w.gd)
    ((gangNamed c w.gd).filter fun m => s.gangWaits m (s.core c).gangCount) s
  refine ⟨_, gangRendezvous_tells ha hw hr, hmem, hseq, fun m => ?_⟩
  simp only [hcore, List.mem_filter]

/-- Where the descriptor does not fit or a core does not agree, no gang issues. -/
theorem gangAgrees_not {s : State} {c : CoreId} {gd : Word}
    (h : (gangFits gd = false ∨ c ∉ gangMembers c gd) ∨ ∃ m ∈ gangNamed c gd, gangMatches s c m gd = false) : gangAgrees s c gd = false := by
  rw [← Bool.not_eq_true, gangAgrees, Bool.and_eq_true, Bool.and_eq_true, List.contains_iff_mem, List.all_eq_true]
  rintro ⟨⟨hf, hc⟩, hm⟩
  rcases h with (h | h) | ⟨m, hin, h⟩
  · simp [hf] at h
  · exact h hc
  · simp [hm m hin] at h

/-- A core that its own descriptor names is no other member. -/
theorem mem_gangNamed {c m : CoreId} {gd : Word} (hc : c ∈ gangMembers c gd) : m ∈ gangNamed c gd ↔ m ∈ gangMembers c gd := by
  rw [gangNamed, List.mem_eraseDups, List.mem_cons]
  exact ⟨fun h => h.elim (fun e => e ▸ hc) id, .inr⟩

/-- A core that agrees waits. -/
theorem gangMatches_waits {s : State} {c m : CoreId} {gd : Word} (h : gangMatches s c m gd = true) :
    s.gangWaits m (s.core c).gangCount = true := by
  simp only [gangMatches, Bool.and_eq_true] at h
  exact h.1.1.1.1.2

/-- The least of some numbers and `n` is not above `n`. -/
theorem foldl_since_le (s : State) (ms : List CoreId) (n : Nat) :
    ms.foldl (fun acc m => match (s.core m).gang with | some v => min acc v.since | none => acc) n ≤ n :=
  foldl_keeps (fun x => x ≤ n) _ (fun x m hx => by
    split
    · exact Nat.le_trans (Nat.min_le_left _ _) hx
    · exact hx) ms n (Nat.le_refl n)

/-- A member of the gang of `c` that waits with it, its descriptor and number the same. -/
def gangMate (s : State) (c : CoreId) (w : GangWait) (m : CoreId) : Bool :=
  match (s.core m).gang with
  | some v => v.gd == w.gd && v.go == .wait && (s.core m).gangCount == (s.core c).gangCount
  | none => false

/-- A gang that lacks a member after 2^20 cycles: those that are there get GANGTIME. -/
theorem gangtime_tells {s : State} {c : CoreId} {w : GangWait} (hg : (s.core c).gang = some w) (hw : w.go = .wait)
    (ht : w.since + 2 ^ 20 ≤ s.cycle) (hm : ∃ m ∈ gangMembers c w.gd, (s.core m).gang = none) :
    exec (.gangtimeExpiry c) s = .next ((c :: (gangNamed c w.gd).filter (gangMate s c w)).foldl (fun t m => t.gangTell m .time) s) := by
  have hfew : ((gangNamed c w.gd).filter (gangMate s c w)).length ≠ (gangNamed c w.gd).length := by
    obtain ⟨m, hin, hnone⟩ := hm
    intro e
    have hmate := List.length_filter_eq_length_iff.mp e m (List.mem_eraseDups.mpr (List.mem_cons_of_mem _ hin))
    simp [gangMate, hnone] at hmate
  have hfirst := foldl_since_le s ((gangNamed c w.gd).filter (gangMate s c w)) w.since
  show execGangtimeExpiry c s = _
  unfold execGangtimeExpiry
  rw [hg]
  refine if_pos ?_
  simp only [Bool.and_eq_true, beq_iff_eq, decide_eq_true_eq, bne_iff_ne]
  exact ⟨⟨hw, Nat.le_trans (Nat.add_le_add_right hfirst _) ht⟩, hfew⟩

/-! ### Last writes (R134, R198) -/

/-- A core whose matrix write `m` has performed its last write in cycle `n`. -/
def Core.lastWritten (k : Core) (m : MatWrite) (n : Nat) : Core :=
  match m.push with
  | none => ({ k with matWrites := k.matWrites.filter fun w => w.id != m.id } : Core).raiseFlags .C m.flags
  | some p => (({ k with matWrites := k.matWrites.filter fun w => w.id != m.id } : Core).raiseFlags .C m.flags).completePush .C p.f p.b n p.know

theorem raiseFlags_C (k : Core) (f : BitVec 6) : k.raiseFlags .C f = { k with sC := { k.sC with fpstat := k.sC.fpstat ||| f.setWidth 32 } } := by
  unfold Core.raiseFlags
  split
  case isTrue h =>
    subst h
    simp
  case isFalse => rfl

/-- The flags reach C's FPSTAT, the pushes complete, and the write is gone. -/
theorem lastWritten_leaves (k : Core) (m : MatWrite) (n : Nat) :
    (k.lastWritten m n).matWrites = k.matWrites.filter (fun w => w.id != m.id)
      ∧ (∀ q, ((k.lastWritten m n).seq q).ctl = (k.seq q).ctl ∧ ((k.lastWritten m n).seq q).g = (k.seq q).g)
      ∧ (k.lastWritten m n).sC.fpstat = k.sC.fpstat ||| m.flags.setWidth 32
      ∧ (k.lastWritten m n).rising = k.rising ++ pushes .C m.push n := by
  unfold Core.lastWritten
  rw [raiseFlags_C]
  cases m.push with
  | none => exact ⟨rfl, fun q => by cases q <;> exact ⟨rfl, rfl⟩, rfl, (List.append_nil _).symm⟩
  | some p => exact ⟨rfl, fun q => by cases q <;> exact ⟨rfl, rfl⟩, rfl, List.append_assoc ..⟩

theorem lastWrite_raises {s : State} {c : CoreId} {m : MatWrite} (hm : ((s.core c).matWrites.find? fun w => w.id == m.id) = some m)
    (ho : s.outstanding { core := c, sq := .C } m.id = false) (hi : m.issued < s.cycle) :
    exec (.lastWritePerformed c m.id) s = .next (s.modCore c fun k => k.lastWritten m s.cycle) := by
  show execLastWritePerformed c m.id s = _
  unfold execLastWritePerformed Core.lastWritten
  rw [hm]
  refine (if_neg ?_).trans ?_
  · simp only [ho, Bool.false_or, decide_eq_true_eq]
    omega
  · rfl

/-! ### Bank operations (R208) -/

/-- A party that neither accesses on the CORE path nor releases arms no publication. -/
theorem arm_neither (s : State) (a : Actor) : s.arm a false false = s := by
  unfold State.arm
  simp only [ite_self, Bool.false_and, Bool.false_eq_true, if_false, List.map_id']

/-- What comes from no host port has no write of its port to follow (R230). -/
theorem leads_noPort {g h : HeldAccess} (hp : h.port = none) : g.leads h = false := by
  unfold HeldAccess.leads
  rw [hp]
  cases g.port <;> rfl

/-- An access from no host port, its page at home, is performed by itself. -/
theorem performPend_home {s : State} {h : HeldAccess} (hp : h.port = none) (hh : s.homeOf h.core h.pa = .here) :
    s.performPend h = (({ s with pending := s.pending.erase h } : State).performHeld h).2.reply h
      (({ s with pending := s.pending.erase h } : State).performHeld h).1 := by
  have hno : ∀ gs : List HeldAccess, (gs.any fun g => g.leads h) = false := fun gs =>
    List.any_eq_false.mpr fun g _ => by simp [leads_noPort hp]
  have hfirst : (s.pending.takeWhile (· != h)).filter (fun g => g.leads h) = [] :=
    List.filter_eq_nil_iff.mpr fun g _ => by simp [leads_noPort hp]
  rw [State.performPend, hfirst]
  show s.performNow h = _
  rw [State.performNow, hno, hh]
  rfl

/-- An atomic of the MAT path, which is neither an acquire nor a release, is its bank operation. -/
theorem performHeld_bank {s : State} {h : HeldAccess} (hk : h.kind = 2) (hc : h.cls = .mat) (hr : h.rel = none) (ha : h.acq = false) :
    s.performHeld h =
      let b := s.bankStep h.actor none h.ten h.op h.sz h.pa (ofBytes (h.data.take (2 ^ h.sz))) (ofBytes ((h.data.drop 8).take (2 ^ h.sz)))
      ((toBytes 8 b.1.old).map fun x => (x, b.1.bad), b.2) := by
  have harm : s.arm h.actor (h.cls == .core) h.rel.isSome = s := by
    rw [hc, hr]
    exact arm_neither s h.actor
  unfold State.performHeld
  dsimp only
  rw [harm, hk, hr, ha]
  cases h.who <;> rfl

/-- Nobody waits for what an access of the MAT path has read, and its sectors were good. -/
theorem reply_mat {s : State} {h : HeldAccess} {w : Who} {bs : List (Byte × Bool)} (hw : h.who = some w) (hc : h.cls = .mat)
    (hf : h.far = none) (hp : h.peer = none) (hn : h.parts = []) (hg : ∀ b ∈ bs, b.2 = false) : s.reply h bs = s := by
  have hfind : bs.findIdx? Prod.snd = none := List.findIdx?_eq_none_iff.mpr hg
  unfold State.reply State.replyTo
  simp only [hf, hp, hn, hw, hc, hfind, List.foldl_nil]
  rfl

/-- Settles O35: by the kind of the event. -/
theorem matrixEvents : Obligations.MatrixEvents := by
  intro i e h
  cases h with
  | grant c u =>
    intro s ⟨hr, hn, hf⟩
    exact ⟨_, if_pos (mayRamp_first hr hn hf), rfl⟩
  | warm c r =>
    intro s ⟨hr, hc⟩
    refine ⟨_, ?_, rfl⟩
    show execRampEnd c s = _
    rw [execRampEnd, hr]
    exact if_pos hc
  | cold c l =>
    intro s ⟨hr, hc⟩
    refine ⟨_, ?_, rfl⟩
    show execMatrixEngineCold c s = _
    rw [execMatrixEngineCold, hr]
    exact if_pos hc
  | noGang c w =>
    intro s ⟨ha, hw, hr, hno⟩
    obtain ⟨t, ht, hmem, hseq, hcore⟩ := gangRendezvous_leaves ha hw hr
    refine ⟨t, ht, hmem, hseq, fun m => ?_⟩
    rw [hcore, gangVerdict, gangAgrees_not hno]
    rfl
  | gang c w =>
    intro s ⟨ha, hw, hfit, hc, hall⟩
    obtain ⟨t, ht, hmem, hseq, hcore⟩ := gangRendezvous_leaves ha hw fun m hm => (hall m ((mem_gangNamed hc).mp hm)).1
    have hagree : gangAgrees s c w.gd = true := by
      rw [gangAgrees, hfit, List.contains_iff_mem.mpr hc, List.all_eq_true.mpr fun m hm => (hall m ((mem_gangNamed hc).mp hm)).2]
      rfl
    refine ⟨t, ht, hmem, hseq, fun m => ?_⟩
    have hin : (m ∈ gangNamed c w.gd ∧ s.gangWaits m (s.core c).gangCount = true) ↔ m ∈ gangMembers c w.gd :=
      ⟨fun h => (mem_gangNamed hc).mp h.1, fun h => ⟨(mem_gangNamed hc).mpr h, gangMatches_waits (hall m h).2⟩⟩
    rw [hcore, gangVerdict, hagree]
    simp only [hin]
    rfl
  | gangtime c w =>
    intro s ⟨hg, hw, ht, hm⟩
    obtain ⟨hmem, hseq, hcore⟩ := gangTell_all (fun _ => .time) (c :: (gangNamed c w.gd).filter (gangMate s c w)) s
    refine ⟨_, gangtime_tells hg hw ht hm, ?_, hmem, hseq⟩
    rw [hcore, if_pos List.mem_cons_self, Core.told, hg]
    rfl
  | lastWrite c m =>
    intro s ⟨hm, ho, hi⟩
    refine ⟨_, lastWrite_raises hm ho hi, onlyCore_modCore _ _ _, ?_⟩
    rw [core_modCore]
    exact lastWritten_leaves _ _ _
  | bankAlu h w r u =>
    intro s ⟨hf, hw, hc, hp, hfar, hpeer, hparts, hrel, hacq, hhome, hb, hgood⟩
    have hk : h.kind = 2 := by
      have := List.find?_some hf
      simp only [Bool.and_eq_true, beq_iff_eq] at this
      exact this.1
    refine ⟨_, ?_, rfl⟩
    show execBankAluOp h.stamp s = _
    rw [execBankAluOp, hf]
    refine congrArg Host.Outcome.next ?_
    rw [performPend_home hp hhome, performHeld_bank hk hc hrel hacq, hb]
    refine reply_mat hw hc hfar hpeer hparts fun b hin => ?_
    obtain ⟨x, _, rfl⟩ := List.mem_map.mp hin
    exact hgood
  | bankPending h =>
    intro s hf
    refine ⟨_, ?_, rfl⟩
    show execBankAluOp h.stamp s = _
    rw [execBankAluOp, hf]

end Sys2Proof.Machine
end

section
/-!
PROOFS. Engine commands as they start and complete, and the items of a backfill queue (O44).
-/
set_option Elab.async false
namespace Sys2Proof.Machine
open Sys2Proof Sys2Proof.Rules

/-! ### Acceptance (R126) -/

theorem mayStart_iff {k : Core} {m : Cmd} : k.mayStart m = true ↔ ¬ heldByFence k m := by
  simp only [Core.mayStart, heldByFence, Bool.not_eq_true', List.any_eq_false, Bool.and_eq_true, beq_iff_eq, not_exists, not_and]

/-- The command of sequencer `q` that class `e` may start: its oldest, where it is of the class and no fence holds it. -/
def Core.offers (k : Core) (e : PathClass) (q : Sq) : Option Cmd := (k.oldestQueued q).filter fun m => m.cls == e && k.mayStart m

/-- The command that the class accepts is the first that a sequencer, in the class's order, offers. -/
theorem nextAccept_acceptable {k : Core} {e : PathClass} {m : Cmd} (h : acceptable k e m) : k.nextAccept e = some m := by
  obtain ⟨p, q, hord, hold, hcls, hfree, hnone⟩ := h
  have hmine : k.offers e m.sq = some m := by
    have : k.oldestQueued m.sq = some m := hold
    rw [Core.offers, this, Option.filter_some, hcls, mayStart_iff.mpr hfree]
    simp
  have hothers : p.filterMap (k.offers e) = [] := by
    refine List.filterMap_eq_nil_iff.mpr fun r hr => ?_
    refine Option.filter_eq_none_iff.mpr fun n hn => ?_
    rcases hnone r hr n hn with h | h
    · simp [h]
    · simp [mayStart_iff, h]
  show ((k.arbOrder e).filterMap (k.offers e)).head? = some m
  rw [hord, List.filterMap_append, hothers, List.nil_append, List.filterMap_cons, hmine]
  rfl

/-- The class has accepted from the command's sequencer, which goes behind the others. -/
def accepted (s : State) (c : CoreId) (e : PathClass) (k : Cmd) : State := s.modCore c fun m => m.noteAccept e k.sq

theorem engineAccept_starts {s : State} {c : CoreId} {e : PathClass} {k : Cmd} (h : acceptable (s.core c) e k) :
    exec (.engineCommandAccept c e) s = .next ((accepted s c e k).acceptCmd c k) := by
  show execEngineCommandAccept c e s = _
  rw [execEngineCommandAccept, nextAccept_acceptable h]
  rfl

theorem accepted_core (s : State) (c : CoreId) (e : PathClass) (k : Cmd) : (accepted s c e k).core c = (s.core c).noteAccept e k.sq :=
  core_modCore _ _ _

/-! ### Completion (R289, R290) -/

/-- A command whose accesses have been performed completes at once. -/
theorem finish_performed {s : State} {c : CoreId} {k : Cmd} (h : performed s c k) (code flags det va : Nat) :
    s.finish c k code flags det va = s.modCore c fun m => m.completeCmd c s.cycle k code flags det (BitVec.ofNat 64 va) := by
  rw [State.finish, show s.outstanding { core := c, sq := k.sq } k.id = false from h]
  rfl

theorem latchEngerr_frame (c : Core) (n : Nat) (t : BitVec 6) (code det : Nat) (va : Word) :
    c.latchEngerr n t code det va =
      { c with engerr := (c.latchEngerr n t code det va).engerr, engerrva := (c.latchEngerr n t code det va).engerrva
               engerrAt := (c.latchEngerr n t code det va).engerrAt } := by
  unfold Core.latchEngerr
  dsimp only
  split <;> rfl

/-- A core after the completion of a command: the command is gone, its tag is DONE with its status, and every event latch is set; the rest
is its push, its error and what its tag orders. -/
theorem completeCmd_frame (c : Core) (me : CoreId) (n : Nat) (k : Cmd) (code flags det : Nat) (va : Word) :
    ∃ kn a b d r, c.completeCmd me n k code flags det va =
      { c.latchEvents with
        cmds := c.cmds.filter fun x => x.id != k.id
        tags := c.tags ||| (1#64 <<< k.tag.toNat)
        tstat := c.tstat.set k.tag.toNat (BitVec.ofNat 8 (flags * 16 + code)) k.tag.isLt
        tagKnow := kn, engerr := a, engerrva := b, engerrAt := d, rising := r } := by
  unfold Core.completeCmd
  dsimp only
  rw [latchEngerr_frame]
  cases k.push with
  | none => exact ⟨_, _, _, _, _, rfl⟩
  | some p => exact ⟨_, _, _, _, _, rfl⟩

/-- The command is done (R289, R290), whatever has come to its core since `s` but to the tags. -/
theorem finish_ends {s u : State} {c : CoreId} {k : Cmd} (hp : performed u c k) (ht : (u.core c).tags = (s.core c).tags)
    (code flags det va : Nat) : ended s (u.finish c k code flags det va) c k (flags * 16 + code) := by
  rw [finish_performed hp]
  obtain ⟨kn, a, b, d, r, h⟩ := completeCmd_frame (u.core c) c u.cycle k code flags det (BitVec.ofNat 64 va)
  refine ⟨?_, ?_, ?_, ?_⟩
  all_goals rw [core_modCore, h]
  · intro m hm
    simpa using (List.mem_filter.mp hm).2
  · rw [← ht]
  · exact (vector_get_set _ _ _ _).trans (if_pos rfl)
  · intro q
    cases q <;> rfl

/-- Completion touches the command's core alone, and not its scratchpad. -/
theorem finish_leaves {u : State} {c : CoreId} {k : Cmd} (hp : performed u c k) (code flags det va : Nat) :
    (u.finish c k code flags det va).mem = u.mem ∧ (u.finish c k code flags det va).fe = u.fe
      ∧ ((u.finish c k code flags det va).core c).spad = (u.core c).spad ∧ u.onlyCore (u.finish c k code flags det va) c := by
  rw [finish_performed hp]
  exact ⟨rfl, rfl, by rw [core_modCore, completeCmd_spad], onlyCore_modCore _ _ _⟩

/-- Where a step touches one core alone, the others stay. -/
theorem onlyCore_others {s t : State} {c : CoreId} (h : s.onlyCore t c) {d : CoreId} (hd : d ≠ c) : t.core d = s.core d := by
  obtain ⟨k, rfl⟩ := h
  exact core_setCore_ne _ _ hd

theorem onlyCore_modCore_left {s t : State} {c : CoreId} {f : Core → Core} (h : (s.modCore c f).onlyCore t c) : s.onlyCore t c := by
  obtain ⟨k, rfl⟩ := h
  exact ⟨k, by simp only [State.modCore, State.setCore, Vector.set_set]⟩

/-! ### CPY as it is accepted (R293) -/

section
variable {s : State} {c : CoreId} {k : Cmd} {dd ds : Word} {hd hs : BitVec 256} {gb : Word} (hop : k.op = .cpy dd ds hd hs gb)
include hop

theorem acceptCmd_cpy_empty (hn : gb.toNat % 2 ^ 32 = 0) : s.acceptCmd c k = s.finish c k codeOk 0 0 0 := by
  unfold State.acceptCmd State.acceptCopy
  rw [hop]
  simp only [fld_low, hn, beq_self_eq_true, if_true]

theorem acceptCmd_cpy_checked {code : Nat} (hn : gb.toNat % 2 ^ 32 ≠ 0) (hc : cpyCheck dd ds hd hs gb = some code) :
    s.acceptCmd c k = s.finish c k code 0 0 0 := by
  unfold State.acceptCmd State.acceptCopy
  rw [hop]
  simp only [fld_low, beq_iff_eq, if_neg hn, hc]

theorem acceptCmd_cpy_starts (hn : gb.toNat % 2 ^ 32 ≠ 0) (hc : cpyCheck dd ds hd hs gb = none) :
    s.acceptCmd c k = s.putCmd c { k with phase := .started s.cycle } := by
  unfold State.acceptCmd State.acceptCopy
  rw [hop]
  simp only [fld_low, beq_iff_eq, if_neg hn, hc]

end

/-- A CPY that completes as it is accepted. -/
theorem accepted_ends {s : State} {c : CoreId} {k : Cmd} (hp : performed s c k) (e : PathClass) (code : Nat) :
    ended s ((accepted s c e k).finish c k code 0 0 0) c k code
      ∧ ((accepted s c e k).finish c k code 0 0 0).mem = s.mem
      ∧ (((accepted s c e k).finish c k code 0 0 0).core c).spad = (s.core c).spad
      ∧ s.onlyCore ((accepted s c e k).finish c k code 0 0 0) c := by
  have hq : performed (accepted s c e k) c k := hp
  have hends := finish_ends (s := s) hq (by rw [accepted_core]; rfl) code 0 0 0
  rw [Nat.zero_mul, Nat.zero_add] at hends
  obtain ⟨hmem, _, hspad, honly⟩ := finish_leaves hq code 0 0 0
  refine ⟨hends, hmem, hspad.trans ?_, onlyCore_modCore_left honly⟩
  rw [accepted_core]
  rfl

/-- A CPY that begins. -/
theorem accepted_begins (s : State) (c : CoreId) (e : PathClass) (k : Cmd) :
    s.onlyCore ((accepted s c e k).putCmd c { k with phase := .started s.cycle }) c
      ∧ (((accepted s c e k).putCmd c { k with phase := .started s.cycle }).core c).tags = (s.core c).tags
      ∧ (((accepted s c e k).putCmd c { k with phase := .started s.cycle }).core c).tstat = (s.core c).tstat
      ∧ (((accepted s c e k).putCmd c { k with phase := .started s.cycle }).core c).cmds
        = (s.core c).cmds.map fun m => if m.id = k.id then { k with phase := .started s.cycle } else m := by
  refine ⟨onlyCore_modCore_left (onlyCore_modCore _ _ _), ?_⟩
  rw [State.putCmd, core_modCore, accepted_core]
  simp only [beq_iff_eq]
  exact ⟨rfl, rfl, rfl⟩

/-! ### A scratchpad without poison and with nothing unordered -/

theorem spadRead_plain {k : Core} (hb : k.spadBad = []) (hh : k.spadHist = []) (a : Actor) (free : Nat) (ps : List Nat) :
    k.spadRead a free ps = (ps.map (cellsGet k.spad), free) := by
  induction ps with
  | nil => rfl
  | cons p ps ih =>
    have hp : k.spadByte a free p = (cellsGet k.spad p, free) := by
      rw [Core.spadByte, hb, hh]
      rfl
    rw [Core.spadRead, hp]
    dsimp only
    rw [ih]
    rfl

theorem spadLoad_plain {s : State} {c : CoreId} (hb : (s.core c).spadBad = []) (hh : (s.core c).spadHist = []) (a : Actor) (adr n : Nat) :
    s.spadLoad c a adr n = ((List.range n).map fun i => cellsGet (s.core c).spad (adr + i), false, s) := by
  have hbad : ∀ l : List Nat, l.filter (s.core c).spadBad.contains = [] := fun l => by rw [hb]; simp
  unfold State.spadLoad
  dsimp only
  rw [spadRead_plain hb hh, hbad, List.map_map]
  rfl

/-- An engine reads the bytes of such a scratchpad. -/
theorem engRead_plain {s : State} {c : CoreId} (hb : (s.core c).spadBad = []) (hh : (s.core c).spadHist = []) (k : Cmd) (adr n : Nat) :
    s.engRead k c true adr n
      = ({ bytes := (List.range n).map fun i => some (cellsGet (s.core c).spad (adr + i), false), faults := [] }, s) := by
  rw [State.engRead, if_pos rfl, spadLoad_plain hb hh]
  dsimp only
  congr 2
  refine List.map_congr_left fun i hi => ?_
  rw [hb, List.getD_eq_getElem?_getD, List.getElem?_map, List.getElem?_range (List.mem_range.mp hi)]
  rfl

/-- One byte put into a core's scratchpad, with its place in the history. -/
def Core.spadPut (a : Actor) (c : Core) (w : Nat × Byte) : Core :=
  { c with
    spadHist := { addr := w.1, old := cellsGet c.spad w.1, cls := a.cls, who := a.who, stamp := a.stamp, perf := c.spadHist.length } :: c.spadHist
    spad := cellsPut c.spad w.1 w.2 }

theorem spadPuts_frame (a : Actor) (ws : List (Nat × Byte)) (k : Core) :
    ∃ h, ws.foldl (Core.spadPut a) k = { k with spadHist := h, spad := ws.foldl (fun cs w => cellsPut cs w.1 w.2) k.spad } := by
  induction ws generalizing k with
  | nil => exact ⟨_, rfl⟩
  | cons w ws ih =>
    obtain ⟨h, e⟩ := ih (k.spadPut a w)
    exact ⟨h, e⟩

/-- A write to a scratchpad without poison puts its bytes one after another. -/
theorem spadWrite_plain {k : Core} (hb : k.spadBad = []) (a : Actor) (ws : List (Nat × Byte)) :
    ∃ h, k.spadWrite a ws = { k with spadHist := h, spad := ws.foldl (fun cs w => cellsPut cs w.1 w.2) k.spad } := by
  obtain ⟨h, e⟩ := spadPuts_frame a ws k
  refine ⟨h, Eq.trans ?_ e⟩
  have hall : ws.filter (fun w => !([] : List Nat).contains (w.1 / 32)) = ws := List.filter_eq_self.mpr fun _ _ => rfl
  have hsame : ({ k with spadBad := [] } : Core) = k := by rw [← hb]
  show (ws.filter fun w => !(k.spadBad.filter fun n => !covers ws n).contains (w.1 / 32)).foldl (Core.spadPut a)
    { k with spadBad := k.spadBad.filter fun n => !covers ws n } = _
  rw [hb, List.filter_nil, hall, hsame]

/-- Bytes put at consecutive addresses are read back, and no other byte changes. -/
theorem cellsFold_run (cs : List Host.Cell) (hw : cellsWf cs = true) (dst : Nat) (v : Nat → Byte) (n a : Nat) :
    cellsGet (((List.range n).map fun i => (dst + i, v i)).foldl (fun cs w => cellsPut cs w.1 w.2) cs) a
      = if dst ≤ a ∧ a < dst + n then v (a - dst) else cellsGet cs a := by
  induction n with
  | zero =>
    rw [if_neg (by omega)]
    rfl
  | succ n ih =>
    rw [List.range_succ, List.map_append, List.foldl_append, List.map_cons, List.map_nil, List.foldl_cons, List.foldl_nil,
      cellsGet_put _ _ _ _ (cellsFold_wf _ _ _ _ hw), ih]
    split
    case isTrue h =>
      subst h
      rw [if_pos (by omega), Nat.add_sub_cancel_left]
    case isFalse h =>
      have hn : (dst ≤ a ∧ a < dst + (n + 1)) ↔ (dst ≤ a ∧ a < dst + n) := by omega
      simp only [hn]

/-! ### CPY within the scratchpad (R293, R297) -/

/-- The bytes that CPY copies within such a scratchpad, as they are read. -/
def cpyBytes (s : State) (c : CoreId) (src n : Nat) : List (Option (Byte × Bool)) :=
  (List.range n).map fun i => some (cellsGet (s.core c).spad (src + i), false)

/-- The state once CPY has written them. -/
def cpyWritten (s : State) (c : CoreId) (k : Cmd) (src dst n : Nat) : State :=
  s.modCore c fun m => m.spadWrite (k.actor c) ((List.range n).map fun i => (dst + i, cellsGet (s.core c).spad (src + i)))

/-- The writes of such a copy, however a destination and a byte are put together. -/
theorem cpyBytes_writes (s : State) (c : CoreId) (src dst n : Nat) (f : Option Nat × Option (Byte × Bool) → Option EngWrite)
    (hf : ∀ a b, f (some a, some b) = some { addr := a, byte := b.1, bad := b.2 }) :
    ((((List.range n).map fun i => dst + i).map some).zip (cpyBytes s c src n)).filterMap f
      = (List.range n).map fun i => { addr := dst + i, byte := cellsGet (s.core c).spad (src + i), bad := false } := by
  rw [cpyBytes, List.map_map, List.zip_map', List.filterMap_map, ← List.filterMap_eq_map]
  exact congrArg (List.filterMap · _) (funext fun i => hf _ _)

theorem engCopy_plain (s : State) (c : CoreId) (k : Cmd) (src dst n : Nat) :
    s.engCopy k c true { bytes := cpyBytes s c src n, faults := [] } [(dst, n)] 0 0 = (cpyWritten s c k src dst n).finish c k codeOk 0 0 0 := by
  have hgood : (cpyBytes s c src n).any (fun b => b.any Prod.snd) = false :=
    List.any_eq_false.mpr fun b hb => by
      obtain ⟨i, _, rfl⟩ := List.mem_map.mp hb
      simp
  unfold State.engCopy
  simp only [List.flatMap_cons, List.flatMap_nil, List.append_nil, if_true, hgood, List.isEmpty_nil, Bool.not_true, Bool.false_eq_true,
    if_false]
  rw [cpyBytes_writes s c src dst n _ fun _ _ => rfl, State.engWriteSpad, List.map_map]
  rfl

theorem runCpy_plain {s : State} {c : CoreId} {k : Cmd} {dd ds : Word} {hd hs : BitVec 256} {gb : Word}
    (hdl : (handleOf hd).loc = 1) (hsl : (handleOf hs).loc = 1) (hb : (s.core c).spadBad = []) (hh : (s.core c).spadHist = []) :
    s.runCpy c k dd ds hd hs gb =
      (cpyWritten s c k ((handleOf hs).place (descRow ds) (descCol ds)) ((handleOf hd).place (descRow dd) (descCol dd))
        (gb.toNat % 2 ^ 32)).finish c k codeOk 0 0 0 := by
  unfold State.runCpy
  simp only [hdl, hsl, fld_low, beq_self_eq_true, engRead_plain hb hh]
  exact engCopy_plain s c k _ _ _

/-- The destination holds the source's bytes, and no other byte has changed. -/
theorem cpyWritten_spad {s : State} {c : CoreId} (hb : (s.core c).spadBad = []) (hw : cellsWf (s.core c).spad = true) (k : Cmd)
    (src dst n a : Nat) :
    cellsGet ((cpyWritten s c k src dst n).core c).spad a
      = if dst ≤ a ∧ a < dst + n then cellsGet (s.core c).spad (src + (a - dst)) else cellsGet (s.core c).spad a := by
  obtain ⟨h, e⟩ := spadWrite_plain hb (k.actor c) ((List.range n).map fun i => (dst + i, cellsGet (s.core c).spad (src + i)))
  rw [cpyWritten, core_modCore, e]
  exact cellsFold_run _ hw dst (fun i => cellsGet (s.core c).spad (src + i)) n a

theorem cpyWritten_tags {s : State} {c : CoreId} (hb : (s.core c).spadBad = []) (k : Cmd) (src dst n : Nat) :
    ((cpyWritten s c k src dst n).core c).tags = (s.core c).tags := by
  obtain ⟨h, e⟩ := spadWrite_plain hb (k.actor c) ((List.range n).map fun i => (dst + i, cellsGet (s.core c).spad (src + i)))
  rw [cpyWritten, core_modCore, e]

/-! ### Completing a command (R290) -/

theorem complete_ending {s : State} {c : CoreId} {k : Cmd} {code flags det va : Nat}
    (hk : ((s.core c).cmds.find? fun m => m.id == k.id) = some k) (hp : k.phase = .ending code flags det va) :
    exec (.engineCommandComplete c k.id) s = .next (s.finish c k code flags det va) := by
  show execEngineCommandComplete c k.id s = _
  rw [execEngineCommandComplete, State.cmd, hk]
  dsimp only
  rw [hp]

theorem complete_cpy {s : State} {c : CoreId} {k : Cmd} {dd ds : Word} {hd hs : BitVec 256} {gb : Word} (hr : running s c k)
    (hop : k.op = .cpy dd ds hd hs gb) : exec (.engineCommandComplete c k.id) s = .next (s.runCpy c k dd ds hd hs gb) := by
  obtain ⟨hk, n, hp⟩ := hr
  show execEngineCommandComplete c k.id s = _
  rw [execEngineCommandComplete, State.cmd, hk]
  dsimp only
  rw [hp]
  dsimp only
  rw [hop]
  dsimp only
  rw [State.completeCopy, hop]

theorem complete_kvld {s : State} {c : CoreId} {k : Cmd} {gd ga gb : Word} {x : BitVec 128} (hr : running s c k)
    (hop : k.op = .kvld gd ga gb x) : exec (.engineCommandComplete c k.id) s = .next (s.completeStore c k) := by
  obtain ⟨hk, n, hp⟩ := hr
  show execEngineCommandComplete c k.id s = _
  rw [execEngineCommandComplete, State.cmd, hk]
  dsimp only
  rw [hp]
  dsimp only
  rw [hop]

/-- A started CPY between scratchpad tensors, once its accesses have been performed. -/
theorem cpy_copies {s : State} {c : CoreId} {k : Cmd} {dd ds : Word} {hd hs : BitVec 256} {gb : Word} (hr : running s c k)
    (hp : performed s c k) (hop : k.op = .cpy dd ds hd hs gb) (hdl : (handleOf hd).loc = 1) (hsl : (handleOf hs).loc = 1)
    (hb : (s.core c).spadBad = []) (hh : (s.core c).spadHist = []) (hw : cellsWf (s.core c).spad = true) :
    ∃ t, exec (.engineCommandComplete c k.id) s = .next t ∧ ended s t c k 2 ∧ t.mem = s.mem ∧ t.fe = s.fe
      ∧ (∀ d, d ≠ c → t.core d = s.core d)
      ∧ (∀ i < gb.toNat % 2 ^ 32, cellsGet (t.core c).spad ((handleOf hd).place (descRow dd) (descCol dd) + i)
          = cellsGet (s.core c).spad ((handleOf hs).place (descRow ds) (descCol ds) + i))
      ∧ ∀ a, (∀ i < gb.toNat % 2 ^ 32, a ≠ (handleOf hd).place (descRow dd) (descCol dd) + i) →
          cellsGet (t.core c).spad a = cellsGet (s.core c).spad a := by
  refine ⟨_, complete_cpy hr hop, ?_⟩
  rw [runCpy_plain hdl hsl hb hh]
  generalize (handleOf hs).place (descRow ds) (descCol ds) = src
  generalize (handleOf hd).place (descRow dd) (descCol dd) = dst
  generalize gb.toNat % 2 ^ 32 = n
  have hq : performed (cpyWritten s c k src dst n) c k := hp
  obtain ⟨hmem, hfe, hspad, honly⟩ := finish_leaves hq codeOk 0 0 0
  have hget := cpyWritten_spad hb hw k src dst n
  refine ⟨finish_ends hq (cpyWritten_tags hb k src dst n) codeOk 0 0 0, hmem, hfe,
    fun d hd => onlyCore_others (onlyCore_modCore_left honly) hd, fun i hi => ?_, fun a ha => ?_⟩
  · rw [hspad, hget, if_pos (by omega), Nat.add_sub_cancel_left]
  · rw [hspad, hget, if_neg]
    rintro ⟨h1, h2⟩
    exact ha (a - dst) (by omega) (by omega)

/-! ### Backfill (R327) -/

/-- The item at the head of a die's queue, where no fence holds it and the layer's FILL is read without poison. -/
theorem backfill_reads {s u : State} {die : Fin 4} {it : BackfillItem} {its : List BackfillItem} {r : InstRec} {fl : List Byte}
    (hq : s.backfill.get die = it :: its) (hr : (s.inst it.inst).cfg = some r) (ha : it.know.after = [])
    (hf : s.frameNow it.actor (it.frame + r.fillAt it.layer) 8 = (fl, false, u)) (hbit : ofBytes fl / 2 ^ it.slot % 2 = 1) :
    exec (.backfillItem die) s = .next (u.nextLayer die it r) := by
  show execBackfillItem die s = _
  rw [execBackfillItem, hq]
  dsimp only
  rw [hr]
  dsimp only
  rw [hf, ha]
  exact if_pos hbit

/-- The keys and values of one layer, at their places in the item's frame. -/
def layerWrites (it : BackfillItem) (r : InstRec) (rows : List (List Nat)) : List (Nat × Byte) :=
  let out := rows.map fun w => projection w (it.hidden.map BitVec.toNat)
  let at_ := fun (o : Nat) (vs : List Nat) =>
    let bs := vs.flatMap fun y => toBytes 2 y
    (List.range bs.length).map fun i => (it.frame + o + i, bs.getD i 0)
  (List.range r.nh).flatMap fun g =>
    at_ (r.kAt it.layer g it.slot) ((out.drop (g * r.dim)).take r.dim)
      ++ at_ (r.vAt it.layer g it.slot) ((out.drop (r.nh * r.dim + g * r.dim)).take r.dim)

theorem backfill_fills {s u v : State} {die : Fin 4} {it : BackfillItem} {its : List BackfillItem} {r : InstRec} {fl : List Byte}
    {rows : List (List Nat)} (hq : s.backfill.get die = it :: its) (hr : (s.inst it.inst).cfg = some r) (ha : it.know.after = [])
    (hf : s.frameNow it.actor (it.frame + r.fillAt it.layer) 8 = (fl, false, u)) (hbit : ofBytes fl / 2 ^ it.slot % 2 = 0)
    (hw : u.weightRows it (handleOf it.handle)
      ((List.range (2 * (r.nh * r.dim))).map fun x => 2 * it.layer * (r.nh * r.dim) + x) = (some rows, v)) :
    exec (.backfillItem die) s = .next (((v.writePas (v.inOrder it.actor) .plain (layerWrites it r rows)).writeFill it.actor r it.frame
      it.layer (2 ^ it.slot) (ofBytes fl + 2 ^ it.slot)).nextLayer die it r) := by
  show execBackfillItem die s = _
  rw [execBackfillItem, hq]
  dsimp only
  rw [hr]
  dsimp only
  rw [hf, ha]
  show (if ofBytes fl / 2 ^ it.slot % 2 = 1 then Host.Outcome.next (u.nextLayer die it r) else _) = _
  rw [if_neg (by rw [hbit]; decide), hw]
  rfl

/-! ### The events -/

theorem engineEvent_occurs {i : Instr} {e : Event} (h : EngineEvent i e) : e.occurs i := by
  cases h with
  | empty c k dd ds hd hs gb =>
    intro s ⟨ha, hp, hop, hn⟩
    refine ⟨_, engineAccept_starts ha, ?_⟩
    rw [acceptCmd_cpy_empty hop hn]
    exact accepted_ends hp _ _
  | checked c k dd ds hd hs gb code =>
    intro s ⟨ha, hp, hop, hn, hc⟩
    refine ⟨_, engineAccept_starts ha, ?_⟩
    rw [acceptCmd_cpy_checked hop hn hc]
    exact accepted_ends hp _ _
  | starts c k dd ds hd hs gb =>
    intro s ⟨ha, hop, hn, hc⟩
    refine ⟨_, engineAccept_starts ha, ?_⟩
    rw [acceptCmd_cpy_starts hop hn hc]
    exact accepted_begins s c _ k
  | accepts c e k => exact fun s ha => ⟨_, engineAccept_starts ha, rfl⟩
  | ending c k code flags det va =>
    intro s ⟨hk, hph, hp⟩
    obtain ⟨hmem, _, hspad, honly⟩ := finish_leaves hp code flags det va
    exact ⟨_, complete_ending hk hph, finish_ends hp rfl code flags det va, hmem, hspad, honly⟩
  | copied c k dd ds hd hs gb =>
    intro s ⟨hr, hp, hop, hdl, hsl, hb, hh, hw⟩
    exact cpy_copies hr hp hop hdl hsl hb hh hw
  | storeDone c k gd ga gb x => exact fun s ⟨hr, hop⟩ => ⟨_, complete_kvld hr hop, rfl⟩
  | filled die it its r fl u =>
    intro s ⟨hq, hr, ha, hf, hbit, hl, hsame⟩
    refine ⟨_, backfill_reads hq hr ha hf hbit, ?_⟩
    rw [State.nextLayer, if_neg (Nat.not_le.mpr hl), hsame, hq]
    rfl
  | last die it its r fl u =>
    intro s ⟨hq, hr, ha, hf, hbit, hl, hsame⟩
    refine ⟨_, backfill_reads hq hr ha hf hbit, ?_⟩
    rw [State.nextLayer, if_pos hl, State.endItem, hsame, hq]
    rfl
  | layer die it its r fl u v rows =>
    intro s ⟨hq, hr, ha, hf, hbit, hw⟩
    exact ⟨_, backfill_fills hq hr ha hf hbit hw, rfl⟩

/-- Settles O44: the events of the table, of which the completions in full are rows. -/
theorem engineEvents : Obligations.EngineEvents := by
  refine ⟨fun i e h => engineEvent_occurs h, ?_, fun s c e k ha => engineAccept_starts ha, ?_, ?_⟩
  · intro s c k dd ds hd hs gb ha hop hn hc
    obtain ⟨t, ht, honly, htags, _, hcmds⟩ := engineEvent_occurs (.starts c k dd ds hd hs gb) s ⟨ha, hop, hn, hc⟩
    exact ⟨t, ht, honly, htags, hcmds⟩
  · intro s c k dd ds hd hs gb hr hp hop hdl hsl hb hh hw
    obtain ⟨t, ht, hend, hmem, _, _, hcopy, _⟩ := cpy_copies hr hp hop hdl hsl hb hh hw
    exact ⟨t, ht, hend, hmem, hcopy⟩
  · intro s die it its r fl u v rows hq hr ha hf hbit hw
    exact ⟨_, backfill_fills hq hr ha hf hbit hw⟩

end Sys2Proof.Machine
end

section
/-!
PROOFS. The vector instructions: those that work lane by lane (O12), and those on rows, masks and softmax states (O13).

All of them go through one shared issue, `vecIssue`, whose effect is a row's `vecEffect`: `completes_vector`. What is left for a row is that
its results are those of the meaning.
-/
set_option Elab.async false
namespace Sys2Proof.Machine
open Sys2Proof Sys2Proof.Rules

/-! ### The shared issue of vector instructions -/

/-- A free special-function unit, where it is needed, holds nothing (R161). -/
theorem sfuWait_free {sfu : Bool} {s : State} (h : sfu = true → s.me.sfuBusy ≤ s.cycle) :
    (sfu && decide (s.cycle < s.me.sfuBusy)) = false := by
  cases sfu with
  | false => rfl
  | true => exact decide_eq_false (Nat.not_lt.mpr (h rfl))

/-- Recording the poisoned rows that it reads leaves every sequencer (R399). -/
theorem noteRows_seq (s : State) (c : CoreId) (rows : List (Fin 128)) (w : Who) : (s.noteRows c rows).seq w = s.seq w := by
  unfold State.noteRows
  split
  · rfl
  · rw [modCore_seq _ _ _ (fun k q => (derrRecord_same k 3 0).1 q), foundOnDie_seq]

/-- So does taking the special-function unit. -/
theorem takeSfu_seq (s : State) (c : CoreId) (f : Core → Nat) (w : Who) :
    (s.modCore c fun k => { k with sfuBusy := f k }).seq w = s.seq w :=
  modCore_seq _ _ _ (fun _ q => by cases q <;> rfl) w

/-- An instruction that goes through the shared issue of vector instructions, with the row's results. -/
theorem completes_vector {i : Instr} {x : Ctl} {lat : Nat} {sfu : Bool} {srcs : List VReg} {bad : LaneKind → Bool}
    {rs : Vx → Seq → List Result} (sp : Spec) (ms : List MReg) (he : ∀ s, exec i s = vecIssue sp sfu srcs ms bad rs s)
    (hx : (vecEffect x lat sfu srcs bad rs).shares { sp with issuers := [.C] } := by exact ⟨rfl, rfl, rfl, rfl, rfl, rfl, rfl⟩)
    (hi : ∀ cx s, sp.illegal cx s = false := by exact fun _ _ => rfl) : (vecEffect x lat sfu srcs bad rs).completes i := by
  refine completes_clear _ _ he (fun s hfree => ⟨hi _ _, sfuWait_free hfree⟩) ?_ hx
  intro p cx hw hgood
  have hgood : bad (p.core cx.who.core).lane = false := by rw [hw]; exact hgood
  refine ⟨true, (unless_false hgood).trans ?_⟩
  dsimp only
  rw [takeSfu_seq, noteRows_seq, hw]
  rfl

/-- One that works lane by lane (R157). -/
theorem completes_lanes {i : Instr} {x : Ctl} {lat : Nat} {sfu : Bool} {d : VReg} {srcs : List VReg} {bad : LaneKind → Bool}
    {f : LaneKind → Bool → List Nat → Nat × BitVec 6} (he : ∀ s, exec i s = laneWise i x lat sfu d srcs bad f s) :
    (laneEffect x lat sfu d srcs bad f).completes i := completes_vector _ [0] he

/-- A reduction or scan (R171, R172). -/
theorem completes_fold {i : Instr} {x : Ctl} {lat : Nat} {d a : VReg} {g : BitVec 3} {scan : Bool} {bad : LaneKind → Bool}
    {fo : LaneKind → Bool → Fold} (he : ∀ s, exec i s = reduceOp i x lat d a g scan bad fo s) :
    (foldEffect x lat d a g scan bad fo).completes i := completes_vector _ [0] he

/-- A mask operation (R165). -/
theorem completes_mask {i : Instr} {x : Ctl} {m : MReg} (ms : List MReg) (f : Core → Mask) (he : ∀ s, exec i s = maskOp i x m ms f s) :
    (vecEffect x 1 false [] anyType fun y _ => [Result.mask m (f y.c) 0]).completes i := completes_vector _ ms he

/-- Settles O12: each row is one lane-wise operation of its sources, as its meaning is. -/
theorem vectorLanes : Obligations.VectorLanes := by
  intro i f h
  cases h
  all_goals exact completes_lanes fun _ => rfl

/-! ### Rows of softmax states (R174 to R176), and the residual of a conversion (R170) -/

theorem vplus_zero (v : VReg) : vplus v 0 = v := Fin.ext (Nat.mod_eq_of_lt v.isLt)

/-- A lane of VOSM's state as a list. -/
def pairLane (r : Option (Nat × Nat) × BitVec 6) : Option (List Nat) × BitVec 6 := (r.1.map fun l => [l.1, l.2], r.2)

/-- A state of pairs, lane by lane (R175). -/
theorem stateLanes_pair (y : Vx) (f : Nat → Option (Nat × Nat) × BitVec 6) :
    stateLanes y (fun i => pairLane (f i))
      = ((List.range 128).map fun i => if y.sel.getD i false then f i else (none, 0)).map pairLane := by
  rw [stateLanes, List.map_map]
  refine List.map_congr_left fun i _ => ?_
  dsimp only [Function.comp]
  split <;> rfl

/-- Lane `j` of a state as VOSM and VLSE write it: zero where it does not change. -/
def stateLane (j : Nat) (r : Option (List Nat) × BitVec 6) : Nat :=
  match r.1 with
  | some l => l.getD j 0
  | none => 0

/-- The maximum of a state as VOSM writes it. -/
def pairMax (r : Option (Nat × Nat) × BitVec 6) : Nat :=
  match r.1 with
  | some (m, _) => m
  | none => 0

/-- Its sum. -/
def pairSum (r : Option (Nat × Nat) × BitVec 6) : Nat :=
  match r.1 with
  | some (_, t) => t
  | none => 0

/-- The rows of a state, each with the lanes that change. -/
theorem stateResults_eq (y : Vx) (v : VReg) (n : Nat) (rs : List (Option (List Nat) × BitVec 6)) :
    stateResults y v n rs = (List.range n).map fun j =>
      y.put (vplus v j) 4 (rs.map (stateLane j)) (rs.map fun r => r.1.isSome)
        (if j = 0 then rs.foldl (fun acc r => acc ||| r.2) 0 else 0) := rfl

theorem stateLane_zero_pair (r : Option (Nat × Nat) × BitVec 6) : stateLane 0 (pairLane r) = pairMax r := by
  obtain ⟨_ | l, fl⟩ := r <;> rfl

theorem stateLane_one_pair (r : Option (Nat × Nat) × BitVec 6) : stateLane 1 (pairLane r) = pairSum r := by
  obtain ⟨_ | l, fl⟩ := r <;> rfl

theorem pairLane_isSome (r : Option (Nat × Nat) × BitVec 6) : (pairLane r).1.isSome = r.1.isSome := Option.isSome_map

/-- VOSM's two rows, from its lanes as pairs. -/
theorem stateResults_pair (y : Vx) (v : VReg) (rs : List (Option (Nat × Nat) × BitVec 6)) :
    stateResults y v 2 (rs.map pairLane)
      = [y.put v 4 (rs.map pairMax) (rs.map fun r => r.1.isSome) (rs.foldl (fun acc r => acc ||| r.2) 0),
          y.put (vplus v 1) 4 (rs.map pairSum) (rs.map fun r => r.1.isSome) 0] := by
  rw [stateResults_eq]
  simp only [List.range_succ, List.range_zero, List.nil_append, List.cons_append, List.map_cons, List.map_nil, List.map_map,
    Function.comp_def, List.foldl_map, stateLane_zero_pair, stateLane_one_pair, pairLane_isSome, vplus_zero]
  rfl

/-- VOSM's results are those of a softmax state of two rows. -/
theorem execVosm_eq (v a b : VReg) (x : Ctl) (s : State) : execVosm v a b x s =
    vecIssue { x := x, minLat := 6, wdst := fun c => [.row (c.vrow v), .row (c.vrow (vplus v 1))]
               tape := .command, enc := encode (.vosm v a b x) } true [v, vplus v 1, a, b] [0] fp32Only
      (fun y _ => stateResults y v 2 (stateLanes y fun i =>
        pairLane (osmLane y.flush ((y.lanes v).getD i 0) ((y.lanes (vplus v 1)).getD i 0) ((y.lanes a).getD i 0)
          ((y.lanes b).getD i 0)))) s := by
  unfold execVosm
  simp only [stateLanes_pair, stateResults_pair]
  generalize List.range 128 = ix
  rfl

/-- VLSE's are those of a state of `k` + 2 rows. -/
theorem execVlse_eq (v a : VReg) (k : BitVec 5) (x : Ctl) (s : State) : execVlse v a k x s =
    vecIssue
      { x := x, minLat := 6, wdst := fun c => (List.range (k.toNat + 2)).map fun j => .row (c.vrow (vplus v j)), tape := .command
        illegal := fun _ _ => decide (k.toNat > 14) || lseOverlap v.val a.val k.toNat
        enc := encode (.vlse v a k x) }
      true ((List.range (k.toNat + 2)).map (vplus v) ++ (List.range (k.toNat + 2)).map (vplus a)) [0] fp32Only
      (fun y _ => stateResults y v (k.toNat + 2) (stateLanes y fun i =>
        lseLane y.flush ((List.range (k.toNat + 2)).map fun j => (y.lanes (vplus v j)).getD i 0)
          ((List.range (k.toNat + 2)).map fun j => (y.lanes (vplus a j)).getD i 0))) s := by
  unfold execVlse stateLanes stateResults
  simp only [List.map_map]
  rfl

/-- VCVTEF with its pair of formats taken apart. -/
theorem execVcvtef_eq (v a e : VReg) (f : BitVec 2) (x : Ctl) (s : State) : execVcvtef v a e f x s =
    vecIssue
      { x := x, minLat := 2, wdst := fun c => [.row (c.vrow v), .row (c.vrow e)]
        tape := .command, illegal := fun _ _ => v == e, enc := encode (.vcvtef v a e f x) } false
      [a] [0] (fun k => k.fmt != some (efPair f).2)
      (fun y _ =>
        let rs := (List.range y.k.n).map fun i =>
          if y.sel.getD i false then efLane (efPair f).1 (efPair f).2 y.flush ((y.lanes a).getD i 0) else (0, 0, 0)
        [y.put v ((efPair f).1.width / 8) (rs.map fun r => r.1) y.sel (rs.foldl (fun acc r => acc ||| r.2.2) 0),
          y.put e y.k.w (rs.map fun r => r.2.1) y.sel 0]) s := rfl

/-- Settles O13: by the shape of the row; VOSM, VLSE and VCVTEF by the form of their results, and by the operands that the rows accept. -/
theorem vectorRows : Obligations.VectorRows := by
  intro i f h
  cases h with
  | mand m n o x => exact completes_mask [n, o] (fun c => c.mask n &&& c.mask o) fun _ => rfl
  | mor m n o x => exact completes_mask [n, o] (fun c => c.mask n ||| c.mask o) fun _ => rfl
  | mxor m n o x => exact completes_mask [n, o] (fun c => c.mask n ^^^ c.mask o) fun _ => rfl
  | mandn m n o x => exact completes_mask [n, o] (fun c => c.mask n &&& ~~~(c.mask o)) fun _ => rfl
  | mnot m n x => exact completes_mask [n] (fun c => ~~~(c.mask n)) fun _ => rfl
  | vrsum | vrmax | vrmin | vrmaxu | vrminu | vrmaxa | vror | vrand | vrxor | vscan | vscanmax =>
    exact completes_fold fun _ => rfl
  | vsel | vperm | vcmp | msetl | mcnt | mffs | vcvt | vcmpr | vexpd | vbcast | vextr | vfromm | vtom | viota | vconf =>
    exact completes_vector _ _ fun _ => rfl
  | vosm v a b x => exact completes_vector _ _ (execVosm_eq v a b x)
  | vlse v a k x hk ho =>
    have hlegal : (decide (k.toNat > 14) || lseOverlap v.val a.val k.toNat) = false := by simp [hk, ho]
    exact completes_vector _ _ (execVlse_eq v a k x) (hi := fun _ _ => hlegal)
  | vcvtef v a e f x hne => exact completes_vector _ _ (execVcvtef_eq v a e f x) (hi := fun _ _ => beq_false_of_ne hne)

end Sys2Proof.Machine
end

section
/-!
PROOFS. NaN results are canonical (O60).

Each of the five operations ends in one rounding. What rounding delivers of a NaN is the canonical one, and of anything else a finite value
or an infinity, neither of which reads as a NaN.
-/
set_option Elab.async false
namespace Sys2Proof.Machine
open Sys2Proof

/-! ### Which bits read as a NaN (R128, R129) -/

/-- A NaN has the exponent field all ones and a fraction other than zero. -/
theorem Fmt.read_isNan_iff (f : Fmt) (fl : Bool) (n : Nat) :
    (f.read fl n).1.isNan = true ↔ n / 2 ^ f.fb % 2 ^ f.eb = 2 ^ f.eb - 1 ∧ n % 2 ^ f.fb ≠ 0 := by
  unfold Fmt.read
  dsimp only
  split
  · split <;> simp_all [FVal.isNan]
  · split
    · split
      · simp_all [FVal.isNan]
      · split <;> simp_all [FVal.isNan]
    · simp_all [FVal.isNan]

/-- The sign is above the exponent and the fraction. -/
theorem Fmt.zero_eq (f : Fmt) (neg : Bool) : f.zero neg = 2 ^ f.fb * (2 ^ f.eb * neg.toNat) := by
  cases neg
  · rfl
  · simp only [Fmt.zero, if_true, Bool.toNat_true, mul_one, ← pow_add, Nat.add_comm]

/-- The bits of a finite value: a sign, and below it an exponent field that is not all ones. -/
def Fmt.Finite (f : Fmt) (n : Nat) : Prop := ∃ neg x, x < (2 ^ f.eb - 1) * 2 ^ f.fb ∧ n = f.zero neg + x

theorem Fmt.Finite.not_isNan {f : Fmt} {n : Nat} (h : f.Finite n) (fl : Bool) : (f.read fl n).1.isNan = false := by
  obtain ⟨neg, x, hx, rfl⟩ := h
  have hex : x / 2 ^ f.fb < 2 ^ f.eb - 1 := Nat.div_lt_of_lt_mul (Nat.mul_comm _ _ ▸ hx)
  have hfield : (f.zero neg + x) / 2 ^ f.fb % 2 ^ f.eb = x / 2 ^ f.fb := by
    rw [Fmt.zero_eq, Nat.mul_add_div (Nat.two_pow_pos _), Nat.mul_add_mod, Nat.mod_eq_of_lt (hex.trans_le (Nat.sub_le _ _))]
  refine Bool.eq_false_iff.mpr fun hn => ?_
  have := ((Fmt.read_isNan_iff _ _ _).mp hn).1
  omega

/-- An infinity has its sign above an exponent field all ones. -/
theorem Fmt.inf_eq (f : Fmt) (neg : Bool) : f.inf neg = f.zero neg + (2 ^ f.eb - 1) * 2 ^ f.fb := rfl

/-- An infinity has no fraction. -/
theorem Fmt.inf_not_isNan (f : Fmt) (fl neg : Bool) : (f.read fl (f.inf neg)).1.isNan = false := by
  refine Bool.eq_false_iff.mpr fun hn => ((Fmt.read_isNan_iff _ _ _).mp hn).2 ?_
  rw [Fmt.inf_eq, Fmt.zero_eq, Nat.mul_add_mod, Nat.mul_mod_left]

/-! ### What rounding delivers (R131, R132) -/

theorem Fmt.zero_finite {f : Fmt} (h : 1 ≤ f.eb) (neg : Bool) : f.Finite (f.zero neg) := by
  have : 2 ^ 1 ≤ 2 ^ f.eb := Nat.pow_le_pow_right (by decide) h
  exact ⟨neg, 0, Nat.mul_pos (by omega) (Nat.two_pow_pos _), rfl⟩

theorem Fmt.maxFinite_finite {f : Fmt} (h : 1 ≤ f.eb) (neg : Bool) : f.Finite (f.maxFinite neg) := by
  have : 2 ^ 1 ≤ 2 ^ f.eb := Nat.pow_le_pow_right (by decide) h
  have hpos : 0 < (2 ^ f.eb - 1) * 2 ^ f.fb := Nat.mul_pos (by omega) (Nat.two_pow_pos _)
  exact ⟨neg, (2 ^ f.eb - 1) * 2 ^ f.fb - 1, by omega, by rw [Fmt.maxFinite, Fmt.inf_eq, Nat.add_sub_assoc hpos]⟩

/-- A number below 2^(`k` + `s`), rounded to a multiple of 2^`s`, is at most 2^`k` of them. -/
theorem roundNat_le_pow (rm : Rm) (neg : Bool) {m s k : Nat} (h : m < 2 ^ (k + s)) : (roundNat rm neg m s).1 ≤ 2 ^ k := by
  have hq : m / 2 ^ s < 2 ^ k := Nat.div_lt_of_lt_mul (by rwa [← pow_add, Nat.add_comm])
  have hup : ∀ up : Bool, (if up then m / 2 ^ s + 1 else m / 2 ^ s) ≤ 2 ^ k := fun up => by
    cases up
    · exact hq.le
    · exact hq
  unfold roundNat
  dsimp only
  split
  · exact hq.le
  · exact hup _

/-- The same for `m` × 2^`e` and a multiple of 2^`w`. -/
theorem roundTo_le_pow (rm : Rm) (neg : Bool) {m k : Nat} {e w : Int} (h : e + Nat.log2 m < w + k) :
    (roundTo rm neg m e w).1 ≤ 2 ^ k := by
  have hm : m < 2 ^ (m.log2 + 1) := Nat.lt_log2_self
  unfold roundTo
  split
  next hw =>
    calc m * 2 ^ (e - w).toNat ≤ 2 ^ (m.log2 + 1) * 2 ^ (e - w).toNat := Nat.mul_le_mul_right _ hm.le
      _ = 2 ^ (m.log2 + 1 + (e - w).toNat) := (pow_add ..).symm
      _ ≤ 2 ^ k := Nat.pow_le_pow_right (by decide) (by omega)
  next hw => exact roundNat_le_pow rm neg (hm.trans_le (Nat.pow_le_pow_right (by decide) (by omega)))

/-- An exponent up to twice the bias and a fraction are those of a finite value. -/
theorem Fmt.normal_finite {f : Fmt} (h : 1 ≤ f.eb) (neg : Bool) {ex fr : Nat} (hex : ex ≤ 2 * f.bias) (hfr : fr < 2 ^ f.fb) :
    f.Finite (f.zero neg + ex * 2 ^ f.fb + fr) := by
  have hbias : 2 * f.bias = 2 ^ f.eb - 2 := by
    obtain ⟨k, hk⟩ := Nat.exists_eq_add_of_le' h
    simp only [Fmt.bias, hk, Nat.add_sub_cancel, pow_succ]
    omega
  have h2 : 2 ^ 1 ≤ 2 ^ f.eb := Nat.pow_le_pow_right (by decide) h
  refine ⟨neg, ex * 2 ^ f.fb + fr, ?_, Nat.add_assoc ..⟩
  calc ex * 2 ^ f.fb + fr < (ex + 1) * 2 ^ f.fb := by rw [Nat.succ_mul]; omega
    _ ≤ (2 ^ f.eb - 1) * 2 ^ f.fb := Nat.mul_le_mul_right _ (by omega)

/-- A subnormal, or one that rounding has made the least normal value. -/
theorem Fmt.subnormal_finite {f : Fmt} (h : 2 ≤ f.eb) (neg : Bool) {q : Nat} (hq : q ≤ 2 ^ f.fb) : f.Finite (f.zero neg + q) := by
  have h4 : 2 ^ 2 ≤ 2 ^ f.eb := Nat.pow_le_pow_right (by decide) h
  refine ⟨neg, q, ?_, rfl⟩
  calc q ≤ 2 ^ f.fb := hq
    _ < 2 * 2 ^ f.fb := by have := Nat.two_pow_pos f.fb; omega
    _ ≤ (2 ^ f.eb - 1) * 2 ^ f.fb := Nat.mul_le_mul_right _ (by omega)

/-- A carry out of the fraction moves to the exponent. -/
theorem carry_fits {n q : Nat} {t : Int} {c : Nat × Int} (hq : q ≤ 2 ^ (n + 1))
    (hc : (if q = 2 ^ (n + 1) then (2 ^ n, t + 1) else (q, t)) = c) : c.1 - 2 ^ n < 2 ^ n ∧ t ≤ c.2 := by
  have hn := Nat.two_pow_pos n
  have hs : 2 ^ (n + 1) = 2 * 2 ^ n := Nat.pow_succ'
  subst hc
  split
  · exact ⟨by rwa [Nat.sub_self], Int.le_add_one le_rfl⟩
  · exact ⟨by dsimp only; omega, le_rfl⟩

/-- A finite value is delivered as one, or as an infinity. -/
theorem Fmt.round_num {f : Fmt} (h : 2 ≤ f.eb) (rm : Rm) (fl neg : Bool) (m : Nat) (e : Int) :
    f.Finite (f.round rm fl (.num neg m e)).1 ∨ (f.round rm fl (.num neg m e)).1 = f.inf neg := by
  have h1 : 1 ≤ f.eb := by omega
  unfold Fmt.round
  dsimp only
  split
  · exact .inl (Fmt.zero_finite h1 neg)
  have hq := roundTo_le_pow rm neg (m := m) (k := f.fb + 1) (e := e) (w := e + m.log2 - f.fb) (by omega)
  generalize hc : (if _ = 2 ^ (f.fb + 1) then _ else _ : Nat × Int) = c
  obtain ⟨hfr, htop⟩ := carry_fits hq hc
  split
  next htiny =>
    split
    · exact .inl (Fmt.zero_finite h1 neg)
    · exact .inl (Fmt.subnormal_finite h neg (roundTo_le_pow rm neg (by omega)))
  next =>
    split
    next hover =>
      dsimp only
      split
      · exact .inr rfl
      · exact .inl (Fmt.maxFinite_finite h1 neg)
    next hnormal => exact .inl (Fmt.normal_finite h1 neg (by omega) hfr)

/-- What rounding delivers reads as a NaN only if it is the canonical one. -/
theorem Fmt.round_canonical {f : Fmt} (h : 2 ≤ f.eb) (rm : Rm) (fl : Bool) (v : FVal)
    (hn : (f.read false (f.round rm fl v).1).1.isNan = true) :
    (f.round rm fl v).1 = f.nan := by
  cases v with
  | nan sg => rfl
  | inf neg => exact Bool.noConfusion ((Fmt.inf_not_isNan f false neg).symm.trans hn)
  | num neg m e =>
    rcases Fmt.round_num h rm fl neg m e with hfin | hinf
    · exact Bool.noConfusion ((hfin.not_isNan false).symm.trans hn)
    · rw [hinf] at hn
      exact Bool.noConfusion ((Fmt.inf_not_isNan f false neg).symm.trans hn)

/-- Settles O60: each result is a rounded value (`Fmt.round_canonical`). -/
theorem canonicalNan : Obligations.CanonicalNan := by
  intro f g hf _ rm fl a b c v hv hn
  have heb : 2 ≤ f.eb := by
    simp only [List.mem_cons, List.not_mem_nil, or_false] at hf
    rcases hf with rfl | rfl | rfl | rfl <;> decide
  have hr : ∃ w, v = (f.round rm fl w).1 := by
    simp only [List.mem_cons, List.not_mem_nil, or_false] at hv
    rcases hv with rfl | rfl | rfl | rfl | rfl <;> exact ⟨_, rfl⟩
  obtain ⟨w, rfl⟩ := hr
  exact Fmt.round_canonical heb rm fl w hn

end Sys2Proof.Machine
end

section
/-!
PROOFS. MMAS (O16), MDRAIN (O17), MSAVE and MLOAD (O18): each row's conditions are the tests and the walks that its meaning makes.
-/
set_option Elab.async false
namespace Sys2Proof.Machine
open Sys2Proof Sys2Proof.Rules

/-! ### MMAS (R189, R190) -/

/-- Handles and a metadata address that MMAS accepts (R189, R197). -/
theorem sparseOperands_good {ha hb : Handle} {ka kb ca cb n : Nat} (h1 : operandBad ha ka ca = false) (h2 : operandBad hb kb cb = false)
    (hf : ha.fmt = hb.fmt) (hn : n ≤ 2 ^ 22) :
    (operandBad ha ka ca || operandBad hb kb cb || ha.fmt != hb.fmt || decide (n > 2 ^ 22)) = false := by
  rw [h1, h2, hf, bne_self_eq_false, decide_eq_false (by omega)]
  rfl

/-- Settles O16: behind the gate the row's conditions are MMAS's tests, each passed, and what it sends is the row's. -/
theorem sparseMultiply : Obligations.SparseMultiply := by
  intro i f h
  cases h with
  | mmas d a b x k head g n =>
    refine completes_clear _ _ (fun _ => rfl) (fun s h => ⟨rfl, h⟩) ?_
    intro p cx hw ⟨hr, hf, hk, hi, ha, hb, he, hn, hm, h64, hh, hmeta, hc⟩
    subst hn
    obtain rfl : _ = head := congrArg Prod.fst hh
    obtain rfl : _ = g := congrArg Prod.snd hh
    have hkind : (if (operand p a).fmt = 3 ∨ (operand p a).fmt = 4 ∨ (operand p a).fmt = 9 then matKind (operand p a).fmt else none)
        = some k := (if_pos hf).trans hk
    refine ⟨true, (rampGate_warm hw hr).trans ?_⟩
    rw [seq_who hw, hw]
    unfold operand State.me at hkind
    dsimp only
    rw [hkind]
    refine (unless_false hi).trans ((unless_false (sparseOperands_good ha hb he hm)).trans ?_)
    exact (unless_false hmeta).trans ((if_neg (not_not.mpr h64)).trans (unless_false hc))

/-! ### MDRAIN (R193, R194) -/

/-- The walks of the pages that MDRAIN writes, none where its destination is the scratchpad. -/
def drainWalk (cx : Cx) (s : State) (d : Reg) : Except PageFault (List (List (Nat × Nat))) × State :=
  if (operand s d).loc = 0 then s.translateRuns (cx.matActor s) s.turn.core Need.store (drainRuns s (operand s d) (s.mine.rg d))
  else (.ok [], s)

/-- The walk for the word of MDRAIN's maximum, in the state `u` after the others, none where it names no address. -/
def maximumWalk (cx : Cx) (s u : State) (a : Reg) : Except PageFault (List (Nat × Nat)) × State :=
  if (s.mine.rg a).toNat = 0 then (.ok [], u)
  else u.translateBytes (cx.matActor s) s.turn.core (u.tenOf s.turn.core) Need.amo (s.mine.rg a).toNat 4

/-- What MDRAIN leaves, `v` the state after its walks. -/
def drained (cx : Cx) (s v : State) (d a b : Reg) (pas : List (List (Nat × Nat))) (word : List (Nat × Nat)) : State :=
  let h := operand s d
  let dd := s.mine.rg d
  let gb := s.mine.rg b
  let u := v.noteRows s.turn.core ((drainRows s h dd).1.map s.me.tileRow)
  let t := (drainStored cx s u h dd gb pas).openWrite cx true ((drainElems cx s h dd gb).foldl (fun acc r => acc ||| orFlags r) 0)
  let t := word.head?.elim t fun p =>
    { t with pending := t.pending ++ [cx.maximum t (s.mine.rg a).toNat p.1
        (((drainElems cx s h dd gb).flatten.map fun e => magnitude32 h.fmt e.1).foldl max 0)] }
  t.modCore s.turn.core fun c => { c with matBusy := t.cycle + c.mrows }

/-- MDRAIN's tests, then its walks, then its writes (R193, R194, R197). -/
def mdrainAct (d a b : Reg) (cx : Cx) (s : State) : Act :=
  if (fld s.me.acct 2 0 ≠ 0 ∧ fld s.me.acct 2 0 ≠ 5 ∧ fld s.me.acct 2 0 ≠ 1) ∨ fld (s.mine.rg b) 63 18 ≠ 0
      ∨ (s.mine.rg a).toNat % 4 ≠ 0 then .trap Trap.illegal
  else if !(operand s d).dense then .trap Trap.handle
  else
    let (pas, u) := drainWalk cx s d
    match pas with
    | .error f => .fault u (Trap.page f)
    | .ok pas =>
      let (word, v) := maximumWalk cx s u a
      match word with
      | .error f => .fault v (Trap.page f)
      | .ok word => .done (drained cx s v d a b pas word) .next true

/-- Operands that MDRAIN accepts, and pages that are there. -/
theorem mdrainAct_writes {d a b : Reg} {cx : Cx} {s u v : State} {pas : List (List (Nat × Nat))} {word : List (Nat × Nat)}
    (ht : fld s.me.acct 2 0 = 0 ∨ fld s.me.acct 2 0 = 1 ∨ fld s.me.acct 2 0 = 5) (hb : fld (s.mine.rg b) 63 18 = 0)
    (ha : (s.mine.rg a).toNat % 4 = 0) (hd : (operand s d).dense = true)
    (hu : drainWalk cx s d = (.ok pas, u)) (hv : maximumWalk cx s u a = (.ok word, v)) :
    mdrainAct d a b cx s = .done (drained cx s v d a b pas word) .next true := by
  rw [mdrainAct, if_neg (by omega), hd, hu]
  dsimp only
  rw [hv]
  rfl

/-- Settles O17: the row's conditions are MDRAIN's tests and walks, and what it leaves is the row's, with a maximum or without. -/
theorem matrixDrain : Obligations.MatrixDrain := by
  intro i f h
  cases h with
  | mdrain d a b x pas word u v =>
    refine completes_clear _ _ (fun _ => rfl) (fun s h => ⟨rfl, h⟩) ?_
    intro p cx hw ⟨ht, hb, ha, hd, hu, hv⟩
    refine ⟨true, Eq.trans ?_ ((mdrainAct_writes ht hb ha hd hu hv).trans ?_)⟩
    · rw [seq_who hw, hw]
      rfl
    · unfold drained drainMax
      cases word.head? <;> rfl

/-! ### MSAVE and MLOAD (R195) -/

/-- The poison that MLOAD has found is recorded as its meaning records it. -/
theorem loading_elim (cx : Cx) (s u : State) (a : Nat) (bs : List (Byte × Bool)) :
    loading cx s a bs u = ((bs.findIdx? Prod.snd).elim u fun i => u.modCore s.turn.core fun c => c.derrRecord 1 (a + i)).modCore s.turn.core
      fun c => { c with pend := c.pend ++ [{ cls := .mat, sq := .C, id := cx.stamp }] } := by
  unfold loading
  cases bs.findIdx? Prod.snd <;> rfl

/-- Settles O18: in each row gb chooses the scratchpad or memory, with an address inside the one or pages that are there in the other. -/
theorem matrixRows : Obligations.MatrixRows := by
  intro i f h
  cases h with
  | saveSpad a b x =>
    refine completes_clear _ _ (fun _ => rfl) (fun s h => ⟨rfl, h⟩) ?_
    intro p cx hw ⟨hb, hs, hn⟩
    refine ⟨true, ?_⟩
    rw [seq_who hw, hw]
    exact (unless_false hb).trans ((if_pos hs).trans (if_neg (by omega)))
  | saveMem a b x pas u =>
    refine completes_clear _ _ (fun _ => rfl) (fun s h => ⟨rfl, h⟩) ?_
    intro p cx hw ⟨hb, hs, hu⟩
    refine ⟨true, ?_⟩
    rw [seq_who hw, hw]
    refine (unless_false hb).trans ((unless_false hs).trans ?_)
    dsimp only
    rw [hu]
    rfl
  | loadSpad a b x =>
    refine completes_clear _ _ (fun _ => rfl) (fun s h => ⟨rfl, h⟩) ?_
    intro p cx hw ⟨hb, hs, hn⟩
    refine ⟨true, ?_⟩
    rw [seq_who hw, hw]
    generalize State.spadLoad = load
    exact (unless_false hb).trans ((if_pos hs).trans (if_neg (by omega)))
  | loadMem a b x pas u =>
    refine completes_clear _ _ (fun _ => rfl) (fun s h => ⟨rfl, h⟩) ?_
    intro p cx hw ⟨hb, hs, hu⟩
    refine ⟨true, ?_⟩
    rw [seq_who hw, hw]
    refine (unless_false hb).trans ((unless_false hs).trans ?_)
    dsimp only
    rw [hu, loading_elim]

end Sys2Proof.Machine
end

section
/-!
PROOFS. Register writes, the invalidation of translations and the start of a migration (O40).
-/
set_option Elab.async false
namespace Sys2Proof.Machine
open Sys2Proof Sys2Proof.Rules

/-! ### Guarded writes (R407) -/

/-- Nothing refuses a write whose refusals all fail. -/
theorem firstCode_none {cs : List (Bool × Nat)} (h : ∀ c ∈ cs, c.1 = false) : firstCode cs = none := by
  refine List.find?_eq_none.2 fun k _ => ?_
  simp only [List.any_eq_true, Bool.and_eq_true, not_exists, not_and]
  intro c hc ht
  simp [h c hc] at ht

/-- An active launch refuses a write before the codes 5, 1 and 2 do. -/
theorem firstCode_active {cs : List (Bool × Nat)} (h : ∀ c ∈ cs, c.2 = 1 ∨ c.2 = 2 ∨ c.2 = 5) : firstCode ((true, 3) :: cs) = some 3 := by
  have hno : ∀ k, k = 6 ∨ k = 4 → (cs.any fun c => c.1 && c.2 == k) = false := fun k hk => by
    simp only [List.any_eq_false, Bool.and_eq_true, beq_iff_eq, not_and]
    intro c hc _
    have := h c hc
    omega
  simp [firstCode, List.find?, hno]

theorem guardWrite_done {s : State} {cs : List (Bool × Nat)} (h : firstCode cs = none) (off : Nat) (f : State → State) :
    s.guardWrite off cs f = f s := by
  rw [State.guardWrite, h]

theorem guardWrite_refused {s : State} {cs : List (Bool × Nat)} {k : Nat} (h : firstCode cs = some k) (off : Nat) (f : State → State) :
    s.guardWrite off cs f = s.latchFe k off := by
  rw [State.guardWrite, h]

/-- FE_ERR takes the refusal where it was not VALID. -/
theorem latchFe_latches {s : State} (h : s.fe.feErr.getLsbD 31 = false) (code off : Nat) :
    s.latchFe code off = { s with fe := { s.fe with feErr := BitVec.ofNat 32 (2 ^ 31 + code * 2 ^ 24 + off % 2 ^ 20) } } := by
  rw [State.latchFe, h]
  rfl

/-- So for register `n` of an array of 8-byte registers. -/
theorem latchFe_latches_at {s : State} (h : s.fe.feErr.getLsbD 31 = false) (code base n : Nat) (hn : base + 8 * n < 2 ^ 20) :
    s.latchFe code (base + 8 * n)
      = { s with fe := { s.fe with feErr := BitVec.ofNat 32 (2 ^ 31 + code * 2 ^ 24 + base + 8 * n) } } := by
  rw [latchFe_latches h, Nat.mod_eq_of_lt hn, ← Nat.add_assoc]

/-- It keeps the one that it holds. -/
theorem latchFe_keeps {s : State} (h : s.fe.feErr.getLsbD 31 = true) (code off : Nat) : s.latchFe code off = s :=
  if_pos h

theorem launchActive_none {s : State} (h : s.launches = []) : s.launchActive = false := by
  rw [State.launchActive, h]
  rfl

theorem launchActive_some {s : State} (h : s.launches ≠ []) : s.launchActive = true := by
  simpa [State.launchActive] using h

/-! ### Fields of a word -/

/-- A field that is 0 has no bit. -/
theorem getLsbD_of_field_zero {v : Word} {lo n i : Nat} (h : v.toNat / 2 ^ lo % 2 ^ n = 0) (hl : lo ≤ i) (hi : i < lo + n) :
    v.getLsbD i = false := by
  have hb : (v.toNat / 2 ^ lo % 2 ^ n).testBit (i - lo) = v.toNat.testBit i := by
    rw [Nat.testBit_mod_two_pow, Nat.testBit_div_two_pow, show i - lo + lo = i by omega, decide_eq_true (by omega), Bool.true_and]
  rw [← BitVec.testBit_toNat, ← hb, h, Nat.zero_testBit]

/-- Masking a field leaves it in its place. -/
theorem and_field (n lo k : Nat) : n &&& (2 ^ k - 1) * 2 ^ lo = n / 2 ^ lo % 2 ^ k * 2 ^ lo := by
  refine Nat.eq_of_testBit_eq fun i => ?_
  simp only [Nat.testBit_and, Nat.testBit_mul_two_pow, Nat.testBit_two_pow_sub_one, Nat.testBit_mod_two_pow, Nat.testBit_div_two_pow]
  by_cases h : lo ≤ i
  · rw [show i - lo + lo = i by omega, decide_eq_true h, Bool.true_and, Bool.true_and, Bool.and_comm]
  · rw [decide_eq_false h, Bool.false_and, Bool.false_and, Bool.and_false]

/-! ### QCFG (R117) -/

/-- A word whose bits 7:4, 11 and 63:20 are 0 has only the fields of QCFG. -/
theorem qcfg_fields {v : Word} (hw : v.toNat < 2 ^ 20) (h4 : v.toNat / 2 ^ 4 % 2 ^ 4 = 0) (h11 : v.toNat / 2 ^ 11 % 2 = 0) :
    outside v 0xFF70F = false := by
  have hz : v &&& ~~~(0xFF70F : Word) = 0#64 := by
    refine BitVec.eq_of_getLsbD_eq fun i hi => ?_
    rw [BitVec.getLsbD_and, BitVec.getLsbD_zero]
    rcases (by omega : i < 4 ∨ (4 ≤ i ∧ i < 4 + 4) ∨ (8 ≤ i ∧ i < 11) ∨ (11 ≤ i ∧ i < 11 + 1) ∨ (12 ≤ i ∧ i < 20) ∨ 20 ≤ i)
      with h | h | h | h | h | h
    · rw [show (~~~(0xFF70F : Word)).getLsbD i = false by interval_cases i <;> decide, Bool.and_false]
    · rw [getLsbD_of_field_zero h4 h.1 h.2, Bool.false_and]
    · rw [show (~~~(0xFF70F : Word)).getLsbD i = false by obtain ⟨_, _⟩ := h; interval_cases i <;> decide, Bool.and_false]
    · rw [getLsbD_of_field_zero (n := 1) h11 h.1 h.2, Bool.false_and]
    · rw [show (~~~(0xFF70F : Word)).getLsbD i = false by obtain ⟨_, _⟩ := h; interval_cases i <;> decide, Bool.and_false]
    · have : v.toNat < 2 ^ i := Nat.lt_of_lt_of_le hw (Nat.pow_le_pow_right (by decide) h)
      rw [← BitVec.testBit_toNat, Nat.testBit_lt_two_pow this, Bool.false_and]
  rw [outside, hz]
  rfl

/-- QCFG keeps EN and BASE and its tenancy, and LEVEL begins as BASE. -/
theorem qcfg_level (v : Word) : ((v &&& 0xFF00F#64).setWidth 32 ||| BitVec.ofNat 32 (fld v 3 1 * 256)).toNat
    = v.toNat % 16 + v.toNat / 2 % 8 * 256 + v.toNat / 2 ^ 12 % 2 ^ 8 * 2 ^ 12 := by
  have hf : fld v 3 1 = v.toNat / 2 % 8 := rfl
  have hm : (0xFF00F : Nat) = (2 ^ 8 - 1) * 2 ^ 12 ||| (2 ^ 4 - 1) * 2 ^ 0 := by decide
  have ha : v.toNat &&& 0xFF00F = v.toNat / 2 ^ 12 % 2 ^ 8 * 2 ^ 12 ||| v.toNat % 16 := by
    rw [hm, Nat.and_or_distrib_left, and_field, and_field]
    simp
  have hlow : v.toNat / 2 % 8 * 256 ||| v.toNat % 16 = v.toNat / 2 % 8 * 256 + v.toNat % 16 := by
    have := Nat.two_pow_add_eq_or_of_lt (i := 8) (b := v.toNat % 16) (by omega) (v.toNat / 2 % 8)
    rw [Nat.mul_comm (v.toNat / 2 % 8) 256]
    exact this.symm
  have hhigh : v.toNat / 2 ^ 12 % 2 ^ 8 * 2 ^ 12 ||| (v.toNat / 2 % 8 * 256 + v.toNat % 16)
      = v.toNat / 2 ^ 12 % 2 ^ 8 * 2 ^ 12 + (v.toNat / 2 % 8 * 256 + v.toNat % 16) := by
    have := Nat.two_pow_add_eq_or_of_lt (i := 12) (b := v.toNat / 2 % 8 * 256 + v.toNat % 16) (by omega) (v.toNat / 2 ^ 12 % 2 ^ 8)
    rw [Nat.mul_comm (v.toNat / 2 ^ 12 % 2 ^ 8) (2 ^ 12)]
    exact this.symm
  rw [BitVec.toNat_or, BitVec.toNat_setWidth, BitVec.toNat_and, BitVec.toNat_ofNat, BitVec.toNat_ofNat, hf,
    Nat.mod_eq_of_lt (show 0xFF00F < 2 ^ 64 by decide), Nat.mod_eq_of_lt (show v.toNat / 2 % 8 * 256 < 2 ^ 32 by omega),
    Nat.mod_eq_of_lt (Nat.lt_of_le_of_lt Nat.and_le_right (by decide)), ha, Nat.or_assoc, Nat.or_comm (v.toNat % 16), hlow, hhigh]
  omega

/-! ### Invalidation (R219, R220, R344) -/

/-- The registers, memory and the sequencers are as they were, and so is each tape that has not become EMPTY. -/
structure OnlyEmptied (s t : State) : Prop where
  fe : t.fe = s.fe
  mem : t.mem = s.mem
  seq : ∀ q, t.seq q = s.seq q
  tapes : ∀ c n, ((t.core c).tapes.get n).st = .empty ∨ (t.core c).tapes.get n = (s.core c).tapes.get n

theorem OnlyEmptied.refl (s : State) : OnlyEmptied s s := ⟨rfl, rfl, fun _ => rfl, fun _ _ => .inr rfl⟩

theorem OnlyEmptied.trans {a b c : State} (h : OnlyEmptied a b) (k : OnlyEmptied b c) : OnlyEmptied a c := by
  refine ⟨k.fe.trans h.fe, k.mem.trans h.mem, fun q => (k.seq q).trans (h.seq q), fun x n => ?_⟩
  rcases k.tapes x n with he | he
  · exact .inl he
  · rw [he]
    exact h.tapes x n

theorem emptyTape_onlyEmptied (s : State) (c : CoreId) (t : Fin 16) (n : Nat) : OnlyEmptied s (s.emptyTape c t n) := by
  refine ⟨rfl, rfl, (emptyTape_aside s c t n).seq, fun d i => ?_⟩
  by_cases hd : d = c
  · subst hd
    have hc : ((s.emptyTape d t n).core d).tapes = (s.core d).tapes.set t.val Tape.blank t.isLt := by
      unfold State.emptyTape
      dsimp only
      generalize hu : s.modCore d _ = u
      show (u.core d).tapes = _
      rw [← hu, core_modCore]
    rw [hc, vector_get_set]
    split
    · exact .inl rfl
    · exact .inr rfl
  · rw [emptyTape_core_ne s t n hd]
    exact .inr rfl

/-- An invalidation empties tapes and does no more to the cores. -/
theorem tlbiTapes_onlyEmptied (s : State) (scope ten va : Nat) : OnlyEmptied s (s.tlbiTapes scope ten va) := by
  unfold State.tlbiTapes
  refine foldl_keeps (fun t => OnlyEmptied s t) _ (fun t c ht => ?_) _ s (OnlyEmptied.refl s)
  refine foldl_keeps (fun t => OnlyEmptied s t) _ (fun t i ht => ?_) _ t ht
  split
  · exact ht.trans (emptyTape_onlyEmptied t c i 7)
  · exact ht

/-- The state in which an invalidation is BUSY. -/
def invalidating (s : State) (v : Word) : State :=
  { s with tlbiAt := s.fe.tlbiVa
           fe := { s.fe with tlbiCtl := (v &&& 0xFF000C#64).setWidth 32 ||| (if v.getLsbD 0 then 0x80000000 else 0) } }

/-- The stubs of a tenancy whose invalidation has begun (R432). -/
def stubsNamed (s : State) (ten : Nat) : State :=
  { s with stubs := s.stubs.map fun t =>
      if t.ten.toNat = ten ∧ !(s.migration.any fun m => m.k == t.k) then { t with invalidating := true } else t }

/-- The refusals of a write of TLBI_CTL (R407). -/
def tlbiRefusals (s : State) (v : BitVec 64) : List (Bool × Nat) :=
  [(s.fe.tlbiCtl.getLsbD 31, 4), (v &&& ~~~0x80FF000D#64 != 0 || fld v 3 2 == 3, 1), (fld v 3 2 == 0 && !canonical s.fe.tlbiVa.toNat, 2)]

theorem writeTlbi_eq (s : State) (v : BitVec 64) : s.writeTlbi v = s.guardWrite 0x248 (tlbiRefusals s v) fun s =>
    if v.getLsbD 0 then stubsNamed ((invalidating s v).tlbiTapes (fld v 3 2) (fld v 23 16) s.fe.tlbiVa.toNat) (fld v 23 16)
    else invalidating s v := by
  unfold State.writeTlbi
  congr 1

theorem invalidating_fe {s : State} {v : Word} (hg : v.getLsbD 0 = true) :
    (invalidating s v).fe = { s.fe with tlbiCtl := (v &&& 0xFF000C#64).setWidth 32 ||| 0x80000000 } := by
  rw [invalidating, if_pos hg]

theorem stubsNamed_onlyEmptied (s : State) (ten : Nat) : OnlyEmptied s (stubsNamed s ten) :=
  ⟨rfl, rfl, fun _ => rfl, fun _ _ => .inr rfl⟩

/-- An invalidation of a page of a canonical address, of a tenancy or of all begins while none is BUSY. -/
theorem tlbiRefusals_none {s : State} {v : Word} (hs : fld v 3 2 ≠ 3) (hm : v &&& ~~~0x80FF000D#64 = 0)
    (hb : s.fe.tlbiCtl.getLsbD 31 = false) (hv : fld v 3 2 = 0 → canonical s.fe.tlbiVa.toNat = true) :
    firstCode (tlbiRefusals s v) = none := by
  refine firstCode_none ?_
  simp only [tlbiRefusals, List.forall_mem_cons, hb, hm, true_and]
  refine ⟨by simpa using hs, ?_, List.forall_mem_nil _⟩
  by_cases h0 : fld v 3 2 = 0
  · simp [hv h0]
  · simp [h0]

/-- TLBI_CTL with GO: the invalidation is BUSY, and tapes become EMPTY. -/
theorem writeTlbi_onlyEmptied {s : State} {v : Word} (hg : v.getLsbD 0 = true) (hr : firstCode (tlbiRefusals s v) = none) :
    OnlyEmptied (invalidating s v) (s.writeTlbi v) := by
  rw [writeTlbi_eq, guardWrite_done hr, if_pos hg]
  exact (tlbiTapes_onlyEmptied _ _ _ _).trans (stubsNamed_onlyEmptied _ _)

/-! ### Migration (R429, R430, R434) -/

/-- The combining buffers, the migration and the number of those begun are as they were. -/
structure Unmoved (s t : State) : Prop where
  combine : t.combine = s.combine
  migration : t.migration = s.migration
  migCount : t.migCount = s.migCount

theorem Unmoved.refl (s : State) : Unmoved s s := ⟨rfl, rfl, rfl⟩

theorem Unmoved.trans {a b c : State} (h : Unmoved a b) (k : Unmoved b c) : Unmoved a c :=
  ⟨k.combine.trans h.combine, k.migration.trans h.migration, k.migCount.trans h.migCount⟩

theorem Unmoved.fold {α : Type} (f : State → α → State) (hf : ∀ s x, Unmoved s (f s x)) (xs : List α) (s : State) :
    Unmoved s (xs.foldl f s) :=
  foldl_keeps (fun t => Unmoved s t) f (fun t x ht => ht.trans (hf t x)) xs s (Unmoved.refl s)

theorem checkSector_unmoved (s : State) (k : Nat) : Unmoved s (s.checkSector k).2 := by
  unfold State.checkSector
  dsimp only
  split
  · exact Unmoved.refl s
  · split <;> exact ⟨rfl, rfl, rfl⟩
  · split
    · exact Unmoved.refl s
    · split <;> exact ⟨rfl, rfl, rfl⟩

theorem checkSectors_unmoved (ks : List Nat) (s : State) : Unmoved s (s.checkSectors ks).2 := by
  induction ks generalizing s with
  | nil => exact Unmoved.refl s
  | cons k ks ih => exact (checkSector_unmoved s k).trans (ih _)

theorem setMark_unmoved (s : State) (k : Nat) (m : Option SectorMark) : Unmoved s (s.setMark k m) := ⟨rfl, rfl, rfl⟩

theorem putSector_unmoved (s : State) (k : Nat) (d : List Byte) : Unmoved s (s.putSector k d) := by
  unfold State.putSector
  exact ⟨rfl, rfl, rfl⟩

theorem unpend_unmoved (s : State) (q : PathClass) (w : Who) (n : Nat) : Unmoved s (s.unpend q w n) := ⟨rfl, rfl, rfl⟩

theorem rewrite_unmoved (s : State) (v : Nat × SectorNow) : Unmoved s (s.rewrite v) := by
  unfold State.rewrite
  split
  · exact (putSector_unmoved s _ _).trans (setMark_unmoved _ _ none)
  · exact Unmoved.refl s

theorem choosePlace_unmoved (s : State) (a : Actor) (k : WriteKind) (pa : Nat) : Unmoved s (s.choosePlace a k pa).2 := by
  unfold State.choosePlace
  split <;> exact ⟨rfl, rfl, rfl⟩

theorem putByte_unmoved (s : State) (a : Actor) (k : WriteKind) (bad whole : Bool) (pa : Nat) (v : Byte) (n : Nat) :
    Unmoved s (s.putByte a k bad whole pa v n) := by
  unfold State.putByte
  dsimp only
  split
  · exact ⟨rfl, rfl, rfl⟩
  · split <;> exact ⟨rfl, rfl, rfl⟩

theorem touchCode_unmoved (s : State) (pas : List Nat) : Unmoved s (s.touchCode pas) :=
  Unmoved.fold (fun (s : State) (l : Nat × CoreId × Fin 16) => s.emptyTape l.2.1 l.2.2 7) (fun _ _ => ⟨rfl, rfl, rfl⟩) _ s

theorem atomicStep_unmoved (s : State) (a : Actor) (r : Option Rel) (pa n : Nat) (f : Nat → Nat) :
    Unmoved s (s.atomicStep a r pa n f).2 := by
  unfold State.atomicStep
  dsimp only
  generalize hp : List.foldl _ (([], (s.checkSector (pa / 32)).2) : List Nat × State) _ = ps
  have hplaces : Unmoved s ps.2 := by
    rw [← hp]
    exact foldl_keeps (fun t : List Nat × State => Unmoved s t.2) _ (fun t p ht => ht.trans (choosePlace_unmoved t.2 a _ p)) _ _
      (checkSector_unmoved s _)
  split
  · exact hplaces
  · exact ((hplaces.trans (rewrite_unmoved _ _)).trans (touchCode_unmoved _ _)).trans
      (Unmoved.fold _ (fun t w => putByte_unmoved t _ _ _ _ _ _ _) _ _)

/-- A merged AMO leaves its buffer (R426): the others stay, and so does the number of migrations begun. -/
theorem flushEntry_leaves (s : State) (die : Fin 4) (e : CombineEntry) :
    (s.flushEntry die e).combine = s.combine.set die.val ((s.combine.get die).filter fun x => x != e) die.isLt
      ∧ (s.flushEntry die e).migCount = s.migCount := by
  unfold State.flushEntry
  dsimp only
  split
  · unfold State.sendAway
    split <;> exact ⟨rfl, rfl⟩
  next pa _ =>
    generalize hs : ({ s with combine := _, fe := _ } : State) = u
    have hu : Unmoved u (e.parts.foldl (fun t p => t.unpend .core p.1 p.2)
        (u.atomicStep Actor.host none pa (2 ^ e.sz) fun m => amoInt e.op (2 ^ e.sz) m e.value.toNat 0).2) :=
      (atomicStep_unmoved u _ _ _ _ _).trans (Unmoved.fold _ (fun t p => unpend_unmoved t _ _ _) _ _)
    rw [hu.combine, hu.migCount, ← hs]
    exact ⟨rfl, rfl⟩

theorem flushWhere_migCount (s : State) (die : Fin 4) (p : CombineEntry → Bool) : (s.flushWhere die p).migCount = s.migCount :=
  foldl_keeps (fun t => t.migCount = s.migCount) _ (fun t e ht => (flushEntry_leaves t die e).2.trans ht) _ s rfl

/-- What is neither a pair, a transmit lane nor an output is as it was, of what the start of a migration speaks of. -/
structure OnlyFlits (s t : State) : Prop where
  cores : t.cores = s.cores
  queues : t.queues = s.queues
  launches : t.launches = s.launches
  migration : t.migration = s.migration
  migCount : t.migCount = s.migCount

theorem OnlyFlits.refl (s : State) : OnlyFlits s s := ⟨rfl, rfl, rfl, rfl, rfl⟩

theorem OnlyFlits.trans {a b c : State} (h : OnlyFlits a b) (k : OnlyFlits b c) : OnlyFlits a c :=
  ⟨k.cores.trans h.cores, k.queues.trans h.queues, k.launches.trans h.launches, k.migration.trans h.migration,
    k.migCount.trans h.migCount⟩

theorem modPair_onlyFlits (s : State) (p : Nat) (f : Pair → Pair) : OnlyFlits s (s.modPair p f) := ⟨rfl, rfl, rfl, rfl, rfl⟩

theorem assignFlit_onlyFlits (s : State) (p : Nat) (f : SentFlit) (l : Fin 256) : OnlyFlits s (s.assignFlit p f l) :=
  ⟨rfl, rfl, rfl, rfl, rfl⟩

theorem pump_onlyFlits : ∀ (n : Nat) (s : State) (p : Nat), OnlyFlits s (s.pump p n)
  | 0, s, _ => OnlyFlits.refl s
  | n + 1, s, p => by
    unfold State.pump
    extract_lets
    split
    · split
      · exact OnlyFlits.refl s
      · exact (assignFlit_onlyFlits s p _ _).trans (pump_onlyFlits n _ p)
    · split
      · exact OnlyFlits.refl s
      · split
        · exact OnlyFlits.refl s
        · exact (modPair_onlyFlits s p _).trans (pump_onlyFlits n _ p)

theorem sendFlit_onlyFlits (s : State) (p type : Nat) (bs : List Byte) : OnlyFlits s (s.sendFlit p type bs) :=
  (modPair_onlyFlits s p _).trans (pump_onlyFlits _ _ p)

/-- What the start of a migration leaves alone while its page is flushed and, to another package, sent. -/
structure Starting (s t : State) : Prop where
  seq : ∀ q, t.seq q = s.seq q
  queues : t.queues = s.queues
  launches : t.launches = s.launches
  migCount : t.migCount = s.migCount

theorem Starting.refl (s : State) : Starting s s := ⟨fun _ => rfl, rfl, rfl, rfl⟩

theorem Starting.trans {a b c : State} (h : Starting a b) (k : Starting b c) : Starting a c :=
  ⟨fun q => (k.seq q).trans (h.seq q), k.queues.trans h.queues, k.launches.trans h.launches, k.migCount.trans h.migCount⟩

theorem Aside.starting {s t : State} (h : Aside s t) (k : t.migCount = s.migCount) : Starting s t := ⟨h.seq, h.queues, h.launches, k⟩

theorem OnlyFlits.starting {s t : State} (h : OnlyFlits s t) : Starting s t :=
  ⟨fun q => by simp only [State.seq, State.core, h.cores], h.queues, h.launches, h.migCount⟩

/-- The sectors of a page are read and its bytes leave in flits (R434): the migration goes on. -/
theorem sendPage_starting (s : State) (p k ten src dst : Nat) :
    Starting s (s.sendPage p k ten src dst) ∧ (s.sendPage p k ten src dst).migration = s.migration := by
  unfold State.sendPage
  have hread := checkSectors_aside ((List.range 2048).map fun i => src / 32 + i) s
  have hmem := checkSectors_unmoved ((List.range 2048).map fun i => src / 32 + i) s
  generalize s.checkSectors _ = r at hread hmem ⊢
  obtain ⟨seen, u⟩ := r
  dsimp only at hread hmem ⊢
  generalize hb : u.sendFlit p 10 _ = b
  have hsent : OnlyFlits u b := hb ▸ sendFlit_onlyFlits u p 10 _
  generalize hc : List.foldl _ b _ = c
  have hall : OnlyFlits b c := hc ▸ foldl_keeps (fun t => OnlyFlits b t) _ (fun t i ht => ht.trans (sendFlit_onlyFlits t p 10 _)) _ b
    (OnlyFlits.refl b)
  have hflits := hsent.trans hall
  exact ⟨(hread.starting hmem.migCount).trans hflits.starting, hflits.migration.trans hmem.migration⟩

/-- The state in which migration k + 1 has flushed its page. -/
def pageFlushed (s : State) (v : Word) : State :=
  let u : State := { s with fe := { s.fe with migCtl := (v &&& 0x3F20FF00#64).setWidth 32 ||| (s.fe.migCtl &&& 0x40000000) } }
  ((List.finRange 4).foldl (fun t d => t.flushWhere d fun e => pageOf e.pa == s.fe.migSrc.toNat) u).touchCode
    ((List.range 256).map fun i => s.fe.migSrc.toNat + 256 * i)

theorem pageFlushed_starting (s : State) (v : Word) : Starting s (pageFlushed s v) := by
  unfold pageFlushed
  dsimp only
  generalize hu : ({ s with fe := _ } : State) = u
  have h0 : Starting s u := by rw [← hu]; exact ⟨fun _ => rfl, rfl, rfl, rfl⟩
  refine (h0.trans ?_).trans ((touchCode_aside _ _).starting (touchCode_unmoved _ _).migCount)
  exact foldl_keeps (fun t => Starting u t) _
    (fun t d ht => ht.trans ((flushWhere_aside t d _).starting (flushWhere_migCount t d _))) _ u (Starting.refl u)

/-- The migration that MIG_CTL begins, `n` its number. -/
def begun (f : FeRegs) (v : Word) (n : Nat) : Migration :=
  { k := n, src := f.migSrc.toNat, dst := f.migDst.toNat, ten := BitVec.ofNat 8 (fld v 15 8)
    xp := if v.getLsbD 21 then some (fld v 29 24) else none, copied := false, held := [] }

/-- The state in which it is BUSY, `f` the registers that name its pages and `u` the state in which its page is flushed. -/
def migrating (f : FeRegs) (v : Word) (u : State) : State :=
  { u with migration := some (begun f v (u.migCount + 1)), migCount := u.migCount + 1
           fe := { u.fe with migCtl := u.fe.migCtl &&& ~~~0x40000000#32 } }

theorem migrating_starting (f : FeRegs) (v : Word) (u : State) :
    (∀ q, (migrating f v u).seq q = u.seq q) ∧ (migrating f v u).queues = u.queues ∧ (migrating f v u).launches = u.launches
      ∧ (migrating f v u).migCount = u.migCount + 1 ∧ (migrating f v u).migration = some (begun f v (u.migCount + 1)) :=
  ⟨fun _ => rfl, rfl, rfl, rfl, rfl⟩

/-- Its page is sent where it goes to another package. -/
def migrationSent (f : FeRegs) (v : Word) (u : State) : State :=
  match if v.getLsbD 21 then some (fld v 29 24) else none with
  | none => migrating f v u
  | some p => (migrating f v u).sendPage p (u.migCount + 1) (fld v 15 8) f.migSrc.toNat f.migDst.toNat

/-- MIG_CTL with GO: the page is flushed, the migration begun and, for another package, the page sent. -/
theorem writeMig_goes {s : State} {v : Word} (hg : v.getLsbD 0 = true) (hr : firstCode (s.migRefusals v) = none) :
    s.writeMig v = migrationSent s.fe v (pageFlushed s v) := by
  unfold State.writeMig migrationSent migrating begun pageFlushed
  generalize State.touchCode = touch
  generalize State.sendPage = send
  generalize State.flushWhere = flush
  exact (guardWrite_done hr _ _).trans (if_neg (by rw [hg]; decide))

/-- The migration has begun; the sequencers, the queues and the launches are as they were. -/
theorem migrationSent_begins (s : State) (v : Word) : ∀ u, Starting s u →
    (migrationSent s.fe v u).migration = some (begun s.fe v (s.migCount + 1)) ∧ (migrationSent s.fe v u).migCount = s.migCount + 1
      ∧ (∀ q, (migrationSent s.fe v u).seq q = s.seq q) ∧ (migrationSent s.fe v u).queues = s.queues
      ∧ (migrationSent s.fe v u).launches = s.launches := by
  intro u hu
  have hsent : Starting (migrating s.fe v u) (migrationSent s.fe v u)
      ∧ (migrationSent s.fe v u).migration = (migrating s.fe v u).migration := by
    unfold migrationSent
    split
    · exact ⟨Starting.refl _, rfl⟩
    · exact sendPage_starting _ _ _ _ _ _
  obtain ⟨h, hm⟩ := hsent
  obtain ⟨hseq, hqueues, hlaunches, hcount, hmigration⟩ := migrating_starting s.fe v u
  rw [← hu.migCount]
  exact ⟨hm.trans hmigration, h.migCount.trans hcount, fun q => (h.seq q).trans ((hseq q).trans (hu.seq q)),
    h.queues.trans (hqueues.trans hu.queues), h.launches.trans (hlaunches.trans hu.launches)⟩

/-! ### The rows -/

/-- Settles O40: each row's conditions choose the branch of its write. -/
theorem registerEvents : Obligations.RegisterEvents := by
  intro i e h
  cases h with
  | qcfg n v =>
    intro s ⟨hw, h4, h11, hsys, hten⟩
    refine ⟨s.writeQcfg n v, rfl, ?_⟩
    unfold State.writeQcfg
    refine ⟨_, guardWrite_done (firstCode_none ?_) _ _, rfl, rfl, qcfg_level v⟩
    have hwide : v.toNat < 2 ^ 20 := by omega
    simp only [List.forall_mem_cons, qcfg_fields hwide h4 h11, true_and]
    refine ⟨?_, ?_, List.forall_mem_nil _⟩
    · simpa [fld] using hsys
    · rcases hten with he | he
      · simp [he]
      · rw [show fld v 19 12 = fld (s.queues.get n).cfg 19 12 from he, bne_self_eq_false, Bool.false_and]
  | tencfgOff n =>
    intro s hb
    exact ⟨_, rfl, (if_neg (by rw [show s.tenancyBusy n = false from hb]; decide)).trans (if_pos rfl)⟩
  | tencfgBusy n v =>
    intro s ⟨hb, hf⟩
    exact ⟨_, rfl, (if_pos hb).trans (latchFe_latches_at hf 3 0x2000 n (by omega))⟩
  | tencfg n v bs u =>
    intro s ⟨hb, hv, hr, hgood, h29, h48, hten⟩
    refine ⟨s.writeTencfg n v, rfl, ?_⟩
    rw [State.writeTencfg, hb, if_neg Bool.false_ne_true, if_neg hv, hr]
    refine guardWrite_done (firstCode_none ?_) _ _
    simp only [List.forall_mem_cons, hten, h29, h48]
    exact ⟨List.any_eq_false.2 fun b hb => by simp [hgood b hb], rfl, trivial, List.forall_mem_nil _⟩
  | siPtrOff n =>
    intro s hl
    exact ⟨_, rfl, (if_neg (by rw [launchActive_none hl]; decide)).trans (if_pos rfl)⟩
  | siPtrBusy n v =>
    intro s ⟨hl, hf⟩
    exact ⟨_, rfl, (if_pos (launchActive_some hl)).trans (latchFe_latches_at hf 3 0x400 n (by omega))⟩
  | pdPtrOff n =>
    intro s hl
    refine ⟨s.writePdPtr n 0, rfl, ?_⟩
    unfold State.writePdPtr
    refine guardWrite_done (firstCode_none ?_) _ _
    rw [launchActive_none hl, if_pos rfl]
    decide
  | pdPtrBusy n v =>
    intro s ⟨hl, hf⟩
    refine ⟨s.writePdPtr n v, rfl, ?_⟩
    rw [State.writePdPtr, launchActive_some hl]
    refine (guardWrite_refused (firstCode_active ?_) _ _).trans (latchFe_latches_at hf 3 0x480 n (by omega))
    split <;> simp
  | feErrClear => exact fun s _ => ⟨_, rfl, rfl⟩
  | feErrOther v => exact fun s hv => ⟨_, rfl, if_neg hv⟩
  | qlPod v =>
    intro s ⟨hl, hv⟩
    refine ⟨s.writeQlPod v, rfl, ?_⟩
    unfold State.writeQlPod State.writePod
    refine guardWrite_done (firstCode_none ?_) _ _
    rw [launchActive_none hl, hv]
    decide
  | preWait v =>
    intro s hv
    exact ⟨s.plainWrite 0x180 16 v fun f => { f with preWait := v.setWidth 16 }, rfl,
      guardWrite_done (firstCode_none (by simpa using hv)) _ _⟩
  | preWaitWide v =>
    intro s ⟨hv, hf⟩
    refine ⟨s.plainWrite 0x180 16 v fun f => { f with preWait := v.setWidth 16 }, rfl, ?_⟩
    exact (guardWrite_refused (k := 1) (by rw [decide_eq_true hv]; rfl) _ _).trans (latchFe_latches hf 1 _)
  | readOnly v => exact fun s hf => ⟨s.latchFe 6 0x8, rfl, latchFe_latches hf 6 _⟩
  | kept off v =>
    intro s ⟨_, ho, hf⟩
    subst ho
    exact ⟨s.latchFe 6 0x8, rfl, latchFe_keeps hf 6 _⟩
  | tlbi v sc i hi =>
    intro s ⟨hg, hsc, hm, hb, hv⟩
    have hs3 : sc ≠ 3 := by omega
    have hf : fld v 3 2 = sc := hsc
    obtain ⟨hfe, hmem, hseq, htapes⟩ := writeTlbi_onlyEmptied hg (tlbiRefusals_none (hf ▸ hs3) hm hb fun h0 => hv (hf.symm.trans h0))
    refine ⟨s.writeTlbi v, ?_, hfe.trans (invalidating_fe hg), hmem, hseq, htapes⟩
    rcases hi with ⟨rfl, rfl⟩ | ⟨rfl, rfl⟩ | ⟨rfl, rfl⟩ <;> exact if_pos (by rw [hg, hf]; rfl)
  | tlbiDone =>
    intro s ⟨hb, hw⟩
    refine ⟨_, if_neg (by rw [hb, hw]; decide), rfl, rfl, rfl, fun e he => ?_, fun e he => ?_⟩
    · simpa using (List.mem_filter.1 he).2
    · simpa using (List.mem_filter.1 he).2
  | migGo v =>
    intro s ⟨hg, hx, hr⟩
    have h := migrationSent_begins s v _ (pageFlushed_starting s v)
    rw [← writeMig_goes hg hr, begun, hx] at h
    exact ⟨_, if_pos (by rw [hg, hx]; rfl), h⟩
  | migGoXp v =>
    intro s ⟨hg, hx, hr⟩
    have h := migrationSent_begins s v _ (pageFlushed_starting s v)
    rw [← writeMig_goes hg hr, begun, hx] at h
    exact ⟨_, if_pos (by rw [hg, hx]; rfl), h⟩

end Sys2Proof.Machine
end

section
/-!
PROOFS. The host's accesses and snoops, the scrubber and the read-write hold (O41).
-/
set_option Elab.async false
namespace Sys2Proof.Machine
open Sys2Proof Sys2Proof.Rules

/-! ### Which accesses they are (R210, R406) -/

/-- Consecutive addresses in device HBM are an access through ports 0 and 1, and none to the register block. -/
theorem hbmAccess_of {port pa n : Nat} (hp : port < 2) (hn : 1 ≤ n) (ha : pa + n ≤ 2 ^ 39) :
    barAccess port pa n = false ∧ hbmAccess port pa n = true := by
  have hreg : ¬ regBase ≤ pa := by unfold regBase; omega
  refine ⟨by simp [barAccess, hreg], ?_⟩
  simp only [hbmAccess, addrsFrom, Bool.and_eq_true, decide_eq_true_eq, bne_iff_ne, List.all_eq_true, List.mem_map, List.mem_range, isHbm]
  refine ⟨⟨hp, by omega⟩, ?_⟩
  rintro _ ⟨i, hi, rfl⟩
  omega

/-- Aligned bytes of the register block are an access through BAR0. -/
theorem barAccess_of {port off n : Nat} (hp : port < 2) (ho : off < 0x200000) (hn : n = 4 ∨ n = 8) (ha : (regBase + off) % n = 0) :
    barAccess port (regBase + off) n = true := by
  simp [barAccess, hp, ho, hn, ha]

/-! ### An access cut into pieces (R225, R230) -/

theorem eraseDups_const {α : Type} [BEq α] [LawfulBEq α] {xs : List α} {g : α} (hne : xs ≠ []) (h : ∀ x ∈ xs, x = g) :
    xs.eraseDups = [g] := by
  obtain ⟨n, rfl⟩ : ∃ n, xs = List.replicate n g := ⟨_, List.eq_replicate_of_mem h⟩
  cases n with
  | zero => exact absurd rfl hne
  | succ n =>
    rw [List.replicate_succ, List.eraseDups_cons]
    simp

/-- The piece of an access that has the bytes on which `key` is `g`. -/
def HeldAccess.pieceAt (h : HeldAccess) (key : Nat → Nat) (g : Nat) : HeldAccess :=
  let mine := h.bytes.zipIdx.filter fun b => key b.1.1 == g
  { h with bytes := mine.map Prod.fst, data := if h.kind = 1 then mine.map fun b => h.data.getD b.2 0 else h.data }

theorem splitBy_pieces {h : HeldAccess} (hk : h.kind ≠ 2) (key : Nat → Nat) :
    h.splitBy key = ((h.bytes.map fun b => key b.1).eraseDups).map (h.pieceAt key) :=
  if_neg hk

theorem pieceAt_bytes (h : HeldAccess) (key : Nat → Nat) (g : Nat) :
    (h.pieceAt key g).bytes = h.bytes.filter fun b => key b.1 == g := by
  have hf : (h.bytes.zipIdx.filter fun b => key b.1.1 == g).map Prod.fst = (h.bytes.zipIdx.map Prod.fst).filter fun b => key b.1 == g :=
    (List.filter_map (f := Prod.fst) (p := fun b : Nat × Nat => key b.1 == g)).symm
  rw [List.zipIdx_map_fst] at hf
  exact hf

theorem pieceAt_addrs (h : HeldAccess) (key : Nat → Nat) (g : Nat) :
    (h.pieceAt key g).bytes.map Prod.fst = (h.bytes.map Prod.fst).filter fun a => key a == g := by
  rw [pieceAt_bytes]
  exact (List.filter_map (f := Prod.fst) (p := fun a => key a == g)).symm

/-- Bytes that are written, with their places, are those of the data in order. -/
theorem zipIdx_data {bytes : List (Nat × Nat)} {data : List Byte} (hl : data.length = bytes.length) :
    bytes.zipIdx.map (fun b => (b.1.1, data.getD b.2 0)) = (bytes.map Prod.fst).zip data := by
  refine List.ext_getElem (by simp [hl]) fun i h1 _ => ?_
  have hi : i < data.length := by simpa [hl] using h1
  simp [hi]

theorem pieceAt_writes {h : HeldAccess} (hk : h.kind = 1) (hl : h.data.length = h.bytes.length) (key : Nat → Nat) (g : Nat) :
    ((h.pieceAt key g).bytes.map Prod.fst).zip (h.pieceAt key g).data
      = ((h.bytes.map Prod.fst).zip h.data).filter fun w => key w.1 == g := by
  simp only [HeldAccess.pieceAt, hk, if_true, List.map_map, List.zip_map']
  rw [← zipIdx_data hl, List.filter_map]
  rfl

/-- An access all of whose bytes have one key is one piece. -/
theorem splitBy_one {h : HeldAccess} {key : Nat → Nat} {g : Nat} (hk : h.kind = 0 ∨ h.kind = 1 ∧ h.data.length = h.bytes.length)
    (hne : h.bytes ≠ []) (hg : ∀ b ∈ h.bytes, key b.1 = g) : h.splitBy key = [h] := by
  have hkeys : (h.bytes.map fun b => key b.1).eraseDups = [g] :=
    eraseDups_const (by simpa using hne) (List.forall_mem_map.2 hg)
  have hmine : (h.bytes.zipIdx.filter fun b => key b.1.1 == g) = h.bytes.zipIdx :=
    List.filter_eq_self.2 fun b hb => by simpa using hg b.1 (List.fst_mem_of_mem_zipIdx hb)
  rw [splitBy_pieces (by omega), hkeys, List.map_singleton, HeldAccess.pieceAt]
  simp only [hmine, List.zipIdx_map_fst]
  rcases hk with hk | ⟨hk, hl⟩
  · rw [if_neg (by omega)]
  · have hd : (h.bytes.zipIdx.map fun b => h.data.getD b.2 0) = h.data := by
      have := congrArg (List.map Prod.snd) (zipIdx_data hl)
      rw [List.map_map, List.map_snd_zip (by simp [hl])] at this
      exact this
    rw [if_pos hk, hd]

/-- A piece is made by the party of its access, and its first byte is one of the access. -/
theorem splitBy_piece {h p : HeldAccess} {key : Nat → Nat} (hk : h.kind ≠ 2) (hp : p ∈ h.splitBy key) :
    p.who = h.who ∧ p.cls = h.cls ∧ ∃ b ∈ h.bytes, p.pa = b.1 := by
  rw [splitBy_pieces hk, List.mem_map] at hp
  obtain ⟨g, hg, rfl⟩ := hp
  refine ⟨rfl, rfl, ?_⟩
  obtain ⟨b, hb, hbg⟩ := List.mem_map.1 (List.mem_eraseDups.1 hg)
  have hmem : b ∈ (h.pieceAt key g).bytes := by
    rw [pieceAt_bytes]
    exact List.mem_filter.2 ⟨hb, by simpa using hbg⟩
  obtain ⟨c, cs, hc⟩ := List.exists_cons_of_ne_nil (List.ne_nil_of_mem hmem)
  refine ⟨c, ?_, by rw [HeldAccess.pa, hc]; rfl⟩
  have hc' : c ∈ (h.pieceAt key g).bytes := by rw [hc]; exact List.mem_cons_self
  rw [pieceAt_bytes] at hc'
  exact (List.mem_filter.1 hc').1

/-- The granules of consecutive bytes, in order. -/
theorem granules_of (pa n : Nat) :
    ((addrsFrom pa (n + 1)).map fun a => a / 8).eraseDups = (List.range ((pa + n) / 8 + 1 - pa / 8)).map fun g => pa / 8 + g := by
  induction n with
  | zero => simp [addrsFrom, List.eraseDups_cons]
  | succ n ih =>
    have hs : (addrsFrom pa (n + 1 + 1)).map (fun a => a / 8) = (addrsFrom pa (n + 1)).map (fun a => a / 8) ++ [(pa + (n + 1)) / 8] := by
      simp [addrsFrom, List.range_succ (n := n + 1)]
    have hlast : (pa + n) / 8 ∈ (addrsFrom pa (n + 1)).map fun a => a / 8 :=
      List.mem_map.2 ⟨pa + n, List.mem_map.2 ⟨n, by simp, rfl⟩, rfl⟩
    rw [hs, List.eraseDups_append, ih]
    by_cases hg : (pa + (n + 1)) / 8 = (pa + n) / 8
    · rw [hg, List.removeAll, List.filter_eq_nil_iff.2 (by simpa using hlast)]
      simp
    · have hnew : (pa + (n + 1)) / 8 ∉ (addrsFrom pa (n + 1)).map fun a => a / 8 := by
        simp only [addrsFrom, List.mem_map, List.mem_range, not_exists, not_and, exists_exists_and_eq_and]
        intro i hi
        omega
      have hnext : (pa + (n + 1)) / 8 = (pa + n) / 8 + 1 := by omega
      have hle : pa / 8 ≤ (pa + n) / 8 := Nat.div_le_div_right (Nat.le_add_right pa n)
      rw [List.removeAll, List.filter_eq_self.2 (by simpa using hnew), hnext,
        show (pa + n) / 8 + 1 + 1 - pa / 8 = (pa + n) / 8 + 1 - pa / 8 + 1 by omega, List.range_succ, List.map_append, List.map_singleton,
        show pa / 8 + ((pa + n) / 8 + 1 - pa / 8) = (pa + n) / 8 + 1 by omega]
      rfl

/-- No sector is written whole by a read, nor by a write whose bytes are at home and in sectors without marks. -/
theorem splitOf_granules {s : State} {h : HeldAccess}
    (hk : h.kind = 0 ∨ (s.mem.marks = [] ∧ ∀ b ∈ h.bytes, s.homeOf h.core b.1 = .here)) : s.splitOf h = h.splitBy fun pa => pa / 8 := by
  have hw : ∀ sec, s.wholeSector h sec = false := fun sec => by
    rw [State.wholeSector]
    rcases hk with hk | ⟨hm, hh⟩
    · rw [hk]; rfl
    · cases hc : covers (h.bytes.map fun b => (b.1, (0 : Byte))) sec
      · rw [Bool.and_false, Bool.false_and]
      · have h0 := List.all_eq_true.1 hc 0 (by decide)
        obtain ⟨w, hw, he⟩ := List.any_eq_true.1 h0
        obtain ⟨b, hb, rfl⟩ := List.mem_map.1 hw
        have hb0 : b.1 = sec * 32 := by simpa using he
        rw [hm, ← hb0, hh b hb]
        simp
  unfold State.splitOf
  simp only [hw, Bool.false_eq_true, if_false]

/-- An access inside one granule is one piece. -/
theorem splitOf_one {s : State} {h : HeldAccess} {g : Nat} (hk : h.kind = 0 ∨ h.kind = 1 ∧ h.data.length = h.bytes.length)
    (hne : h.bytes ≠ []) (hg : ∀ b ∈ h.bytes, b.1 / 8 = g) : s.splitOf h = [h] := by
  refine splitBy_one (g := if s.wholeSector h (g / 4) then g / 4 * 4 else g) hk hne fun b hb => ?_
  have h4 : b.1 / 32 = g / 4 := by have := hg b hb; omega
  simp only [h4, hg b hb]

/-! ### Accesses of a party outside the cores -/

/-- Such a party arms no publication: no fence precedes it. -/
theorem arm_outside {a : Actor} (hw : a.who = none) (s : State) (x r : Bool) : s.arm a x r = s := by
  have hp : ∀ p : Published, p.precedes a = false := fun p => by simp [Published.precedes, hw]
  unfold State.arm
  simp only [hp, Bool.and_false, Bool.false_eq_true, if_false, List.map_id']

theorem performHeld_reads {s : State} {h : HeldAccess} (hw : h.who = none) (hk : h.kind = 0) :
    s.performHeld h = (((s.readCells (s.ordered h.actor) (h.bytes.map Prod.fst)).1.map fun b => (b.byte, b.bad)),
      (s.readCells (s.ordered h.actor) (h.bytes.map Prod.fst)).2) := by
  have ha : h.actor.who = none := hw
  unfold State.performHeld
  dsimp only
  rw [arm_outside ha, hk, hw]
  rfl

theorem performHeld_writes {s : State} {h : HeldAccess} (hw : h.who = none) (hk : h.kind = 1) (hr : h.rel = none) :
    s.performHeld h = ([],
      if h.bad then (s.writePas h.actor .plain ((h.bytes.map Prod.fst).zip h.data)).poisonPas h.actor (h.bytes.map Prod.fst)
      else s.writePas h.actor .plain ((h.bytes.map Prod.fst).zip h.data)) := by
  have ha : h.actor.who = none := hw
  unfold State.performHeld
  dsimp only
  rw [arm_outside ha, hk, hr]
  rfl

/-- An access in one piece, at its home and with none of its port before it, is performed at once (R225). -/
theorem access_performs {s : State} {h : HeldAccess} (hw : h.who = none) (hs : s.splitOf h = [h]) (hh : s.homeOf none h.pa = .here)
    (hp : s.pending = []) (ha : s.heldAway = []) : s.access h = (s.performHeld h).2.reply h (s.performHeld h).1 := by
  have hcore : h.core = none := by rw [HeldAccess.core, hw]; rfl
  unfold State.access
  simp only [hcore, Option.elim_none, ite_self, hs, hh, hp, ha]
  rfl

/-- Pieces whose pages are at home are on their way, in order. -/
theorem sendPieces_wait (ps : List HeldAccess) : ∀ s : State, (∀ p ∈ ps, p.who = none ∧ s.homeOf none p.pa = .here) →
    ps.foldl State.sendPiece s = { s with pending := s.pending ++ ps } := by
  induction ps with
  | nil => intro s _; rw [List.append_nil]; rfl
  | cons p ps ih =>
    intro s h
    obtain ⟨⟨hw, hh⟩, hps⟩ := List.forall_mem_cons.1 h
    have hcore : p.core = none := by rw [HeldAccess.core, hw]; rfl
    have hone : s.sendPiece p = { s with pending := s.pending ++ [p] } := by
      unfold State.sendPiece State.holdAt
      simp only [hw, hcore, Option.elim_none, ite_self, hh]
    rw [List.foldl_cons, hone, ih { s with pending := s.pending ++ [p] } hps]
    simp only [List.append_assoc, List.singleton_append]

/-- An access in several pieces sends them on their way. -/
theorem access_sends {s : State} {h : HeldAccess} (hw : h.who = none) (hk : h.kind ≠ 2) (hs : s.splitOf h = h.splitBy fun pa => pa / 8)
    (hn : (s.splitOf h).length ≠ 1) (hh : ∀ b ∈ h.bytes, s.homeOf none b.1 = .here) :
    s.access h = { s with pending := s.pending ++ s.splitOf h } := by
  have hcore : h.core = none := by rw [HeldAccess.core, hw]; rfl
  have hsend : s.access h = (s.splitOf h).foldl State.sendPiece s := by
    unfold State.access
    simp only [hcore, Option.elim_none, ite_self]
    split
    next p hp => exact absurd (congrArg List.length hp) hn
    · rfl
  rw [hsend]
  refine sendPieces_wait _ s fun p hp => ?_
  rw [hs] at hp
  obtain ⟨hpw, _, b, hb, hpa⟩ := splitBy_piece hk hp
  exact ⟨hpw.trans hw, hpa ▸ hh b hb⟩

/-- The host hears of what it has read, and of nothing else. -/
theorem reply_outside {s : State} {h : HeldAccess} (hw : h.who = none) (hk : h.kind ≠ 2) (hf : h.far = none) (hp : h.peer = none)
    (hn : h.parts = []) (bs : List (Byte × Bool)) :
    s.reply h bs = if h.kind = 0 then s.hostTake h.stamp ((h.bytes.map Prod.snd).zip bs) else s := by
  unfold State.reply
  simp only [hf, hp, hn, hw, hk, if_false, List.foldl_nil]

/-- The byte that came for a place. -/
theorem find_place {n : Nat} {bs : List (Byte × Bool)} (hl : bs.length = n) {i : Nat} (hi : i < n) :
    ((List.range n).zip bs).find? (fun b => b.1 == i) = some (i, bs[i]) := by
  refine List.find?_eq_some_iff_getElem.2 ⟨by simp, i, by simpa [hl] using hi, by simp, fun j hj => ?_⟩
  simpa using Nat.ne_of_lt hj

/-- The last piece of a host's read gives it all bytes. -/
theorem hostTake_answers {s : State} {rs : List HostRead} {id n : Nat} {bs : List (Byte × Bool)}
    (hr : s.hostReads = rs ++ [{ id := id, len := n, left := 1, got := [] }]) (hid : ∀ r ∈ rs, r.id ≠ id) (hl : bs.length = n) :
    s.hostTake id ((List.range n).zip bs) = answers { s with hostReads := rs } (.hostData (bs.map Prod.fst) (bs.any Prod.snd)) := by
  have hnone : rs.find? (fun r => r.id == id) = none := List.find?_eq_none.2 fun r hr => by simpa using hid r hr
  have hfind : s.hostReads.find? (fun r => r.id == id) = some { id := id, len := n, left := 1, got := [] } := by
    rw [hr, List.find?_append, hnone]
    simp
  have hrest : s.hostReads.filter (fun r => r.id != id) = rs := by
    rw [hr, List.filter_append, List.filter_eq_self.2 fun r hr => by simpa using hid r hr]
    simp
  have hall : ((List.range n).map fun i => ((((List.range n).zip bs).find? fun b => b.1 == i).map Prod.snd).getD (0, false)) = bs := by
    refine List.ext_getElem (by simp [hl]) fun i h1 _ => ?_
    have hi : i < n := by simpa using h1
    simp [find_place hl hi]
  unfold State.hostTake
  simp only [hfind, hrest, List.nil_append, hall]
  rfl

/-! ### The host's accesses -/

/-- The read of `n` bytes of device HBM from `pa` on through a host port. -/
def hostRead (s : State) (port pa n : Nat) : HeldAccess :=
  { Actor.host.held 0 0 (addrsFrom pa n).zipIdx [] with port := some port, stamp := s.stamp }

/-- The write of bytes of device HBM from `pa` on through a host port, `bad` as the host signals poison. -/
def hostWrite (port pa : Nat) (data : List Byte) (bad : Bool) : HeldAccess :=
  { Actor.host.held 0 1 (addrsFrom pa data.length).zipIdx data with port := some port, bad := bad }

theorem addrsFrom_length (pa n : Nat) : (addrsFrom pa n).length = n := by simp [addrsFrom]

theorem mem_addrs {pa n : Nat} {b : Nat × Nat} (h : b ∈ (addrsFrom pa n).zipIdx) : ∃ i < n, b.1 = pa + i := by
  obtain ⟨i, hi, he⟩ := List.mem_map.1 (List.fst_mem_of_mem_zipIdx h)
  exact ⟨i, List.mem_range.1 hi, he.symm⟩

theorem addrs_home {s : State} {pa n : Nat} (h : portFree s pa n) : ∀ b ∈ (addrsFrom pa n).zipIdx, s.homeOf none b.1 = .here := by
  intro b hb
  obtain ⟨i, hi, he⟩ := mem_addrs hb
  rw [he]
  exact h.2.2 i hi

theorem addrs_granule {pa n : Nat} (h : pa % 8 + n ≤ 8) : ∀ b ∈ (addrsFrom pa n).zipIdx, b.1 / 8 = pa / 8 := by
  intro b hb
  obtain ⟨i, hi, he⟩ := mem_addrs hb
  omega

theorem addrs_ne_nil {pa n : Nat} (h : 1 ≤ n) : (addrsFrom pa n).zipIdx ≠ [] := by
  refine List.ne_nil_of_length_pos ?_
  rw [List.length_zipIdx, addrsFrom_length]
  exact h

theorem addrs_granules {pa n : Nat} (h : 1 ≤ n) : ((addrsFrom pa n).zipIdx.map fun b => b.1 / 8).eraseDups
    = (List.range ((pa + n - 1) / 8 + 1 - pa / 8)).map fun g => pa / 8 + g := by
  obtain ⟨m, rfl⟩ : ∃ m, n = m + 1 := ⟨n - 1, by omega⟩
  have hm : (addrsFrom pa (m + 1)).zipIdx.map (fun b => b.1 / 8) = (addrsFrom pa (m + 1)).map fun a => a / 8 := by
    rw [← List.zipIdx_map_fst 0 (addrsFrom pa (m + 1)), List.map_map]
    simp
  rw [hm, granules_of]
  rfl

theorem addrs_pa (pa : Nat) {n : Nat} (h : 1 ≤ n) : (((addrsFrom pa n).zipIdx).headD (0, 0)).1 = pa := by
  obtain ⟨m, rfl⟩ : ∃ m, n = m + 1 := ⟨n - 1, by omega⟩
  simp [addrsFrom, List.range_succ_eq_map]

/-- The pieces of an access of device HBM, one for each granule, each with the addresses that lie in it. -/
theorem addrs_pieces {h : HeldAccess} {pa n : Nat} (hk : h.kind ≠ 2) (hb : h.bytes = (addrsFrom pa n).zipIdx) (hn : 1 ≤ n) :
    (h.splitBy fun a => a / 8) = (List.range ((pa + n - 1) / 8 + 1 - pa / 8)).map fun g => h.pieceAt (fun a => a / 8) (pa / 8 + g) := by
  rw [splitBy_pieces hk, hb, addrs_granules hn, List.map_map]
  rfl

/-- Several granules are several pieces. -/
theorem addrs_split_length {h : HeldAccess} {pa n : Nat} (hk : h.kind ≠ 2) (hb : h.bytes = (addrsFrom pa n).zipIdx) (h1 : 8 < pa % 8 + n) :
    (h.splitBy fun a => a / 8).length ≠ 1 := by
  rw [addrs_pieces hk hb (by omega), List.length_map, List.length_range]
  omega

/-! ### The rows -/

/-- The state in which a host's read waits for `k` pieces. -/
def awaiting (s : State) (n k : Nat) : State :=
  { s with stamp := s.stamp + 1, hostReads := s.hostReads ++ [{ id := s.stamp, len := n, left := k, got := [] }] }

/-- HOST_MEM_READ makes its access and waits for as many pieces as it has. -/
theorem hostMemRead_accesses {port pa n : Nat} (hp : port < 2) (hn : 1 ≤ n) (ha : pa + n ≤ 2 ^ 39) (s : State) :
    execHostMemRead ⟨port, pa⟩ n s
      = .next ((awaiting s n (s.splitOf (hostRead s port pa n)).length).access (hostRead s port pa n)) := by
  obtain ⟨hbar, hhbm⟩ := hbmAccess_of hp hn ha
  exact (if_neg (by rw [hbar]; decide)).trans (if_pos hhbm)

/-- HOST_MEM_WRITE makes its access. -/
theorem hostMemWrite_accesses {port pa : Nat} {data : List Byte} (bad : Bool) (hp : port < 2) (hn : 1 ≤ data.length)
    (ha : pa + data.length ≤ 2 ^ 39) (s : State) :
    execHostMemWrite ⟨port, pa⟩ ⟨data, bad⟩ s = .next (s.access (hostWrite port pa data bad)) := by
  obtain ⟨hbar, hhbm⟩ := hbmAccess_of hp hn ha
  exact (if_neg (by rw [hbar]; decide)).trans (if_pos hhbm)

/-- HOST_MEM_READ of one granule. -/
theorem hostMemRead_answers {s u : State} {port pa n : Nat} {bs : List ByteRead} (hp : port < 2) (hn : 1 ≤ n) (h8 : pa % 8 + n ≤ 8)
    (ha : pa + n ≤ 2 ^ 39) (hf : portFree s pa n) (hid : ∀ r ∈ s.hostReads, r.id ≠ s.stamp)
    (hr : (reading s n).readCells ((reading s n).ordered { Actor.host with stamp := s.stamp }) (addrsFrom pa n) = (bs, u))
    (hl : bs.length = n) (hu : u.hostReads = (reading s n).hostReads) :
    execHostMemRead ⟨port, pa⟩ n s
      = .next (answers { u with hostReads := s.hostReads } (.hostData (bs.map ByteRead.byte) (bs.any ByteRead.bad))) := by
  have hsplit : ∀ t : State, t.splitOf (hostRead s port pa n) = [hostRead s port pa n] := fun t =>
    splitOf_one (.inl rfl) (addrs_ne_nil hn) (addrs_granule h8)
  have hexec : execHostMemRead ⟨port, pa⟩ n s = .next ((reading s n).access (hostRead s port pa n)) := by
    rw [hostMemRead_accesses hp hn ha, hsplit]
    rfl
  have hpa : (hostRead s port pa n).pa = pa := addrs_pa pa hn
  have hhome : (reading s n).homeOf none (hostRead s port pa n).pa = .here := by
    rw [hpa]
    exact hf.2.2 0 hn
  have hread : (reading s n).performHeld (hostRead s port pa n) = (bs.map fun b => (b.byte, b.bad), u) := by
    have hb : (hostRead s port pa n).bytes.map Prod.fst = addrsFrom pa n := List.zipIdx_map_fst _ _
    have ho : (hostRead s port pa n).actor = { Actor.host with stamp := s.stamp } := rfl
    rw [performHeld_reads rfl rfl, hb, ho, hr]
  have hplaces : (hostRead s port pa n).bytes.map Prod.snd = List.range n := by
    show (addrsFrom pa n).zipIdx.map Prod.snd = _
    rw [List.zipIdx_map_snd, addrsFrom_length, List.range_eq_range']
  have hreply := reply_outside (s := u) (h := hostRead s port pa n) rfl (show 0 ≠ 2 by decide) rfl rfl rfl (bs.map fun b => (b.byte, b.bad))
  rw [if_pos (show (hostRead s port pa n).kind = 0 from rfl), hplaces] at hreply
  rw [hexec, access_performs rfl (hsplit _) hhome hf.1 hf.2.1, hread]
  refine congrArg Host.Outcome.next (hreply.trans ((hostTake_answers hu hid (by simpa using hl)).trans ?_))
  rw [List.map_map, List.any_map]
  rfl

/-- HOST_MEM_READ of several granules. -/
theorem hostMemRead_sends {s : State} {port pa n : Nat} (hp : port < 2) (h8 : 8 < pa % 8 + n) (ha : pa + n ≤ 2 ^ 39) (hf : portFree s pa n) :
    ∃ t, execHostMemRead ⟨port, pa⟩ n s = .next t ∧ t.mem = s.mem ∧ t.cores = s.cores ∧ t.outputs = s.outputs
      ∧ t.hostReads = s.hostReads ++ [{ id := s.stamp, len := n, left := t.pending.length, got := [] }]
      ∧ t.pending = (hostRead s port pa n).splitBy fun a => a / 8 := by
  have hsplit : ∀ t : State, t.splitOf (hostRead s port pa n) = (hostRead s port pa n).splitBy fun a => a / 8 := fun t =>
    splitOf_granules (.inl rfl)
  have hlen := addrs_split_length (h := hostRead s port pa n) (show 0 ≠ 2 by decide) rfl h8
  have hsends := fun k => access_sends (s := awaiting s n k) (h := hostRead s port pa n) rfl (show 0 ≠ 2 by decide) (hsplit _)
    (by rw [hsplit]; exact hlen) (addrs_home hf)
  rw [hostMemRead_accesses hp (by omega) ha, hsends, hsplit, hsplit, show (awaiting s n _).pending = [] from hf.1, List.nil_append]
  exact ⟨_, rfl, rfl, rfl, rfl, rfl, rfl⟩

/-- HOST_MEM_WRITE of one granule. -/
theorem hostMemWrite_writes {s : State} {port pa : Nat} {data : List Byte} (bad : Bool) (hp : port < 2) (hne : data ≠ [])
    (h8 : pa % 8 + data.length ≤ 8) (ha : pa + data.length ≤ 2 ^ 39) (hf : portFree s pa data.length) :
    execHostMemWrite ⟨port, pa⟩ ⟨data, bad⟩ s = .next
      (if bad then (s.writePas Actor.host .plain ((addrsFrom pa data.length).zip data)).poisonPas Actor.host (addrsFrom pa data.length)
      else s.writePas Actor.host .plain ((addrsFrom pa data.length).zip data)) := by
  have hn : 1 ≤ data.length := List.length_pos_iff.2 hne
  have hlen : data.length = (addrsFrom pa data.length).zipIdx.length := by rw [List.length_zipIdx, addrsFrom_length]
  have hsplit : s.splitOf (hostWrite port pa data bad) = [hostWrite port pa data bad] :=
    splitOf_one (.inr ⟨rfl, hlen⟩) (addrs_ne_nil hn) (addrs_granule h8)
  have hhome : s.homeOf none (hostWrite port pa data bad).pa = .here := by
    rw [show (hostWrite port pa data bad).pa = pa from addrs_pa pa hn]
    exact hf.2.2 0 hn
  have hb : (hostWrite port pa data bad).bytes.map Prod.fst = addrsFrom pa data.length := List.zipIdx_map_fst _ _
  rw [hostMemWrite_accesses bad hp hn ha, access_performs rfl hsplit hhome hf.1 hf.2.1, performHeld_writes rfl rfl rfl, hb]
  exact congrArg Host.Outcome.next (reply_outside rfl (show 1 ≠ 2 by decide) rfl rfl rfl [])

/-- HOST_MEM_WRITE of several granules. -/
theorem hostMemWrite_sends {s : State} {port pa : Nat} {data : List Byte} (bad : Bool) (hp : port < 2) (h8 : 8 < pa % 8 + data.length)
    (ha : pa + data.length ≤ 2 ^ 39) (hf : portFree s pa data.length) (hm : s.mem.marks = []) :
    ∃ t, execHostMemWrite ⟨port, pa⟩ ⟨data, bad⟩ s = .next t ∧ t.mem = s.mem ∧ t.cores = s.cores ∧ t.outputs = s.outputs
      ∧ t.pending = (hostWrite port pa data bad).splitBy fun a => a / 8 := by
  have hsplit : s.splitOf (hostWrite port pa data bad) = (hostWrite port pa data bad).splitBy fun a => a / 8 :=
    splitOf_granules (.inr ⟨hm, addrs_home hf⟩)
  have hlen := addrs_split_length (h := hostWrite port pa data bad) (show 1 ≠ 2 by decide) rfl h8
  rw [hostMemWrite_accesses bad hp (by omega) ha,
    access_sends rfl (show 1 ≠ 2 by decide) hsplit (by rw [hsplit]; exact hlen) (addrs_home hf), hsplit, hf.1]
  exact ⟨_, rfl, rfl, rfl, rfl, rfl⟩

/-- The entries of a die that are flushed have left its buffer, and those of other dies stay (R427). -/
theorem flushEntries_combine (die : Fin 4) (es : List CombineEntry) : ∀ (s : State) (d : Fin 4),
    (es.foldl (fun s e => s.flushEntry die e) s).combine.get d
      = if d = die then (s.combine.get die).filter (fun x => !es.contains x) else s.combine.get d := by
  induction es with
  | nil =>
    intro s d
    split
    next h => subst h; simp
    · rfl
  | cons e es ih =>
    intro s d
    rw [List.foldl_cons, ih, (flushEntry_leaves s die e).1, vector_get_set, vector_get_set, if_pos rfl]
    by_cases hd : d = die
    · rw [if_pos hd, if_pos hd, List.filter_filter]
      refine List.filter_congr fun x _ => ?_
      rw [List.contains_cons, Bool.not_or, Bool.and_comm]
      rfl
    · rw [if_neg hd, if_neg hd, if_neg (Ne.symm hd)]

theorem flushWhere_combine (s : State) (die : Fin 4) (p : CombineEntry → Bool) :
    (s.flushWhere die p).combine.get die = (s.combine.get die).filter (fun e => !p e)
      ∧ ∀ d, d ≠ die → (s.flushWhere die p).combine.get d = s.combine.get d := by
  refine ⟨?_, fun d hd => (flushEntries_combine die _ s d).trans (if_neg hd)⟩
  refine (flushEntries_combine die _ s die).trans ((if_pos rfl).trans (List.filter_congr fun x hx => ?_))
  simp [hx]

/-- Settles O41: each row's conditions choose the branch of its event. -/
theorem hostEvents : Obligations.HostEvents := by
  intro i e h
  cases h with
  | read port pa n bs u =>
    intro s ⟨hp, hn, h8, ha, hf, hid, hr, hl, hu⟩
    exact ⟨_, hostMemRead_answers hp hn h8 ha hf hid hr hl hu, rfl⟩
  | reads port pa n =>
    intro s ⟨hp, h8, ha, hf⟩
    obtain ⟨t, ht, hmem, hcores, hout, hreads, hpend⟩ := hostMemRead_sends hp h8 ha hf
    refine ⟨t, ht, hmem, hcores, hout, hreads, ?_⟩
    rw [hpend, addrs_pieces (show 0 ≠ 2 by decide) rfl (by omega), List.map_map]
    refine List.map_congr_left fun g _ => (pieceAt_addrs _ _ _).trans ?_
    rw [show (hostRead s port pa n).bytes.map Prod.fst = addrsFrom pa n from List.zipIdx_map_fst _ _]
    rfl
  | readRegister port off n =>
    intro s ⟨hp, ho, hn, ha⟩
    refine ⟨_, if_pos (barAccess_of hp ho hn ha), ?_⟩
    rw [Nat.add_sub_cancel_left]
    rfl
  | write port pa data =>
    intro s ⟨hp, hne, h8, ha, hf⟩
    exact ⟨_, hostMemWrite_writes false hp hne h8 ha hf, rfl⟩
  | writePoisoned port pa data =>
    intro s ⟨hp, hne, h8, ha, hf⟩
    exact ⟨_, hostMemWrite_writes true hp hne h8 ha hf, rfl⟩
  | writes port pa data bad =>
    intro s ⟨hp, h8, ha, hf, hm⟩
    obtain ⟨t, ht, hmem, hcores, hout, hpend⟩ := hostMemWrite_sends bad hp h8 ha hf hm
    have hlen : data.length = (addrsFrom pa data.length).zipIdx.length := by rw [List.length_zipIdx, addrsFrom_length]
    refine ⟨t, ht, hmem, hcores, hout, ?_⟩
    rw [hpend, addrs_pieces (show 1 ≠ 2 by decide) rfl (by omega), List.map_map]
    refine List.map_congr_left fun g _ => (pieceAt_writes (h := hostWrite port pa data bad) rfl hlen _ _).trans ?_
    rw [show (hostWrite port pa data bad).bytes.map Prod.fst = addrsFrom pa data.length from List.zipIdx_map_fst _ _]
    rfl
  | writeRegister port off data bad =>
    intro s ⟨hp, ho, h8, hl, ha⟩
    refine ⟨_, if_pos (barAccess_of hp ho (.inr hl) (hl ▸ ha)), ?_⟩
    rw [Nat.add_sub_cancel_left, State.feStore, if_pos hl, show off / 8 * 8 = off by omega]
  | snoop pa data bad bs u =>
    intro s ⟨hw, hl, hr⟩
    have hline : (addrsFrom (pa / 256 * 256) 256).all s.isHostWin = true := by
      simpa [addrsFrom] using hw
    have hread : s.readAs Actor.host (addrsFrom (pa / 256 * 256) 256) = (bs, u) := hr
    refine ⟨_, ?_, rfl⟩
    show execHostSnoop pa ⟨data, bad⟩ s = _
    rw [execHostSnoop]
    dsimp only
    rw [if_pos ⟨hline, hl⟩, hread]
    rfl
  | scrub pa v u =>
    intro s ⟨hp, hb, hv⟩
    refine ⟨(u.rewrite (pa / 32, v)).settlePoison, ?_, rfl⟩
    show execScrub pa s = _
    rw [execScrub, if_pos ⟨hp, hb⟩, hv]
  | hold die line =>
    intro s _
    have ha := flushWhere_aside s die fun e => e.pa / 256 == line && decide (e.since + s.fe.rwHold.toNat ≤ s.cycle)
    obtain ⟨hgone, hstay⟩ := flushWhere_combine s die fun e => e.pa / 256 == line && decide (e.since + s.fe.rwHold.toNat ≤ s.cycle)
    exact ⟨_, rfl, ha.seq, ha.cycle, ha.queues, hgone, hstay⟩

end Sys2Proof.Machine
end

section
/-!
PROOFS. Fences, publication and cache control (O27).
-/
set_option Elab.async false
namespace Sys2Proof.Machine
open Sys2Proof Sys2Proof.Rules

/-- What a fence leaves as it begins to wait, and for what it waits (R234 point 1). -/
theorem fenceWait_held {cx : Cx} {s : State} (hw : cx.who = s.turn) (cas : List PathClass) :
    s.fenceWait cx cas = (fenceSetOf cx s cas, fenceHeld cx s cas) := by
  simp only [State.fenceWait, fenceSetOf, fenceHeld, fencePerforms, hw, List.contains_iff_mem]

/-- What CFLUSH and CINV do with what their address translates to (R255). -/
def cacheAct (cx : Cx) (c : CoreId) : Except PageFault (List (Nat × Nat)) × State → Act
  | (.error f, s) => .fault s (Trap.page f)
  | (.ok pas, s) => .done (lineBack cx s c (pas.headD (0, 0)).1) .next false

/-- A row of CFLUSH or CINV completes. -/
theorem cacheOp_completes {i : Instr} {a : Reg} {x : Ctl} {pa mt : Nat} {u : State} (he : ∀ s, exec i s = cacheOp i x a s) :
    Effect.completes
      { x := x, acc := [.core], when := fun cx s => Rules.paged cx s Need.load (s.mine.rg a).toNat 1 [(pa, mt)] u
        gives := fun cx s => lineBack cx u s.turn.core pa } i := by
  refine completes_meaning _ _ he ?_
  intro p cx hw h
  refine ⟨false, ?_⟩
  rw [seq_who hw, hw]
  exact congrArg (cacheAct cx p.turn.core) h

/-- Settles O27: what each row gives is its meaning, a fence's wait and a line's translation being the row's. -/
theorem fences : Obligations.Fences := by
  intro i f h
  cases h with
  | fencex sc ca cb x =>
    refine completes_meaning _ _ (fun _ => rfl) ?_
    intro p cx hw _
    refine ⟨false, ?_⟩
    dsimp only
    rw [fenceWait_held hw, hw]
  | fence sc x =>
    refine completes_meaning _ _ (fun _ => rfl) ?_
    intro p cx hw _
    refine ⟨false, ?_⟩
    dsimp only
    rw [fenceWait_held hw, hw]
  | publ sc x =>
    refine completes_meaning _ _ (fun _ => rfl) ?_
    intro p cx hw _
    refine ⟨false, ?_⟩
    rw [hw]
    rfl
  | cflush a x pa mt u => exact cacheOp_completes fun _ => rfl
  | cinv a x pa mt u => exact cacheOp_completes fun _ => rfl
  | cpref k h a x => exact completes_meaning _ _ (fun _ => rfl) fun p cx _ _ => ⟨false, rfl⟩

end Sys2Proof.Machine
end

section
/-!
PROOFS. Tag waits and queries, and BFWAIT (O32).
-/
set_option Elab.async false
namespace Sys2Proof.Machine
open Sys2Proof Sys2Proof.Rules

/-- An instruction issued from code whose meaning, its tokens taken, gives the row's effect. -/
theorem completes_code {f : Effect} {i : Instr} (sp : Spec) (body : Cx → State → Act) (he : ∀ s, exec i s = issue sp body s)
    (hi : ∀ s, f.clear s → sp.illegal (s.context f.spec) s = false ∧ sp.waits (s.context f.spec) s = false)
    (hb : ∀ (p : State) (cx : Cx), cx.who = p.turn → cx.replay = false → f.when cx p →
      ∃ q, body cx p = .done (f.gives cx p) (f.flow cx p) q)
    (hx : f.shares sp := by exact ⟨rfl, rfl, rfl, rfl, rfl, rfl, rfl⟩) : f.completes i := by
  intro s hr hc hk hw
  obtain ⟨e1, e2, e3, e4⟩ := spec_effect s hx
  obtain ⟨x1, x2, x3, x4, x5, x6, _⟩ := hx
  have hk' : (sp.settled s).blockedFor (sp.cx s) sp = false := by
    rw [e2, e3]
    simpa only [State.blockedFor, Effect.spec, x5, x6] using hk
  obtain ⟨h1, h2⟩ := hi s hc
  have hturn : (f.start s).turn = s.turn := f.start_turn s
  have hrep : (f.cx s).replay = false := congrArg Option.isSome (ready_parts hr).1
  obtain ⟨q, hq⟩ := hb ((f.start s).popped f.x) (f.cx s) hturn.symm hrep hw
  obtain ⟨t, ht, hd⟩ := issue_does (sp := sp) (body := body) (by rw [x1, x2, x3, x4]; exact hr) (by rw [e1]; exact h1)
    (by rw [e1]; exact h2) hk' (by rw [e3, e4, x1]; exact hq)
  rw [e3, x1] at hd
  exact ⟨t, by rw [he]; exact ht, settleFor_settles s _ _, hd⟩

/-- Where no tag returned holds an error code, none of their list does. -/
theorem noError_tags {s : State} {a : Reg} (h : noError s a) :
    ((tagsOf (doneOf s a)).any fun t => isError (s.me.tstat.get (Fin.ofNat 64 t))) = false := by
  rw [List.any_eq_false]
  intro t ht
  obtain ⟨hlt, hset⟩ := List.mem_filter.mp ht
  have hlt : t < 64 := List.mem_range.mp hlt
  have := h ⟨t, hlt⟩ hset
  rw [show Fin.ofNat 64 t = ⟨t, hlt⟩ from Fin.ext (Nat.mod_eq_of_lt hlt), this]
  exact Bool.false_ne_true

/-- WTANY and WTALL once they issue. -/
theorem waitTags_returns {d a : Reg} {cx : Cx} {s : State} (hw : cx.who = s.turn) (hr : cx.replay = false) (h : noError s a) :
    waitTags d a cx s = .done (returnTags d a cx s) .next true := by
  rw [waitTags, seq_who hw, hw, hr]
  exact if_neg (ne_true_of_eq_false (noError_tags h))

/-- An empty mask has no lowest tag. -/
theorem tagsOf_none {m : Word} (h : m = 0) : (tagsOf m).head? = none := by subst h; rfl

/-- The lowest tag of a mask is first among its tags. -/
theorem tagsOf_lowest {m : Word} {t : Fin 64} (h : m.getLsbD t.val = true) (hl : ∀ u : Fin 64, u < t → m.getLsbD u.val = false) :
    (tagsOf m).head? = some t.val := by
  rw [tagsOf, List.head?_filter, List.find?_range_eq_some]
  refine ⟨h, List.mem_range.mpr t.isLt, fun u hu => ?_⟩
  rw [hl ⟨u, by omega⟩ hu, Bool.not_false]

/-- What FFRDY does with the lowest tag. -/
def ffrdyAct (d : Reg) (cx : Cx) (s : State) : Option Nat → Act
  | some t => .land cx (s.modCore s.turn.core fun c => c.observeTags s.turn.sq [t]) [.g d (BitVec.ofNat 64 t)]
  | none => .land cx s [.g d 64]

/-- An address of a frame does not trap (R328). -/
theorem frameAddr_good {g : Word} {b c : Act} (h : g.toNat % 2 ^ 8 = 0 ∧ g.toNat < 2 ^ 46) :
    (if fld g 7 0 ≠ 0 ∨ fld g 63 46 ≠ 0 then b else c) = c := by
  refine if_neg ?_
  rw [fld_low, fld]
  have := g.isLt
  omega

/-- Settles O32: each row's conditions are that its meaning waits no longer, and the branch that it takes. -/
theorem tagWaits : Obligations.TagWaits := by
  intro i f h
  cases h with
  | wtany d a x =>
    refine completes_code _ _ (fun _ => rfl) (fun s hc => ⟨rfl, ?_⟩) fun p cx hw hr h => ⟨true, waitTags_returns hw hr h.2⟩
    show (doneOf s a == 0 && s.me.anyPending (s.mine.rg a)) = false
    rcases hc with hc | hc
    · rw [beq_false_of_ne hc, Bool.false_and]
    · rw [hc, Bool.and_false]
  | wtall d a x =>
    exact completes_code _ _ (fun _ => rfl) (fun s hc => ⟨rfl, hc⟩) fun p cx hw hr h => ⟨true, waitTags_returns hw hr h.2⟩
  | ffrdyNone d a x =>
    refine completes_meaning _ _ (fun _ => rfl) ?_
    intro p cx hw hn
    refine ⟨true, ?_⟩
    rw [seq_who hw, hw]
    exact congrArg (ffrdyAct d cx p) (tagsOf_none hn)
  | ffrdy d a x t =>
    refine completes_meaning _ _ (fun _ => rfl) ?_
    intro p cx hw ⟨ht, hl⟩
    refine ⟨true, ?_⟩
    rw [seq_who hw, hw]
    exact congrArg (ffrdyAct d cx p) (tagsOf_lowest ht hl)
  | tagclr a x =>
    refine completes_meaning _ _ (fun _ => rfl) ?_
    intro p cx hw _
    refine ⟨false, ?_⟩
    rw [seq_who hw, hw]
  | bfwait a x =>
    refine completes_clear _ _ (fun _ => rfl) (fun s ⟨hcmd, hfill⟩ => ⟨rfl, ?_⟩) ?_
    · have hnone : s.me.cmds.any (fun k => k.op.isBfill) = false :=
        List.any_eq_false.mpr fun k hk => ne_true_of_eq_false (hcmd k hk)
      have hdone : s.insts.toList.any (fun v => v.pendingOf (s.mine.rg a).toNat != 0) = false :=
        List.any_eq_false.mpr fun v hv => by rw [hfill v hv]; decide
      exact congrArg₂ or hnone hdone
    · intro p cx hw h
      refine ⟨false, ?_⟩
      rw [seq_who hw, hw]
      exact frameAddr_good h

end Sys2Proof.Machine
end

section
/-!
PROOFS. Scalar loads and stores: every row of their table holds; what is said of the value that a load brings fails for g0 (O22).
-/
set_option Elab.async false
namespace Sys2Proof.Machine
open Sys2Proof Sys2Proof.Rules

/-! ### The rows (R228, R242 to R244) -/

/-- What a scalar load does with what its bytes translate to. -/
def loadAct (cx : Cx) (acq : Bool) (d : Reg) (ea n sx : Nat) : Except PageFault (List (Nat × Nat)) × State → Act
  | (.error f, u) => .fault u (Trap.page f)
  | (.ok pas, u) =>
    match deviceAt pas with
    | some pa =>
      if cx.s0.amoOut cx.who then .stall cx.s0
      else
        .done ((onWay cx u d (valueOf ((List.range n).zip (toBytes n ((onWay cx u d 0).feLoad (pa - regBase) n))) sx)).armPubs
          (cx.actor (onWay cx u d 0))) .next true
    | none => .done ((onWay cx u d 0).loadAccess cx acq ea sx ((addrs pas).zip (List.range n))) .next true

/-- What a scalar store of `v` does with it. -/
def storeAct (cx : Cx) (rel : Bool) (v : Word) (ea n : Nat) : Except PageFault (List (Nat × Nat)) × State → Act
  | (.error f, u) => .fault u (Trap.page f)
  | (.ok pas, u) =>
    match deviceAt pas with
    | some pa =>
      if cx.s0.amoOut cx.who then .stall cx.s0
      else .done ((u.armPubs (cx.actor u)).feStore (pa - regBase) n (v.toNat % 256 ^ n)) .next false
    | none => .done (u.storeAccess cx rel ea ((addrs pas).zip (List.range n)) (toBytes n v.toNat)) .next false

/-- An access that is no acquire or release, or is aligned, is not ILLEGAL (R244). -/
theorem aligned_goes {al : Bool} {ea n : Nat} {b c : Act} (h : al = true → ea % n = 0) :
    (if al && decide (ea % n ≠ 0) then b else c) = c := by
  refine if_neg ?_
  simpa only [Bool.and_eq_true, decide_eq_true_eq, not_and, not_not] using h

theorem loadAct_memory {cx : Cx} {acq : Bool} {d : Reg} {ea n sx : Nat} {pas : List (Nat × Nat)} {u : State} (h : deviceAt pas = none) :
    loadAct cx acq d ea n sx (.ok pas, u)
      = .done ((onWay cx u d 0).loadAccess cx acq ea sx ((addrs pas).zip (List.range n))) .next true := by
  simp only [loadAct, h]

theorem loadAct_register {cx : Cx} {acq : Bool} {d : Reg} {ea n sx pa : Nat} {pas : List (Nat × Nat)} {u : State}
    (h : deviceAt pas = some pa) (ho : cx.s0.amoOut cx.who = false) :
    loadAct cx acq d ea n sx (.ok pas, u)
      = .done ((onWay cx u d (valueOf ((List.range n).zip (toBytes n ((onWay cx u d 0).feLoad (pa - regBase) n))) sx)).armPubs
          (cx.actor (onWay cx u d 0))) .next true := by
  simp only [loadAct, h, ho, Bool.false_eq_true, if_false]

theorem storeAct_memory {cx : Cx} {rel : Bool} {v : Word} {ea n : Nat} {pas : List (Nat × Nat)} {u : State} (h : deviceAt pas = none) :
    storeAct cx rel v ea n (.ok pas, u)
      = .done (u.storeAccess cx rel ea ((addrs pas).zip (List.range n)) (toBytes n v.toNat)) .next false := by
  simp only [storeAct, h]

theorem storeAct_register {cx : Cx} {rel : Bool} {v : Word} {ea n pa : Nat} {pas : List (Nat × Nat)} {u : State}
    (h : deviceAt pas = some pa) (ho : cx.s0.amoOut cx.who = false) :
    storeAct cx rel v ea n (.ok pas, u)
      = .done ((u.armPubs (cx.actor u)).feStore (pa - regBase) n (v.toNat % 256 ^ n)) .next false := by
  simp only [storeAct, h, ho, Bool.false_eq_true, if_false]

/-- A scalar load as a function of what its bytes translate to. -/
theorem loadScalar_eq (i : Instr) (x : Ctl) (sgn acq : Bool) (d a : Reg) (z : Sz) (o : BitVec 3) (s : State) :
    loadScalar i x sgn acq d a z o s = issue
      { x := x, minLat := 7, gsrc := [a], gdst := [d], cls := .varying, tape := if acq then .abandon else .quiet, acc := [.core]
        enc := encode i }
      (fun cx s =>
        let ea := loadEa (s.seq cx.who) a z o
        if acq && decide (ea % 2 ^ z.code ≠ 0) then .trap Trap.illegal
        else
          loadAct cx acq d ea (2 ^ z.code) (if sgn then 8 * 2 ^ z.code else 0) (s.translateBytes (cx.actor s) cx.who.core
            (s.tenOf cx.who.core) (scalarNeed Need.load (!acq) ea (2 ^ z.code)) ea (2 ^ z.code))) s := rfl

/-- A scalar store likewise. -/
theorem storeScalar_eq (i : Instr) (x : Ctl) (rel : Bool) (d a : Reg) (z : Sz) (o : BitVec 3) (s : State) :
    storeScalar i x rel d a z o s = issue
      { x := x, gsrc := [d, a], tape := .abandon, acc := [.core], rel := rel, enc := encode i }
      (fun cx s =>
        let ea := loadEa (s.seq cx.who) a z o
        if rel && decide (ea % 2 ^ z.code ≠ 0) then .trap Trap.illegal
        else
          storeAct cx rel ((s.seq cx.who).rg d) ea (2 ^ z.code) (s.translateBytes (cx.actor s) cx.who.core
            (s.tenOf cx.who.core) (scalarNeed Need.store (!rel) ea (2 ^ z.code)) ea (2 ^ z.code))) s := rfl

/-- A row of a load completes: its instruction is the shared load, and the row gives what that does with its bytes. -/
theorem completes_load {f : Effect} {i : Instr} {x : Ctl} {sgn acq : Bool} {d a : Reg} {z : Sz} {o : BitVec 3} {pas : List (Nat × Nat)}
    {u : State} (he : ∀ s, exec i s = loadScalar i x sgn acq d a z o s)
    (hx : ∀ gs gd t e, f.shares { x := x, minLat := 7, gsrc := gs, gdst := gd, cls := .varying, tape := t, acc := [.core], enc := e })
    (hp : ∀ cx p, f.when cx p → (acq = true → addr p a z o % 2 ^ z.code = 0)
      ∧ Rules.paged cx p (scalarNeed Need.load (!acq) (addr p a z o) (2 ^ z.code)) (addr p a z o) (2 ^ z.code) pas u)
    (hb : ∀ cx p, cx.who = p.turn → f.when cx p →
      loadAct cx acq d (addr p a z o) (2 ^ z.code) (if sgn then 8 * 2 ^ z.code else 0) (.ok pas, u) = .done (f.gives cx p) (f.flow cx p) true) :
    f.completes i := by
  refine completes_meaning _ _ (fun s => (he s).trans (loadScalar_eq i x sgn acq d a z o s)) ?_ (hx _ _ _ _)
  intro p cx hw h
  obtain ⟨hal, htr⟩ := hp cx p h
  refine ⟨true, ?_⟩
  rw [seq_who hw, hw]
  exact (aligned_goes hal).trans ((congrArg (loadAct cx acq d _ _ _) htr).trans (hb cx p hw h))

/-- A row of a store completes likewise. -/
theorem completes_store {f : Effect} {i : Instr} {x : Ctl} {rel : Bool} {d a : Reg} {z : Sz} {o : BitVec 3} {pas : List (Nat × Nat)}
    {u : State} (he : ∀ s, exec i s = storeScalar i x rel d a z o s)
    (hx : ∀ gs t e, f.shares { x := x, gsrc := gs, tape := t, acc := [.core], rel := rel, enc := e })
    (hp : ∀ cx p, f.when cx p → (rel = true → addr p a z o % 2 ^ z.code = 0)
      ∧ Rules.paged cx p (scalarNeed Need.store (!rel) (addr p a z o) (2 ^ z.code)) (addr p a z o) (2 ^ z.code) pas u)
    (hb : ∀ cx p, cx.who = p.turn → f.when cx p →
      storeAct cx rel (p.mine.rg d) (addr p a z o) (2 ^ z.code) (.ok pas, u) = .done (f.gives cx p) (f.flow cx p) false) :
    f.completes i := by
  refine completes_meaning _ _ (fun s => (he s).trans (storeScalar_eq i x rel d a z o s)) ?_ (hx _ _ _)
  intro p cx hw h
  obtain ⟨hal, htr⟩ := hp cx p h
  refine ⟨false, ?_⟩
  rw [seq_who hw, hw]
  exact (aligned_goes hal).trans ((congrArg (storeAct cx rel _ _ _) htr).trans (hb cx p hw h))

theorem loadEffect_completes {i : Instr} {x : Ctl} {sgn acq : Bool} {d a : Reg} {z : Sz} {o : BitVec 3} {pas : List (Nat × Nat)} {u : State}
    (he : ∀ s, exec i s = loadScalar i x sgn acq d a z o s) :
    (loadEffect x (if sgn then 8 * 2 ^ z.code else 0) acq d a z o pas u).completes i :=
  completes_load he (fun _ _ _ _ => ⟨rfl, rfl, rfl, rfl, rfl, rfl, rfl⟩) (fun _ _ ⟨hal, htr, _⟩ => ⟨hal, htr⟩)
    fun _ _ _ ⟨_, _, hd⟩ => loadAct_memory hd

theorem registerLoad_completes {i : Instr} {x : Ctl} {sgn : Bool} {d a : Reg} {z : Sz} {o : BitVec 3} {pas : List (Nat × Nat)} {u : State}
    {pa : Nat} (he : ∀ s, exec i s = loadScalar i x sgn false d a z o s) :
    (registerLoad x (if sgn then 8 * 2 ^ z.code else 0) d a z o pas u pa).completes i :=
  completes_load he (fun _ _ _ _ => ⟨rfl, rfl, rfl, rfl, rfl, rfl, rfl⟩) (fun _ _ ⟨htr, _⟩ => ⟨nofun, htr⟩)
    fun _ _ hw ⟨_, hd, ho⟩ => loadAct_register hd (hw ▸ ho)

theorem storeEffect_completes {i : Instr} {x : Ctl} {rel : Bool} {d a : Reg} {z : Sz} {o : BitVec 3} {pas : List (Nat × Nat)} {u : State}
    (he : ∀ s, exec i s = storeScalar i x rel d a z o s) : (storeEffect x rel d a z o pas u).completes i :=
  completes_store he (fun _ _ _ => ⟨rfl, rfl, rfl, rfl, rfl, rfl, rfl⟩) (fun _ _ ⟨hal, htr, _⟩ => ⟨hal, htr⟩)
    fun _ _ _ ⟨_, _, hd⟩ => storeAct_memory hd

/-- Every row of the table completes: the first part of O22. -/
theorem scalarAccess_completes {i : Instr} {f : Effect} (h : ScalarAccess i f) : f.completes i := by
  cases h with
  | ld d a z h o x pas u => exact loadEffect_completes (sgn := false) fun _ => rfl
  | lds d a z h o x pas u => exact loadEffect_completes (sgn := true) fun _ => rfl
  | ldAcq d a z h o x pas u => exact loadEffect_completes (sgn := false) fun _ => rfl
  | ldReg d a z h o x pas u pa => exact registerLoad_completes (sgn := false) fun _ => rfl
  | ldsReg d a z h o x pas u pa => exact registerLoad_completes (sgn := true) fun _ => rfl
  | st d a z h o x pas u => exact storeEffect_completes fun _ => rfl
  | stRel d a z h o x pas u => exact storeEffect_completes fun _ => rfl
  | stReg d a z h o x pas u pa =>
    exact completes_store (fun _ => rfl) (fun _ _ _ => ⟨rfl, rfl, rfl, rfl, rfl, rfl, rfl⟩) (fun _ _ ⟨htr, _⟩ => ⟨nofun, htr⟩)
      fun _ _ hw ⟨_, hd, ho⟩ => storeAct_register hd (hw ▸ ho)

/-! ### A result for g0 (R10) -/

/-- The destinations of the results in flight on core 0 after an instruction. -/
def destsAfter : Out → List Dest
  | .next t => (t.core 0).flights.map Flight.dest
  | _ => []

/-- The package runs an iteration on core 0, whose data pages may be read and written from address 0 on; X has the turn. -/
def dataPlaced : State :=
  let s := State.reset.withFetchWord 32 0
  { s with mem := { s.mem with cells := cellsPut s.mem.cells (placeTable + 8 * vaIndex 2 placeVa) 0x1F } }

/-- What translating the first `n` bytes answers as X's instruction issues. -/
def firstBytes (need : Need) (n : Nat) : Except PageFault (List (Nat × Nat)) × State :=
  let p := dataPlaced.popped Ctl.plain
  p.translateBytes ((dataPlaced.issuing Ctl.plain false 7).actor p) p.turn.core (p.tenOf p.turn.core) need 0 n

/-- Their physical addresses, in ordinary memory. -/
def firstAddrs (n : Nat) : List (Nat × Nat) := (List.range n).map fun j => (0x40000000 + j, 0)

theorem dataPlaced_ready : dataPlaced.ready Ctl.plain false 7 ring = true := by decide +kernel

/-- Nothing is on its way in it, and nothing has written to memory. -/
theorem dataPlaced_still : dataPlaced.me.flights = [] ∧ dataPlaced.mem.wf = true ∧ dataPlaced.mem.marks = [] ∧ dataPlaced.stubs = []
    ∧ dataPlaced.migration = none ∧ dataPlaced.pending = [] ∧ (dataPlaced.popped Ctl.plain).mine.know.after = []
    ∧ (∀ die, dataPlaced.combine.get die = []) ∧ dataPlaced.mem.hist = [] := by decide +kernel

/-- An instruction that sends one result from there. -/
theorem destsAfter_sent {i : Instr} {t : State} {f : Flight} (he : exec i dataPlaced = .next t)
    (hf : (t.core dataPlaced.turn.core).flights = dataPlaced.me.flights ++ [f]) : destsAfter (exec i dataPlaced) = [f.dest] := by
  obtain ⟨hnone, _⟩ := dataPlaced_still
  rw [he]
  show (t.core dataPlaced.turn.core).flights.map Flight.dest = _
  rw [hf, hnone]
  rfl

/-- The first eight bytes translate for a plain load. -/
theorem firstLoaded_pages : (firstBytes (scalarNeed Need.load true 0 8) 8).1 = .ok (firstAddrs 8) := by decide +kernel

/-- LD g0 sends a result without a destination. -/
theorem loadZero_dests : destsAfter (exec (.ld 0 0 .d .default 0 Ctl.plain) dataPlaced) = [.none] := by decide +kernel

/-- Refutes O22: the result of a load to g0 has no destination (R10), and the second part asks for g0 itself. -/
theorem not_scalarMemory : ¬ Obligations.ScalarMemory := by
  rintro ⟨_, h⟩
  obtain ⟨hfl, hwf, hmarks, hstubs, hmig, hpend, hafter, hcomb, hhist⟩ := dataPlaced_still
  obtain ⟨t, f, he, hf, _, hdest, _⟩ := h 0 0 .d .default 0 Ctl.plain dataPlaced _ _ 0 false (firstAddrs 8) _
    (.inl ⟨rfl, rfl, rfl⟩) dataPlaced_ready (hfl ▸ List.forall_mem_nil _) hwf hmarks hstubs hmig hpend hafter hcomb
    (hhist ▸ List.forall_mem_nil _) nofun (Prod.ext firstLoaded_pages rfl) (by decide) (by decide) rfl
  have hsent := (destsAfter_sent he hf).symm.trans loadZero_dests
  rw [hdest] at hsent
  exact absurd hsent (by decide)

end Sys2Proof.Machine
end

section
/-!
PROOFS. Atomics: every row of their table holds; what is said of the words that an AMO reads and writes fails for g0 (O26).
-/
set_option Elab.async false
namespace Sys2Proof.Machine
open Sys2Proof Sys2Proof.Rules

/-! ### The rows (R247, R248, R251, R425) -/

/-- What an AMO of operand `x`, with `y` in the register after it, does with what its bytes translate to. -/
def amoAct (cx : Cx) (op : Nat) (d : Reg) (r : Bool) (z : Sz) (ea x y : Nat) : Except PageFault (List (Nat × Nat)) × State → Act
  | (.error f, u) => .fault u (Trap.page f)
  | (.ok pas, u) =>
    let pa := (pas.headD (0, 0)).1
    if !r && decide (op ≤ 7) && u.inWindow pa then
      .done (((u.armPubs (cx.actor u)).combineAmo cx op z.code pa x).flyAtomic cx (u.cycle + 1) d) .next false
    else atomicAt cx d r (op + (if r then 16 else 0)) z.code ea pa x y u

/-- What PLNST of operand `x` does with what its byte translates to. -/
def planeAct (cx : Cx) (op : Nat) (d : Reg) (ea x : Nat) : Except PageFault (List (Nat × Nat)) × State → Act
  | (.error f, u) => .fault u (Trap.page f)
  | (.ok pas, u) => atomicAt cx d false op 0 ea (pas.headD (0, 0)).1 x 0 u

/-- An AMO as a function of what its bytes translate to. -/
theorem amo_eq (i : Instr) (x : Ctl) (op : Nat) (d a : Reg) (r : Bool) (z : Sz) (s : State) :
    amo i x op d a r z s = issue
      { x := x, minLat := 7, gsrc := if op = 9 then [d, a, regNext d] else [d, a], gdst := [d], cls := .varying, tape := .abandon
        acc := [.core], rel := r, enc := encode i }
      (fun cx s =>
        let v := s.seq cx.who
        let ea := (v.rg a).toNat
        if ea % 2 ^ z.code ≠ 0 then .trap Trap.illegal
        else
          amoAct cx op d r z ea ((v.rg d).toNat % 256 ^ 2 ^ z.code) ((v.rg (regNext d)).toNat % 256 ^ 2 ^ z.code)
            (s.translateBytes (cx.actor s) cx.who.core (s.tenOf cx.who.core) Need.amo ea (2 ^ z.code))) s := rfl

/-- PLNST likewise. -/
theorem planeStore_eq (i : Instr) (x : Ctl) (op : Nat) (d a : Reg) (s : State) :
    planeStore i x op d a s = issue
      { x := x, minLat := 7, gsrc := [d, a], gdst := [d], cls := .varying, tape := .abandon, acc := [.core], enc := encode i }
      (fun cx s =>
        let v := s.seq cx.who
        planeAct cx op d (v.rg a).toNat ((v.rg d).toNat % 256)
          (s.translateBytes (cx.actor s) cx.who.core (s.tenOf cx.who.core) Need.amo (v.rg a).toNat 1)) s := rfl

/-- Every instruction of the table of operations is the shared AMO with its code. -/
theorem exec_amo {i : Instr} {op : Nat} {d a : Reg} {r : Bool} {z : Sz} {x : Ctl} (h : AtomicOp i op d a r z x) (s : State) :
    exec i s = amo i x op d a r z s := by
  cases h <;> rfl

/-- An atomic that does not combine goes to its line's bank. -/
theorem amoAct_bank {cx : Cx} {op ea x y pa mt : Nat} {d : Reg} {r : Bool} {z : Sz} {rest : List (Nat × Nat)} {u : State}
    (h : ¬ (r = false ∧ op ≤ 7 ∧ u.inWindow pa = true)) :
    amoAct cx op d r z ea x y (.ok ((pa, mt) :: rest), u)
      = .done (atBank cx u d r (op + if r then 16 else 0) z.code ea pa x y) .next false := by
  refine if_neg ?_
  simpa only [Bool.and_eq_true, Bool.not_eq_true', decide_eq_true_eq, and_assoc, List.headD_cons] using h

/-- A combinable one in an enabled window goes to the combining buffer. -/
theorem amoAct_combined {cx : Cx} {op ea x y pa mt : Nat} {d : Reg} {z : Sz} {rest : List (Nat × Nat)} {u : State} (ho : op ≤ 7)
    (h : u.inWindow pa = true) :
    amoAct cx op d false z ea x y (.ok ((pa, mt) :: rest), u)
      = .done (((u.armPubs (cx.actor u)).combineAmo cx op z.code pa x).flyAtomic cx (u.cycle + 1) d) .next false := by
  refine if_pos ?_
  simp only [Bool.and_eq_true, Bool.not_eq_true', decide_eq_true_eq]
  exact ⟨⟨trivial, ho⟩, h⟩

/-- PLNST goes to its line's bank. -/
theorem planeAct_bank (cx : Cx) (op : Nat) (d : Reg) (ea x pa mt : Nat) (rest : List (Nat × Nat)) (u : State) :
    planeAct cx op d ea x (.ok ((pa, mt) :: rest), u) = .done (atBank cx u d false op 0 ea pa x 0) .next false := rfl

/-- A row of an AMO completes: the row gives what the shared AMO does with its bytes. -/
theorem completes_amo {f : Effect} {i : Instr} {x : Ctl} {op : Nat} {d a : Reg} {r : Bool} {z : Sz} {pas : List (Nat × Nat)} {u : State}
    (ho : AtomicOp i op d a r z x)
    (hx : ∀ gs e, f.shares { x := x, minLat := 7, gsrc := gs, gdst := [d], cls := .varying, tape := .abandon, acc := [.core], rel := r
                             enc := e })
    (hp : ∀ cx p, f.when cx p → (p.mine.rg a).toNat % 2 ^ z.code = 0
      ∧ Rules.paged cx p Need.amo (p.mine.rg a).toNat (2 ^ z.code) pas u)
    (hb : ∀ cx p, f.when cx p →
      amoAct cx op d r z (p.mine.rg a).toNat ((p.mine.rg d).toNat % 256 ^ 2 ^ z.code) ((p.mine.rg (regNext d)).toNat % 256 ^ 2 ^ z.code)
        (.ok pas, u) = .done (f.gives cx p) (f.flow cx p) false) :
    f.completes i := by
  refine completes_meaning _ _ (fun s => (exec_amo ho s).trans (amo_eq i x op d a r z s)) ?_ (hx _ _)
  intro p cx hw h
  obtain ⟨hal, htr⟩ := hp cx p h
  refine ⟨false, ?_⟩
  rw [seq_who hw, hw]
  exact (if_neg (not_not_intro hal)).trans ((congrArg (amoAct cx op d r z _ _ _) htr).trans (hb cx p h))

/-- A row of PLNST completes. -/
theorem plane_completes {i : Instr} {op : Nat} {d a : Reg} {x : Ctl} {pa mt : Nat} {rest : List (Nat × Nat)} {u : State}
    (he : ∀ s, exec i s = planeStore i x op d a s) :
    Effect.completes
      { x := x, lat := 7, acc := [.core], when := fun cx s => Rules.paged cx s Need.amo (s.mine.rg a).toNat 1 ((pa, mt) :: rest) u
        gives := fun cx s => atBank cx u d false op 0 (s.mine.rg a).toNat pa ((s.mine.rg d).toNat % 256) 0 } i := by
  refine completes_meaning _ _ (fun s => (he s).trans (planeStore_eq i x op d a s)) ?_
  intro p cx hw htr
  refine ⟨false, ?_⟩
  rw [seq_who hw, hw]
  exact (congrArg (planeAct cx op d _ _) htr).trans (planeAct_bank cx op d _ _ pa mt rest u)

/-- Every row of the table completes: the first part of O26. -/
theorem atomicRow_completes {i : Instr} {f : Effect} (h : AtomicRow i f) : f.completes i := by
  cases h with
  | bank i op d a r z x ho pa mt rest u =>
    exact completes_amo ho (fun _ _ => ⟨rfl, rfl, rfl, rfl, rfl, rfl, rfl⟩) (fun _ _ ⟨hal, htr, _⟩ => ⟨hal, htr⟩)
      fun _ _ ⟨_, _, hn⟩ => amoAct_bank hn
  | combined i op d a z x ho hop pa mt rest u =>
    exact completes_amo ho (fun _ _ => ⟨rfl, rfl, rfl, rfl, rfl, rfl, rfl⟩) (fun _ _ ⟨hal, htr, _⟩ => ⟨hal, htr⟩)
      fun _ _ ⟨_, _, hin⟩ => amoAct_combined hop hin
  | plnstOr d a x pa mt rest u => exact plane_completes fun _ => rfl
  | plnstAnd d a x pa mt rest u => exact plane_completes fun _ => rfl

/-! ### A result for g0 (R10) -/

theorem firstAmo_pages : (firstBytes Need.amo 4).1 = .ok (firstAddrs 4) := by decide +kernel

/-- No reduction window is enabled in it. -/
theorem dataPlaced_windows : ∀ n : Fin 8, (dataPlaced.fe.rwbase.get n).getLsbD 0 = false := by decide +kernel

/-- AMO.ADD g0 delivers a result without a destination. -/
theorem amoZero_dests : destsAfter (exec (.amoAdd 0 0 false .w Ctl.plain) dataPlaced) = [.none] := by decide +kernel

/-- Refutes O26: the old value that an AMO delivers to g0 has no destination (R10), and the second part asks for g0 itself. -/
theorem not_atomics : ¬ Obligations.Atomics := by
  rintro ⟨_, h⟩
  obtain ⟨hfl, hwf, hmarks, hstubs, hmig, hpend, hafter, hcomb, hhist⟩ := dataPlaced_still
  obtain ⟨t, f, he, hf, _, hdest, _⟩ := h _ 0 0 0 false .w Ctl.plain dataPlaced _ (firstAddrs 4) _ _ (.add ..) (by decide) (by decide)
    dataPlaced_ready (hfl ▸ List.forall_mem_nil _) hwf hmarks hstubs hmig hpend hafter hcomb (hhist ▸ List.forall_mem_nil _) rfl
    (Prod.ext firstAmo_pages rfl) (by decide) dataPlaced_windows (by decide) rfl rfl
  have hsent := (destsAfter_sent he hf).symm.trans amoZero_dests
  rw [hdest] at hsent
  exact absurd hsent (by decide)

end Sys2Proof.Machine
end

section
/-!
PROOFS. Row loads and stores of global memory (O25).
-/
set_option Elab.async false
namespace Sys2Proof.Machine
open Sys2Proof Sys2Proof.Rules

/-- What a row load does with what its selected bytes translate to. -/
def loadRowAct (cx : Cx) (acq : Bool) (r : Fin 128) (en : Mask) (ea : Nat) : Except PageFault (List (Nat × Nat)) × State → Act
  | (.error f, u) => .fault u (Trap.page f)
  | (.ok pas, u) =>
    .done (((spent u).fly cx u.deliverAt false [{ dest := .row r, value := 0, en := en, flags := 0 }]).loadAccess cx acq ea 0 pas) .next true

/-- What a row store of row `r` does with it. -/
def storeRowAct (cx : Cx) (rel : Bool) (r : Fin 128) (row ea : Nat) : Except PageFault (List (Nat × Nat)) × State → Act
  | (.error f, u) => .fault u (Trap.page f)
  | (.ok pas, u) =>
    .done ((u.noteRows cx.who.core [r]).storeAccess cx rel ea pas (pas.map fun p => BitVec.ofNat 8 (row / 256 ^ p.2))) .next false

/-- A row load as a function of what its selected bytes translate to. -/
theorem loadRow_eq (i : Instr) (x : Ctl) (acq : Bool) (v : VReg) (a : Reg) (o : BitVec 3) (s : State) :
    loadRow i x acq v a o s = issue
      { x := x, minLat := 7, issuers := [.C], gsrc := [a], wide := fun _ => [.mask 0], wdst := fun c => [.row (c.vrow v)]
        tape := .command, acc := [.core], enc := encode i }
      (fun cx s =>
        let k := s.core cx.who.core
        let ea := rowEa (s.seq cx.who) a o
        if ea % 64 ≠ 0 then .trap Trap.illegal
        else
          loadRowAct cx acq (k.vrow v) k.laneBytes ea
            (s.translateRow (cx.actor s) cx.who.core (s.tenOf cx.who.core) Need.load ea (rowPages ea k.laneBytes))) s := by
  unfold loadRow
  generalize State.translateRow = walk
  rfl

/-- A row store likewise. -/
theorem storeRow_eq (i : Instr) (x : Ctl) (rel : Bool) (v : VReg) (a : Reg) (o : BitVec 3) (s : State) :
    storeRow i x rel v a o s = issue
      { x := x, issuers := [.C], gsrc := [a], wide := fun c => [.row (c.vrow v), .mask 0], tape := .command, acc := [.core]
        rel := rel, enc := encode i }
      (fun cx s =>
        let k := s.core cx.who.core
        let ea := rowEa (s.seq cx.who) a o
        if ea % 64 ≠ 0 then .trap Trap.illegal
        else
          storeRowAct cx rel (k.vrow v) (k.rowBytes (k.vrow v)) ea
            (s.translateRow (cx.actor s) cx.who.core (s.tenOf cx.who.core) Need.store ea (rowPages ea k.laneBytes))) s := by
  unfold storeRow
  generalize State.translateRow = walk
  rfl

/-- A row of the table that loads completes: its instruction is the shared row load. -/
theorem rowLoad_completes {i : Instr} {x : Ctl} {acq : Bool} {v : VReg} {a : Reg} {o : BitVec 3} {pas : List (Nat × Nat)} {u : State}
    (he : ∀ s, exec i s = loadRow i x acq v a o s) : (rowLoad x acq v a o pas u).completes i := by
  refine completes_meaning _ _ (fun s => (he s).trans (loadRow_eq i x acq v a o s)) ?_
  intro p cx hw ⟨hal, htr⟩
  have hea : rowEa p.mine a o = rowAddr p a o := rfl
  refine ⟨true, ?_⟩
  dsimp only
  rw [seq_who hw, hw, hea, if_neg (not_not_intro hal)]
  exact congrArg (loadRowAct cx acq (p.me.vrow v) p.me.laneBytes (rowAddr p a o)) htr

/-- One that stores likewise. -/
theorem rowStore_completes {i : Instr} {x : Ctl} {rel : Bool} {v : VReg} {a : Reg} {o : BitVec 3} {pas : List (Nat × Nat)} {u : State}
    (he : ∀ s, exec i s = storeRow i x rel v a o s) : (rowStore x rel v a o pas u).completes i := by
  refine completes_meaning _ _ (fun s => (he s).trans (storeRow_eq i x rel v a o s)) ?_
  intro p cx hw ⟨hal, htr⟩
  have hea : rowEa p.mine a o = rowAddr p a o := rfl
  refine ⟨false, ?_⟩
  dsimp only
  rw [seq_who hw, hw, hea, if_neg (not_not_intro hal)]
  refine (congrArg (storeRowAct cx rel (p.me.vrow v) (p.me.rowBytes (p.me.vrow v)) (rowAddr p a o)) htr).trans ?_
  rw [storeRowAct, hw, rowStore]

/-- Settles O25: each of the four is the shared row load or the shared row store, whose meaning translates as its row says. -/
theorem rowMemory : Obligations.RowMemory := by
  intro i f h
  cases h with
  | vldg v a h o x pas u => exact rowLoad_completes fun _ => rfl
  | vldgAcq v a h o x pas u => exact rowLoad_completes fun _ => rfl
  | vstg v a h o x pas u => exact rowStore_completes fun _ => rfl
  | vstgRel v a h o x pas u => exact rowStore_completes fun _ => rfl

end Sys2Proof.Machine
end

section
/-!
PROOFS. The node translation table: NTLD of an unlocked and of a locked segment, NTLOCK and NTUNL (O28).
-/
set_option Elab.async false
namespace Sys2Proof.Machine
open Sys2Proof Sys2Proof.Rules

/-- What NTLD of segment `g`, whose result may land from cycle `n` on, does with what its 1024 bytes at `ea` translate to. -/
def ntldAct (cx : Cx) (d : Reg) (ea g n : Nat) : Except PageFault (List (Nat × Nat)) × State → Act
  | (.error f, u) => .fault u (Trap.page f)
  | (.ok pas, u) =>
    if (u.core cx.who.core).ntlocks.getLsbD g then .done (u.fly cx n false [.g d 1]) .next true
    else if (u.core cx.who.core).kvNames g then .stall cx.s0
    else
      let v := u.armPubs (cx.actor u)
      let r := v.coreRead cx.who.core (v.ordered (cx.actor v)) (addrs pas)
      .done ((segmentLoaded r.2 cx.who.core ea g r.1).fly cx n false [.g d 0]) .next true

/-- A locked segment is left as it is (R258). -/
theorem ntldAct_locked {cx : Cx} {d : Reg} {ea g n : Nat} {pas : List (Nat × Nat)} {u : State}
    (h : (u.core cx.who.core).ntlocks.getLsbD g = true) :
    ntldAct cx d ea g n (.ok pas, u) = .done (u.fly cx n false [.g d 1]) .next true := if_pos h

/-- An unlocked one that no KVLD or KVST in flight names is loaded. -/
theorem ntldAct_loads {cx : Cx} {d : Reg} {ea g n : Nat} {pas : List (Nat × Nat)} {u w : State} {bs : List (Byte × Bool)}
    (hl : (u.core cx.who.core).ntlocks.getLsbD g = false) (hk : (u.core cx.who.core).kvNames g = false)
    (hr : (let v := u.armPubs (cx.actor u); v.coreRead cx.who.core (v.ordered (cx.actor v)) (addrs pas)) = (bs, w)) :
    ntldAct cx d ea g n (.ok pas, u) = .done ((segmentLoaded w cx.who.core ea g bs).fly cx n false [.g d 0]) .next true := by
  dsimp only at hr
  rw [ntldAct, hl, hk]
  simp only [hr, Bool.false_eq_true, if_false]

/-- NTLD as a function of what its bytes translate to. -/
theorem execNtld_eq (d a b : Reg) (x : Ctl) (s : State) : execNtld d a b x s = issue
      { x := x, minLat := 7, issuers := [.X], gsrc := [a, b], gdst := [d], acc := [.core], enc := encode (.ntld d a b x) }
      (fun cx s =>
        let v := s.seq cx.who
        if (v.rg a).toNat % 64 ≠ 0 ∨ 16 ≤ (v.rg b).toNat then .trap Trap.illegal
        else
          ntldAct cx d (v.rg a).toNat (v.rg b).toNat s.deliverAt
            ((spent s).translateBytes (cx.actor (spent s)) cx.who.core ((spent s).tenOf cx.who.core) Need.load (v.rg a).toNat 1024)) s := by
  unfold execNtld
  generalize State.translateBytes = walk
  rfl

/-- A row of NTLD completes: its address and segment are good, its bytes translate, and it gives what NTLD does with them. -/
theorem completes_ntld {f : Effect} {d a b : Reg} {x : Ctl} {pas : List (Nat × Nat)} {u : State}
    (hx : ∀ gs gd e, f.shares { x := x, minLat := 7, issuers := [.X], gsrc := gs, gdst := gd, acc := [.core], enc := e })
    (hp : ∀ cx p, f.when cx p → (p.mine.rg a).toNat % 64 = 0 ∧ (p.mine.rg b).toNat < 16
      ∧ paged cx (spent p) Need.load (p.mine.rg a).toNat 1024 pas u)
    (hb : ∀ cx p, cx.who = p.turn → f.when cx p →
      ntldAct cx d (p.mine.rg a).toNat (p.mine.rg b).toNat p.deliverAt (.ok pas, u) = .done (f.gives cx p) (f.flow cx p) true) :
    f.completes (.ntld d a b x) := by
  refine completes_meaning _ _ (fun s => execNtld_eq d a b x s) ?_ (hx _ _ _)
  intro p cx hw h
  obtain ⟨hal, hseg, htr⟩ := hp cx p h
  refine ⟨true, ?_⟩
  dsimp only
  rw [seq_who hw, if_neg (by omega), ← hb cx p hw h, hw]
  exact congrArg (ntldAct cx d _ _ _) htr

/-- NTLOCK and NTUNL complete: with no bit above the mask, each segment of it is taken in turn. -/
theorem segments_completes {i : Instr} {x : Ctl} {a : Reg} {f : State → CoreId → Nat → State} (he : ∀ s, exec i s = segments i x a f s) :
    Effect.completes
      { x := x, qs := [.X], when := fun _ s => (s.mine.rg a).toNat < 65536
        gives := fun _ s => ((List.range 16).filter (s.mine.rg a).getLsbD).foldl (fun u g => f u s.turn.core g) s } i := by
  refine completes_meaning _ _ he ?_
  intro p cx hw hm
  refine ⟨false, ?_⟩
  rw [seq_who hw, hw]
  exact if_neg (not_not_intro (Nat.div_eq_of_lt hm))

/-- Settles O28: NTLD by whether its segment is locked, NTLOCK and NTUNL as the shared walk over the segments of a mask. -/
theorem nodeTable : Obligations.NodeTable := by
  intro i f h
  cases h with
  | ntld d a b x pas u w bs =>
    refine completes_ntld (fun _ _ _ => ⟨rfl, rfl, rfl, rfl, rfl, rfl, rfl⟩) (fun cx p ⟨hal, hseg, htr, _⟩ => ⟨hal, hseg, htr⟩) ?_
    intro cx p hw ⟨_, _, _, hl, hk, hr⟩
    rw [← hw] at hl hk hr
    exact (ntldAct_loads hl hk hr).trans (by rw [hw])
  | ntldLocked d a b x pas u =>
    exact completes_ntld (fun _ _ _ => ⟨rfl, rfl, rfl, rfl, rfl, rfl, rfl⟩) (fun cx p ⟨hal, hseg, htr, _⟩ => ⟨hal, hseg, htr⟩)
      fun cx p hw ⟨_, _, _, hl⟩ => ntldAct_locked (hw ▸ hl)
  | ntlock a x => exact segments_completes fun _ => rfl
  | ntunl a x => exact segments_completes fun _ => rfl

end Sys2Proof.Machine
end

section
/-!
PROOFS. Reads, translations and what follows an instruction: none of them sends or writes anything (for O23).
-/
set_option Elab.async false
namespace Sys2Proof.Machine
open Sys2Proof Sys2Proof.Rules

/-! ### Reads that change nothing -/

/-- A read changes nothing that another access sees: no sector is marked, and no AMO waits in a combining buffer. -/
structure State.Clear (s : State) : Prop where
  marks : s.mem.marks = []
  combine : ∀ die, s.combine.get die = []

/-- `t` is `s` after reads: the bytes that are missing and the free values apart. -/
def Sees (s t : State) : Prop := s.Clear → ∃ ms n, t = { s with mem := { s.mem with missing := ms }, free := n }

/-- `t` is `s` after reads and translations: the TLBs apart as well. -/
def Looks (s t : State) : Prop :=
  s.Clear → ∃ ut tl ms n, t = { s with mem := { s.mem with utlb := ut, tlb := tl, missing := ms }, free := n }

theorem Sees.refl (s : State) : Sees s s := fun _ => ⟨_, _, rfl⟩

theorem Sees.looks {s t : State} (h : Sees s t) : Looks s t := fun hq =>
  have ⟨ms, n, he⟩ := h hq
  ⟨_, _, ms, n, he⟩

theorem Looks.refl (s : State) : Looks s s := (Sees.refl s).looks

theorem Looks.clear {s t : State} (h : Looks s t) (hq : s.Clear) : t.Clear := by
  obtain ⟨_, _, _, _, rfl⟩ := h hq
  exact ⟨hq.marks, hq.combine⟩

theorem Sees.trans {a b c : State} (h : Sees a b) (k : Sees b c) : Sees a c := by
  intro hq
  obtain ⟨_, _, ec⟩ := k (h.looks.clear hq)
  obtain ⟨_, _, eb⟩ := h hq
  rw [eb] at ec
  exact ⟨_, _, ec⟩

theorem Looks.trans {a b c : State} (h : Looks a b) (k : Looks b c) : Looks a c := by
  intro hq
  obtain ⟨_, _, _, _, ec⟩ := k (h.clear hq)
  obtain ⟨_, _, _, _, eb⟩ := h hq
  rw [eb] at ec
  exact ⟨_, _, _, _, ec⟩

theorem Sees.of_free (s : State) (n : Nat) : Sees s { s with free := n } := fun _ => ⟨_, _, rfl⟩

/-- A sector without a mark is good. -/
theorem checkSector_unmarked {s : State} (h : s.mem.marks = []) (k : Nat) : s.checkSector k = (.good, s) := by
  rw [State.checkSector, h]
  rfl

theorem checkSectors_sees (ks : List Nat) (s : State) : Sees s (s.checkSectors ks).2 := by
  induction ks generalizing s with
  | nil => exact Sees.refl s
  | cons k ks ih =>
    refine Sees.trans (b := (s.checkSector k).2) (fun hq => ?_) (ih _)
    rw [checkSector_unmarked hq.marks]
    exact Sees.refl s hq

theorem readList_sees (o : WriteRec → Bool) (seen : List (Nat × SectorNow)) (pas : List Nat) (s : State) :
    Sees s (s.readList o seen pas).2 := by
  induction pas generalizing s with
  | nil => exact Sees.refl s
  | cons a as ih =>
    unfold State.readList
    dsimp only
    refine Sees.trans ?_ (ih _)
    split
    · exact Sees.of_free s _
    · split
      · exact Sees.refl s
      · exact fun _ => ⟨_, _, rfl⟩

theorem readPas_sees (s : State) (o : WriteRec → Bool) (pas : List Nat) : Sees s (s.readPas o pas).2 :=
  (checkSectors_sees _ s).trans (readList_sees _ _ _ _)

/-- A die whose combining buffer is empty flushes nothing. -/
theorem flushWhere_none {s : State} {die : Fin 4} (h : s.combine.get die = []) (p : CombineEntry → Bool) : s.flushWhere die p = s := by
  rw [State.flushWhere, h]
  rfl

theorem flushWhere_sees (s : State) (die : Fin 4) (p : CombineEntry → Bool) : Sees s (s.flushWhere die p) := by
  intro hq
  rw [flushWhere_none (hq.combine die)]
  exact Sees.refl s hq

theorem coreRead_sees (s : State) (c : CoreId) (o : WriteRec → Bool) (pas : List Nat) : Sees s (s.coreRead c o pas).2 :=
  (flushWhere_sees s _ _).trans (readPas_sees _ o pas)

theorem readEntry_sees (s : State) (c : CoreId) (o : WriteRec → Bool) (va lvl t : Nat) : Sees s (s.readEntry c o va lvl t).2 := by
  unfold State.readEntry
  have h := coreRead_sees s c o ((List.range 8).map fun i => t + 8 * vaIndex lvl va + i)
  generalize s.coreRead c o _ = r at h ⊢
  exact h

theorem then_sees {s : State} {v : WalkStep × State} {k : State → Nat → Except Nat Leaf × State} (h : Sees s v.2)
    (hk : ∀ u t, Sees u (k u t).2) : Sees s (WalkStep.then v k).2 := by
  unfold WalkStep.then
  split
  · exact h
  · exact h
  · exact h.trans (hk _ _)

theorem walk_sees (c : CoreId) (o : WriteRec → Bool) (va lvl : Nat) : ∀ (t : Nat) (s : State), Sees s (s.walk c o va lvl t).2 := by
  induction lvl with
  | zero =>
    intro t s
    rw [State.walk.eq_1]
    exact then_sees (readEntry_sees s c o va 0 t) fun u _ => Sees.refl u
  | succ lvl ih =>
    intro t s
    rw [State.walk.eq_2]
    exact then_sees (readEntry_sees s c o va (lvl + 1) t) fun u t => ih t u

theorem tlbFill_looks (s : State) (c : CoreId) (e : TlbEntry) : Looks s (s.tlbFill c e) := by
  unfold State.tlbFill
  dsimp only
  split <;> exact fun _ => ⟨_, _, _, _, rfl⟩

theorem ite_looks {α : Type} {s : State} {p : Prop} [Decidable p] {x y : α × State} (hx : Looks s x.2) (hy : Looks s y.2) :
    Looks s (if p then x else y).2 := by
  split <;> assumption

theorem translate_looks (s : State) (a : Actor) (c : CoreId) (ten : BitVec 8) (need : Need) (va : Nat) :
    Looks s (s.translate a c ten need va).2 := by
  unfold State.translate
  dsimp only
  refine ite_looks (Looks.refl s) (ite_looks (Looks.refl s) (ite_looks (Looks.refl s) ?_))
  have h := (walk_sees c (s.ordered { a with cls := .core }) va 3 (s.tens.get ten.toFin).root s).looks
  generalize s.walk c _ va 3 _ = r at h ⊢
  obtain ⟨v, u⟩ := r
  dsimp only at h ⊢
  refine ite_looks ?_ ?_
  · have h2 := h.trans (Sees.of_free u (u.free + 1)).looks
    dsimp only [State.freeNat]
    generalize List.filter _ _ = l
    split <;> exact h2
  · cases v with
    | error d => exact h
    | ok l =>
      dsimp only
      generalize u.leafCheck l ten need va = e
      cases e with
      | error d => exact h
      | ok p => exact h.trans (tlbFill_looks _ _ _)

theorem translateUnits_looks (a : Actor) (c : CoreId) (ten : BitVec 8) (need : Need) (fuel : Nat) :
    ∀ (s : State) (va n : Nat), Looks s (s.translateUnits a c ten need fuel va n).2 := by
  induction fuel with
  | zero => intro s va n; exact Looks.refl s
  | succ fuel ih =>
    intro s va n
    unfold State.translateUnits
    dsimp only
    refine ite_looks (Looks.refl s) ?_
    have h := translate_looks s a c ten need va
    generalize s.translate a c ten need va = r at h ⊢
    obtain ⟨v, u⟩ := r
    cases v with
    | error d => exact h
    | ok p =>
      dsimp only at h ⊢
      have h2 := h.trans (ih u (va + min n (65536 - va % 65536)) (n - min n (65536 - va % 65536)))
      generalize u.translateUnits a c ten need fuel _ _ = r at h2 ⊢
      obtain ⟨v, w⟩ := r
      cases v <;> exact h2

theorem fetchBytes_looks (s : State) (w : Who) (va n : Nat) : Looks s (s.fetchBytes w va n).2 := by
  unfold State.fetchBytes
  dsimp only
  refine ite_looks (Looks.refl s) ?_
  have h := translateUnits_looks { who := some w, cls := .core, stamp := s.stamp, know := (s.seq w).know } w.core (s.tenOf w.core)
    Need.fetch (n / 65536 + 2) s va n
  unfold State.translateBytes
  generalize s.translateUnits _ w.core _ Need.fetch _ va n = r at h ⊢
  obtain ⟨v, u⟩ := r
  cases v with
  | error d => exact h
  | ok p => exact h.trans (coreRead_sees _ _ _ _).looks

/-! ### What follows a store -/

/-- `t` is `s` after steps that send, write and mark nothing, where no sector is marked and no AMO waits. -/
def Calm (s t : State) : Prop := s.Clear → t.Clear ∧ t.pending = s.pending ∧ t.mem.cells = s.mem.cells

theorem Calm.refl (s : State) : Calm s s := fun h => ⟨h, rfl, rfl⟩

theorem Calm.trans {a b c : State} (h : Calm a b) (k : Calm b c) : Calm a c := fun ha =>
  have ⟨hb, hp, hc⟩ := h ha
  have ⟨hb', hp', hc'⟩ := k hb
  ⟨hb', hp'.trans hp, hc'.trans hc⟩

theorem Calm.of_still {s t : State} (h : Still s t) (hp : t.pending = s.pending) : Calm s t := fun hq => by
  obtain ⟨hm, _, hc⟩ := h
  exact ⟨⟨by rw [hm]; exact hq.marks, by rw [hc]; exact hq.combine⟩, hp, by rw [hm]⟩

theorem Calm.of_looks {s t : State} (h : Looks s t) : Calm s t := fun hq => by
  have hclear := h.clear hq
  obtain ⟨_, _, _, _, rfl⟩ := h hq
  exact ⟨hclear, rfl, rfl⟩

theorem abandon_calm (s : State) (c : CoreId) (n : Nat) : Calm s (s.abandon c n) := by
  refine .of_still (abandon_still s c n) ?_
  unfold State.abandon
  dsimp only
  split
  · split <;> rfl
  · rfl

theorem appendEntry_calm (s : State) (c : CoreId) (t : Fin 16) (e : TapeEntry) (ps : List PatchRec) :
    Calm s (s.appendEntry c t e ps) := by
  unfold State.appendEntry
  dsimp only
  split
  · exact abandon_calm s c 5
  · exact .of_still ⟨rfl, rfl, rfl⟩ rfl

theorem usedLine_calm (s : State) (w : Who) (l : Nat) : Calm s (s.usedLine w l) := by
  refine .of_still (usedLine_still s w l) ?_
  unfold State.usedLine
  dsimp only
  split
  · split
    · rfl
    · split <;> rfl
  · rfl

theorem record_calm (s : State) (cx : Cx) (sp : Spec) : Calm s (s.record cx sp) := by
  unfold State.record
  dsimp only
  split
  · split
    · exact Calm.refl s
    · have hlines := foldl_keeps (fun t : State => Calm s t) (fun (s : State) l => s.usedLine cx.who l)
        (fun t l ht => ht.trans (usedLine_calm t cx.who l))
        ((List.range (cx.next - cx.own).toNat).map fun i => (cx.own.toNat + i) / 256).eraseDups s (Calm.refl s)
      refine hlines.trans ?_
      split
      · exact abandon_calm _ _ _
      · split
        · exact abandon_calm _ _ _
        · split
          · exact appendEntry_calm _ _ _ _ _
          · split
            · exact appendEntry_calm _ _ _ _ _
            · exact Calm.refl _
  · exact Calm.refl s

theorem endTest_calm (s : State) (w : Who) : Calm s (s.endTest w) := by
  unfold State.endTest
  dsimp only
  split
  · split
    · refine Calm.trans ?_ (abandon_calm _ _ _)
      exact .of_still ⟨rfl, rfl, rfl⟩ rfl
    · exact .of_still ⟨rfl, rfl, rfl⟩ rfl
  · exact Calm.refl s

theorem classify_calm (s : State) (cx : Cx) (sp : Spec) (old : Seq) : Calm s (s.classify cx sp old) := by
  refine .of_still (classify_still s cx sp old) ?_
  unfold State.classify
  dsimp only
  split <;> rfl

theorem movePc_calm (s : State) (cx : Cx) (f : Flow) : Calm s (s.movePc cx f).1 :=
  .of_still (movePc_still s cx f) (by cases f <;> rfl)

theorem fetchRest_calm (w : Who) (buf : List Host.Cell) (vas : List Nat) : ∀ s : State, Calm s (s.fetchRest w buf vas) := by
  induction vas with
  | nil => exact Calm.refl
  | cons va vas ih =>
    intro s
    unfold State.fetchRest
    split
    · exact ih s
    · have h := Calm.of_looks (fetchBytes_looks s w va 2)
      generalize s.fetchBytes w va 2 = r at h ⊢
      split
      · refine h.trans (Calm.trans ?_ (ih _))
        exact .of_still ⟨rfl, rfl, rfl⟩ rfl
      · exact h.trans (ih _)

theorem fillLoop_calm (s : State) (w : Who) : Calm s (s.fillLoop w) := by
  unfold State.fillLoop
  dsimp only
  split
  · split
    · exact fetchRest_calm w _ _ s
    · exact Calm.refl s
  · exact Calm.refl s

theorem conclude_calm {s : State} {cx : Cx} {sp : Spec} {f : Flow} {p : Bool} (h : cx.replay = false) : Calm s (s.conclude cx sp f p) := by
  unfold State.conclude
  simp only [h, Bool.false_eq_true, if_false]
  generalize hs1 : (if (sp.x.sf || sp.x.sb) = true then (s.flushCore cx.who.core).arm (cx.actor s) false true else s) = s1
  have h1 : Calm s s1 := by
    rw [← hs1]
    split
    · exact (Calm.of_looks (flushWhere_sees s _ _).looks).trans fun hq => ⟨⟨hq.marks, hq.combine⟩, rfl, rfl⟩
    · exact Calm.refl s
  generalize hs2 : (if ((sp.x.sf || sp.x.sb) && !p) = true then _ else s1) = s2
  have h2 : Calm s1 s2 := by
    rw [← hs2]
    split
    · exact .of_still ⟨rfl, rfl, rfl⟩ rfl
    · exact Calm.refl _
  have h3 := classify_calm s2 cx sp (cx.s0.seq cx.who)
  generalize s2.classify cx sp (cx.s0.seq cx.who) = s3 at h3 ⊢
  generalize hs4 : s3.modSeq cx.who _ = s4
  have h4 : Calm s3 s4 := by rw [← hs4]; exact .of_still ⟨rfl, rfl, rfl⟩ rfl
  have h5 := movePc_calm s4 cx f
  generalize s4.movePc cx f = m at h5 ⊢
  refine h1.trans (h2.trans (h3.trans (h4.trans (h5.trans ?_))))
  generalize hl : (if m.2.isEmpty = true then m.1 else m.1.fillLoop cx.who) = s5
  have h6 : Calm m.1 s5 := by
    rw [← hl]
    split
    · exact Calm.refl _
    · exact fillLoop_calm _ _
  refine h6.trans (Calm.trans ?_ (endTest_calm _ _))
  split
  · exact abandon_calm _ _ _
  · exact Calm.refl _

/-! ### Pages that no TLB holds from before -/

/-- A page maps 64 KiB units to 64 KiB units (R214, R215). -/
structure Leaf.Aligned (l : Leaf) : Prop where
  size : 65536 ∣ l.size
  pa : 65536 ∣ l.pa

theorem pageSize_dvd (lvl : Nat) : 65536 ∣ pageSize lvl := by
  unfold pageSize
  split <;> decide

theorem walkEntry_aligned {lvl va e : Nat} {bad : Bool} {l : Leaf} (h : walkEntry lvl va e bad = .leaf l) : l.Aligned := by
  unfold walkEntry at h
  dsimp only at h
  split at h
  · cases h
  · split at h
    · cases h
    · split at h
      · cases h
      · split at h
        · split at h
          · cases h
          · split at h
            · cases h
            · next hpa =>
              cases h
              exact ⟨pageSize_dvd lvl, (pageSize_dvd lvl).trans (Nat.dvd_of_mod_eq_zero (not_not.1 hpa))⟩
        · split at h
          · cases h
          · split at h <;> cases h

theorem then_aligned {v : WalkStep × State} {k : State → Nat → Except Nat Leaf × State} {l : Leaf}
    (h : (WalkStep.then v k).1 = .ok l) (hv : ∀ l, v.1 = .leaf l → l.Aligned) (hk : ∀ u t, (k u t).1 = .ok l → l.Aligned) : l.Aligned := by
  unfold WalkStep.then at h
  split at h
  · cases h
  · next hl =>
    cases h
    exact hv _ hl
  · exact hk _ _ h

theorem readEntry_aligned {s : State} {c : CoreId} {o : WriteRec → Bool} {va lvl t : Nat} {l : Leaf}
    (h : (s.readEntry c o va lvl t).1 = .leaf l) : l.Aligned := by
  unfold State.readEntry at h
  generalize s.coreRead c o _ = r at h
  exact walkEntry_aligned h

theorem walk_aligned {c : CoreId} {o : WriteRec → Bool} {va : Nat} {l : Leaf} (lvl : Nat) : ∀ (t : Nat) (s : State),
    (s.walk c o va lvl t).1 = .ok l → l.Aligned := by
  induction lvl with
  | zero =>
    intro t s h
    rw [State.walk.eq_1] at h
    exact then_aligned h (fun _ => readEntry_aligned) fun _ _ h => by cases h
  | succ lvl ih =>
    intro t s h
    rw [State.walk.eq_2] at h
    exact then_aligned h (fun _ => readEntry_aligned) fun u t h => ih t u h

theorem leafCheck_aligned {s : State} {l : Leaf} {ten : BitVec 8} {need : Need} {va pa mt : Nat} (hl : l.Aligned)
    (h : s.leafCheck l ten need va = .ok (pa, mt)) : pa % 65536 = va % 65536 := by
  unfold State.leafCheck at h
  dsimp only at h
  split at h
  · cases h
  · split at h
    · cases h
    · split at h
      · cases h
      · cases h
        obtain ⟨a, ha⟩ := hl.pa
        rw [ha, Nat.mul_add_mod, Nat.mod_mod_of_dvd _ hl.size]

/-- An access that takes no translation from before its entry changed keeps its place in its 64 KiB unit. -/
theorem translate_fresh {s : State} {a : Actor} {c : CoreId} {ten : BitVec 8} {need : Need} {va pa mt : Nat} (ha : a.cls = .core)
    (hf : Config.staleUse a.stamp 0 = false) (h : (s.translate a c ten need va).1 = .ok (pa, mt)) : pa % 65536 = va % 65536 := by
  unfold State.translate at h
  dsimp only at h
  split at h
  · split at h <;> cases h
    rfl
  · split at h
    · cases h
    · split at h
      · cases h
      · have hw : ∀ l, (s.walk c (s.ordered { a with cls := .core }) va 3 (s.tens.get ten.toFin).root).1 = .ok l → l.Aligned :=
          fun l => walk_aligned 3 _ s
        generalize s.walk c _ va 3 _ = r at h hw
        obtain ⟨v, u⟩ := r
        rw [ha] at h
        simp only [beq_self_eq_true, if_true, hf, Bool.and_false, Bool.false_eq_true, if_false] at h
        cases v with
        | error d => cases h
        | ok l =>
          dsimp only at h
          split at h
          · cases h
          · next he =>
            cases h
            exact leafCheck_aligned (hw l rfl) he

/-- The bytes of `m` consecutive addresses of a page. -/
def byteRun (pa mt m : Nat) : List (Nat × Nat) := (List.range m).map fun i => (pa + i, mt)

theorem byteRun_length (pa mt m : Nat) : (byteRun pa mt m).length = m := by simp [byteRun]

theorem byteRun_addrs (pa mt m : Nat) : addrs (byteRun pa mt m) = addrsFrom pa m := by
  rw [addrs, byteRun, List.map_map]
  rfl

/-- One unit of an access: its run of bytes, then the rest. -/
theorem translateUnits_ok {s u : State} {a : Actor} {c : CoreId} {ten : BitVec 8} {need : Need} {fuel va n : Nat} {pas : List (Nat × Nat)}
    (hn : n ≠ 0) (h : s.translateUnits a c ten need (fuel + 1) va n = (.ok pas, u)) :
    ∃ pa mt rest v, s.translate a c ten need va = (.ok (pa, mt), v)
      ∧ v.translateUnits a c ten need fuel (va + min n (65536 - va % 65536)) (n - min n (65536 - va % 65536)) = (.ok rest, u)
      ∧ pas = byteRun pa mt (min n (65536 - va % 65536)) ++ rest := by
  rw [State.translateUnits, if_neg hn] at h
  generalize hr : s.translate a c ten need va = r at h
  obtain ⟨_ | ⟨pa, mt⟩, v⟩ := r
  · cases h
  · generalize hm : min n (65536 - va % 65536) = m at h ⊢
    dsimp only at h
    generalize hr2 : v.translateUnits a c ten need fuel (va + m) (n - m) = r2 at h
    obtain ⟨_ | rest, w⟩ := r2
    · cases h
    · cases h
      exact ⟨pa, mt, rest, v, rfl, hr2, rfl⟩

/-- A short access is one run of bytes, or two where it crosses a boundary of 64 KiB. -/
theorem translateBytes_runs {s u : State} {a : Actor} {c : CoreId} {ten : BitVec 8} {need : Need} {va n : Nat} {pas : List (Nat × Nat)}
    (hn : n ≠ 0) (hs : n < 65536) (h : s.translateBytes a c ten need va n = (.ok pas, u)) :
    (∃ pa mt, pas = byteRun pa mt n)
      ∨ ∃ (m pa mt qa nt : Nat) (v : State), m < n ∧ (va + m) % 65536 = 0 ∧ (s.translate a c ten need va).1 = .ok (pa, mt)
        ∧ (v.translate a c ten need (va + m)).1 = .ok (qa, nt) ∧ pas = byteRun pa mt m ++ byteRun qa nt (n - m) := by
  rw [State.translateBytes, Nat.div_eq_of_lt hs] at h
  obtain ⟨pa, mt, rest, v, h1, h2, rfl⟩ := translateUnits_ok hn h
  generalize hm : min n (65536 - va % 65536) = m at h2 ⊢
  by_cases hnm : n - m = 0
  · rw [hnm, State.translateUnits, if_pos rfl] at h2
    cases h2
    have : m = n := by omega
    exact .inl ⟨pa, mt, by rw [this, List.append_nil]⟩
  · obtain ⟨qa, nt, rest2, w, h3, h4, rfl⟩ := translateUnits_ok hnm h2
    have hz : (va + m) % 65536 = 0 := by omega
    have hl : min (n - m) (65536 - (va + m) % 65536) = n - m := by omega
    rw [State.translateUnits] at h4
    cases h4
    exact .inr ⟨m, pa, mt, qa, nt, v, by omega, hz, by rw [h1], by rw [h3], by rw [hl, List.append_nil]⟩

theorem translateBytes_length {s u : State} {a : Actor} {c : CoreId} {ten : BitVec 8} {need : Need} {va n : Nat} {pas : List (Nat × Nat)}
    (hn : n ≠ 0) (hs : n < 65536) (h : s.translateBytes a c ten need va n = (.ok pas, u)) : pas.length = n := by
  rcases translateBytes_runs hn hs h with ⟨pa, mt, rfl⟩ | ⟨m, pa, mt, qa, nt, v, hm, _, _, _, rfl⟩
  · exact byteRun_length pa mt n
  · rw [List.length_append, byteRun_length, byteRun_length]
    omega

end Sys2Proof.Machine
end

section
/-!
PROOFS. A store's access: written at once inside one granule, on its way in pieces otherwise (for O23).
-/
set_option Elab.async false
namespace Sys2Proof.Machine
open Sys2Proof Sys2Proof.Rules

/-! ### Writes whose granules follow one another -/

/-- Equal keys stand next to each other. -/
def Grouped : List Nat → Prop
  | [] => True
  | g :: gs => (gs.head? = some g ∨ g ∉ gs) ∧ Grouped gs

/-- Taking equal keys together, in the order in which they first come, then changes no order. -/
theorem Grouped.flatMap_filter {α : Type} {key : α → Nat} : ∀ {ws : List α}, Grouped (ws.map key) →
    ((ws.map key).eraseDups).flatMap (fun g => ws.filter fun w => key w == g) = ws
  | [], _ => rfl
  | w :: ws, h => by
    obtain ⟨hg, hgs⟩ := h
    have ih := Grouped.flatMap_filter hgs
    have hrest : ∀ gs : List Nat, (∀ g ∈ gs, g ≠ key w) →
        gs.flatMap (fun g => (w :: ws).filter fun w => key w == g) = gs.flatMap fun g => ws.filter fun w => key w == g := by
      intro gs hne
      refine List.flatMap_congr fun g hgm => ?_
      rw [List.filter_cons_of_neg]
      simpa using (hne g hgm).symm
    rw [List.map_cons, List.eraseDups_cons, List.flatMap_cons, hrest _ (fun g hgm => by simpa using List.mem_filter.1 (List.mem_eraseDups.1 hgm) |>.2)]
    rw [List.filter_cons_of_pos (by simp)]
    rcases hg with hh | hn
    · cases ws with
      | nil => simp at hh
      | cons v vs =>
        have hv : key v = key w := by simpa using hh
        rw [List.map_cons, List.eraseDups_cons, List.flatMap_cons, hv] at ih
        rw [List.map_cons, hv, List.filter_cons_of_neg (p := fun b => !b == key w) (by simp), List.cons_append, ih]
    · have hnone : ws.filter (fun v => key v == key w) = [] := by
        rw [List.filter_eq_nil_iff]
        intro v hv
        have : key v ≠ key w := fun e => hn (e ▸ List.mem_map_of_mem hv)
        simpa using this
      have hall : (ws.map key).filter (fun b => !b == key w) = ws.map key := by
        rw [List.filter_eq_self]
        intro g hgm
        have : g ≠ key w := fun e => hn (e ▸ hgm)
        simpa using this
      rw [hnone, hall, ih]
      rfl

/-- Keys that never fall. -/
theorem Grouped.of_sorted : ∀ {gs : List Nat}, gs.Pairwise (· ≤ ·) → Grouped gs
  | [], _ => trivial
  | [g], _ => ⟨.inr (by simp), trivial⟩
  | g :: g' :: gs, h => by
    obtain ⟨hle, hrest⟩ := List.pairwise_cons.1 h
    refine ⟨?_, Grouped.of_sorted hrest⟩
    by_cases he : g' = g
    · exact .inl (by rw [he]; rfl)
    · refine .inr fun hm => ?_
      have h1 := hle g' List.mem_cons_self
      rcases List.mem_cons.1 hm with rfl | hm
      · exact he rfl
      · have h2 := (List.pairwise_cons.1 hrest).1 g hm
        omega

/-- Two lists without a key in common. -/
theorem Grouped.append : ∀ {gs hs : List Nat}, Grouped gs → Grouped hs → (∀ g ∈ gs, g ∉ hs) → Grouped (gs ++ hs)
  | [], _, _, h, _ => h
  | [g], hs, _, h, hd => ⟨.inr (by simpa using hd g), h⟩
  | g :: g' :: gs, hs, h, hh, hd => by
    obtain ⟨hg, hgs⟩ := h
    refine ⟨?_, Grouped.append hgs hh fun x hx => hd x (List.mem_cons_of_mem _ hx)⟩
    rcases hg with he | hn
    · exact .inl he
    · refine .inr fun hm => ?_
      rcases List.mem_append.1 hm with hm | hm
      · exact hn hm
      · exact hd g List.mem_cons_self hm

/-- The granules of consecutive addresses. -/
theorem Grouped.run (pa m : Nat) : Grouped ((List.range m).map fun i => (pa + i) / 8) := by
  refine Grouped.of_sorted (List.pairwise_map.2 (List.pairwise_le_range.imp fun h => ?_))
  exact Nat.div_le_div_right (Nat.add_le_add_left h pa)

/-! ### Writes of one granule at home -/

/-- With no stub and no migration every byte is where its address says. -/
theorem placeOf_still {s : State} (hs : s.stubs = []) (hm : s.migration = none) (pa : Nat) : s.placeOf pa = some pa := by
  rw [State.placeOf, State.placeFrom, hs, hm]
  rfl

theorem homeOf_still {s : State} (hs : s.stubs = []) (hm : s.migration = none) (c : Option CoreId) (pa : Nat) : s.homeOf c pa = .here := by
  rw [State.homeOf, hs, hm]
  rfl

/-- Bytes as writes put them, one after the other. -/
def putAll (cs : List Host.Cell) (ws : List (Nat × Byte)) : List Host.Cell := ws.foldl (fun cs w => cellsPut cs w.1 w.2) cs

/-- `t` is `s` after the bytes `ws` have been written in order: nothing is marked, on its way or combined by it, and no sequencer has changed. -/
structure Wrote (s t : State) (ws : List (Nat × Byte)) : Prop where
  cells : t.mem.cells = putAll s.mem.cells ws
  marks : t.mem.marks = s.mem.marks
  pending : t.pending = s.pending
  combine : t.combine = s.combine
  seq : ∀ w, t.seq w = s.seq w

theorem Wrote.nil (s : State) : Wrote s s [] := ⟨rfl, rfl, rfl, rfl, fun _ => rfl⟩

theorem Wrote.append {a b c : State} {ws vs : List (Nat × Byte)} (h : Wrote a b ws) (k : Wrote b c vs) : Wrote a c (ws ++ vs) :=
  ⟨by rw [k.cells, h.cells, putAll, putAll, putAll, List.foldl_append], k.marks.trans h.marks, k.pending.trans h.pending,
    k.combine.trans h.combine, fun w => (k.seq w).trans (h.seq w)⟩

/-- A CORE write after CORE writes is the last one to its byte (R232). -/
theorem writeByte_core {s : State} {a : Actor} {k : WriteKind} {whole : Bool} {pa : Nat} {v : Byte} (ha : a.cls = .core)
    (hh : ∀ w ∈ s.mem.hist, w.cls = .core) : s.writeByte a k whole pa v = s.putByte a k false whole pa v 0 := by
  have hplaces : writePlaces (s.ordered a) k.atomic (s.recsAt pa) = [0] := by
    have hord : ∀ w ∈ s.recsAt pa, s.ordered a w = true := fun w hw => by
      simp [State.ordered, ha, hh w (List.mem_of_mem_filter hw)]
    unfold writePlaces
    cases hr : s.recsAt pa with
    | nil => rfl
    | cons w ws =>
      have := hord w (by rw [hr]; exact List.mem_cons_self)
      simp [this]
  rw [State.writeByte, State.choosePlace, hplaces]

/-- So are several, in order. -/
theorem writeBytes_wrote {a : Actor} {k : WriteKind} {whole : Bool} (ha : a.cls = .core) : ∀ (ws : List (Nat × Byte)) (s : State),
    (∀ w ∈ s.mem.hist, w.cls = .core) → Wrote s (ws.foldl (fun s w => s.writeByte a k whole w.1 w.2) s) ws
  | [], s, _ => Wrote.nil s
  | w :: ws, s, h => by
    rw [List.foldl_cons, writeByte_core ha h]
    have h1 : Wrote s (s.putByte a k false whole w.1 w.2 0) [w] := ⟨rfl, rfl, rfl, rfl, (putByte_aside s _ _ _ _ _ _ _).seq⟩
    exact h1.append (writeBytes_wrote ha ws _ (List.forall_mem_cons.2 ⟨ha, h⟩))

/-- Tapes that lose their code: only cores and the lines of code change. -/
theorem touchCode_upd (s : State) (pas : List Nat) : ∃ cs ls, s.touchCode pas = { s with cores := cs, codeLines := ls } :=
  foldl_keeps (fun t : State => ∃ cs ls, t = { s with cores := cs, codeLines := ls })
    (fun (s : State) (l : Nat × CoreId × Fin 16) => s.emptyTape l.2.1 l.2.2 7)
    (fun t l ht => by
      obtain ⟨cs, ls, rfl⟩ := ht
      exact ⟨_, _, rfl⟩) _ s ⟨_, _, rfl⟩

/-- Bytes of one granule do not cover a sector. -/
theorem covers_granule {ws : List (Nat × Byte)} {g : Nat} (hg : ∀ w ∈ ws, w.1 / 8 = g) (sec : Nat) : covers ws sec = false := by
  by_contra h
  have hall := List.all_eq_true.1 (Bool.of_not_eq_false h)
  have hat : ∀ i < 32, (sec * 32 + i) / 8 = g := by
    intro i hi
    obtain ⟨w, hw, he⟩ := List.any_eq_true.1 (hall i (List.mem_range.2 hi))
    rw [← hg w hw, show w.1 = sec * 32 + i by simpa using he]
  have h0 := hat 0 (by decide)
  have h8 := hat 8 (by decide)
  omega

/-- Part of one sector, without a mark, is written byte by byte. -/
theorem putPas_granule {s : State} {a : Actor} {k : WriteKind} {ws : List (Nat × Byte)} {g : Nat} (hn : ws ≠ [])
    (hg : ∀ w ∈ ws, w.1 / 8 = g) (hk : s.mem.marks = []) :
    s.putPas a k ws = ws.foldl (fun s w => s.writeByte a k false w.1 w.2) s := by
  have hsec : sectorsOf (ws.map Prod.fst) = [g / 4] := by
    refine eraseDups_const (by simpa using hn) (List.forall_mem_map.2 (List.forall_mem_map.2 fun w hw => ?_))
    have := hg w hw
    omega
  have hmine : ws.filter (fun w => w.1 / 32 == g / 4) = ws := List.filter_eq_self.2 fun w hw => by
    have := hg w hw
    simp only [beq_iff_eq]
    omega
  rw [State.putPas, hsec, List.foldl_cons, List.foldl_nil, hmine, covers_granule hg, if_neg Bool.false_ne_true, State.writePart,
    checkSector_unmarked hk]
  rfl

/-- A CORE write inside one granule of an unmarked sector whose page is at home writes its bytes in order. -/
theorem writePas_granule {s : State} {a : Actor} {k : WriteKind} {ws : List (Nat × Byte)} {g : Nat} (ha : a.cls = .core) (hn : ws ≠ [])
    (hg : ∀ w ∈ ws, w.1 / 8 = g) (hs : s.stubs = []) (hm : s.migration = none) (hk : s.mem.marks = [])
    (hh : ∀ w ∈ s.mem.hist, w.cls = .core) : Wrote s (s.writePas a k ws) ws := by
  unfold State.writePas
  dsimp only
  have haside := touchCode_aside s (ws.map fun w => s.codePlace w.1)
  obtain ⟨cs, ls, ht⟩ := touchCode_upd s (ws.map fun w => s.codePlace w.1)
  generalize s.touchCode (ws.map fun w => s.codePlace w.1) = u at haside ht
  have hplace : ∀ pa, u.placeOf pa = some pa := placeOf_still (by rw [ht]; exact hs) (by rw [ht]; exact hm)
  have hheld : ws.filter (fun w => (u.placeOf w.1).isNone) = [] := List.filter_eq_nil_iff.2 fun w _ => by simp [hplace]
  have hmap : ws.filterMap (fun w => (u.placeOf w.1).map fun pa => (pa, w.2)) = ws := by simp [hplace]
  have hnone : u.holdWrites a [] = u := rfl
  rw [hheld, hnone, hmap, putPas_granule hn hg (by rw [ht]; exact hk)]
  have h1 : Wrote s u [] := ⟨by rw [ht]; rfl, by rw [ht], by rw [ht], by rw [ht], haside.seq⟩
  exact h1.append (writeBytes_wrote ha ws u (by rw [ht]; exact hh))

/-- A store's access performed inside one granule at home (R225, R242). -/
theorem performHeld_granule {s : State} {h : HeldAccess} {g : Nat} (hc : h.cls = .core) (hk : h.kind = 1) (hb : h.bad = false)
    (hl : h.data.length = h.bytes.length) (hn : h.bytes ≠ []) (hg : ∀ b ∈ h.bytes, b.1 / 8 = g) (hs : s.stubs = [])
    (hm : s.migration = none) (hmk : s.mem.marks = []) (hh : ∀ w ∈ s.mem.hist, w.cls = .core) :
    (s.performHeld h).1 = [] ∧ Wrote s (s.performHeld h).2 ((h.bytes.map Prod.fst).zip h.data) := by
  have hws : (h.bytes.map Prod.fst).zip h.data ≠ [] := by
    intro he
    have := congrArg List.length he
    rw [List.length_zip, List.length_map, hl, Nat.min_self, List.length_nil, List.length_eq_zero_iff] at this
    exact hn this
  have hgs : ∀ w ∈ (h.bytes.map Prod.fst).zip h.data, w.1 / 8 = g := by
    intro w hw
    obtain ⟨b, hb, he⟩ := List.mem_map.1 (List.of_mem_zip hw).1
    rw [← he]
    exact hg b hb
  unfold State.performHeld
  dsimp only
  have harm : Wrote s (s.arm h.actor (h.cls == .core) h.rel.isSome) [] := ⟨rfl, rfl, rfl, rfl, (arm_aside s _ _ _).seq⟩
  rw [hk, hb]
  exact ⟨rfl, harm.append (writePas_granule hc hws hgs hs hm hmk hh)⟩

/-! ### A store's access -/

/-- The package is quiet: no page has moved or moves, nothing is on its way, and every write so far was a CORE access. -/
structure State.Quiet (s : State) : Prop extends State.Clear s where
  wf : s.mem.wf = true
  stubs : s.stubs = []
  migration : s.migration = none
  pending : s.pending = []
  hist : ∀ w ∈ s.mem.hist, w.cls = .core

theorem Looks.quiet {s t : State} (h : Looks s t) (hq : s.Quiet) : t.Quiet := by
  obtain ⟨_, _, _, _, rfl⟩ := h hq.toClear
  obtain ⟨⟨hmarks, hcomb⟩, hwf, hstubs, hmig, hpend, hhist⟩ := hq
  exact ⟨⟨hmarks, hcomb⟩, hwf, hstubs, hmig, hpend, hhist⟩

/-- A CORE write of a sequencer, from no host port and for no other party, with a byte of data for each address. -/
structure HeldAccess.IsStore (h : HeldAccess) (w : Who) : Prop where
  who : h.who = some w
  cls : h.cls = .core
  kind : h.kind = 1
  port : h.port = none
  bad : h.bad = false
  far : h.far = none
  peer : h.peer = none
  parts : h.parts = []
  length : h.data.length = h.bytes.length

/-- What is written, in order. -/
def HeldAccess.writes (h : HeldAccess) : List (Nat × Byte) := (h.bytes.map Prod.fst).zip h.data

/-- A store that has been performed answers nothing. -/
theorem reply_store {s : State} {h : HeldAccess} {w : Who} (hs : h.IsStore w) : Wrote s (s.reply h []) [] := by
  obtain ⟨hw, hc, _, _, _, hf, hp, hn, _⟩ := hs
  have hreply : ∃ fs : List Flight → List Flight,
      s.reply h [] = (s.modCore w.core fun c => { c with flights := fs c.flights }).unpend .core w h.stamp := by
    unfold State.reply State.replyTo
    simp only [hf, hp, hn, hw, hc]
    exact ⟨_, rfl⟩
  obtain ⟨fs, hr⟩ := hreply
  have hseq := modCore_seq s w.core (fun c => { c with flights := fs c.flights }) fun k q => by cases q <;> rfl
  rw [hr]
  exact ⟨rfl, rfl, rfl, rfl, fun v => ((unpend_aside _ _ _ _).seq v).trans (hseq v)⟩

/-- Before its access a store flushes nothing where no AMO is combined (R427). -/
theorem flushFor_none {s : State} (hq : s.Clear) (h : HeldAccess) :
    (if h.cls == .core then h.core.elim s fun c => s.flushLines c (h.bytes.map Prod.fst) else s) = s := by
  split
  · cases h.core with
    | none => rfl
    | some c => exact flushWhere_none (hq.combine _) _
  · rfl

/-- A store inside one granule is performed at once (R225). -/
theorem access_granule {s : State} {h : HeldAccess} {w : Who} {g : Nat} (hs : h.IsStore w) (hq : s.Quiet) (hn : h.bytes ≠ [])
    (hg : ∀ b ∈ h.bytes, b.1 / 8 = g) : Wrote s (s.access h) h.writes := by
  have hone : s.splitOf h = [h] := splitOf_one (.inr ⟨hs.kind, hs.length⟩) hn hg
  have hhere : s.homeOf h.core h.pa = .here := homeOf_still hq.stubs hq.migration _ _
  have hfree : (s.pending ++ s.heldAway).any (fun g => g.leads h) = false :=
    List.any_eq_false.2 fun g _ => by simp [leads_noPort hs.port]
  obtain ⟨hnone, hwrote⟩ := performHeld_granule hs.cls hs.kind hs.bad hs.length hn hg hq.stubs hq.migration hq.marks hq.hist
  have hacc : s.access h = (s.performHeld h).2.reply h (s.performHeld h).1 := by
    unfold State.access
    dsimp only
    rw [flushFor_none hq.toClear, hone]
    dsimp only
    rw [hhere, hfree]
    rfl
  rw [hacc, hnone, ← List.append_nil h.writes]
  exact hwrote.append (reply_store hs)

/-- `t` is `s` with the pieces `ps` on their way, and no other change that an access sees. -/
structure Sent (s t : State) (ps : List HeldAccess) : Prop where
  mem : t.mem = s.mem
  combine : t.combine = s.combine
  stubs : t.stubs = s.stubs
  migration : t.migration = s.migration
  pending : t.pending = s.pending ++ ps
  seq : ∀ w, t.seq w = s.seq w

theorem Sent.nil (s : State) : Sent s s [] := ⟨rfl, rfl, rfl, rfl, (List.append_nil _).symm, fun _ => rfl⟩

theorem Sent.append {a b c : State} {ps qs : List HeldAccess} (h : Sent a b ps) (k : Sent b c qs) : Sent a c (ps ++ qs) :=
  ⟨k.mem.trans h.mem, k.combine.trans h.combine, k.stubs.trans h.stubs, k.migration.trans h.migration,
    by rw [k.pending, h.pending, List.append_assoc], fun w => (k.seq w).trans (h.seq w)⟩

/-- The sequencer that makes a piece notes it. -/
theorem notePiece_sent (s : State) (p : HeldAccess) : Sent s (if p.cls == PathClass.core then p.who.elim s fun w => s.modCore w.core fun c =>
    { c with pend := c.pend ++ [({ cls := .core, sq := w.sq, id := p.stamp } : Pend)] } else s) [] := by
  split
  · cases p.who with
    | none => exact Sent.nil s
    | some w =>
      exact ⟨rfl, rfl, rfl, rfl, (List.append_nil _).symm, modCore_seq s w.core
        (fun c => { c with pend := c.pend ++ [({ cls := .core, sq := w.sq, id := p.stamp } : Pend)] }) fun k q => by cases q <;> rfl⟩
  · exact Sent.nil s

/-- A piece whose page is at home is on its way. -/
theorem sendPiece_sent {s : State} (hs : s.stubs = []) (hm : s.migration = none) (p : HeldAccess) : Sent s (s.sendPiece p) [p] := by
  have hnote := notePiece_sent s p
  unfold State.sendPiece
  dsimp only at hnote ⊢
  generalize (if p.cls == PathClass.core then _ else s : State) = u at hnote ⊢
  refine hnote.append (qs := [p]) ?_
  rw [State.holdAt, homeOf_still (hnote.stubs.trans hs) (hnote.migration.trans hm)]
  exact ⟨rfl, rfl, rfl, rfl, rfl, fun _ => rfl⟩

theorem sendPieces_sent : ∀ (ps : List HeldAccess) (s : State), s.stubs = [] → s.migration = none → Sent s (ps.foldl State.sendPiece s) ps
  | [], _, _, _ => Sent.nil _
  | p :: ps, _, hs, hm =>
    have h1 := sendPiece_sent hs hm p
    h1.append (sendPieces_sent ps _ (h1.stubs.trans hs) (h1.migration.trans hm))

/-- An access of several pieces is on its way in pieces (R225). -/
theorem access_sent {s : State} {h : HeldAccess} (hq : s.Quiet) (hn : (s.splitOf h).length ≠ 1) : Sent s (s.access h) (s.splitOf h) := by
  have hsend : s.access h = (s.splitOf h).foldl State.sendPiece s := by
    unfold State.access
    dsimp only
    rw [flushFor_none hq.toClear]
    split
    next p hp => exact absurd (congrArg List.length hp) hn
    · rfl
  rw [hsend]
  exact sendPieces_sent _ s hq.stubs hq.migration

end Sys2Proof.Machine
end

section
/-!
PROOFS. What StoredBytes (O23) depends on: it holds if and only if no access ever takes a stale translation (R217, R218, R220), which the model
leaves open (log entry 19).
-/
set_option Elab.async false
namespace Sys2Proof.Machine
open Sys2Proof Sys2Proof.Rules

/-! ### What a store leaves in memory -/

/-- A read after writes none of which is to its address. -/
theorem cellsGet_putAll_other {pa : Nat} : ∀ {ws : List (Nat × Byte)} {cs : List Host.Cell}, cellsWf cs = true → pa ∉ ws.map Prod.fst →
    cellsGet (putAll cs ws) pa = cellsGet cs pa
  | [], _, _, _ => rfl
  | w :: ws, cs, hwf, hn => by
    obtain ⟨hne, hn⟩ := not_or.1 (List.mem_cons.not.1 hn)
    have ih := cellsGet_putAll_other (cellsPut_wf cs w.1 w.2 hwf) hn
    exact ih.trans ((cellsGet_put cs w.1 pa w.2 hwf).trans (if_neg hne))

/-- A read gives what the last write to its address put there. -/
theorem cellsGet_putAll_last {pa : Nat} {v : Byte} {vs ws : List (Nat × Byte)} {cs : List Host.Cell} (hwf : cellsWf cs = true)
    (hn : pa ∉ ws.map Prod.fst) : cellsGet (putAll cs (vs ++ (pa, v) :: ws)) pa = v := by
  have hwf1 : cellsWf (putAll cs vs) = true := cellsFold_wf vs Prod.fst Prod.snd cs hwf
  rw [putAll, List.foldl_append]
  refine (cellsGet_putAll_other (cellsPut_wf (putAll cs vs) pa v hwf1) hn).trans ?_
  rw [cellsGet_put _ _ _ _ hwf1, if_pos rfl]

/-- Byte `j` of the bytes of a word. -/
theorem toBytes_extract {n j : Nat} (w : Word) (h : j < n) : (toBytes n w.toNat)[j]? = some (w.extractLsb' (8 * j) 8) := by
  have hb : BitVec.ofNat 8 (w.toNat / 256 ^ j) = w.extractLsb' (8 * j) 8 := BitVec.eq_of_toNat_eq (by
    rw [extractByte_toNat, BitVec.toNat_ofNat])
  simp [toBytes, h, hb]

/-- The last of the bytes that are written to one address stays (R242). -/
theorem cellsGet_store {as : List Nat} {w : Word} {cs : List Host.Cell} {j : Nat} (hwf : cellsWf cs = true) (hj : j < as.length)
    (hlast : ∀ k, j < k → k < as.length → as[k]? ≠ as[j]?) :
    cellsGet (putAll cs (as.zip (toBytes as.length w.toNat))) (as.getD j 0) = w.extractLsb' (8 * j) 8 := by
  have hget : (as.zip (toBytes as.length w.toNat))[j]? = some (as[j], w.extractLsb' (8 * j) 8) :=
    List.getElem?_zip_eq_some.2 ⟨List.getElem?_eq_getElem hj, toBytes_extract w hj⟩
  obtain ⟨hlt, he⟩ := List.getElem?_eq_some_iff.1 hget
  have hsplit := (List.take_append_drop j (as.zip (toBytes as.length w.toNat))).symm
  rw [List.drop_eq_getElem_cons hlt, he] at hsplit
  rw [hsplit, List.getD_eq_getElem?_getD, List.getElem?_eq_getElem hj, Option.getD_some]
  refine cellsGet_putAll_last hwf fun hm => ?_
  obtain ⟨p, hp, hpe⟩ := List.mem_map.1 hm
  obtain ⟨k, hk⟩ := List.mem_iff_getElem?.1 hp
  rw [List.getElem?_drop] at hk
  obtain ⟨hka, _⟩ := List.getElem?_zip_eq_some.1 hk
  obtain ⟨hkl, _⟩ := List.getElem?_eq_some_iff.1 hka
  refine hlast (j + 1 + k) (by omega) hkl ?_
  rw [hka, hpe, List.getElem?_eq_getElem hj]

/-! ### A store issues -/

/-- A store's spec. -/
def storeSpec (i : Instr) (x : Ctl) (rel : Bool) (d a : Reg) : Spec :=
  { x := x, gsrc := [d, a], tape := .abandon, acc := [.core], rel := rel, enc := encode i }

/-- In a quiet package nothing comes before an access. -/
theorem settled_quiet {sp : Spec} {s : State} (hq : s.Quiet) (ha : sp.acc = [.core]) : sp.settled s = s := by
  unfold Spec.settled State.settleFor
  have hflush : (if sp.rel then s.flushCore (s.context sp).who.core else s) = s := by
    split
    · exact flushWhere_none (hq.combine _) _
    · rfl
  rw [ha, hflush, List.foldl_cons, List.foldl_nil, State.settle, hq.pending]
  rfl

/-- Nor does a fence hold an access of a sequencer that knows of none. -/
theorem unblocked_quiet {sp : Spec} {s : State} (hq : s.Quiet) (ha : sp.acc = [.core]) (hf : (s.popped sp.x).mine.know.after = []) :
    (sp.settled s).blockedFor (sp.cx s) sp = false := by
  have hknow : ((sp.cx s).party s .core).know = (s.popped sp.x).mine.know :=
    congrArg (fun c : Core => (c.seq s.turn.sq).know) (core_modCore s s.turn.core fun c => c.popTokens s.turn.sq sp.x).symm
  have hnone : s.unperformed = [] := by
    rw [State.unperformed, hq.pending, hq.migration, hq.stubs]
    rfl
  rw [settled_quiet hq ha, State.blockedFor, ha]
  simp only [List.any_cons, List.any_nil, Bool.or_false, State.blocked, hnone, hknow, hf]

/-- Taking tokens changes no other sequencer. -/
theorem popped_others {s : State} {x : Ctl} {w : Who} (hw : w ≠ s.turn) : (s.popped x).seq w = s.seq w := by
  obtain ⟨_, _, hothers⟩ := popTokens_own (s.core s.turn.core) s.turn.sq x
  by_cases hc : w.core = s.turn.core
  · have hq : w.sq ≠ s.turn.sq := fun h => hw (by cases w; cases hs : s.turn; simp_all)
    have he : (s.popped x).core s.turn.core = (s.core s.turn.core).popTokens s.turn.sq x :=
      core_modCore s s.turn.core fun c => c.popTokens s.turn.sq x
    rw [State.seq, State.seq, hc, he, hothers _ hq]
  · exact congrArg (fun c : Core => c.seq w.sq) (core_modCore_ne s (fun c => c.popTokens s.turn.sq x) hc)

theorem popped_quiet {s : State} (hq : s.Quiet) (x : Ctl) : (s.popped x).Quiet :=
  ⟨⟨hq.marks, hq.combine⟩, hq.wf, hq.stubs, hq.migration, hq.pending, hq.hist⟩

/-- The access of a store whose bytes lie at `pas`. -/
def storeHeld (cx : Cx) (u : State) (rel : Bool) (ea : Nat) (pas : List (Nat × Nat)) (v : Word) : HeldAccess :=
  { cx.access u 1 ea ((addrs pas).zip (List.range pas.length)) (toBytes pas.length v.toNat) with
    rel := if rel then some (u.releaseOf cx.who) else none }

theorem storeHeld_isStore (cx : Cx) (u : State) (rel : Bool) (ea : Nat) (pas : List (Nat × Nat)) (v : Word) :
    (storeHeld cx u rel ea pas v).IsStore cx.who :=
  ⟨rfl, rfl, rfl, rfl, rfl, rfl, rfl, rfl, by simp [storeHeld, Cx.access, Actor.held, toBytes, addrs]⟩

theorem storeHeld_addrs (cx : Cx) (u : State) (rel : Bool) (ea : Nat) (pas : List (Nat × Nat)) (v : Word) :
    (storeHeld cx u rel ea pas v).bytes.map Prod.fst = addrs pas :=
  List.map_fst_zip (by simp [addrs])

theorem storeHeld_writes (cx : Cx) (u : State) (rel : Bool) (ea : Nat) (pas : List (Nat × Nat)) (v : Word) :
    (storeHeld cx u rel ea pas v).writes = (addrs pas).zip (toBytes pas.length v.toNat) := by
  rw [HeldAccess.writes, storeHeld_addrs]
  rfl

/-! ### What a store does -/

theorem deviceAt_none {pas : List (Nat × Nat)} (h : ∀ p ∈ pas, p.2 ≠ 1) : deviceAt pas = none := by
  rw [deviceAt, List.find?_eq_none.2 fun p hp => by simpa using h p hp]
  rfl

theorem exec_store (rel : Bool) (d a : Reg) (z : Sz) (h : Hint) (o : BitVec 3) (x : Ctl) (s : State) :
    exec (if rel then .stRel d a z h o x else .st d a z h o x) s
      = storeScalar (if rel then .stRel d a z h o x else .st d a z h o x) x rel d a z o s := by
  cases rel <;> rfl

/-- What a store does once it issues. -/
def storeMeaning (rel : Bool) (d a : Reg) (z : Sz) (o : BitVec 3) (cx : Cx) (s : State) : Act :=
  let ea := loadEa (s.seq cx.who) a z o
  if rel && decide (ea % 2 ^ z.code ≠ 0) then .trap Trap.illegal
  else
    storeAct cx rel ((s.seq cx.who).rg d) ea (2 ^ z.code) (s.translateBytes (cx.actor s) cx.who.core
      (s.tenOf cx.who.core) (scalarNeed Need.store (!rel) ea (2 ^ z.code)) ea (2 ^ z.code))

/-- A store of ordinary memory, aligned if it is a release, makes its access. -/
theorem storeMeaning_accesses {rel : Bool} {d a : Reg} {z : Sz} {o : BitVec 3} {cx : Cx} {s u : State} {pas : List (Nat × Nat)}
    (hw : cx.who = s.turn) (hal : rel = true → addr s a z o % 2 ^ z.code = 0) (hlen : pas.length = 2 ^ z.code)
    (hp : Rules.paged cx s (scalarNeed Need.store (!rel) (addr s a z o) (2 ^ z.code)) (addr s a z o) (2 ^ z.code) pas u)
    (hd : ∀ p ∈ pas, p.2 ≠ 1) :
    storeMeaning rel d a z o cx s = .done (u.access (storeHeld cx u rel (addr s a z o) pas (s.mine.rg d))) .next false := by
  unfold storeMeaning
  rw [seq_who hw, hw]
  refine (aligned_goes hal).trans ((congrArg (storeAct cx rel _ _ _) hp).trans ((storeAct_memory (deviceAt_none hd)).trans ?_))
  rw [storeHeld, hlen]
  rfl

theorem popped_addr (s : State) (x : Ctl) (a : Reg) (z : Sz) (o : BitVec 3) : addr (s.popped x) a z o = addr s a z o :=
  congrArg (fun v : Word => v.toNat + o.toNat * 2 ^ z.code) (popped_rg s x a)

/-- A store that nothing holds in a quiet package, whose bytes translate to `pas` in ordinary memory, the walks leaving `u`. -/
structure StoreGoes (rel : Bool) (a : Reg) (z : Sz) (o : BitVec 3) (x : Ctl) (s u : State) (pas : List (Nat × Nat)) : Prop where
  ready : s.ready x false 0 ring = true
  quiet : s.Quiet
  unfenced : (s.popped x).mine.know.after = []
  aligned : rel = true → addr s a z o % 2 ^ z.code = 0
  paged : Rules.paged (s.issuing x false 0) (s.popped x) (scalarNeed Need.store (!rel) (addr s a z o) (2 ^ z.code)) (addr s a z o)
    (2 ^ z.code) pas u
  ordinary : ∀ p ∈ pas, p.2 ≠ 1

theorem StoreGoes.length {rel : Bool} {a : Reg} {z : Sz} {o : BitVec 3} {x : Ctl} {s u : State} {pas : List (Nat × Nat)}
    (h : StoreGoes rel a z o x s u pas) : pas.length = 2 ^ z.code :=
  translateBytes_length (by positivity) (by cases z <;> decide) h.paged

theorem StoreGoes.addrs_length {rel : Bool} {a : Reg} {z : Sz} {o : BitVec 3} {x : Ctl} {s u : State} {pas : List (Nat × Nat)}
    (h : StoreGoes rel a z o x s u pas) : (addrs pas).length = 2 ^ z.code := by
  rw [addrs, List.length_map, h.length]

/-- Such a store makes its one access. -/
theorem storeScalar_accesses {i : Instr} {rel : Bool} {d a : Reg} {z : Sz} {o : BitVec 3} {x : Ctl} {s u : State} {pas : List (Nat × Nat)}
    (h : StoreGoes rel a z o x s u pas) :
    storeScalar i x rel d a z o s = .next (((u.access (storeHeld ((storeSpec i x rel d a).cx s) u rel (addr s a z o) pas (s.mine.rg d))).record
      ((storeSpec i x rel d a).cx s) (storeSpec i x rel d a)).conclude ((storeSpec i x rel d a).cx s) (storeSpec i x rel d a) .next false) := by
  have hlen := h.length
  obtain ⟨hr, hq, hf, hal, hp, hd⟩ := h
  have hset : (storeSpec i x rel d a).settled s = s := settled_quiet hq rfl
  have hstart : (storeSpec i x rel d a).start s = s := by rw [Spec.start, hset]; rfl
  have hrg : (s.popped x).mine.rg d = s.mine.rg d := popped_rg s x d
  rw [← popped_addr s x] at hal hp ⊢
  rw [← hrg]
  refine issue_done (sp := storeSpec i x rel d a) (body := storeMeaning rel d a z o) hr rfl rfl (unblocked_quiet hq rfl hf) ?_
  rw [hstart]
  exact storeMeaning_accesses rfl hal hlen hp hd

/-- What an instruction leaves of the registers, of what is on its way and of memory, from its own effect `e` on none of the sequencers. -/
theorem concluded {sp : Spec} {s e : State} {f : Flow} {p : Bool} (h : s.me.replayIssue = none) (he : e.Clear)
    (hs : ∀ w, e.seq w = (s.popped sp.x).seq w) {t : State} (ht : t = (e.record (sp.cx s) sp).conclude (sp.cx s) sp f p) :
    s.mine.sameRegs (t.seq s.turn) ∧ (∀ w, w ≠ s.turn → t.seq w = s.seq w) ∧ t.pending = e.pending ∧ t.mem.cells = e.mem.cells := by
  subst ht
  have hfollows := issue_follows sp s e f p h
  obtain ⟨_, hpend, hcells⟩ := (record_calm e (sp.cx s) sp).trans (conclude_calm (cx_replay h)) he
  refine ⟨(popped_seq s sp.x).2.trans (hs s.turn ▸ hfollows.regs), fun w hw => ?_, hpend, hcells⟩
  rw [hfollows.seqs w hw, hs, popped_others hw]

/-- The state that a translation for a store leaves is quiet, and has the memory and the sequencers of the one before. -/
theorem paged_quiet {cx : Cx} {s u : State} {need : Need} {ea n : Nat} {pas : List (Nat × Nat)} (hq : s.Quiet)
    (hp : Rules.paged cx s need ea n pas u) : u.Quiet ∧ u.mem.cells = s.mem.cells ∧ ∀ w, u.seq w = s.seq w := by
  have hlooks : Looks s (s.translateBytes (cx.actor s) s.turn.core (s.tenOf s.turn.core) need ea n).2 := translateUnits_looks _ _ _ _ _ s _ _
  rw [hp] at hlooks
  have hquiet := hlooks.quiet hq
  obtain ⟨_, _, _, _, rfl⟩ := hlooks hq.toClear
  exact ⟨hquiet, rfl, fun _ => rfl⟩

theorem Wrote.clear {s t : State} {ws : List (Nat × Byte)} (h : Wrote s t ws) (hs : s.Clear) : t.Clear :=
  ⟨h.marks.trans hs.marks, fun die => by rw [h.combine]; exact hs.combine die⟩

theorem Sent.clear {s t : State} {ps : List HeldAccess} (h : Sent s t ps) (hs : s.Clear) : t.Clear :=
  ⟨by rw [h.mem]; exact hs.marks, fun die => by rw [h.combine]; exact hs.combine die⟩

/-- A store inside one granule writes its bytes (R225, R242). -/
theorem store_wrote {u : State} {h : HeldAccess} {w : Who} {as : List Nat} (hu : u.Quiet) (hs : h.IsStore w)
    (ha : h.bytes.map Prod.fst = as) (hn : as ≠ []) (hg : ∀ pa ∈ as, pa / 8 = as.headD 0 / 8) : Wrote u (u.access h) h.writes :=
  access_granule (g := as.headD 0 / 8) hs hu (fun he => hn (by rw [← ha, he]; rfl)) fun b hb => hg b.1 (ha ▸ List.mem_map_of_mem hb)

/-- Memory after the bytes of a word have been written. -/
theorem cellsGet_stored {as : List Nat} {v : Word} {cs : List Host.Cell} (hwf : cellsWf cs = true) :
    (∀ pa, pa ∉ as → cellsGet (putAll cs (as.zip (toBytes as.length v.toNat))) pa = cellsGet cs pa)
      ∧ ∀ j, j < as.length → (∀ k, j < k → k < as.length → as[k]? ≠ as[j]?) →
        cellsGet (putAll cs (as.zip (toBytes as.length v.toNat))) (as.getD j 0) = v.extractLsb' (8 * j) 8 := by
  have hfst : (as.zip (toBytes as.length v.toNat)).map Prod.fst = as := List.map_fst_zip (by simp [toBytes])
  exact ⟨fun pa hpa => cellsGet_putAll_other hwf (hfst.symm ▸ hpa), fun j hj hlast => cellsGet_store hwf hj hlast⟩

/-- The pieces of a store that crosses granules. -/
theorem store_sent {u : State} {h : HeldAccess} {w : Who} {as : List Nat} (hu : u.Quiet) (hs : h.IsStore w)
    (ha : h.bytes.map Prod.fst = as) (hg : ¬ ∀ pa ∈ as, pa / 8 = as.headD 0 / 8) :
    Sent u (u.access h) (((as.map (· / 8)).eraseDups).map (h.pieceAt (· / 8))) := by
  have hkind : h.kind ≠ 2 := by rw [hs.kind]; decide
  have hsplit : u.splitOf h = ((as.map (· / 8)).eraseDups).map (h.pieceAt (· / 8)) := by
    rw [splitOf_granules (.inr ⟨hu.marks, fun b _ => homeOf_still hu.stubs hu.migration _ _⟩), splitBy_pieces hkind, ← ha, List.map_map]
    rfl
  rw [← hsplit]
  refine access_sent hu fun hone => hg ?_
  rw [hsplit, List.length_map, List.length_eq_one_iff] at hone
  obtain ⟨g, hone⟩ := hone
  have hall : ∀ pa ∈ as, pa / 8 = g := fun pa hpa =>
    List.mem_singleton.1 (hone ▸ List.mem_eraseDups.2 (List.mem_map_of_mem (f := (· / 8)) hpa))
  intro pa hpa
  cases as with
  | nil => cases hpa
  | cons b bs => rw [hall pa hpa, List.headD_cons, hall b List.mem_cons_self]

/-- Each piece is the party's write inside one granule. -/
theorem piece_granule {h p : HeldAccess} {w : Who} {gs : List Nat} (hs : h.IsStore w) (hp : p ∈ gs.map (h.pieceAt (· / 8))) :
    p.who = some w ∧ p.kind = 1 ∧ ∀ b ∈ p.bytes, b.1 / 8 = (p.bytes.headD (0, 0)).1 / 8 := by
  obtain ⟨g, _, rfl⟩ := List.mem_map.1 hp
  have hg : ∀ b ∈ (h.pieceAt (· / 8) g).bytes, b.1 / 8 = g := fun b hb => by
    rw [pieceAt_bytes] at hb
    simpa using (List.mem_filter.1 hb).2
  refine ⟨hs.who, hs.kind, fun b hb => (hg b hb).trans ?_⟩
  cases hbs : (h.pieceAt (· / 8) g).bytes with
  | nil => rw [hbs] at hb; cases hb
  | cons c cs => exact (hg c (hbs ▸ List.mem_cons_self)).symm

/-! ### Stores and stale translations -/

/-- The bytes that two runs in 64 KiB units write have their granules in order. -/
theorem runs_grouped {pa qa m n mt nt : Nat} (h1 : (pa + m) % 65536 = 0) (h2 : qa % 65536 = 0) (hm : m < 65536) (hn : n < 65536) (hmn : m + n ≤ 8) :
    Grouped ((addrs (byteRun pa mt m ++ byteRun qa nt n)).map (· / 8)) := by
  have hrun : ∀ p t k, (addrs (byteRun p t k)).map (· / 8) = (List.range k).map fun i => (p + i) / 8 := fun p t k => by
    rw [byteRun_addrs, addrsFrom, List.map_map]
    rfl
  rw [addrs, List.map_append, List.map_append]
  refine Grouped.append ?_ ?_ ?_
  · exact (hrun pa mt m).symm ▸ Grouped.run pa m
  · exact (hrun qa nt n).symm ▸ Grouped.run qa n
  · intro g hg hg'
    obtain ⟨i, hi, rfl⟩ := List.mem_map.1 ((hrun pa mt m) ▸ hg)
    obtain ⟨j, hj, he⟩ := List.mem_map.1 ((hrun qa nt n) ▸ hg')
    have := List.mem_range.1 hi
    have := List.mem_range.1 hj
    omega

/-- So have those of every short access that takes no translation from before its entry changed. -/
theorem paged_grouped {cx : Cx} {s u : State} {need : Need} {ea n : Nat} {pas : List (Nat × Nat)} (hf : Config.staleUse cx.stamp 0 = false)
    (hn : n ≠ 0) (h8 : n ≤ 8) (hp : Rules.paged cx s need ea n pas u) : Grouped ((addrs pas).map (· / 8)) := by
  rcases translateBytes_runs hn (by omega) hp with ⟨pa, mt, rfl⟩ | ⟨m, pa, mt, qa, nt, v, hm, hz, h1, h2, rfl⟩
  · rw [byteRun_addrs, addrsFrom, List.map_map]
    exact Grouped.run pa n
  · have e1 := translate_fresh (a := cx.actor s) rfl hf h1
    have e2 := translate_fresh (a := cx.actor s) rfl hf h2
    exact runs_grouped (by omega) (by omega) (by omega) (by omega) (by omega)

/-- Where equal granules stand together, the pieces in order write what the store writes, in order. -/
theorem Grouped.flatMap_zip {as : List Nat} {bs : List Byte} (hl : as.length ≤ bs.length) (hg : Grouped (as.map (· / 8))) :
    ((as.map (· / 8)).eraseDups).flatMap (fun g => (as.zip bs).filter fun w => w.1 / 8 == g) = as.zip bs := by
  have hkeys : as.map (· / 8) = (as.zip bs).map fun w => w.1 / 8 := by
    rw [← List.map_fst_zip hl, List.map_map, List.map_fst_zip hl]
    rfl
  rw [hkeys] at hg ⊢
  exact hg.flatMap_filter

/-- What a store leaves, from what its access `held` leaves where the walks have left `u`. -/
theorem exec_storeGoes {rel : Bool} {a : Reg} {z : Sz} {o : BitVec 3} {x : Ctl} {s u : State} {pas : List (Nat × Nat)}
    (hs : StoreGoes rel a z o x s u pas) (d : Reg) (h : Hint) :
    ∃ (t : State) (held : HeldAccess), exec (if rel then .stRel d a z h o x else .st d a z h o x) s = .next t
      ∧ held.IsStore s.turn ∧ held.bytes.map Prod.fst = addrs pas ∧ held.writes = (addrs pas).zip (toBytes (2 ^ z.code) (s.mine.rg d).toNat)
      ∧ u.Quiet ∧ u.mem.cells = s.mem.cells
      ∧ ((u.access held).Clear → (∀ w, (u.access held).seq w = u.seq w) → s.mine.sameRegs (t.seq s.turn)
        ∧ (∀ w, w ≠ s.turn → t.seq w = s.seq w) ∧ t.pending = (u.access held).pending ∧ t.mem.cells = (u.access held).mem.cells) := by
  obtain ⟨hu, huc, hus⟩ := paged_quiet (popped_quiet hs.quiet x) hs.paged
  refine ⟨_, _, (exec_store rel d a z h o x s).trans (storeScalar_accesses hs), storeHeld_isStore .., storeHeld_addrs .., ?_, hu, huc,
    fun hc hseq => concluded (ready_parts hs.ready).1 hc (fun w => (hseq w).trans (hus w)) rfl⟩
  rw [storeHeld_writes, hs.length]

/-- A store inside one granule. -/
theorem exec_storeGranule {rel : Bool} {a : Reg} {z : Sz} {o : BitVec 3} {x : Ctl} {s u : State} {pas : List (Nat × Nat)}
    (hs : StoreGoes rel a z o x s u pas) (d : Reg) (h : Hint) (hg : ∀ pa ∈ addrs pas, pa / 8 = (addrs pas).headD 0 / 8) :
    ∃ t, exec (if rel then .stRel d a z h o x else .st d a z h o x) s = .next t
      ∧ s.mine.sameRegs (t.seq s.turn) ∧ (∀ w, w ≠ s.turn → t.seq w = s.seq w) ∧ t.pending = []
      ∧ t.mem.cells = putAll s.mem.cells ((addrs pas).zip (toBytes (2 ^ z.code) (s.mine.rg d).toNat)) := by
  obtain ⟨t, held, hexec, hstore, haddrs, hwrites, hu, huc, hleaves⟩ := exec_storeGoes hs d h
  have hne : addrs pas ≠ [] := by
    intro he
    have hlen := hs.addrs_length
    rw [he] at hlen
    exact absurd hlen.symm (by positivity)
  have hw := store_wrote hu hstore haddrs hne hg
  obtain ⟨hregs, hothers, hpt, hct⟩ := hleaves (hw.clear hu.toClear) hw.seq
  exact ⟨t, hexec, hregs, hothers, hpt.trans (hw.pending.trans hu.pending), by rw [hct, hw.cells, hwrites, huc]⟩

/-- A store that crosses granules: one piece for each, in the order in which the granules first come. -/
theorem exec_storePieces {rel : Bool} {a : Reg} {z : Sz} {o : BitVec 3} {x : Ctl} {s u : State} {pas : List (Nat × Nat)}
    (hs : StoreGoes rel a z o x s u pas) (d : Reg) (h : Hint) (hg : ¬ ∀ pa ∈ addrs pas, pa / 8 = (addrs pas).headD 0 / 8) :
    ∃ t, exec (if rel then .stRel d a z h o x else .st d a z h o x) s = .next t
      ∧ s.mine.sameRegs (t.seq s.turn) ∧ (∀ w, w ≠ s.turn → t.seq w = s.seq w) ∧ t.mem.cells = s.mem.cells
      ∧ t.pending.flatMap HeldAccess.writes = (((addrs pas).map (· / 8)).eraseDups).flatMap (fun g =>
        ((addrs pas).zip (toBytes (2 ^ z.code) (s.mine.rg d).toNat)).filter fun w => w.1 / 8 == g)
      ∧ ∀ p ∈ t.pending, p.who = some s.turn ∧ p.kind = 1 ∧ ∀ b ∈ p.bytes, b.1 / 8 = (p.bytes.headD (0, 0)).1 / 8 := by
  obtain ⟨t, held, hexec, hstore, haddrs, hwrites, hu, huc, hleaves⟩ := exec_storeGoes hs d h
  have hsent := store_sent hu hstore haddrs hg
  obtain ⟨hregs, hothers, hpt, hct⟩ := hleaves (hsent.clear hu.toClear) hsent.seq
  have hpending := hpt.trans (hsent.pending.trans (by rw [hu.pending, List.nil_append]))
  refine ⟨t, hexec, hregs, hothers, hct.trans (by rw [hsent.mem, huc]), ?_, fun p hp => piece_granule hstore (hpending ▸ hp)⟩
  rw [hpending, List.flatMap_map, ← hwrites]
  exact List.flatMap_congr fun g _ => pieceAt_writes hstore.kind hstore.length _ g

/-- Where no access takes a translation from before its entry changed, a store writes its bytes and no others. -/
theorem storedBytes_of_fresh (hf : ∀ n, Config.staleUse n 0 = false) : Obligations.StoredBytes := by
  intro rel d a z h o x s u pas hr hwf hmarks hstubs hmig hpend hafter hcomb hhist hal hp hd
  have hs : StoreGoes rel a z o x s u pas := ⟨hr, ⟨⟨hmarks, hcomb⟩, hwf, hstubs, hmig, hpend, hhist⟩, hafter, hal, hp, hd⟩
  have hlen : (addrs pas).length = 2 ^ z.code := hs.addrs_length
  have hgran : (∀ p ∈ pas, p.1 / 8 = (addrs pas).headD 0 / 8) ↔ ∀ pa ∈ addrs pas, pa / 8 = (addrs pas).headD 0 / 8 := by
    simp [addrs]
  by_cases hg : ∀ pa ∈ addrs pas, pa / 8 = (addrs pas).headD 0 / 8
  · obtain ⟨t, hexec, hregs, hothers, hpending, hcells⟩ := exec_storeGranule hs d h hg
    refine ⟨t, hexec, hregs, hothers, ?_⟩
    rw [if_pos (hgran.2 hg), hcells, ← hlen]
    exact ⟨hpending, cellsGet_stored hwf⟩
  · obtain ⟨t, hexec, hregs, hothers, hcells, hwrites, hpieces⟩ := exec_storePieces hs d h hg
    refine ⟨t, hexec, hregs, hothers, ?_⟩
    rw [if_neg (mt hgran.1 hg), hcells]
    refine ⟨fun _ => rfl, hwrites.trans ?_, hpieces⟩
    exact Grouped.flatMap_zip (by simp [toBytes, hlen]) (paged_grouped (hf _) (by positivity) (by cases z <;> decide) hp)

/-! ### A store by stale translations -/

/-- An access that takes the one translation that a TLB holds from before its entry changed. -/
theorem translate_stale {s : State} {a : Actor} {c : CoreId} {ten : BitVec 8} {need : Need} {va : Nat} {e : TlbEntry} (ha : a.cls = .core)
    (hs : Config.staleUse a.stamp 0 = true) (hp : s.physical = false) (hc : canonical va = true) (ht : (s.tens.get ten.toFin).on = true)
    (hh : s.tlbHeld c ten va = [e]) (he : ¬ e.leaf.Aligned) :
    ∃ u, Sees s u ∧ s.translate a c ten need va = (u.leafCheck e.leaf ten need va, u) := by
  have hsees := walk_sees c (s.ordered { a with cls := .core }) va 3 (s.tens.get ten.toFin).root s
  have haligned : ∀ l, (s.walk c (s.ordered { a with cls := .core }) va 3 (s.tens.get ten.toFin).root).1 = .ok l → l.Aligned :=
    fun l => walk_aligned 3 _ s
  unfold State.translate
  simp only [hp, hc, ht, hh, ha, Bool.false_eq_true, if_false, Bool.not_true, beq_self_eq_true, if_true, hs, Bool.and_true]
  generalize s.walk c (s.ordered { a with cls := .core }) va 3 (s.tens.get ten.toFin).root = r at hsees haligned
  obtain ⟨v, u⟩ := r
  dsimp only at hsees haligned ⊢
  refine ⟨u.freeNat.2, hsees.trans (Sees.of_free u (u.free + 1)), ?_⟩
  cases v with
  | error d => simp [State.freeNat, Nat.mod_one]
  | ok l =>
    have hne : e.leaf ≠ l := fun h => he (h ▸ haligned l rfl)
    simp [State.freeNat, Nat.mod_one, hne]

/-- One unit of an access, and the rest. -/
theorem translateUnits_step {s v u : State} {a : Actor} {c : CoreId} {ten : BitVec 8} {need : Need} {fuel va n pa mt : Nat}
    {rest : List (Nat × Nat)} (hn : n ≠ 0) (h : s.translate a c ten need va = (.ok (pa, mt), v))
    (hr : v.translateUnits a c ten need fuel (va + min n (65536 - va % 65536)) (n - min n (65536 - va % 65536)) = (.ok rest, u)) :
    s.translateUnits a c ten need (fuel + 1) va n = (.ok (byteRun pa mt (min n (65536 - va % 65536)) ++ rest), u) := by
  rw [State.translateUnits, if_neg hn, h]
  dsimp only
  rw [hr]
  rfl

/-- A translation of a page of 64 KiB that is not aligned. -/
def oddEntry (va pa : Nat) : TlbEntry := { cluster := clusterOf 0, ten := 0, va := va, size := 65536, pa := pa, perms := 7, mt := 0 }

theorem oddEntry_unaligned {va pa : Nat} (h : pa % 65536 ≠ 0) : ¬ (oddEntry va pa).leaf.Aligned :=
  fun ha => h (Nat.mod_eq_zero_of_dvd ha.pa)

/-- The package of `dataPlaced`, where core 0 holds such translations of the first two pages of 64 KiB and has in g2 an address four bytes
before the second; `n` is the stamp of what issues next. -/
def crossed (n : Nat) : State :=
  let s := dataPlaced.modSeq dataPlaced.turn fun v => { v with g := v.g.set 2 0xFFFC }
  { s with stamp := n, mem := { s.mem with utlb := [(0, oddEntry 0 0x40000002), (0, oddEntry 0x10000 0x4000FFF8)], tlb := [] } }

/-- Its translations, as they stand after reads. -/
structure Odd (s : State) : Prop where
  walks : s.physical = false
  clear : s.Clear
  on : (s.tens.get (0 : BitVec 8).toFin).on = true
  first : s.tlbHeld 0 0 0xFFFC = [oddEntry 0 0x40000002]
  second : s.tlbHeld 0 0 0x10000 = [oddEntry 0x10000 0x4000FFF8]

theorem Sees.odd {s t : State} (h : Sees s t) (ho : Odd s) : Odd t := by
  obtain ⟨_, _, rfl⟩ := h ho.clear
  obtain ⟨hp, ⟨hmarks, hcomb⟩, hon, h1, h2⟩ := ho
  exact ⟨hp, ⟨hmarks, hcomb⟩, hon, h1, h2⟩

theorem crossed_odd (n : Nat) : Odd ((crossed n).popped Ctl.plain) := by
  have h : ((crossed 0).popped Ctl.plain).physical = false ∧ ((crossed 0).popped Ctl.plain).mem.marks = []
    ∧ (∀ die, ((crossed 0).popped Ctl.plain).combine.get die = []) ∧ (((crossed 0).popped Ctl.plain).tens.get (0 : BitVec 8).toFin).on = true
    ∧ ((crossed 0).popped Ctl.plain).tlbHeld 0 0 0xFFFC = [oddEntry 0 0x40000002]
    ∧ ((crossed 0).popped Ctl.plain).tlbHeld 0 0 0x10000 = [oddEntry 0x10000 0x4000FFF8] := by decide +kernel
  obtain ⟨hp, hmarks, hcomb, hon, h1, h2⟩ := h
  exact ⟨hp, ⟨hmarks, hcomb⟩, hon, h1, h2⟩

/-- The pages that a store of 8 bytes needs there. -/
def crossedNeed : Need := scalarNeed Need.store true 0xFFFC 8

/-- Where its bytes lie: a granule comes back. -/
def crossedPas : List (Nat × Nat) := byteRun 0x4000FFFE 0 4 ++ byteRun 0x4000FFF8 0 4

theorem leafCheck_odd {s : State} {va pa ea : Nat} (hp : isHbm (pa + ea % 65536) = true) (hr : inRegRange (pa + ea % 65536) = false) :
    s.leafCheck (oddEntry va pa).leaf 0 crossedNeed ea = .ok (pa + ea % 65536, 0) := by
  have hpop : s.populated (pa + ea % 65536) = true := by rw [State.populated, hp]; rfl
  unfold State.leafCheck
  simp [oddEntry, TlbEntry.leaf, hpop, hr, crossedNeed, scalarNeed, Need.store]

theorem odd_translates {s : State} {a : Actor} (ho : Odd s) (ha : a.cls = .core) (hs : Config.staleUse a.stamp 0 = true) :
    ∃ u, s.translateBytes a 0 0 crossedNeed 0xFFFC 8 = (.ok crossedPas, u) := by
  obtain ⟨v, hv, h1⟩ := translate_stale (need := crossedNeed) ha hs ho.walks (by decide) ho.on ho.first (oddEntry_unaligned (by decide))
  obtain ⟨u, hu, h2⟩ := translate_stale (need := crossedNeed) ha hs (hv.odd ho).walks (by decide) (hv.odd ho).on (hv.odd ho).second
    (oddEntry_unaligned (by decide))
  rw [leafCheck_odd (by decide) (by decide)] at h1 h2
  exact ⟨u, translateUnits_step (by decide) h1 (translateUnits_step (by decide) h2 rfl)⟩

theorem crossed_ready (n : Nat) : (crossed n).ready Ctl.plain false 0 ring = true :=
  have h : (crossed 0).ready Ctl.plain false 0 ring = true := by decide +kernel
  h

theorem crossed_quiet (n : Nat) : (crossed n).mem.wf = true ∧ (crossed n).mem.marks = [] ∧ (crossed n).stubs = []
    ∧ (crossed n).migration = none ∧ (crossed n).pending = [] ∧ ((crossed n).popped Ctl.plain).mine.know.after = []
    ∧ (∀ die, (crossed n).combine.get die = []) ∧ (crossed n).mem.hist = [] :=
  have h : (crossed 0).mem.wf = true ∧ (crossed 0).mem.marks = [] ∧ (crossed 0).stubs = []
    ∧ (crossed 0).migration = none ∧ (crossed 0).pending = [] ∧ ((crossed 0).popped Ctl.plain).mine.know.after = []
    ∧ (∀ die, (crossed 0).combine.get die = []) ∧ (crossed 0).mem.hist = [] := by decide +kernel
  h

theorem crossed_addr (n : Nat) : addr (crossed n) 2 .d 0 = 0xFFFC :=
  have h : addr (crossed 0) 2 .d 0 = 0xFFFC := by decide +kernel
  h

/-- The store goes, if its access takes the translations that the core holds. -/
theorem crossed_goes {n : Nat} (hs : Config.staleUse n 0 = true) : ∃ u, StoreGoes false 2 .d 0 Ctl.plain (crossed n) u crossedPas := by
  obtain ⟨hwf, hmarks, hstubs, hmig, hpend, hafter, hcomb, hhist⟩ := crossed_quiet n
  obtain ⟨u, hu⟩ := odd_translates (a := ((crossed n).issuing Ctl.plain false 0).actor ((crossed n).popped Ctl.plain)) (crossed_odd n) rfl hs
  refine ⟨u, crossed_ready n, ⟨⟨hmarks, hcomb⟩, hwf, hstubs, hmig, hpend, hhist ▸ List.forall_mem_nil _⟩, hafter, nofun, ?_, by decide⟩
  rw [crossed_addr]
  exact hu

/-- Such a store writes the pieces of its first granule together, though they do not stand together. -/
theorem not_storedBytes_of_stale {n : Nat} (hs : Config.staleUse n 0 = true) : ¬ Obligations.StoredBytes := by
  intro hstored
  obtain ⟨u, hgoes⟩ := crossed_goes hs
  have hcross : ¬ ∀ pa ∈ addrs crossedPas, pa / 8 = (addrs crossedPas).headD 0 / 8 := by decide
  obtain ⟨t, hexec, _, _, _, hwrites, _⟩ := exec_storePieces hgoes 0 .default hcross
  obtain ⟨hready, hq, hafter, hal, hp, hd⟩ := hgoes
  obtain ⟨t', hexec', _, _, hrest⟩ := hstored false 0 2 .d .default 0 Ctl.plain (crossed n) u crossedPas hready hq.wf hq.marks hq.stubs
    hq.migration hq.pending hafter hq.combine hq.hist hal hp hd
  cases hexec.symm.trans hexec'
  rw [if_neg (by decide)] at hrest
  obtain ⟨_, hinOrder, _⟩ := hrest
  have hzero : (crossed n).mine.rg 0 = 0 := rfl
  have hsame := hwrites.symm.trans hinOrder
  rw [hzero] at hsame
  exact absurd hsame (by decide)

/-- O23 holds just where no access takes a translation from before its entry changed, which the model leaves open (log entry 19). -/
theorem storedBytes_iff : Obligations.StoredBytes ↔ ∀ n, Config.staleUse n 0 = false := by
  refine ⟨fun h n => ?_, storedBytes_of_fresh⟩
  cases hs : Config.staleUse n 0 with
  | false => rfl
  | true => exact absurd h (not_storedBytes_of_stale hs)

end Sys2Proof.Machine
end
